-- ==== Sys2Proof/Word.lean ====
section
/-! DEFINITION. The word types of the device and the plainest operations on them (spec/00_scope.md R3, spec/01_instruction_words.md R4). -/

namespace Sys2Proof

/-- One byte. -/
abbrev Byte := BitVec 8

/-- A 32-bit word: an instruction word, a lane of a vector register, a scalar. -/
abbrev Word := BitVec 32

/-- A 64-bit word: an address, a register pair, a sluice. -/
abbrev DWord := BitVec 64

/-- One bit for each of the 32 lanes of a warp. -/
abbrev LaneMask := BitVec 32

/-- The 32 lane indices in ascending order. -/
def laneList : List Nat := List.range 32

/-- Lane L is in the mask. -/
def inMask (m : LaneMask) (L : Nat) : Bool := m.getLsbD L

/-- The mask of the lanes that satisfy p. -/
def maskOf (p : Nat → Bool) : LaneMask :=
  laneList.foldl (fun m L => if p L then m ||| BitVec.ofNat 32 (2 ^ L) else m) 0

/-- The lowest lane of a mask; 0 when it is empty. -/
def lowestLane (m : LaneMask) : Nat :=
  (laneList.find? (inMask m)).getD 0

/-- The pair of two words, the first in the low half (spec/01 R17). -/
def pairOf (lo hi : Word) : DWord := hi ++ lo

/-- The low word of a pair. -/
def loWord (x : DWord) : Word := x.extractLsb' 0 32

/-- The high word of a pair. -/
def hiWord (x : DWord) : Word := x.extractLsb' 32 32

end Sys2Proof
end

