-- ==== Sys2Proof/Config.lean ====
section
/-! DEFINITION. What is fixed for the WFL-9140-M, and the free values: constants without a body for everything the manual leaves open or takes from a cipher standard (notes/assumptions/3.md, 5.md, 6.md). -/

namespace Sys2Proof.Config

/-- Cores of the die (spec/00_scope.md R2). -/
def nCores : Nat := 24
/-- Clusters of the die: four cores each. -/
def nClusters : Nat := 6
/-- Bytes of HBM (spec/12_package.md R329). -/
def hbmBytes : Nat := 0x8000000000
/-- Key slots (R330). -/
def nKeySlots : Nat := 2048
/-- Records the dispatcher holds (R283). -/
def maxRecords : Nat := 4096
/-- Entries of a core's outstanding request table (R141). -/
def requestEntries : Nat := 2048
/-- Lines of 128 bytes that a slice of L2 holds: 2 MiB (spec/00_scope.md R2). -/
def sliceLines : Nat := 16384
/-- Lines of a core's L1 and scratchpad together: 320 KiB (spec/00_scope.md R2, spec/05_core.md R162). -/
def arrayLines : Nat := 2560
/-- Issue units a live split issues before it rotates (R69). -/
def rotateUnits : Nat := 256
/-- Queue-stalled cycles before QDEAD (R151). -/
def qdeadCycles : Nat := 4096
/-- Longest skid of a halted team's live split (R299). -/
def maxSkid : Nat := 16
/-- Entries of a split table (R58). -/
def tableEntries : Nat := 8

/-- An undefined value: the tag is fresh for each event that leaves values undefined, the key names the place. -/
opaque freeBits (tag key : Nat) : BitVec 64
/-- A choice the manual leaves open. -/
opaque freeBool (tag key : Nat) : Bool

/-- What a byte of HBM reads as under a key other than the one its line was written under (R330): the key read under, the
key written under, the physical address, and the 128-byte line as memory holds it under the latter. -/
opaque aliasByte (key written pa : Nat) (line : List Byte) : Byte

/-- The result of a correctly rounded function where the interval of Machine/MathFn.lean does not settle it. -/
opaque unresolved (op : Nat) (x : BitVec 32) : BitVec 32

/-- SM3 digest (R341, R345). -/
opaque sm3 (msg : List Byte) : BitVec 256
/-- SM2 verification of a signature over a digest under a public key (R341, R342, R345). -/
opaque sm2Verify (pub : BitVec 512) (digest : BitVec 256) (sig : BitVec 512) : Bool
/-- SM2 signature with the device identity key (R341). -/
opaque sm2Sign (digest : BitVec 256) : BitVec 512
/-- The public half of the device identity key, generated in Provisioning (R341). -/
opaque identityPub : BitVec 512
/-- The vendor key held in fuses as a digest (R341). -/
opaque vendorKeyDigest : BitVec 256
/-- The key agreed by SM2 key exchange (R332): the counter of the device's ephemeral key, the host's ephemeral key. -/
opaque transportKey (eph : Nat) (host : BitVec 512) : BitVec 128
/-- The device's ephemeral public key number n (R332). -/
opaque ephemeralPub (n : Nat) : BitVec 512
/-- SM4-GCM opening of the staged key blob under a transport key (R332): the key material when the tag checks. -/
opaque gcmOpen (key : BitVec 128) (blob : BitVec 1024) : Option (BitVec 512)
/-- Flits that the receive buffer of a traffic class holds, and its low and high watermarks (spec/13_fabric.md R356). -/
opaque rxFull (cls : Nat) : Nat
opaque rxLow (cls : Nat) : Nat
opaque rxHigh (cls : Nat) : Nat
/-- The salt of one direction of a link, from the n-th key agreement of the device's ports (spec/13_fabric.md R354). -/
opaque linkSalt (n : Nat) (transmit : Bool) : BitVec 32
/-- The tag of a window (R353, R354): the cipher (true AES-256-GCM), the key agreement, the IV, the additional data, and the headers of the packets in its flits. -/
opaque linkTag (aes : Bool) (n : Nat) (iv : BitVec 96) (aad : BitVec 160) (flits : List (BitVec 256)) : BitVec 96
/-- OPC of a collective packet or an agreement packet, by kind: R361 gives that field for requests and responses only. -/
opaque packetOpc (kind : Nat) : BitVec 8
/-- The device's random source (R345): the n-th value drawn. -/
opaque randomSource (n : Nat) : BitVec 256

end Sys2Proof.Config
end

