-- ==== Sys2Proof/Syntax.lean ====
section
/-! DEFINITION. The instructions and events of the device: one constructor of Instr for each row of spec/opcode_table.json. Rows with an encoding carry the fields of their word; rows without one are events, and carry what the event brings with it. -/

namespace Sys2Proof

/-- The fault service's answer to a page request (spec/05 R155): the requester (a core 0-23, 24 the dispatcher or Confluence, 25 the fabric unit), the job, the 64 KiB page number, and whether the page was made present. -/
structure PageAnswer where
  core : Nat
  job : Nat
  page : Nat
  present : Bool
  deriving DecidableEq, Repr

/-- Where an uncorrectable error lies (spec/05 R169, spec/08 R227, spec/11 R321, R327). Lines are physical line numbers; copyL2 is a read-only copy in a crossbar sector (R325). -/
inductive EccSite where
  | teamStorage (t : Nat)
  | cleanL1 (core line : Nat)
  | dirtyL1 (core line : Nat)
  | unowned (core : Nat)
  | tile (cluster tile : Nat)
  | cleanL2 (line : Nat)
  | copyL2 (line sector : Nat)
  | dirtyL2 (line : Nat)
  | pool (pa : Nat)
  deriving DecidableEq, Repr

/-- A host access through BAR2 (spec/12 R331): physical address, number of bytes, and the bytes of a write. -/
structure HostAccess where
  pa : Nat
  len : Nat
  write : Option (List Byte)
  deriving DecidableEq, Repr

/-- What power-up finds (spec/12 R341, spec/13 R350): the firmware image, its signature, the vendor key, and the port modes and ciphers (true: AES-256-GCM) of the signed boot configuration. -/
structure BootImage where
  image : List Byte
  sig : BitVec 512
  vendorKey : BitVec 512
  portModes : List (BitVec 2)
  portCiphers : List Bool
  deriving DecidableEq, Repr

/-- A request packet (spec/13 R361): header fields, the source warp that the requester's tag identifies, and for each lane of MASK its address and data. -/
structure Packet where
  dest : Nat
  src : Nat
  warp : Nat
  job : Nat
  opc : Nat
  stream : Nat
  seq : Nat
  req : Nat
  lanes : List (Nat × BitVec 64 × List (BitVec 64))
  deriving DecidableEq, Repr

/-- A response packet (spec/13 R362): the request it answers, and for each lane a cause (0 none) and the data. -/
structure Response where
  req : Nat
  lanes : List (Nat × BitVec 8 × BitVec 64)
  deriving DecidableEq, Repr

/-- A remote RMA request of Ultra Ethernet (spec/13 R372). -/
structure UeRequest where
  rkey : BitVec 32
  uetJob : BitVec 32
  offset : Nat
  len : Nat
  write : Option (List Byte)
  deriving DecidableEq, Repr

/-- What a collective packet brings: a member's contribution, its fault notice (R411), or a final result forwarded by a holder (R379). -/
inductive CollBody where
  | input (elems : List (BitVec 32))
  | fault
  | result (elems : List (BitVec 32))
  deriving DecidableEq, Repr

/-- A collective packet (spec/13 R361, R374-R375), with the flits it takes on a link. -/
structure CollPacket where
  group : Nat
  vtag : BitVec 16
  src : Nat
  seq : BitVec 32
  digest : BitVec 32
  body : CollBody
  flits : Nat
  deriving DecidableEq, Repr

/-- How a commit settles one collective (spec/13 R379): the rank that holds the final result, if any. -/
structure Decision where
  seq : BitVec 32
  holder : Option Nat
  deriving DecidableEq, Repr

/-- An agreement message (spec/13 R377-R380): group, the view the sender's group stands at, sender, attempt, bitmap of the proposed view, the ranks it names (a suspect, a sender's suspicions, a joiner or leaver), the collectives not complete at the sender with whether it holds the result, the decisions of a commit, the sequence number a joiner takes, and whether a join request asks to leave. -/
structure ViewMsg where
  group : Nat
  view : BitVec 32
  src : Nat
  attempt : Nat
  bitmap : BitVec 4096
  names : List Nat
  holds : List (BitVec 32 × Bool)
  decisions : List Decision
  seq : BitVec 32
  leave : Bool
  deriving DecidableEq, Repr

/-- A packet that a received window carries, treated by the receive mode (spec/13 R355). -/
inductive WindowItem where
  | request (p : Packet)
  | response (r : Response)
  | collective (p : CollPacket)
  | suspect (m : ViewMsg)
  | propose (m : ViewMsg)
  | accept (m : ViewMsg)
  | commit (m : ViewMsg)
  | join (m : ViewMsg)
  deriving DecidableEq, Repr

/-- A received Agulanel window (spec/13 R353-R355): the fields of its trailer (CTR, ACK, WM, NACK, KPH), whether its tag verifies, and the packets it completes. -/
structure Window where
  ctr : Nat
  ack : BitVec 32
  wm : BitVec 8
  nack : Bool
  kph : Bool
  tagGood : Bool
  items : List WindowItem
  deriving DecidableEq, Repr


/-- Format A: destination and two operand specifiers (spec/01 R5). -/
structure FmtA where
  g : BitVec 4
  d : BitVec 6
  a : BitVec 7
  b : BitVec 7
  deriving DecidableEq, Repr

/-- Format A with B fixed, or format B with m fixed: destination and one operand specifier (R5, R20). -/
structure FmtU where
  g : BitVec 4
  d : BitVec 6
  a : BitVec 7
  deriving DecidableEq, Repr

/-- Format M (R7). -/
structure FmtM where
  g : BitVec 4
  d : BitVec 6
  a : BitVec 7
  order : BitVec 2
  scope : BitVec 3
  cache : BitVec 2
  deriving DecidableEq, Repr

/-- Format C: a guard and a signed word offset (R6). -/
structure FmtC where
  g : BitVec 4
  off : BitVec 20
  deriving DecidableEq, Repr

/-- Format F (R8). -/
structure FmtF where
  g : BitVec 4
  d : BitVec 6
  a : BitVec 7
  peer : BitVec 7
  deriving DecidableEq, Repr

/-- The compare layout of format B (spec/04 R114). -/
structure FmtCmp where
  g : BitVec 4
  src : BitVec 6
  a : BitVec 7
  cond : BitVec 3
  pd : BitVec 3
  deriving DecidableEq, Repr

/-- Format M with CACHE zero: the atomics (spec/06 R185, R199). -/
structure FmtAt where
  g : BitVec 4
  d : BitVec 6
  a : BitVec 7
  order : BitVec 2
  scope : BitVec 3
  deriving DecidableEq, Repr

/-- Format A whose D names a tile (spec/09 R246). -/
structure FmtT where
  g : BitVec 4
  full : BitVec 1
  c : BitVec 4
  a : BitVec 7
  b : BitVec 7
  deriving DecidableEq, Repr

/-- The queue form of format M for LDQ (R7, R185). -/
structure FmtLdq where
  g : BitVec 4
  q : BitVec 4
  a : BitVec 7
  cache : BitVec 2
  deriving DecidableEq, Repr

/-- The queue form of format M for STQ (R7). -/
structure FmtStq where
  g : BitVec 4
  q : BitVec 4
  a : BitVec 7
  order : BitVec 2
  scope : BitVec 3
  cache : BitVec 2
  deriving DecidableEq, Repr

/-- Format A with D zero: two operand specifiers. -/
structure FmtAB where
  g : BitVec 4
  a : BitVec 7
  b : BitVec 7
  deriving DecidableEq, Repr

/-- One constructor for each row of spec/opcode_table.json, first the instruction words, then the events of the device, each in the table's order. The trailing comment names the rule the row names. -/
inductive Instr where
  | iaddI32 (f : FmtA)  -- R103
  | isubI32 (f : FmtA)  -- R103
  | imulI32 (f : FmtA)  -- R103
  | imulhiI32 (f : FmtA)  -- R103
  | imulhiN32 (f : FmtA)  -- R103
  | imadI32 (f : FmtA)  -- R103
  | iaddI64 (f : FmtA)  -- R103
  | isubI64 (f : FmtA)  -- R103
  | iminI32 (f : FmtA)  -- R103
  | iminN32 (f : FmtA)  -- R103
  | imaxI32 (f : FmtA)  -- R103
  | imaxN32 (f : FmtA)  -- R103
  | iabsI32 (f : FmtU)  -- R103
  | iaddsI32 (f : FmtA)  -- R103
  | isubsI32 (f : FmtA)  -- R103
  | idivN32 (f : FmtA)  -- R103
  | and (f : FmtA)  -- R103
  | or (f : FmtA)  -- R103
  | xor (f : FmtA)  -- R103
  | andn (f : FmtA)  -- R103
  | not (f : FmtU)  -- R103
  | shl (f : FmtA)  -- R103
  | shrN32 (f : FmtA)  -- R103
  | shrI32 (f : FmtA)  -- R103
  | sel (f : FmtA)  -- R104
  | popc (f : FmtU)  -- R103
  | clz (f : FmtU)  -- R103
  | brev (f : FmtU)  -- R103
  | bfx (f : FmtA)  -- R105
  | bfi (f : FmtA)  -- R105
  | lea (f : FmtA)  -- R106
  | leas (g : BitVec 4) (d : BitVec 6) (a : BitVec 7) (s : BitVec 3)  -- R106
  | faddF32 (f : FmtA)  -- R107
  | fsubF32 (f : FmtA)  -- R107
  | fmulF32 (f : FmtA)  -- R107
  | ffmaF32 (f : FmtA)  -- R107
  | fminF32 (f : FmtA)  -- R107
  | fmaxF32 (f : FmtA)  -- R107
  | fabsF32 (f : FmtU)  -- R107
  | fnegF32 (f : FmtU)  -- R107
  | faddH2 (f : FmtA)  -- R108
  | fmulH2 (f : FmtA)  -- R108
  | ffmaH2 (f : FmtA)  -- R108
  | fminH2 (f : FmtA)  -- R108
  | fmaxH2 (f : FmtA)  -- R108
  | faddB2 (f : FmtA)  -- R108
  | fmulB2 (f : FmtA)  -- R108
  | ffmaB2 (f : FmtA)  -- R108
  | frcp (f : FmtU)  -- R107
  | frsq (f : FmtU)  -- R107
  | fsqrt (f : FmtU)  -- R107
  | fdiv (f : FmtA)  -- R107
  | fexp2 (f : FmtU)  -- R107
  | flog2 (f : FmtU)  -- R107
  | fsinpi (f : FmtU)  -- R107
  | fcospi (f : FmtU)  -- R107
  | ftanh (f : FmtU)  -- R107
  | fscale (f : FmtA)  -- R109
  | frnd (g : BitVec 4) (d : BitVec 6) (a : BitVec 7) (m : BitVec 2)  -- R110
  | fclass (g : BitVec 4) (p : BitVec 3) (a : BitVec 7) (m : BitVec 7)  -- R111
  | fdot2H (f : FmtA)  -- R112
  | fdot4E4 (f : FmtA)  -- R112
  | fdot4E5 (f : FmtA)  -- R112
  | keyf (f : FmtU)  -- R113
  | icmpI32 (f : FmtCmp)  -- R114
  | icmpN32 (f : FmtCmp)  -- R114
  | icmpI64 (f : FmtCmp)  -- R114
  | fcmpF32 (f : FmtCmp)  -- R114
  | fcmpH (g : BitVec 4) (s : BitVec 6) (a : BitVec 7) (h : BitVec 1) (c : BitVec 3) (p : BitVec 3)  -- R114
  | plop (g : BitVec 4) (d : BitVec 3) (a : BitVec 3) (b : BitVec 3) (t : BitVec 4)  -- R115
  | ballot (f : FmtA)  -- R116
  | vote (g : BitVec 4) (p : BitVec 3) (a : BitVec 7) (k : BitVec 2)  -- R117
  | lpick (f : FmtA)  -- R118
  | lmirr (f : FmtA)  -- R118
  | lrot (f : FmtA)  -- R118
  | lshift (f : FmtA)  -- R118
  | lfold (g : BitVec 4) (d : BitVec 6) (a : BitVec 7) (o : BitVec 4)  -- R119
  | lpeer (f : FmtA)  -- R120
  | swr (g : BitVec 4) (s : BitVec 5) (a : BitVec 7)  -- R121
  | mov (f : FmtU)  -- R122
  | mov64 (f : FmtU)  -- R122
  | rdlane (g : BitVec 4) (s : BitVec 5) (a : BitVec 7) (b : BitVec 7)  -- R122
  | cvt (g : BitVec 4) (d : BitVec 6) (a : BitVec 7) (s : BitVec 1) (m : BitVec 2) (c : BitVec 4)  -- R123
  | cvtpkH2 (f : FmtA)  -- R124
  | cvtpkB2 (f : FmtA)  -- R124
  | cvtpkE4 (f : FmtA)  -- R124
  | cvtpkE5 (f : FmtA)  -- R124
  | qpk4 (f : FmtA)  -- R125
  | qupk4 (g : BitVec 4) (d : BitVec 6) (a : BitVec 7) (i : BitVec 3)  -- R126
  | qscale (f : FmtA)  -- R127
  | requant (f : FmtA)  -- R128
  | qpush (g : BitVec 4) (q : BitVec 4) (a : BitVec 7)  -- R172
  | qpop (g : BitVec 4) (d : BitVec 6) (q : BitVec 4) (e : BitVec 1) (p : BitVec 3)  -- R173
  | qtry (g : BitVec 4) (d : BitVec 6) (q : BitVec 4) (p : BitVec 3)  -- R174
  | qpeek (g : BitVec 4) (d : BitVec 6) (q : BitVec 4) (s : BitVec 1)  -- R175
  | qskip (g : BitVec 4) (q : BitVec 4) (n : BitVec 7)  -- R176
  | qflush (g : BitVec 4) (q : BitVec 4) (e : BitVec 1)  -- R177
  | qstat (g : BitVec 4) (d : BitVec 6) (q : BitVec 4) (s : BitVec 3)  -- R179
  | qeos (g : BitVec 4) (q : BitVec 4)  -- R180
  | qeosTest (g : BitVec 4) (q : BitVec 4) (p : BitVec 3)  -- R180
  | rwait (f : FmtAB)  -- R182
  | rrel (f : FmtAB)  -- R182
  | ldr (f : FmtA)  -- R183
  | str (f : FmtA)  -- R183
  | rset (f : FmtAB)  -- R182
  | ldB8n (f : FmtM)  -- R191
  | ldB8i (f : FmtM)  -- R191
  | ldB16n (f : FmtM)  -- R191
  | ldB16i (f : FmtM)  -- R191
  | ldB32 (f : FmtM)  -- R191
  | ldB64 (f : FmtM)  -- R191
  | ldB128 (f : FmtM)  -- R191
  | stB8 (f : FmtM)  -- R191
  | stB16 (f : FmtM)  -- R191
  | stB32 (f : FmtM)  -- R191
  | stB64 (f : FmtM)  -- R191
  | stB128 (f : FmtM)  -- R191
  | ldqB32 (f : FmtLdq)  -- R192
  | ldqB64 (f : FmtLdq)  -- R192
  | ldqB16 (f : FmtLdq)  -- R192
  | stqB32 (f : FmtStq)  -- R192
  | stqB64 (f : FmtStq)  -- R192
  | stqB16 (f : FmtStq)  -- R192
  | ldfe (g : BitVec 4) (d : BitVec 6) (a : BitVec 7) (x : BitVec 2)  -- R193
  | stfe (g : BitVec 4) (d : BitVec 6) (a : BitVec 7) (x : BitVec 2)  -- R193
  | pref (g : BitVec 4) (a : BitVec 7) (c : BitVec 2)  -- R194
  | discard (g : BitVec 4) (d : BitVec 6) (a : BitVec 7) (s : BitVec 3)  -- R195
  | wback (g : BitVec 4) (d : BitVec 6) (a : BitVec 7) (s : BitVec 3) (c : BitVec 2)  -- R196
  | fence (g : BitVec 4) (o : BitVec 2) (s : BitVec 3)  -- R197
  | stream (g : BitVec 4) (i : BitVec 4)  -- R198
  | aaddI32 (f : FmtAt)  -- R199
  | aaddI64 (f : FmtAt)  -- R199
  | aaddF32 (f : FmtAt)  -- R199
  | aaddB2 (f : FmtAt)  -- R199
  | aminI32 (f : FmtAt)  -- R199
  | aminN32 (f : FmtAt)  -- R199
  | amaxI32 (f : FmtAt)  -- R199
  | amaxN32 (f : FmtAt)  -- R199
  | aand (f : FmtAt)  -- R199
  | aor (f : FmtAt)  -- R199
  | axor (f : FmtAt)  -- R199
  | axchB32 (f : FmtAt)  -- R199
  | axchB64 (f : FmtAt)  -- R199
  | acasB32 (f : FmtAt)  -- R199
  | acasB64 (f : FmtAt)  -- R199
  | aincb (f : FmtAt)  -- R199
  | bra (f : FmtC)  -- R129
  | bru (f : FmtC)  -- R130
  | call (f : FmtC)  -- R131
  | ret (g : BitVec 4)  -- R132
  | jmpi (g : BitVec 4) (a : BitVec 7)  -- R132
  | mergeat (f : FmtC)  -- R67
  | merge (g : BitVec 4)  -- R67
  | yield (g : BitVec 4)  -- R134
  | exit (g : BitVec 4)  -- R135
  | bar (g : BitVec 4) (s : BitVec 2) (i : BitVec 4)  -- R136
  | bara (g : BitVec 4) (s : BitVec 2) (i : BitVec 4)  -- R136
  | cbar (g : BitVec 4)  -- R267
  | sleep (g : BitVec 4) (a : BitVec 7)  -- R138
  | nop (g : BitVec 4)  -- R139
  | splitq (g : BitVec 4) (d : BitVec 6)  -- R140
  | gang (f : FmtAB)  -- R248
  | mma (f : FmtT)  -- R251
  | mmax (f : FmtT)  -- R251
  | mxt (f : FmtT)  -- R253
  | mxp (f : FmtT)  -- R253
  | mxs (f : FmtT)  -- R253
  | czero (g : BitVec 4) (f : BitVec 1) (c : BitVec 4)  -- R254
  | cread (f : FmtA)  -- R255
  | cwrite (f : FmtA)  -- R255
  | cdrain (f : FmtT)  -- R257
  | mwait (g : BitVec 4) (l : BitVec 1) (f : BitVec 1) (c : BitVec 4)  -- R259
  | ofence (g : BitVec 4)  -- R260
  | tkpass (g : BitVec 4)  -- R261
  | tkwait (g : BitVec 4)  -- R261
  | planes (f : FmtA)  -- R262
  | slay (g : BitVec 4) (l : BitVec 2) (a : BitVec 7)  -- R264
  | sfill (g : BitVec 4) (e : BitVec 2) (l : BitVec 2) (a : BitVec 7)  -- R265
  | sdrain (g : BitVec 4) (e : BitVec 2) (l : BitVec 2) (a : BitVec 7)  -- R265
  | swait (g : BitVec 4) (m : BitVec 4)  -- R266
  | regroup (f : FmtA)  -- R200
  | ungroup (f : FmtA)  -- R202
  | spawn (g : BitVec 4) (a : BitVec 7)  -- R292
  | tsig (f : FmtAB)  -- R293
  | twaitFull (f : FmtU)  -- R294
  | twaitEmpty (f : FmtU)  -- R294
  | preempt (g : BitVec 4) (i : BitVec 20)  -- R295
  | rldB32 (f : FmtF)  -- R366
  | rldB64 (f : FmtF)  -- R366
  | rstB32 (f : FmtF)  -- R366
  | rstB64 (f : FmtF)  -- R366
  | raaddI64 (f : FmtF)  -- R366
  | racasB64 (f : FmtF)  -- R366
  | rldqB32 (g : BitVec 4) (q : BitVec 4) (a : BitVec 7) (p : BitVec 7)  -- R367
  | rldqB64 (g : BitVec 4) (q : BitVec 4) (a : BitVec 7) (p : BitVec 7)  -- R367
  | xldq (g : BitVec 4) (q : BitVec 4) (a : BitVec 7) (h : BitVec 4)  -- R373
  | mcst (f : FmtF)  -- R368
  | coll (f : FmtAB)  -- R384
  | cwait (f : FmtU)  -- R385
  | viewq (f : FmtA)  -- R387
  | rfence (g : BitVec 4)  -- R388
  | viewctlJoin (f : FmtU)  -- R389
  | viewctlLeave (f : FmtU)  -- R389
  | viewctlInit (g : BitVec 4) (d : BitVec 6) (a : BitVec 7) (b : BitVec 4)  -- R389
  | trap (g : BitVec 4) (a : BitVec 7)  -- R308
  | bkpt (g : BitVec 4)  -- R308
  | rdsr (g : BitVec 4) (d : BitVec 6) (m : BitVec 7)  -- R310
  | wrsr (g : BitVec 4) (a : BitVec 7) (m : BitVec 7)  -- R311
  | rett (g : BitVec 4)  -- R305
  | clock (g : BitVec 4) (d : BitVec 6)  -- R312
  | egrel (f : FmtA)  -- R340
  | tlbinvJob (g : BitVec 4)  -- R322
  | tlbinvPage (g : BitVec 4) (a : BitVec 4)  -- R322
  | tlbinvAll (g : BitVec 4)  -- R322
  | icinvCore (g : BitVec 4)  -- R323
  | icinvDevice (g : BitVec 4)  -- R323
  | haltt (g : BitVec 4)  -- R306
  | clause (w : BitVec 12) (a : BitVec 4) (b : BitVec 4) (p : BitVec 3) (v : BitVec 1)  -- R21
  | immL (p : BitVec 24)  -- R28
  | immH (p : BitVec 24)  -- R28
  | reservedOpcode (word : BitVec 32)  -- R39
  | splitRotation (t w slot : Nat)  -- R69
  | sleepWake (t w seq : Nat)  -- R138
  | loadComplete (op : Nat)  -- R25
  | storePerformed (op : Nat)  -- R208
  | ldqLanding (t q slot lane : Nat)  -- R147
  | qdeadTimeout (t : Nat)  -- R151
  | pageRequestEnter (core : Nat)  -- R154
  | pageAnswer (a : PageAnswer)  -- R155
  | boundaryMove (core : Nat)  -- R163
  | eccUncorrectable (site : EccSite)  -- R169
  | streamStoreRelease (op : Nat)  -- R326
  | matrixGrant (cluster : Nat)  -- R229
  | passComplete (cluster req : Nat)  -- R250
  | runnelCommandStart (core engine : Nat)  -- R233
  | fillGranuleLand (core engine granule : Nat)  -- R237
  | sdrainWritesDone (core engine : Nat)  -- R265
  | cdrainGranuleWrite (op granule : Nat)  -- R257
  | cbarSwap (t : Nat)  -- R241
  | exchangeStoreLand (op : Nat)  -- R219
  | columnGroupRepair (cluster unit : Nat)  -- R244
  | taskPublish (task : Nat)  -- R274
  | sluiceWriteReport (task : Nat)  -- R277
  | taskDispatch (task : Nat)  -- R278
  | placementWindow (task : Nat)  -- R272
  | taskComplete (task : Nat)  -- R279
  | forcedSaveBound (t : Nat)  -- R288
  | saveStart (t : Nat)  -- R289
  | frameComplete (t : Nat)  -- R315
  | teamRestore (t : Nat)  -- R290
  | jobStop (job : Nat)  -- R291
  | trapDelivery (t : Nat)  -- R303
  | remoteFaultDelivery (t w : Nat)  -- R363
  | mcastpartDelivery (t w : Nat)  -- R369
  | instructionFetch (t w slot : Nat)  -- R323
  | coreRetire (core : Nat) (savable : Bool)  -- R348
  | hbmChannelSpare (stack channel : Nat)  -- R348
  | hostMemoryAccess (a : HostAccess)  -- R331
  | egressWindowRead (off len : Nat)  -- R339
  | bar0RegisterWrite (off : Nat) (val : BitVec 64)  -- R332
  | pwrstateWrite (val : BitVec 64)  -- R343
  | tlbcmdDropJob (job : Nat)  -- R332
  | tlbcmdDropAll  -- R332
  | jobslotValidate (j : Nat) (val : BitVec 64)  -- R333
  | jobslotInvalidate (j : Nat)  -- R333
  | cmdqStart (q : Nat)  -- R335
  | cmdqResume (q : Nat)  -- R335
  | cmdqStop (q : Nat)  -- R335
  | cmdqNotify (q tail : Nat) (ro : Bool)  -- R336
  | phaseReread (q : Nat)  -- R336
  | cmdPublish (q : Nat)  -- R334
  | cmdStopJob (q : Nat)  -- R334
  | cmdResumeJob (q : Nat)  -- R334
  | cmdDiscardJob (q : Nat)  -- R334
  | keyInstall (k : Nat)  -- R332
  | keyEmpty (k : Nat)  -- R332
  | egringOpen (e : Nat)  -- R338
  | egringClose (e : Nat)  -- R338
  | egringHcurWrite (e : Nat) (val : BitVec 64)  -- R337
  | dbgReqOff  -- R345
  | dbgReqObserve  -- R345
  | dbgReqHalt  -- R345
  | dbghalt (job : Nat)  -- R345
  | dbgresume (job : Nat)  -- R345
  | lifecycleOwn (key : BitVec 512)  -- R342
  | lifecycleLock (sig : BitVec 512)  -- R342
  | lifecycleUnlock (sig : BitVec 512)  -- R342
  | attestationReport (nonce : BitVec 256)  -- R341
  | boot (img : BootImage)  -- R341
  | moduleReset  -- R3
  | selfTestDone (fn : Nat) (pass : Bool)  -- R346
  | idleEntry  -- R343
  | idleWake  -- R343
  | powerOff  -- R343
  | thermalGate (celsius : Nat)  -- R349
  | thermalTrip (celsius : Nat)  -- R349
  | portTraining (port : Nat) (peer : Option Nat)  -- R354
  | linkRekey (port : Nat)  -- R354
  | windowReceive (port : Nat) (w : Window)  -- R355
  | windowPadTimeout (port : Nat)  -- R353
  | wavelengthSpare (port : Nat) (transmit : Bool)  -- R357
  | rankDownNotice (rank : Nat)  -- R358
  | cgroupWrite (index : Nat) (val : BitVec 64)  -- R358
  | remoteRequest (p : Packet)  -- R362
  | remoteResponse (r : Response)  -- R363
  | remoteRequestLost (req : Nat)  -- R364
  | multicastComplete (op : Nat)  -- R369
  | ueRmaRequest (r : UeRequest)  -- R372
  | uewinOpen (w : Nat)  -- R372
  | uewinClose (w : Nat)  -- R372
  | ueReadResponse (req : Nat) (r : Option (List (BitVec 64)))  -- R373
  | collectivePacket (p : CollPacket)  -- R375
  | cstepTimeout (coll rank : Nat)  -- R376
  | suspect (m : ViewMsg)  -- R377
  | propose (m : ViewMsg)  -- R377
  | accept (m : ViewMsg)  -- R377
  | commit (m : ViewMsg)  -- R379
  | agreeTimeout (group : Nat)  -- R378
  | joinRequest (m : ViewMsg)  -- R380
  | collectiveComplete (coll : Nat)  -- R382
  | initAgreement (group : Nat) (peers : List (Nat × BitVec 32))  -- R389
  | darkLink (port : Nat)  -- R343
  | packetDeliveryContextFail (req : Nat)  -- R373
  deriving DecidableEq, Repr

end Sys2Proof
end

