-- ==== Sys2Proof/Machine/State.lean ====
section
/-! DEFINITION. The state of the machine as plain data (spec/02 R56-R60, spec/05, spec/08, spec/10 to spec/13), its stops, and State.reset. INVENTORY.md lists every piece with its rule and reset value. -/

namespace Sys2Proof.Machine

/-- Why a step stops: the model's own boundary, safe. -/
inductive Fault where
  /-- exec was asked for an instruction word while State.cur names no split that issues it (raised by Machine/Ops.lean; safe). step never does this. -/
  | noIssuer
  deriving DecidableEq, Repr

/-- An instruction without a meaning in the model. -/
inductive Refusal where
  /-- The instruction of that mnemonic has no meaning yet (raised by Dispatch only; safe). -/
  | notModelled (mnemonic : String)
  deriving DecidableEq, Repr

/-- What an address without a listed cell reads as: zero, or a free value freshened by the tag. -/
inductive Fill where
  | zero
  | free (tag : Nat)
  deriving DecidableEq, Repr

/-- Sparse storage: the listed cells, addresses strictly rising, and what every other address reads as. With fill zero no cell lists zero. -/
structure Store (w : Nat) where
  cells : List (Nat × BitVec w)
  fill : Fill
  deriving DecidableEq, Repr

/-- Byte-addressed memory: its cells are a list of Host.Cell. -/
abbrev Memory := Store 8

/-- A role of R35. -/
inductive Role where
  | access
  | execute
  deriving DecidableEq, Repr

/-- The STATE field of a split (R58). -/
inductive SplitState where
  | live
  | parked
  | blocked
  | waitingMerge
  deriving DecidableEq, Repr

/-- What a blocked split has already announced, so that re-executing its instruction does not announce it again: barrier and instance, CBAR instance, regroup, gang. -/
inductive Arrival where
  | bar (id num : Nat)
  | cbar (num : Nat)
  | regroup (num : Nat)
  | gang (g num : Nat)
  | mwait (reqs drains : List Nat)
  | swait (cmds : List Nat)
  | init (group attempt : Nat)
  deriving DecidableEq, Repr

/-- A split: the record of R60, the immediate latch (R28) with the number of IMM words executed just before the PC (0 to 2), the wake time of SLEEP (R138), and since when it has held no live slot (R70). -/
structure Split where
  seq : BitVec 16
  parent : Option (BitVec 16)
  pc : DWord
  mpc : DWord
  mask : LaneMask
  arrived : LaneMask
  arm : Bool
  st : SplitState
  setA : BitVec 4
  setB : BitVec 4
  blk : BitVec 4
  latch : Word
  immRun : Nat
  wake : Option Nat
  arrival : Option Arrival
  since : Nat
  deriving DecidableEq, Repr

/-- A live slot (R58, R69): the split that holds it and the issue units it has issued since it took the slot. -/
structure LiveSlot where
  seq : Option (BitVec 16)
  issued : Nat
  deriving DecidableEq, Repr

/-- One live slot's part of a halt record (R77, R301, R313): the split it held, the PC it stopped at, and the units it issued in skid. -/
structure HaltSlot where
  seq : BitVec 16
  pc : DWord
  count : Nat
  deriving DecidableEq, Repr

/-- The halt record of a warp (R301, R303, R313): its live slots, and in the handler's warp the clause header, ARM and MPC the faulting split had. -/
structure HaltRecord where
  slots : List (Option HaltSlot)
  setA : BitVec 4
  setB : BitVec 4
  arm : Bool
  mpc : DWord
  deriving DecidableEq, Repr

/-- How a save found a warp (R288). -/
inductive SaveCond where
  | none
  | point
  | quiescent
  | forced
  deriving DecidableEq, Repr

/-- The remote fault record of a warp (R363), with the split that issued and whether the failure has been delivered. -/
structure FaultRecord where
  cause : BitVec 8
  lane : Nat
  opc : BitVec 8
  rank : BitVec 16
  addr : DWord
  count : Nat
  seq : BitVec 16
  delivered : Bool
  deriving DecidableEq, Repr

/-- The multicast status of a warp (R369): bitmap, failure count, and the MCASTPARTs not yet delivered, oldest first, each with the split that asked for it and its count. -/
structure McastStatus where
  bits : BitVec 4096
  fails : Nat
  pending : List (BitVec 16 × Nat)
  deriving DecidableEq, Repr

/-- A warp (R56). vregs has one list of 32 lanes for each register the warp owns; preds holds p0 to p7; a completion flag holds the number of operations bound to it (R25); halt is the warp's last halt record (R301), cond how the last save found it (R288). -/
structure Warp where
  role : Role
  index : Nat
  vregs : List (List Word)
  sregs : List Word
  preds : List LaneMask
  flags : List Nat
  exited : LaneMask
  seqCtr : BitVec 16
  table : List Split
  spilled : List Split
  slots : List LiveSlot
  streamId : BitVec 4
  streamCtr : List Nat
  peerCtr : List (Nat × Nat)
  quadrant : Nat
  privSlot : Nat
  spillBase : Nat
  atPoint : Option Nat
  rfault : Option FaultRecord
  mcast : McastStatus
  halt : HaltRecord
  cond : SaveCond
  deriving DecidableEq, Repr

/-- The state of a queue lane (R147). -/
inductive LaneState where
  | free
  | inflight
  | valid
  | invalid
  | pending
  | refetch
  | poison
  | tent
  deriving DecidableEq, Repr

/-- One lane of a queue entry: its state, its data slot (for an INFLIGHT local lane the value its read took, with the sectors it keeps in the outstanding request table, R143), the address it reads, and for a fabric lane the request that brings it and the port of an unverified window. -/
structure QLane where
  st : LaneState
  data : DWord
  va : DWord
  secs : List Nat
  req : Option Nat
  port : Option Nat
  deriving DecidableEq, Repr

/-- One queue entry: its 32 lanes, the flag of the producer warp an LDQ is bound to until the entry is complete, the warp that reserved it and when: an identifier above those of the warp's earlier operations (spec/07 R215); and the KEYOVR its LDQ was issued under, which its re-issued reads use too (spec/11 R309, R320). -/
structure QEntry where
  lanes : List QLane
  flag : Option (Nat × Nat)
  by_ : Nat
  op : Nat
  keyovr : Option Nat
  deriving DecidableEq, Repr

/-- A queue: the descriptor of R145 with LASTINV (R179) and the entries of its region. -/
structure Queue where
  num : Nat
  width : BitVec 2
  dir : Bool
  prod : Nat
  cons : Nat
  base : Nat
  cap : Nat
  head : Nat
  count : Nat
  eos : Bool
  lastinv : LaneMask
  entries : List QEntry
  deriving DecidableEq, Repr

/-- A ring of the ring table (R52, R167). -/
structure Ring where
  num : Nat
  off : Nat
  slotSize : Nat
  count : Nat
  deriving DecidableEq, Repr

/-- A warp's arrival at a barrier (R136): its position, the lanes that arrived, and the identifier below which their accesses were issued before it (spec/07 R215). -/
structure BarArrival where
  warp : Nat
  lanes : LaneMask
  mark : Nat
  deriving DecidableEq, Repr

/-- A barrier instance (R136): number, governing set, and the arrivals. -/
structure BarInstance where
  num : Nat
  set : BitVec 2
  arrived : List BarArrival
  deriving DecidableEq, Repr

/-- A barrier: the next instance number and the pending instances, oldest first. Instances below next and not pending have completed. -/
structure Barrier where
  next : Nat
  pending : List BarInstance
  deriving DecidableEq, Repr

/-- An arrival at CBAR (R241): team, warp position, lanes of the arriving split, and the identifier below which their stores were issued before it. -/
structure CbarArrival where
  team : Nat
  warp : Nat
  lanes : LaneMask
  mark : Nat
  deriving DecidableEq, Repr

/-- An instance of CBAR with its arrivals. -/
structure CbarInstance where
  num : Nat
  arrived : List CbarArrival
  deriving DecidableEq, Repr

/-- The CBAR of a gang launch (R241): the next instance number and the pending instances, oldest first. -/
structure Cbar where
  next : Nat
  pending : List CbarInstance
  deriving DecidableEq, Repr

/-- A gang (R230) and its rendezvous latch (R231): the word, the s values it reads, the members that have arrived (warp position, the flag its header names, the PC after the instruction), and the number of rendezvous so far. -/
structure Gang where
  members : BitVec 24
  word : Option Word
  vals : List Word
  arrived : List (Nat × Option Nat × DWord)
  num : Nat
  deriving DecidableEq, Repr

/-- One warp's arrival at REGROUP or UNGROUP (R200): warp position, split, which of the two, D, per-lane operand a, and MOV. -/
structure RegroupArrival where
  warp : Nat
  seq : BitVec 16
  un : Bool
  d : Nat
  keys : List Word
  mov : DWord
  deriving DecidableEq, Repr

/-- The trap registers (R301). -/
structure TrapRegs where
  cause : Word
  addrLo : Word
  addrHi : Word
  split : Word
  skid : Word
  cause2 : Word
  pc : DWord
  pc2 : DWord
  deriving DecidableEq, Repr

/-- The handler in progress (R303): warp position, SEQ of its split, and the unit the split stood at with what it had announced there. The clause header, ARM and MPC it had are in its warp's halt record. -/
structure Handler where
  warp : Nat
  seq : BitVec 16
  stood : DWord
  arrival : Option Arrival
  deriving DecidableEq, Repr

/-- The skid of a halt not yet delivered (R299): for each live split (warp position, SEQ) the units it has issued since, and whether it has stopped. -/
structure SkidCount where
  warp : Nat
  seq : BitVec 16
  count : Nat
  stopped : Bool
  deriving DecidableEq, Repr

/-- The state of a team (R286). -/
inductive TeamStatus where
  | unplaced
  | resident
  | halted
  | saving
  | saved
  | restoring
  | finished
  | killed
  deriving DecidableEq, Repr

/-- Why a team was saved: the WHY field of the frame header (R314). -/
inductive SaveWhy where
  | preempt
  | pageMiss
  | jobStop
  | debug
  deriving DecidableEq, Repr

/-- A kernel descriptor as read (R268, R269). -/
structure Kernel where
  kdesc : Nat
  livetab : Nat
  nlive : Nat
  entryA : DWord
  entryE : DWord
  teamA : Nat
  teamE : Nat
  regsA : Nat
  regsE : Nat
  acc : Nat
  scratch : Nat
  exch : Nat
  spill : Nat
  queues : List (Nat × DWord)
  rings : List (Nat × DWord)
  deriving DecidableEq, Repr

/-- What a team is: its task, its place in the grid, job and priority, and its place in a cluster gang (R272, R273, R309). -/
structure Ident where
  task : Nat
  linear : Nat
  x : Nat
  y : Nat
  z : Nat
  gx : Nat
  gy : Nat
  gz : Nat
  job : Nat
  prio : Nat
  depth : Nat
  launch : Nat
  member : Nat
  kern : Kernel
  deriving DecidableEq, Repr

/-- The matrix side of a team: tiles granted (R225), the two gangs, the token (R232), and layout registers l0 to l3 with their loaded marks (R233). -/
structure TeamMatrix where
  tiles : List Nat
  gangs : List Gang
  token : Nat
  layouts : List (Option (BitVec 512))
  deriving DecidableEq, Repr

/-- A release side of spec/07 R215 within a team that an acquire side may observe: a barrier instance, a queue entry, a granule's bit, a stream command, a CBAR instance, a change of full/empty bits still held; mem: a release through memory (R209, R212), a sluice or a collective. -/
inductive SyncTag where
  | bar (id num : Nat)
  | entry (op : Nat)
  | granule (g : Nat)
  | cmd (id : Nat)
  | cbar (num : Nat)
  | change (id : Nat)
  | mem
  deriving DecidableEq, Repr

/-- One lane's store to a granule of scratchpad that a pass may still read old (R218, R260): the granule's bytes before it, what it wrote (team offset, mask of bits, value), the lanes it happens before (by warp), and the release sides that carry it. -/
structure Unfenced where
  warp : Nat
  lane : Nat
  granule : Nat
  old : List Byte
  wrote : List (Nat × Byte × Byte)
  known : List (Nat × LaneMask)
  tags : List SyncTag
  deriving DecidableEq, Repr

/-- A change of full/empty bits that is held until the accesses before it have completed (spec/07 R215): warp, lanes, its identifier (which marks as in BarArrival), whether the scope is CLUSTER rather than CORE, the granules and their new state, and the bytes of an STFE, which become visible together with the bit (R193, R205): team offset, mask, value. -/
structure HeldSet where
  warp : Nat
  lanes : LaneMask
  mark : Nat
  wide : Bool
  granules : List Nat
  full : Bool
  writes : List (Nat × Byte × Byte)
  deriving DecidableEq, Repr

/-- The scratchpad side of a team: its first byte in the core's scratchpad, its size and E, the bytes by team offset, the full/empty bit of each granule (1 full), which exchange bank is live (false: the first), XPASS (R242), the stores a pass may read old, the bit changes held. -/
structure Scratch where
  base : Nat
  size : Nat
  exch : Nat
  bytes : Memory
  full : Store 1
  secondLive : Bool
  xpass : Bool
  unfenced : List Unfenced
  held : List HeldSet
  deriving DecidableEq, Repr

/-- A collective slot of a team (R384). -/
inductive CollSlot where
  | free
  | running (coll : Nat)
  | done (result : DWord)
  | aborted (group : Nat)
  deriving DecidableEq, Repr

/-- What a recorded secondary trap reports when it is delivered (R78): address pair, lane, its resumption address (R302), and the stopped drain whose SLOTPOISON it is (R266). -/
structure Second where
  lo : Word
  hi : Word
  lane : Nat
  pc : DWord
  drain : Option Nat
  deriving DecidableEq, Repr

/-- The trap side of a team: registers, handler, skid window, the warp whose splits TRAPSPLIT and TRAPCAUSE2 name, the secondary trap of R78, handler scratch HSAVE0-3 and KEYOVR (R301-R309), and whether the debugger holds it (R345). -/
structure TrapSide where
  regs : TrapRegs
  handler : Option Handler
  skid : Option (List SkidCount)
  warp : Option Nat
  second : Second
  hsave : List Word
  keyovr : Word
  held : Bool
  deriving DecidableEq, Repr

/-- An entry of a core's slot-poison table (R238). -/
structure SlotPoison where
  team : Nat
  ring : Nat
  slot : Nat
  cause : BitVec 8
  va : DWord
  deriving DecidableEq, Repr

/-- A Runnel command (R233, R265): the lanes that issued it (its id marks their earlier accesses, spec/07 R215), its copy of the layout register, its slot handle, the box origin, whether it has started, the granules of a fill still to land with their bytes, the bytes of a drain still to write (VA, mask, value) and those written, the VAs it waits for, and the unrecoverable miss it is to stop on (R238). -/
structure RunCmd where
  id : Nat
  team : Nat
  warp : Nat
  lanes : LaneMask
  drain : Bool
  flag : Option Nat
  layout : BitVec 512
  handle : Word
  origin : List Int
  started : Bool
  granules : List (Nat × List Byte)
  writes : List (Nat × Byte × Byte)
  wrote : List (Nat × Byte × Byte)
  missing : List Nat
  poison : Option (BitVec 8 × Nat)
  deriving DecidableEq, Repr

/-- A matrix request (R228, R249): posting members with their flags, the word and its values, the tiles written, shape, priority, allowance, and what each granule it reads held when it was posted (R218: later writes are read old or new). Once granted, units are the step units its pass holds, more the tiles that wait for one of them to free (R244). -/
structure MtxReq where
  id : Nat
  team : Nat
  members : List (Nat × Option Nat)
  word : Word
  vals : List Word
  tiles : List Nat
  full : Bool
  prio : Nat
  allowance : Nat
  snap : List (Nat × List (List Byte))
  units : List Nat
  more : Nat
  deriving DecidableEq, Repr

/-- What a save took (R288, R289): for each warp the vector, scalar and predicate registers saved, the scratchpad ranges (first granule, granules), the tiles by c-number; and what waits with the team: requests posted on each tile with its hazard mark, waiting matrix requests, queued engine commands, slot-poison entries. -/
structure Saved where
  live : List (DWord × Word × Byte)
  ranges : List (Nat × Nat)
  tiles : List Nat
  marks : List (List Nat × Bool)
  requests : List MtxReq
  cmds : List (Nat × RunCmd)
  slots : List SlotPoison
  deriving DecidableEq, Repr

/-- The save side of a team: the pending save request with its start (R288), why it was saved, the missing-page list (R157) with the pages answered and refused since the save began, frame address, PARTS of the last save, QDEAD's count (R151), whether it is a relaunch (R170), whether its spill area or frame has been overwritten (R65, R315), and what the last save took. -/
structure SaveSide where
  request : Option (Nat × SaveWhy)
  why : Option SaveWhy
  missing : List Nat
  answered : List Nat
  refused : List Nat
  frame : Nat
  parts : BitVec 4
  qdead : Nat
  relaunched : Bool
  corrupt : Bool
  saved : Option Saved
  deriving DecidableEq, Repr

/-- A drain that stopped on an unrecoverable miss and that no SWAIT has reported yet (R238, R266): until then it has not completed, and its flag stays bound. -/
structure StoppedDrain where
  id : Nat
  warp : Nat
  flag : Option Nat
  engine : Nat
  va : DWord
  deriving DecidableEq, Repr

/-- A team. Warps stand access warps first, then execute warps (the order of the frame, R313); order numbers the placements (R287); past is the identifier below which a pop may have gone past an LDQ element still to be read (notes/assumptions/46.md). -/
structure Team where
  id : Nat
  ident : Ident
  status : TeamStatus
  core : Nat
  warps : List Warp
  queues : List Queue
  rings : List Ring
  scr : Scratch
  mtx : TeamMatrix
  bars : List Barrier
  regroup : List RegroupArrival
  regroups : Nat
  trap : TrapSide
  save : SaveSide
  colls : List CollSlot
  stopped : List StoppedDrain
  order : Nat
  past : Nat
  deriving DecidableEq, Repr

/-- A store accepted by L1 and not yet performed (R143, R208): the bytes that some lanes of one instruction write to one line (each a physical address and its byte) under a key slot; first is the identifier of its instruction's first store; whether it bypasses both caches, and whether L1 holds it (R186: else it keeps its entries of the outstanding request table until L2 has accepted it); late: other lanes see it only once it is performed (R214, R216). A stream store is one lane's and carries id, sequence number and home slice (R326). -/
structure PStore where
  op : Nat
  first : Nat
  team : Nat
  warp : Nat
  lanes : LaneMask
  flag : Option Nat
  scope : Nat
  key : Nat
  bytes : List (Nat × Byte)
  uncached : Bool
  l1 : Bool
  late : Bool
  stream : Option (Nat × Nat × Nat)
  deriving DecidableEq, Repr

/-- A store through the CLUSTER aperture that has not landed (R219): the identifier of its instruction's first, its lane, the target team, the offset in the exchange area and the bytes. -/
structure ExStore where
  op : Nat
  first : Nat
  team : Nat
  warp : Nat
  lane : Nat
  flag : Option Nat
  target : Nat
  off : Nat
  bytes : List Byte
  deriving DecidableEq, Repr

/-- A load or atomic whose value has been taken and not yet written to its register (R25), with the entries of the outstanding request table it keeps until then (R143). -/
structure PLoad where
  op : Nat
  team : Nat
  warp : Nat
  flag : Option Nat
  sectors : Nat
  writes : List (Nat × Nat × Word)
  deriving DecidableEq, Repr

/-- A translation held in a TLB (R321): job, level of the leaf, VA bits above the page, entry. -/
structure TlbEntry where
  job : Nat
  level : Nat
  vpn : Nat
  pte : DWord
  deriving DecidableEq, Repr

/-- A word held in an instruction cache (R323). -/
structure IcEntry where
  job : Nat
  va : Nat
  word : Word
  deriving DecidableEq, Repr

/-- A poison record of a core (R159): the owner and the fields of the record. -/
structure PoisonRec where
  team : Nat
  queue : Nat
  lane : Nat
  cause : BitVec 8
  va : DWord
  deriving DecidableEq, Repr

/-- A Runnel engine: ready bit (R245), the command FIFO with the command in progress at its head. -/
structure Runnel where
  ready : Bool
  failed : Bool
  fifo : List RunCmd
  deriving DecidableEq, Repr

/-- What an entry of a remote request table waits for (R361): destination registers of a load or atomic, a store's acknowledgement, queue lanes, or a member's part of a multicast. -/
inductive RemoteKind where
  | load (d regs : Nat)
  | store
  | queue (q entry : Nat)
  | mcast (op : Nat)
  | ue (q entry : Nat)
  deriving DecidableEq, Repr

/-- A request to a peer or a UE endpoint in flight (R361, R373): its tag, when it was sent, issuer, flag, opcode, peer, job, stream and sequence number, and its lanes with address and data. -/
structure RemoteReq where
  id : Nat
  sent : Nat
  team : Nat
  warp : Nat
  seq : BitVec 16
  flag : Option Nat
  opc : Nat
  kind : RemoteKind
  peer : Nat
  job : Nat
  stream : Nat
  num : Nat
  lanes : List (Nat × DWord × List DWord)
  deriving DecidableEq, Repr

/-- A core (R141). poisonL1 lists the poisoned lines of L1, each with the team whose store made it dirty (R169); logged counts the errors logged for storage no team owns (R168), lastUe is when its last uncorrectable error was, unfit that it is to be retired (R348). -/
structure Core where
  ready : Bool
  retired : Bool
  boundary : Nat
  raising : Option Nat
  stores : List PStore
  poisonL1 : List (Nat × Nat)
  tlb : List TlbEntry
  icache : List IcEntry
  pages : List (Nat × Nat)
  waiters : List (Nat × Nat)
  poison : List (Option PoisonRec)
  slotPoison : List SlotPoison
  runnels : List Runnel
  remote : List RemoteReq
  dcplCyc : BitVec 48
  dcplEvt : BitVec 48
  dcplWas : List (Nat × Nat)
  cerr : Word
  logged : Nat
  lastUe : Option Nat
  unfit : Bool
  deriving DecidableEq, Repr

/-- An accumulator tile: element (row, col) at key 64 row + col, the team that holds it, the requests posted on it that no MWAIT has covered yet, and whether a CWRITE or CZERO hit it meanwhile (R218). -/
structure Tile where
  words : Store 32
  owner : Option Nat
  unwaited : List Nat
  hazard : Bool
  deriving DecidableEq, Repr

/-- A cluster: matrix ready bit (R245), tiles (R225), reservation table in arrival order and passes in progress (R228-R229), column groups mapped out of each step unit (R244), shared TLB (R321), and how many errors in tiles of no team have been logged (R227). -/
structure Cluster where
  ready : Bool
  failed : Bool
  tiles : List Tile
  table : List MtxReq
  passes : List MtxReq
  units : List Nat
  tlb : List TlbEntry
  logged : Nat
  deriving DecidableEq, Repr

/-- A CDRAIN in progress (R257): the tiles it read and the granules (team offset / 16) still to write with their bytes. -/
structure Drain where
  op : Nat
  team : Nat
  tiles : List Nat
  granules : List (Nat × List Byte)
  deriving DecidableEq, Repr

/-- The state of a task (R275). held is a record whose validation waits for a page or for its job slot. -/
inductive TaskState where
  | held
  | waiting
  | dispatched
  | complete
  | failed
  | stopped
  | refused
  deriving DecidableEq, Repr

/-- A published record (R273-R285): where it lies (host queue records by physical address), the 1,024 bits read at publication, job, depth and effective priority held inside the device, its state, whether it has been dispatched, its kernel once read, the pages it waits for and those refused, the IN values on which it was judged eligible, its grid once dispatched, the next team to place, how many teams have finished, teams to relaunch, and the teams last chosen to make room for it. -/
structure Task where
  id : Nat
  host : Bool
  addr : Nat
  record : BitVec 1024
  job : Nat
  depth : Nat
  prio : Nat
  st : TaskState
  dispatched : Bool
  kern : Option Kernel
  wait : List Nat
  refused : List Nat
  judged : Option (List DWord)
  gx : Nat
  gy : Nat
  gz : Nat
  nextTeam : Nat
  doneTeams : Nat
  relaunch : List Nat
  victims : List Nat
  deriving DecidableEq, Repr

/-- A key: cipher (1 SM4-XTS, 2 AES-256-XTS, 0 the die's own) and material (R330, R332). -/
structure KeyMat where
  cipher : Nat
  material : BitVec 512
  deriving DecidableEq, Repr

/-- The lifecycle state (R342). -/
inductive Lifecycle where
  | provisioning
  | owned
  | tenantLocked
  deriving DecidableEq, Repr

/-- The debug state (R345). -/
inductive DebugState where
  | off
  | observe
  | halt
  deriving DecidableEq, Repr

/-- The power state (R343). -/
inductive PowerState where
  | run
  | idle
  | retain
  | off
  deriving DecidableEq, Repr

/-- A command queue (R334-R336): its register, expected PHASE, whether the last notify had RO set, header reads of the entry at HEAD so far, and when the next is due. -/
structure CmdQueue where
  num : Nat
  reg : BitVec 512
  phase : Nat
  ro : Bool
  reads : Nat
  due : Nat
  deriving DecidableEq, Repr

/-- The package and host side (spec/12). keyOf gives the key each 128-byte line of HBM was written under; jobs holds each job slot as the device took it in, jobRegs as the host last wrote it (R333); keyring lists every key the die has held; a slot and a line of HBM name an entry of it. -/
structure Package where
  hbm : Memory
  keyOf : List (Nat × Nat)
  keyring : List KeyMat
  keySlots : List (Nat × Nat)
  keyStage : BitVec 1024
  keyHost : BitVec 512
  keyEph : Nat
  keyStat : Nat
  ready : DWord
  failed : DWord
  lifecycle : Lifecycle
  power : PowerState
  pwrLimit : Nat
  fsBound : Nat
  spillPool : DWord
  framePool : DWord
  jobs : List (Nat × BitVec 512)
  jobRegs : List (Nat × BitVec 512)
  cmdqs : List CmdQueue
  egrings : List (Nat × BitVec 512)
  debug : DebugState
  dbgResult : Nat
  dbgNonce : BitVec 256
  dbgToken : BitVec 1536
  tokenValid : Bool
  ownerKey : Option (BitVec 512)
  firmware : Option (BitVec 256)
  idleFor : Nat
  gated : Bool
  randoms : Nat
  msix : List Nat
  hostRead : List Byte
  reports : List (List Byte × BitVec 512)
  spareHbm : List (Nat × Nat)
  deriving DecidableEq, Repr


/-- The state of a group (R374). -/
inductive GroupState where
  | uninstalled
  | stable
  | agreeing
  | excluded
  | joining
  deriving DecidableEq, Repr

/-- An installed group (R374-R380): job, view, bitmap, state, collective sequence number, ranks suspected, the proposal in progress (attempt, bitmap, acceptances with what each holds), the highest attempt seen from each sender, when the agreement last moved, the request to join or leave under way (a rank and whether it leaves) and those that wait behind it, packets held until they can be used, the decisions of the last commit with the view it replaced, and the digest of a VIEWCTL.init under way with the number of that attempt, and the results formed here since an acceptance whose collectives have completed (R379). -/
structure Group where
  num : Nat
  job : Nat
  view : BitVec 32
  bitmap : BitVec 4096
  st : GroupState
  seq : BitVec 32
  suspects : List Nat
  attempt : Nat
  proposal : Option (BitVec 4096)
  accepts : List (Nat × List (BitVec 32 × Bool))
  seen : List (Nat × Nat)
  since : Nat
  joiner : Option (Nat × Bool)
  asks : List (Nat × Bool)
  held : List CollPacket
  settled : List Decision
  oldView : BitVec 32
  oldBitmap : BitVec 4096
  initDigest : Option (BitVec 32)
  initId : Nat
  results : List CollPacket
  deriving DecidableEq, Repr

/-- A collective in flight (R381-R384, R411): issuer and slot, descriptor, sequence number, view it runs under, contributions by rank with their digests, fault notices, the own input once read, when the present step began, the final result once formed, the view and members it runs under, the rank whose forwarded result it waits for (R379), and the pages it waits for. -/
structure Coll where
  id : Nat
  team : Nat
  slot : Nat
  flag : Option (Nat × Nat)
  job : Nat
  desc : BitVec 512
  seq : BitVec 32
  digest : BitVec 32
  started : Bool
  inputs : List (Nat × List Word)
  digests : List (Nat × BitVec 32)
  faults : List Nat
  ownFault : BitVec 8
  since : Nat
  result : Option (List Word)
  status : Nat
  view : BitVec 32
  members : BitVec 4096
  holder : Option Nat
  wait : List Nat
  deriving DecidableEq, Repr

/-- What the device sends on its links. Packets of Agulanel carry their 32-byte header (R361), and a window its 32-byte trailer (R353). -/
inductive Message where
  | request (head : BitVec 256) (p : Packet)
  | response (head : BitVec 256) (r : Response)
  | collective (head : BitVec 256) (p : CollPacket)
  | agreement (head : BitVec 256) (kind : Nat) (m : ViewMsg)
  | initReady (head : BitVec 256) (digest : BitVec 32)
  | window (port : Nat) (trailer : BitVec 256)
  | ueRead (req : Nat) (target : BitVec 128) (uetJob rkey : BitVec 32) (block : Nat)
  | ueAnswer (data : Option (List Byte))
  deriving DecidableEq, Repr

/-- A packet on its way to a port (R353, R356): its flits, and those still to be sent. -/
structure TxItem where
  msg : Message
  flits : Nat
  left : Nat
  deriving DecidableEq, Repr

/-- A window in a replay buffer (R353): its counter and the packets that have flits in it. -/
structure SentWindow where
  ctr : Nat
  parts : List TxItem
  deriving DecidableEq, Repr

/-- A port (R352-R357): its register; whether its self-test has passed, its first training has completed, and it retrains for a spare; cipher and key agreement; for each direction the window counter, key phase, and whether the next key is to be used; the replay buffer; the peer's fill levels (WM); since when fewer than five flits have been ready; failed verifications by window counter; whether a NACK is due; the receive mode in force; the lines that skid writes not yet verified have touched; and what the last trailer sent has told the peer: the counter received next, and WM. -/
structure Port where
  reg : DWord
  tested : Bool
  trained : Bool
  retrain : Bool
  aes : Bool
  key : Nat
  txCtr : Nat
  rxCtr : Nat
  txPhase : Bool
  rxPhase : Bool
  txNext : Option Nat
  rxNext : Bool
  replay : List SentWindow
  peerWm : BitVec 8
  padSince : Nat
  fails : List (Nat × Nat)
  nack : Bool
  skidOn : Bool
  skidLines : List Nat
  toldCtr : Nat
  toldWm : BitVec 8
  deriving DecidableEq, Repr

/-- A request held at this device as peer (R362): a packet waiting for a page, or out of its stream's order (R365). -/
structure HeldPacket where
  packet : Packet
  wait : List Nat
  deriving DecidableEq, Repr

/-- One packet of a replay: its lanes with address and data (R361). -/
structure ReplayPacket where
  lanes : List (Nat × DWord × List DWord)
  deriving DecidableEq, Repr

/-- A replay of a multicast still to issue: its member's rank and the packets (R360). -/
structure Replay where
  rank : Nat
  packets : List ReplayPacket
  deriving DecidableEq, Repr

/-- A multicast in flight (R368): issuer, flag, stream and job, whether MCASTPART was asked for, the members of the view it was sent to, those with a failed lane, and the replays still to issue. -/
structure Mcast where
  op : Nat
  team : Nat
  warp : Nat
  seq : BitVec 16
  flag : Option Nat
  stream : Nat
  job : Nat
  part : Bool
  members : BitVec 4096
  failed : List Nat
  todo : List Replay
  deriving DecidableEq, Repr

/-- The fabric side (spec/13). pages is the fabric unit's request table; order gives the next sequence number for each source rank, warp and stream (R365); ueHeld holds UE requests waiting for a page, with job and VA. txq holds the packets that wait for a port or have flits still to send; rx the packets received and verified that their unit cannot take yet (R356); keys counts the link key agreements. -/
structure Fabric where
  fabcfg : DWord
  cstep : DWord
  agree : DWord
  rtime : DWord
  uetab : DWord
  cgroup : BitVec 4096
  ports : List (Nat × Port)
  uewins : List (Nat × BitVec 512)
  pages : List (Nat × Nat)
  held : List HeldPacket
  order : List (Nat × Nat × Nat × Nat)
  ueHeld : List (Nat × Nat × UeRequest)
  mcasts : List Mcast
  groups : List Group
  colls : List Coll
  txq : List TxItem
  rx : List WindowItem
  keys : Nat
  outbox : List Message
  deriving DecidableEq, Repr

/-- The die: operations in flight, L2 (dirty bytes by key slot and physical address, read-only copies by line and crossbar sector (R325), poisoned lines, error counters, line frames retired in each slice, the last correctable error of each line frame: the line, and 2 ^ 33 * (sector + 1) more for a copy in a sector), the dispatcher, and the page requests of dispatcher and engines without a core. cbars holds the CBAR of each gang launch that has used it; stopOrder holds for each stopped job the tasks its stop found with teams to order (R291); statusWrites holds the STATUS words that wait for a page (R275): job, address, word. -/
structure Die where
  loads : List PLoad
  exStores : List ExStore
  drains : List Drain
  l2 : List (Nat × Byte)
  copies : List (Nat × Nat)
  l2Poison : List Nat
  l2errAt : List (Nat × Nat)
  l2cerr : List Word
  l2retired : List (Nat × Nat)
  l2degraded : List Nat
  cbars : List (Nat × Cbar)
  tasks : List Task
  stoppedJobs : List Nat
  stopOrder : List (Nat × List Nat)
  pages : List (Nat × Nat)
  statusWrites : List (Nat × Nat × DWord)
  deriving DecidableEq, Repr

/-- Which split issues: team, warp position, SEQ. -/
structure Cursor where
  team : Nat
  warp : Nat
  seq : BitVec 16
  deriving DecidableEq, Repr

/-- Where a correctable soft error lies (R168, R327): storage of a core, a line of L2 in its home slice, or its read-only copy in a crossbar sector. -/
inductive SoftError where
  | core (n : Nat)
  | l2 (line : Nat)
  | copy (line sector : Nat)
  deriving DecidableEq, Repr

/-- What moves next: an event of the device, a correctable soft error, an issue of a live slot, an issue whose stores other lanes of the core see late (spec/07 R214, R216), an issue that finds its word not in the instruction cache and waits for it (R61 BLK 9), a co-issue of both live slots of a warp (R74), a write-back of a dirty line of L2 (key slot and line as Phys.lineTag numbers them), or n idle cycles. -/
inductive Turn where
  | event (i : Instr)
  | corrected (e : SoftError)
  | issue (team warp slot : Nat)
  | issueLate (team warp slot : Nat)
  | fetchMiss (team warp slot : Nat)
  | pair (team warp : Nat)
  | evict (tag : Nat)
  | tick (n : Nat)
  deriving DecidableEq, Repr

/-- The state of the machine. agenda, cur, rr, nextId, freeTag and late are the model's own: what moves next, which split issues, the round-robin index, the next fresh identifier, the tag that freshens free values, and whether the stores of the present issue are late ones. -/
structure State where
  clock : Nat
  agenda : List Turn
  cur : Option Cursor
  rr : Nat
  nextId : Nat
  freeTag : Nat
  late : Bool
  teams : List Team
  cores : List Core
  clusters : List Cluster
  die : Die
  pkg : Package
  fab : Fabric
  deriving DecidableEq, Repr

/-- A Runnel engine after module reset: not ready, FIFO empty. -/
def Runnel.reset : Runnel := { ready := false, failed := false, fifo := [] }

/-- A core after module reset. -/
def Core.reset : Core :=
  { ready := false, retired := false, boundary := 0, raising := none, stores := [], poisonL1 := [], tlb := []
    icache := [], pages := [], waiters := [], poison := List.replicate 64 none, slotPoison := []
    runnels := List.replicate 4 Runnel.reset, remote := [], dcplCyc := 0, dcplEvt := 0, dcplWas := [], cerr := 0
    logged := 0, lastUe := none, unfit := false }

/-- A tile after module reset: contents undefined, a free value (spec/08 R225). -/
def Tile.reset (tag : Nat) : Tile := { words := { cells := [], fill := .free tag }, owner := none, unwaited := [], hazard := false }

/-- A cluster after module reset. -/
def Cluster.reset (n : Nat) : Cluster :=
  { ready := false, failed := false, tiles := (List.range 32).map (fun i => Tile.reset (32 * n + i)), table := []
    passes := [], units := [0, 0, 0, 0], tlb := [], logged := 0 }

/-- The package after module reset: the values of R332, slot 0 holding the die's own key; DESIGN CHOICE (notes/assumptions/4.md, 7.md) HBM contents 0, lifecycle Provisioning, staging registers 0, nonce 0. -/
def Package.reset : Package :=
  { hbm := { cells := [], fill := .zero }, keyOf := [], keyring := [{ cipher := 0, material := 0 }]
    keySlots := [(0, 0)], keyStage := 0, keyHost := 0, keyEph := 0, keyStat := 0, ready := 0, failed := 0
    lifecycle := .provisioning, power := .run, pwrLimit := 3600, fsBound := 0x100000, spillPool := 0, framePool := 0
    jobs := [], jobRegs := [], cmdqs := [], egrings := [], debug := .off, dbgResult := 0, dbgNonce := 0, dbgToken := 0
    tokenValid := false, ownerKey := none, firmware := none, idleFor := 0, gated := false, randoms := 0, msix := []
    hostRead := [], reports := [], spareHbm := [] }

/-- The fabric after module reset: the values of R351. -/
def Fabric.reset : Fabric :=
  { fabcfg := 0, cstep := 0x800000, agree := 0x400000, rtime := 0x1000000, uetab := 0, cgroup := 0, ports := []
    uewins := [], pages := [], held := [], order := [], ueHeld := [], mcasts := [], groups := [], colls := []
    txq := [], rx := [], keys := 0, outbox := [] }

/-- The die after module reset: nothing in flight, L2 empty, no record published. -/
def Die.reset : Die :=
  { loads := [], exStores := [], drains := [], l2 := [], copies := [], l2Poison := [], l2errAt := [], l2cerr := [0, 0, 0], l2retired := []
    l2degraded := [], cbars := [], tasks := [], stoppedJobs := [], stopOrder := [], pages := [], statusWrites := [] }

/-- The machine right after module reset (spec/00 R3, spec/12 R332, spec/13 R351): no team resident, nothing ready, nothing booted. -/
def State.reset : State :=
  { clock := 0, agenda := [], cur := none, rr := 0, nextId := 0, freeTag := 192, late := false, teams := []
    cores := List.replicate 24 Core.reset, clusters := (List.range 6).map Cluster.reset, die := Die.reset
    pkg := Package.reset, fab := Fabric.reset }

end Sys2Proof.Machine
end

