-- ==== Sys2Proof/Machine/Bits.lean ====
section
/-! DEFINITION. Bit fields, byte order and sparse storage (spec/00 R3: little-endian everywhere). -/

namespace Sys2Proof.Machine

/-- Bits lo .. lo + w - 1 as a number. -/
def bitsOf {n : Nat} (x : BitVec n) (lo w : Nat) : Nat := (x.toNat >>> lo) % 2 ^ w

/-- Bit i. -/
def bitOf {n : Nat} (x : BitVec n) (i : Nat) : Bool := x.getLsbD i

/-- x with bits lo .. lo + w - 1 replaced by the low w bits of v. -/
def setBits {n : Nat} (x : BitVec n) (lo w v : Nat) : BitVec n :=
  BitVec.ofNat n (x.toNat - bitsOf x lo w * 2 ^ lo + v % 2 ^ w * 2 ^ lo)

/-- The low n bits of x, sign-extended to m bits. -/
def sextTo (m : Nat) {n : Nat} (x : BitVec n) : BitVec m := x.signExtend m

/-- The value of the listed cell at k. -/
def cellsGet {α : Type} : List (Nat × α) → Nat → Option α
  | [], _ => none
  | (a, v) :: r, k => if a = k then some v else cellsGet r k

/-- The cells with k set to v, addresses kept rising. -/
def cellsSet {α : Type} : List (Nat × α) → Nat → α → List (Nat × α)
  | [], k, v => [(k, v)]
  | (a, x) :: r, k, v => if k < a then (k, v) :: (a, x) :: r else if k = a then (k, v) :: r else (a, x) :: cellsSet r k v

/-- The cells without k. -/
def cellsErase {α : Type} : List (Nat × α) → Nat → List (Nat × α)
  | [], _ => []
  | (a, x) :: r, k => if a = k then r else (a, x) :: cellsErase r k

/-- Addresses strictly rise. -/
def cellsRising {α : Type} : List (Nat × α) → Bool
  | [] => true
  | [_] => true
  | (a, _) :: (b, y) :: r => decide (a < b) && cellsRising ((b, y) :: r)

/-- What an unlisted address of a store reads as. -/
def Fill.value (w : Nat) : Fill → Nat → BitVec w
  | .zero, _ => 0
  | .free tag, k => (Config.freeBits tag k).setWidth w

/-- The value at an address. -/
def Store.get {w : Nat} (m : Store w) (k : Nat) : BitVec w := (cellsGet m.cells k).getD (m.fill.value w k)

/-- A write. With fill zero, writing zero removes the cell, so that equal contents are equal data. -/
def Store.put {w : Nat} (m : Store w) (k : Nat) (v : BitVec w) : Store w :=
  match m.fill with
  | .zero => { m with cells := if v = 0 then cellsErase m.cells k else cellsSet m.cells k v }
  | .free _ => { m with cells := cellsSet m.cells k v }

/-- The canonical form: addresses strictly rising and, with fill zero, no cell that lists zero. -/
def Store.wf {w : Nat} (m : Store w) : Bool :=
  cellsRising m.cells && (match m.fill with | .zero => m.cells.all (fun c => c.2 != 0) | .free _ => true)

/-- The canonical form of a memory. -/
def Memory.wf (m : Memory) : Bool := Store.wf m

/-- Consecutive values from an address on. -/
def Store.read {w : Nat} (m : Store w) (k n : Nat) : List (BitVec w) := (List.range n).map (fun i => m.get (k + i))

/-- Writes consecutive values from an address on. -/
def Store.write {w : Nat} : Store w → Nat → List (BitVec w) → Store w
  | m, _, [] => m
  | m, k, v :: vs => Store.write (m.put k v) (k + 1) vs

/-- The number whose bytes, least significant first, are given (R3). -/
def leNat : List Byte → Nat
  | [] => 0
  | b :: r => b.toNat + 256 * leNat r

/-- n bytes of a number, least significant first. -/
def leBytes : Nat → Nat → List Byte
  | 0, _ => []
  | n + 1, v => BitVec.ofNat 8 v :: leBytes n (v / 256)

/-- The number whose words, least significant first, are given. -/
def leWords : List Word → Nat
  | [] => 0
  | b :: r => b.toNat + 2 ^ 32 * leWords r

/-- A list without repeats, first occurrences kept. -/
def dedup (l : List Nat) : List Nat := l.foldl (fun acc x => if acc.contains x then acc else acc ++ [x]) []

/-- Sorted ascending (insertion). -/
def insertSorted (le : α → α → Bool) (x : α) : List α → List α
  | [] => [x]
  | y :: r => if le x y then x :: y :: r else y :: insertSorted le x r

/-- Stable insertion sort. -/
def sortBy (le : α → α → Bool) (l : List α) : List α := l.foldr (insertSorted le) []

/-- The element of a list that comes first by le, the earlier on a tie. -/
def firstBy (le : α → α → Bool) : List α → Option α
  | [] => none
  | x :: r => match firstBy le r with
    | none => some x
    | some y => some (if le x y then x else y)

/-- Smallest power-of-two-free rounding: the least multiple of k at or above n. -/
def roundUp (n k : Nat) : Nat := (n + k - 1) / k * k

/-- The least value at or above floor at which a range of n units, aligned to k, avoids every taken range and ends at or below limit. -/
def findRoom (taken : List (Nat × Nat)) (n k limit : Nat) : Option Nat :=
  let cands := 0 :: taken.map (fun r => roundUp (r.1 + r.2) k)
  let good := cands.filter (fun b => decide (b + n ≤ limit) && taken.all (fun r => decide (b + n ≤ r.1) || decide (r.1 + r.2 ≤ b)))
  firstBy (fun a b => decide (a ≤ b)) good

/-- A number from fields: lowest bit, width, value. -/
def packBits (l : List (Nat × Nat × Nat)) : Nat := l.foldl (fun n x => n + x.2.2 % 2 ^ x.2.1 * 2 ^ x.1) 0

end Sys2Proof.Machine
end

