-- ==== Sys2Proof/Machine/Phys.lean ====
section
/-! DEFINITION. Physical memory: HBM under its keys (spec/12 R329-R330), the dirty bytes of L2 (R325), and the stores a core has accepted and not yet performed (spec/07 R208). -/

namespace Sys2Proof.Machine

/-- Replaces element i of a list by its image. -/
def updAt {α : Type} (l : List α) (i : Nat) (f : α → α) : List α :=
  match l, i with
  | [], _ => []
  | x :: r, 0 => f x :: r
  | x :: r, i + 1 => x :: updAt r i f

def State.updPkg (s : State) (f : Package → Package) : State := { s with pkg := f s.pkg }
def State.updDie (s : State) (f : Die → Die) : State := { s with die := f s.die }
def State.updFab (s : State) (f : Fabric → Fabric) : State := { s with fab := f s.fab }

/-- Core c of the die. -/
def State.core (s : State) (c : Nat) : Core := s.cores.getD c Core.reset
def State.updCore (s : State) (c : Nat) (f : Core → Core) : State := { s with cores := updAt s.cores c f }
def State.cluster (s : State) (k : Nat) : Cluster := s.clusters.getD k (Cluster.reset 0)
def State.updCluster (s : State) (k : Nat) (f : Cluster → Cluster) : State := { s with clusters := updAt s.clusters k f }

/-- The device's rank (spec/13 R351). -/
def ownRank (s : State) : Nat := bitsOf s.fab.fabcfg 0 16

/-- The cluster of a core (R2): cores 4k to 4k + 3. -/
def clusterOf (core : Nat) : Nat := core / 4
/-- The crossbar sector of a core (R324). -/
def sectorOf (core : Nat) : Nat := core / 8
/-- The home slice of a physical line (R324). -/
def homeSlice (line : Nat) : Nat := (line + (line >>> 13) + (line >>> 26)) % 72
/-- The stack of a physical address (R329). -/
def stackOf (pa : Nat) : Nat := (pa >>> 11) % 8
/-- The stack that holds a physical address has set its ready bit (R346; READY bits 40:33, R309). -/
def stackReady (s : State) (pa : Nat) : Bool := bitOf s.pkg.ready (33 + stackOf pa)

/-- The key a slot holds, as an index of the keyring; none when the slot is empty (R330). -/
def keyIn (s : State) (slot : Nat) : Option Nat := cellsGet s.pkg.keySlots slot

/-- The key the line of a byte of HBM was written under, lines being the unit of encryption; unlisted lines: slot 0's first key. -/
def keyOfLine (s : State) (pa : Nat) : Nat := (cellsGet s.pkg.keyOf (pa / 128)).getD 0

/-- The 128 addresses of the line that contains pa. -/
def lineAddrs (pa : Nat) : List Nat := (List.range 128).map (fun i => pa / 128 * 128 + i)

/-- The line that contains pa as memory holds it. -/
def storedLine (s : State) (pa : Nat) : List Byte := (lineAddrs pa).map s.pkg.hbm.get

/-- A byte of HBM decrypted under a slot's key: its value when its line was written under that key, else a free value (R330 Aliasing). -/
def readHbm (s : State) (slot pa : Nat) : Byte :=
  match keyIn s slot with
  | none => (Config.freeBits s.freeTag pa).setWidth 8
  | some k => if keyOfLine s pa = k then s.pkg.hbm.get pa else Config.aliasByte k (keyOfLine s pa) pa (storedLine s pa)

/-- Where L2 keeps a byte: its lines are tagged with the key slot they were filled under (R330). -/
def l2Key (slot pa : Nat) : Nat := slot * 2 ^ 40 + pa

/-- The line of pa as it is filled under a slot's key and written back whole under it (R330): every byte of HBM under that key. -/
def rekeyLine (s : State) (slot k pa : Nat) : State :=
  if keyOfLine s pa = k then s
  else
    let bs := (lineAddrs pa).map (fun a => (a, readHbm s slot a))
    s.updPkg (fun p => { p with
      hbm := bs.foldl (fun m x => m.put x.1 x.2) p.hbm
      keyOf := if k = 0 then cellsErase p.keyOf (pa / 128) else cellsSet p.keyOf (pa / 128) k })

/-- A byte of HBM encrypted with its line under a slot's key; under an emptied slot it is lost (DESIGN CHOICE, notes/assumptions/48.md). -/
def writeHbm (s : State) (slot pa : Nat) (b : Byte) : State :=
  match keyIn s slot with
  | none => s
  | some k => (rekeyLine s slot k pa).updPkg (fun p => { p with hbm := p.hbm.put pa b })

/-- The other key slots under which L2 holds dirty bytes of the line of pa. -/
def aliasSlots (s : State) (slot pa : Nat) : List Nat :=
  (s.die.l2.filter (fun c => c.1 % 2 ^ 40 / 128 == pa / 128 && c.1 / 2 ^ 40 != slot)).foldl
    (fun acc c => if acc.contains (c.1 / 2 ^ 40) then acc else acc ++ [c.1 / 2 ^ 40]) []

/-- Lines that L2 holds under other slots keep what they were filled with when memory under them changes: the clean bytes of a dirty one are listed with it (R330 Aliasing). -/
def keepAliases (s : State) (slot pa : Nat) : State :=
  (aliasSlots s slot pa).foldl (fun s k => s.updDie (fun d => { d with l2 := (lineAddrs pa).foldl (fun m a =>
    if (cellsGet d.l2 (l2Key k a)).isSome then m else cellsSet m (l2Key k a) (readHbm s k a)) d.l2 })) s

/-- The coherent value of a byte under a key slot: L2's when dirty there, else HBM's. -/
def readPhys (s : State) (slot pa : Nat) : Byte :=
  match cellsGet s.die.l2 (l2Key slot pa) with
  | some b => b
  | none => readHbm s slot pa

/-- The read-only copies of a line are invalidated before a write to it is performed (R325). -/
def dropCopies (l : List (Nat × Nat)) (pa : Nat) : List (Nat × Nat) := l.filter (fun x => x.1 != pa / 128)

/-- A write performed at the home slice. -/
def writePhys (s : State) (slot pa : Nat) (b : Byte) : State :=
  s.updDie (fun d => { d with l2 := cellsSet d.l2 (l2Key slot pa) b, copies := dropCopies d.copies pa })

/-- A write that no cache keeps. -/
def writeUncached (s : State) (slot pa : Nat) (b : Byte) : State :=
  writeHbm ((keepAliases s slot pa).updDie (fun d => { d with l2 := cellsErase d.l2 (l2Key slot pa), copies := dropCopies d.copies pa })) slot pa b

/-- A line that every byte of a write covers loses its poison mark (R327). -/
def clearCovered (s : State) (bytes : List (Nat × Byte)) : State :=
  if s.die.l2Poison.isEmpty then s
  else s.updDie (fun d => { d with l2Poison := d.l2Poison.filter (fun n =>
    !(List.range 128).all (fun i => bytes.any (fun b => b.1 == n * 128 + i))) })

/-- Several bytes performed at their home slices. -/
def writeBytes (s : State) (slot : Nat) (uncached : Bool) (bytes : List (Nat × Byte)) : State :=
  let s := clearCovered s bytes
  bytes.foldl (fun s b => if uncached then writeUncached s slot b.1 b.2 else writePhys s slot b.1 b.2) s

/-- The device's own writes to its pools. Those to a stack that is not ready are owed until it is (spec/12 R346; DESIGN CHOICE, notes/assumptions/49.md): the team is not switched out for them. -/
def writeOwn (s : State) (bytes : List (Nat × Byte)) : State := writeBytes s 0 false (bytes.filter (fun b => stackReady s b.1))

/-- Consecutive bytes from pa on. -/
def readPhysList (s : State) (slot pa n : Nat) : List Byte := (List.range n).map (fun i => readPhys s slot (pa + i))

/-- A number of n bytes at pa. -/
def readPhysNat (s : State) (slot pa n : Nat) : Nat := leNat (readPhysList s slot pa n)

/-- Addresses paired with the bytes laid out from pa on. -/
def bytesAt (pa : Nat) (bs : List Byte) : List (Nat × Byte) := (List.range bs.length).zip bs |>.map (fun p => (pa + p.1, p.2))

/-- n bytes of a number performed at pa. -/
def writePhysNat (s : State) (slot pa n v : Nat) : State := writeBytes s slot false (bytesAt pa (leBytes n v))

/-- One dirty byte of L2 written back to HBM under its key (R325, R330). -/
def writeBackByte (s : State) (slot pa : Nat) : State :=
  match cellsGet s.die.l2 (l2Key slot pa) with
  | none => s
  | some b => writeUncached s slot pa b

/-- The line of an L2 cell's address with its key slot, as one number. -/
def lineTag (key : Nat) : Nat := key / 128

/-- The dirty bytes of one tagged line of L2 written back together under its key (R330). -/
def writeBackLine (s : State) (tag : Nat) : State :=
  (s.die.l2.filter (fun c => lineTag c.1 == tag)).foldl (fun s c => writeUncached s (c.1 / 2 ^ 40) (c.1 % 2 ^ 40) c.2) s

/-- The dirty lines of L2, ascending. -/
def dirtyLines (s : State) : List Nat :=
  s.die.l2.foldl (fun acc c => if acc.getLast? = some (lineTag c.1) then acc else acc ++ [lineTag c.1]) []

/-- L2 written back and emptied (R343 Retain). -/
def writeBackAll (s : State) : State := (dirtyLines s).foldl writeBackLine s

/-- The byte the newest of a core's pending stores gives an address, if any does. -/
def pendingByte (stores : List PStore) (slot pa : Nat) : Option Byte :=
  stores.foldl (fun acc st =>
    if st.key = slot then
      st.bytes.foldl (fun a b => if b.1 = pa then some b.2 else a) acc
    else acc) none

/-- A byte as a core sees it: its own pending stores first (R208), then the coherent value. -/
def coreByte (s : State) (core slot pa : Nat) : Byte :=
  match pendingByte (s.core core).stores slot pa with
  | some b => b
  | none => readPhys s slot pa

/-- The pending stores of a core that lane L of warp wi of a team sees: all but the late ones of other lanes (spec/07 R214, R216). -/
def seenBy (team wi L : Nat) (st : PStore) : Bool := !st.late || (st.team == team && st.warp == wi && inMask st.lanes L)

/-- The machine as lane L of warp wi of a team on a core reads it. -/
def laneView (s : State) (core team wi L : Nat) : State :=
  s.updCore core (fun c => { c with stores := c.stores.filter (seenBy team wi L) })

/-- The machine as no lane of a core in particular reads it: without the late stores. -/
def coreView (s : State) (core : Nat) : State :=
  s.updCore core (fun c => { c with stores := c.stores.filter (fun st => !st.late) })

/-- A line of L2 is marked poisoned (R327). -/
def l2Poisoned (s : State) (pa : Nat) : Bool := s.die.l2Poison.contains (pa / 128)
/-- A line of a core's L1 is marked poisoned (R169). -/
def l1Poisoned (s : State) (core pa : Nat) : Bool := (s.core core).poisonL1.any (fun x => x.1 == pa / 128)

end Sys2Proof.Machine
end

