-- ==== Sys2Proof/Machine/Translate.lean ====
section
/-! DEFINITION. Apertures and translation (spec/11 R316-R321, spec/12 R329-R330, R333, R346). -/

namespace Sys2Proof.Machine

/-- Trap cause codes (R302). -/
def causeILLOP : BitVec 8 := 0x01
def causeILLOPND : BitVec 8 := 0x02
def causeILLROLE : BitVec 8 := 0x03
def causePRIV : BitVec 8 := 0x04
def causeDIVERGE : BitVec 8 := 0x05
def causeSPILL : BitVec 8 := 0x06
def causeALIGN : BitVec 8 := 0x07
def causePROT : BitVec 8 := 0x08
def causeNOMAP : BitVec 8 := 0x09
def causePOISON : BitVec 8 := 0x0A
def causeQDEAD : BitVec 8 := 0x0B
def causeRINGBND : BitVec 8 := 0x0C
def causeSLOTPOISON : BitVec 8 := 0x0D
def causeGANG : BitVec 8 := 0x0E
def causeTOKEN : BitVec 8 := 0x0F
def causeECCU : BitVec 8 := 0x10
def causeFABRIC : BitVec 8 := 0x11
def causeVIEWCHG : BitVec 8 := 0x12
def causeMCASTPART : BitVec 8 := 0x13
def causeSWTRAP : BitVec 8 := 0x14
def causeBKPT : BitVec 8 := 0x15
def causeSPAWNDEPTH : BitVec 8 := 0x16
def causeEXCHEXIT : BitVec 8 := 0x17
def causeINTEGRITY : BitVec 8 := 0x18

/-- What an access needs of a leaf (R320). -/
inductive Need where
  | r
  | w
  | rw
  | x
  deriving DecidableEq, Repr

/-- The register of the valid job slot of a job id (R333). -/
def jobSlot (s : State) (job : Nat) : Option (BitVec 512) :=
  (s.pkg.jobs.find? (fun j => bitOf j.2 63 && bitsOf j.2 32 16 == job)).map (·.2)

/-- The level-0 table of a job slot, bits 103:64. -/
def slotRoot (j : BitVec 512) : Nat := bitsOf j 64 40
def slotTvecA (j : BitVec 512) : DWord := BitVec.ofNat 64 (bitsOf j 128 57)
def slotTvecE (j : BitVec 512) : DWord := BitVec.ofNat 64 (bitsOf j 192 57)
def slotPpool (j : BitVec 512) : Nat := bitsOf j 256 40
def slotPsize (j : BitVec 512) : Nat := (bitsOf j 296 8 + 1) * 4096
def slotPcount (j : BitVec 512) : Nat := bitsOf j 304 16
def slotPkey (j : BitVec 512) : Nat := bitsOf j 320 11

/-- The fields of a page table entry (R319). -/
def pteV (e : DWord) : Bool := bitOf e 0
def pteP (e : DWord) : Bool := bitOf e 1
def pteLeaf (e : DWord) : Bool := bitOf e 2
def pteR (e : DWord) : Bool := bitOf e 3
def pteW (e : DWord) : Bool := bitOf e 4
def pteX (e : DWord) : Bool := bitOf e 5
def pteMig (e : DWord) : Bool := bitOf e 6
def pteCattr (e : DWord) : Nat := bitsOf e 7 2
def pteAddr (e : DWord) : Nat := bitsOf e 12 40 * 4096
def pteKey (e : DWord) : Nat := bitsOf e 53 11

/-- The lowest VA bit a level indexes, which is also the size of its leaf's page (R318). -/
def levelShift : Nat → Nat
  | 0 => 39
  | 1 => 30
  | 2 => 21
  | _ => 16

/-- How many entries a table of a level has, as a power of two (R318). -/
def levelBits : Nat → Nat
  | 0 => 18
  | 3 => 5
  | _ => 9

/-- An entry with V = 1 is malformed (R320). -/
def pteMalformed (level : Nat) (e : DWord) : Bool :=
  bitOf e 52 || bitsOf e 9 3 != 0 || pteCattr e == 3 || (pteLeaf e && level == 0) || (!pteLeaf e && level == 3) ||
    (pteLeaf e && pteAddr e % 2 ^ levelShift level != 0)

/-- The outcome of a walk: the leaf with its level, a recoverable miss, or NOMAP. -/
inductive Walk where
  | leaf (level : Nat) (pte : DWord)
  | miss
  | nomap
  deriving DecidableEq, Repr

/-- The walk of R318 from a table on, levels in order; each entry is read through L2 under slot 0 and examined in the order of R320. -/
def walkFrom (s : State) (va : Nat) : List Nat → Nat → Walk
  | [], _ => .nomap
  | level :: rest, table =>
    let pa := table + 8 * ((va >>> levelShift level) % 2 ^ levelBits level)
    if pa ≥ Config.hbmBytes then .nomap
    else if !stackReady s pa then .miss
    else
      let e := BitVec.ofNat 64 (readPhysNat s 0 pa 8)
      if !pteV e then .nomap
      else if pteMalformed level e then .nomap
      else if !pteP e then (if pteMig e then .miss else .nomap)
      else if pteAddr e ≥ Config.hbmBytes then .nomap
      else if pteLeaf e then .leaf level e
      else walkFrom s va rest (pteAddr e)

/-- The walk of a VA under a job (R320: no valid job slot gives NOMAP). -/
def walk (s : State) (job va : Nat) : Walk :=
  match jobSlot s job with
  | none => .nomap
  | some j => walkFrom s va [0, 1, 2, 3] (slotRoot j)

/-- Who makes an access: the job, the core through whose TLBs it goes (none for an agent without one), and the key id that KEYOVR puts in place of KEYID. -/
structure Agent where
  job : Nat
  core : Option Nat
  keyovr : Option Nat
  deriving DecidableEq, Repr

/-- A TLB entry maps a VA for a job. -/
def tlbHits (job va : Nat) (e : TlbEntry) : Bool := e.job == job && va >>> levelShift e.level == e.vpn

/-- The cached translation an agent may still use (R321). -/
def tlbFind (s : State) (a : Agent) (va : Nat) : Option TlbEntry :=
  match a.core with
  | none => none
  | some c =>
    match (s.core c).tlb.find? (tlbHits a.job va) with
    | some e => some e
    | none => (s.cluster (clusterOf c)).tlb.find? (tlbHits a.job va)

/-- The walk's outcome, or a translation still cached that differs from it: a free choice, for the manual leaves replacement open (R321). -/
def walkCached (s : State) (a : Agent) (va : Nat) : Walk :=
  let w := walk s a.job va
  match tlbFind s a va with
  | none => w
  | some e => if w = .leaf e.level e.pte then w
              else if Config.freeBool s.freeTag va then .leaf e.level e.pte else w

/-- A translated access: physical address, key slot, page attribute, and the TLB entry it uses. -/
structure Mapped where
  pa : Nat
  slot : Nat
  cattr : Nat
  entry : TlbEntry
  deriving DecidableEq, Repr

/-- The outcome of a translation (R320): mapped, a recoverable miss, or a cause. -/
inductive Xlat where
  | ok (m : Mapped)
  | miss
  | fault (cause : BitVec 8)
  deriving DecidableEq, Repr

/-- The leaf permits the access (R320). -/
def permitted (e : DWord) : Need → Bool
  | .r => pteR e
  | .w => pteW e
  | .rw => pteR e && pteW e
  | .x => pteX e

/-- The translation of a GLOBAL address (R318-R321, R329, R330, R346). -/
def translate (s : State) (a : Agent) (va : Nat) (need : Need) : Xlat :=
  match walkCached s a va with
  | .miss => .miss
  | .nomap => .fault causeNOMAP
  | .leaf level e =>
    let slot := a.keyovr.getD (pteKey e)
    let pa := pteAddr e + va % 2 ^ levelShift level
    if !permitted e need || (keyIn s slot).isNone then .fault causePROT
    else if pa ≥ Config.hbmBytes then .fault causeNOMAP
    else if !stackReady s pa then .miss
    else .ok { pa := pa, slot := slot, cattr := pteCattr e
               entry := { job := a.job, level := level, vpn := va >>> levelShift level, pte := e } }

/-- Adds a translation to a TLB of n entries, the oldest leaving. -/
def tlbAdd (n : Nat) (l : List TlbEntry) (e : TlbEntry) : List TlbEntry :=
  if l.contains e then l
  else (e :: l.filter (fun x => !(x.job == e.job && x.level == e.level && x.vpn == e.vpn))).take n

/-- Translations used by an agent are held in its core's and its cluster's TLB (R321). -/
def noteTlb (s : State) (a : Agent) (es : List TlbEntry) : State :=
  match a.core with
  | none => s
  | some c => es.foldl (fun s e =>
      (s.updCore c (fun k => { k with tlb := tlbAdd 128 k.tlb e })).updCluster (clusterOf c)
        (fun k => { k with tlb := tlbAdd 2048 k.tlb e })) s

/-- The 64 KiB page of a VA, the unit of page requests (R320). -/
def pageOf (va : Nat) : Nat := va / 0x10000

def scratchBase : Nat := 0x01FF000000000000
def clusterBase : Nat := 0x01FF000001000000
def privateBase : Nat := 0x01FF010000000000
/-- The first address above GLOBAL (R316). -/
def globalTop : Nat := 0x01FF000000000000

/-- Where an address falls (R316), with its offset in the window. -/
inductive Aperture where
  | scratch (off : Nat)
  | cluster (off : Nat)
  | priv (off : Nat)
  | global
  | outside
  deriving DecidableEq, Repr

def apertureOf (va : Nat) : Aperture :=
  if va < globalTop then .global
  else if va < scratchBase + 0x100000 then .scratch (va - scratchBase)
  else if clusterBase ≤ va ∧ va < clusterBase + 0x400000 then .cluster (va - clusterBase)
  else if privateBase ≤ va ∧ va < privateBase + 0x10000000000 then .priv (va - privateBase)
  else .outside

/-- Team number id, if any. -/
def State.team? (s : State) (id : Nat) : Option Team := s.teams.find? (fun t => t.id == id)
/-- Replaces a team by its number. -/
def State.setTeam (s : State) (t : Team) : State := { s with teams := s.teams.map (fun x => if x.id = t.id then t else x) }
def State.updTeam (s : State) (id : Nat) (f : Team → Team) : State :=
  { s with teams := s.teams.map (fun x => if x.id = id then f x else x) }

/-- The team occupies its footprint (R286). -/
def Team.placed (t : Team) : Bool :=
  match t.status with
  | .resident | .halted | .saving | .restoring => true
  | _ => false

/-- Where one byte of an access lies: a byte of the team's scratchpad (team offset, exchange bank resolved), a byte of a gang member's exchange area, or a physical byte under a key slot with its page attribute. -/
inductive Place where
  | scr (off : Nat)
  | ex (team off : Nat)
  | phys (slot pa cattr : Nat)
  deriving DecidableEq, Repr

/-- The groups of R187 that accept apertures alike. -/
inductive AccGroup where
  | data
  | fullEmpty
  | atomic
  deriving DecidableEq, Repr

/-- What the checks of R189 say of one lane: the places of its bytes with the translations used, a cause, or missing pages. -/
inductive LaneRes where
  | ok (ps : List Place) (es : List TlbEntry)
  | fault (cause : BitVec 8)
  | miss (pages : List Nat)
  deriving DecidableEq, Repr

/-- The scratchpad byte that a team offset names now: the live bank stands at size .. size + E - 1 (R165, R239). -/
def liveOffset (sc : Scratch) (off : Nat) : Nat :=
  if off < sc.size then off else if sc.secondLive then off + sc.exch else off

/-- The shadow bank's byte for an offset in the exchange area (R239). -/
def shadowOffset (sc : Scratch) (o : Nat) : Nat := if sc.secondLive then sc.size + o else sc.size + sc.exch + o
/-- The live bank's byte for an offset in the exchange area. -/
def liveExOffset (sc : Scratch) (o : Nat) : Nat := if sc.secondLive then sc.size + sc.exch + o else sc.size + o

/-- Bytes of team t's scratchpad at a SCRATCH offset of the core, or PROT (R165, R239). -/
def scratchPlaces (t : Team) (g : AccGroup) (off width : Nat) : LaneRes :=
  let sc := t.scr
  let lim := if g = .fullEmpty then sc.size else sc.size + sc.exch
  if off < sc.base ∨ off - sc.base + width > lim then .fault causePROT
  else .ok ((List.range width).map (fun i => .scr (liveOffset sc (off - sc.base + i)))) []

/-- Member g of a team's gang launch (R240, R243). -/
def gangMember (s : State) (t : Team) (g : Nat) : Option Team :=
  s.teams.find? (fun x => x.ident.launch == t.ident.launch && x.ident.member == g)

/-- Bytes of a gang member's exchange area, or PROT (R240). -/
def clusterPlaces (s : State) (t : Team) (g : AccGroup) (off width : Nat) : LaneRes :=
  let c := off / 0x100000
  let j := off % 0x100000 / 0x40000
  let o := off % 0x40000
  match gangMember s t (4 * j + c) with
  | none => .fault causePROT
  | some m =>
    if g ≠ .data ∨ !m.placed ∨ o + width > m.scr.exch then .fault causePROT
    else .ok ((List.range width).map (fun i => .ex m.id (o + i))) []

/-- The physical address of PRIVATE offset o of a lane (R317). -/
def privatePa (j : BitVec 512) (slot lane o : Nat) : Nat :=
  slotPpool j + slot * 32 * slotPsize j + o / 4 * 128 + 4 * lane + o % 4

/-- The page attribute the model gives PRIVATE memory: L1 and L2, whatever an instruction's CACHE field says (spec/06 R186). -/
def cattrPrivate : Nat := 3

/-- Bytes of a lane's private memory, or PROT; a stack that is not ready counts as a recoverable miss (R317, R330, R346). -/
def privatePlaces (s : State) (t : Team) (w : Warp) (g : AccGroup) (lane off width : Nat) : LaneRes :=
  match jobSlot s t.ident.job with
  | none => .fault causePROT
  | some j =>
    if g = .fullEmpty ∨ off + width > slotPsize j ∨ (keyIn s (slotPkey j)).isNone then .fault causePROT
    else if (List.range width).any (fun i => !stackReady s (privatePa j w.privSlot lane (off + i))) then
      .miss [pageOf (privateBase + off)]
    else .ok ((List.range width).map (fun i => .phys (slotPkey j) (privatePa j w.privSlot lane (off + i)) cattrPrivate)) []

/-- Bytes of a GLOBAL range of at most two pages; a miss or fault on either page is the lane's (R188). Of two, a fault comes before a miss and the lower page's fault first (DESIGN CHOICE, notes/assumptions/42.md). -/
def globalPlaces (s : State) (a : Agent) (va width : Nat) (need : Need) : LaneRes :=
  let last := va + width - 1
  let one := pageOf va == pageOf last
  match translate s a va need, (if one then translate s a va need else translate s a (pageOf last * 0x10000) need) with
  | .fault c, _ => .fault c
  | _, .fault c => .fault c
  | .miss, .miss => .miss (dedup [pageOf va, pageOf last])
  | .miss, .ok _ => .miss [pageOf va]
  | .ok _, .miss => .miss [pageOf last]
  | .ok m, .ok n =>
    .ok ((List.range width).map (fun i =>
        if pageOf (va + i) = pageOf va then .phys m.slot (m.pa + i) m.cattr
        else .phys n.slot (n.pa + (va + i) % 0x10000) n.cattr))
      (if one then [m.entry] else [m.entry, n.entry])

/-- The aperture and translation steps of R189 for one lane's element. -/
def laneAccess (s : State) (t : Team) (w : Warp) (a : Agent) (g : AccGroup) (need : Need) (lane va width : Nat) : LaneRes :=
  match apertureOf va with
  | .outside => .fault causePROT
  | .scratch off => scratchPlaces t g off width
  | .cluster off => clusterPlaces s t g off width
  | .priv off => privatePlaces s t w g lane off width
  | .global => if g = .fullEmpty ∨ va + width > globalTop then .fault causePROT else globalPlaces s a va width need

/-- A byte as a team's core reads it: its scratchpad, a member's live exchange bank, or memory (R239, R240, R208). -/
def readPlace (s : State) (t : Team) : Place → Byte
  | .scr off => t.scr.bytes.get off
  | .ex id o =>
    match s.team? id with
    | none => 0
    | some m => m.scr.bytes.get (liveExOffset m.scr o)
  | .phys slot pa _ => coreByte s t.core slot pa

/-- The value of an element from its places. -/
def readElem (s : State) (t : Team) (ps : List Place) : Nat := leNat (ps.map (readPlace s t))

/-- Some byte lies on a poisoned L1 line of the core: ECCU (R169, R189). -/
def elemPoisoned (s : State) (core : Nat) (ps : List Place) : Bool :=
  ps.any (fun p => match p with | .phys _ pa _ => l1Poisoned s core pa | _ => false)

/-- Some byte lies on a poisoned L2 line, whose consumption kills the team (R327). -/
def elemL2Poisoned (s : State) (ps : List Place) : Bool :=
  ps.any (fun p => match p with | .phys _ pa _ => l2Poisoned s pa | _ => false)

end Sys2Proof.Machine
end

