-- ==== Sys2Proof/Machine/Work.lean ====
section
/-! DEFINITION. Tasks and teams as the dispatcher ends them: STATUS, sluice signals, finishing, failing, killing and stopping (spec/10 R275-R280, R291, spec/05 R169-R170). -/

namespace Sys2Proof.Machine

/-- The clock runs in Run and Idle (R312, R343). -/
def clockRuns (s : State) : Bool := s.pkg.power == .run || s.pkg.power == .idle

/-- An event of the module's own work: nothing of it happens in Retain, whose SRAM is only held, nor in Off (R343). -/
def whenClocked (s : State) (o : Host.Outcome State Fault Refusal) : Host.Outcome State Fault Refusal :=
  if clockRuns s then o else .next s

def State.task? (s : State) (id : Nat) : Option Task := s.die.tasks.find? (fun t => t.id == id)
def State.updTask (s : State) (id : Nat) (f : Task → Task) : State :=
  s.updDie (fun d => { d with tasks := d.tasks.map (fun t => if t.id = id then f t else t) })

def State.group? (s : State) (g : Nat) : Option Group := s.fab.groups.find? (fun x => x.num == g)
/-- The view a group holds: of an excluded group the last it held, of an uninstalled one 0 (R386, R387). -/
def viewHeld (s : State) (g : Nat) : Word := match s.group? g with | some x => x.view | none => 0

/-- A fresh identifier. -/
def State.fresh (s : State) : Nat × State := (s.nextId, { s with nextId := s.nextId + 1 })

/-- Fields of a task record (R273). -/
def recKdesc (r : BitVec 1024) : Nat := bitsOf r 0 64
def recGrid (r : BitVec 1024) : Nat := bitsOf r 64 64
def recPrio (r : BitVec 1024) : Nat := bitsOf r 128 3
def recIdem (r : BitVec 1024) : Bool := bitOf r 131
def recDds (r : BitVec 1024) : Bool := bitOf r 132
def recStopJob (r : BitVec 1024) : Bool := bitOf r 133
def recGang (r : BitVec 1024) : Nat := bitsOf r 134 4
def recScratch (r : BitVec 1024) : Nat := bitsOf r 138 10
def recJob (r : BitVec 1024) : Nat := bitsOf r 176 16
def recArgs (r : BitVec 1024) : Nat := bitsOf r 192 64
def recIn (r : BitVec 1024) (i : Nat) : Nat := bitsOf r (256 + 64 * i) 64
def recOut (r : BitVec 1024) (i : Nat) : Nat := bitsOf r (512 + 64 * i) 64
def recCsl (r : BitVec 1024) : Nat := bitsOf r 768 64
def recReload (r : BitVec 1024) (i : Nat) : Nat := bitsOf r (896 + 16 * i) 16

/-- STATE of STATUS (R275). -/
def statusCode : TaskState → Nat
  | .held => 0
  | .waiting => 1
  | .dispatched => 2
  | .complete => 3
  | .failed => 4
  | .stopped => 5
  | .refused => 6

/-- The STATUS word (R275). -/
def statusWord (st : TaskState) (code failTeam : Nat) : DWord :=
  BitVec.ofNat 64 (failTeam % 2 ^ 32 * 2 ^ 32 + statusCode st * 256 + code % 256)

/-- An access that goes through no core's TLB and no KEYOVR. -/
def bareAgent (job : Nat) : Agent := { job := job, core := none, keyovr := none }

/-! ## Frames and spill areas of live teams (R65, R315) -/

/-- Bytes of spill area of one warp (R65, R270). -/
def spillBytes (k : Kernel) : Nat := k.spill * 32

/-- Bytes of a context frame (R313). -/
def frameBytes : Nat := 1152 * 1024

/-- A physical byte lies in the frame or in a spill area of a team (R65, R313). -/
def ownsByte (t : Team) (pa : Nat) : Bool :=
  decide (t.save.frame ≤ pa ∧ pa < t.save.frame + frameBytes) ||
    t.warps.any (fun w => decide (w.spillBase ≤ pa ∧ pa < w.spillBase + spillBytes t.ident.kern))

/-- A write by another agent than Speedwell to the frame or a spill area of a live team leaves that team undefined (R65, R315); the debugger may change the frame of a team it holds (spec/12 R345). -/
def touchPools (s : State) (pas : List Nat) : State :=
  { s with teams := s.teams.map (fun t =>
      if (t.placed || (t.status == .saved && !t.trap.held)) && pas.any (ownsByte t) then { t with save := { t.save with corrupt := true } } else t) }

/-- The bytes of one write to some places of memory performed at L2, the whole lines among them clean of poison (R327). -/
def writePlaces (s : State) (ps : List Place) (bs : List Byte) : State :=
  let xs := (ps.zip bs).filterMap (fun x => match x.1 with | .phys slot pa cattr => some (slot, cattr, pa, x.2) | _ => none)
  let s := xs.foldl (fun s x => writeBytes s x.1 (x.2.1 == 2) [x.2.2]) s
  touchPools (clearCovered s (xs.map (·.2.2))) (xs.map (·.2.2.1))

/-- A number of n bytes that the dispatcher writes at a physical address. -/
def writeAgent (s : State) (slot pa n v : Nat) : State := touchPools (writePhysNat s slot pa n v) ((List.range n).map (pa + ·))

/-- A page request of the dispatcher (R271). -/
def dispatcherPage (s : State) (job page : Nat) : State :=
  if s.die.pages.contains (job, page) then s else s.updDie (fun d => { d with pages := d.pages ++ [(job, page)] })

/-- Writes an 8-byte word of a job's GLOBAL memory at L2. While its page is missing, or an earlier write to it waits, the write waits for the page (R271, R275); a page that refuses writes loses it. -/
def writeVa64 (s : State) (job va : Nat) (v : DWord) : State :=
  let wait (s : State) : State := s.updDie (fun d => { d with statusWrites := d.statusWrites ++ [(job, va, v)] })
  if s.die.statusWrites.any (fun x => x.1 == job && x.2.1 == va) then wait s
  else match translate s (bareAgent job) va .w with
    | .ok m => writeAgent s m.slot m.pa 8 v.toNat
    | .miss => wait (dispatcherPage s job (pageOf va))
    | .fault _ => s

/-- Reads n bytes of a job's GLOBAL memory at L2, page by page, with the first outcome that is not a hit. -/
def readVa (s : State) (job va n : Nat) (need : Need) : Sum Xlat (List Byte) :=
  match globalPlaces s (bareAgent job) va n need with
  | .fault c => .inl (.fault c)
  | .miss _ => .inl .miss
  | .ok ps _ => .inr (ps.map (fun p => match p with | .phys slot pa _ => readPhys s slot pa | _ => 0))

/-- STATUS written at the record's own address: bytes 104 to 111 (R275). A host record lies in its queue under slot 0. -/
def writeStatus (s : State) (t : Task) (st : TaskState) (code failTeam : Nat) : State :=
  let s := s.updTask t.id (fun x => { x with st := st })
  if t.host then writeAgent s 0 (t.addr + 104) 8 (statusWord st code failTeam).toNat
  else writeVa64 s t.job (t.addr + 104) (statusWord st code failTeam)

/-- A signal of n to a sluice word (R276). -/
def sluiceSignal (v : DWord) (n : Nat) : DWord :=
  if n = 0 then v
  else if bitOf v 63 then setBits v 32 31 (bitsOf v 32 31 + 1)
  else
    let count := bitsOf v 0 32
    let count' := if n ≥ count then 0 else count - n
    let v := setBits v 0 32 count'
    if count' = 0 then setBits v 63 1 1 else v

/-- FULL of a sluice word. -/
def sluiceFull (v : DWord) : Bool := bitOf v 63

/-- A read-modify-write of an 8-byte word at the home slice. -/
def rmw64 (s : State) (slot pa : Nat) (f : DWord → DWord) : State :=
  writeAgent s slot pa 8 (f (BitVec.ofNat 64 (readPhysNat s slot pa 8))).toNat

/-- A signal to the sluice at a VA of a job (R279). -/
def signalVa (s : State) (job va n : Nat) : State :=
  if va = 0 then s
  else match translate s (bareAgent job) va .rw with
    | .ok m => rmw64 s m.slot m.pa (fun v => sluiceSignal v n)
    | _ => s

/-- Loads, stores, drains, engine commands, matrix requests or remote requests of a team still under way. -/
def outstanding (s : State) (id : Nat) : Bool :=
  s.die.loads.any (fun l => l.team == id) || s.die.exStores.any (fun l => l.team == id) ||
  s.die.drains.any (fun l => l.team == id) ||
  s.cores.any (fun c => c.stores.any (fun l => l.team == id) || c.remote.any (fun l => l.team == id) ||
    c.runnels.any (fun r => r.fifo.any (fun l => l.team == id))) ||
  s.clusters.any (fun c => c.table.any (fun l => l.team == id) || c.passes.any (fun l => l.team == id)) ||
  s.fab.mcasts.any (fun l => l.team == id)

/-- The CBAR of a gang launch (spec/08 R241). -/
def launchCbar (s : State) (launch : Nat) : Cbar :=
  match s.die.cbars.find? (fun x => x.1 == launch) with
  | some x => x.2
  | none => { next := 0, pending := [] }

/-- The team still holds its footprint: it is placed, or it has ended and its operations are completing (R306). -/
def holdsFootprint (s : State) (t : Team) : Bool :=
  t.placed || ((t.status == .finished || t.status == .killed) && outstanding s t.id)

/-- Poison records and slot-poison entries end with their team (R159, R238). -/
def dropTeamRecords (id : Nat) (c : Core) : Core :=
  { c with
    poison := c.poison.map (fun r => match r with | some p => if p.team = id then none else r | none => none)
    slotPoison := c.slotPoison.filter (fun p => p.team != id) }

/-- Poisoned lines of L1 are dropped with their team (R169). -/
def dropPoisonLines (id : Nat) (c : Core) : Core := { c with poisonL1 := c.poisonL1.filter (fun x => x.2 != id) }

/-- Tiles of a team return to the pool (R225). -/
def freeTiles (s : State) (t : Team) : State :=
  s.updCluster (clusterOf t.core) (fun k => { k with
    tiles := k.tiles.map (fun x => if x.owner = some t.id then { x with owner := none, unwaited := [], hazard := false } else x) })

/-- The least multiple of 16 KiB covering the scratchpad in use on a core (R162). -/
def neededBoundary (s : State) (core : Nat) : Nat :=
  (s.teams.filter (fun t => t.core == core && holdsFootprint s t)).foldl
    (fun m t => max m (roundUp (t.scr.base + t.scr.size + 2 * t.scr.exch) 0x4000)) 0

/-- What a team leaves when it gives up its core: its records, its tiles, and a lower boundary (R162, R225). Tiles wait for operations still running. -/
def leaveCore (s : State) (id : Nat) : State :=
  match s.team? id with
  | none => s
  | some t =>
    let s := s.updCore t.core (dropTeamRecords id)
    if outstanding s id then s
    else
      let s := freeTiles s t
      s.updCore t.core (fun c => { c with boundary := min c.boundary (neededBoundary s t.core) })

/-- Ends a team: every warp finishes, nothing of it issues again (R306); its poisoned lines of L1 are dropped (R169); the debugger holds it no longer (R345). -/
def endTeam (s : State) (id : Nat) (st : TeamStatus) : State :=
  let s := { s with cores := s.cores.map (dropPoisonLines id) }
  leaveCore (s.updTeam id (fun t => { t with
    status := st
    warps := t.warps.map (fun w => { w with exited := BitVec.allOnes 32, table := [], spilled := []
                                            slots := [⟨none, 0⟩, ⟨none, 0⟩] })
    trap := { t.trap with handler := none, skid := none, held := false } })) id

/-- A dispatched task has a team that is Resident, Halted, Restoring or Unplaced, or whose save is not complete yet (R286, R291). -/
def hasTeams (s : State) (t : Task) : Bool :=
  t.dispatched && (s.teams.any (fun x => x.ident.task == t.id && x.placed) ||
    (t.st != .refused && t.st != .complete && (decide (t.nextTeam < t.gx * t.gy * t.gz) || !t.relaunch.isEmpty)))

/-- A job stop begins (R291): the job is stopped, the tasks to order are taken, and its unfinished tasks take STATE 5, at once (DESIGN CHOICE, notes/assumptions/48.md). A task that has failed keeps STATE 4, though it has not completed, also the STOPJOB task itself (DESIGN CHOICE, notes/assumptions/49.md). Save requests follow, task by task. -/
def stopJob (s : State) (job : Nat) : State :=
  if s.die.stoppedJobs.contains job then s
  else
    let s := s.updDie (fun d => { d with
      stoppedJobs := d.stoppedJobs ++ [job]
      stopOrder := d.stopOrder ++ [(job, (d.tasks.filter (fun t => t.job == job && hasTeams s t)).map (·.id))] })
    (s.die.tasks.filter (fun t => t.job == job && (t.st == .held || t.st == .waiting || t.st == .dispatched))).foldl
      (fun s t => writeStatus s t .stopped 0 0) s

/-- A task fails (R280): STATE 4 with cause and team, no further team placed, and with STOPJOB its job stops. -/
def failTask (s : State) (id code failTeam : Nat) : State :=
  match s.task? id with
  | none => s
  | some t =>
    if t.st = .failed then s
    else
      let s := writeStatus s t .failed code failTeam
      if recStopJob t.record then stopJob s t.job else s

/-- A team terminates as by HALTT (R297, R306). -/
def terminateTeam (s : State) (t : Team) (code : BitVec 8) : State :=
  failTask (endTeam s t.id .finished) t.ident.task code.toNat t.ident.linear

/-- A team is killed by an uncorrectable error (R169): relaunched once when its task is idempotent, else its task fails with 0x10 (R170). -/
def killTeam (s : State) (id : Nat) : State :=
  match s.team? id with
  | none => s
  | some t =>
    if t.status = .finished ∨ t.status = .killed then s
    else
      let s := endTeam s id .killed
      let idem : Bool := match s.task? t.ident.task with | some k => recIdem k.record | none => false
      if idem ∧ !t.save.relaunched then
        s.updTask t.ident.task (fun k => { k with relaunch := k.relaunch ++ [t.ident.linear] })
      else failTask s t.ident.task causeECCU.toNat t.ident.linear

/-- An operation of a team is over: a team that has ended gives up its core after its last one (R306). -/
def opEnded (s : State) (id : Nat) : State :=
  match s.team? id with
  | none => s
  | some t => if t.status = .finished ∨ t.status = .killed then leaveCore s id else s

/-- The header (R314). -/
def frameHeader (t : Team) (addr state : Nat) : Nat :=
  let i := t.ident
  packBits [(448, 64, addr), (384, 64, i.kern.kdesc), (352, 32, i.x), (336, 16, i.y), (320, 16, i.z), (304, 16, i.job),
    (296, 8, t.save.missing.length), (292, 4, match t.save.why with | none => 0 | some .preempt => 1 | some .pageMiss => 2 | some .jobStop => 3 | some .debug => 4),
    (288, 4, state), (284, 4, t.save.parts.toNat)]

/-- The address of a team's task record for the frame header. -/
def recordAddr (s : State) (t : Team) : Nat := match s.task? t.ident.task with | some k => k.addr | none => 0

/-- Writes the header of a team's frame with a STATE (R314, R315). -/
def writeHeader (s : State) (t : Team) (state : Nat) : State :=
  writeOwn s (bytesAt t.save.frame (leBytes 64 (frameHeader t (recordAddr s t) state)))

/-- The frame's record number of a warp: access warps 0 to 7, then execute warps. -/
def frameWarp (w : Warp) : Nat := match w.role with | .access => w.index | .execute => 8 + w.index

/-- The halt record in bytes (R313; its place is notes/assumptions/16.md): for each live slot its PC, SEQ, skid count and a valid bit; then MPC, SETA, SETB and ARM. -/
def haltBytes (h : HaltRecord) : List Byte :=
  h.slots.flatMap (fun l => match l with
    | some x => leBytes 8 x.pc.toNat ++ leBytes 8 (packBits [(0, 16, x.seq.toNat), (16, 5, x.count), (31, 1, 1)])
    | none => leBytes 16 0) ++
  leBytes 8 h.mpc.toNat ++ leBytes 8 (packBits [(0, 4, h.setA.toNat), (4, 4, h.setB.toNat), (8, 1, if h.arm then 1 else 0)])

/-- The halt record of a warp, in the context frame of its team (R301, R313). -/
def writeHalt (s : State) (t : Team) (w : Warp) : State :=
  writeOwn s (bytesAt (t.save.frame + 0x400 + 512 * frameWarp w + 0x120) (haltBytes w.halt))

/-- The halt records of every warp of a team. -/
def writeHalts (s : State) (t : Team) : State := t.warps.foldl (fun s w => writeHalt s t w) s

/-- A remote failure, or a requested MCASTPART, that no unit of the team has taken (R363, R369). -/
def untaken (t : Team) : Option (BitVec 8) :=
  t.warps.findSome? (fun w =>
    let part := if w.mcast.pending.isEmpty then none else some causeMCASTPART
    match w.rfault with
    | some r => if r.delivered then part else some r.cause
    | none => part)

/-- A team's last warp has finished (R279): the team finishes and its task counts it; one that has not taken a failure fails with its cause (R363). -/
def finishTeam (s : State) (id : Nat) : State :=
  match s.team? id with
  | none => s
  | some t => match untaken t with
    | some cause => terminateTeam s t cause
    | none => (endTeam s id .finished).updTask t.ident.task (fun k => { k with doneTeams := k.doneTeams + 1 })

end Sys2Proof.Machine
end

