-- ==== Sys2Proof/Machine/Link.lean ====
section
/-! DEFINITION. Ranks, the packets and windows the device sends, ports and fill levels (spec/13 R350-R361). -/

namespace Sys2Proof.Machine

/-- RANK and DOMAIN of FABCFG (R351). -/
def domainOf (s : State) : Nat := bitsOf s.fab.fabcfg 32 16

/-- A rank is in the connected group; the device's own always is (R358). -/
def inCgroup (s : State) (r : Nat) : Bool := r == ownRank s || bitOf s.fab.cgroup r

/-- The members of a bitmap, ascending. -/
def membersOf (b : BitVec 4096) : List Nat := (List.range 4096).filter (bitOf b)
/-- A bitmap from a list of ranks. -/
def bitmapOf (l : List Nat) : BitVec 4096 := l.foldl (fun b r => b ||| BitVec.ofNat 4096 (2 ^ r)) 0
def countOf (b : BitVec 4096) : Nat := (membersOf b).length

/-! ## Packets (R356, R361) -/

/-- The fields of a packet's header. -/
structure Head where
  dest : Nat
  src : Nat
  job : Nat
  opc : Nat
  cls : Nat
  group : Nat
  vtag : Nat
  stream : Nat
  seq : Nat
  mask : LaneMask
  page : Nat
  req : Nat
  digest : Nat

/-- The 32-byte header (R361). -/
def Head.bits (h : Head) : BitVec 256 :=
  BitVec.ofNat 16 h.dest ++ BitVec.ofNat 16 h.src ++ BitVec.ofNat 16 h.job ++ BitVec.ofNat 8 h.opc ++ BitVec.ofNat 2 h.cls ++
    BitVec.ofNat 6 h.group ++ BitVec.ofNat 16 h.vtag ++ BitVec.ofNat 4 h.stream ++ BitVec.ofNat 16 h.seq ++ h.mask ++
    BitVec.ofNat 41 h.page ++ (0 : BitVec 19) ++ BitVec.ofNat 32 h.req ++ BitVec.ofNat 32 h.digest

/-- The lanes a packet carries, as MASK. -/
def maskOfLanes (l : List Nat) : LaneMask := maskOf (fun L => l.contains L)

/-- Bytes of an element of a remote instruction (R366-R368). -/
def remoteWidth (opc : Nat) : Nat := if opc = 0xD0 ∨ opc = 0xD2 ∨ opc = 0xD6 ∨ opc = 0xD9 then 4 else 8

/-- A request packet with its header, in class 3 (R361). -/
def requestMsg (p : Packet) : Message :=
  .request (Head.bits
    { dest := p.dest, src := p.src, job := p.job, opc := p.opc, cls := 3, group := 0, vtag := 0, stream := p.stream, seq := p.seq
      mask := maskOfLanes (p.lanes.map (·.1)), page := ((p.lanes.map (fun x => x.2.1.toNat)).headD 0) / 0x10000, req := p.req, digest := 0 }) p

/-- Bytes of a request: header, 16 bits of offset a lane, the data (R361). -/
def requestBytes (p : Packet) : Nat :=
  32 + roundUp (2 * p.lanes.length) 16 + roundUp ((p.lanes.map (fun l => l.2.2.length * remoteWidth p.opc)).foldl (· + ·) 0) 16

/-- The request writes only: what its response acknowledges. -/
def writesOnly (opc : Nat) : Bool := opc == 0xD2 || opc == 0xD3 || opc == 0xD9

/-- The response to a packet with its header, in class 1: data, acknowledgement, or refusal (R361, R362). -/
def responseMsg (p : Packet) (r : Response) : Message :=
  .response (Head.bits
    { dest := p.src, src := p.dest, job := p.job, opc := if r.lanes.any (fun l => l.2.1 != 0) then 3 else if writesOnly p.opc then 2 else 1, cls := 1
      group := 0, vtag := 0, stream := p.stream, seq := p.seq, mask := maskOfLanes (r.lanes.map (·.1))
      page := ((p.lanes.map (fun x => x.2.1.toNat)).headD 0) / 0x10000, req := r.req, digest := 0 }) r

/-- Bytes of a response: header, the status block of a refusal, the data. -/
def responseBytes (p : Packet) (r : Response) : Nat :=
  32 + (if r.lanes.any (fun l => l.2.1 != 0) then 32 else 0) +
    roundUp (if writesOnly p.opc then 0 else r.lanes.length * remoteWidth p.opc) 16

/-- A collective packet for a member, in class 2 (R361, R374). -/
def collectiveMsg (s : State) (dest job : Nat) (p : CollPacket) : Message :=
  .collective (Head.bits
    { dest := dest, src := ownRank s, job := job, opc := (Config.packetOpc 5).toNat, cls := 2, group := p.group, vtag := p.vtag.toNat
      stream := 0, seq := 0, mask := 0, page := 0, req := 0, digest := p.digest.toNat }) p

/-- A packet of agreement, in class 0 (R361, R374). -/
def controlHead (s : State) (dest job kind group vtag : Nat) : BitVec 256 :=
  Head.bits
    { dest := dest, src := ownRank s, job := job, opc := (Config.packetOpc kind).toNat, cls := 0, group := group, vtag := vtag % 65536
      stream := 0, seq := 0, mask := 0, page := 0, req := 0, digest := 0 }

/-- The header of a packet, or the trailer of a window. -/
def Message.head : Message → BitVec 256
  | .request h _ => h
  | .response h _ => h
  | .collective h _ => h
  | .agreement h _ _ => h
  | .initReady h _ => h
  | .window _ t => t
  | .ueRead .. => 0
  | .ueAnswer _ => 0

/-- The traffic class of a packet: CLASS of its header. -/
def Message.cls (m : Message) : Nat := bitsOf m.head 198 2

/-! ## Ports (R352) -/

def portState (p : Port) : Nat := bitsOf p.reg 16 2
def portMode (p : Port) : Nat := bitsOf p.reg 10 2
def Port.setState (p : Port) (v : Nat) : Port := { p with reg := setBits p.reg 16 2 v }
/-- READY: self-test passed and the first training completed. -/
def Port.setReady (p : Port) : Port := { p with reg := setBits p.reg 15 1 (if p.tested && p.trained then 1 else 0) }

def State.port? (s : State) (n : Nat) : Option Port := (s.fab.ports.find? (fun x => x.1 == n)).map (·.2)
def State.updPort (s : State) (n : Nat) (f : Port → Port) : State :=
  s.updFab (fun b => { b with ports := b.ports.map (fun x => if x.1 = n then (x.1, f x.2) else x) })

/-- The port packets leave by: the lowest Agulanel port that is up, while the domain is enabled (R351). -/
def outPort (s : State) : Option Nat :=
  if domainOf s = 0 then none
  else (s.fab.ports.find? (fun x => portMode x.2 == 1 && portState x.2 == 2)).map (·.1)

/-! ## Fill levels of the receive buffers (R356) -/

/-- How a view tag stands to the local view number (R375). -/
inductive TagClass where
  | current
  | ahead
  | stale
  deriving DecidableEq, Repr

def tagClass (view : BitVec 32) (tag : BitVec 16) : TagClass :=
  let d := (tag - view.setWidth 16).toNat
  if d = 0 then .current else if d ≤ 0x7FFF then .ahead else .stale

/-- Flits of the packets held for later views (R375). -/
def aheadFlits (g : Group) : Nat :=
  ((g.held.filter (fun p => tagClass g.view p.vtag == .ahead)).map (·.flits)).foldl (· + ·) 0

/-- Class and flits of a received packet. -/
def itemCls : WindowItem → Nat
  | .request _ => 3
  | .response _ => 1
  | .collective _ => 2
  | _ => 0
def itemFlits : WindowItem → Nat
  | .request p => (requestBytes p + 127) / 128
  | .collective p => p.flits
  | _ => 1

/-- Flits in the receive buffer of a class. -/
def rxFlits (s : State) (cls : Nat) : Nat := ((s.fab.rx.filter (fun i => itemCls i == cls)).map itemFlits).foldl (· + ·) 0

/-- The fill level of a class; a full hold buffer of a group raises that of class 2 (R356, R375). -/
def fillLevel (s : State) (cls : Nat) : Nat :=
  let n := rxFlits s cls
  if Config.rxFull cls ≤ n then 3
  else if Config.rxHigh cls < n ∨ (cls = 2 ∧ s.fab.groups.any (fun g => decide (256 ≤ aheadFlits g))) then 2
  else if n < Config.rxLow cls then 0 else 1

/-- WM: two bits a class, class 0 lowest. -/
def fillLevels (s : State) : BitVec 8 :=
  BitVec.ofNat 2 (fillLevel s 3) ++ BitVec.ofNat 2 (fillLevel s 2) ++ BitVec.ofNat 2 (fillLevel s 1) ++ BitVec.ofNat 2 (fillLevel s 0)

/-! ## Sending (R353-R356) -/

/-- A packet may give flits at the peer's fill level of its class: at 2 only one already begun, at 3 none (R356). -/
def TxItem.mayGo (wm : BitVec 8) (x : TxItem) : Bool :=
  match bitsOf wm (2 * x.msg.cls) 2 with
  | 3 => false
  | 2 => decide (x.left < x.flits)
  | _ => true

/-- The flits ready for a port. -/
def readyFlits (wm : BitVec 8) (l : List TxItem) : Nat := ((l.filter (TxItem.mayGo wm)).map (·.left)).foldl (· + ·) 0

/-- Takes n flits, packets in order: what stays, and the packets that gave flits with what is left of each. -/
def takeFlits (wm : BitVec 8) : Nat → List TxItem → List TxItem × List TxItem
  | _, [] => ([], [])
  | n, x :: l =>
    if n = 0 then (x :: l, [])
    else if !x.mayGo wm then
      let r := takeFlits wm n l
      (x :: r.1, r.2)
    else if x.left ≤ n then
      let r := takeFlits wm (n - x.left) l
      (r.1, { x with left := 0 } :: r.2)
    else ({ x with left := x.left - n } :: l, [{ x with left := x.left - n }])

/-- The trailer of a window (R353, R354): ACK is the highest counter verified. -/
def trailerOf (s : State) (p : Port) (ctr : Nat) (parts : List TxItem) : BitVec 256 :=
  let aad : BitVec 160 := BitVec.ofNat 64 ctr ++ BitVec.ofNat 32 (p.rxCtr + 0xFFFFFFFF) ++ fillLevels s ++
    BitVec.ofBool p.nack ++ BitVec.ofBool p.txPhase ++ (0 : BitVec 54)
  Config.linkTag p.aes p.key (Config.linkSalt p.key true ++ BitVec.ofNat 64 ctr) aad (parts.map (·.msg.head)) ++ aad

/-- Records what leaves the device. -/
def emit (s : State) (l : List Message) : State := s.updFab (fun b => { b with outbox := b.outbox ++ l })

/-- A port may send a new window: it is up, a switch of keys is not waiting for the windows before it, and fewer than 2^48 windows have gone under this key (R354). -/
def Port.maySend (p : Port) : Bool := portState p == 2 && decide (p.txCtr + 1 < 2 ^ 48) && !(p.txNext.isSome && !p.replay.isEmpty)

/-- A window leaves, its free places filled with idle flits; it stays in the replay buffer, and a packet whose last flit it carries has left (R353). Packets leave by one port; a window of any other carries idle flits and its trailer. -/
def sendWindow (s : State) (n : Nat) : State :=
  match s.port? n with
  | none => s
  | some p =>
    if !p.maySend then s
    else
      let (rest, parts) := if outPort s = some n then takeFlits p.peerWm 5 s.fab.txq else (s.fab.txq, [])
      let t := trailerOf s p p.txCtr parts
      let s := emit (s.updFab (fun b => { b with txq := rest })) (((parts.filter (fun x => x.left == 0)).map (·.msg)) ++ [.window n t])
      s.updPort n (fun p => { p with
        txCtr := p.txCtr + 1, replay := p.replay ++ [{ ctr := p.txCtr, parts := parts }], nack := false, padSince := s.clock
        toldCtr := p.rxCtr, toldWm := fillLevels s })

/-- The flits ready at the port packets leave by. -/
def readyNow (s : State) : Nat :=
  match (outPort s).bind s.port? with
  | some p => readyFlits p.peerWm s.fab.txq
  | none => 0

/-- A port that carries Agulanel windows now (R351-R353). -/
def linkUp (s : State) (p : Port) : Bool := decide (domainOf s ≠ 0) && portMode p == 1 && portState p == 2

/-- A port has flits ready, or something to tell its peer: a window verified since the last trailer, a NACK, another fill level (R353, R356). -/
def owesWindow (s : State) (n : Nat) (p : Port) : Bool :=
  linkUp s p && (p.nack || p.toldCtr != p.rxCtr || p.toldWm != fillLevels s || (outPort s == some n && decide (0 < readyNow s)))

/-- Every full window that is ready leaves; the wait of the flits that remain counts from now when none was ready in s0 (R353). -/
def pump (s0 s : State) : State :=
  match outPort s with
  | none => s
  | some n =>
    let s := if readyNow s0 = 0 then s.updPort n (fun p => { p with padSince := s.clock }) else s
    (List.range (readyNow s / 5)).foldl (fun s _ => sendWindow s n) s

/-- Hands a packet of some bytes to the links. -/
def send (s : State) (bytes : Nat) (m : Message) : State :=
  let n := (bytes + 127) / 128
  pump s (s.updFab (fun b => { b with txq := b.txq ++ [{ msg := m, flits := n, left := n }] }))

/-- A fabric packet returns Idle to Run (spec/12 R343). -/
def wakeIdle (s : State) : State := s.updPkg (fun p => { p with power := if p.power = .idle then .run else p.power })

/-- An event that a link brings: nothing arrives in Retain and Off, where the optics are dark (spec/12 R343). -/
def linkEvent (s : State) (f : State → State) : Host.Outcome State Fault Refusal :=
  if s.pkg.power = .run ∨ s.pkg.power = .idle then .next (f (wakeIdle s)) else .next s

/-- An event that Agulanel brings: none while DOMAIN is 0 (R351). -/
def laneEvent (s : State) (f : State → State) : Host.Outcome State Fault Refusal :=
  if domainOf s = 0 then .next s else linkEvent s f

/-! ## Page requests of the fabric unit (R362, R372) -/

/-- Requests pages in the fabric unit's table of 64; what finds it full is asked for again when an answer frees an entry. -/
def fabricPages (s : State) (job : Nat) (pages : List Nat) : State :=
  pages.foldl (fun s p => s.updFab (fun b =>
    if b.pages.contains (job, p) ∨ b.pages.length ≥ 64 then b else { b with pages := b.pages ++ [(job, p)] })) s

end Sys2Proof.Machine
end

