-- ==== Sys2Proof/Machine/Ops.lean ====
section
/-! DEFINITION. The operations every meaning is written over: the issuing split in its context, registers, live slots (spec/02 R58-R70), divergence and fusion (R62-R68), completion flags, taking a trap and returning from one (spec/11 R297-R308). -/

namespace Sys2Proof.Machine

/-- The issuing split with its warp, its team and the rest of the machine. Changes to them are made here and put back by commit. -/
structure Ctx where
  s : State
  t : Team
  w : Warp
  p : Split
  wi : Nat
  deriving DecidableEq, Repr

/-- The entry of a split table with a SEQ. -/
def findSplit (l : List Split) (q : BitVec 16) : Option Split := l.find? (fun p => p.seq == q)
def putSplit (l : List Split) (p : Split) : List Split := l.map (fun x => if x.seq = p.seq then p else x)
def dropSplit (l : List Split) (q : BitVec 16) : List Split := l.filter (fun x => x.seq != q)

/-- The context of the split that State.cur names. -/
def getCtx (s : State) : Option Ctx :=
  match s.cur with
  | none => none
  | some k =>
    match s.team? k.team with
    | none => none
    | some t =>
      match t.warps[k.warp]? with
      | none => none
      | some w =>
        match findSplit w.table k.seq with
        | none => none
        | some p => some { s := s, t := t, w := w, p := p, wi := k.warp }

/-- The team with the context's warp and split in place. -/
def Ctx.team (c : Ctx) : Team :=
  { c.t with warps := updAt c.t.warps c.wi (fun _ => { c.w with table := putSplit c.w.table c.p }) }

/-- The machine with the context's changes in place. -/
def Ctx.commit (c : Ctx) : State := c.s.setTeam c.team

/-! ## Registers -/

/-- v r in lane L. -/
def Warp.v (w : Warp) (r L : Nat) : Word := (w.vregs.getD r []).getD L 0
/-- s r. -/
def Warp.sr (w : Warp) (r : Nat) : Word := w.sregs.getD r 0
/-- p r as a mask of lanes; p7 reads true (R9). -/
def Warp.p (w : Warp) (r : Nat) : LaneMask := if r = 7 then BitVec.allOnes 32 else w.preds.getD r 0
/-- The pair v r : v r+1 in lane L (R17). -/
def Warp.v64 (w : Warp) (r L : Nat) : DWord := pairOf (w.v r L) (w.v (r + 1) L)
/-- The pair s r : s r+1. -/
def Warp.s64 (w : Warp) (r : Nat) : DWord := pairOf (w.sr r) (w.sr (r + 1))

/-- A register with the lanes of m replaced. -/
def mergeLanes (m : LaneMask) (old : List Word) (f : Nat → Word) : List Word :=
  laneList.map (fun L => if inMask m L then f L else old.getD L 0)

/-- Writes v r in the lanes of m. -/
def Warp.setV (w : Warp) (r : Nat) (m : LaneMask) (f : Nat → Word) : Warp :=
  { w with vregs := w.vregs.set r (mergeLanes m (w.vregs.getD r []) f) }
/-- Writes the pair v r : v r+1 in the lanes of m. -/
def Warp.setV64 (w : Warp) (r : Nat) (m : LaneMask) (f : Nat → DWord) : Warp :=
  (w.setV r m (fun L => loWord (f L))).setV (r + 1) m (fun L => hiWord (f L))
def Warp.setS (w : Warp) (r : Nat) (v : Word) : Warp := { w with sregs := w.sregs.set r v }
/-- Writes p r in the lanes of m; a write to p7 is discarded (R19). -/
def Warp.setP (w : Warp) (r : Nat) (m : LaneMask) (f : Nat → Bool) : Warp :=
  if r = 7 then w else { w with preds := w.preds.set r (maskOf (fun L => if inMask m L then f L else inMask (w.preds.getD r 0) L)) }

/-- Registers the warp owns (R18). -/
def Warp.nregs (w : Warp) : Nat := w.vregs.length

/-- The active lanes of the issuing split under a guard (R9). -/
def Ctx.act (c : Ctx) (g : BitVec 4) : LaneMask :=
  let m := c.w.p (bitsOf g 0 3)
  (if bitOf g 3 then ~~~m else m) &&& c.p.mask

/-- The warp has finished: every lane has exited (R68). -/
def Warp.done (w : Warp) : Bool := w.exited == BitVec.allOnes 32

/-- How many access warps a team has; execute warps stand after them. -/
def Team.nAccess (t : Team) : Nat := (t.warps.filter (fun w => w.role == .access)).length

/-! ## Ages and live slots -/

/-- X is older than Y (R59). -/
def olderSeq (x y : BitVec 16) : Bool := let d := (y - x).toNat; decide (1 ≤ d ∧ d ≤ 0x7FFF)

/-- A split is ready: it could issue now. A split asleep is not (R138). -/
def Split.ready (p : Split) : Bool := ((p.st == .live && p.blk == 0) || p.st == .parked) && p.wake.isNone

/-- Splits of the warp, in the table and the spill area. -/
def Warp.splits (w : Warp) : List Split := w.table ++ w.spilled

/-- The waiting splits of a warp: ready and without a live slot (R69). -/
def Warp.waiting (w : Warp) : List Split := w.splits.filter (fun p => p.st == .parked && p.wake.isNone)

/-- The split R70 chooses: longest without a live slot, the older on a tie. -/
def Warp.chosen (w : Warp) : Option Split :=
  firstBy (fun a b => decide (a.since < b.since) || (a.since == b.since && olderSeq a.seq b.seq)) w.waiting

/-- The unit a split stands in restarts at its first word, so that its latch is rebuilt (R33). -/
def Split.rewind (p : Split) : Split := { p with pc := p.pc - BitVec.ofNat 64 (4 * p.immRun), immRun := 0 }

/-- A split as a divergence spills it (R64): parked at its blocking instruction; a sleep ends (R138). -/
def Split.asSpilled (p : Split) : Split :=
  { p.rewind with st := if p.st = .waitingMerge then .waitingMerge else .parked, blk := 0, wake := none }

/-- A split that gives up its entry without a divergence (R70): spilled as parked; a sleep goes on (R138). -/
def Split.asExchanged (p : Split) : Split :=
  { p.rewind with st := if p.st = .waitingMerge then .waitingMerge else .parked, blk := 0 }

/-- The oldest split of a list. -/
def oldestOf (l : List Split) : Option Split := firstBy (fun a b => olderSeq a.seq b.seq) l

/-- The victim R64 prefers: oldest parked, else oldest blocked, else oldest waiting-merge; never a live split. -/
def victimOf (l : List Split) : Option Split :=
  match oldestOf (l.filter (fun p => p.st == .parked)) with
  | some p => some p
  | none => match oldestOf (l.filter (fun p => p.st == .blocked)) with
    | some p => some p
    | none => oldestOf (l.filter (fun p => p.st == .waitingMerge))

/-- Puts a chosen waiting split into live slot i (R70). A spilled split takes a free entry, else the place of the split that leaves; where none leaves, that of the victim R64 prefers (notes/assumptions/39.md). -/
def Warp.takeSlot (w : Warp) (i : Nat) (p : Split) (leaving : Option Split) : Warp :=
  let p' := { p with st := .live, blk := if p.wake.isSome then 8 else 0 }
  let put (w : Warp) : Warp := { w with slots := updAt w.slots i (fun _ => { seq := some p.seq, issued := 0 }) }
  if (findSplit w.table p.seq).isSome then put { w with table := putSplit w.table p' }
  else if w.table.length < Config.tableEntries then
    put { w with table := w.table ++ [p'], spilled := dropSplit w.spilled p.seq }
  else match leaving with
    | some q => put { w with table := dropSplit w.table q.seq ++ [p'], spilled := dropSplit w.spilled p.seq ++ [q.asExchanged] }
    | none => match victimOf w.table with
      | some q => put { w with table := dropSplit w.table q.seq ++ [p'], spilled := dropSplit w.spilled p.seq ++ [q.asExchanged] }
      | none => w

/-- The split in slot i leaves it for a waiting split (R69, R70): parked when ready, else blocked. -/
def Warp.rotate (now : Nat) (w : Warp) (i : Nat) : Warp :=
  match w.slots[i]? with
  | some { seq := some q, issued := _ } =>
    match findSplit w.table q, w.chosen with
    | some p, some n =>
      let p' := { p with st := if p.blk = 0 then .parked else .blocked, since := now }
      ({ w with table := putSplit w.table p', slots := updAt w.slots i (fun _ => ⟨none, 0⟩) }).takeSlot i n (some p')
    | _, _ => w
  | _ => w

/-- A slot whose split no longer lives in the table, or is no longer live, is vacant. -/
def Warp.vacate (w : Warp) : Warp :=
  { w with slots := w.slots.map (fun l => match l.seq with
      | none => l
      | some q => match findSplit w.table q with
        | some p => if p.st = .live then l else ⟨none, 0⟩
        | none => ⟨none, 0⟩) }

/-- Slot i is filled when vacant, and a blocked split leaves it while a split waits (R69, R70). -/
def Warp.fillSlot (now : Nat) (w : Warp) (i : Nat) : Warp :=
  match w.slots[i]? with
  | none => w
  | some l =>
    match l.seq with
    | none => match w.chosen with
      | some n => w.takeSlot i n none
      | none => w
    | some q => match findSplit w.table q with
      | some p => if p.blk = 0 then w else w.rotate now i
      | none => w

/-- While an entry is free and no slot vacant, the oldest spilled parked split is restored into it (R70). -/
def Warp.unspill : Nat → Warp → Warp
  | 0, w => w
  | n + 1, w =>
    if w.table.length < Config.tableEntries ∧ w.slots.all (fun l => l.seq.isSome) then
      match firstBy (fun a b => olderSeq a.seq b.seq) (w.spilled.filter (fun p => p.st == .parked)) with
      | some p => Warp.unspill n { w with table := w.table ++ [p], spilled := dropSplit w.spilled p.seq }
      | none => w
    else w

/-- Live slots brought up to date after a unit or a wake-up, slot 0 first: a waiting split goes to a blocked split's place in slot 0 before a vacant slot 1 (DESIGN CHOICE, notes/assumptions/48.md: R69 and R70 do not say which comes first). -/
def Warp.refill (now : Nat) (w : Warp) : Warp :=
  (((w.vacate.fillSlot now 0).fillSlot now 1)).unspill 8

/-- Every unfinished warp of a resident team is brought up to date; a halted team's splits stand where they are (R77). -/
def Team.refill (now : Nat) (t : Team) : Team :=
  if t.status = .resident then { t with warps := t.warps.map (fun w => if w.done then w.vacate else w.refill now) }
  else t

/-! ## Completion flags -/

/-- The flag a class names in the split's header: read class SETA, write class SETB; 15 names none (R21, R24). -/
def flagOf (set : BitVec 4) : Option Nat := if set.toNat < 12 then some set.toNat else none

/-- An operation binds to a flag (R25). -/
def Warp.bind (w : Warp) (f : Option Nat) : Warp :=
  match f with
  | none => w
  | some i => { w with flags := updAt w.flags i (· + 1) }

/-- An operation bound to a flag completes (R25). -/
def Warp.unbind (w : Warp) (f : Option Nat) : Warp :=
  match f with
  | none => w
  | some i => { w with flags := updAt w.flags i (· - 1) }

/-- An operation of warp wi of team id completes. -/
def State.unbind (s : State) (id wi : Nat) (f : Option Nat) : State :=
  match f with
  | none => s
  | some _ => s.updTeam id (fun t => { t with warps := updAt t.warps wi (fun w => w.unbind f) })

/-! ## Traps (R297-R308) -/

/-- The context's split runs the handler of its team (R303). -/
def Ctx.inHandler (c : Ctx) : Bool :=
  match c.t.trap.handler with
  | none => false
  | some h => h.warp == c.wi && h.seq == c.p.seq

/-- The handler entry of a role; 0 when the job gives none (R297, R303). -/
def handlerEntry (s : State) (job : Nat) (r : Role) : DWord :=
  match jobSlot s job with
  | none => 0
  | some j => match r with | .access => slotTvecA j | .execute => slotTvecE j

/-- The other live splits of a team, which may skid (R299); those of a warp at its save point may not (R300). -/
def skidStart (t : Team) (wi : Nat) (q : BitVec 16) : List SkidCount :=
  ((List.range t.warps.length).zip t.warps).flatMap (fun x =>
    if x.2.atPoint.isSome then []
    else x.2.slots.filterMap (fun l => match l.seq with
      | some p => if x.1 = wi ∧ p = q then none else some { warp := x.1, seq := p, count := 0, stopped := false }
      | none => none))

/-- Sleeps end when the team is halted (R138). -/
def Split.wakeUp (p : Split) : Split :=
  match p.wake with
  | none => p
  | some _ => { p with wake := none, blk := 0, st := if p.st = .blocked then .parked else p.st }

/-- A halt stops every split between issue units, and sleeps end (R33, R138, R299). -/
def Warp.stopAll (w : Warp) : Warp :=
  { w with table := w.table.map (fun p => p.wakeUp.rewind), spilled := w.spilled.map (fun p => p.wakeUp.rewind) }

/-- A long-latency reason (R61). -/
def longLatency (n : Nat) : Bool := decide (1 ≤ n ∧ n ≤ 8) || n == 10

/-- No split of the warp is ready and every blocked one waits for something long (R288). -/
def quiescent (w : Warp) : Bool := w.splits.all (fun p => !p.ready && (p.blk == 0 || longLatency p.blk.toNat))

/-- How a save finds a warp (R288). -/
def condOf (w : Warp) : SaveCond :=
  if w.done then .none else if w.atPoint.isSome then .point else if quiescent w then .quiescent else .forced

/-- A team stops for a save: no warp of it issues (R156, R289). The instruction's missing pages join the frame's list; sleeps end; the header says that writing has begun (R314). -/
def beginSave (s : State) (id : Nat) (why : SaveWhy) (pages : List Nat) : State :=
  let s := s.updTeam id (fun t => { t with
    status := .saving
    warps := t.warps.map (fun w => { w.stopAll with cond := condOf w })
    save := { t.save with request := none, why := some why, missing := pages, answered := [], refused := [] } })
  match s.team? id with
  | some t => writeHeader s t 1
  | none => s

/-- The other members of a team's gang launch that are on their cores: one launch is saved as one unit (R243). -/
def launchMates (s : State) (t : Team) : List Team :=
  s.teams.filter (fun x => x.ident.launch == t.ident.launch && x.id != t.id && (x.status == .resident || x.status == .halted || x.status == .restoring))

/-- A restoring team goes back to its frame, as it stands there. -/
def sendBack (s : State) (id : Nat) : State :=
  match s.team? id with
  | none => s
  | some t => leaveCore (writeHeader (s.updTeam id (fun t => { t with status := .saved })) t 2) id

/-- The other members of a team's gang launch leave with it, saved for a reason; those still restoring go back to their frames (R243). -/
def saveMates (s : State) (t : Team) (why : SaveWhy) : State :=
  (launchMates s t).foldl (fun s m => if m.status = .restoring then sendBack s m.id else beginSave s m.id why []) s

/-- What a trap reports: cause, address pair, lane (R301, R302). -/
structure TrapInfo where
  cause : BitVec 8
  lo : Word
  hi : Word
  lane : Nat
  deriving DecidableEq, Repr

/-- TRAPCAUSE: LANE in bits 12:8, CAUSE in bits 7:0. -/
def trapCauseWord (i : TrapInfo) : Word := BitVec.ofNat 32 (i.lane % 32 * 256 + i.cause.toNat)

/-- The first word of the unit a split stands in (R33). -/
def Split.unitPc (p : Split) : DWord := p.pc - BitVec.ofNat 64 (4 * p.immRun)

/-- The halt record of warp i as the trap of the context's split is accepted (R77, R301, R303): each live slot's split at the unit it stands in with skid 0, the faulting split at its resumption address; in its warp the header, ARM and MPC it had. -/
def haltStart (c : Ctx) (pc : DWord) (i : Nat) (w : Warp) : HaltRecord :=
  let mine := i == c.wi
  { slots := w.slots.map (fun l => match l.seq with
      | none => none
      | some q => (findSplit w.table q).map (fun p => { seq := q, pc := if mine && q == c.p.seq then pc else p.unitPc, count := 0 }))
    setA := if mine then c.p.setA else 15, setB := if mine then c.p.setB else 15, arm := mine && c.p.arm, mpc := if mine then c.p.mpc else 0 }

/-- The split that live slot i of a warp holds; none when it has left the slot or the table. -/
def Warp.liveIn (w : Warp) (i : Nat) : Option Split :=
  ((w.slots.getD i ⟨none, 0⟩).seq.bind (findSplit w.table)).filter (fun p => p.st == .live)

/-- A unit that split q issued in skid counts in its slot's part of the warp's halt record, which names the split live there after it, where that split stands (R77, R299, R301). A split that took the slot by that unit is recorded with the slot's count, and issues nothing itself; a slot left vacant records nothing (DESIGN CHOICE, notes/assumptions/49.md). -/
def Warp.countSkid (w : Warp) (q : BitVec 16) : Warp :=
  { w with halt := { w.halt with slots := ((List.range w.halt.slots.length).zip w.halt.slots).map (fun x => match x.2 with
      | some h => if h.seq = q then (w.liveIn x.1).map (fun p => { seq := p.seq, pc := p.unitPc, count := h.count + 1 }) else x.2
      | none => none) } }

/-- A trap is accepted and delivered in the split of a context, with the resumption address pc (R297-R304). In the handler it ends the team as HALTT does; in the skid of another split's trap the split stops before its unit; with no handler entry the team ends. Otherwise the registers are set, a halt record of every warp is written, every other live split may skid, and the split continues at its role's vector with handler privilege and no clause header. -/
def takeTrap (c : Ctx) (i : TrapInfo) (pc : DWord) : State :=
  let s := c.commit
  let t := c.team
  if c.inHandler then terminateTeam s t i.cause
  else if t.trap.handler.isSome then
    let t := { c with p := c.p.rewind }.team
    s.setTeam { t with trap := { t.trap with skid := t.trap.skid.map (fun l =>
      l.map (fun k => if k.warp = c.wi ∧ k.seq = c.p.seq then { k with stopped := true } else k)) } }
  else
    let entry := handlerEntry s t.ident.job c.w.role
    if entry = 0 then terminateTeam s t i.cause
    else
      let sibling := c.w.slots.any (fun l => l.seq.isSome && l.seq != some c.p.seq)
      let regs : TrapRegs :=
        { cause := trapCauseWord i, addrLo := i.lo, addrHi := i.hi, split := c.p.seq.setWidth 32
          skid := if sibling then 0x20 else 0, cause2 := 0, pc := pc, pc2 := 0 }
      let h : Handler := { warp := c.wi, seq := c.p.seq, stood := pc, arrival := c.p.arrival }
      let p := { c.p with pc := entry, immRun := 0, setA := 15, setB := 15, blk := 0, wake := none, arrival := none }
      let w := { c.w with table := putSplit c.w.table p }
      let t := { t with
        status := .halted
        warps := ((List.range t.warps.length).zip (updAt t.warps c.wi (fun _ => w))).map (fun x =>
          { x.2.stopAll with atPoint := none, halt := haltStart c pc x.1 (t.warps.getD x.1 w) })
        trap := { t.trap with regs := regs, handler := some h, skid := some (skidStart t c.wi c.p.seq), warp := some c.wi, second := ⟨0, 0, 0, 0, none⟩ }
        save := { t.save with request := none, qdead := 0 } }
      writeHalts (s.setTeam t) t

/-- The split a recorded secondary is delivered in: it still exists and stands at the recorded PC (R78). -/
def secondarySplit (t : Team) (h : Handler) : Option (Warp × Split) :=
  let regs := t.trap.regs
  if !bitOf regs.cause2 8 then none
  else match t.warps[h.warp]? with
    | none => none
    | some w => match findSplit w.table (BitVec.ofNat 16 (bitsOf regs.cause2 16 16)) with
      | none => none
      | some p => if p.unitPc = regs.pc2 then some (w, p) else none

/-- The delivery of a SLOTPOISON that a SWAIT raised marks its drain reported (R266): it has then completed. -/
def reportDrain (t : Team) (w : Warp) (drain : Option Nat) : Team × Warp :=
  match t.stopped.find? (fun d => drain == some d.id) with
  | none => (t, w)
  | some d => ({ t with stopped := t.stopped.filter (fun x => x.id != d.id) }, w.unbind d.flag)

/-- What a recorded secondary reports as it is delivered (R78): of VIEWCHG, the view its group holds then (R386). -/
def secondInfo (s : State) (t : Team) : TrapInfo :=
  let cause := BitVec.ofNat 8 (bitsOf t.trap.regs.cause2 0 8)
  { cause := cause, lo := t.trap.second.lo, lane := t.trap.second.lane
    hi := if cause = causeVIEWCHG then viewHeld s t.trap.second.lo.toNat else t.trap.second.hi }

/-- The end of the handler for every other split (R305, R307): privilege dropped, KEYOVR cleared, the halted splits as they stood; a freed split leaves its slot; a recorded secondary whose split stands at its PC is delivered as a fresh trap (R78); else a team of a stopped job is saved (R291). -/
def endHandler (s : State) (id : Nat) : State :=
  match s.team? id with
  | none => s
  | some t =>
    match t.trap.handler with
    | none => s
    | some h =>
      let regs := t.trap.regs
      let t' := { t with
        status := .resident, warps := t.warps.map Warp.vacate
        trap := { t.trap with handler := none, skid := none, keyovr := 0
                              regs := { regs with cause2 := setBits regs.cause2 8 1 0 } } }
      let s := s.setTeam t'
      match secondarySplit { t with warps := t'.warps } h with
      | some (w, p) =>
        let i := secondInfo s t
        let (t', w) := if i.cause = causeSLOTPOISON then reportDrain t' w t.trap.second.drain else (t', w)
        takeTrap { s := s, t := t', w := w, p := p, wi := h.warp } i t.trap.second.pc
      | none =>
        if s.die.stoppedJobs.contains t.ident.job then
          -- a halted team is saved as forced (R291)
          let force (s : State) : State := s.updTeam id (fun t => { t with warps := t.warps.map (fun w => if w.done then w else { w with cond := .forced }) })
          force (((launchMates s t).filter (fun m => m.status == .resident)).foldl (fun s m => beginSave s m.id .jobStop []) (beginSave s id .jobStop []))
        else s

/-! ## How a unit ends -/

/-- How the meaning of an instruction ends. done: complete, PC to the next word. at_: complete, the context holds the split's next PC. gone: complete, and the split's fate is already in the state. left: the same of a split that has become a waiting-merge parent, with the SEQ it has now, which a rebase may have changed (R59). ended: complete, and the handler it ran in has ended (R305, R307). raw: not complete, the state as it is (a trap delivered in another split). trap: precise, no effect. trapWith: a trap after the effects in the context, with its resumption address. block: no effect but the announcements in the context, BLK n. stall: an issue stall, the unit waits to be issued from its first word. switchOut: the team is switched out on missing pages (R156, R158). -/
inductive Res where
  | done (c : Ctx)
  | at_ (c : Ctx)
  | gone (s : State)
  | left (s : State) (q : BitVec 16)
  | ended (s : State)
  | raw (s : State)
  | trap (i : TrapInfo)
  | trapWith (c : Ctx) (i : TrapInfo) (pc : DWord)
  | block (c : Ctx) (blk : Nat)
  | stall
  | switchOut (pages : List Nat)

/-- A plain trap cause without address or lane. -/
def Res.trapC (cause : BitVec 8) : Res := .trap { cause := cause, lo := 0, hi := 0, lane := 0 }

/-- The address pair of a trap. -/
def trapAddr (cause : BitVec 8) (addr : Nat) (lane : Nat) : TrapInfo :=
  { cause := cause, lo := BitVec.ofNat 32 addr, hi := BitVec.ofNat 32 (addr / 2 ^ 32), lane := lane }

/-- The context's split with its PC at the next word, its latch consumed, its announcement spent (R4, R30). -/
def Ctx.advance (c : Ctx) : Ctx := { c with p := { c.p with pc := c.p.pc + 4, immRun := 0, blk := 0, arrival := none } }

/-- No split of a halted team skids any further: each stops between issue units (R33, R299). A sleep that a skid unit began goes on through the halt, since R138 names only the halt itself as its end (DESIGN CHOICE, notes/assumptions/49.md). -/
def Team.endSkid (t : Team) : Team :=
  { t with
    warps := t.warps.map (fun w => { w with table := w.table.map Split.rewind })
    trap := { t.trap with skid := none } }

/-- A unit has been issued: a skid unit is counted, or the split's slot counts it and gives way after 256 while a split waits (R69, R299). The handler's first unit ends the skid. -/
def countUnit (s : State) (id wi : Nat) (q : BitVec 16) : State :=
  s.updTeam id (fun t =>
    match t.trap.handler with
    | some h =>
      if h.warp = wi ∧ h.seq = q then t.endSkid
      else
        let skid := t.trap.skid.map (fun l => l.map (fun k => if k.warp = wi ∧ k.seq = q then { k with count := k.count + 1 } else k))
        let regs := if h.warp = wi then { t.trap.regs with skid := t.trap.regs.skid + 1 } else t.trap.regs
        { t with warps := updAt t.warps wi (fun w => w.countSkid q), trap := { t.trap with skid := skid, regs := regs } }
    | none =>
      { t with warps := updAt t.warps wi (fun w =>
          let w := { w with slots := w.slots.map (fun l => if l.seq = some q then { l with issued := l.issued + 1 } else l) }
          match w.slots.findIdx? (fun l => l.seq == some q) with
          | none => w
          | some i =>
            if (w.slots.getD i ⟨none, 0⟩).issued < Config.rotateUnits then w
            else if w.waiting.isEmpty then { w with slots := updAt w.slots i (fun l => { l with issued := 0 }) }
            else w.rotate s.clock i) })

/-- Enters page requests in a core's page request table; those that find it full wait in order (R154). -/
def requestPages (s : State) (core job : Nat) (pages : List Nat) : State :=
  pages.foldl (fun s p => s.updCore core (fun c =>
    if c.pages.contains (job, p) || c.waiters.contains (job, p) then c
    else if c.pages.length < 64 ∧ c.waiters.isEmpty then { c with pages := c.pages ++ [(job, p)] }
    else { c with waiters := c.waiters ++ [(job, p)] })) s

/-- A recoverable miss of an instruction, or a pop of a pending element, switches the whole team out, and its gang launch with it (R156, R158, R243). -/
def switchOutTeam (s : State) (t : Team) (pages : List Nat) : State :=
  let s := requestPages s t.core t.ident.job pages
  saveMates (beginSave s t.id .pageMiss pages) t .pageMiss

/-- A unit that meets a blocking condition: its split restarts it, and leaves its slot if a split waits (R69). -/
def blockUnit (c : Ctx) (blk : Nat) : State :=
  let c := { c with p := { c.p.rewind with blk := BitVec.ofNat 4 blk } }
  { c with t := c.t }.commit.updTeam c.t.id (fun t => t.refill c.s.clock)

/-- The state once split q of the context's warp has issued its unit and its fate is in s. -/
def finishGone (c0 : Ctx) (s : State) (q : BitVec 16) : State :=
  (if c0.inHandler then s.updTeam c0.t.id Team.endSkid else countUnit s c0.t.id c0.wi q).updTeam c0.t.id (fun t => t.refill s.clock)

/-- The end of an instruction as a next state. c0 is the context as it stood at issue. A trap at a word that follows IMM words reports the first of them, also at a CLAUSE word, which is no consumer (DESIGN CHOICE, notes/assumptions/49.md: R33 names the words of a unit only). -/
def finishRes (c0 : Ctx) : Res → State
  | .done c => (countUnit c.advance.commit c.t.id c.wi c.p.seq).updTeam c.t.id (fun t => t.refill c.s.clock)
  | .at_ c => (countUnit { c with p := { c.p with immRun := 0, blk := 0, arrival := none } }.commit c.t.id c.wi c.p.seq).updTeam
      c.t.id (fun t => t.refill c.s.clock)
  | .gone s => finishGone c0 s c0.p.seq
  | .left s q => finishGone c0 s q
  | .ended s => s.updTeam c0.t.id (fun t => t.refill s.clock)
  | .trap i => takeTrap c0 i c0.p.unitPc
  | .raw s => s
  | .trapWith c i pc => takeTrap (if c0.t.trap.handler.isSome then c0 else c) i pc
  | .block c blk => blockUnit c blk
  | .stall => { c0 with p := c0.p.rewind }.commit
  | .switchOut pages => switchOutTeam c0.commit c0.t pages

/-- Which roles may issue an instruction (R35). -/
inductive Roles where
  | both
  | accessOnly
  | executeOnly
  deriving DecidableEq, Repr

def Roles.allows : Roles → Role → Bool
  | .both, _ => true
  | .accessOnly, r => r == .access
  | .executeOnly, r => r == .execute

/-- Issues an instruction word in the split State.cur names: the role check of R34, then the meaning; its end becomes the next state. Of what R65 and R315 allow a team whose spill area or frame has been overwritten, the model takes the kill (notes/assumptions/40.md). -/
def issue (s : State) (roles : Roles) (body : Ctx → Res) : Host.Outcome State Fault Refusal :=
  match getCtx s with
  | none => .fault .noIssuer
  | some c =>
    if c.t.save.corrupt then .next (killTeam c.s c.t.id)
    else if roles.allows c.w.role then .next (finishRes c (body c))
    else .next (finishRes c (.trapC causeILLROLE))

/-- The step 4 check of R34. -/
def orIllop (ok : Bool) (r : Res) : Res := if ok then r else .trapC causeILLOP
/-- The step 5 check of R34. -/
def orIllopnd (ok : Bool) (r : Res) : Res := if ok then r else .trapC causeILLOPND

/-! ## Divergence (R62-R66) -/

/-- The team with handler privilege in the split with SEQ q of the handler's warp: a handler that diverges or merges goes on in the split that takes its slot (notes/assumptions/11.md). -/
def Ctx.passHandler (c : Ctx) (q : BitVec 16) : Team :=
  { c.t with trap := { c.t.trap with handler := c.t.trap.handler.map (fun h => { h with seq := q }) } }

/-- The machine with another warp and split in place of the context's. -/
def Ctx.withWarp (c : Ctx) (w : Warp) (p : Split) : State := { c with w := w, p := p }.commit

/-- A lane's next PC. -/
structure Target where
  pc : DWord
  mask : LaneMask
  deriving DecidableEq, Repr

/-- The distinct targets, ascending by address, each with its lanes (R62). -/
def targetsOf (mask : LaneMask) (next : Nat → DWord) : List Target :=
  let lanes := laneList.filter (inMask mask)
  let pcs := sortBy (fun a b => decide (a ≤ b)) (dedup (lanes.map (fun L => (next L).toNat)))
  pcs.map (fun a => { pc := BitVec.ofNat 64 a, mask := maskOf (fun L => inMask mask L && (next L).toNat == a) })

/-- Renumbers splits by age rank (R59). -/
def rebaseMap (l : List Split) : List (BitVec 16 × BitVec 16) :=
  let sorted := sortBy (fun a b => a.seq == b.seq || olderSeq a.seq b.seq) l
  (List.range sorted.length).zip sorted |>.map (fun x => (x.2.seq, BitVec.ofNat 16 x.1))

def mapSeq (m : List (BitVec 16 × BitVec 16)) (q : BitVec 16) : BitVec 16 :=
  match m.find? (fun x => x.1 == q) with
  | some x => x.2
  | none => q

def Split.reseq (m : List (BitVec 16 × BitVec 16)) (p : Split) : Split :=
  { p with seq := mapSeq m p.seq, parent := p.parent.map (mapSeq m) }

/-- A divergent transfer about to take n SEQ values rebases the warp when one of them would lie 0x7F00 or more ahead of the oldest living split (R59): renumbering before the first value or before that one gives every split the same number. The recorded trap SEQs follow, and with them every SEQ by which the machine still names a split of the warp. -/
def Ctx.rebase (n : Nat) (c : Ctx) : Ctx :=
  match oldestOf c.w.splits with
  | none => c
  | some o =>
    if (c.w.seqCtr - o.seq).toNat + n ≤ 0x7F00 then c
    else
      let m := rebaseMap c.w.splits
      let w : Warp := { c.w with
        table := c.w.table.map (Split.reseq m), spilled := c.w.spilled.map (Split.reseq m)
        slots := c.w.slots.map (fun l => { l with seq := l.seq.map (mapSeq m) })
        seqCtr := BitVec.ofNat 16 c.w.splits.length }
      let mine := c.t.trap.warp == some c.wi
      let r := c.t.trap.regs
      let q2 := mapSeq m (BitVec.ofNat 16 (bitsOf r.cause2 16 16))
      let w : Warp := { w with
        rfault := w.rfault.map (fun f => { f with seq := mapSeq m f.seq })
        mcast := { w.mcast with pending := w.mcast.pending.map (fun x => (mapSeq m x.1, x.2)) }
        halt := { w.halt with slots := w.halt.slots.map (fun (l : Option HaltSlot) => l.map (fun h => { h with seq := mapSeq m h.seq })) } }
      let own (k : Nat) (q : BitVec 16) : BitVec 16 := if k = c.wi then mapSeq m q else q
      let t := { c.t with
        regroup := c.t.regroup.map (fun a => { a with seq := own a.warp a.seq })
        trap := { c.t.trap with
          regs := if mine then { r with split := (mapSeq m (r.split.setWidth 16)).setWidth 32, cause2 := setBits r.cause2 16 16 q2.toNat } else r
          handler := c.t.trap.handler.map (fun h => { h with seq := own h.warp h.seq })
          skid := c.t.trap.skid.map (fun l => l.map (fun k => { k with seq := own k.warp k.seq })) } }
      let s := { c.s with
        cores := c.s.cores.map (fun k => { k with remote := k.remote.map (fun x =>
          if x.team = c.t.id ∧ x.warp = c.wi then { x with seq := mapSeq m x.seq } else x) })
        fab := { c.s.fab with mcasts := c.s.fab.mcasts.map (fun x =>
          if x.team = c.t.id ∧ x.warp = c.wi then { x with seq := mapSeq m x.seq } else x) } }
      { c with s := s, w := w, t := t, p := c.p.reseq m }

/-- The victim R64 prefers among the splits that stood in the table before the transfer, S apart. -/
def victim (w : Warp) (old : List (BitVec 16)) (s : BitVec 16) : Option Split :=
  victimOf (w.table.filter (fun p => p.seq != s && old.contains p.seq))

/-- Records one new child, in the table, after spilling a victim, or straight in the spill area; none when the spill area is full (R64-R66). -/
def addChild (w : Warp) (cap : Nat) (old : List (BitVec 16)) (s : BitVec 16) (p : Split) : Option Warp :=
  if w.table.length < Config.tableEntries then some { w with table := w.table ++ [p] }
  else if w.spilled.length ≥ cap then none
  else match victim w old s with
    | some v => some { w with table := dropSplit w.table v.seq ++ [p], spilled := w.spilled ++ [v.asSpilled] }
    | none => some { w with spilled := w.spilled ++ [p] }

/-- Adds the children one after another, giving each the next SEQ. -/
def addChildren (cap : Nat) (old : List (BitVec 16)) (s : BitVec 16) : Warp → List Split → Option Warp
  | w, [] => some w
  | w, p :: r =>
    match addChild { w with seqCtr := w.seqCtr + 1 } cap old s { p with seq := w.seqCtr } with
    | none => none
    | some w => addChildren cap old s w r

/-- The clause header a split takes to a target: kept on falling through to the next word, ended otherwise (R22). -/
def headerAt (p : Split) (target : DWord) : BitVec 4 × BitVec 4 := if target = p.pc + 4 then (p.setA, p.setB) else (15, 15)

/-- A new split at a target. -/
def childAt (p : Split) (now : Nat) (t : Target) (parent : Option (BitVec 16)) : Split :=
  let h := headerAt p t.pc
  { seq := 0, parent := parent, pc := t.pc, mpc := 0, mask := t.mask, arrived := 0, arm := false, st := .parked
    setA := h.1, setB := h.2, blk := 0, latch := p.latch, immRun := 0, wake := none, arrival := none, since := now }

/-- The issuing split's lanes continue at the PCs that next gives (R62-R66): together when all agree; otherwise the split diverges, an armed split becoming the parent of its children, an unarmed one keeping the lowest target. -/
def transfer (c : Ctx) (next : Nat → DWord) : Res :=
  let ts := targetsOf c.p.mask next
  match ts with
  | [] => .done c
  | [t] =>
    let h := headerAt c.p t.pc
    .at_ { c with p := { c.p with pc := t.pc, setA := h.1, setB := h.2 } }
  | t0 :: rest =>
    let c := c.rebase (if c.p.arm then rest.length + 1 else rest.length)
    let cap := c.t.ident.kern.spill
    let now := c.s.clock
    let old := c.w.table.map (·.seq)
    if c.p.arm then
      let p := { c.p with st := .waitingMerge, pc := c.p.mpc, arrived := 0, arm := false, immRun := 0, blk := 0, arrival := none }
      let kids := ts.map (fun t => childAt c.p now t (some c.p.seq))
      let first := c.w.seqCtr
      match addChildren cap old c.p.seq { c.w with table := putSplit c.w.table p } kids with
      | none => .trapC causeSPILL
      | some w =>
        -- the child with the lowest SEQ takes the slot S held (R63)
        let w := { w with table := w.table.map (fun x => if x.seq = first then { x with st := .live } else x)
                          slots := w.slots.map (fun l => if l.seq = some c.p.seq then { seq := some first, issued := 0 } else l) }
        .left ({ c with t := if c.inHandler then c.passHandler first else c.t : Ctx }.withWarp w p) p.seq
    else
      let h := headerAt c.p t0.pc
      let kids := rest.map (fun t => childAt c.p now t c.p.parent)
      match addChildren cap old c.p.seq c.w kids with
      | none => .trapC causeSPILL
      | some w => .at_ { c with w := w, p := { c.p with pc := t0.pc, mask := t0.mask, setA := h.1, setB := h.2 } }

/-! ## Fusion (R67, R68) -/

/-- Applies f to the split with SEQ q, in the table or the spill area. -/
def Warp.updSplit (w : Warp) (q : BitVec 16) (f : Split → Split) : Warp :=
  { w with table := w.table.map (fun p => if p.seq = q then f p else p)
           spilled := w.spilled.map (fun p => if p.seq = q then f p else p) }

/-- Frees the entry of a split. -/
def Warp.freeSplit (w : Warp) (q : BitVec 16) : Warp :=
  { w with table := dropSplit w.table q, spilled := dropSplit w.spilled q }

def Warp.split? (w : Warp) (q : BitVec 16) : Option Split := w.splits.find? (fun p => p.seq == q)

/-- try_fuse of R68; n bounds the ancestors visited. The fusion itself waits until ok holds of the lanes that fuse (spec/07 R215). -/
def tryFuse (now : Nat) (ok : LaneMask → Bool) : Nat → Warp → BitVec 16 → Warp
  | 0, w, _ => w
  | n + 1, w, q =>
    match w.split? q with
    | none => w
    | some p =>
      if p.st ≠ .waitingMerge ∨ p.mask &&& ~~~(p.arrived ||| w.exited) ≠ 0 then w
      else
        let m := p.mask &&& ~~~w.exited
        if m = 0 then
          match p.parent with
          | some r => tryFuse now ok n (w.freeSplit q) r
          | none => w.freeSplit q
        else if !ok m then w
        else
          w.updSplit q (fun p => { p with mask := m, pc := p.mpc + 4, arrived := 0, arm := false, st := .parked
                                          setA := 15, setB := 15, since := now, immRun := 0, blk := 0, arrival := none })

/-! ## Free values -/

/-- A free value of this moment for a key. -/
def Ctx.free (c : Ctx) (key : Nat) : DWord := Config.freeBits c.s.freeTag key
/-- The context with the free values freshened. -/
def Ctx.freshen (c : Ctx) : Ctx := { c with s := { c.s with freeTag := c.s.freeTag + 1 } }

end Sys2Proof.Machine
end

