-- ==== Sys2Proof/Machine/QueueOps.lean ====
section
/-! DEFINITION. Queues as instructions act on them: reservation, the pop table, cancellation and draining (spec/05 R144-R161, spec/06 R176-R179). -/

namespace Sys2Proof.Machine

/-- A lane of an entry that is not reserved. -/
def QLane.empty : QLane := { st := .free, data := 0, va := 0, secs := [], req := none, port := none }
/-- An entry that is not reserved. -/
def QEntry.empty : QEntry := { lanes := List.replicate 32 QLane.empty, flag := none, by_ := 0, op := 0, keyovr := none }

def QEntry.lane (e : QEntry) (L : Nat) : QLane := e.lanes.getD L QLane.empty
/-- The entry is complete: no lane INFLIGHT (R147). -/
def QEntry.complete (e : QEntry) : Bool := e.lanes.all (fun l => l.st != .inflight)
/-- A removed entry still drains while a lane is INFLIGHT or REFETCH (R178). -/
def QEntry.draining (e : QEntry) : Bool := e.lanes.any (fun l => l.st == .inflight || l.st == .refetch)
/-- The lanes of an entry in a state. -/
def QEntry.maskIn (e : QEntry) (p : LaneState → Bool) : LaneMask := maskOf (fun L => p (e.lane L).st)

/-- Bits of an element: 16, 32 or 64 (R145). -/
def Queue.bits (q : Queue) : Nat := 16 * 2 ^ q.width.toNat
/-- The entry i places behind the head. -/
def Queue.entryAt (q : Queue) (i : Nat) : QEntry := q.entries.getD ((q.head + i) % q.cap) QEntry.empty
/-- The slot of the tail (R145). -/
def Queue.tail (q : Queue) : Nat := (q.head + q.count) % q.cap
/-- Removed entries still draining: those outside HEAD .. tail (R178, R179). -/
def Queue.drainingCount (q : Queue) : Nat :=
  ((List.range (q.cap - q.count)).filter (fun i => (q.entryAt (q.count + i)).draining)).length
/-- A reservation is possible: room, and the tail entry not draining (R146, R178). -/
def Queue.canReserve (q : Queue) : Bool := decide (q.count < q.cap) && !(q.entryAt q.count).draining
/-- Slot i of a queue holds an entry reserved and not removed. -/
def Queue.holds (q : Queue) (i : Nat) : Bool := decide ((i + q.cap - q.head) % q.cap < q.count)
def Queue.setEntry (q : Queue) (slot : Nat) (f : QEntry → QEntry) : Queue := { q with entries := updAt q.entries slot f }
/-- The tail entry reserved with the given contents (R146). -/
def Queue.reserve (q : Queue) (e : QEntry) : Queue := { q.setEntry q.tail (fun _ => e) with count := q.count + 1 }

def Team.queue? (t : Team) (n : Nat) : Option Queue := t.queues.find? (fun q => q.num == n)
/-- Replaces a queue; every such change is a queue state change, which restarts QDEAD's count (R151). -/
def Team.setQueue (t : Team) (q : Queue) : Team :=
  { t with queues := t.queues.map (fun x => if x.num = q.num then q else x), save := { t.save with qdead := 0 } }

/-- The warp is the queue's declared producer; DIR 0 is A to E (R51, R145). -/
def isProducer (q : Queue) (w : Warp) : Bool := (w.role == if q.dir then .execute else .access) && w.index == q.prod
/-- The warp is the queue's declared consumer. -/
def isConsumer (q : Queue) (w : Warp) : Bool := (w.role == if q.dir then .access else .execute) && w.index == q.cons

/-! ## Release sides (spec/07 R215) -/

/-- A queue lane of an LDQ that lane L of warp wi issued before mark and whose read is still to come: PENDING, or REFETCH (spec/07 R217). -/
def rereads (t : Team) (wi : Nat) (act : LaneMask) (mark : Nat) : Bool :=
  t.queues.any (fun q => q.entries.any (fun e => e.by_ == wi && decide (e.op < mark) &&
    (e.maskIn (fun x => x == .pending || x == .refetch) &&& act) != 0))

/-- A remote operation or multicast of some lane of act, issued before mark, is in flight. -/
def remoteBefore (s : State) (t : Team) (wi : Nat) (act : LaneMask) (mark : Nat) : Bool :=
  (s.core t.core).remote.any (fun r => r.team == t.id && r.warp == wi && decide (r.id < mark) && r.lanes.any (fun l => inMask act l.1)) ||
  s.fab.mcasts.any (fun m => m.team == t.id && m.warp == wi && decide (m.op < mark) && act != 0)

/-- A store of some lane of act, accepted before mark, that other lanes of the core do not see yet. -/
def lateBefore (s : State) (t : Team) (wi : Nat) (act : LaneMask) (mark : Nat) : Bool :=
  (s.core t.core).stores.any (fun x => x.late && x.team == t.id && x.warp == wi && decide (x.op < mark) && (x.lanes &&& act) != 0)

/-- A change of full/empty bits by some lane of act, issued before mark, is still held, with the words of its STFE. -/
def heldBefore (t : Team) (wi : Nat) (act : LaneMask) (mark : Nat) : Bool :=
  t.scr.held.any (fun h => h.warp == wi && decide (h.mark < mark) && (h.lanes &&& act) != 0)

/-- The accesses that lanes issued before mark have completed at CORE scope: their reads have read, their remote operations are performed, their stores are seen by the core: as soon as they are accepted, unless they are late ones or words of an STFE still held. -/
def lanesDone (s : State) (t : Team) (wi : Nat) (act : LaneMask) (mark : Nat) : Bool :=
  !rereads t wi act mark && !remoteBefore s t wi act mark && !lateBefore s t wi act mark && !heldBefore t wi act mark

/-- Some LDQ read of the team that a pop has gone past is still to be made (notes/assumptions/46.md). -/
def teamRereading (t : Team) : Bool :=
  t.queues.any (fun q => q.entries.any (fun e => decide (e.op < t.past) && e.lanes.any (fun l => l.st == .pending || l.st == .refetch)))

/-- A queue lane of an LDQ that lane L of warp wi issued before mark and whose read is under way: REFETCH (spec/07 R217). -/
def rereading (t : Team) (wi : Nat) (act : LaneMask) (mark : Nat) : Bool :=
  t.queues.any (fun q => q.entries.any (fun e => e.by_ == wi && decide (e.op < mark) && (e.maskIn (· == .refetch) &&& act) != 0))

/-- The lanes an entry was reserved in. -/
def QEntry.reserved (e : QEntry) : LaneMask := e.maskIn (fun x => x != .free && x != .invalid)

/-- The delivery of an entry is held until the accesses its reserving lanes issued before it have completed (R215). A lane that is PENDING has read nothing and holds no delivery: in the run of R392 a count is popped while an element pushed before it is PENDING (DEDUCED, notes/assumptions/46.md). -/
def QEntry.held (s : State) (t : Team) (e : QEntry) : Bool :=
  let act := e.reserved
  rereading t e.by_ act e.op || remoteBefore s t e.by_ act e.op || lateBefore s t e.by_ act e.op || heldBefore t e.by_ act e.op

/-! ## Acquire sides (spec/07 R212, R215) -/

/-- A remote operation that reads: all but a store, whose peer acknowledges it, and a multicast. -/
def RemoteKind.reads : RemoteKind → Bool
  | .store | .mcast _ => false
  | _ => true

/-- Reads that some lanes issued before and that are still to be made: an LDQ read to be made again, a read of a peer, a remote operation on the device itself. An acquire side waits for them, since what they read may be a release it is to synchronise with. A lane that is PENDING has no read under way and holds none but a fence (R392, notes/assumptions/46.md). -/
def readsOwed (s : State) (t : Team) (wi : Nat) (act : LaneMask) : Bool :=
  rereading t wi act s.nextId ||
    (s.core t.core).remote.any (fun r => r.team == t.id && r.warp == wi && (r.kind.reads || r.peer == ownRank s) && r.lanes.any (fun l => inMask act l.1))

/-- Holds an acquire side back until the reads its lanes owe are made. -/
def afterReads (c : Ctx) (act : LaneMask) (r : Res) : Res := if readsOwed c.s c.t c.wi act then .stall else r

/-- A release side of some lanes of a warp carries the stores that happen before it; a granule's bit carries those of its last change only. -/
def Team.signals (t : Team) (tag : SyncTag) (wi : Nat) (act : LaneMask) : Team :=
  { t with scr := { t.scr with unfenced := t.scr.unfenced.map (fun e =>
      if e.known.any (fun k => k.1 == wi && (k.2 &&& act) != 0) then { e with tags := tag :: e.tags.filter (· != tag) }
      else { e with tags := e.tags.filter (· != tag) }) } }

/-- One release side of several that an acquire side observes together, as an arrival at a barrier. -/
def Team.addSignals (t : Team) (tag : SyncTag) (wi : Nat) (act : LaneMask) : Team :=
  { t with scr := { t.scr with unfenced := t.scr.unfenced.map (fun e =>
      if e.known.any (fun k => k.1 == wi && (k.2 &&& act) != 0) then { e with tags := tag :: e.tags } else e) } }

/-- An acquire side in some lanes of a warp: the stores its release side carries now happen before what they do next. -/
def Team.observes (t : Team) (tag : SyncTag) (wi : Nat) (act : LaneMask) : Team :=
  { t with scr := { t.scr with unfenced := t.scr.unfenced.map (fun e => if e.tags.contains tag then { e with known := (wi, act) :: e.known } else e) } }

/-- A release through memory by some lanes: what they know of travels with it. -/
def Team.releases (t : Team) (wi : Nat) (act : LaneMask) : Team := t.addSignals .mem wi act
/-- An acquire through memory by some lanes. The model takes it to observe every earlier release through memory that carries a store of its team: more than R218 asks, never less (DESIGN CHOICE, notes/assumptions/8.md). -/
def Team.acquires (t : Team) (wi : Nat) (act : LaneMask) : Team := t.observes .mem wi act

/-- The lanes of a merged split share what happens before any of them. -/
def Team.mergesKnown (t : Team) (wi : Nat) (act : LaneMask) : Team :=
  { t with scr := { t.scr with unfenced := t.scr.unfenced.map (fun e =>
      if e.known.any (fun k => k.1 == wi && (k.2 &&& act) != 0) then { e with known := (wi, act) :: e.known } else e) } }

/-- Frees a poison record of a core (R159). -/
def freePoison (s : State) (core : Nat) (l : QLane) : State :=
  if l.st = .poison ∧ bitsOf l.data 0 7 ≠ 0x7F then
    s.updCore core (fun c => { c with poison := updAt c.poison (bitsOf l.data 0 7) (fun _ => none) })
  else s

/-- A removed lane: INFLIGHT and REFETCH drain, every other is freed (R148, R161, R178). -/
def QLane.remove (l : QLane) : QLane := if l.st = .inflight ∨ l.st = .refetch then l else QLane.empty
def QEntry.remove (e : QEntry) : QEntry := { e with lanes := e.lanes.map QLane.remove }

/-- Frees the poison records of an entry's lanes. -/
def freeEntryPoison (s : State) (core : Nat) (e : QEntry) : State := e.lanes.foldl (fun s l => freePoison s core l) s

/-- The lanes of a popped entry that delivered no data (R179 LASTINV). -/
def undelivered (e : QEntry) (act : LaneMask) : LaneMask := maskOf (fun L => !(inMask act L && (e.lane L).st == .valid))

/-- A pop of an entry goes past the elements that its lanes pushed before it and that are still to be read: what happens after the pop happens after those reads (R215, notes/assumptions/46.md). -/
def Team.passes (t : Team) (e : QEntry) : Team := if rereads t e.by_ e.reserved e.op then { t with past := max t.past e.op } else t

/-- Removes the head entry, as a pop by the lanes of act does (R148); they acquire what its reservation released (R215). -/
def Ctx.popHead (c : Ctx) (n : Nat) (act : LaneMask) : Ctx :=
  match c.t.queue? n with
  | none => c
  | some q =>
    let e := q.entryAt 0
    { c with
      s := freeEntryPoison c.s c.t.core e
      t := (c.t.setQueue { (q.setEntry q.head QEntry.remove) with
        head := (q.head + 1) % q.cap, count := q.count - 1, lastinv := undelivered e act }).observes (.entry e.op) c.wi act |>.passes e }

/-- Removes k entries from the head without delivering them (R161, R176, R177). -/
def Ctx.dropHead (c : Ctx) (n : Nat) : Nat → Ctx
  | 0 => c
  | k + 1 =>
    match c.t.queue? n with
    | none => c
    | some q =>
      let e := q.entryAt 0
      Ctx.dropHead { c with
        s := freeEntryPoison c.s c.t.core e
        t := c.t.setQueue { (q.setEntry q.head QEntry.remove) with head := (q.head + 1) % q.cap, count := q.count - 1 } } n k

/-- The data of an entry as a pop delivers it: VALID lanes their element, others zero (R148). -/
def QEntry.deliver (e : QEntry) (L : Nat) : DWord := if (e.lane L).st = .valid then (e.lane L).data else 0

/-- What the table of R148 decides for some entries and the considered lanes. -/
inductive PopFate where
  | wait (blk : Nat)
  | trap (i : TrapInfo)
  | pending
  | ok
  deriving DecidableEq, Repr

/-- A port whose expected window has failed a second time (R355). -/
def windowFailed (s : State) (p : Nat) : Bool :=
  match s.fab.ports.find? (fun x => x.1 == p) with
  | some x => decide (2 ≤ (cellsGet x.2.fails x.2.rxCtr).getD 0)
  | none => false

/-- The trap of a POISON lane (R160): the VA of its record, or zero. -/
def poisonTrap (s : State) (core : Nat) (l : QLane) (L : Nat) : TrapInfo :=
  let va : Nat := if bitsOf l.data 0 7 = 0x7F then 0
    else match (s.core core).poison.getD (bitsOf l.data 0 7) none with
      | some r => r.va.toNat % 2 ^ 57
      | none => 0
  trapAddr causePOISON va L

/-- The lanes of act in which some entry has a state. -/
def lanesWith (es : List QEntry) (act : LaneMask) (p : LaneState → Bool) : List Nat :=
  laneList.filter (fun L => inMask act L && es.any (fun e => p (e.lane L).st))

/-- The rows of R148 in order, over all the entries together; an entry whose delivery is held waits as in row 1 (R215). -/
def popFate (s : State) (t : Team) (es : List QEntry) (act : LaneMask) : PopFate :=
  if es.any (QEntry.held s t) then .wait 2
  else if !(lanesWith es act (fun x => x == .inflight || x == .refetch)).isEmpty then .wait 2
  else
    match lanesWith es act (fun x => x == .tent) with
    | L :: ls =>
      let bad := (L :: ls).findSome? (fun L => es.findSome? (fun e =>
        let l := e.lane L
        match l.port with
        | some p => if l.st = .tent ∧ windowFailed s p then some (L, p) else none
        | none => none))
      match bad with
      | some (L, p) => .trap { cause := causeINTEGRITY, lo := BitVec.ofNat 32 p, hi := 0, lane := L }
      | none => .wait 6
    | [] =>
      match lanesWith es act (fun x => x == .poison) with
      | L :: _ =>
        match es.find? (fun e => (e.lane L).st == .poison) with
        | some e => .trap (poisonTrap s t.core (e.lane L) L)
        | none => .ok
      | [] => if (lanesWith es act (fun x => x == .pending)).isEmpty then .ok else .pending

/-- The pops an instruction makes, in operand order: queue and how many of the same queue come before it (R16). -/
def popOffsets (qs : List Nat) : List (Nat × Nat) :=
  (List.range qs.length).zip qs |>.map (fun x => (x.2, ((qs.take x.1).filter (· == x.2)).length))

/-- The entries those pops take, when every queue holds enough (R16). -/
def popEntries (t : Team) (qs : List Nat) : Option (List QEntry) :=
  (popOffsets qs).foldr (fun x acc =>
    match acc, t.queue? x.1 with
    | some l, some q => if x.2 < q.count then some (q.entryAt x.2 :: l) else none
    | _, _ => none) (some [])

/-- Enters a poison record for a queue lane; 0x7F when the table is full (R153, R159). Answers the fault word of R159. -/
def addPoison (s : State) (core team queue lane : Nat) (cause : BitVec 8) (va : DWord) : State × DWord :=
  match (s.core core).poison.findIdx? (fun r => r.isNone) with
  | some i =>
    (s.updCore core (fun c => { c with poison := updAt c.poison i (fun _ =>
      some { team := team, queue := queue, lane := lane, cause := cause, va := BitVec.ofNat 64 (va.toNat % 2 ^ 57) }) }),
     BitVec.ofNat 64 (cause.toNat * 256 + i))
  | none => (s, BitVec.ofNat 64 (cause.toNat * 256 + 0x7F))

end Sys2Proof.Machine
end

