-- ==== Sys2Proof/Machine/Operands.lean ====
section
/-! DEFINITION. Operand specifiers and classes (spec/01 R12-R18, R30-R32), destinations, and the forms every lane instruction is written over. -/

namespace Sys2Proof.Machine

/-- The class of an operand (R14). -/
inductive OpClass where
  | int
  | f32
  | h2
  | b2
  deriving DecidableEq, Repr

/-- Inline constant 0x70 + k (R13). -/
def inlineConst (cls : OpClass) (k : Nat) : Word :=
  match cls with
  | .int => [0, 1, 2, 3, 4, 8, 16, 0xFFFFFFFF].getD k 0
  | .f32 => [0x00000000, 0x3F800000, 0x40000000, 0x3F000000, 0x40800000, 0xBF800000, 0xBF000000, 0x7F800000].getD k 0
  | .h2 => [0x00000000, 0x3C003C00, 0x40004000, 0x38003800, 0x44004400, 0xBC00BC00, 0xB800B800, 0x7C007C00].getD k 0
  | .b2 => [0x00000000, 0x3F803F80, 0x40004000, 0x3F003F00, 0x40804080, 0xBF80BF80, 0xBF00BF00, 0x7F807F80].getD k 0

/-- An operand as an instruction wants it: its specifier, whether it is 64 bits wide, and its class. -/
structure Opnd where
  spec : BitVec 7
  wide : Bool
  cls : OpClass
  deriving DecidableEq, Repr

/-- The queue a specifier pops (R12). -/
def specQueue (x : BitVec 7) : Option Nat := if 0x60 ≤ x.toNat ∧ x.toNat < 0x70 then some (x.toNat - 0x60) else none

/-- The queue operand is declared, consumed by this warp and of a width the operand takes (R16). -/
def queueOpndOk (c : Ctx) (n : Nat) (wide : Bool) : Bool :=
  match c.t.queue? n with
  | none => false
  | some q => isConsumer q c.w && (if wide then q.width == 2 else q.width == 0 || q.width == 1)

/-- The operand checks of step 5 of R34. -/
def Opnd.ok (c : Ctx) (o : Opnd) : Bool :=
  let n := o.spec.toNat
  if n < 0x40 then decide (n < c.w.nregs) && (!o.wide || (n % 2 == 0 && decide (n + 1 < c.w.nregs)))
  else if n < 0x60 then !o.wide || n % 2 == 0
  else if n < 0x70 then queueOpndOk c (n - 0x60) o.wide
  else if n < 0x7A then true
  else if n = 0x7F then decide (c.p.immRun > 0)
  else false

/-- The value of an operand that is no queue, in lane L; a 32-bit operand stands in the low half (R12, R13, R15, R17, R31). -/
def Opnd.value (c : Ctx) (o : Opnd) (L : Nat) : DWord :=
  let n := o.spec.toNat
  if n < 0x40 then (if o.wide then c.w.v64 n L else (c.w.v n L).setWidth 64)
  else if n < 0x60 then (if o.wide then c.w.s64 (n - 0x40) else (c.w.sr (n - 0x40)).setWidth 64)
  else if n < 0x78 then
    let k := inlineConst o.cls (n - 0x70)
    if o.wide then k.signExtend 64 else k.setWidth 64
  else if n = 0x78 then BitVec.ofNat 64 L
  else if n = 0x79 then BitVec.ofNat 64 c.w.index
  else if o.wide then c.p.latch.signExtend 64 else c.p.latch.setWidth 64

/-- Reading operands: stopped before any effect, or the context after the pops and one function of the lane for each operand. -/
inductive Got where
  | stop (r : Res)
  | got (c : Ctx) (vals : List (Nat → DWord))

/-- The queues the operands name, in order. -/
def opQueues (ops : List Opnd) : List Nat := ops.filterMap (fun o => specQueue o.spec)

/-- The operand values, queue operands taking the popped entries in order. -/
def opValues (c : Ctx) : List Opnd → List QEntry → List (Nat → DWord)
  | [], _ => []
  | o :: r, es =>
    match specQueue o.spec, es with
    | some _, e :: es => e.deliver :: opValues c r es
    | _, es => o.value c :: opValues c r es

/-- Reads the operands for the lanes of act (R10, R16, R148): no active lane pops nothing; otherwise all pops take place together or the instruction waits, traps or switches the team out. A pop acquires: it waits at issue for the reads its lanes still owe (spec/07 R215). -/
def readOps (c : Ctx) (act : LaneMask) (ops : List Opnd) : Got :=
  let qs := opQueues ops
  if qs.isEmpty ∨ act = 0 then .got c (opValues c ops [])
  else
    match popEntries c.t qs with
    | none => .stop (.block c 2)
    | some es =>
      match popFate c.s c.t es act with
      | .wait b => .stop (.block c b)
      | .trap i => .stop (.trap i)
      | .pending => .stop (.switchOut [])
      | .ok => if readsOwed c.s c.t c.wi act then .stop .stall else .got (qs.foldl (fun c q => c.popHead q act) c) (opValues c ops es)

/-- Operand k of the values read, in lane L. -/
def val (vs : List (Nat → DWord)) (k L : Nat) : DWord := (vs.getD k (fun _ => 0)) L

/-- A vector register may be named (R18). -/
def regOk (c : Ctx) (r : Nat) : Bool := decide (r < c.w.nregs)
/-- A pair of vector registers may be named (R17, R18). -/
def pairOk (c : Ctx) (r : Nat) : Bool := r % 2 == 0 && decide (r + 1 < c.w.nregs)
def destOk (c : Ctx) (d : Nat) (wide : Bool) : Bool := if wide then pairOk c d else regOk c d

/-- Writes the destination, a register or a pair, in the lanes of m. -/
def Ctx.setD (c : Ctx) (d : Nat) (wide : Bool) (m : LaneMask) (f : Nat → DWord) : Ctx :=
  { c with w := if wide then c.w.setV64 d m f else c.w.setV d m (fun L => loWord (f L)) }

/-- The form of the lane instructions: check D and the operands, read them, and write f of them to D in every active lane. f is given the context before the write (so that D may be read as a source). -/
def laneForm (s : State) (roles : Roles) (g : BitVec 4) (d : BitVec 6) (dWide : Bool) (ops : List Opnd)
    (f : Ctx → Nat → List (Nat → DWord) → DWord) : Host.Outcome State Fault Refusal :=
  issue s roles (fun c =>
    orIllopnd (destOk c d.toNat dWide && ops.all (Opnd.ok c)) (
      match readOps c (c.act g) ops with
      | .stop r => r
      | .got c' vs => .done (c'.setD d.toNat dWide (c.act g) (fun L => f c L vs))))

/-- A 32-bit operand. -/
def op32 (cls : OpClass) (x : BitVec 7) : Opnd := { spec := x, wide := false, cls := cls }
/-- A 64-bit integer operand. -/
def op64 (x : BitVec 7) : Opnd := { spec := x, wide := true, cls := .int }

/-- Format A over two 32-bit operands of one class, 32-bit result. -/
def laneAB (s : State) (roles : Roles) (cls : OpClass) (f : FmtA) (op : Word → Word → Word) :
    Host.Outcome State Fault Refusal :=
  laneForm s roles f.g f.d false [op32 cls f.a, op32 cls f.b]
    (fun _ L vs => (op (loWord (val vs 0 L)) (loWord (val vs 1 L))).setWidth 64)

/-- Format A that also reads D (R101: the old value of d in the same lane). -/
def laneABD (s : State) (roles : Roles) (cls : OpClass) (f : FmtA) (op : Word → Word → Word → Word) :
    Host.Outcome State Fault Refusal :=
  laneForm s roles f.g f.d false [op32 cls f.a, op32 cls f.b]
    (fun c L vs => (op (loWord (val vs 0 L)) (loWord (val vs 1 L)) (c.w.v f.d.toNat L)).setWidth 64)

/-- The unary form (R20). -/
def laneA (s : State) (roles : Roles) (cls : OpClass) (f : FmtU) (op : Word → Word) :
    Host.Outcome State Fault Refusal :=
  laneForm s roles f.g f.d false [op32 cls f.a] (fun _ L vs => (op (loWord (val vs 0 L))).setWidth 64)

/-- Format A over two 64-bit integer operands, pair result. -/
def laneAB64 (s : State) (roles : Roles) (f : FmtA) (op : DWord → DWord → DWord) : Host.Outcome State Fault Refusal :=
  laneForm s roles f.g f.d true [op64 f.a, op64 f.b] (fun _ L vs => op (val vs 0 L) (val vs 1 L))

/-- The lowest active lane. -/
def lane0 (act : LaneMask) : Nat := lowestLane act

/-- A specifier names an even s register (a uniform pair). -/
def isSPair (x : BitVec 7) : Bool := decide (0x40 ≤ x.toNat ∧ x.toNat < 0x60) && x.toNat % 2 == 0
/-- A specifier names an s register. -/
def isSReg (x : BitVec 7) : Bool := decide (0x40 ≤ x.toNat ∧ x.toNat < 0x60)
/-- The s register number of a specifier. -/
def sNum (x : BitVec 7) : Nat := x.toNat - 0x40
/-- A specifier names a queue. -/
def isQueueSpec (x : BitVec 7) : Bool := (specQueue x).isSome

end Sys2Proof.Machine
end

