-- ==== Sys2Proof/Machine/Order.lean ====
section
/-! DEFINITION. Release: which earlier accesses hold back a release operation, a fence or a release side (spec/07 R207-R215, spec/06 R197; notes/assumptions/8.md), and what keeps one lane's accesses in program order. -/

namespace Sys2Proof.Machine

/-- Some lane of act has a store on its way into an exchange area (R219). -/
def exchangePending (s : State) (team wi : Nat) (act : LaneMask) : Bool :=
  s.die.exStores.any (fun x => x.team == team && x.warp == wi && inMask act x.lane)

/-- The earlier accesses a release at a scope waits for have completed (R212): every read has read its value, every remote operation is performed, and every store is performed at the scope. Within a core a store is seen as soon as it is accepted; beyond it, every store the core holds is waited for, since the release covers all that happens before it (R215). For the same reason a release that another team may observe waits for the LDQ reads, still to be made, that a pop of its team has gone past (notes/assumptions/46.md). -/
def releaseReady (c : Ctx) (act : LaneMask) (scope : Nat) : Bool :=
  act == 0 || (lanesDone c.s c.t c.wi act c.s.nextId && (decide (scope = 0) || !teamRereading c.t) &&
    (decide (scope ≤ 1) || ((c.s.core c.t.core).stores.isEmpty && !exchangePending c.s c.t.id c.wi act)))

/-- Holds an instruction back until its release side may take effect. -/
def afterRelease (c : Ctx) (act : LaneMask) (scope : Nat) (r : Res) : Res := if releaseReady c act scope then r else .stall

/-! ## Acquires -/

/-- Holds an acquire fence back until every earlier read of its lanes is made, one of a PENDING element too (R212). -/
def afterAllReads (c : Ctx) (act : LaneMask) (r : Res) : Res :=
  if act != 0 && (rereads c.t c.wi act c.s.nextId || readsOwed c.s c.t c.wi act) then .stall else r

/-- The context after a release through memory by some lanes, or an acquire. -/
def Ctx.releases (c : Ctx) (act : LaneMask) : Ctx := { c with t := c.t.releases c.wi act }
def Ctx.acquires (c : Ctx) (act : LaneMask) : Ctx := { c with t := c.t.acquires c.wi act }
/-- The context as an ORDER field of a memory access leaves it: release part, then acquire part (spec/06 R185, spec/07 R209). -/
def Ctx.ordered (c : Ctx) (order : BitVec 2) (act : LaneMask) : Ctx :=
  let c := if bitOf order 1 then c.releases act else c
  if bitOf order 0 then c.acquires act else c

/-! ## Stores to scratchpad (spec/07 R218, spec/09 R260) -/

/-- Writes of whole bytes from a team offset on: offset, mask, value. -/
def wholeBytes (off : Nat) (bs : List Byte) : List (Nat × Byte × Byte) := (bytesAt off bs).map (fun x => (x.1, 0xFF, x.2))

/-- A byte with the bits of a mask replaced. -/
def mergeBits (old mask v : Byte) : Byte := (old &&& ~~~mask) ||| (v &&& mask)

/-- A granule's 16 bytes after writes. -/
def granuleAfter (g : Nat) (old : List Byte) (ws : List (Nat × Byte × Byte)) : List Byte :=
  ws.foldl (fun l x => if x.1 / 16 = g then updAt l (x.1 % 16) (fun b => mergeBits b x.2.1 x.2.2) else l) old

/-- The bytes of scratchpad after writes. -/
def memAfter (m : Memory) (ws : List (Nat × Byte × Byte)) : Memory :=
  ws.foldl (fun m x => m.put x.1 (mergeBits (m.get x.1) x.2.1 x.2.2)) m

/-- One lane's store to its team's scratchpad. What it replaces is kept while a matrix pass may still read it old; a team without tiles starts no pass. -/
def Ctx.scrStore (c : Ctx) (lane : Nat) (ws : List (Nat × Byte × Byte)) : Ctx :=
  let sc := c.t.scr
  let new : List Unfenced := if c.t.mtx.tiles.isEmpty then [] else
    (dedup (ws.map (fun x => x.1 / 16))).map (fun g => { warp := c.wi, lane := lane, granule := g, old := sc.bytes.read (16 * g) 16
                                                         wrote := ws.filter (fun x => x.1 / 16 == g), tags := []
                                                         known := [(c.wi, maskOf (· == lane))] })
  { c with t := { c.t with scr := { sc with bytes := memAfter sc.bytes ws, unfenced := sc.unfenced ++ new } } }

/-! ## Full/empty bits (spec/05 R166, spec/07 R215) -/

/-- The changes of full/empty bits that one warp's lanes make. -/
def Team.setGranules (t : Team) (gs : List Nat) (full : Bool) : Team :=
  { t with scr := { t.scr with full := gs.foldl (fun m g => m.put g (if full then 1 else 0)) t.scr.full } }

/-- What a held change waits for is over: its lanes' accesses have completed at its scope. -/
def HeldSet.ready (s : State) (t : Team) (h : HeldSet) : Bool :=
  lanesDone s t h.warp h.lanes h.mark && (!h.wide ||
    ((s.core t.core).stores.all (fun x => decide (h.mark ≤ x.op)) &&
     s.die.exStores.all (fun x => !(x.team == t.id && x.warp == h.warp && inMask h.lanes x.lane && decide (x.op < h.mark)))))

/-- The words of an STFE reach the scratchpad together with its bit; a release, they come before later passes (R193, R205, R218). -/
def Team.scrLand (t : Team) (ws : List (Nat × Byte × Byte)) : Team :=
  { t with scr := { t.scr with
      bytes := memAfter t.scr.bytes ws
      unfenced := t.scr.unfenced.map (fun x => { x with old := granuleAfter x.granule x.old ws }) } }

/-- The bits of some granules carry, from the moment their held change takes effect, what its lanes released as they made it, and nothing else. -/
def Team.landTags (t : Team) (id : Nat) (gs : List Nat) : Team :=
  { t with scr := { t.scr with unfenced := t.scr.unfenced.map (fun e =>
      let tags := e.tags.filter (fun x => x != .change id && !gs.any (fun g => x == .granule g))
      { e with tags := if e.tags.contains (.change id) then gs.map SyncTag.granule ++ tags else tags }) } }

/-- Held changes take effect in order, those of one granule one after another. -/
def applyHeld (s : State) (t : Team) : Team :=
  t.scr.held.foldl (fun t h =>
    if h.ready s t && !t.scr.held.any (fun k => k.granules.any h.granules.contains) then
      ((t.scrLand h.writes).landTags h.mark h.granules).setGranules h.granules h.full
    else { t with scr := { t.scr with held := t.scr.held ++ [h] } })
    { t with scr := { t.scr with held := [] } }

/-- A change of full/empty bits by an instruction of some lanes: at once when their earlier accesses have completed, else when they have. An observer of the bit acquires what the lanes released. The words written with the bits take effect with them (R193, R205). While the change is held the bit reads as before to the issuing split too (DESIGN CHOICE, notes/assumptions/48.md: R215 speaks of other agents). -/
def Ctx.changeBits (c : Ctx) (act : LaneMask) (wide : Bool) (gs : List Nat) (full : Bool) (ws : List (Nat × Byte × Byte)) : Ctx :=
  let h : HeldSet := { warp := c.wi, lanes := act, mark := c.s.nextId, wide := wide, granules := gs, full := full, writes := ws }
  if h.ready c.s c.t && !c.t.scr.held.any (fun k => k.granules.any gs.contains) then
    { c with t := ((gs.foldl (fun t g => t.signals (.granule g) c.wi act) c.t).scrLand ws).setGranules gs full }
  else
    let t := c.t.addSignals (.change h.mark) c.wi act
    { c with s := c.s.fresh.2, t := { t with scr := { t.scr with held := t.scr.held ++ [h] } } }

/-- A change that the issuing warp made to some granules is still held: its next access to a granule's word and bit waits, so that one lane's accesses keep their order (R214). -/
def Ctx.heldHere (c : Ctx) (gs : List Nat) : Bool := c.t.scr.held.any (fun h => h.warp == c.wi && h.granules.any gs.contains)
/-- The same for a plain access: only words still to be written matter. -/
def Ctx.wordsHeld (c : Ctx) (g : Nat) : Bool := c.t.scr.held.any (fun h => h.warp == c.wi && !h.writes.isEmpty && h.granules.contains g)

/-- A change that sets a granule full is held. -/
def Team.filling (t : Team) (g : Nat) : Bool := t.scr.held.any (fun h => h.full && h.granules.contains g)

/-! ## Fusion (spec/02 R68, spec/07 R215) -/

/-- The waiting-merge split q of a warp and its ancestors are checked for fusion, which waits for the earlier accesses of the lanes that fuse. -/
def fuseWarp (s : State) (t : Team) (wi : Nat) (w : Warp) (q : BitVec 16) : Warp :=
  tryFuse s.clock (fun m => lanesDone s t wi m s.nextId) 64 w q

/-- The splits of a warp that waited for a merge before and do so no more. -/
def fusedSplits (old new : Warp) : List Split :=
  new.splits.filter (fun p => p.st != .waitingMerge && old.splits.any (fun x => x.seq == p.seq && x.st == .waitingMerge))

/-- The lanes of each fused split share what happens before any of them. -/
def Team.shares (t : Team) (wi : Nat) (old new : Warp) : Team := (fusedSplits old new).foldl (fun t p => t.mergesKnown wi p.mask) t

/-- Every complete waiting-merge split of a warp whose lanes' accesses have meanwhile completed fuses. -/
def fuseDue (s : State) (t : Team) (wi : Nat) (w : Warp) : Warp :=
  ((w.splits.filter (fun p => p.st == .waitingMerge)).map (·.seq)).foldl (fun w q => fuseWarp s t wi w q) w

/-- The held effects of a team that are due: fusions and changes of full/empty bits. -/
def releaseDue (s : State) (t : Team) : Team :=
  let ws := ((List.range t.warps.length).zip t.warps).map (fun x => fuseDue s t x.1 x.2)
  let t' := ((t.warps.zip ws).zip (List.range ws.length)).foldl (fun t x => t.shares x.2 x.1.1 x.1.2) t
  applyHeld s { t' with warps := ws }

/-- The held effects of every team on a core that are due. -/
def releaseAll (s : State) : State :=
  { s with teams := s.teams.map (fun (t : Team) =>
      if t.status = .resident ∨ t.status = .halted then (releaseDue s t).refill s.clock
      else if t.status = .saving then releaseDue s t else t) }

/-! ## Program order of one lane (spec/07 R214) -/

/-- The physical bytes of a GLOBAL element now, if it is mapped, under a KEYOVR. -/
def mappedBytes (s : State) (t : Team) (key : Option Nat) (va width : Nat) (need : Need) : List Nat :=
  match globalPlaces s { job := t.ident.job, core := some t.core, keyovr := key } va width need with
  | .ok ps _ => ps.filterMap (fun p => match p with | .phys _ pa _ => some pa | _ => none)
  | _ => []

/-- The bytes that lane L of warp wi is still to read for the LDQs it issued before mark: reads to be made again. -/
def laneRereads (s : State) (t : Team) (wi L mark : Nat) : List Nat :=
  t.queues.flatMap (fun q => q.entries.flatMap (fun e =>
    if e.by_ == wi && decide (e.op < mark) && ((e.lane L).st == .pending || (e.lane L).st == .refetch) then
      mappedBytes s t e.keyovr (e.lane L).va.toNat (q.bits / 8) .r else []))

/-- The bytes that lane L of warp wi is still to access by the instructions it issued before mark: reads to be made again, and remote operations on the device itself. -/
def laneOwed (s : State) (t : Team) (wi L mark : Nat) : List Nat :=
  laneRereads s t wi L mark ++
  ((s.core t.core).remote.filter (fun r => r.team == t.id && r.warp == wi && r.peer == ownRank s && decide (r.id < mark))).flatMap (fun r =>
    (r.lanes.filter (fun x => x.1 == L)).flatMap (fun x => mappedBytes s t none x.2.1.toNat (remoteWidth r.opc) .r))

/-- The bytes that any lane of a team is still to read for the LDQs it issued before mark and that a pop has gone past. -/
def teamRereads (s : State) (t : Team) (mark : Nat) : List Nat :=
  if !teamRereading t then []
  else ((List.range t.warps.length).flatMap (fun wi => laneList.map (fun L => (wi, L)))).flatMap (fun x => laneRereads s t x.1 x.2 (min mark t.past))

/-- An access of some lanes to some places would overtake one of theirs that is still to be made, or an LDQ read of their team still to be made there that a pop has gone past: it waits at issue, so that rules 2 to 6 of R214 hold. -/
def overtakes (c : Ctx) (ls : List (Nat × List Place)) : Bool :=
  let reads := teamRereads c.s c.t c.s.nextId
  ls.any (fun x => x.2.any (fun p => match p with
    | .phys _ pa _ => reads.contains pa || (laneOwed c.s c.t c.wi x.1 c.s.nextId).contains pa
    | .scr off => c.wordsHeld (off / 16)
    | _ => false))

/-- An access that sees every store of its core would overtake one, or meets a byte of a late store, which other lanes may not see yet (R214). -/
def overtakesAny (c : Ctx) (ls : List (Nat × List Place)) : Bool :=
  overtakes c ls || ls.any (fun x => x.2.any (fun p => match p with
    | .phys _ pa _ => (c.s.core c.t.core).stores.any (fun st => st.late && st.bytes.any (fun b => b.1 == pa))
    | _ => false))

/-- A remote operation on the device itself is to be performed after what was done before it to the same bytes: stores that its core still holds, and reads to be made again, its own lanes' and those that a pop has gone past (R214). -/
def remoteWaits (s : State) (t : Team) (core : Nat) (r : RemoteReq) : Bool :=
  r.lanes.any (fun x =>
    let bs := mappedBytes s t none x.2.1.toNat (remoteWidth r.opc) .r
    (s.core core).stores.any (fun st => decide (st.op < r.id) && st.bytes.any (fun b => bs.contains b.1)) ||
      (teamRereads s t r.id).any bs.contains || (laneRereads s t r.warp x.1 r.id).any bs.contains)

end Sys2Proof.Machine
end

