-- ==== Sys2Proof/Machine/Access.lean ====
section
/-! DEFINITION. What every memory instruction is written over: effective addresses (spec/06 R184), the checks over all active lanes (R188-R189), and accepting loads and stores (spec/05 R143, spec/07 R208). -/

namespace Sys2Proof.Machine

/-- The agent a split is: its job, its core's TLBs, and KEYOVR under handler privilege (spec/11 R320). -/
def Ctx.agent (c : Ctx) : Agent :=
  { job := c.t.ident.job, core := some c.t.core
    keyovr := if c.inHandler ∧ bitOf c.t.trap.keyovr 31 then some (bitsOf c.t.trap.keyovr 0 11) else none }

/-- A may name the address base of format M: an even v pair of the warp or an even s pair (R7). -/
def baseOk (c : Ctx) (a : BitVec 7) : Bool :=
  a.toNat % 2 == 0 && (if a.toNat < 0x40 then decide (a.toNat + 1 < c.w.nregs) else decide (a.toNat < 0x60))

/-- The effective address of a lane (R32, R184). -/
def Ctx.ea (c : Ctx) (a : BitVec 7) (L : Nat) : Nat :=
  let base : DWord := if a.toNat < 0x40 then c.w.v64 a.toNat L else c.w.s64 (a.toNat - 0x40)
  (base + (if c.p.immRun > 0 then c.p.latch.signExtend 64 else 0)).toNat

/-- The data registers of a width (R7, R191): any, an even pair, or a multiple of four. -/
def dataOk (c : Ctx) (d width : Nat) : Bool :=
  match width with
  | 16 => d % 4 == 0 && decide (d + 3 < c.w.nregs)
  | 8 => pairOk c d
  | _ => regOk c d

/-- The data of width bytes that lane L holds in registers d upward. -/
def dataOf (w : Warp) (d width L : Nat) : Nat :=
  leWords ((List.range ((width + 3) / 4)).map (fun i => w.v (d + i) L)) % 2 ^ (8 * width)

/-- What one lane's element meets, in the order of R189: alignment, aperture, translation, and for reads a poisoned L1 line. -/
def laneCheck (c : Ctx) (g : AccGroup) (need : Need) (align width va L : Nat) : LaneRes :=
  if va % align ≠ 0 then .fault causeALIGN
  else match laneAccess c.s c.t c.w c.agent g need L va width with
    | .ok ps es => if need ≠ .w ∧ elemPoisoned c.s c.t.core ps then .fault causeECCU else .ok ps es
    | r => r

/-- All active lanes checked: stopped, or each lane's places with the translations used. -/
inductive Checked where
  | stop (r : Res)
  | ok (lanes : List (Nat × List Place)) (es : List TlbEntry)

/-- The lowest lane with a fault traps; else missing pages switch the team out; else all pass (R189). -/
def checkAll (ea : Nat → Nat) (rs : List (Nat × LaneRes)) : Checked :=
  match rs.findSome? (fun x => match x.2 with | .fault cause => some (x.1, cause) | _ => none) with
  | some (L, cause) => .stop (.trap (trapAddr cause (ea L) L))
  | none =>
    match dedup (rs.flatMap (fun x => match x.2 with | .miss ps => ps | _ => [])) with
    | p :: ps => .stop (.switchOut (p :: ps))
    | [] => .ok (rs.filterMap (fun x => match x.2 with | .ok ps _ => some (x.1, ps) | _ => none))
              (rs.flatMap (fun x => match x.2 with | .ok _ es => es | _ => []))

/-- The active lanes, ascending. -/
def lanesOf (act : LaneMask) : List Nat := laneList.filter (inMask act)

/-- The checks of an instruction that accesses width bytes at each active lane's address. -/
def checkLanes (c : Ctx) (act : LaneMask) (a : BitVec 7) (g : AccGroup) (need : Need) (align width : Nat) : Checked :=
  checkAll (c.ea a) ((lanesOf act).map (fun L => (L, laneCheck c g need align width (c.ea a L) L)))

/-- The machine with the translations of an access held (spec/11 R321). -/
def Ctx.noteTlb (c : Ctx) (es : List TlbEntry) : Ctx := { c with s := Machine.noteTlb c.s c.agent es }

/-- The words of a value as register writes: register, lane, word. -/
def regWrites (d width L v : Nat) : List (Nat × Nat × Word) :=
  (List.range ((width + 3) / 4)).map (fun i => (d + i, L, BitVec.ofNat 32 (v / 2 ^ (32 * i))))

/-! ## The outstanding request table (spec/05 R143) -/

/-- The 32-byte sector a place lies in, as a number: two places share it when they share the sector. -/
def sectorOfPlace : Place → Nat
  | .scr off => 3 * (off / 32)
  | .ex team off => 3 * (team * 2 ^ 13 + off / 32) + 1
  | .phys slot pa _ => 3 * (l2Key slot pa / 32) + 2

/-- The distinct sectors that some lanes touch: the entries their instruction takes. -/
def sectorsOf (ls : List (Nat × List Place)) : Nat := (dedup (ls.flatMap (fun x => x.2.map sectorOfPlace))).length

/-- Entries that the elements of a queue keep: the sectors of its INFLIGHT local lanes, of removed entries too (R178). -/
def Queue.requests (q : Queue) : Nat :=
  (q.entries.map (fun e => (dedup ((e.lanes.filter (fun l => l.st == .inflight && l.req.isNone)).flatMap (·.secs))).length)).foldl (· + ·) 0

/-- The entries that stores keep which no cache has accepted yet: the distinct sectors of each instruction, those of a lane or line apart from it counted once. -/
def storeSectors (stores : List PStore) (exs : List ExStore) : Nat :=
  ((stores.filter (fun x => !x.l1)).flatMap (fun x => x.bytes.map (fun b => (x.first, sectorOfPlace (.phys x.key b.1 0))))).eraseDups.length +
    (exs.flatMap (fun x => (List.range x.bytes.length).map (fun i => (x.first, sectorOfPlace (.ex x.target (x.off + i)))))).eraseDups.length

/-- Entries in use: those of loads and atomics whose data has not landed, of LDQ elements, and of stores that no cache has accepted yet. -/
def requestsUsed (s : State) (core : Nat) : Nat :=
  let on (id : Nat) : Bool := match s.team? id with | some t => t.core == core | none => false
  let sum (l : List Nat) : Nat := l.foldl (· + ·) 0
  sum ((s.die.loads.filter (fun l => on l.team)).map (·.sectors)) +
    sum ((s.teams.filter (fun t => t.core == core && t.placed)).flatMap (fun t => t.queues.map Queue.requests)) +
    storeSectors (s.core core).stores (s.die.exStores.filter (fun x => on x.team))

/-- The table can take n more entries. -/
def requestRoom (c : Ctx) (n : Nat) : Bool := decide (requestsUsed c.s c.t.core + n ≤ Config.requestEntries)

/-- An instruction may make its accesses now (R143, spec/07 R214): the table has room for them and none overtakes an earlier one of its lane. -/
def mayAccess (c : Ctx) (ls : List (Nat × List Place)) : Bool := requestRoom c (sectorsOf ls) && !overtakes c ls

/-- A load or atomic takes its value now and writes its registers when it completes, bound to the read-class flag (spec/01 R24-R25); until then it keeps n entries of the outstanding request table. -/
def Ctx.acceptLoad (c : Ctx) (n : Nat) (writes : List (Nat × Nat × Word)) : Ctx :=
  let f := flagOf c.p.setA
  let (op, s) := c.s.fresh
  { c with
    s := s.updDie (fun d => { d with loads := d.loads ++ [{ op := op, team := c.t.id, warp := c.wi, flag := f, sectors := n, writes := writes }] })
    w := c.w.bind f }

/-! ## Stores to scratchpad (spec/07 R218, spec/09 R260) -/

/-- Stores ordered before later passes: they leave the list, and what older entries replaced contains them. -/
def fenceList (p : Unfenced → Bool) (l : List Unfenced) : List Unfenced :=
  l.foldl (fun acc e =>
    if p e then acc.map (fun x => if x.granule = e.granule then { x with old := granuleAfter x.granule x.old e.wrote } else x)
    else acc ++ [e]) []

/-- The stores to some granules that happen before what some lanes of the issuing warp do are ordered before later passes. -/
def Ctx.scrFence (c : Ctx) (act : LaneMask) (granules : Nat → Bool) : Ctx :=
  { c with t := { c.t with scr := { c.t.scr with
      unfenced := fenceList (fun e => e.known.any (fun k => k.1 == c.wi && (k.2 &&& act) != 0) && granules e.granule) c.t.scr.unfenced } } }

/-- The bytes of an engine's command land in a granule and set it full (R166, R215, R237); what its issuing lanes released is carried by the granule's bit. -/
def Scratch.land (sc : Scratch) (cmd g : Nat) (ws : List (Nat × Byte × Byte)) : Scratch :=
  { sc with
    bytes := memAfter sc.bytes ws
    full := sc.full.put g 1
    unfenced := sc.unfenced.map (fun x =>
      let tags := x.tags.filter (· != .granule g)
      { x with old := if x.granule = g then granuleAfter g x.old ws else x.old
               tags := if tags.contains (.cmd cmd) then .granule g :: tags else tags }) }

/-- The bytes of a lane's store that lie in its team's scratchpad. -/
def scrPart (bs : List (Place × Byte)) : List (Nat × Byte × Byte) :=
  bs.filterMap (fun b => match b.1 with | .scr off => some (off, 0xFF, b.2) | _ => none)

/-- The scratchpad part of a lane's store put in place. -/
def Ctx.scrPut (c : Ctx) (lane : Nat) (bs : List (Place × Byte)) : Ctx :=
  match scrPart bs with
  | [] => c
  | ws => c.scrStore lane ws

/-- A lane's bytes put in place at once: scratchpad, or physical memory at the home slice. -/
def Ctx.putNow (c : Ctx) (lane : Nat) (bs : List (Place × Byte)) : Ctx :=
  let c := c.scrPut lane bs
  bs.foldl (fun c b => match b.1 with
    | .phys slot pa cattr => { c with
        s := touchPools (writeBytes c.s slot (cattr == 2) [(pa, b.2)]) [pa]
        t := if ownsByte c.t pa then { c.t with save := { c.t.save with corrupt := true } } else c.t }
    | _ => c) c

/-- The access bypasses both caches (R186): an uncached page, or policy 2 in GLOBAL. -/
def bypasses (cattr cache : Nat) : Bool := cattr == 2 || (cache == 2 && cattr != cattrPrivate)
/-- L1 may hold the access (R186): a page of both caches under policy 0 or 3, and PRIVATE memory. -/
def inL1 (cattr cache : Nat) : Bool := cattr == cattrPrivate || (cattr == 0 && (cache == 0 || cache == 3))

/-- L2 may hold the access (R186). -/
def inL2 (cattr cache : Nat) : Bool := !bypasses cattr cache

/-- A read-only copy of a line that L2 may hold is allocated in the requester's crossbar sector, when its home is in another (spec/11 R325). -/
def Die.addCopy (d : Die) (core line : Nat) : Die :=
  let x := (line, sectorOf core)
  if homeSlice line / 24 = sectorOf core ∨ d.copies.contains x then d else { d with copies := d.copies ++ [x] }

/-- The copies that the loads of some lanes allocate. -/
def Ctx.copyLines (c : Ctx) (cache : Nat) (ls : List (Nat × List Place)) : Ctx :=
  { c with s := ls.foldl (fun s x => x.2.foldl (fun s p => match p with
      | .phys _ pa cattr => if inL2 cattr cache then s.updDie (fun d => d.addCopy c.t.core (pa / 128)) else s
      | _ => s) s) c.s }

/-- One lane's store: its places with their bytes. -/
structure LaneStore where
  lane : Nat
  bytes : List (Place × Byte)

/-- The physical bytes of a store: key slot, address, byte, whether no cache keeps it, whether L1 does. -/
def physBytes (cache : Nat) (b : List (Place × Byte)) : List (Nat × Nat × Byte × Bool × Bool) :=
  b.filterMap (fun x => match x.1 with | .phys slot pa cattr => some (slot, pa, x.2, bypasses cattr cache, inL1 cattr cache) | _ => none)

/-- The lines (key slot, line) among physical bytes, in order of first use. -/
def linesOf (b : List (Nat × Nat × Byte × Bool × Bool)) : List (Nat × Nat) :=
  b.foldl (fun acc x => if acc.contains (x.1, x.2.1 / 128) then acc else acc ++ [(x.1, x.2.1 / 128)]) []

/-- One pending store for each line of some lanes' physical bytes. -/
def pendingOf (c : Ctx) (first op : Nat) (lanes : LaneMask) (flag : Option Nat) (scope : Nat)
    (stream : Nat → Option (Nat × Nat × Nat)) (b : List (Nat × Nat × Byte × Bool × Bool)) : List PStore :=
  let ls := linesOf b
  (List.range ls.length).zip ls |>.map (fun x =>
    let mine := b.filter (fun y => y.1 == x.2.1 && y.2.1 / 128 == x.2.2)
    { op := op + x.1, first := first, team := c.t.id, warp := c.wi, lanes := lanes, flag := flag, scope := scope, key := x.2.1
      bytes := mine.map (fun y => (y.2.1, y.2.2.1)), uncached := mine.any (fun y => y.2.2.2.1)
      l1 := mine.all (fun y => y.2.2.2.2), late := c.s.late, stream := stream x.2.2 })

/-- Accepts pending stores in the core's L1, each bound to the flag. -/
def Ctx.addStores (c : Ctx) (l : List PStore) (flag : Option Nat) : Ctx :=
  { c with
    s := { (c.s.updCore c.t.core (fun k => { k with stores := k.stores ++ l })) with nextId := c.s.nextId + l.length }
    w := l.foldl (fun w _ => w.bind flag) c.w }

/-- Accepts the exchange stores of a lane of the instruction that first names (spec/07 R219). -/
def Ctx.addExchange (c : Ctx) (first : Nat) (x : LaneStore) (flag : Option Nat) : Ctx :=
  match x.bytes.filterMap (fun b => match b.1 with | .ex id o => some (id, o, b.2) | _ => none) with
  | [] => c
  | (id, o, b) :: r =>
    let (op, s) := c.s.fresh
    { c with
      s := s.updDie (fun d => { d with exStores := d.exStores ++
        [{ op := op, first := first, team := c.t.id, warp := c.wi, lane := x.lane, flag := flag, target := id, off := o, bytes := b :: r.map (·.2.2) }] })
      w := c.w.bind flag }

/-- Some byte of a lane's store lies in GLOBAL: it goes through the stream (R198). PRIVATE stores do not. -/
def onStream (c : Ctx) (va : Nat) : Bool := c.w.streamId != 0 && decide (apertureOf va = .global)

/-- The flag that a store to memory stays bound to until it is performed: none at WARP or CORE scope, where it is performed as soon as it is accepted (spec/01 R25, spec/07 R208), unless it is a late one. -/
def storeFlag (scope : Nat) (f : Option Nat) : Option Nat := if scope ≤ 1 then none else f

/-- Accepts the stores of an instruction (R190: lanes ascending, the highest stands): scratchpad bytes at once, exchange stores one for each lane, the rest one for each line, stream stores one for each lane and line with the next sequence number (spec/11 R326). -/
def Ctx.acceptStores (c : Ctx) (va : Nat → Nat) (cache scope : Nat) (xs : List LaneStore) : Ctx :=
  let f := flagOf c.p.setB
  let c := xs.foldl (fun c x => c.scrPut x.lane x.bytes) c
  let first := c.s.nextId
  let c := xs.foldl (fun c x => c.addExchange first x f) c
  let f := storeFlag (if c.s.late then 2 else scope) f
  let plain := xs.filter (fun x => !onStream c (va x.lane))
  let mask := maskOf (fun L => plain.any (fun x => x.lane == L))
  let c := c.addStores (pendingOf c first c.s.nextId mask f scope (fun _ => none) (plain.flatMap (fun x => physBytes cache x.bytes))) f
  (xs.filter (fun x => onStream c (va x.lane))).foldl (fun c x =>
    let id := c.w.streamId.toNat
    let n := c.w.streamCtr.getD id 0
    let c := c.addStores (pendingOf c first c.s.nextId (maskOf (· == x.lane)) f scope
      (fun line => some (id, n, homeSlice line)) (physBytes cache x.bytes)) f
    { c with w := { c.w with streamCtr := updAt c.w.streamCtr id (fun _ => n + 1) } }) c

/-- The bytes of a value paired with places. -/
def placeBytes (ps : List Place) (v : Nat) : List (Place × Byte) := ps.zip (leBytes ps.length v)

/-- A pending store of a core is performed: its bytes reach the home slices and its flag is released (spec/07 R208). One made to a line of L1 after that line was poisoned is performed as any other, though the line is dropped without write-back (DESIGN CHOICE, notes/assumptions/49.md: R169 is silent on later stores). -/
def performStore (s : State) (core : Nat) (st : PStore) : State :=
  let s := s.updCore core (fun k => { k with stores := k.stores.filter (fun x => x.op != st.op) })
  let s := touchPools (writeBytes s st.key st.uncached st.bytes) (st.bytes.map (·.1))
  s.unbind st.team st.warp st.flag

/-- Two byte lists share an address. -/
def sharesByte (a b : List (Nat × Byte)) : Bool := a.any (fun x => b.any (fun y => x.1 == y.1))

/-- Stores accepted before this one to one of its bytes come first (spec/07 R206). -/
def olderFirst (stores : List PStore) (st : PStore) : Bool :=
  (stores.takeWhile (fun x => x.op != st.op)).all (fun x => !sharesByte x.bytes st.bytes)

/-- A stream store's predecessors at its slice have been released (spec/11 R326). -/
def streamTurn (stores : List PStore) (st : PStore) : Bool :=
  match st.stream with
  | none => true
  | some (id, n, slice) => stores.all (fun x => match x.stream with
    | some (i, m, h) => !(x.team == st.team && x.warp == st.warp && i == id && h == slice && decide (m < n))
    | none => true)

end Sys2Proof.Machine
end

