-- ==== Sys2Proof/Machine/Formats.lean ====
section
/-! DEFINITION. Number formats, exact values and rounding (spec/03 R80-R100). A finite value is an exact dyadic; every result is rounded once. -/

namespace Sys2Proof.Machine

/-- A rounding mode (R90). -/
inductive RMode where
  | rne
  | rz
  | rd
  | ru
  deriving DecidableEq, Repr

/-- A mode field: 0 RNE, 1 RZ, 2 RD, 3 RU (R110, R123). -/
def modeOf (m : Nat) : RMode := if m = 0 then .rne else if m = 1 then .rz else if m = 2 then .rd else .ru

/-- A floating format (R82): bits of M and E, bias, the significand and quantum exponent of the largest finite value, whether it has infinities, its canonical NaN (none: no NaN), and whether it has a sign. -/
structure FFmt where
  mbits : Nat
  ebits : Nat
  bias : Nat
  maxMant : Nat
  maxQ : Int
  hasInf : Bool
  nan : Option Nat
  signed : Bool
  deriving DecidableEq, Repr

def fp32 : FFmt := ⟨23, 8, 127, 0xFFFFFF, 104, true, some 0x7FC00000, true⟩
def fp16 : FFmt := ⟨10, 5, 15, 0x7FF, 5, true, some 0x7E00, true⟩
def bf16 : FFmt := ⟨7, 8, 127, 0xFF, 120, true, some 0x7FC0, true⟩
def e5m2 : FFmt := ⟨2, 5, 15, 7, 13, true, some 0x7E, true⟩
def e4m3 : FFmt := ⟨3, 4, 7, 14, 5, false, some 0x7F, true⟩
def e2m1 : FFmt := ⟨1, 2, 1, 3, 1, false, none, true⟩
def e3m5 : FFmt := ⟨5, 3, 3, 63, -1, false, none, false⟩

/-- The quantum of subnormals, as an exponent of 2. -/
def FFmt.qmin (F : FFmt) : Int := 1 - (F.bias : Int) - (F.mbits : Int)
/-- The sign bit of a format as a weight. -/
def FFmt.signW (F : FFmt) : Nat := if F.signed then 2 ^ (F.ebits + F.mbits) else 0

/-- A value: NaN, an infinity, or (-1)^neg m 2^e exactly; m = 0 is a zero with its sign. -/
inductive FVal where
  | nan
  | inf (neg : Bool)
  | fin (neg : Bool) (m : Nat) (e : Int)
  deriving DecidableEq, Repr

/-- The value of a code (R82-R84). -/
def FFmt.decode (F : FFmt) (code : Nat) : FVal :=
  let M := code % 2 ^ F.mbits
  let E := code / 2 ^ F.mbits % 2 ^ F.ebits
  let neg := F.signed && code / 2 ^ (F.mbits + F.ebits) % 2 == 1
  if F.hasInf ∧ E = 2 ^ F.ebits - 1 then (if M = 0 then .inf neg else .nan)
  else if !F.hasInf && F.nan.isSome && E == 2 ^ F.ebits - 1 && M == 2 ^ F.mbits - 1 then .nan
  else if E = 0 then .fin neg M F.qmin
  else .fin neg (2 ^ F.mbits + M) (F.qmin + (E : Int) - 1)

/-- The code of m 2^q for a significand of the format's precision, q at or above qmin. -/
def FFmt.encodeFin (F : FFmt) (neg : Bool) (m : Nat) (q : Int) : Nat :=
  let s := if neg then F.signW else 0
  if m < 2 ^ F.mbits then s + m
  else if m = 2 ^ (F.mbits + 1) then s + (q + 1 - F.qmin + 1).toNat * 2 ^ F.mbits
  else s + (q - F.qmin + 1).toNat * 2 ^ F.mbits + (m - 2 ^ F.mbits)

def FFmt.maxCode (F : FFmt) (neg : Bool) : Nat := F.encodeFin neg F.maxMant F.maxQ
/-- An infinite result without saturation: the infinity, or NaN in a format without infinities (R90). -/
def FFmt.infCode (F : FFmt) (neg : Bool) : Nat :=
  if F.hasInf then (if neg then F.signW else 0) + (2 ^ F.ebits - 1) * 2 ^ F.mbits
  else match F.nan with
    | some n => n
    | none => F.maxCode neg
/-- A NaN result: the canonical NaN (R87); +0 in E2M1, 0xFF in E3M5 (R90, R123). -/
def FFmt.nanCode (F : FFmt) : Nat :=
  match F.nan with
  | some n => n
  | none => if F.signed then 0 else 0xFF

/-- Rounds n / d up, given the mode and the sign: whether one is added to the quotient (R90). -/
def roundsUp (mode : RMode) (neg : Bool) (q r d : Nat) : Bool :=
  match mode with
  | .rne => decide (2 * r > d) || (2 * r == d && q % 2 == 1)
  | .rz => false
  | .rd => neg && r != 0
  | .ru => !neg && r != 0

/-- num / den times 2^e as a fraction of the quantum 2^q. -/
def scaleTo (num den : Nat) (e q : Int) : Nat × Nat :=
  if e ≥ q then (num * 2 ^ (e - q).toNat, den) else (num, den * 2 ^ (q - e).toNat)

/-- What overflow gives in a mode (R90). -/
def overflowCode (F : FFmt) (mode : RMode) (sat neg : Bool) : Nat :=
  let toInf := match mode with
    | .rne => true
    | .rz => false
    | .rd => neg
    | .ru => !neg
  if toInf && !sat then F.infCode neg else F.maxCode neg

/-- round of R90 for the exact value (-1)^neg num / den 2^e, den not zero. -/
def roundQ (F : FFmt) (mode : RMode) (sat neg : Bool) (num den : Nat) (e : Int) : Nat :=
  if num = 0 then (if neg then F.signW else 0)
  else
    let k : Int := (num.log2 : Int) - (den.log2 : Int) + e
    let q0 := max (k - 1 - (F.mbits : Int)) F.qmin
    let f0 := scaleTo num den e q0
    let q := if f0.1 / f0.2 ≥ 2 ^ (F.mbits + 1) then q0 + 1 else q0
    let f := if q = q0 then f0 else scaleTo num den e q
    let m := f.1 / f.2
    let m := if roundsUp mode neg m (f.1 % f.2) f.2 then m + 1 else m
    let past := if q ≥ F.maxQ then decide (m * 2 ^ (q - F.maxQ).toNat > F.maxMant)
                else decide (m > F.maxMant * 2 ^ (F.maxQ - q).toNat)
    if past then overflowCode F mode sat neg else F.encodeFin neg m q

/-- round of R90 for a value. -/
def roundV (F : FFmt) (mode : RMode) (sat : Bool) : FVal → Nat
  | .nan => F.nanCode
  | .inf neg => if sat then F.maxCode neg else F.infCode neg
  | .fin neg m e => roundQ F mode sat neg m 1 e

/-- The exact product (R88). -/
def FVal.mul : FVal → FVal → FVal
  | .nan, _ => .nan
  | _, .nan => .nan
  | .inf a, .inf b => .inf (a != b)
  | .inf a, .fin b m _ => if m = 0 then .nan else .inf (a != b)
  | .fin a m _, .inf b => if m = 0 then .nan else .inf (a != b)
  | .fin a m e, .fin b n f => .fin (a != b) (m * n) (e + f)

/-- The exact sum under RNE: opposite signs that cancel give +0, two zeros of one sign keep it (R88). -/
def FVal.add : FVal → FVal → FVal
  | .nan, _ => .nan
  | _, .nan => .nan
  | .inf a, .inf b => if a = b then .inf a else .nan
  | .inf a, _ => .inf a
  | _, .inf b => .inf b
  | .fin a m e, .fin b n f =>
    let g := min e f
    let x := m * 2 ^ (e - g).toNat
    let y := n * 2 ^ (f - g).toNat
    if a = b then .fin a (x + y) g
    else if x = y then .fin false 0 g
    else if x > y then .fin a (x - y) g
    else .fin b (y - x) g

def FVal.neg : FVal → FVal
  | .nan => .nan
  | .inf a => .inf (!a)
  | .fin a m e => .fin (!a) m e

def FVal.abs : FVal → FVal
  | .nan => .nan
  | .inf _ => .inf false
  | .fin _ m e => .fin false m e

def FVal.isNan : FVal → Bool
  | .nan => true
  | _ => false

def FVal.isZero : FVal → Bool
  | .fin _ m _ => m == 0
  | _ => false

/-- The rounded quotient (R93, R94). -/
def divV (F : FFmt) (mode : RMode) (sat : Bool) : FVal → FVal → Nat
  | .nan, _ => F.nanCode
  | _, .nan => F.nanCode
  | .inf _, .inf _ => F.nanCode
  | .inf a, .fin b _ _ => roundV F mode sat (.inf (a != b))
  | .fin a _ _, .inf b => if a != b then F.signW else 0
  | .fin a m e, .fin b n f =>
    if n = 0 then (if m = 0 then F.nanCode else roundV F mode sat (.inf (a != b)))
    else roundQ F mode sat (a != b) m n (e - f)

/-- The integer square root, digit by digit from weight 2^b down. -/
def isqrtFrom (n : Nat) : Nat → Nat → Nat
  | 0, r => if (r + 1) * (r + 1) ≤ n then r + 1 else r
  | b + 1, r => isqrtFrom n b (if (r + 2 ^ (b + 1)) * (r + 2 ^ (b + 1)) ≤ n then r + 2 ^ (b + 1) else r)

def isqrt (n : Nat) : Nat := isqrtFrom n (n.log2 / 2 + 1) 0

/-- The rounded square root (R93, R94): a root of at least 60 bits with a sticky bit rounds as the exact root does. -/
def sqrtV (F : FFmt) : FVal → Nat
  | .nan => F.nanCode
  | .inf neg => if neg then F.nanCode else F.infCode false
  | .fin neg m e =>
    if m = 0 then (if neg then F.signW else 0)
    else if neg then F.nanCode
    else
      let s : Nat := 120 + (if (e - 120) % 2 = 0 then 0 else 1)
      let n := m * 2 ^ s
      let r := isqrt n
      roundQ F .rne false false (2 * r + (if r * r = n then 0 else 1)) 1 ((e - (s : Int)) / 2 - 1)

/-- The rounded reciprocal square root (R93, R94). -/
def rsqrtV (F : FFmt) : FVal → Nat
  | .nan => F.nanCode
  | .inf neg => if neg then F.nanCode else 0
  | .fin neg m e =>
    if m = 0 then F.infCode neg
    else if neg then F.nanCode
    else
      let odd := e % 2 ≠ 0
      let m' := if odd then 2 * m else m
      let e' := if odd then e - 1 else e
      let t := m'.log2 / 2 + 60
      let n := 2 ^ (2 * t)
      let r := isqrt (n / m')
      roundQ F .rne false false (2 * r + (if r * r * m' = n then 0 else 1)) 1 (-(t : Int) - e' / 2 - 1)

/-- A value rounded to an integer in a mode; its magnitude and sign (R91, R110). -/
def roundInt (mode : RMode) (neg : Bool) (m : Nat) (e : Int) : Nat :=
  if e ≥ 0 then m * 2 ^ e.toNat
  else
    let d := 2 ^ (-e).toNat
    if roundsUp mode neg (m / d) (m % d) d then m / d + 1 else m / d

/-- A conversion to an integer range (R91): rounded, clamped, an infinity to its extreme, NaN to 0. -/
def toInt (mode : RMode) (lo hi : Int) : FVal → Int
  | .nan => 0
  | .inf neg => if neg then lo else hi
  | .fin neg m e =>
    -- magnitudes of 2^64 and above clamp whatever their bits
    if m ≠ 0 ∧ (m.log2 : Int) + e ≥ 64 then (if neg then lo else hi)
    else
      let n : Int := roundInt mode neg m e
      let v := if neg then -n else n
      if v < lo then lo else if v > hi then hi else v

/-- An integer as a value. -/
def ofInt (i : Int) : FVal := .fin (decide (i < 0)) i.natAbs 0

/-- The numeric order of two non-NaN values as an integer comparison of codes: sign and magnitude, both zeros 0. -/
def orderKey (F : FFmt) (code : Nat) : Int :=
  let mag := code % 2 ^ (F.ebits + F.mbits)
  if code / 2 ^ (F.ebits + F.mbits) % 2 = 1 then -(mag : Int) else mag

/-- Whether a code is NaN. -/
def isNanCode (F : FFmt) (code : Nat) : Bool := (F.decode code).isNan

/-- The sign bit of a code. -/
def signOf (F : FFmt) (code : Nat) : Bool := code / 2 ^ (F.ebits + F.mbits) % 2 == 1

/-- a is below b where both are no NaN, −0 below +0 (R88 FMIN and FMAX). -/
def belowZ (F : FFmt) (a b : Nat) : Bool :=
  decide (orderKey F a < orderKey F b) || (orderKey F a == orderKey F b && signOf F a && !signOf F b)

/-- FMIN of R88. -/
def minCode (F : FFmt) (a b : Nat) : Nat :=
  if isNanCode F a then (if isNanCode F b then F.nanCode else b)
  else if isNanCode F b then a
  else if belowZ F b a then b else a

/-- FMAX of R88. -/
def maxCodeOf (F : FFmt) (a b : Nat) : Nat :=
  if isNanCode F a then (if isNanCode F b then F.nanCode else b)
  else if isNanCode F b then a
  else if belowZ F a b then b else a

/-- round_rne of a + b, a × b, and a × b + d in a format (R89). -/
def addCode (F : FFmt) (a b : Nat) : Nat := roundV F .rne false ((F.decode a).add (F.decode b))
def mulCode (F : FFmt) (a b : Nat) : Nat := roundV F .rne false ((F.decode a).mul (F.decode b))
def fmaCode (F : FFmt) (a b d : Nat) : Nat := roundV F .rne false (((F.decode a).mul (F.decode b)).add (F.decode d))

/-- The exact sum of a list of terms: −0 only when every term is −0 (R88, R112). -/
def sumV : List FVal → FVal
  | [] => .fin false 0 0
  | [x] => x
  | x :: y :: r => x.add (sumV (y :: r))

/-- Converts a code of one format to another by R90. -/
def convert (F G : FFmt) (mode : RMode) (sat : Bool) (code : Nat) : Nat := roundV G mode sat (F.decode code)

/-- FP32 addition and product of codes as words. -/
def f32Add (a b : Word) : Word := BitVec.ofNat 32 (addCode fp32 a.toNat b.toNat)
def f32Mul (a b : Word) : Word := BitVec.ofNat 32 (mulCode fp32 a.toNat b.toNat)

/-- Applies a 16-bit function to each half (R108). -/
def halves (f : Nat → Nat → Nat) (a b : Word) : Word :=
  BitVec.ofNat 32 (f (bitsOf a 16 16) (bitsOf b 16 16) % 65536 * 65536 + f (bitsOf a 0 16) (bitsOf b 0 16) % 65536)

def halves3 (f : Nat → Nat → Nat → Nat) (a b d : Word) : Word :=
  BitVec.ofNat 32 (f (bitsOf a 16 16) (bitsOf b 16 16) (bitsOf d 16 16) % 65536 * 65536 +
    f (bitsOf a 0 16) (bitsOf b 0 16) (bitsOf d 0 16) % 65536)

/-- The block scale QSCALE gives for a largest magnitude and a bound (R127). -/
def qscaleCode (a b : FVal) : Nat :=
  match a, b with
  | .nan, _ => 0xFF
  | _, .nan => 0xFF
  | .fin _ m e, b =>
    if m = 0 then 0
    else match b with
      | .fin _ n f => if n = 0 then 0xFF else roundQ e3m5 .ru true false m n (e - f)
      | _ => 0
  | .inf _, _ => 0xFF

/-- The E2M1 code QPK4 gives a value under an E3M5 scale code (R125). -/
def qpk4Code (a : FVal) (scale : Nat) : Nat :=
  match e3m5.decode scale with
  | .fin _ n f =>
    if n = 0 then
      match a with
      | .nan => 0
      | .inf neg => if neg then 0xF else 0x7
      | .fin neg m _ => if m = 0 then (if neg then 0x8 else 0) else if neg then 0xF else 0x7
    else divV e2m1 .rne true a (.fin false n f)
  | _ => 0

/-- One element re-expressed under a new scale (R96). -/
def requantCode (x sOld sNew : Nat) : Nat :=
  match e2m1.decode x, e3m5.decode sOld, e3m5.decode sNew with
  | .fin neg m e, .fin _ n f, .fin _ k g =>
    let z := if neg then 8 else 0
    if n = 0 ∨ m = 0 then z
    else if k = 0 then z + 7
    else roundQ e2m1 .rne true neg (m * n) k (e + f - g)
  | _, _, _ => 0

end Sys2Proof.Machine
end

