-- ==== Sys2Proof/Machine/Mem.lean ====
section
/-! DEFINITION. Flat memory instructions, opcodes 0x70 to 0x88 (spec/06 R184-R198). -/

namespace Sys2Proof.Machine

/-- SCOPE holds a defined value (R7). -/
def scopeOk (scope : BitVec 3) : Bool := decide (scope.toNat ≤ 5)

/-- An acquire at FABRIC or SYSTEM scope would read bytes that a window not yet verified has written: it waits (spec/07 R220). -/
def unverified (c : Ctx) (order : BitVec 2) (scope : BitVec 3) (ls : List (Nat × List Place)) : Bool :=
  bitOf order 0 && decide (4 ≤ scope.toNat) && ls.any (fun x => x.2.any (fun p => match p with
    | .phys _ pa _ => c.s.fab.ports.any (fun q => q.2.skidLines.contains (pa / 128))
    | _ => false))

/-- A load of width bytes, its value extended by ext to the words written (R191). -/
def loadForm (s : State) (f : FmtM) (width : Nat) (ext : Nat → Nat) : Host.Outcome State Fault Refusal :=
  issue s .accessOnly (fun c =>
    let act := c.act f.g
    orIllop (decide (f.order.toNat ≤ 1) && scopeOk f.scope) (orIllopnd (dataOk c f.d.toNat width && baseOk c f.a) (
      if act = 0 then .done c
      else match checkLanes c act f.a .data .r (if f.order = 0 then 1 else width) width with
        | .stop r => r
        | .ok ls es =>
          if ls.any (fun x => elemL2Poisoned c.s x.2) then .raw (killTeam c.s c.t.id)
          else if !mayAccess c ls || unverified c f.order f.scope ls then .stall
          else .done ((c.noteTlb es).copyLines f.cache.toNat ls |>.acceptLoad (sectorsOf ls) (ls.flatMap (fun x =>
            regWrites f.d.toNat (max 4 width) x.1 (ext (readElem (laneView c.s c.t.core c.t.id c.wi x.1) c.t x.2)))) |>.ordered f.order act))))

/-- A load that sign-extends from w bits. -/
def signFrom (w : Nat) (v : Nat) : Nat := ((BitVec.ofNat w v).signExtend 32).toNat

def execLdB8n (f : FmtM) (s : State) := loadForm s f 1 (fun v => v)
def execLdB8i (f : FmtM) (s : State) := loadForm s f 1 (signFrom 8)
def execLdB16n (f : FmtM) (s : State) := loadForm s f 2 (fun v => v)
def execLdB16i (f : FmtM) (s : State) := loadForm s f 2 (signFrom 16)
def execLdB32 (f : FmtM) (s : State) := loadForm s f 4 (fun v => v)
def execLdB64 (f : FmtM) (s : State) := loadForm s f 8 (fun v => v)
def execLdB128 (f : FmtM) (s : State) := loadForm s f 16 (fun v => v)

/-- A store of width bytes (R191). -/
def storeForm (s : State) (f : FmtM) (width : Nat) : Host.Outcome State Fault Refusal :=
  issue s .accessOnly (fun c =>
    let act := c.act f.g
    orIllop ((f.order == 0 || f.order == 2) && scopeOk f.scope) (orIllopnd (dataOk c f.d.toNat width && baseOk c f.a) (
      if act = 0 then .done c
      else match checkLanes c act f.a .data .w (if f.order = 0 then 1 else width) width with
        | .stop r => r
        | .ok ls es =>
          let done : Res := .done ((c.noteTlb es).acceptStores (c.ea f.a) f.cache.toNat f.scope.toNat
            (ls.map (fun x => { lane := x.1, bytes := placeBytes x.2 (dataOf c.w f.d.toNat width x.1) })) |>.ordered f.order act)
          if !mayAccess c ls then .stall
          else if f.order = 0 then done else afterRelease c act f.scope.toNat done)))

def execStB8 (f : FmtM) (s : State) := storeForm s f 1
def execStB16 (f : FmtM) (s : State) := storeForm s f 2
def execStB32 (f : FmtM) (s : State) := storeForm s f 4
def execStB64 (f : FmtM) (s : State) := storeForm s f 8
def execStB128 (f : FmtM) (s : State) := storeForm s f 16

/-! ## LDQ and STQ (R192, spec/05 R146, R153) -/

/-- What LDQ makes of one lane: data read with the sectors it takes, a recoverable miss on pages, or an unrecoverable one. -/
inductive LdqLane where
  | hit (v : Nat) (secs : List Nat)
  | miss (pages : List Nat)
  | poison (cause : BitVec 8)
  deriving DecidableEq, Repr

/-- The lowest lane that a cause stops. -/
def firstCause {α : Type} (rs : List (Nat × Sum (BitVec 8) α)) : Option (Nat × BitVec 8) :=
  rs.findSome? (fun x => match x.2 with | .inl cause => some (x.1, cause) | .inr _ => none)

/-- The lanes that no cause stops, with what they carry. -/
def passedLanes {α : Type} (rs : List (Nat × Sum (BitVec 8) α)) : List (Nat × α) :=
  rs.filterMap (fun x => match x.2 with | .inl _ => none | .inr y => some (x.1, y))

/-- The pages that the lanes of an LDQ miss. -/
def missedPages {α : Type} (ok : List (Nat × LdqLane × α)) : List Nat :=
  dedup (ok.flatMap (fun x => match x.2.1 with | .miss ps => ps | _ => []))

/-- A translation outcome of GLOBAL rests on the lane; every other refusal traps. -/
def ldqLane (c : Ctx) (width va L : Nat) : Sum (BitVec 8) (LdqLane × List TlbEntry × List Place) :=
  let soft := decide (apertureOf va = .global) && decide (va + width ≤ globalTop)
  match laneAccess c.s c.t c.w c.agent .data .r L va width with
  | .ok ps es => if elemPoisoned c.s c.t.core ps then .inl causeECCU else .inr (.hit (readElem (laneView c.s c.t.core c.t.id c.wi L) c.t ps) (dedup (ps.map sectorOfPlace)), es, ps)
  | .miss pages => .inr (.miss pages, [], [])
  | .fault cause => if soft then .inr (.poison cause, [], []) else .inl cause

/-- The page request table of the core can take these pages, and no earlier miss waits for an entry (spec/05 R154). -/
def pagesFit (s : State) (core job : Nat) (pages : List Nat) : Bool :=
  let new := (dedup pages).filter (fun p => !(s.core core).pages.contains (job, p))
  new.isEmpty || ((s.core core).waiters.isEmpty && decide ((s.core core).pages.length + new.length ≤ 64))

/-- The lanes of the entry LDQ reserves, poison records entered lane by lane. -/
def ldqLanes (c : Ctx) (q : Nat) (rs : List (Nat × LdqLane)) (ea : Nat → Nat) : State × List QLane :=
  laneList.foldl (fun acc L =>
    let va := BitVec.ofNat 64 (ea L)
    match rs.find? (fun x => x.1 == L) with
    | none => (acc.1, acc.2 ++ [{ QLane.empty with st := .invalid }])
    | some (_, .hit v secs) => (acc.1, acc.2 ++ [{ QLane.empty with st := .inflight, data := BitVec.ofNat 64 v, va := va, secs := secs }])
    | some (_, .miss _) => (acc.1, acc.2 ++ [{ QLane.empty with st := .pending, va := va }])
    | some (_, .poison cause) =>
      let (s, word) := addPoison acc.1 c.t.core c.t.id q L cause va
      (s, acc.2 ++ [{ QLane.empty with st := .poison, data := word, va := va }])) (c.s, [])

/-- The lanes of an LDQ that read, with the places they read. -/
def ldqHits (ok : List (Nat × LdqLane × List TlbEntry × List Place)) : List (Nat × List Place) :=
  ok.filterMap (fun x => match x.2.1 with | .hit _ _ => some (x.1, x.2.2.2) | _ => none)

/-- LDQ of a width code (0: 16, 1: 32, 2: 64 bits). -/
def ldqForm (s : State) (f : FmtLdq) (wcode : BitVec 2) : Host.Outcome State Fault Refusal :=
  issue s .accessOnly (fun c =>
    let act := c.act f.g
    match c.t.queue? f.q.toNat with
    | none => .trapC causeILLOPND
    | some q =>
      orIllopnd (isProducer q c.w && !q.dir && q.width == wcode && baseOk c f.a) (
        if act = 0 then .done c
        else
          let width := 2 * 2 ^ wcode.toNat
          let rs := (lanesOf act).map (fun L => (L, ldqLane c width (c.ea f.a L) L))
          match firstCause rs with
          | some (L, cause) => .trap (trapAddr cause (c.ea f.a L) L)
          | none =>
            if !q.canReserve then .block c 2
            else
              let ok := passedLanes rs
              let pages := missedPages ok
              if ok.any (fun x => elemL2Poisoned c.s x.2.2.2) then .raw (killTeam c.s c.t.id)
              else if !pagesFit c.s c.t.core c.t.ident.job pages then .stall
              else if !mayAccess c (ldqHits ok) then .stall
              else
                let (s, lanes) := ldqLanes c f.q.toNat (ok.map (fun x => (x.1, x.2.1))) (c.ea f.a)
                let inflight := lanes.any (fun l => l.st == .inflight)
                let flag := if inflight then flagOf c.p.setA else none
                let s := requestPages s c.t.core c.t.ident.job pages
                let (op, s) := s.fresh
                let c := ({ c with s := s } : Ctx).noteTlb (ok.flatMap (fun x => x.2.2.1))
                .done { c with
                  t := (c.t.setQueue (q.reserve { lanes := lanes, flag := flag.map (fun n => (c.wi, n)), by_ := c.wi, op := op, keyovr := c.agent.keyovr })).signals (.entry op) c.wi act
                  w := c.w.bind flag }))

def execLdqB16 (f : FmtLdq) (s : State) := ldqForm s f 0
def execLdqB32 (f : FmtLdq) (s : State) := ldqForm s f 1
def execLdqB64 (f : FmtLdq) (s : State) := ldqForm s f 2

/-- STQ of a width code (a release at a misaligned address raises ALIGN as one of ST does: DESIGN CHOICE, notes/assumptions/42.md): the head entry's fate first, then the addresses, then the pop and the stores (R192). -/
def stqForm (s : State) (f : FmtStq) (wcode : BitVec 2) : Host.Outcome State Fault Refusal :=
  issue s .accessOnly (fun c =>
    let act := c.act f.g
    let n := f.q.toNat
    orIllop ((f.order == 0 || f.order == 2) && scopeOk f.scope) (
      match c.t.queue? n with
      | none => .trapC causeILLOPND
      | some q =>
        orIllopnd (isConsumer q c.w && q.dir && q.width == wcode && baseOk c f.a) (
          if act = 0 then .done c
          else match popEntries c.t [n] with
            | none => .block c 2
            | some es =>
              match popFate c.s c.t es act with
              | .wait b => .block c b
              | .trap i => .trap i
              | .pending => .switchOut []
              | .ok =>
                let width := 2 * 2 ^ wcode.toNat
                if readsOwed c.s c.t c.wi act then .stall
                else match checkLanes c act f.a .data .w (if f.order = 0 then 1 else width) width with
                | .stop r => r
                | .ok ls tl =>
                  let e := es.getD 0 QEntry.empty
                  let c' := (c.popHead n act).noteTlb tl
                  let done : Res := .done (c'.acceptStores (c.ea f.a) f.cache.toNat f.scope.toNat
                    (ls.map (fun x => { lane := x.1, bytes := placeBytes x.2 (e.deliver x.1).toNat })) |>.ordered f.order act)
                  if !mayAccess c ls then .stall
                  else if f.order = 0 then done else afterRelease c act f.scope.toNat done)))

def execStqB16 (f : FmtStq) (s : State) := stqForm s f 0
def execStqB32 (f : FmtStq) (s : State) := stqForm s f 1
def execStqB64 (f : FmtStq) (s : State) := stqForm s f 2

/-! ## LDFE and STFE (R193) -/

/-- The team offset of a scratchpad place. -/
def scrOff (ps : List Place) : Nat :=
  match ps with
  | .scr o :: _ => o
  | _ => 0

/-- The granules that the lanes' words lie in. -/
def granulesOf (ls : List (Nat × List Place)) : List Nat := dedup (ls.map (fun x => scrOff x.2 / 16))

def granuleFull (t : Team) (g : Nat) : Bool := t.scr.full.get g == 1
/-- The lanes of a warp observe granules full (spec/07 R215). -/
def Team.observesGranules (t : Team) (gs : List Nat) (wi : Nat) (act : LaneMask) : Team :=
  gs.foldl (fun t g => t.observes (.granule g) wi act) t

def execLdfe (g : BitVec 4) (d : BitVec 6) (a : BitVec 7) (x : BitVec 2) (s : State) : Host.Outcome State Fault Refusal :=
  issue s .accessOnly (fun c =>
    let act := c.act g
    orIllopnd (regOk c d.toNat && baseOk c a) (
      if act = 0 then .done c
      else match checkLanes c act a .fullEmpty .r 4 4 with
        | .stop r => r
        | .ok ls _ =>
          let gs := granulesOf ls
          if c.heldHere gs then .stall
          else if bitOf x 0 && !gs.all (granuleFull c.t) then .block c 3
          else if bitOf x 0 && readsOwed c.s c.t c.wi act then .stall
          else
            let writes := ls.flatMap (fun y => regWrites d.toNat 4 y.1 (readElem c.s c.t y.2))
            let c := c.acceptLoad 0 writes
            let c := if bitOf x 0 then { c with t := c.t.observesGranules gs c.wi act } else c
            .done (if bitOf x 1 then { c with t := c.t.setGranules gs false } else c)))

/-- The bytes of one lane's word of STFE. -/
def stfeWord (c : Ctx) (d : Nat) (x : Nat × List Place) : List (Nat × Byte × Byte) :=
  wholeBytes (scrOff x.2) (leBytes 4 (c.w.v d x.1).toNat)
/-- The words of STFE put in place, lanes ascending. -/
def stfeWrite (c : Ctx) (d : Nat) (ls : List (Nat × List Place)) : Ctx :=
  ls.foldl (fun c x => c.scrStore x.1 (stfeWord c d x)) c

/-- STFE (R193). While a set of one of its granules by another warp is held (R215), an STFE that tests the bit and finds it empty waits at issue, as R143 has it, and not blocked: the held set takes effect first (DESIGN CHOICE, notes/assumptions/48.md). -/
def execStfe (g : BitVec 4) (d : BitVec 6) (a : BitVec 7) (x : BitVec 2) (s : State) : Host.Outcome State Fault Refusal :=
  issue s .accessOnly (fun c =>
    let act := c.act g
    orIllopnd (regOk c d.toNat && baseOk c a) (
      if act = 0 then .done c
      else match checkLanes c act a .fullEmpty .w 4 4 with
        | .stop r => r
        | .ok ls _ =>
          let gs := granulesOf ls
          let full := gs.any (granuleFull c.t)
          let setFull (c : Ctx) : Ctx := (c.changeBits act true gs true (ls.flatMap (stfeWord c d.toNat))).scrFence act gs.contains
          let p6 (c : Ctx) (b : Bool) : Ctx := { c with w := c.w.setP 6 act (fun _ => b) }
          -- a set of another warp that is held comes first: the test waits for it at issue
          if c.heldHere gs || (x != 0 && !full && gs.any c.t.filling) then .stall
          else match x.toNat with
          | 0 => .done (stfeWrite c d.toNat ls)
          | 1 => if full then .block c 3 else .done (setFull c)
          | 2 => if full then .block c 3 else .done (stfeWrite c d.toNat ls)
          | _ => if full then .done (p6 c false)
                 else .done (p6 (setFull c) true)))

/-! ## PREF, DISCARD, WBACK (R194-R196) -/

/-- PREF changes no value that any instruction observes (R194). -/
def execPref (g : BitVec 4) (a : BitVec 7) (_c : BitVec 2) (s : State) : Host.Outcome State Fault Refusal :=
  issue s .accessOnly (fun c => orIllopnd (baseOk c a) (.done (if c.act g = 0 then c else c)))

/-- The physical ranges of a checked range: key slot, address, length. -/
abbrev PRange := Nat × Nat × Nat

/-- The pieces of a GLOBAL range that its pages cut it into, n pages at most. -/
def pagePieces : Nat → Nat → Nat → List (Nat × Nat)
  | 0, _, _ => []
  | n + 1, va, len =>
    if len = 0 then []
    else
      let k := min len (0x10000 - va % 0x10000)
      (va, k) :: pagePieces n (va + k) (len - k)

/-- What one lane's range meets (R188, R189, R195): nothing to do, a cause, missing pages, or its physical ranges. -/
inductive RangeRes where
  | ok (l : List PRange)
  | fault (cause : BitVec 8)
  | miss (pages : List Nat)
  deriving DecidableEq, Repr

/-- The checks of one lane of DISCARD or WBACK. In SCRATCH, CLUSTER and PRIVATE the lane has no effect, inside the window's limits or not (DESIGN CHOICE, notes/assumptions/42.md). -/
def rangeCheck (c : Ctx) (need : Need) (va len : Nat) : RangeRes :=
  if len = 0 then .ok []
  else if va % 32 ≠ 0 ∨ len % 32 ≠ 0 ∨ len > 0x100000 then .fault causeALIGN
  else match apertureOf va with
    | .outside => .fault causePROT
    | .global =>
      if va + len > globalTop then .fault causePROT
      else (pagePieces 18 va len).foldl (fun acc p =>
        match acc, translate c.s c.agent p.1 need with
        | .fault x, _ => .fault x
        | _, .fault x => .fault x
        | .miss ps, .miss => .miss (ps ++ [pageOf p.1])
        | .miss ps, .ok _ => .miss ps
        | .ok _, .miss => .miss [pageOf p.1]
        | .ok l, .ok m => .ok (l ++ [(m.slot, m.pa, p.2)])) (.ok [])
    | _ => .ok []

/-- All lanes of DISCARD or WBACK: stopped, or the physical ranges. -/
def checkRanges (c : Ctx) (act : LaneMask) (a : BitVec 7) (d : Nat) (need : Need) : Sum Res (List PRange) :=
  let rs := (lanesOf act).map (fun L => (L, rangeCheck c need (c.ea a L) (c.w.v d L).toNat))
  match rs.findSome? (fun x => match x.2 with | .fault cause => some (x.1, cause) | _ => none) with
  | some (L, cause) => .inl (.trap (trapAddr cause (c.ea a L) L))
  | none =>
    match dedup (rs.flatMap (fun x => match x.2 with | .miss ps => ps | _ => [])) with
    | p :: ps => .inl (.switchOut (p :: ps))
    | [] => .inr (rs.flatMap (fun x => match x.2 with | .ok l => l | _ => []))

/-- A byte lies in one of the ranges. -/
def inRanges (l : List PRange) (slot pa : Nat) : Bool := l.any (fun r => r.1 == slot && decide (r.2.1 ≤ pa ∧ pa < r.2.1 + r.2.2))

/-- A 32-byte sector's write-back was already queued when DISCARD reached it: a choice the manual leaves open (R195). stage 0 is L1, 1 is L2. -/
def queuedBack (s : State) (stage pa : Nat) : Bool := Config.freeBool s.freeTag (2 * (pa / 32) + stage)

/-- The bytes of a pending store that a DISCARD of ranges drops from L1. -/
def discardBytes (l : List PRange) (st : PStore) : List (Nat × Byte) :=
  if !st.l1 || st.stream.isSome then [] else st.bytes.filter (fun b => inRanges l st.key b.1)

/-- DISCARD at the issuing core's L1: sectors with a queued write-back reach L2, the others are lost; poisoned lines are dropped. -/
def discardL1 (s : State) (core : Nat) (l : List PRange) : State :=
  let stores := (s.core core).stores
  let s := stores.foldl (fun s st =>
    let back := (discardBytes l st).filter (fun b => queuedBack s 0 b.1)
    touchPools (writeBytes s st.key false back) (back.map (·.1))) s
  let s := (stores.filter (fun st => !(discardBytes l st).isEmpty && (discardBytes l st).length == st.bytes.length)).foldl
    (fun s st => s.unbind st.team st.warp st.flag) s
  s.updCore core (fun k => { k with
    stores := k.stores.filterMap (fun st =>
      let b := st.bytes.filter (fun x => !(discardBytes l st).contains x)
      if b.isEmpty ∧ !st.bytes.isEmpty then none else some { st with bytes := b })
    poisonL1 := k.poisonL1.filter (fun n => !l.any (fun r => decide (r.2.1 < 128 * n.1 + 128 ∧ 128 * n.1 < r.2.1 + r.2.2))) })

/-- DISCARD at L2: each dirty sector is written back when that was queued, else lost; read-only copies are dropped. A poisoned line keeps its mark (DESIGN CHOICE, notes/assumptions/48.md). -/
def discardL2 (s : State) (l : List PRange) : State :=
  let mine := s.die.l2.filter (fun x => inRanges l (x.1 / 2 ^ 40) (x.1 % 2 ^ 40))
  let s := mine.foldl (fun s x => if queuedBack s 1 (x.1 % 2 ^ 40) then writeBackByte s (x.1 / 2 ^ 40) (x.1 % 2 ^ 40) else s) s
  s.updDie (fun d => { d with
    l2 := d.l2.filter (fun x => !inRanges l (x.1 / 2 ^ 40) (x.1 % 2 ^ 40))
    copies := d.copies.filter (fun x => !l.any (fun r => decide (r.2.1 < 128 * x.1 + 128 ∧ 128 * x.1 < r.2.1 + r.2.2))) })

def execDiscard (g : BitVec 4) (d : BitVec 6) (a : BitVec 7) (scope : BitVec 3) (s : State) : Host.Outcome State Fault Refusal :=
  issue s .accessOnly (fun c =>
    let act := c.act g
    orIllop (scope == 1 || scope == 3) (orIllopnd (regOk c d.toNat && baseOk c a) (
      if act = 0 then .done c
      else match checkRanges c act a d.toNat .w with
        | .inl r => r
        | .inr l =>
          -- the warps' flags may be released: put the context's warp in place first
          let s := discardL1 c.advance.commit c.t.core l
          .gone (if scope = 3 then discardL2 s l else s))))

/-- The core's pending stores to lines the ranges touch, those of streams apart. -/
def rangeStores (s : State) (core : Nat) (l : List PRange) : List PStore :=
  (s.core core).stores.filter (fun st => st.bytes.any (fun b =>
    l.any (fun r => r.1 == st.key && decide (r.2.1 / 128 ≤ b.1 / 128 ∧ b.1 / 128 ≤ (r.2.1 + r.2.2 - 1) / 128))))

def execWback (g : BitVec 4) (d : BitVec 6) (a : BitVec 7) (scope : BitVec 3) (cache : BitVec 2) (s : State) :
    Host.Outcome State Fault Refusal :=
  issue s .accessOnly (fun c =>
    let act := c.act g
    orIllop (decide (1 ≤ scope.toNat ∧ scope.toNat ≤ 5) && (cache == 0 || cache == 3)) (
      orIllopnd (regOk c d.toNat && baseOk c a) (
        if act = 0 then .done c
        else match checkRanges c act a d.toNat .r with
          | .inl r => r
          | .inr l =>
            if scope = 1 then .done c
            else
              let mine := rangeStores c.s c.t.core l
              if mine.any (fun st => st.stream.isSome) then .stall
              else
                let s := mine.foldl (fun s st => performStore s c.t.core st) c.advance.commit
                .gone (if scope.toNat ≤ 3 then s
                  else (s.die.l2.filter (fun x => inRanges l (x.1 / 2 ^ 40) (x.1 % 2 ^ 40))).foldl
                    (fun s x => writeBackByte s (x.1 / 2 ^ 40) (x.1 % 2 ^ 40)) s))))

/-! ## FENCE and STREAM (R197, R198) -/

/-- FENCE (R197, R212): a release part waits for the accesses of its lanes, an acquire part for their reads; `.sc` and `.acqrel` have both parts. -/
def execFence (g : BitVec 4) (o : BitVec 2) (scope : BitVec 3) (s : State) : Host.Outcome State Fault Refusal :=
  issue s .accessOnly (fun c =>
    let act := c.act g
    orIllop (scopeOk scope) (
      if o = 1 then afterAllReads c act (.done (c.acquires act))
      else afterRelease c act scope.toNat (.done (if o = 2 then c.releases act else (c.releases act).acquires act))))

def execStream (g : BitVec 4) (i : BitVec 4) (s : State) : Host.Outcome State Fault Refusal :=
  issue s .accessOnly (fun c => .done (if c.act g = 0 then c else { c with w := { c.w with streamId := i } }))

end Sys2Proof.Machine
end

