-- ==== Sys2Proof/Machine/Records.lean ====
section
/-! DEFINITION. Kernel descriptors and the validation of task records (spec/10 R268-R269, R273-R274, spec/01 R49-R54). -/

namespace Sys2Proof.Machine

/-- Bytes of a descriptor (R268). -/
abbrev KDesc := BitVec 2560

/-- Queue word n and ring word n of a descriptor (R268). -/
def kdQueue (d : KDesc) (n : Nat) : DWord := BitVec.ofNat 64 (bitsOf d (512 + 64 * n) 64)
def kdRing (d : KDesc) (n : Nat) : DWord := BitVec.ofNat 64 (bitsOf d (1536 + 64 * n) 64)
def kdQmask (d : KDesc) (n : Nat) : Bool := bitOf d (288 + n)
def kdRmask (d : KDesc) (n : Nat) : Bool := bitOf d (304 + n)
def kdTeamA (d : KDesc) : Nat := bitsOf d 212 4
def kdTeamE (d : KDesc) : Nat := bitsOf d 216 5
def kdScratch (d : KDesc) : Nat := bitsOf d 256 10
def kdExch (d : KDesc) : Nat := bitsOf d 266 9
def kdAcc (d : KDesc) : Nat := bitsOf d 227 5

/-- The kernel a descriptor names; SCRATCH and EXCH become bytes. -/
def kernelOf (addr : Nat) (d : KDesc) : Kernel :=
  { kdesc := addr, livetab := bitsOf d 128 57, nlive := bitsOf d 192 20, entryA := BitVec.ofNat 64 (bitsOf d 0 57)
    entryE := BitVec.ofNat 64 (bitsOf d 64 57), teamA := kdTeamA d, teamE := kdTeamE d
    regsA := (bitsOf d 221 3 + 1) * 8, regsE := (bitsOf d 224 3 + 1) * 8, acc := kdAcc d
    scratch := kdScratch d * 1024, exch := kdExch d * 1024, spill := bitsOf d 275 13
    queues := ((List.range 16).filter (kdQmask d)).map (fun n => (n, kdQueue d n))
    rings := ((List.range 16).filter (kdRmask d)).map (fun n => (n, kdRing d n)) }

/-- A queue word within the limits of R51: reserved bits, width, capacity of 2 at least, warp indices below their role's count. -/
def queueWordOk (teamA teamE : Nat) (w : DWord) : Bool :=
  bitsOf w 21 43 == 0 && decide (bitsOf w 1 2 ≤ 2) && decide (1 ≤ bitsOf w 3 8) &&
    decide (bitsOf w 11 5 < if bitOf w 0 then teamE else teamA) && decide (bitsOf w 16 5 < if bitOf w 0 then teamA else teamE)

/-- The bytes of scratchpad a ring word takes. -/
def ringSpan (w : DWord) : Nat × Nat := (bitsOf w 0 14 * 16, bitsOf w 14 13 * 16 * (bitsOf w 27 12 + 1))

/-- A ring word within the limits of R52. -/
def ringWordOk (size : Nat) (w : DWord) : Bool :=
  bitsOf w 39 25 == 0 && decide (1 ≤ bitsOf w 14 13 ∧ bitsOf w 14 13 ≤ 4096) && decide ((ringSpan w).1 + (ringSpan w).2 ≤ size)

/-- Two ranges (first, length) do not overlap. -/
def apart (a b : Nat × Nat) : Bool := decide (a.1 + a.2 ≤ b.1) || decide (b.1 + b.2 ≤ a.1)

/-- Ranges are pairwise apart. -/
def allApart : List (Nat × Nat) → Bool
  | [] => true
  | r :: rest => rest.all (apart r) && allApart rest

/-- A descriptor is consistent (R274, code 0x81): reserved bits, the limits of R49 to R52, the slices its counts call for. NLIVE and LIVETAB are zero together (DEDUCED, notes/assumptions/49.md: R274 says it of NLIVE 0 only). -/
def descriptorOk (d : KDesc) : Bool :=
  let a := kdTeamA d
  let e := kdTeamE d
  let k := kernelOf 0 d
  bitsOf d 57 7 == 0 && bitsOf d 121 7 == 0 && bitsOf d 185 7 == 0 && bitsOf d 232 24 == 0 && bitsOf d 320 192 == 0 &&
    decide (a ≤ 8 ∧ e ≤ 24 ∧ 1 ≤ a + e) && decide (k.spill ≤ 4096) && decide (kdScratch d + 2 * kdExch d ≤ 1023) &&
    ((decide (a = 0)) == (k.entryA == 0)) && ((decide (e = 0)) == (k.entryE == 0)) &&
    ((decide (k.nlive = 0)) == (decide (k.livetab = 0))) && (decide (k.acc = 0) || decide (0 < e)) &&
    (List.range 16).all (fun n => if kdQmask d n then queueWordOk a e (kdQueue d n) else kdQueue d n == 0) &&
    (List.range 16).all (fun n => if kdRmask d n then ringWordOk k.scratch (kdRing d n) else kdRing d n == 0) &&
    allApart (k.rings.map (fun r => ringSpan r.2))

/-- Bytes of queue memory of a kernel (R270). -/
def queueBytes (w : DWord) : Nat := (bitsOf w 3 8 + 1) * 32 * (16 * 2 ^ bitsOf w 1 2) / 8
def kernelQueueBytes (k : Kernel) : Nat := (k.queues.map (fun q => queueBytes q.2)).foldl (· + ·) 0

/-- The footprint of `per` teams fits one core (R141, R270, R274 code 0x82). -/
def fitsCore (k : Kernel) (per : Nat) : Bool :=
  decide (per * (k.teamA * k.regsA) ≤ 1024) && decide (per * (k.teamE * k.regsE) ≤ 4096) &&
    decide (per * k.teamA ≤ 32) && decide (per * k.teamE ≤ 96) && decide (per * (k.scratch + 2 * k.exch) ≤ 0x40000) &&
    decide (per * kernelQueueBytes k ≤ 262144)

/-- A gang puts at most this many of its teams on a core (R243). -/
def gangPerCore (g : Nat) : Nat := if g = 0 then 1 else (g + 3) / 4

/-- The kernel with the record's SCRATCH in place of the descriptor's (R270). -/
def withScratch (k : Kernel) (r : BitVec 1024) : Kernel :=
  if recScratch r = 0 then k else { k with scratch := recScratch r * 1024 }

/-- What an item of a record comes to: good, a refusal code, or a page to wait for. -/
inductive Item where
  | good
  | bad (code : Nat)
  | wait (page : Nat)
  deriving DecidableEq, Repr

/-- The first item that is not good. -/
def firstItem : List Item → Item
  | [] => .good
  | .good :: r => firstItem r
  | x :: _ => x

def itemIf (ok : Bool) (code : Nat) : Item := if ok then .good else .bad code

/-- Bytes of a job's GLOBAL memory as the dispatcher reaches them; a page refused meanwhile counts as unreadable. -/
def recordRange (s : State) (t : Task) (va n : Nat) (need : Need) : LaneRes :=
  if va + n > globalTop then .fault causePROT
  else match globalPlaces s (bareAgent t.job) va n need with
    | .miss ps => if ps.any t.refused.contains then .fault causeNOMAP else .miss ps
    | r => r

/-- An item that needs some bytes to be readable. -/
def rangeItem (s : State) (t : Task) (code va n : Nat) (need : Need) (ok : List Place → Bool) : Item :=
  match recordRange s t va n need with
  | .fault _ => .bad code
  | .miss ps => .wait (ps.getD 0 0)
  | .ok ps _ => itemIf (ok ps) code

/-- The bytes of places at their home slices. -/
def homeBytes (s : State) (ps : List Place) : List Byte :=
  ps.map (fun p => match p with | .phys slot pa _ => readPhys s slot pa | _ => 0)

/-- The descriptor of a record, once it can be read. -/
def readDescriptor (s : State) (t : Task) : Option KDesc :=
  match recordRange s t (recKdesc t.record) 320 .r with
  | .ok ps _ => some (BitVec.ofNat 2560 (leNat (homeBytes s ps)))
  | _ => none

/-- The sluice addresses a record names: IN0-3, OUT0-3, CSL. -/
def namedSluices (r : BitVec 1024) : List Nat :=
  ((List.range 4).map (recIn r) ++ (List.range 4).map (recOut r) ++ [recCsl r]).filter (· != 0)

/-- No value stands twice in a list. -/
def distinct : List Nat → Bool
  | [] => true
  | x :: r => !r.contains x && distinct r

/-- Teams of a grid word (R273). -/
def gridTeams (g : Nat) : Nat := (g % 2 ^ 32) * (g / 2 ^ 32 % 2 ^ 16) * (g / 2 ^ 48 % 2 ^ 16)

/-- A sluice lies on a page that is not uncached (R274 code 0x85). -/
def notUncached (ps : List Place) : Bool := ps.all (fun p => match p with | .phys _ _ cattr => cattr != 2 | _ => false)

/-- The items of a record in the order of their codes (R274). A descriptor that fails ends them. -/
def recordItems (s : State) (t : Task) : List Item :=
  let r := t.record
  let d := (readDescriptor s t).getD 0
  let k := withScratch (kernelOf 0 d) r
  let g := recGang r
  [ itemIf (recKdesc r % 64 == 0) 0x81,
    rangeItem s t 0x81 (recKdesc r) 320 .r (fun _ => true),
    itemIf (descriptorOk d) 0x81,
    itemIf ((recScratch r == 0 || decide (kdScratch d ≤ recScratch r)) && decide (k.acc ≤ 16) && decide (g * k.acc ≤ 32) &&
      fitsCore k 1 && fitsCore k (gangPerCore g)) 0x82,
    itemIf (recDds r || decide (recGrid r % 2 ^ 32 < 2 ^ 31)) 0x83,
    itemIf (decide (g ≤ 12) && (recDds r || g == 0 || gridTeams (recGrid r) % g == 0)) 0x84,
    itemIf (distinct (namedSluices r)) 0x85 ] ++
  (namedSluices r).map (fun va =>
    if va % 8 ≠ 0 then .bad 0x85 else rangeItem s t 0x85 va 8 .rw notUncached) ++
  [ itemIf (bitsOf r 151 25 == 0 && (!recDds r || recGrid r / 2 ^ 57 == 0)) 0x86,
    itemIf (recArgs r % 64 == 0) 0x86,
    (if recArgs r = 0 then .good else rangeItem s t 0x86 (recArgs r) 64 .r (fun _ => true)),
    itemIf (!recDds r || recGrid r % 8 == 0) 0x87 ]

/-- Records the dispatcher holds (R283). -/
def recordsHeld (s : State) : Nat :=
  (s.die.tasks.filter (fun t => t.st == .held || t.st == .waiting || t.st == .dispatched || t.st == .stopped)).length

/-- A task waits for a page. -/
def taskWaits (s : State) (t : Task) (page : Nat) : State :=
  dispatcherPage (s.updTask t.id (fun x => { x with wait := if x.wait.contains page then x.wait else x.wait ++ [page] })) t.job page

/-- The job has a valid slot and is not stopped, and the module is not in Retain or Off: the dispatcher works on its records (R274, R291, spec/12 R343). -/
def jobRuns (s : State) (job : Nat) : Bool :=
  (s.pkg.power == .run || s.pkg.power == .idle) && (jobSlot s job).isSome && !s.die.stoppedJobs.contains job

/-! ## Eligibility (R277) -/

/-- The value of a sluice at its home slice; none while it cannot be read. -/
def sluiceValue (s : State) (job va : Nat) : Option DWord :=
  if va = 0 then some 0
  else match translate s (bareAgent job) va .r with
    | .ok m => some (BitVec.ofNat 64 (readPhysNat s m.slot m.pa 8))
    | _ => none

/-- The IN values on which a record is eligible now: every IN full, every OUT empty. -/
def judge (s : State) (t : Task) : Option (List DWord) :=
  let ins := (List.range 4).map (fun i => (recIn t.record i, sluiceValue s t.job (recIn t.record i)))
  let outs := (List.range 4).map (fun i => (recOut t.record i, sluiceValue s t.job (recOut t.record i)))
  if ins.all (fun x => match x.2 with | some v => x.1 == 0 || sluiceFull v | none => false) &&
      outs.all (fun x => match x.2 with | some v => !sluiceFull v | none => false) then
    some (ins.map (fun x => x.2.getD 0))
  else none

/-- A record entered with the dispatcher: validation follows. -/
def Task.new (id : Nat) (host : Bool) (addr : Nat) (r : BitVec 1024) (job depth prio : Nat) : Task :=
  { id := id, host := host, addr := addr, record := r, job := job, depth := depth, prio := prio, st := .held, dispatched := false
    kern := none, wait := [], refused := [], judged := none, gx := 0, gy := 0, gz := 0, nextTeam := 0, doneTeams := 0
    relaunch := [], victims := [] }

/-- Enters a record; one of a stopped job is stopped with it (R291). -/
def publish (s : State) (host : Bool) (addr : Nat) (r : BitVec 1024) (job depth prio : Nat) : State :=
  let (id, s) := s.fresh
  let t := Task.new id host addr r job depth prio
  let s := s.updDie (fun d => { d with tasks := d.tasks ++ [t] })
  if s.die.stoppedJobs.contains job then writeStatus s t .stopped 0 0 else s

end Sys2Proof.Machine
end

