-- ==== Sys2Proof/Machine/Reduce.lean ====
section
/-! DEFINITION. Collective descriptors, their digest, and the fixed reduction tree (spec/13 R381-R383). -/

namespace Sys2Proof.Machine

/-- A collective descriptor (R381). -/
abbrev CDesc := BitVec 512

def cdSrc (d : CDesc) : Nat := bitsOf d 0 64
def cdDst (d : CDesc) : Nat := bitsOf d 64 64
def cdCount (d : CDesc) : Nat := bitsOf d 128 32
def cdRoot (d : CDesc) : Nat := bitsOf d 160 16
def cdGroup (d : CDesc) : Nat := bitsOf d 176 6
def cdOp (d : CDesc) : Nat := bitsOf d 182 3
def cdRed (d : CDesc) : Nat := bitsOf d 185 2
def cdType (d : CDesc) : Nat := bitsOf d 187 2
def cdReweight (d : CDesc) : Bool := bitOf d 189

/-- Bytes of an element. -/
def cdWidth (d : CDesc) : Nat := if cdType d = 0 ∨ cdType d = 3 then 4 else 2

/-- Elements the device at a rank supplies, with n members (R382). A broadcast reads ROOT's input only. -/
def srcElems (d : CDesc) (n rank : Nat) : Nat :=
  match cdOp d with
  | 1 => n * cdCount d
  | 3 => if rank = cdRoot d then cdCount d else 0
  | 4 => 0
  | _ => cdCount d

/-- Elements written to DST with n members (R382). -/
def dstElems (d : CDesc) (n : Nat) : Nat :=
  match cdOp d with
  | 2 => n * cdCount d
  | 4 => 0
  | _ => cdCount d

/-- One bit of the reflected CRC-32C. -/
def crcBit (c : BitVec 32) : BitVec 32 := if bitOf c 0 then (c >>> 1) ^^^ 0x82F63B78 else c >>> 1

/-- The CRC-32C of some bytes (R381): polynomial 0x1EDC6F41 reflected, initial value all ones, final complement. -/
def crc32c (bs : List Byte) : BitVec 32 :=
  ~~~bs.foldl (fun c b => (List.range 8).foldl (fun c _ => crcBit c) (c ^^^ b.setWidth 32)) 0xFFFFFFFF

/-- The digest of a descriptor: bytes 16 to 23 (R381). -/
def cdDigest (d : CDesc) : BitVec 32 := crc32c (leBytes 8 (bitsOf d 128 64))

/-- The checks of R381 that need no view. -/
def cdOk (d : CDesc) (globalTop : Nat) : Bool :=
  bitsOf d 190 322 == 0 && decide (cdOp d ≤ 4) && cdSrc d % 16 == 0 && cdDst d % 16 == 0 && decide (cdSrc d < globalTop) &&
    decide (cdDst d < globalTop) && (if cdOp d = 4 then cdCount d == 0 else decide (1 ≤ cdCount d ∧ cdCount d ≤ 2 ^ 28)) &&
    !(cdReweight d && (cdOp d == 1 || cdOp d == 2 || cdOp d == 3)) && !(cdRed d == 3 && cdType d == 3)

/-- An input as the tree takes it: f16 and bf16 widened (R383). -/
def widenElem (t : Nat) (x : Word) : Word :=
  match t with
  | 1 => BitVec.ofNat 32 (convert bf16 fp32 .rne false x.toNat)
  | 2 => BitVec.ofNat 32 (convert fp16 fp32 .rne false x.toNat)
  | _ => x

/-- The result in the descriptor's type (R383). -/
def narrowElem (t : Nat) (x : Word) : Word :=
  match t with
  | 1 => BitVec.ofNat 32 (convert fp32 bf16 .rne false x.toNat)
  | 2 => BitVec.ofNat 32 (convert fp32 fp16 .rne false x.toNat)
  | _ => x

/-- comb of R383. -/
def combElem (t red : Nat) (a b : Word) : Word :=
  if t = 3 then
    (match red with
     | 1 => if a.toInt ≤ b.toInt then a else b
     | 2 => if a.toInt ≤ b.toInt then b else a
     | _ => a + b)
  else
    (match red with
     | 1 => BitVec.ofNat 32 (minCode fp32 a.toNat b.toNat)
     | 2 => BitVec.ofNat 32 (maxCodeOf fp32 a.toNat b.toNat)
     | _ => f32Add a b)

/-- One level of the tree: neighbours combined, an unpaired node passes up. -/
def collLevel (f : Word → Word → Word) : List Word → List Word
  | a :: b :: r => f a b :: collLevel f r
  | l => l

/-- The tree, n levels at most. -/
def collTree (f : Word → Word → Word) : Nat → List Word → Word
  | 0, l => l.headD 0
  | n + 1, l => match l with
    | [x] => x
    | l => collTree f n (collLevel f l)

/-- The reduction of one element over the members' inputs in ascending rank (R383). -/
def reduceElem (d : CDesc) (xs : List Word) : Word :=
  let t := cdType d
  let r := collTree (combElem t (cdRed d)) 13 (xs.map (widenElem t))
  let r := if cdRed d = 3 then BitVec.ofNat 32 (divV fp32 .rne false (fp32.decode r.toNat) (ofInt xs.length)) else r
  narrowElem t r

/-- Elements a to a + n - 1 reduced over all inputs. -/
def reduceRange (d : CDesc) (ins : List (List Word)) (a n : Nat) : List Word :=
  (List.range n).map (fun e => reduceElem d (ins.map (fun l => l.getD (a + e) 0)))

/-- The result of a collective from every member's input in ascending rank (R382): of a reduce-scatter, all positions' parts. -/
def collResult (d : CDesc) (ranks : List Nat) (ins : List (List Word)) : List Word :=
  let n := cdCount d
  match cdOp d with
  | 0 => reduceRange d ins 0 n
  | 1 => reduceRange d ins 0 (ranks.length * n)
  | 2 => ins.flatMap (fun l => l.take n)
  | 3 => ins.getD ((ranks.findIdx? (· == cdRoot d)).getD 0) []
  | _ => []

/-- What the member of a rank writes to DST: its own part of a reduce-scatter, else the whole result (R382). -/
def resultPart (d : CDesc) (ranks : List Nat) (own : Nat) (l : List Word) : List Word :=
  if cdOp d = 1 then (l.drop (((ranks.findIdx? (· == own)).getD 0) * cdCount d)).take (cdCount d) else l

/-- The bytes of elements of a width. -/
def elemBytes (w : Nat) (l : List Word) : List Byte := l.flatMap (fun x => leBytes w x.toNat)

/-- The elements of a width in bytes, n at most. -/
def bytesElems (w : Nat) : Nat → List Byte → List Word
  | 0, _ => []
  | n + 1, bs => BitVec.ofNat 32 (leNat (bs.take w)) :: bytesElems w n (bs.drop w)

end Sys2Proof.Machine
end

