-- ==== Sys2Proof/Machine/Confluence.lean ====
section
/-! DEFINITION. The collective engine: groups, collectives in flight, their inputs and results (spec/13 R374-R375, R379, R382-R386, R411). -/

namespace Sys2Proof.Machine

/-! ## Groups -/

def State.updGroup (s : State) (g : Nat) (f : Group → Group) : State :=
  s.updFab (fun b => { b with groups := b.groups.map (fun x => if x.num = g then f x else x) })

/-- The group is installed and the device is not excluded from it. -/
def Group.active (g : Group) : Bool := g.st == .stable || g.st == .agreeing || g.st == .joining

/-- Members of a group other than the device. -/
def otherMembers (s : State) (b : BitVec 4096) : List Nat := (membersOf b).filter (· != ownRank s)

/-! ## Collectives -/

def State.coll? (s : State) (id : Nat) : Option Coll := s.fab.colls.find? (fun c => c.id == id)
def State.updColl (s : State) (id : Nat) (f : Coll → Coll) : State :=
  s.updFab (fun b => { b with colls := b.colls.map (fun c => if c.id = id then f c else c) })

/-- A slot of a team set; a team that has ended has none (R384). -/
def setSlot (s : State) (team slot : Nat) (v : CollSlot) : State :=
  s.updTeam team (fun t => { t with colls := updAt t.colls slot (fun _ => v) })

/-- A collective leaves the engine: its slot takes the outcome and its flag is released (R384). -/
def endColl (s : State) (c : Coll) (v : CollSlot) : State :=
  let s := s.updFab (fun b => { b with colls := b.colls.filter (fun x => x.id != c.id) })
  let s := match s.team? c.team with
    | some t => if t.status = .finished ∨ t.status = .killed then s else setSlot s c.team c.slot v
    | none => s
  match c.flag with
  | some (wi, f) => opEnded (s.unbind c.team wi (some f)) c.team
  | none => s

/-- The mapped bytes of a job's range take undefined values (R379, R411). -/
def scrambleVa (s : State) (job va n : Nat) : State :=
  let s := (pagePieces (n / 0x10000 + 2) va n).foldl (fun s p =>
    match translate s (bareAgent job) p.1 .w with
    | .ok m =>
      let bs := (List.range p.2).map (fun i => (m.pa + i, (Config.freeBits s.freeTag (p.1 + i)).setWidth 8))
      touchPools (writeBytes s m.slot (m.cattr == 2) bs) (bs.map (·.1))
    | _ => s) s
  { s with freeTag := s.freeTag + 1 }

/-- Bytes of DST of a collective. -/
def dstBytes (c : Coll) : Nat := dstElems c.desc (countOf c.members) * cdWidth c.desc

/-- An abort: the slot reports it and DST is undefined, whether the collective had begun or waited (R379, R386). -/
def abortColl (s : State) (c : Coll) : State :=
  endColl (scrambleVa s c.job (cdDst c.desc) (dstBytes c)) c (.aborted (cdGroup c.desc))

/-- What a range of a job meets: its bytes' places, a missing page, or a cause. -/
inductive RangeOut where
  | ok (ps : List Place)
  | miss (page : Nat)
  | fault (cause : BitVec 8)

/-- A range of a job's GLOBAL memory as Confluence reaches it (R411). -/
def confRange (s : State) (job va n : Nat) (need : Need) : RangeOut :=
  if va + n > globalTop then .fault causePROT
  else (pagePieces (n / 0x10000 + 2) va n).foldl (fun acc p =>
    match acc, translate s (bareAgent job) p.1 need with
    | .ok ps, .ok m => .ok (ps ++ (List.range p.2).map (fun i => .phys m.slot (m.pa + i) m.cattr))
    | .ok _, .miss => .miss (pageOf p.1)
    | .ok _, .fault cause => .fault cause
    | o, _ => o) (.ok [])

/-- FAULT of the result word: 1 PROT, 2 NOMAP (R385). -/
def faultCode (cause : BitVec 8) : BitVec 8 := if cause = causePROT then 1 else 2

/-- Elements a packet brings. -/
def bodyElems : CollBody → Nat
  | .input l => l.length
  | .result l => l.length
  | .fault => 0

/-- A collective packet of the device. -/
def collPacket (s : State) (c : Coll) (body : CollBody) : CollPacket :=
  { group := cdGroup c.desc, vtag := c.view.setWidth 16, src := ownRank s, seq := c.seq, digest := c.digest, body := body
    flits := (32 + roundUp (cdWidth c.desc * bodyElems body) 16 + 127) / 128 }

/-- Sends a collective packet of a job to some members. -/
def sendColl (s : State) (job : Nat) (dests : List Nat) (p : CollPacket) : State :=
  dests.foldl (fun s r => send s (128 * p.flits) (collectiveMsg s r job p)) s

/-- Sends a packet to the other members under which the collective runs. -/
def sendMembers (s : State) (c : Coll) (body : CollBody) : State :=
  sendColl s c.job (otherMembers s c.members) (collPacket s c body)

/-- Confluence's page requests go out like the dispatcher's. -/
def collWaits (s : State) (c : Coll) (page : Nat) : State :=
  dispatcherPage (s.updColl c.id (fun c => { c with wait := if c.wait.contains page then c.wait else c.wait ++ [page] })) c.job page

/-- The member's read of SRC has failed: a fault notice goes in its place (R411). -/
def collFault (s : State) (c : Coll) (code : BitVec 8) : State :=
  sendMembers (s.updColl c.id (fun c => { c with faults := c.faults ++ [ownRank s], ownFault := code })) c .fault

/-- The device's own input is read and sent, unless its page is missing (R379, R382, R411). -/
def contribute (s : State) (id : Nat) : State :=
  match s.coll? id with
  | none => s
  | some c =>
    let me := ownRank s
    if !c.started ∨ c.holder.isSome ∨ c.inputs.any (fun x => x.1 == me) ∨ c.faults.contains me then s
    else
      let w := cdWidth c.desc
      let n := srcElems c.desc (countOf c.members) me
      match confRange s c.job (cdSrc c.desc) (n * w) .r with
      | .miss page => collWaits s c page
      | .fault cause => collFault s c (faultCode cause)
      | .ok ps =>
        let s := if elemL2Poisoned s ps then killTeam s c.team else s
        if elemL2Poisoned s ps then collFault s c 2
        else
          let elems := bytesElems w n (homeBytes s ps)
          sendMembers (s.updColl id (fun c => { c with inputs := c.inputs ++ [(me, elems)] })) c (.input elems)

/-- The view whose packets a collective takes: its own, or, waiting for a holder's result, the group's present one (R379). -/
def tagOf (s : State) (c : Coll) : BitVec 16 :=
  if c.holder.isSome then (match s.group? (cdGroup c.desc) with | some g => g.view.setWidth 16 | none => 0) else c.view.setWidth 16

/-- A collective here takes a packet now. -/
def wants (s : State) (p : CollPacket) (c : Coll) : Bool :=
  cdGroup c.desc == p.group && c.seq == p.seq && c.started && tagOf s c == p.vtag

/-- A packet for a collective that runs here under the view it names. -/
def absorb (s : State) (p : CollPacket) : State :=
  match s.fab.colls.find? (wants s p) with
  | none => s
  | some c => s.updColl c.id (fun c =>
      let c := if c.digests.any (fun x => x.1 == p.src) then c else { c with digests := c.digests ++ [(p.src, p.digest)] }
      match p.body with
      | .input l => if c.inputs.any (fun x => x.1 == p.src) then c else { c with inputs := c.inputs ++ [(p.src, l)] }
      | .fault => if c.faults.contains p.src then c else { c with faults := c.faults ++ [p.src] }
      | .result l => if c.holder.isSome ∧ c.result.isNone then { c with result := some l } else c)

/-- A collective packet of group g is offered to the engine (R375): a stale one is dropped, a current one used or kept until its collective begins, an early one held, up to 256 flits a group; one that finds no room waits in the receive buffer (R356). -/
def offerColl (s : State) (g : Nat) (p : CollPacket) : State :=
  match s.group? g with
  | none => s
  | some x =>
    match tagClass x.view p.vtag with
    | .stale => s
    | .current => if s.fab.colls.any (wants s p) then absorb s p else s.updGroup g (fun x => { x with held := x.held ++ [p] })
    | .ahead =>
      if aheadFlits x + p.flits ≤ 256 then s.updGroup g (fun x => { x with held := x.held ++ [p] })
      else s.updFab (fun b => { b with rx := b.rx ++ [.collective p] })

/-- The packets of a group in the receive buffer. -/
def rxOf (g : Nat) : WindowItem → Option CollPacket
  | .collective p => if p.group = g then some p else none
  | _ => none

/-- Packets of a group that wait, held or in the receive buffer, are offered again in their order. -/
def rehold (s : State) (g : Nat) : State :=
  match s.group? g with
  | none => s
  | some x =>
    let waiting := x.held ++ s.fab.rx.filterMap (rxOf g)
    let s := (s.updGroup g (fun x => { x with held := [] })).updFab (fun b => { b with rx := b.rx.filter (fun i => (rxOf g i).isNone) })
    waiting.foldl (fun s p => offerColl s g p) s

/-- A collective packet arrives. A device outside the view, as a joiner before its COMMIT, keeps what is ahead of the view it last held (0 when it has held none) until its own commit (R375). -/
def takeCollective (p : CollPacket) (s : State) : State :=
  match s.group? p.group with
  | none => s
  | some g => if g.active || tagClass g.view p.vtag == .ahead then offerColl s p.group p else s

/-- A collective starts under its group's view, with a STATUS it will report (0, or 1 when re-weighted). -/
def startColl (s : State) (id status : Nat) : State :=
  match s.coll? id with
  | none => s
  | some c =>
    match s.group? (cdGroup c.desc) with
    | none => s
    | some g =>
      let s := s.updColl id (fun c => { c with
        started := true, inputs := [], digests := [(ownRank s, c.digest)], faults := [], ownFault := 0, since := s.clock
        result := none, status := status, view := g.view, members := g.bitmap, holder := none, wait := [] })
      rehold (contribute s id) g.num

/-- Every member has been heard: with its input, or with a fault notice. -/
def allHeard (c : Coll) : Bool :=
  (membersOf c.members).all (fun r => c.inputs.any (fun x => x.1 == r) || c.faults.contains r)

/-- The digests of a collective differ (R381). -/
def digestsDiffer (c : Coll) : Bool := c.digests.any (fun x => x.2 != c.digest)

/-- The result from the members' inputs, every position's part of it. -/
def formResult (c : Coll) : List Word :=
  let ranks := membersOf c.members
  collResult c.desc ranks (ranks.map (fun r => ((c.inputs.find? (fun x => x.1 == r)).map (·.2)).getD []))

/-- What the device writes to DST of a result. -/
def ownPart (s : State) (c : Coll) (l : List Word) : List Word := resultPart c.desc (membersOf c.members) (ownRank s) l

/-- What a collective comes to now: nothing yet, a status without DST (3 or 4), or the elements for DST. -/
inductive CollOut where
  | notYet
  | status (n : Nat)
  | write (l : List Word)

def collOut (c : Coll) : CollOut :=
  if !c.started then .notYet
  else match c.result with
    | some l => .write l
    | none =>
      if c.holder.isSome ∨ !allHeard c then .notYet
      else if digestsDiffer c then .status 3
      else if !c.faults.isEmpty then .status 4
      else .write (formResult c)

/-- Members whose inputs the result contains (R385): all of them; of a broadcast, ROOT. -/
def contribOf (c : Coll) (status : Nat) : Nat :=
  if cdOp c.desc = 3 ∧ status ≠ 3 ∧ status ≠ 4 then 1 else countOf c.members

/-- The result word of CWAIT (R385). -/
def collWord (c : Coll) (status : Nat) : DWord :=
  BitVec.ofNat 64 (status * 2 ^ 48 + (if status = 4 ∨ status = 5 then c.ownFault.toNat % 8 * 2 ^ 45 else 0) +
    contribOf c status % 8192 * 2 ^ 32 + c.view.toNat)

/-- A collective completes with a STATUS (R385). -/
def finishColl (s : State) (c : Coll) (status : Nat) : State := endColl s c (.done (collWord c status))

/-- No collective of the group runs. -/
def groupQuiet (s : State) (g : Nat) : Bool := !s.fab.colls.any (fun c => cdGroup c.desc == g && c.started)

/-- DST meets PROT or NOMAP: STATUS 5, its bytes undefined (R411). -/
def dstFault (s : State) (c : Coll) (code : BitVec 8) : State :=
  finishColl (scrambleVa s c.job (cdDst c.desc) (dstBytes c)) { c with ownFault := code } 5

/-- A result formed under the view is kept while the group agrees on the next, since an acceptance may have reported it (R377, R379). -/
def keepResult (s : State) (c : Coll) (l : List Word) : State :=
  s.updGroup (cdGroup c.desc) (fun g => if g.st = .stable ∨ c.view ≠ g.view then g else { g with results := g.results ++ [collPacket s c (.result l)] })

/-- The completion of a collective as far as it goes: the result is formed, DST is written at L2, the slot completes (R382, R411). -/
def completeColl (s : State) (c : Coll) : State :=
  match collOut c with
  | .notYet => s
  | .status n => finishColl s c n
  | .write l =>
    let c := { c with result := some l }
    let s := s.updColl c.id (fun _ => c)
    let bs := elemBytes (cdWidth c.desc) (ownPart s c l)
    match confRange s c.job (cdDst c.desc) bs.length .w with
    | .miss page => collWaits s c page
    | .fault cause => dstFault s c (faultCode cause)
    | .ok ps =>
      finishColl (keepResult (writePlaces s ps bs) c l) c c.status

/-- The requests to join or leave that the device knows of and no commit has served, each a rank and whether it leaves: the one under way, then those that came while it was (R380). -/
def Group.requests (g : Group) : List (Nat × Bool) := g.joiner.toList ++ g.asks

/-- A rank is a member once the requests known have been served. -/
def Group.willHold (g : Group) (r : Nat) : Bool :=
  match g.requests.reverse.find? (fun q => q.1 == r) with
  | some q => !q.2
  | none => bitOf g.bitmap r

/-- The device learns of a join or a leave (R380): the group is joining. A request that comes while another is under way, or while a proposal is, waits for the commit (notes/assumptions/35.md). -/
def Group.ask (g : Group) (q : Nat × Bool) : Group :=
  if g.joiner.isSome ∨ g.proposal.isSome ∨ g.seen ≠ [] then { g with asks := g.asks ++ [q] }
  else { g with joiner := some q, st := if g.st = .stable then .joining else g.st }

/-- Every collective of a group ends as aborted (R379). -/
def abortGroup (s : State) (g : Nat) : State :=
  (s.fab.colls.filter (fun c => cdGroup c.desc == g)).foldl abortColl s

/-- Packets of a group that has no view here are of no use. -/
def dropRx (s : State) (g : Nat) : State := s.updFab (fun b => { b with rx := b.rx.filter (fun i => (rxOf g i).isNone) })

/-- The device learns that it is in no committed view (R378, R379). -/
def enterExcluded (s : State) (g : Nat) : State :=
  abortGroup ((dropRx s g).updGroup g (fun x => { x with
    st := .excluded, suspects := [], proposal := none, accepts := [], seen := [], joiner := none, asks := [], held := [], settled := [], results := [] })) g

/-- The groups of a job are uninstalled with its job slot (R389); their collectives end as aborted. -/
def uninstallGroups (s : State) (job : Nat) : State :=
  let gs := (s.fab.groups.filter (fun x => x.job == job)).map (·.num)
  let s := gs.foldl (fun s g => abortGroup (dropRx s g) g) s
  s.updFab (fun b => { b with groups := b.groups.filter (fun x => x.job != job) })

/-- One collective settled by the decisions of a commit (R379): finished from a holder's result with VIEW and CONTRIB of the old view, aborted, or reduced afresh under the new view. -/
def settleColl (s : State) (g : Group) (ds : List Decision) (c : Coll) : State :=
  match ds.find? (fun d => d.seq == c.seq) with
  | none => if c.started then (if cdReweight c.desc then startColl s c.id 1 else abortColl s c) else startColl s c.id 0
  | some d =>
    match d.holder with
    | some h =>
      if h = ownRank s then
        let s := s.updColl c.id (fun c => { c with status := 2 })
        match c.result with
        | some l => sendColl s c.job (otherMembers s g.bitmap) { collPacket s c (.result l) with vtag := g.view.setWidth 16 }
        | none => s
      else
        s.updColl c.id (fun c => { c with
          started := true, status := 2, result := none, holder := some h, since := s.clock, wait := [], view := g.oldView, members := g.oldBitmap })
    | none => if cdReweight c.desc then startColl s c.id 1 else abortColl s c

end Sys2Proof.Machine
end

