-- ==== Sys2Proof/Machine/Dispatcher.lean ====
section
/-! DEFINITION. The dispatcher's events on a task: publication, report of a sluice write, dispatch, completion (spec/10 R274-R284). -/

namespace Sys2Proof.Machine

/-- The order of service (R284): descending effective priority, then publication. -/
def servedBefore (a b : Task) : Bool := decide (a.prio > b.prio) || (a.prio == b.prio && decide (a.id ≤ b.id))

/-- TASK_PUBLISH (R274): a held record is validated, unless its job has no valid slot or it waits for a page; a good one waits, judged from its sluices as they stand (R277). -/
def execTaskPublish (task : Nat) (s : State) : Host.Outcome State Fault Refusal := whenClocked s <|
  match s.task? task with
  | none => .next s
  | some t =>
    if t.st ≠ .held ∨ !jobRuns s t.job ∨ !t.wait.isEmpty then .next s
    else match firstItem (recordItems s t) with
      | .bad code => .next (writeStatus s t .refused code 0)
      | .wait page => .next (taskWaits s t page)
      | .good =>
        let k := withScratch (kernelOf (recKdesc t.record) ((readDescriptor s t).getD 0)) t.record
        let s := writeStatus s t .waiting 0 0
        .next (s.updTask task (fun x => { x with kern := some k, refused := [], judged := judge s t }))

/-- SLUICE_WRITE_REPORT (R277): a waiting record is judged again from the current values. -/
def execSluiceWriteReport (task : Nat) (s : State) : Host.Outcome State Fault Refusal := whenClocked s <|
  match s.task? task with
  | none => .next s
  | some t => if t.st = .waiting then .next (s.updTask task (fun x => { x with judged := judge s t })) else .next s

/-- The tasks that may be dispatched now. -/
def dispatchable (s : State) : List Task := s.die.tasks.filter (fun t => t.st == .waiting && t.judged.isSome && t.wait.isEmpty && jobRuns s t.job)

/-- A consumed IN sluice still holds the value on which the task was judged (R278). -/
def consumable (s : State) (t : Task) : Bool :=
  (List.range 4).all (fun i => recReload t.record i == 0 || recIn t.record i == 0 ||
    sluiceValue s t.job (recIn t.record i) == (t.judged.getD []).getD i 0)

/-- The IN sluices whose RELOAD is non-zero are consumed (R278). -/
def consume (s : State) (t : Task) : State :=
  (List.range 4).foldl (fun s i =>
    if recReload t.record i = 0 ∨ recIn t.record i = 0 then s
    else match translate s (bareAgent t.job) (recIn t.record i) .rw with
      | .ok m => rmw64 s m.slot m.pa (fun v => setBits (setBits v 63 1 0) 0 32 (recReload t.record i))
      | _ => s) s

/-- Addresses the completion of a task signals, in order (R279). -/
def outSluices (r : BitVec 1024) : List Nat := ((List.range 4).map (recOut r) ++ [recCsl r]).filter (· != 0)

/-- The completion steps of R279; while a sluice's page is missing the task waits for it. -/
def completeTask (s : State) (t : Task) : State :=
  let missing := (outSluices t.record).filter (fun va =>
    translate s (bareAgent t.job) va .rw == .miss && !t.refused.contains (pageOf va))
  match missing with
  | va :: _ => taskWaits s t (pageOf va)
  | [] =>
    let s := (outSluices t.record).foldl (fun s va => signalVa s t.job va 1) s
    let s := writeStatus s t .complete 0 0
    let teams := s.teams.filter (fun x => x.ident.task != t.id)
    { (s.updDie (fun d => { d with
        tasks := d.tasks.filter (fun x => x.id != t.id)
        cbars := d.cbars.filter (fun x => teams.any (fun y => y.ident.launch == x.1)) })) with teams := teams }

/-- The page of a size word that is being brought in: the dispatch step waits for it (R274, R281). -/
def gridMiss (s : State) (t : Task) : Option Nat :=
  if !recDds t.record then none
  else match recordRange s t (recGrid t.record) 8 .r with
    | .miss ps => ps.head?
    | _ => none

/-- The size of a grid read at dispatch (R281): a grid word, or the refusal code. A size word must lie in GLOBAL. -/
def dispatchGrid (s : State) (t : Task) : Sum Nat Nat :=
  if !recDds t.record then .inr (recGrid t.record)
  else match recordRange s t (recGrid t.record) 8 .r with
    | .miss _ | .fault _ => .inl 0x87
    | .ok ps _ =>
      let g := leNat (homeBytes s ps)
      if 2 ^ 31 ≤ g % 2 ^ 32 then .inl 0x83
      else if recGang t.record ≠ 0 ∧ gridTeams g % recGang t.record ≠ 0 then .inl 0x84
      else .inr g

/-- TASK_DISPATCH (R278): one indivisible step for the first eligible task; a consumed sluice that changed meanwhile has it judged again. A grid of zero teams completes at once (R282). -/
def execTaskDispatch (task : Nat) (s : State) : Host.Outcome State Fault Refusal := whenClocked s <|
  match firstBy servedBefore (dispatchable s) with
  | none => .next s
  | some t =>
    if t.id ≠ task then .next s
    else if !consumable s t then .next (s.updTask task (fun x => { x with judged := judge s t }))
    else match gridMiss s t with
    | some page => .next (taskWaits s t page)
    | none =>
      let s := consume s t
      let s := writeStatus (s.updTask task (fun x => { x with judged := none, dispatched := true })) t .dispatched 0 0
      match dispatchGrid s t with
      | .inl code => .next (writeStatus s t .refused code 0)
      | .inr g =>
        let t' : Task := { t with st := .dispatched, judged := none, dispatched := true, gx := g % 2 ^ 32, gy := g / 2 ^ 32 % 2 ^ 16, gz := g / 2 ^ 48 % 2 ^ 16 }
        let s := s.updTask task (fun _ => t')
        .next (if gridTeams g = 0 then completeTask s t' else s)

/-- Every team of a task has finished and its accesses are performed, with all that happens before its end: the stores of the cores they ran on (R279, spec/07 R215). -/
def taskDone (s : State) (t : Task) : Bool :=
  t.st == .dispatched && decide (t.doneTeams = t.gx * t.gy * t.gz) && t.wait.isEmpty &&
    (s.teams.filter (fun x => x.ident.task == t.id)).all (fun x => !outstanding s x.id && (s.core x.core).stores.isEmpty)

/-- TASK_COMPLETE (R279). -/
def execTaskComplete (task : Nat) (s : State) : Host.Outcome State Fault Refusal := whenClocked s <|
  match s.task? task with
  | none => .next s
  | some t => .next (if taskDone s t then completeTask s t else s)

end Sys2Proof.Machine
end

