-- ==== Sys2Proof/Machine/System.lean ====
section
/-! DEFINITION. System instructions, opcodes 0xE0 to 0xE9: traps and their end, special registers, CLOCK, EGREL, invalidations (spec/11 R305-R312, R322-R323, spec/12 R337-R340, R345). -/

namespace Sys2Proof.Machine

/-- A trap that continues: TRAPPC is the next unit (R302). -/
def contTrap (c : Ctx) (i : TrapInfo) : Res := .trapWith { c with p := { c.p with arrival := none } } i (c.p.pc + 4)

/-- TRAP (R308). -/
def execTrap (g : BitVec 4) (a : BitVec 7) (s : State) : Host.Outcome State Fault Refusal :=
  issue s .both (fun c =>
    orIllopnd ((op32 .int a).ok c) (
      match readOps c (c.act g) [op32 .int a] with
      | .stop r => r
      | .got c' vs =>
        if c.act g = 0 then .done c
        else
          let L := lane0 (c.act g)
          contTrap c' { cause := causeSWTRAP, lo := loWord (val vs 0 L), hi := 0, lane := L }))

/-- Debug Halt is in force (spec/12 R344): in Owned only while a valid token is held. -/
def haltInForce (s : State) : Bool := s.pkg.debug == .halt && (s.pkg.lifecycle != .owned || s.pkg.tokenValid)

/-- The team is held for the debugger: saved whole with WHY 4 (spec/12 R345), and its gang launch with it in the same way (spec/08 R243). -/
def holdTeam (s : State) (id : Nat) : State :=
  match s.team? id with
  | none => s
  | some t =>
    (beginSave (saveMates s t .debug) id .debug []).updTeam id (fun t => { t with trap := { t.trap with held := true } })

/-- BKPT (R308): a trap in Off and Observe; in Halt the team is held after it. -/
def execBkpt (g : BitVec 4) (s : State) : Host.Outcome State Fault Refusal :=
  issue s .both (fun c =>
    if c.act g = 0 then .done c
    else if haltInForce c.s then .gone (holdTeam c.advance.commit c.t.id)
    else contTrap c { cause := causeBKPT, lo := 0, hi := 0, lane := 0 })

/-- A 64-bit special register (R309). -/
def specialWide (m : Nat) : Bool := [0x13, 0x18, 0x19, 0x1A, 0x40, 0x41, 0x42, 0x46, 0x47].contains m
/-- A number that names a special register. -/
def specialExists (m : Nat) : Bool := decide (m ≤ 0x16) || decide (0x18 ≤ m ∧ m ≤ 0x1A) || decide (0x40 ≤ m ∧ m ≤ 0x4B)

/-- READY as a warp reads it: bits 45:42 are the Runnel engines of its core (R309). -/
def readyWord (s : State) (core : Nat) : Nat :=
  bitsOf s.pkg.ready 0 42 + ((List.range 4).zip (s.core core).runnels).foldl (fun n r => n + if r.2.ready then 2 ^ (42 + r.1) else 0) 0

/-- DEBUG: 0 Off, 1 Observe, 2 Halt. -/
def debugCode : DebugState → Nat
  | .off => 0
  | .observe => 1
  | .halt => 2

/-- The value of special register m in a lane (R309). -/
def specialValue (c : Ctx) (m L : Nat) : Nat :=
  let i := c.t.ident
  let r := c.t.trap.regs
  let tvec (f : BitVec 512 → DWord) : Nat := match jobSlot c.s i.job with | some j => (f j).toNat | none => 0
  match m with
  | 0x00 => L
  | 0x01 => c.w.index
  | 0x02 => if c.w.role = .execute then 1 else 0
  | 0x03 => i.x
  | 0x04 => i.y
  | 0x05 => i.z
  | 0x06 => i.gx
  | 0x07 => i.gy
  | 0x08 => i.gz
  | 0x09 => c.t.core
  | 0x0A => clusterOf c.t.core
  | 0x0B => bitsOf c.s.fab.fabcfg 0 16
  | 0x0C => c.p.seq.toNat
  | 0x0D => c.p.mask.toNat
  | 0x0E => i.prio
  | 0x0F => c.w.streamId.toNat
  | 0x10 => r.cause.toNat
  | 0x11 => r.addrLo.toNat
  | 0x12 => r.addrHi.toNat
  | 0x13 => r.pc.toNat
  | 0x14 => r.skid.toNat
  | 0x15 => r.split.toNat
  | 0x16 => r.cause2.toNat
  | 0x18 => scratchBase + c.t.scr.base
  | 0x19 => clusterBase
  | 0x1A => privateBase
  | 0x40 => tvec slotTvecA
  | 0x41 => tvec slotTvecE
  | 0x42 => r.pc2.toNat
  | 0x43 => c.s.pkg.fsBound
  | 0x44 => c.t.trap.keyovr.toNat
  | 0x45 => debugCode c.s.pkg.debug
  | 0x46 => readyWord c.s c.t.core
  | 0x47 => c.t.save.frame
  | _ => (c.t.trap.hsave.getD (m - 0x48) 0).toNat

/-- RDSR (R310): from 0x40 up under handler privilege only (R36). -/
def execRdsr (g : BitVec 4) (d : BitVec 6) (m : BitVec 7) (s : State) : Host.Outcome State Fault Refusal :=
  issue s .both (fun c =>
    let n := m.toNat
    if 0x40 ≤ n ∧ !c.inHandler then .trapC causePRIV
    else orIllop (specialExists n) (orIllopnd (destOk c d.toNat (specialWide n)) (
      .done (c.setD d.toNat (specialWide n) (c.act g) (fun L => BitVec.ofNat 64 (specialValue c n L))))))

/-- The team's trap side with special register m written (R301, R309, R311). -/
def writeSpecial (t : TrapSide) (m : Nat) (v : DWord) : TrapSide :=
  let w := loWord v
  match m with
  | 0x13 => { t with regs := { t.regs with pc := v &&& ~~~3 } }
  | 0x16 => { t with regs := { t.regs with cause2 := w &&& 0xFFFF01FF } }
  | 0x44 => { t with keyovr := w &&& 0x800007FF }
  | _ => { t with hsave := updAt t.hsave (m - 0x48) (fun _ => w) }

/-- A special register that WRSR writes. -/
def specialWritable (m : Nat) : Bool := m == 0x13 || m == 0x16 || m == 0x44 || decide (0x48 ≤ m ∧ m ≤ 0x4B)

/-- WRSR (R311): the value of the lowest active lane. -/
def execWrsr (g : BitVec 4) (a : BitVec 7) (m : BitVec 7) (s : State) : Host.Outcome State Fault Refusal :=
  issue s .both (fun c =>
    let n := m.toNat
    let o : Opnd := { spec := a, wide := specialWide n, cls := .int }
    if !c.inHandler then .trapC causePRIV
    else orIllop (specialWritable n) (orIllopnd (o.ok c) (
      match readOps c (c.act g) [o] with
      | .stop r => r
      | .got c vs => .done (if c.act g = 0 then c else
          { c with t := { c.t with trap := writeSpecial c.t.trap n (val vs 0 (lane0 (c.act g))) } }))))

/-- RETT (R305): a DEVICE-scope acq_rel fence of the handler's lanes; the handler's split resumes at TRAPPC with its header, ARM and MPC; the handler ends for every other split. What the split had announced at its unit stands when it resumes there. -/
def execRett (g : BitVec 4) (s : State) : Host.Outcome State Fault Refusal :=
  issue s .both (fun c =>
    match c.t.trap.handler with
    | none => .trapC causePRIV
    | some h =>
      if !c.inHandler then .trapC causePRIV
      else if c.act g = 0 then .done c
      else afterRelease c c.p.mask 3 (
        let c := (c.releases c.p.mask).acquires c.p.mask
        let pc := c.t.trap.regs.pc &&& ~~~3
        let p := { c.p with pc := pc, immRun := 0, setA := c.w.halt.setA, setB := c.w.halt.setB, arm := c.w.halt.arm, mpc := c.w.halt.mpc, blk := 0
                            arrival := if pc = h.stood then h.arrival else none }
        .ended (endHandler { c with p := p }.commit c.t.id)))

/-- HALTT (R306): the team ends, its task fails with the primary cause. -/
def execHaltt (g : BitVec 4) (s : State) : Host.Outcome State Fault Refusal :=
  issue s .both (fun c =>
    if !c.inHandler then .trapC causePRIV
    else if c.act g = 0 then .done c
    else .gone (terminateTeam c.commit c.team (c.t.trap.regs.cause.setWidth 8)))

/-- CLOCK (R312). -/
def execClock (g : BitVec 4) (d : BitVec 6) (s : State) : Host.Outcome State Fault Refusal :=
  laneForm s .both g d true [] (fun c _ _ => BitVec.ofNat 64 c.s.clock)

/-! ## EGREL (spec/12 R337-R340) -/

/-- Fields of an EGRING register (R338). -/
def egBase (r : BitVec 512) : Nat := bitsOf r 6 34 * 64
def egValid (r : BitVec 512) : Bool := bitOf r 64
def egCount (r : BitVec 512) : Nat := bitsOf r 80 16 + 1
def egSize (r : BitVec 512) : Nat := (bitsOf r 96 10 + 1) * 64
def egJob (r : BitVec 512) : Nat := bitsOf r 112 16
def egWaddr (r : BitVec 512) : Nat := bitsOf r 128 57
def egRcur (r : BitVec 512) : Nat := bitsOf r 192 64
def egHcur (r : BitVec 512) : Nat := bitsOf r 256 64
def egRing (s : State) (e : Nat) : BitVec 512 := (cellsGet s.pkg.egrings e).getD 0
def setEgRing (s : State) (e : Nat) (r : BitVec 512) : State := s.updPkg (fun p => { p with egrings := cellsSet p.egrings e r })

/-- RCUR after a release of n entries (R340). -/
def egAdvance (r : BitVec 512) (n w : Nat) : Nat := max (egRcur r) (min (egRcur r + n) (min w (egHcur r + egCount r)))

/-- EGREL (R340): no queue operands; WCUR is read under the issuing split's agent, an acquire that the release which follows carries. -/
def execEgrel (f : FmtA) (s : State) : Host.Outcome State Fault Refusal :=
  issue s .both (fun c =>
    let act := c.act f.g
    let a := op32 .int f.a
    let b := op32 .int f.b
    orIllopnd (regOk c f.d.toNat && !isQueueSpec f.a && !isQueueSpec f.b && a.ok c && b.ok c) (
      if act = 0 then .done c
      else afterRelease c act 5 (
        let e := bitsOf (a.value c (lane0 act)) 0 8
        let n := bitsOf (b.value c (lane0 act)) 0 32
        let r := egRing c.s e
        let va := egWaddr r
        if !egValid r || egJob r != c.t.ident.job then .trap (trapAddr causePROT e (lane0 act))
        else if va % 8 ≠ 0 then .trap (trapAddr causeALIGN va (lane0 act))
        else if va ≥ globalTop then .trap (trapAddr causePROT va (lane0 act))
        else match translate c.s c.agent va .r with
          | .fault cause => .trap (trapAddr cause va (lane0 act))
          | .miss => .switchOut [pageOf va]
          | .ok m =>
            let w := readPhysNat c.s m.slot m.pa 8
            let rcur := egAdvance r n w
            let c := ({ c with s := setEgRing c.s e (setBits r 192 64 rcur) } : Ctx).noteTlb [m.entry]
            .done (({ c with w := c.w.setV f.d.toNat act (fun _ => BitVec.ofNat 32 rcur) } : Ctx).acquires act |>.releases act))))

/-! ## Invalidations (R322, R323) -/

/-- Drops translations from every TLB of the die. -/
def dropTlb (s : State) (p : TlbEntry → Bool) : State :=
  { s with cores := s.cores.map (fun c => { c with tlb := c.tlb.filter (fun e => !p e) })
           clusters := s.clusters.map (fun c => { c with tlb := c.tlb.filter (fun e => !p e) }) }

/-- A team of the job, or any when none is given, still has a store on its way. -/
def storesInFlight (s : State) (job : Option Nat) : Bool :=
  s.cores.any (fun c => c.stores.any (fun st => match job with
    | none => true
    | some j => match s.team? st.team with | some t => t.ident.job == j | none => true))

/-- TLBINV (R322): privileged; the split waits until the accesses made under the dropped entries have been performed. -/
def tlbinv (s : State) (g : BitVec 4) (kind : Ctx → TlbEntry → Bool) (all : Bool) : Host.Outcome State Fault Refusal :=
  issue s .both (fun c =>
    if !c.inHandler then .trapC causePRIV
    else if c.act g = 0 then .done c
    else if storesInFlight c.s (if all then none else some c.t.ident.job) then .stall
    else .done { c with s := dropTlb c.s (kind c) })

def execTlbinvJob (g : BitVec 4) (s : State) : Host.Outcome State Fault Refusal :=
  tlbinv s g (fun c e => e.job == c.t.ident.job) false

/-- TLBINV.page: the VA lies in the pair s 2a : s 2a+1. -/
def execTlbinvPage (g : BitVec 4) (a : BitVec 4) (s : State) : Host.Outcome State Fault Refusal :=
  tlbinv s g (fun c e => tlbHits c.t.ident.job (c.w.s64 (2 * a.toNat)).toNat e) false

def execTlbinvAll (g : BitVec 4) (s : State) : Host.Outcome State Fault Refusal := tlbinv s g (fun _ _ => true) true

/-- ICINV (R323): later fetches read memory as it stands. -/
def execIcinvCore (g : BitVec 4) (s : State) : Host.Outcome State Fault Refusal :=
  issue s .both (fun c => .done (if c.act g = 0 then c else
    { c with s := c.s.updCore c.t.core (fun k => { k with icache := [] }) }))

def execIcinvDevice (g : BitVec 4) (s : State) : Host.Outcome State Fault Refusal :=
  issue s .both (fun c => .done (if c.act g = 0 then c else
    { c with s := { c.s with cores := c.s.cores.map (fun k => { k with icache := [] }) } }))

end Sys2Proof.Machine
end

