-- ==== Sys2Proof/Machine/HostQueues.lean ====
section
/-! DEFINITION. The host's side of jobs and commands: job slots, command queues, their entries (spec/12 R331-R336, spec/10 R283, R291). -/

namespace Sys2Proof.Machine

/-- A host access finds the module powered; it returns Idle to Run (R343). -/
def hostTouch (s : State) : State :=
  s.updPkg (fun p => { p with idleFor := 0, power := if p.power = .idle then .run else p.power })

/-- A host access to a register: nothing answers in Off. -/
def hostEvent (s : State) (f : State → State) : Host.Outcome State Fault Refusal :=
  .next (if s.pkg.power = .off then s else f (hostTouch s))

/-! ## Job slots (R333) -/

def jobReg (s : State) (j : Nat) : BitVec 512 := (cellsGet s.pkg.jobRegs j).getD 0
def setJobReg (s : State) (j : Nat) (r : BitVec 512) : State := s.updPkg (fun p => { p with jobRegs := cellsSet p.jobRegs j r })

/-- What refuses a write that sets VALID: another valid slot with this JOB, ROOT not 2 MiB aligned, a private pool past the top of HBM. -/
def jobRefused (s : State) (j : Nat) (r : BitVec 512) : Bool :=
  s.pkg.jobs.any (fun x => x.1 != j && bitOf x.2 63 && bitsOf x.2 32 16 == bitsOf r 32 16) ||
    slotRoot r % 0x200000 != 0 || decide (Config.hbmBytes < slotPpool r + slotPcount r * 32 * slotPsize r)

/-- Bytes 0-7 written with VALID set: the slot is taken in, or the write is ignored. -/
def validateJob (j : Nat) (val : DWord) (s : State) : State :=
  let r := setBits (jobReg s j) 0 64 val.toNat
  if !bitOf val 63 ∨ jobRefused s j r then s
  else (setJobReg s j r).updPkg (fun p => { p with jobs := cellsSet p.jobs j r })

/-- VALID written as 0: the job's translations are dropped and its groups uninstalled. -/
def invalidateJob (j : Nat) (s : State) : State :=
  match cellsGet s.pkg.jobs j with
  | none => s
  | some r =>
    let job := bitsOf r 32 16
    let s := (setJobReg s j (setBits (jobReg s j) 63 1 0)).updPkg (fun p => { p with jobs := cellsErase p.jobs j })
    uninstallGroups (dropTlb s (fun e => e.job == job)) job

def execJobslotValidate (j : Nat) (val : BitVec 64) (s : State) : Host.Outcome State Fault Refusal := hostEvent s (validateJob j val)
def execJobslotInvalidate (j : Nat) (s : State) : Host.Outcome State Fault Refusal := hostEvent s (invalidateJob j)

/-! ## Translations (R332 TLBCMD) -/

def execTlbcmdDropJob (job : Nat) (s : State) : Host.Outcome State Fault Refusal := hostEvent s (fun s => dropTlb s (fun e => e.job == job))
def execTlbcmdDropAll (s : State) : Host.Outcome State Fault Refusal := hostEvent s (fun s => dropTlb s (fun _ => true))

/-! ## Command queues (R334-R336) -/

def cqBase (r : BitVec 512) : Nat := bitsOf r 8 32 * 256
def cqPrio (r : BitVec 512) : Nat := bitsOf r 64 3
def cqLog (r : BitVec 512) : Nat := bitsOf r 68 4
def cqSize (r : BitVec 512) : Nat := 2 ^ cqLog r
def cqJob (r : BitVec 512) : Nat := bitsOf r 80 16
def cqHead (r : BitVec 512) : Nat := bitsOf r 128 16
def cqTail (r : BitVec 512) : Nat := bitsOf r 192 16
def cqState (r : BitVec 512) : Nat := bitsOf r 256 2
def cqVec (r : BitVec 512) : Nat := bitsOf r 264 8

/-- Queue q; one never written is off. -/
def cmdQueue (s : State) (q : Nat) : CmdQueue :=
  (s.pkg.cmdqs.find? (fun x => x.num == q)).getD { num := q, reg := 0, phase := 1, ro := false, reads := 0, due := 0 }
def setCmdQueue (s : State) (x : CmdQueue) : State :=
  s.updPkg (fun p => { p with cmdqs := x :: p.cmdqs.filter (fun y => y.num != x.num) })

/-- STATE written 1 from off. -/
def startQueue (q : Nat) (s : State) : State :=
  let x := cmdQueue s q
  if cqState x.reg ≠ 0 ∨ (jobSlot s (cqJob x.reg)).isNone ∨ cqLog x.reg < 4 ∨ 12 < cqLog x.reg then s
  else setCmdQueue s { x with reg := setBits (setBits (setBits x.reg 128 16 0) 192 16 0) 256 2 1, phase := 1, ro := false, reads := 0, due := s.clock }

/-- STATE written 1 from error. -/
def resumeQueue (q : Nat) (s : State) : State :=
  let x := cmdQueue s q
  if cqState x.reg = 2 then setCmdQueue s { x with reg := setBits x.reg 256 2 1, reads := 0, due := s.clock } else s

/-- STATE written 0. Entries are taken in whole, so the queue stops between two. -/
def stopQueue (q : Nat) (s : State) : State :=
  let x := cmdQueue s q
  setCmdQueue s { x with reg := setBits x.reg 256 2 0, reads := 0 }

/-- TAIL written: the notify, with its relaxed-ordering attribute. -/
def notifyQueue (q tail : Nat) (ro : Bool) (s : State) : State :=
  let x := cmdQueue s q
  if tail ≥ cqSize x.reg then s
  else setCmdQueue s { x with reg := setBits x.reg 192 16 tail, ro := ro, due := if x.reads = 0 then s.clock else x.due }

def execCmdqStart (q : Nat) (s : State) : Host.Outcome State Fault Refusal := hostEvent s (startQueue q)
def execCmdqResume (q : Nat) (s : State) : Host.Outcome State Fault Refusal := hostEvent s (resumeQueue q)
def execCmdqStop (q : Nat) (s : State) : Host.Outcome State Fault Refusal := hostEvent s (stopQueue q)
def execCmdqNotify (q tail : Nat) (ro : Bool) (s : State) : Host.Outcome State Fault Refusal := hostEvent s (notifyQueue q tail ro)

/-- The entry at HEAD, and the fields of its header. -/
def entryAddr (r : BitVec 512) : Nat := cqBase r + 256 * cqHead r
def entryPhase (s : State) (r : BitVec 512) : Nat := readPhysNat s 0 (entryAddr r + 128) 2
def entryCmd (s : State) (r : BitVec 512) : Nat := readPhysNat s 0 (entryAddr r + 130) 2
def entryJob (s : State) (r : BitVec 512) : Nat := readPhysNat s 0 (entryAddr r + 132) 2

/-- The queue has an entry to read: it runs in Run, HEAD is not TAIL, a record is free (R283), and its line can be read: an entry past the top of HBM is never read (DESIGN CHOICE, notes/assumptions/48.md). -/
def entryWaits (s : State) (r : BitVec 512) : Bool :=
  s.pkg.power == .run && cqState r == 1 && cqHead r != cqTail r && decide (recordsHeld s < Config.maxRecords) &&
    decide (entryAddr r + 256 ≤ Config.hbmBytes) && stackReady s (entryAddr r)

/-- A header read may be made now: with PHASE checked, not before the re-read that a mismatch has put off (R336). -/
def readDue (s : State) (x : CmdQueue) : Bool := !x.ro || decide (x.due ≤ s.clock)

/-- PHASE is not checked, or is the expected one (R336). -/
def phaseOk (s : State) (x : CmdQueue) : Bool := !x.ro || entryPhase s x.reg == x.phase

/-- HEAD moves past the entry read; a wrap advances the expected PHASE (R335). -/
def nextEntry (x : CmdQueue) : CmdQueue :=
  let h := (cqHead x.reg + 1) % cqSize x.reg
  { x with reg := setBits x.reg 128 16 h, reads := 0, phase := if h = 0 then x.phase % 65535 + 1 else x.phase }

/-- An entry whose command satisfies p is read and acted on. -/
def takeEntry (s : State) (q : Nat) (p : Nat → Bool) (act : State → BitVec 512 → State) : Host.Outcome State Fault Refusal :=
  let x := cmdQueue s q
  .next (if entryWaits s x.reg && readDue s x && phaseOk s x && p (entryCmd s x.reg) then act (setCmdQueue s (nextEntry x)) x.reg else s)

/-- PHASE_REREAD (R336): a header read finds another PHASE; after the 16th the queue is in error and its vector is sent. -/
def execPhaseReread (q : Nat) (s : State) : Host.Outcome State Fault Refusal :=
  let x := cmdQueue s q
  .next (if !entryWaits s x.reg ∨ phaseOk s x ∨ !readDue s x then s
    else if x.reads + 1 < 16 then setCmdQueue s { x with reads := x.reads + 1, due := s.clock + 256 }
    else (setCmdQueue s { x with reg := setBits x.reg 256 2 2, reads := 0 }).updPkg (fun p => { p with msix := p.msix ++ [cqVec x.reg] }))

/-- CMD_PUBLISH (R334, R283): the record is published; a command that does not exist is refused with code 0x86. -/
def execCmdPublish (q : Nat) (s : State) : Host.Outcome State Fault Refusal :=
  takeEntry s q (fun cmd => cmd == 0 || decide (4 ≤ cmd)) (fun s r =>
    if entryCmd s r ≠ 0 then writeAgent s 0 (entryAddr r + 104) 8 (statusWord .refused 0x86 0).toNat
    else
      let record := BitVec.ofNat 1024 (readPhysNat s 0 (entryAddr r) 128)
      publish s true (entryAddr r) record (cqJob r) 0 (min (recPrio record) (cqPrio r)))

/-- CMD_STOP_JOB (R334, R291). -/
def execCmdStopJob (q : Nat) (s : State) : Host.Outcome State Fault Refusal :=
  takeEntry s q (· == 1) (fun s r => stopJob s (entryJob s r))

/-- A stopped task as it re-enters the order of service: dispatched, waiting, or held for validation (R291). -/
def resumeTask (s : State) (t : Task) : State :=
  if t.dispatched then writeStatus s t .dispatched 0 0
  else if t.kern.isSome then (writeStatus s t .waiting 0 0).updTask t.id (fun x => { x with judged := judge s t })
  else writeStatus s t .held 0 0

/-- A stopped job resumes: its records re-enter in publication order; saves not yet begun for the stop are withdrawn, and warps that wait at their points for one go on. -/
def resumeJob (s : State) (job : Nat) : State :=
  if !s.die.stoppedJobs.contains job then s
  else
    let s := s.updDie (fun d => { d with stoppedJobs := d.stoppedJobs.filter (· != job), stopOrder := d.stopOrder.filter (fun x => x.1 != job) })
    let s : State := { s with teams := s.teams.map (fun (t : Team) =>
      if t.ident.job = job ∧ t.status = .resident ∧ (t.save.request.map (·.2)) = some .jobStop then
        { t with save := { t.save with request := none }, warps := t.warps.map (fun w => { w with atPoint := none }) } else t) }
    (s.die.tasks.filter (fun t => t.job == job && t.st == .stopped)).foldl resumeTask s

/-- CMD_RESUME_JOB (R334, R291). -/
def execCmdResumeJob (q : Nat) (s : State) : Host.Outcome State Fault Refusal :=
  takeEntry s q (· == 2) (fun s r => resumeJob s (entryJob s r))

/-- A job discarded: it is stopped if it was not; its records, frames, spill areas and private slots are free. Teams still on a core end. -/
def discardJob (s : State) (job : Nat) : State :=
  let s := stopJob s job
  let s := (s.teams.filter (fun t => t.ident.job == job && t.placed)).foldl (fun s t => endTeam s t.id .killed) s
  { s with
    teams := s.teams.filter (fun t => t.ident.job != job || outstanding s t.id)
    die := { s.die with tasks := s.die.tasks.filter (fun t => t.job != job), stoppedJobs := s.die.stoppedJobs.filter (· != job),
                         stopOrder := s.die.stopOrder.filter (fun x => x.1 != job) } }

/-- CMD_DISCARD_JOB (R334). -/
def execCmdDiscardJob (q : Nat) (s : State) : Host.Outcome State Fault Refusal :=
  takeEntry s q (· == 3) (fun s r => discardJob s (entryJob s r))

end Sys2Proof.Machine
end

