-- ==== Sys2Proof/WellFormed.lean ====
section
/-! DEFINITION. Which terms of Instr are well formed: an instruction word always is, because its fields have the widths of its layout; a reserved word must match no row of the opcode table; an event names things the device has (spec/00_scope.md R2, spec/12_package.md R332, spec/13_fabric.md R350-R351, R374). -/

namespace Sys2Proof

/-- Mask and match of the opcode table's rows, part 0. -/
def rowTable0 : List (Word × Word) :=
  [(0xFF000000#32, 0x00000000#32), (0xFF000000#32, 0x01000000#32), (0xFF000000#32, 0x02000000#32),
   (0xFF000000#32, 0x03000000#32), (0xFF000000#32, 0x04000000#32), (0xFF000000#32, 0x05000000#32),
   (0xFF000000#32, 0x06000000#32), (0xFF000000#32, 0x07000000#32), (0xFF000000#32, 0x08000000#32),
   (0xFF000000#32, 0x09000000#32), (0xFF000000#32, 0x0A000000#32), (0xFF000000#32, 0x0B000000#32),
   (0xFF00007F#32, 0x0C000070#32), (0xFF000000#32, 0x0D000000#32), (0xFF000000#32, 0x0E000000#32),
   (0xFF000000#32, 0x0F000000#32), (0xFF000000#32, 0x10000000#32), (0xFF000000#32, 0x11000000#32),
   (0xFF000000#32, 0x12000000#32), (0xFF000000#32, 0x13000000#32), (0xFF00007F#32, 0x14000070#32),
   (0xFF000000#32, 0x15000000#32), (0xFF000000#32, 0x16000000#32), (0xFF000000#32, 0x17000000#32),
   (0xFF000000#32, 0x18000000#32), (0xFF00007F#32, 0x19000070#32), (0xFF00007F#32, 0x1A000070#32),
   (0xFF00007F#32, 0x1B000070#32), (0xFF000000#32, 0x1C000000#32), (0xFF000000#32, 0x1D000000#32),
   (0xFF000000#32, 0x1E000000#32), (0xFF000078#32, 0x1F000000#32), (0xFF000000#32, 0x20000000#32),
   (0xFF000000#32, 0x21000000#32), (0xFF000000#32, 0x22000000#32), (0xFF000000#32, 0x23000000#32),
   (0xFF000000#32, 0x24000000#32), (0xFF000000#32, 0x25000000#32), (0xFF00007F#32, 0x26000070#32),
   (0xFF00007F#32, 0x27000070#32), (0xFF000000#32, 0x28000000#32), (0xFF000000#32, 0x29000000#32),
   (0xFF000000#32, 0x2A000000#32), (0xFF000000#32, 0x2B000000#32)]

/-- Mask and match of the opcode table's rows, part 1. -/
def rowTable1 : List (Word × Word) :=
  [(0xFF000000#32, 0x2C000000#32), (0xFF000000#32, 0x2D000000#32), (0xFF000000#32, 0x2E000000#32),
   (0xFF000000#32, 0x2F000000#32), (0xFF00007F#32, 0x30000070#32), (0xFF00007F#32, 0x31000070#32),
   (0xFF00007F#32, 0x32000070#32), (0xFF000000#32, 0x33000000#32), (0xFF00007F#32, 0x34000070#32),
   (0xFF00007F#32, 0x35000070#32), (0xFF00007F#32, 0x36000070#32), (0xFF00007F#32, 0x37000070#32),
   (0xFF00007F#32, 0x38000070#32), (0xFF000000#32, 0x39000000#32), (0xFF00007C#32, 0x3A000000#32),
   (0xFF0E0000#32, 0x3B000000#32), (0xFF000000#32, 0x3C000000#32), (0xFF000000#32, 0x3D000000#32),
   (0xFF000000#32, 0x3E000000#32), (0xFF00007F#32, 0x3F000070#32), (0xFF000040#32, 0x40000000#32),
   (0xFF000040#32, 0x41000000#32), (0xFF000040#32, 0x42000000#32), (0xFF000040#32, 0x43000000#32),
   (0xFF000000#32, 0x44000000#32), (0xFF0E3C00#32, 0x45000000#32), (0xFF000000#32, 0x46000000#32),
   (0xFF0E007C#32, 0x47000000#32), (0xFF000000#32, 0x48000000#32), (0xFF000000#32, 0x49000000#32),
   (0xFF000000#32, 0x4A000000#32), (0xFF000000#32, 0x4B000000#32), (0xFF000070#32, 0x4C000000#32),
   (0xFF000000#32, 0x4D000000#32), (0xFF08007F#32, 0x4E000070#32), (0xFF00007F#32, 0x50000070#32),
   (0xFF00007F#32, 0x51000070#32), (0xFF080000#32, 0x52000000#32), (0xFF000000#32, 0x53000000#32),
   (0xFF000000#32, 0x54000000#32), (0xFF000000#32, 0x55000000#32), (0xFF000000#32, 0x56000000#32),
   (0xFF000000#32, 0x57000000#32), (0xFF000000#32, 0x58000000#32)]

/-- Mask and match of the opcode table's rows, part 2. -/
def rowTable2 : List (Word × Word) :=
  [(0xFF000078#32, 0x59000000#32), (0xFF000000#32, 0x5A000000#32), (0xFF000000#32, 0x5B000000#32),
   (0xFF0C007F#32, 0x60000000#32), (0xFF003870#32, 0x61000000#32), (0xFF003878#32, 0x62000000#32),
   (0xFF00387E#32, 0x63000000#32), (0xFF0C3F80#32, 0x64000000#32), (0xFF0C3FFE#32, 0x65000000#32),
   (0xFF003878#32, 0x66000000#32), (0xFF0C3FFF#32, 0x67000000#32), (0xFF0C3FF1#32, 0x67000001#32),
   (0xFF0FC000#32, 0x68000000#32), (0xFF0FC000#32, 0x69000000#32), (0xFF000000#32, 0x6A000000#32),
   (0xFF000000#32, 0x6B000000#32), (0xFF0FC000#32, 0x6C000000#32), (0xFF000000#32, 0x70000000#32),
   (0xFF000000#32, 0x71000000#32), (0xFF000000#32, 0x72000000#32), (0xFF000000#32, 0x73000000#32),
   (0xFF000000#32, 0x74000000#32), (0xFF000000#32, 0x75000000#32), (0xFF000000#32, 0x76000000#32),
   (0xFF000000#32, 0x77000000#32), (0xFF000000#32, 0x78000000#32), (0xFF000000#32, 0x79000000#32),
   (0xFF000000#32, 0x7A000000#32), (0xFF000000#32, 0x7B000000#32), (0xFF0C007C#32, 0x7C000000#32),
   (0xFF0C007C#32, 0x7D000000#32), (0xFF0C007C#32, 0x7E000000#32), (0xFF0C0000#32, 0x7F000000#32),
   (0xFF0C0000#32, 0x80000000#32), (0xFF0C0000#32, 0x81000000#32), (0xFF00007C#32, 0x82000000#32),
   (0xFF00007C#32, 0x83000000#32), (0xFF0FC07C#32, 0x84000000#32), (0xFF000063#32, 0x85000000#32),
   (0xFF000060#32, 0x86000000#32), (0xFF0FFF83#32, 0x87000000#32), (0xFF0C3FFF#32, 0x88000000#32),
   (0xFF000003#32, 0x90000000#32), (0xFF000003#32, 0x91000000#32)]

/-- Mask and match of the opcode table's rows, part 3. -/
def rowTable3 : List (Word × Word) :=
  [(0xFF000003#32, 0x92000000#32), (0xFF000003#32, 0x93000000#32), (0xFF000003#32, 0x94000000#32),
   (0xFF000003#32, 0x95000000#32), (0xFF000003#32, 0x96000000#32), (0xFF000003#32, 0x97000000#32),
   (0xFF000003#32, 0x98000000#32), (0xFF000003#32, 0x99000000#32), (0xFF000003#32, 0x9A000000#32),
   (0xFF000003#32, 0x9B000000#32), (0xFF000003#32, 0x9C000000#32), (0xFF000003#32, 0x9D000000#32),
   (0xFF000003#32, 0x9E000000#32), (0xFF000003#32, 0x9F000000#32), (0xFF000000#32, 0xA0000000#32),
   (0xFF000000#32, 0xA1000000#32), (0xFF000000#32, 0xA2000000#32), (0xFF0FFFFF#32, 0xA3000000#32),
   (0xFF0FC07F#32, 0xA4000000#32), (0xFF000000#32, 0xA5000000#32), (0xFF0FFFFF#32, 0xA6000000#32),
   (0xFF0FFFFF#32, 0xA7000000#32), (0xFF0FFFFF#32, 0xA8000000#32), (0xFF0FFFC0#32, 0xA9000000#32),
   (0xFF0FFFC0#32, 0xAA000000#32), (0xFF0FFFFF#32, 0xAB000000#32), (0xFF0FC07F#32, 0xAC000070#32),
   (0xFF0FFFFF#32, 0xAD000000#32), (0xFF003FFF#32, 0xAE003870#32), (0xFF0FC000#32, 0xB0000000#32),
   (0xFF080000#32, 0xB1000000#32), (0xFF080000#32, 0xB2000000#32), (0xFF080000#32, 0xB3000000#32),
   (0xFF080000#32, 0xB4000000#32), (0xFF080000#32, 0xB5000000#32), (0xFF083FFF#32, 0xB6000000#32),
   (0xFF000000#32, 0xB7000000#32), (0xFF000000#32, 0xB8000000#32), (0xFF080000#32, 0xB9000000#32),
   (0xFF003FFF#32, 0xBA000000#32), (0xFF0FFFFF#32, 0xBB000000#32), (0xFF0FFFFF#32, 0xBC000000#32),
   (0xFF0FFFFF#32, 0xBD000000#32), (0xFF000000#32, 0xBE000000#32)]

/-- Mask and match of the opcode table's rows, part 4. -/
def rowTable4 : List (Word × Word) :=
  [(0xFF0F007F#32, 0xC0000000#32), (0xFF0C007F#32, 0xC1000000#32), (0xFF0C007F#32, 0xC2000000#32),
   (0xFF0C3FFF#32, 0xC3000000#32), (0xFF000000#32, 0xC4000000#32), (0xFF000000#32, 0xC5000000#32),
   (0xFF0FC07F#32, 0xC6000070#32), (0xFF0FC000#32, 0xC7000000#32), (0xFF00007F#32, 0xC8000070#32),
   (0xFF00007F#32, 0xC8000071#32), (0xFF000000#32, 0xC9000000#32), (0xFF000000#32, 0xD0000000#32),
   (0xFF000000#32, 0xD1000000#32), (0xFF000000#32, 0xD2000000#32), (0xFF000000#32, 0xD3000000#32),
   (0xFF000000#32, 0xD4000000#32), (0xFF000000#32, 0xD5000000#32), (0xFF0C0000#32, 0xD6000000#32),
   (0xFF0C0000#32, 0xD7000000#32), (0xFF0C0061#32, 0xD8000040#32), (0xFF000000#32, 0xD9000000#32),
   (0xFF0FC000#32, 0xDA000000#32), (0xFF00007F#32, 0xDB000070#32), (0xFF000000#32, 0xDC000000#32),
   (0xFF0FFFFF#32, 0xDD000000#32), (0xFF00007F#32, 0xDE000070#32), (0xFF00007F#32, 0xDE000071#32),
   (0xFF000061#32, 0xDE000040#32), (0xFF0FC07F#32, 0xE0000000#32), (0xFF0FFFFF#32, 0xE1000000#32),
   (0xFF003F80#32, 0xE2000000#32), (0xFF0FC000#32, 0xE3000000#32), (0xFF0FFFFF#32, 0xE4000000#32),
   (0xFF003FFF#32, 0xE5000000#32), (0xFF000000#32, 0xE6000000#32), (0xFF0FFFFF#32, 0xE7000000#32),
   (0xFF0FF0FF#32, 0xE7002001#32), (0xFF0FFFFF#32, 0xE7000002#32), (0xFF0FFFFF#32, 0xE8000000#32),
   (0xFF0FFFFF#32, 0xE8000001#32), (0xFF0FFFFF#32, 0xE9000000#32), (0xFF000000#32, 0xF0000000#32),
   (0xFF000000#32, 0xF4000000#32), (0xFF000000#32, 0xF5000000#32)]

/-- Mask and match of every row of the opcode table that has an encoding. -/
def rowTable : List (Word × Word) :=
  rowTable0 ++ rowTable1 ++ rowTable2 ++ rowTable3 ++ rowTable4

/-- A word that no row matches: its opcode is reserved, or its fixed fields match no assigned encoding (spec/01 R39, row RESERVED_OPCODE). -/
def unassigned (w : Word) : Bool := rowTable.all fun r => w &&& r.1 != r.2

/-- Well-formedness of an instruction or event. -/
def Instr.wellFormed : Instr → Bool
  | .reservedOpcode w => unassigned w
  | .splitRotation _ w slot => decide (w < 32 ∧ slot < 2)
  | .sleepWake _ w _ => decide (w < 32)
  | .ldqLanding _ q slot lane => decide (q < 16 ∧ slot < 256 ∧ lane < 32)
  | .pageRequestEnter core => decide (core < 24)
  | .pageAnswer a => decide (a.core < 26)
  | .boundaryMove core => decide (core < 24)
  | .matrixGrant cluster => decide (cluster < 6)
  | .passComplete cluster _ => decide (cluster < 6)
  | .runnelCommandStart core engine => decide (core < 24 ∧ engine < 4)
  | .fillGranuleLand core engine _ => decide (core < 24 ∧ engine < 4)
  | .sdrainWritesDone core engine => decide (core < 24 ∧ engine < 4)
  | .columnGroupRepair cluster unit => decide (cluster < 6 ∧ unit < 4)
  | .remoteFaultDelivery _ w => decide (w < 32)
  | .mcastpartDelivery _ w => decide (w < 32)
  | .instructionFetch _ w slot => decide (w < 32 ∧ slot < 2)
  | .coreRetire core _ => decide (core < 24)
  | .hbmChannelSpare stack _ => decide (stack < 8)
  | .hostMemoryAccess a => decide (a.pa + a.len ≤ 0x8000000000 ∧ (a.write.map List.length).getD a.len = a.len)
  | .jobslotValidate j _ => decide (j < 256)
  | .jobslotInvalidate j => decide (j < 256)
  | .cmdqStart q => decide (q < 64)
  | .cmdqResume q => decide (q < 64)
  | .cmdqStop q => decide (q < 64)
  | .cmdqNotify q tail _ => decide (q < 64 ∧ tail < 65536)
  | .phaseReread q => decide (q < 64)
  | .cmdPublish q => decide (q < 64)
  | .cmdStopJob q => decide (q < 64)
  | .cmdResumeJob q => decide (q < 64)
  | .cmdDiscardJob q => decide (q < 64)
  | .keyInstall k => decide (1 ≤ k ∧ k < 2048)
  | .keyEmpty k => decide (1 ≤ k ∧ k < 2048)
  | .egringOpen e => decide (e < 256)
  | .egringClose e => decide (e < 256)
  | .egringHcurWrite e _ => decide (e < 256)
  | .selfTestDone fn _ => decide (fn < 234)
  | .portTraining port _ => decide (port < 96)
  | .linkRekey port => decide (port < 96)
  | .windowReceive port _ => decide (port < 96)
  | .windowPadTimeout port => decide (port < 96)
  | .wavelengthSpare port _ => decide (port < 96)
  | .rankDownNotice rank => decide (rank < 4096)
  | .cgroupWrite index _ => decide (index < 64)
  | .remoteRequest p => decide (p.lanes.length ≤ 32)
  | .remoteResponse r => decide (r.lanes.length ≤ 32)
  | .uewinOpen w => decide (w < 256)
  | .uewinClose w => decide (w < 256)
  | .collectivePacket p => decide (p.group < 64 ∧ p.src < 4096)
  | .cstepTimeout _ rank => decide (rank < 4096)
  | .suspect m => decide (m.group < 64 ∧ m.src < 4096)
  | .propose m => decide (m.group < 64 ∧ m.src < 4096)
  | .accept m => decide (m.group < 64 ∧ m.src < 4096)
  | .commit m => decide (m.group < 64 ∧ m.src < 4096)
  | .agreeTimeout group => decide (group < 64)
  | .joinRequest m => decide (m.group < 64 ∧ m.src < 4096)
  | .initAgreement group _ => decide (group < 64)
  | .darkLink port => decide (port < 96)
  | _ => true

end Sys2Proof
end

