-- ==== Sys2Proof/Decode.lean ====
section
/-! DEFINITION. The decoder, total on any bytes, and the encoder, from the layouts of spec/01_instruction_words.md R4-R8, R21, R28 and the rows of spec/opcode_table.json. A word that matches no row decodes to reservedOpcode (spec/01 R39), whose meaning gives the cause that R34 gives. -/

namespace Sys2Proof

/-- Bits lo + width - 1 : lo of a word (spec/00 R3). -/
def fld (w : Word) (lo width : Nat) : BitVec width := w.extractLsb' lo width

/-- Why bytes are not an instruction. -/
inductive DecodeError where
  | truncated (have_ : Nat)
  deriving DecidableEq, Repr

/-- Opcodes 0x00 to 0x0F of R37. -/
def decodeHi0 (w : Word) (lo : BitVec 4) : Instr :=
  match lo.toNat with
  | 0 => .iaddI32 ⟨fld w 20 4, fld w 14 6, fld w 7 7, fld w 0 7⟩
  | 1 => .isubI32 ⟨fld w 20 4, fld w 14 6, fld w 7 7, fld w 0 7⟩
  | 2 => .imulI32 ⟨fld w 20 4, fld w 14 6, fld w 7 7, fld w 0 7⟩
  | 3 => .imulhiI32 ⟨fld w 20 4, fld w 14 6, fld w 7 7, fld w 0 7⟩
  | 4 => .imulhiN32 ⟨fld w 20 4, fld w 14 6, fld w 7 7, fld w 0 7⟩
  | 5 => .imadI32 ⟨fld w 20 4, fld w 14 6, fld w 7 7, fld w 0 7⟩
  | 6 => .iaddI64 ⟨fld w 20 4, fld w 14 6, fld w 7 7, fld w 0 7⟩
  | 7 => .isubI64 ⟨fld w 20 4, fld w 14 6, fld w 7 7, fld w 0 7⟩
  | 8 => .iminI32 ⟨fld w 20 4, fld w 14 6, fld w 7 7, fld w 0 7⟩
  | 9 => .iminN32 ⟨fld w 20 4, fld w 14 6, fld w 7 7, fld w 0 7⟩
  | 10 => .imaxI32 ⟨fld w 20 4, fld w 14 6, fld w 7 7, fld w 0 7⟩
  | 11 => .imaxN32 ⟨fld w 20 4, fld w 14 6, fld w 7 7, fld w 0 7⟩
  | 12 => if fld w 0 7 = 112#7 then .iabsI32 ⟨fld w 20 4, fld w 14 6, fld w 7 7⟩ else .reservedOpcode w
  | 13 => .iaddsI32 ⟨fld w 20 4, fld w 14 6, fld w 7 7, fld w 0 7⟩
  | 14 => .isubsI32 ⟨fld w 20 4, fld w 14 6, fld w 7 7, fld w 0 7⟩
  | 15 => .idivN32 ⟨fld w 20 4, fld w 14 6, fld w 7 7, fld w 0 7⟩
  | _ => .reservedOpcode w

/-- Opcodes 0x10 to 0x1F of R37. -/
def decodeHi1 (w : Word) (lo : BitVec 4) : Instr :=
  match lo.toNat with
  | 0 => .and ⟨fld w 20 4, fld w 14 6, fld w 7 7, fld w 0 7⟩
  | 1 => .or ⟨fld w 20 4, fld w 14 6, fld w 7 7, fld w 0 7⟩
  | 2 => .xor ⟨fld w 20 4, fld w 14 6, fld w 7 7, fld w 0 7⟩
  | 3 => .andn ⟨fld w 20 4, fld w 14 6, fld w 7 7, fld w 0 7⟩
  | 4 => if fld w 0 7 = 112#7 then .not ⟨fld w 20 4, fld w 14 6, fld w 7 7⟩ else .reservedOpcode w
  | 5 => .shl ⟨fld w 20 4, fld w 14 6, fld w 7 7, fld w 0 7⟩
  | 6 => .shrN32 ⟨fld w 20 4, fld w 14 6, fld w 7 7, fld w 0 7⟩
  | 7 => .shrI32 ⟨fld w 20 4, fld w 14 6, fld w 7 7, fld w 0 7⟩
  | 8 => .sel ⟨fld w 20 4, fld w 14 6, fld w 7 7, fld w 0 7⟩
  | 9 => if fld w 0 7 = 112#7 then .popc ⟨fld w 20 4, fld w 14 6, fld w 7 7⟩ else .reservedOpcode w
  | 10 => if fld w 0 7 = 112#7 then .clz ⟨fld w 20 4, fld w 14 6, fld w 7 7⟩ else .reservedOpcode w
  | 11 => if fld w 0 7 = 112#7 then .brev ⟨fld w 20 4, fld w 14 6, fld w 7 7⟩ else .reservedOpcode w
  | 12 => .bfx ⟨fld w 20 4, fld w 14 6, fld w 7 7, fld w 0 7⟩
  | 13 => .bfi ⟨fld w 20 4, fld w 14 6, fld w 7 7, fld w 0 7⟩
  | 14 => .lea ⟨fld w 20 4, fld w 14 6, fld w 7 7, fld w 0 7⟩
  | 15 => if fld w 3 4 = 0#4 then .leas (fld w 20 4) (fld w 14 6) (fld w 7 7) (fld w 0 3) else .reservedOpcode w
  | _ => .reservedOpcode w

/-- Opcodes 0x20 to 0x2F of R37. -/
def decodeHi2 (w : Word) (lo : BitVec 4) : Instr :=
  match lo.toNat with
  | 0 => .faddF32 ⟨fld w 20 4, fld w 14 6, fld w 7 7, fld w 0 7⟩
  | 1 => .fsubF32 ⟨fld w 20 4, fld w 14 6, fld w 7 7, fld w 0 7⟩
  | 2 => .fmulF32 ⟨fld w 20 4, fld w 14 6, fld w 7 7, fld w 0 7⟩
  | 3 => .ffmaF32 ⟨fld w 20 4, fld w 14 6, fld w 7 7, fld w 0 7⟩
  | 4 => .fminF32 ⟨fld w 20 4, fld w 14 6, fld w 7 7, fld w 0 7⟩
  | 5 => .fmaxF32 ⟨fld w 20 4, fld w 14 6, fld w 7 7, fld w 0 7⟩
  | 6 => if fld w 0 7 = 112#7 then .fabsF32 ⟨fld w 20 4, fld w 14 6, fld w 7 7⟩ else .reservedOpcode w
  | 7 => if fld w 0 7 = 112#7 then .fnegF32 ⟨fld w 20 4, fld w 14 6, fld w 7 7⟩ else .reservedOpcode w
  | 8 => .faddH2 ⟨fld w 20 4, fld w 14 6, fld w 7 7, fld w 0 7⟩
  | 9 => .fmulH2 ⟨fld w 20 4, fld w 14 6, fld w 7 7, fld w 0 7⟩
  | 10 => .ffmaH2 ⟨fld w 20 4, fld w 14 6, fld w 7 7, fld w 0 7⟩
  | 11 => .fminH2 ⟨fld w 20 4, fld w 14 6, fld w 7 7, fld w 0 7⟩
  | 12 => .fmaxH2 ⟨fld w 20 4, fld w 14 6, fld w 7 7, fld w 0 7⟩
  | 13 => .faddB2 ⟨fld w 20 4, fld w 14 6, fld w 7 7, fld w 0 7⟩
  | 14 => .fmulB2 ⟨fld w 20 4, fld w 14 6, fld w 7 7, fld w 0 7⟩
  | 15 => .ffmaB2 ⟨fld w 20 4, fld w 14 6, fld w 7 7, fld w 0 7⟩
  | _ => .reservedOpcode w

/-- Opcodes 0x30 to 0x3F of R37. -/
def decodeHi3 (w : Word) (lo : BitVec 4) : Instr :=
  match lo.toNat with
  | 0 => if fld w 0 7 = 112#7 then .frcp ⟨fld w 20 4, fld w 14 6, fld w 7 7⟩ else .reservedOpcode w
  | 1 => if fld w 0 7 = 112#7 then .frsq ⟨fld w 20 4, fld w 14 6, fld w 7 7⟩ else .reservedOpcode w
  | 2 => if fld w 0 7 = 112#7 then .fsqrt ⟨fld w 20 4, fld w 14 6, fld w 7 7⟩ else .reservedOpcode w
  | 3 => .fdiv ⟨fld w 20 4, fld w 14 6, fld w 7 7, fld w 0 7⟩
  | 4 => if fld w 0 7 = 112#7 then .fexp2 ⟨fld w 20 4, fld w 14 6, fld w 7 7⟩ else .reservedOpcode w
  | 5 => if fld w 0 7 = 112#7 then .flog2 ⟨fld w 20 4, fld w 14 6, fld w 7 7⟩ else .reservedOpcode w
  | 6 => if fld w 0 7 = 112#7 then .fsinpi ⟨fld w 20 4, fld w 14 6, fld w 7 7⟩ else .reservedOpcode w
  | 7 => if fld w 0 7 = 112#7 then .fcospi ⟨fld w 20 4, fld w 14 6, fld w 7 7⟩ else .reservedOpcode w
  | 8 => if fld w 0 7 = 112#7 then .ftanh ⟨fld w 20 4, fld w 14 6, fld w 7 7⟩ else .reservedOpcode w
  | 9 => .fscale ⟨fld w 20 4, fld w 14 6, fld w 7 7, fld w 0 7⟩
  | 10 => if fld w 2 5 = 0#5 then .frnd (fld w 20 4) (fld w 14 6) (fld w 7 7) (fld w 0 2) else .reservedOpcode w
  | 11 => if fld w 17 3 = 0#3 then .fclass (fld w 20 4) (fld w 14 3) (fld w 7 7) (fld w 0 7) else .reservedOpcode w
  | 12 => .fdot2H ⟨fld w 20 4, fld w 14 6, fld w 7 7, fld w 0 7⟩
  | 13 => .fdot4E4 ⟨fld w 20 4, fld w 14 6, fld w 7 7, fld w 0 7⟩
  | 14 => .fdot4E5 ⟨fld w 20 4, fld w 14 6, fld w 7 7, fld w 0 7⟩
  | 15 => if fld w 0 7 = 112#7 then .keyf ⟨fld w 20 4, fld w 14 6, fld w 7 7⟩ else .reservedOpcode w
  | _ => .reservedOpcode w

/-- Opcodes 0x40 to 0x4F of R37. -/
def decodeHi4 (w : Word) (lo : BitVec 4) : Instr :=
  match lo.toNat with
  | 0 => if fld w 6 1 = 0#1 then .icmpI32 ⟨fld w 20 4, fld w 14 6, fld w 7 7, fld w 3 3, fld w 0 3⟩ else .reservedOpcode w
  | 1 => if fld w 6 1 = 0#1 then .icmpN32 ⟨fld w 20 4, fld w 14 6, fld w 7 7, fld w 3 3, fld w 0 3⟩ else .reservedOpcode w
  | 2 => if fld w 6 1 = 0#1 then .icmpI64 ⟨fld w 20 4, fld w 14 6, fld w 7 7, fld w 3 3, fld w 0 3⟩ else .reservedOpcode w
  | 3 => if fld w 6 1 = 0#1 then .fcmpF32 ⟨fld w 20 4, fld w 14 6, fld w 7 7, fld w 3 3, fld w 0 3⟩ else .reservedOpcode w
  | 4 => .fcmpH (fld w 20 4) (fld w 14 6) (fld w 7 7) (fld w 6 1) (fld w 3 3) (fld w 0 3)
  | 5 => if fld w 17 3 = 0#3 ∧ fld w 10 4 = 0#4 then .plop (fld w 20 4) (fld w 14 3) (fld w 7 3) (fld w 4 3) (fld w 0 4) else .reservedOpcode w
  | 6 => .ballot ⟨fld w 20 4, fld w 14 6, fld w 7 7, fld w 0 7⟩
  | 7 => if fld w 17 3 = 0#3 ∧ fld w 2 5 = 0#5 then .vote (fld w 20 4) (fld w 14 3) (fld w 7 7) (fld w 0 2) else .reservedOpcode w
  | 8 => .lpick ⟨fld w 20 4, fld w 14 6, fld w 7 7, fld w 0 7⟩
  | 9 => .lmirr ⟨fld w 20 4, fld w 14 6, fld w 7 7, fld w 0 7⟩
  | 10 => .lrot ⟨fld w 20 4, fld w 14 6, fld w 7 7, fld w 0 7⟩
  | 11 => .lshift ⟨fld w 20 4, fld w 14 6, fld w 7 7, fld w 0 7⟩
  | 12 => if fld w 4 3 = 0#3 then .lfold (fld w 20 4) (fld w 14 6) (fld w 7 7) (fld w 0 4) else .reservedOpcode w
  | 13 => .lpeer ⟨fld w 20 4, fld w 14 6, fld w 7 7, fld w 0 7⟩
  | 14 => if fld w 19 1 = 0#1 ∧ fld w 0 7 = 112#7 then .swr (fld w 20 4) (fld w 14 5) (fld w 7 7) else .reservedOpcode w
  | _ => .reservedOpcode w

/-- Opcodes 0x50 to 0x5F of R37. -/
def decodeHi5 (w : Word) (lo : BitVec 4) : Instr :=
  match lo.toNat with
  | 0 => if fld w 0 7 = 112#7 then .mov ⟨fld w 20 4, fld w 14 6, fld w 7 7⟩ else .reservedOpcode w
  | 1 => if fld w 0 7 = 112#7 then .mov64 ⟨fld w 20 4, fld w 14 6, fld w 7 7⟩ else .reservedOpcode w
  | 2 => if fld w 19 1 = 0#1 then .rdlane (fld w 20 4) (fld w 14 5) (fld w 7 7) (fld w 0 7) else .reservedOpcode w
  | 3 => .cvt (fld w 20 4) (fld w 14 6) (fld w 7 7) (fld w 6 1) (fld w 4 2) (fld w 0 4)
  | 4 => .cvtpkH2 ⟨fld w 20 4, fld w 14 6, fld w 7 7, fld w 0 7⟩
  | 5 => .cvtpkB2 ⟨fld w 20 4, fld w 14 6, fld w 7 7, fld w 0 7⟩
  | 6 => .cvtpkE4 ⟨fld w 20 4, fld w 14 6, fld w 7 7, fld w 0 7⟩
  | 7 => .cvtpkE5 ⟨fld w 20 4, fld w 14 6, fld w 7 7, fld w 0 7⟩
  | 8 => .qpk4 ⟨fld w 20 4, fld w 14 6, fld w 7 7, fld w 0 7⟩
  | 9 => if fld w 3 4 = 0#4 then .qupk4 (fld w 20 4) (fld w 14 6) (fld w 7 7) (fld w 0 3) else .reservedOpcode w
  | 10 => .qscale ⟨fld w 20 4, fld w 14 6, fld w 7 7, fld w 0 7⟩
  | 11 => .requant ⟨fld w 20 4, fld w 14 6, fld w 7 7, fld w 0 7⟩
  | _ => .reservedOpcode w

/-- Opcodes 0x60 to 0x6F of R37. -/
def decodeHi6 (w : Word) (lo : BitVec 4) : Instr :=
  match lo.toNat with
  | 0 => if fld w 18 2 = 0#2 ∧ fld w 0 7 = 0#7 then .qpush (fld w 20 4) (fld w 14 4) (fld w 7 7) else .reservedOpcode w
  | 1 => if fld w 11 3 = 0#3 ∧ fld w 4 3 = 0#3 then .qpop (fld w 20 4) (fld w 14 6) (fld w 7 4) (fld w 3 1) (fld w 0 3) else .reservedOpcode w
  | 2 => if fld w 11 3 = 0#3 ∧ fld w 3 4 = 0#4 then .qtry (fld w 20 4) (fld w 14 6) (fld w 7 4) (fld w 0 3) else .reservedOpcode w
  | 3 => if fld w 11 3 = 0#3 ∧ fld w 1 6 = 0#6 then .qpeek (fld w 20 4) (fld w 14 6) (fld w 7 4) (fld w 0 1) else .reservedOpcode w
  | 4 => if fld w 18 2 = 0#2 ∧ fld w 7 7 = 0#7 then .qskip (fld w 20 4) (fld w 14 4) (fld w 0 7) else .reservedOpcode w
  | 5 => if fld w 18 2 = 0#2 ∧ fld w 1 13 = 0#13 then .qflush (fld w 20 4) (fld w 14 4) (fld w 0 1) else .reservedOpcode w
  | 6 => if fld w 11 3 = 0#3 ∧ fld w 3 4 = 0#4 then .qstat (fld w 20 4) (fld w 14 6) (fld w 7 4) (fld w 0 3) else .reservedOpcode w
  | 7 => if fld w 18 2 = 0#2 ∧ fld w 0 14 = 0#14 then .qeos (fld w 20 4) (fld w 14 4) else if fld w 18 2 = 0#2 ∧ fld w 4 10 = 0#10 ∧ fld w 0 1 = 1#1 then .qeosTest (fld w 20 4) (fld w 14 4) (fld w 1 3) else .reservedOpcode w
  | 8 => if fld w 14 6 = 0#6 then .rwait ⟨fld w 20 4, fld w 7 7, fld w 0 7⟩ else .reservedOpcode w
  | 9 => if fld w 14 6 = 0#6 then .rrel ⟨fld w 20 4, fld w 7 7, fld w 0 7⟩ else .reservedOpcode w
  | 10 => .ldr ⟨fld w 20 4, fld w 14 6, fld w 7 7, fld w 0 7⟩
  | 11 => .str ⟨fld w 20 4, fld w 14 6, fld w 7 7, fld w 0 7⟩
  | 12 => if fld w 14 6 = 0#6 then .rset ⟨fld w 20 4, fld w 7 7, fld w 0 7⟩ else .reservedOpcode w
  | _ => .reservedOpcode w

/-- Opcodes 0x70 to 0x7F of R37. -/
def decodeHi7 (w : Word) (lo : BitVec 4) : Instr :=
  match lo.toNat with
  | 0 => .ldB8n ⟨fld w 20 4, fld w 14 6, fld w 7 7, fld w 5 2, fld w 2 3, fld w 0 2⟩
  | 1 => .ldB8i ⟨fld w 20 4, fld w 14 6, fld w 7 7, fld w 5 2, fld w 2 3, fld w 0 2⟩
  | 2 => .ldB16n ⟨fld w 20 4, fld w 14 6, fld w 7 7, fld w 5 2, fld w 2 3, fld w 0 2⟩
  | 3 => .ldB16i ⟨fld w 20 4, fld w 14 6, fld w 7 7, fld w 5 2, fld w 2 3, fld w 0 2⟩
  | 4 => .ldB32 ⟨fld w 20 4, fld w 14 6, fld w 7 7, fld w 5 2, fld w 2 3, fld w 0 2⟩
  | 5 => .ldB64 ⟨fld w 20 4, fld w 14 6, fld w 7 7, fld w 5 2, fld w 2 3, fld w 0 2⟩
  | 6 => .ldB128 ⟨fld w 20 4, fld w 14 6, fld w 7 7, fld w 5 2, fld w 2 3, fld w 0 2⟩
  | 7 => .stB8 ⟨fld w 20 4, fld w 14 6, fld w 7 7, fld w 5 2, fld w 2 3, fld w 0 2⟩
  | 8 => .stB16 ⟨fld w 20 4, fld w 14 6, fld w 7 7, fld w 5 2, fld w 2 3, fld w 0 2⟩
  | 9 => .stB32 ⟨fld w 20 4, fld w 14 6, fld w 7 7, fld w 5 2, fld w 2 3, fld w 0 2⟩
  | 10 => .stB64 ⟨fld w 20 4, fld w 14 6, fld w 7 7, fld w 5 2, fld w 2 3, fld w 0 2⟩
  | 11 => .stB128 ⟨fld w 20 4, fld w 14 6, fld w 7 7, fld w 5 2, fld w 2 3, fld w 0 2⟩
  | 12 => if fld w 18 2 = 0#2 ∧ fld w 2 5 = 0#5 then .ldqB32 ⟨fld w 20 4, fld w 14 4, fld w 7 7, fld w 0 2⟩ else .reservedOpcode w
  | 13 => if fld w 18 2 = 0#2 ∧ fld w 2 5 = 0#5 then .ldqB64 ⟨fld w 20 4, fld w 14 4, fld w 7 7, fld w 0 2⟩ else .reservedOpcode w
  | 14 => if fld w 18 2 = 0#2 ∧ fld w 2 5 = 0#5 then .ldqB16 ⟨fld w 20 4, fld w 14 4, fld w 7 7, fld w 0 2⟩ else .reservedOpcode w
  | 15 => if fld w 18 2 = 0#2 then .stqB32 ⟨fld w 20 4, fld w 14 4, fld w 7 7, fld w 5 2, fld w 2 3, fld w 0 2⟩ else .reservedOpcode w
  | _ => .reservedOpcode w

/-- Opcodes 0x80 to 0x8F of R37. -/
def decodeHi8 (w : Word) (lo : BitVec 4) : Instr :=
  match lo.toNat with
  | 0 => if fld w 18 2 = 0#2 then .stqB64 ⟨fld w 20 4, fld w 14 4, fld w 7 7, fld w 5 2, fld w 2 3, fld w 0 2⟩ else .reservedOpcode w
  | 1 => if fld w 18 2 = 0#2 then .stqB16 ⟨fld w 20 4, fld w 14 4, fld w 7 7, fld w 5 2, fld w 2 3, fld w 0 2⟩ else .reservedOpcode w
  | 2 => if fld w 2 5 = 0#5 then .ldfe (fld w 20 4) (fld w 14 6) (fld w 7 7) (fld w 0 2) else .reservedOpcode w
  | 3 => if fld w 2 5 = 0#5 then .stfe (fld w 20 4) (fld w 14 6) (fld w 7 7) (fld w 0 2) else .reservedOpcode w
  | 4 => if fld w 14 6 = 0#6 ∧ fld w 2 5 = 0#5 then .pref (fld w 20 4) (fld w 7 7) (fld w 0 2) else .reservedOpcode w
  | 5 => if fld w 5 2 = 0#2 ∧ fld w 0 2 = 0#2 then .discard (fld w 20 4) (fld w 14 6) (fld w 7 7) (fld w 2 3) else .reservedOpcode w
  | 6 => if fld w 5 2 = 0#2 then .wback (fld w 20 4) (fld w 14 6) (fld w 7 7) (fld w 2 3) (fld w 0 2) else .reservedOpcode w
  | 7 => if fld w 7 13 = 0#13 ∧ fld w 0 2 = 0#2 then .fence (fld w 20 4) (fld w 5 2) (fld w 2 3) else .reservedOpcode w
  | 8 => if fld w 18 2 = 0#2 ∧ fld w 0 14 = 0#14 then .stream (fld w 20 4) (fld w 14 4) else .reservedOpcode w
  | _ => .reservedOpcode w

/-- Opcodes 0x90 to 0x9F of R37. -/
def decodeHi9 (w : Word) (lo : BitVec 4) : Instr :=
  match lo.toNat with
  | 0 => if fld w 0 2 = 0#2 then .aaddI32 ⟨fld w 20 4, fld w 14 6, fld w 7 7, fld w 5 2, fld w 2 3⟩ else .reservedOpcode w
  | 1 => if fld w 0 2 = 0#2 then .aaddI64 ⟨fld w 20 4, fld w 14 6, fld w 7 7, fld w 5 2, fld w 2 3⟩ else .reservedOpcode w
  | 2 => if fld w 0 2 = 0#2 then .aaddF32 ⟨fld w 20 4, fld w 14 6, fld w 7 7, fld w 5 2, fld w 2 3⟩ else .reservedOpcode w
  | 3 => if fld w 0 2 = 0#2 then .aaddB2 ⟨fld w 20 4, fld w 14 6, fld w 7 7, fld w 5 2, fld w 2 3⟩ else .reservedOpcode w
  | 4 => if fld w 0 2 = 0#2 then .aminI32 ⟨fld w 20 4, fld w 14 6, fld w 7 7, fld w 5 2, fld w 2 3⟩ else .reservedOpcode w
  | 5 => if fld w 0 2 = 0#2 then .aminN32 ⟨fld w 20 4, fld w 14 6, fld w 7 7, fld w 5 2, fld w 2 3⟩ else .reservedOpcode w
  | 6 => if fld w 0 2 = 0#2 then .amaxI32 ⟨fld w 20 4, fld w 14 6, fld w 7 7, fld w 5 2, fld w 2 3⟩ else .reservedOpcode w
  | 7 => if fld w 0 2 = 0#2 then .amaxN32 ⟨fld w 20 4, fld w 14 6, fld w 7 7, fld w 5 2, fld w 2 3⟩ else .reservedOpcode w
  | 8 => if fld w 0 2 = 0#2 then .aand ⟨fld w 20 4, fld w 14 6, fld w 7 7, fld w 5 2, fld w 2 3⟩ else .reservedOpcode w
  | 9 => if fld w 0 2 = 0#2 then .aor ⟨fld w 20 4, fld w 14 6, fld w 7 7, fld w 5 2, fld w 2 3⟩ else .reservedOpcode w
  | 10 => if fld w 0 2 = 0#2 then .axor ⟨fld w 20 4, fld w 14 6, fld w 7 7, fld w 5 2, fld w 2 3⟩ else .reservedOpcode w
  | 11 => if fld w 0 2 = 0#2 then .axchB32 ⟨fld w 20 4, fld w 14 6, fld w 7 7, fld w 5 2, fld w 2 3⟩ else .reservedOpcode w
  | 12 => if fld w 0 2 = 0#2 then .axchB64 ⟨fld w 20 4, fld w 14 6, fld w 7 7, fld w 5 2, fld w 2 3⟩ else .reservedOpcode w
  | 13 => if fld w 0 2 = 0#2 then .acasB32 ⟨fld w 20 4, fld w 14 6, fld w 7 7, fld w 5 2, fld w 2 3⟩ else .reservedOpcode w
  | 14 => if fld w 0 2 = 0#2 then .acasB64 ⟨fld w 20 4, fld w 14 6, fld w 7 7, fld w 5 2, fld w 2 3⟩ else .reservedOpcode w
  | 15 => if fld w 0 2 = 0#2 then .aincb ⟨fld w 20 4, fld w 14 6, fld w 7 7, fld w 5 2, fld w 2 3⟩ else .reservedOpcode w
  | _ => .reservedOpcode w

/-- Opcodes 0xA0 to 0xAF of R37. -/
def decodeHiA (w : Word) (lo : BitVec 4) : Instr :=
  match lo.toNat with
  | 0 => .bra ⟨fld w 20 4, fld w 0 20⟩
  | 1 => .bru ⟨fld w 20 4, fld w 0 20⟩
  | 2 => .call ⟨fld w 20 4, fld w 0 20⟩
  | 3 => if fld w 0 20 = 0#20 then .ret (fld w 20 4) else .reservedOpcode w
  | 4 => if fld w 14 6 = 0#6 ∧ fld w 0 7 = 0#7 then .jmpi (fld w 20 4) (fld w 7 7) else .reservedOpcode w
  | 5 => .mergeat ⟨fld w 20 4, fld w 0 20⟩
  | 6 => if fld w 0 20 = 0#20 then .merge (fld w 20 4) else .reservedOpcode w
  | 7 => if fld w 0 20 = 0#20 then .yield (fld w 20 4) else .reservedOpcode w
  | 8 => if fld w 0 20 = 0#20 then .exit (fld w 20 4) else .reservedOpcode w
  | 9 => if fld w 6 14 = 0#14 then .bar (fld w 20 4) (fld w 4 2) (fld w 0 4) else .reservedOpcode w
  | 10 => if fld w 6 14 = 0#14 then .bara (fld w 20 4) (fld w 4 2) (fld w 0 4) else .reservedOpcode w
  | 11 => if fld w 0 20 = 0#20 then .cbar (fld w 20 4) else .reservedOpcode w
  | 12 => if fld w 14 6 = 0#6 ∧ fld w 0 7 = 112#7 then .sleep (fld w 20 4) (fld w 7 7) else .reservedOpcode w
  | 13 => if fld w 0 20 = 0#20 then .nop (fld w 20 4) else .reservedOpcode w
  | 14 => if fld w 0 14 = 14448#14 then .splitq (fld w 20 4) (fld w 14 6) else .reservedOpcode w
  | _ => .reservedOpcode w

/-- Opcodes 0xB0 to 0xBF of R37. -/
def decodeHiB (w : Word) (lo : BitVec 4) : Instr :=
  match lo.toNat with
  | 0 => if fld w 14 6 = 0#6 then .gang ⟨fld w 20 4, fld w 7 7, fld w 0 7⟩ else .reservedOpcode w
  | 1 => if fld w 19 1 = 0#1 then .mma ⟨fld w 20 4, fld w 18 1, fld w 14 4, fld w 7 7, fld w 0 7⟩ else .reservedOpcode w
  | 2 => if fld w 19 1 = 0#1 then .mmax ⟨fld w 20 4, fld w 18 1, fld w 14 4, fld w 7 7, fld w 0 7⟩ else .reservedOpcode w
  | 3 => if fld w 19 1 = 0#1 then .mxt ⟨fld w 20 4, fld w 18 1, fld w 14 4, fld w 7 7, fld w 0 7⟩ else .reservedOpcode w
  | 4 => if fld w 19 1 = 0#1 then .mxp ⟨fld w 20 4, fld w 18 1, fld w 14 4, fld w 7 7, fld w 0 7⟩ else .reservedOpcode w
  | 5 => if fld w 19 1 = 0#1 then .mxs ⟨fld w 20 4, fld w 18 1, fld w 14 4, fld w 7 7, fld w 0 7⟩ else .reservedOpcode w
  | 6 => if fld w 19 1 = 0#1 ∧ fld w 0 14 = 0#14 then .czero (fld w 20 4) (fld w 18 1) (fld w 14 4) else .reservedOpcode w
  | 7 => .cread ⟨fld w 20 4, fld w 14 6, fld w 7 7, fld w 0 7⟩
  | 8 => .cwrite ⟨fld w 20 4, fld w 14 6, fld w 7 7, fld w 0 7⟩
  | 9 => if fld w 19 1 = 0#1 then .cdrain ⟨fld w 20 4, fld w 18 1, fld w 14 4, fld w 7 7, fld w 0 7⟩ else .reservedOpcode w
  | 10 => if fld w 0 14 = 0#14 then .mwait (fld w 20 4) (fld w 19 1) (fld w 18 1) (fld w 14 4) else .reservedOpcode w
  | 11 => if fld w 0 20 = 0#20 then .ofence (fld w 20 4) else .reservedOpcode w
  | 12 => if fld w 0 20 = 0#20 then .tkpass (fld w 20 4) else .reservedOpcode w
  | 13 => if fld w 0 20 = 0#20 then .tkwait (fld w 20 4) else .reservedOpcode w
  | 14 => .planes ⟨fld w 20 4, fld w 14 6, fld w 7 7, fld w 0 7⟩
  | _ => .reservedOpcode w

/-- Opcodes 0xC0 to 0xCF of R37. -/
def decodeHiC (w : Word) (lo : BitVec 4) : Instr :=
  match lo.toNat with
  | 0 => if fld w 16 4 = 0#4 ∧ fld w 0 7 = 0#7 then .slay (fld w 20 4) (fld w 14 2) (fld w 7 7) else .reservedOpcode w
  | 1 => if fld w 18 2 = 0#2 ∧ fld w 0 7 = 0#7 then .sfill (fld w 20 4) (fld w 16 2) (fld w 14 2) (fld w 7 7) else .reservedOpcode w
  | 2 => if fld w 18 2 = 0#2 ∧ fld w 0 7 = 0#7 then .sdrain (fld w 20 4) (fld w 16 2) (fld w 14 2) (fld w 7 7) else .reservedOpcode w
  | 3 => if fld w 18 2 = 0#2 ∧ fld w 0 14 = 0#14 then .swait (fld w 20 4) (fld w 14 4) else .reservedOpcode w
  | 4 => .regroup ⟨fld w 20 4, fld w 14 6, fld w 7 7, fld w 0 7⟩
  | 5 => .ungroup ⟨fld w 20 4, fld w 14 6, fld w 7 7, fld w 0 7⟩
  | 6 => if fld w 14 6 = 0#6 ∧ fld w 0 7 = 112#7 then .spawn (fld w 20 4) (fld w 7 7) else .reservedOpcode w
  | 7 => if fld w 14 6 = 0#6 then .tsig ⟨fld w 20 4, fld w 7 7, fld w 0 7⟩ else .reservedOpcode w
  | 8 => if fld w 0 7 = 112#7 then .twaitFull ⟨fld w 20 4, fld w 14 6, fld w 7 7⟩ else if fld w 0 7 = 113#7 then .twaitEmpty ⟨fld w 20 4, fld w 14 6, fld w 7 7⟩ else .reservedOpcode w
  | 9 => .preempt (fld w 20 4) (fld w 0 20)
  | _ => .reservedOpcode w

/-- Opcodes 0xD0 to 0xDF of R37. -/
def decodeHiD (w : Word) (lo : BitVec 4) : Instr :=
  match lo.toNat with
  | 0 => .rldB32 ⟨fld w 20 4, fld w 14 6, fld w 7 7, fld w 0 7⟩
  | 1 => .rldB64 ⟨fld w 20 4, fld w 14 6, fld w 7 7, fld w 0 7⟩
  | 2 => .rstB32 ⟨fld w 20 4, fld w 14 6, fld w 7 7, fld w 0 7⟩
  | 3 => .rstB64 ⟨fld w 20 4, fld w 14 6, fld w 7 7, fld w 0 7⟩
  | 4 => .raaddI64 ⟨fld w 20 4, fld w 14 6, fld w 7 7, fld w 0 7⟩
  | 5 => .racasB64 ⟨fld w 20 4, fld w 14 6, fld w 7 7, fld w 0 7⟩
  | 6 => if fld w 18 2 = 0#2 then .rldqB32 (fld w 20 4) (fld w 14 4) (fld w 7 7) (fld w 0 7) else .reservedOpcode w
  | 7 => if fld w 18 2 = 0#2 then .rldqB64 (fld w 20 4) (fld w 14 4) (fld w 7 7) (fld w 0 7) else .reservedOpcode w
  | 8 => if fld w 18 2 = 0#2 ∧ fld w 5 2 = 2#2 ∧ fld w 0 1 = 0#1 then .xldq (fld w 20 4) (fld w 14 4) (fld w 7 7) (fld w 1 4) else .reservedOpcode w
  | 9 => .mcst ⟨fld w 20 4, fld w 14 6, fld w 7 7, fld w 0 7⟩
  | 10 => if fld w 14 6 = 0#6 then .coll ⟨fld w 20 4, fld w 7 7, fld w 0 7⟩ else .reservedOpcode w
  | 11 => if fld w 0 7 = 112#7 then .cwait ⟨fld w 20 4, fld w 14 6, fld w 7 7⟩ else .reservedOpcode w
  | 12 => .viewq ⟨fld w 20 4, fld w 14 6, fld w 7 7, fld w 0 7⟩
  | 13 => if fld w 0 20 = 0#20 then .rfence (fld w 20 4) else .reservedOpcode w
  | 14 => if fld w 0 7 = 112#7 then .viewctlJoin ⟨fld w 20 4, fld w 14 6, fld w 7 7⟩ else if fld w 0 7 = 113#7 then .viewctlLeave ⟨fld w 20 4, fld w 14 6, fld w 7 7⟩ else if fld w 5 2 = 2#2 ∧ fld w 0 1 = 0#1 then .viewctlInit (fld w 20 4) (fld w 14 6) (fld w 7 7) (fld w 1 4) else .reservedOpcode w
  | _ => .reservedOpcode w

/-- Opcodes 0xE0 to 0xEF of R37. -/
def decodeHiE (w : Word) (lo : BitVec 4) : Instr :=
  match lo.toNat with
  | 0 => if fld w 14 6 = 0#6 ∧ fld w 0 7 = 0#7 then .trap (fld w 20 4) (fld w 7 7) else .reservedOpcode w
  | 1 => if fld w 0 20 = 0#20 then .bkpt (fld w 20 4) else .reservedOpcode w
  | 2 => if fld w 7 7 = 0#7 then .rdsr (fld w 20 4) (fld w 14 6) (fld w 0 7) else .reservedOpcode w
  | 3 => if fld w 14 6 = 0#6 then .wrsr (fld w 20 4) (fld w 7 7) (fld w 0 7) else .reservedOpcode w
  | 4 => if fld w 0 20 = 0#20 then .rett (fld w 20 4) else .reservedOpcode w
  | 5 => if fld w 0 14 = 0#14 then .clock (fld w 20 4) (fld w 14 6) else .reservedOpcode w
  | 6 => .egrel ⟨fld w 20 4, fld w 14 6, fld w 7 7, fld w 0 7⟩
  | 7 => if fld w 0 20 = 0#20 then .tlbinvJob (fld w 20 4) else if fld w 12 8 = 2#8 ∧ fld w 0 8 = 1#8 then .tlbinvPage (fld w 20 4) (fld w 8 4) else if fld w 0 20 = 2#20 then .tlbinvAll (fld w 20 4) else .reservedOpcode w
  | 8 => if fld w 0 20 = 0#20 then .icinvCore (fld w 20 4) else if fld w 0 20 = 1#20 then .icinvDevice (fld w 20 4) else .reservedOpcode w
  | 9 => if fld w 0 20 = 0#20 then .haltt (fld w 20 4) else .reservedOpcode w
  | _ => .reservedOpcode w

/-- Opcodes 0xF0 to 0xFF of R37. -/
def decodeHiF (w : Word) (lo : BitVec 4) : Instr :=
  match lo.toNat with
  | 0 => .clause (fld w 12 12) (fld w 8 4) (fld w 4 4) (fld w 1 3) (fld w 0 1)
  | 4 => .immL (fld w 0 24)
  | 5 => .immH (fld w 0 24)
  | _ => .reservedOpcode w

/-- The instruction a 32-bit word is (R4: bits 31:24 hold the opcode). -/
def decodeWord (w : Word) : Instr :=
  match (fld w 28 4).toNat with
  | 0 => decodeHi0 w (fld w 24 4)
  | 1 => decodeHi1 w (fld w 24 4)
  | 2 => decodeHi2 w (fld w 24 4)
  | 3 => decodeHi3 w (fld w 24 4)
  | 4 => decodeHi4 w (fld w 24 4)
  | 5 => decodeHi5 w (fld w 24 4)
  | 6 => decodeHi6 w (fld w 24 4)
  | 7 => decodeHi7 w (fld w 24 4)
  | 8 => decodeHi8 w (fld w 24 4)
  | 9 => decodeHi9 w (fld w 24 4)
  | 10 => decodeHiA w (fld w 24 4)
  | 11 => decodeHiB w (fld w 24 4)
  | 12 => decodeHiC w (fld w 24 4)
  | 13 => decodeHiD w (fld w 24 4)
  | 14 => decodeHiE w (fld w 24 4)
  | _ => decodeHiF w (fld w 24 4)

/-- A word from four bytes in increasing address order (R3, R4). -/
def wordOfBytes (b0 b1 b2 b3 : Byte) : Word := b3 ++ b2 ++ b1 ++ b0

/-- The four bytes of a word in increasing address order (R4). -/
def bytesOfWord (w : Word) : List Byte := [fld w 0 8, fld w 8 8, fld w 16 8, fld w 24 8]

/-- Decode the instruction at the head of a byte string; every instruction is one word (R4). -/
def decode : List Byte → Except DecodeError (Instr × List Byte)
  | b0 :: b1 :: b2 :: b3 :: rest => .ok (decodeWord (wordOfBytes b0 b1 b2 b3), rest)
  | bs => .error (.truncated bs.length)

/-- The word of an instruction; none for an event, which has no word. -/
def encode : Instr → Option Word
  | .iaddI32 f => some ((0#8) ++ f.g ++ f.d ++ f.a ++ f.b)
  | .isubI32 f => some ((1#8) ++ f.g ++ f.d ++ f.a ++ f.b)
  | .imulI32 f => some ((2#8) ++ f.g ++ f.d ++ f.a ++ f.b)
  | .imulhiI32 f => some ((3#8) ++ f.g ++ f.d ++ f.a ++ f.b)
  | .imulhiN32 f => some ((4#8) ++ f.g ++ f.d ++ f.a ++ f.b)
  | .imadI32 f => some ((5#8) ++ f.g ++ f.d ++ f.a ++ f.b)
  | .iaddI64 f => some ((6#8) ++ f.g ++ f.d ++ f.a ++ f.b)
  | .isubI64 f => some ((7#8) ++ f.g ++ f.d ++ f.a ++ f.b)
  | .iminI32 f => some ((8#8) ++ f.g ++ f.d ++ f.a ++ f.b)
  | .iminN32 f => some ((9#8) ++ f.g ++ f.d ++ f.a ++ f.b)
  | .imaxI32 f => some ((10#8) ++ f.g ++ f.d ++ f.a ++ f.b)
  | .imaxN32 f => some ((11#8) ++ f.g ++ f.d ++ f.a ++ f.b)
  | .iabsI32 f => some ((12#8) ++ f.g ++ f.d ++ f.a ++ (112#7))
  | .iaddsI32 f => some ((13#8) ++ f.g ++ f.d ++ f.a ++ f.b)
  | .isubsI32 f => some ((14#8) ++ f.g ++ f.d ++ f.a ++ f.b)
  | .idivN32 f => some ((15#8) ++ f.g ++ f.d ++ f.a ++ f.b)
  | .and f => some ((16#8) ++ f.g ++ f.d ++ f.a ++ f.b)
  | .or f => some ((17#8) ++ f.g ++ f.d ++ f.a ++ f.b)
  | .xor f => some ((18#8) ++ f.g ++ f.d ++ f.a ++ f.b)
  | .andn f => some ((19#8) ++ f.g ++ f.d ++ f.a ++ f.b)
  | .not f => some ((20#8) ++ f.g ++ f.d ++ f.a ++ (112#7))
  | .shl f => some ((21#8) ++ f.g ++ f.d ++ f.a ++ f.b)
  | .shrN32 f => some ((22#8) ++ f.g ++ f.d ++ f.a ++ f.b)
  | .shrI32 f => some ((23#8) ++ f.g ++ f.d ++ f.a ++ f.b)
  | .sel f => some ((24#8) ++ f.g ++ f.d ++ f.a ++ f.b)
  | .popc f => some ((25#8) ++ f.g ++ f.d ++ f.a ++ (112#7))
  | .clz f => some ((26#8) ++ f.g ++ f.d ++ f.a ++ (112#7))
  | .brev f => some ((27#8) ++ f.g ++ f.d ++ f.a ++ (112#7))
  | .bfx f => some ((28#8) ++ f.g ++ f.d ++ f.a ++ f.b)
  | .bfi f => some ((29#8) ++ f.g ++ f.d ++ f.a ++ f.b)
  | .lea f => some ((30#8) ++ f.g ++ f.d ++ f.a ++ f.b)
  | .leas g d a s => some ((31#8) ++ g ++ d ++ a ++ (0#4) ++ s)
  | .faddF32 f => some ((32#8) ++ f.g ++ f.d ++ f.a ++ f.b)
  | .fsubF32 f => some ((33#8) ++ f.g ++ f.d ++ f.a ++ f.b)
  | .fmulF32 f => some ((34#8) ++ f.g ++ f.d ++ f.a ++ f.b)
  | .ffmaF32 f => some ((35#8) ++ f.g ++ f.d ++ f.a ++ f.b)
  | .fminF32 f => some ((36#8) ++ f.g ++ f.d ++ f.a ++ f.b)
  | .fmaxF32 f => some ((37#8) ++ f.g ++ f.d ++ f.a ++ f.b)
  | .fabsF32 f => some ((38#8) ++ f.g ++ f.d ++ f.a ++ (112#7))
  | .fnegF32 f => some ((39#8) ++ f.g ++ f.d ++ f.a ++ (112#7))
  | .faddH2 f => some ((40#8) ++ f.g ++ f.d ++ f.a ++ f.b)
  | .fmulH2 f => some ((41#8) ++ f.g ++ f.d ++ f.a ++ f.b)
  | .ffmaH2 f => some ((42#8) ++ f.g ++ f.d ++ f.a ++ f.b)
  | .fminH2 f => some ((43#8) ++ f.g ++ f.d ++ f.a ++ f.b)
  | .fmaxH2 f => some ((44#8) ++ f.g ++ f.d ++ f.a ++ f.b)
  | .faddB2 f => some ((45#8) ++ f.g ++ f.d ++ f.a ++ f.b)
  | .fmulB2 f => some ((46#8) ++ f.g ++ f.d ++ f.a ++ f.b)
  | .ffmaB2 f => some ((47#8) ++ f.g ++ f.d ++ f.a ++ f.b)
  | .frcp f => some ((48#8) ++ f.g ++ f.d ++ f.a ++ (112#7))
  | .frsq f => some ((49#8) ++ f.g ++ f.d ++ f.a ++ (112#7))
  | .fsqrt f => some ((50#8) ++ f.g ++ f.d ++ f.a ++ (112#7))
  | .fdiv f => some ((51#8) ++ f.g ++ f.d ++ f.a ++ f.b)
  | .fexp2 f => some ((52#8) ++ f.g ++ f.d ++ f.a ++ (112#7))
  | .flog2 f => some ((53#8) ++ f.g ++ f.d ++ f.a ++ (112#7))
  | .fsinpi f => some ((54#8) ++ f.g ++ f.d ++ f.a ++ (112#7))
  | .fcospi f => some ((55#8) ++ f.g ++ f.d ++ f.a ++ (112#7))
  | .ftanh f => some ((56#8) ++ f.g ++ f.d ++ f.a ++ (112#7))
  | .fscale f => some ((57#8) ++ f.g ++ f.d ++ f.a ++ f.b)
  | .frnd g d a m => some ((58#8) ++ g ++ d ++ a ++ (0#5) ++ m)
  | .fclass g p a m => some ((59#8) ++ g ++ (0#3) ++ p ++ a ++ m)
  | .fdot2H f => some ((60#8) ++ f.g ++ f.d ++ f.a ++ f.b)
  | .fdot4E4 f => some ((61#8) ++ f.g ++ f.d ++ f.a ++ f.b)
  | .fdot4E5 f => some ((62#8) ++ f.g ++ f.d ++ f.a ++ f.b)
  | .keyf f => some ((63#8) ++ f.g ++ f.d ++ f.a ++ (112#7))
  | .icmpI32 f => some ((64#8) ++ f.g ++ f.src ++ f.a ++ (0#1) ++ f.cond ++ f.pd)
  | .icmpN32 f => some ((65#8) ++ f.g ++ f.src ++ f.a ++ (0#1) ++ f.cond ++ f.pd)
  | .icmpI64 f => some ((66#8) ++ f.g ++ f.src ++ f.a ++ (0#1) ++ f.cond ++ f.pd)
  | .fcmpF32 f => some ((67#8) ++ f.g ++ f.src ++ f.a ++ (0#1) ++ f.cond ++ f.pd)
  | .fcmpH g s a h c p => some ((68#8) ++ g ++ s ++ a ++ h ++ c ++ p)
  | .plop g d a b t => some ((69#8) ++ g ++ (0#3) ++ d ++ (0#4) ++ a ++ b ++ t)
  | .ballot f => some ((70#8) ++ f.g ++ f.d ++ f.a ++ f.b)
  | .vote g p a k => some ((71#8) ++ g ++ (0#3) ++ p ++ a ++ (0#5) ++ k)
  | .lpick f => some ((72#8) ++ f.g ++ f.d ++ f.a ++ f.b)
  | .lmirr f => some ((73#8) ++ f.g ++ f.d ++ f.a ++ f.b)
  | .lrot f => some ((74#8) ++ f.g ++ f.d ++ f.a ++ f.b)
  | .lshift f => some ((75#8) ++ f.g ++ f.d ++ f.a ++ f.b)
  | .lfold g d a o => some ((76#8) ++ g ++ d ++ a ++ (0#3) ++ o)
  | .lpeer f => some ((77#8) ++ f.g ++ f.d ++ f.a ++ f.b)
  | .swr g s a => some ((78#8) ++ g ++ (0#1) ++ s ++ a ++ (112#7))
  | .mov f => some ((80#8) ++ f.g ++ f.d ++ f.a ++ (112#7))
  | .mov64 f => some ((81#8) ++ f.g ++ f.d ++ f.a ++ (112#7))
  | .rdlane g s a b => some ((82#8) ++ g ++ (0#1) ++ s ++ a ++ b)
  | .cvt g d a s m c => some ((83#8) ++ g ++ d ++ a ++ s ++ m ++ c)
  | .cvtpkH2 f => some ((84#8) ++ f.g ++ f.d ++ f.a ++ f.b)
  | .cvtpkB2 f => some ((85#8) ++ f.g ++ f.d ++ f.a ++ f.b)
  | .cvtpkE4 f => some ((86#8) ++ f.g ++ f.d ++ f.a ++ f.b)
  | .cvtpkE5 f => some ((87#8) ++ f.g ++ f.d ++ f.a ++ f.b)
  | .qpk4 f => some ((88#8) ++ f.g ++ f.d ++ f.a ++ f.b)
  | .qupk4 g d a i => some ((89#8) ++ g ++ d ++ a ++ (0#4) ++ i)
  | .qscale f => some ((90#8) ++ f.g ++ f.d ++ f.a ++ f.b)
  | .requant f => some ((91#8) ++ f.g ++ f.d ++ f.a ++ f.b)
  | .qpush g q a => some ((96#8) ++ g ++ (0#2) ++ q ++ a ++ (0#7))
  | .qpop g d q e p => some ((97#8) ++ g ++ d ++ (0#3) ++ q ++ (0#3) ++ e ++ p)
  | .qtry g d q p => some ((98#8) ++ g ++ d ++ (0#3) ++ q ++ (0#4) ++ p)
  | .qpeek g d q s => some ((99#8) ++ g ++ d ++ (0#3) ++ q ++ (0#6) ++ s)
  | .qskip g q n => some ((100#8) ++ g ++ (0#2) ++ q ++ (0#7) ++ n)
  | .qflush g q e => some ((101#8) ++ g ++ (0#2) ++ q ++ (0#13) ++ e)
  | .qstat g d q s => some ((102#8) ++ g ++ d ++ (0#3) ++ q ++ (0#4) ++ s)
  | .qeos g q => some ((103#8) ++ g ++ (0#2) ++ q ++ (0#14))
  | .qeosTest g q p => some ((103#8) ++ g ++ (0#2) ++ q ++ (0#10) ++ p ++ (1#1))
  | .rwait f => some ((104#8) ++ f.g ++ (0#6) ++ f.a ++ f.b)
  | .rrel f => some ((105#8) ++ f.g ++ (0#6) ++ f.a ++ f.b)
  | .ldr f => some ((106#8) ++ f.g ++ f.d ++ f.a ++ f.b)
  | .str f => some ((107#8) ++ f.g ++ f.d ++ f.a ++ f.b)
  | .rset f => some ((108#8) ++ f.g ++ (0#6) ++ f.a ++ f.b)
  | .ldB8n f => some ((112#8) ++ f.g ++ f.d ++ f.a ++ f.order ++ f.scope ++ f.cache)
  | .ldB8i f => some ((113#8) ++ f.g ++ f.d ++ f.a ++ f.order ++ f.scope ++ f.cache)
  | .ldB16n f => some ((114#8) ++ f.g ++ f.d ++ f.a ++ f.order ++ f.scope ++ f.cache)
  | .ldB16i f => some ((115#8) ++ f.g ++ f.d ++ f.a ++ f.order ++ f.scope ++ f.cache)
  | .ldB32 f => some ((116#8) ++ f.g ++ f.d ++ f.a ++ f.order ++ f.scope ++ f.cache)
  | .ldB64 f => some ((117#8) ++ f.g ++ f.d ++ f.a ++ f.order ++ f.scope ++ f.cache)
  | .ldB128 f => some ((118#8) ++ f.g ++ f.d ++ f.a ++ f.order ++ f.scope ++ f.cache)
  | .stB8 f => some ((119#8) ++ f.g ++ f.d ++ f.a ++ f.order ++ f.scope ++ f.cache)
  | .stB16 f => some ((120#8) ++ f.g ++ f.d ++ f.a ++ f.order ++ f.scope ++ f.cache)
  | .stB32 f => some ((121#8) ++ f.g ++ f.d ++ f.a ++ f.order ++ f.scope ++ f.cache)
  | .stB64 f => some ((122#8) ++ f.g ++ f.d ++ f.a ++ f.order ++ f.scope ++ f.cache)
  | .stB128 f => some ((123#8) ++ f.g ++ f.d ++ f.a ++ f.order ++ f.scope ++ f.cache)
  | .ldqB32 f => some ((124#8) ++ f.g ++ (0#2) ++ f.q ++ f.a ++ (0#5) ++ f.cache)
  | .ldqB64 f => some ((125#8) ++ f.g ++ (0#2) ++ f.q ++ f.a ++ (0#5) ++ f.cache)
  | .ldqB16 f => some ((126#8) ++ f.g ++ (0#2) ++ f.q ++ f.a ++ (0#5) ++ f.cache)
  | .stqB32 f => some ((127#8) ++ f.g ++ (0#2) ++ f.q ++ f.a ++ f.order ++ f.scope ++ f.cache)
  | .stqB64 f => some ((128#8) ++ f.g ++ (0#2) ++ f.q ++ f.a ++ f.order ++ f.scope ++ f.cache)
  | .stqB16 f => some ((129#8) ++ f.g ++ (0#2) ++ f.q ++ f.a ++ f.order ++ f.scope ++ f.cache)
  | .ldfe g d a x => some ((130#8) ++ g ++ d ++ a ++ (0#5) ++ x)
  | .stfe g d a x => some ((131#8) ++ g ++ d ++ a ++ (0#5) ++ x)
  | .pref g a c => some ((132#8) ++ g ++ (0#6) ++ a ++ (0#5) ++ c)
  | .discard g d a s => some ((133#8) ++ g ++ d ++ a ++ (0#2) ++ s ++ (0#2))
  | .wback g d a s c => some ((134#8) ++ g ++ d ++ a ++ (0#2) ++ s ++ c)
  | .fence g o s => some ((135#8) ++ g ++ (0#13) ++ o ++ s ++ (0#2))
  | .stream g i => some ((136#8) ++ g ++ (0#2) ++ i ++ (0#14))
  | .aaddI32 f => some ((144#8) ++ f.g ++ f.d ++ f.a ++ f.order ++ f.scope ++ (0#2))
  | .aaddI64 f => some ((145#8) ++ f.g ++ f.d ++ f.a ++ f.order ++ f.scope ++ (0#2))
  | .aaddF32 f => some ((146#8) ++ f.g ++ f.d ++ f.a ++ f.order ++ f.scope ++ (0#2))
  | .aaddB2 f => some ((147#8) ++ f.g ++ f.d ++ f.a ++ f.order ++ f.scope ++ (0#2))
  | .aminI32 f => some ((148#8) ++ f.g ++ f.d ++ f.a ++ f.order ++ f.scope ++ (0#2))
  | .aminN32 f => some ((149#8) ++ f.g ++ f.d ++ f.a ++ f.order ++ f.scope ++ (0#2))
  | .amaxI32 f => some ((150#8) ++ f.g ++ f.d ++ f.a ++ f.order ++ f.scope ++ (0#2))
  | .amaxN32 f => some ((151#8) ++ f.g ++ f.d ++ f.a ++ f.order ++ f.scope ++ (0#2))
  | .aand f => some ((152#8) ++ f.g ++ f.d ++ f.a ++ f.order ++ f.scope ++ (0#2))
  | .aor f => some ((153#8) ++ f.g ++ f.d ++ f.a ++ f.order ++ f.scope ++ (0#2))
  | .axor f => some ((154#8) ++ f.g ++ f.d ++ f.a ++ f.order ++ f.scope ++ (0#2))
  | .axchB32 f => some ((155#8) ++ f.g ++ f.d ++ f.a ++ f.order ++ f.scope ++ (0#2))
  | .axchB64 f => some ((156#8) ++ f.g ++ f.d ++ f.a ++ f.order ++ f.scope ++ (0#2))
  | .acasB32 f => some ((157#8) ++ f.g ++ f.d ++ f.a ++ f.order ++ f.scope ++ (0#2))
  | .acasB64 f => some ((158#8) ++ f.g ++ f.d ++ f.a ++ f.order ++ f.scope ++ (0#2))
  | .aincb f => some ((159#8) ++ f.g ++ f.d ++ f.a ++ f.order ++ f.scope ++ (0#2))
  | .bra f => some ((160#8) ++ f.g ++ f.off)
  | .bru f => some ((161#8) ++ f.g ++ f.off)
  | .call f => some ((162#8) ++ f.g ++ f.off)
  | .ret g => some ((163#8) ++ g ++ (0#20))
  | .jmpi g a => some ((164#8) ++ g ++ (0#6) ++ a ++ (0#7))
  | .mergeat f => some ((165#8) ++ f.g ++ f.off)
  | .merge g => some ((166#8) ++ g ++ (0#20))
  | .yield g => some ((167#8) ++ g ++ (0#20))
  | .exit g => some ((168#8) ++ g ++ (0#20))
  | .bar g s i => some ((169#8) ++ g ++ (0#14) ++ s ++ i)
  | .bara g s i => some ((170#8) ++ g ++ (0#14) ++ s ++ i)
  | .cbar g => some ((171#8) ++ g ++ (0#20))
  | .sleep g a => some ((172#8) ++ g ++ (0#6) ++ a ++ (112#7))
  | .nop g => some ((173#8) ++ g ++ (0#20))
  | .splitq g d => some ((174#8) ++ g ++ d ++ (14448#14))
  | .gang f => some ((176#8) ++ f.g ++ (0#6) ++ f.a ++ f.b)
  | .mma f => some ((177#8) ++ f.g ++ (0#1) ++ f.full ++ f.c ++ f.a ++ f.b)
  | .mmax f => some ((178#8) ++ f.g ++ (0#1) ++ f.full ++ f.c ++ f.a ++ f.b)
  | .mxt f => some ((179#8) ++ f.g ++ (0#1) ++ f.full ++ f.c ++ f.a ++ f.b)
  | .mxp f => some ((180#8) ++ f.g ++ (0#1) ++ f.full ++ f.c ++ f.a ++ f.b)
  | .mxs f => some ((181#8) ++ f.g ++ (0#1) ++ f.full ++ f.c ++ f.a ++ f.b)
  | .czero g f c => some ((182#8) ++ g ++ (0#1) ++ f ++ c ++ (0#14))
  | .cread f => some ((183#8) ++ f.g ++ f.d ++ f.a ++ f.b)
  | .cwrite f => some ((184#8) ++ f.g ++ f.d ++ f.a ++ f.b)
  | .cdrain f => some ((185#8) ++ f.g ++ (0#1) ++ f.full ++ f.c ++ f.a ++ f.b)
  | .mwait g l f c => some ((186#8) ++ g ++ l ++ f ++ c ++ (0#14))
  | .ofence g => some ((187#8) ++ g ++ (0#20))
  | .tkpass g => some ((188#8) ++ g ++ (0#20))
  | .tkwait g => some ((189#8) ++ g ++ (0#20))
  | .planes f => some ((190#8) ++ f.g ++ f.d ++ f.a ++ f.b)
  | .slay g l a => some ((192#8) ++ g ++ (0#4) ++ l ++ a ++ (0#7))
  | .sfill g e l a => some ((193#8) ++ g ++ (0#2) ++ e ++ l ++ a ++ (0#7))
  | .sdrain g e l a => some ((194#8) ++ g ++ (0#2) ++ e ++ l ++ a ++ (0#7))
  | .swait g m => some ((195#8) ++ g ++ (0#2) ++ m ++ (0#14))
  | .regroup f => some ((196#8) ++ f.g ++ f.d ++ f.a ++ f.b)
  | .ungroup f => some ((197#8) ++ f.g ++ f.d ++ f.a ++ f.b)
  | .spawn g a => some ((198#8) ++ g ++ (0#6) ++ a ++ (112#7))
  | .tsig f => some ((199#8) ++ f.g ++ (0#6) ++ f.a ++ f.b)
  | .twaitFull f => some ((200#8) ++ f.g ++ f.d ++ f.a ++ (112#7))
  | .twaitEmpty f => some ((200#8) ++ f.g ++ f.d ++ f.a ++ (113#7))
  | .preempt g i => some ((201#8) ++ g ++ i)
  | .rldB32 f => some ((208#8) ++ f.g ++ f.d ++ f.a ++ f.peer)
  | .rldB64 f => some ((209#8) ++ f.g ++ f.d ++ f.a ++ f.peer)
  | .rstB32 f => some ((210#8) ++ f.g ++ f.d ++ f.a ++ f.peer)
  | .rstB64 f => some ((211#8) ++ f.g ++ f.d ++ f.a ++ f.peer)
  | .raaddI64 f => some ((212#8) ++ f.g ++ f.d ++ f.a ++ f.peer)
  | .racasB64 f => some ((213#8) ++ f.g ++ f.d ++ f.a ++ f.peer)
  | .rldqB32 g q a p => some ((214#8) ++ g ++ (0#2) ++ q ++ a ++ p)
  | .rldqB64 g q a p => some ((215#8) ++ g ++ (0#2) ++ q ++ a ++ p)
  | .xldq g q a h => some ((216#8) ++ g ++ (0#2) ++ q ++ a ++ (2#2) ++ h ++ (0#1))
  | .mcst f => some ((217#8) ++ f.g ++ f.d ++ f.a ++ f.peer)
  | .coll f => some ((218#8) ++ f.g ++ (0#6) ++ f.a ++ f.b)
  | .cwait f => some ((219#8) ++ f.g ++ f.d ++ f.a ++ (112#7))
  | .viewq f => some ((220#8) ++ f.g ++ f.d ++ f.a ++ f.b)
  | .rfence g => some ((221#8) ++ g ++ (0#20))
  | .viewctlJoin f => some ((222#8) ++ f.g ++ f.d ++ f.a ++ (112#7))
  | .viewctlLeave f => some ((222#8) ++ f.g ++ f.d ++ f.a ++ (113#7))
  | .viewctlInit g d a b => some ((222#8) ++ g ++ d ++ a ++ (2#2) ++ b ++ (0#1))
  | .trap g a => some ((224#8) ++ g ++ (0#6) ++ a ++ (0#7))
  | .bkpt g => some ((225#8) ++ g ++ (0#20))
  | .rdsr g d m => some ((226#8) ++ g ++ d ++ (0#7) ++ m)
  | .wrsr g a m => some ((227#8) ++ g ++ (0#6) ++ a ++ m)
  | .rett g => some ((228#8) ++ g ++ (0#20))
  | .clock g d => some ((229#8) ++ g ++ d ++ (0#14))
  | .egrel f => some ((230#8) ++ f.g ++ f.d ++ f.a ++ f.b)
  | .tlbinvJob g => some ((231#8) ++ g ++ (0#20))
  | .tlbinvPage g a => some ((231#8) ++ g ++ (2#8) ++ a ++ (1#8))
  | .tlbinvAll g => some ((231#8) ++ g ++ (2#20))
  | .icinvCore g => some ((232#8) ++ g ++ (0#20))
  | .icinvDevice g => some ((232#8) ++ g ++ (1#20))
  | .haltt g => some ((233#8) ++ g ++ (0#20))
  | .clause w a b p v => some ((240#8) ++ w ++ a ++ b ++ p ++ v)
  | .immL p => some ((244#8) ++ p)
  | .immH p => some ((245#8) ++ p)
  | .reservedOpcode w => some w
  | .splitRotation .. => none
  | .sleepWake .. => none
  | .loadComplete .. => none
  | .storePerformed .. => none
  | .ldqLanding .. => none
  | .qdeadTimeout .. => none
  | .pageRequestEnter .. => none
  | .pageAnswer .. => none
  | .boundaryMove .. => none
  | .eccUncorrectable .. => none
  | .streamStoreRelease .. => none
  | .matrixGrant .. => none
  | .passComplete .. => none
  | .runnelCommandStart .. => none
  | .fillGranuleLand .. => none
  | .sdrainWritesDone .. => none
  | .cdrainGranuleWrite .. => none
  | .cbarSwap .. => none
  | .exchangeStoreLand .. => none
  | .columnGroupRepair .. => none
  | .taskPublish .. => none
  | .sluiceWriteReport .. => none
  | .taskDispatch .. => none
  | .placementWindow .. => none
  | .taskComplete .. => none
  | .forcedSaveBound .. => none
  | .saveStart .. => none
  | .frameComplete .. => none
  | .teamRestore .. => none
  | .jobStop .. => none
  | .trapDelivery .. => none
  | .remoteFaultDelivery .. => none
  | .mcastpartDelivery .. => none
  | .instructionFetch .. => none
  | .coreRetire .. => none
  | .hbmChannelSpare .. => none
  | .hostMemoryAccess .. => none
  | .egressWindowRead .. => none
  | .bar0RegisterWrite .. => none
  | .pwrstateWrite .. => none
  | .tlbcmdDropJob .. => none
  | .tlbcmdDropAll .. => none
  | .jobslotValidate .. => none
  | .jobslotInvalidate .. => none
  | .cmdqStart .. => none
  | .cmdqResume .. => none
  | .cmdqStop .. => none
  | .cmdqNotify .. => none
  | .phaseReread .. => none
  | .cmdPublish .. => none
  | .cmdStopJob .. => none
  | .cmdResumeJob .. => none
  | .cmdDiscardJob .. => none
  | .keyInstall .. => none
  | .keyEmpty .. => none
  | .egringOpen .. => none
  | .egringClose .. => none
  | .egringHcurWrite .. => none
  | .dbgReqOff .. => none
  | .dbgReqObserve .. => none
  | .dbgReqHalt .. => none
  | .dbghalt .. => none
  | .dbgresume .. => none
  | .lifecycleOwn .. => none
  | .lifecycleLock .. => none
  | .lifecycleUnlock .. => none
  | .attestationReport .. => none
  | .boot .. => none
  | .moduleReset .. => none
  | .selfTestDone .. => none
  | .idleEntry .. => none
  | .idleWake .. => none
  | .powerOff .. => none
  | .thermalGate .. => none
  | .thermalTrip .. => none
  | .portTraining .. => none
  | .linkRekey .. => none
  | .windowReceive .. => none
  | .windowPadTimeout .. => none
  | .wavelengthSpare .. => none
  | .rankDownNotice .. => none
  | .cgroupWrite .. => none
  | .remoteRequest .. => none
  | .remoteResponse .. => none
  | .remoteRequestLost .. => none
  | .multicastComplete .. => none
  | .ueRmaRequest .. => none
  | .uewinOpen .. => none
  | .uewinClose .. => none
  | .ueReadResponse .. => none
  | .collectivePacket .. => none
  | .cstepTimeout .. => none
  | .suspect .. => none
  | .propose .. => none
  | .accept .. => none
  | .commit .. => none
  | .agreeTimeout .. => none
  | .joinRequest .. => none
  | .collectiveComplete .. => none
  | .initAgreement .. => none
  | .darkLink .. => none
  | .packetDeliveryContextFail .. => none

/-- The bytes of a word instruction as the hardware stores them. -/
def encodeBytes (i : Instr) : Option (List Byte) := (encode i).map bytesOfWord

/-- What the decoder reads from an instruction whose bits are w, as the host numbers them: words little-endian, the first at the lowest address. -/
def decodeTableWord (_nbits w : Nat) : Option Instr :=
  match decode (bytesOfWord (BitVec.ofNat 32 w)) with
  | .ok (i, _) => some i
  | .error _ => none

end Sys2Proof
end

