-- ==== Sys2Proof/Machine/Place.lean ====
section
/-! DEFINITION. A team as it comes into being at placement (spec/02 R56, spec/10 R268-R271): warps, queues, rings, scratchpad, and the rest at its start value. -/

namespace Sys2Proof.Machine

/-- The first split of a warp: SEQ 0, every lane, PC at the slice entry, no header (R56, R60). -/
def Split.first (entry : DWord) (now : Nat) (latch : Word) : Split :=
  { seq := 0, parent := none, pc := entry, mpc := 0, mask := BitVec.allOnes 32, arrived := 0, arm := false, st := .live
    setA := 15, setB := 15, blk := 0, latch := latch, immRun := 0, wake := none, arrival := none, since := now }

/-- No halt yet. -/
def HaltRecord.reset : HaltRecord := { slots := [none, none], setA := 15, setB := 15, arm := false, mpc := 0 }
def McastStatus.reset : McastStatus := { bits := 0, fails := 0, pending := [] }

/-- A warp at its start (R56). The latch is undefined: a free value that nothing reads before an IMM word (R30). -/
def Warp.start (role : Role) (index nregs : Nat) (entry : DWord) (sregs : List Word) (quadrant privSlot spillBase now : Nat)
    (latch : Word) : Warp :=
  { role := role, index := index, vregs := List.replicate nregs (List.replicate 32 0), sregs := sregs
    preds := List.replicate 7 0, flags := List.replicate 12 0, exited := 0, seqCtr := 1
    table := [Split.first entry now latch], spilled := [], slots := [⟨some 0, 0⟩, ⟨none, 0⟩]
    streamId := 0, streamCtr := List.replicate 16 0, peerCtr := [], quadrant := quadrant, privSlot := privSlot
    spillBase := spillBase, atPoint := none, rfault := none, mcast := McastStatus.reset, halt := HaltRecord.reset, cond := .none }

/-- A queue at placement (R145, R269): empty, every lane FREE. -/
def Queue.start (num : Nat) (word : DWord) (base : Nat) : Queue :=
  { num := num, width := BitVec.ofNat 2 (bitsOf word 1 2), dir := bitOf word 0, prod := bitsOf word 11 5
    cons := bitsOf word 16 5, base := base, cap := bitsOf word 3 8 + 1, head := 0, count := 0, eos := false, lastinv := 0
    entries := List.replicate (bitsOf word 3 8 + 1) QEntry.empty }

/-- A ring of a ring word (R52, R269). -/
def Ring.ofWord (num : Nat) (word : DWord) : Ring :=
  { num := num, off := bitsOf word 0 14 * 16, slotSize := bitsOf word 14 13 * 16, count := bitsOf word 27 12 + 1 }

def TrapRegs.reset : TrapRegs :=
  { cause := 0, addrLo := 0, addrHi := 0, split := 0, skid := 0, cause2 := 0, pc := 0, pc2 := 0 }
def TrapSide.reset : TrapSide :=
  { regs := TrapRegs.reset, handler := none, skid := none, warp := none, second := ⟨0, 0, 0, 0, none⟩, hsave := [0, 0, 0, 0], keyovr := 0, held := false }
def SaveSide.reset (frame : Nat) (relaunched : Bool) : SaveSide :=
  { request := none, why := none, missing := [], answered := [], refused := [], frame := frame, parts := 0, qdead := 0
    relaunched := relaunched, corrupt := false, saved := none }
def Gang.reset : Gang := { members := 0, word := none, vals := [], arrived := [], num := 0 }
def Barrier.reset : Barrier := { next := 0, pending := [] }

/-- Where a placement puts the parts of a footprint (R270). -/
structure Slots where
  core : Nat
  scrBase : Nat
  queueBases : List Nat
  tiles : List Nat
  frame : Nat
  spillBases : List Nat
  privSlots : List Nat
  quadrants : List Nat
  deriving DecidableEq, Repr

/-- A team as placed: access warps 0 upward, then execute warps (R270, R317). Scratchpad contents are undefined, free values of the tag (R164). -/
def Team.start (id : Nat) (i : Ident) (p : Slots) (sregs : List Word) (now tag : Nat) (relaunched : Bool) : Team :=
  let k := i.kern
  let warp (n : Nat) : Warp :=
    let acc := decide (n < k.teamA)
    Warp.start (if acc then .access else .execute) (if acc then n else n - k.teamA) (if acc then k.regsA else k.regsE)
      (if acc then k.entryA else k.entryE) sregs (p.quadrants.getD (n - k.teamA) 0) (p.privSlots.getD n 0)
      (p.spillBases.getD n 0) now ((Config.freeBits tag n).setWidth 32)
  { id := id, ident := i, status := .resident, core := p.core
    warps := (List.range (k.teamA + k.teamE)).map warp
    queues := (List.range k.queues.length).zip k.queues |>.map (fun x => Queue.start x.2.1 x.2.2 (p.queueBases.getD x.1 0))
    rings := k.rings.map (fun r => Ring.ofWord r.1 r.2)
    scr := { base := p.scrBase, size := k.scratch, exch := k.exch, bytes := { cells := [], fill := .free tag }
             full := { cells := [], fill := .zero }, secondLive := false, xpass := false, unfenced := [], held := [] }
    mtx := { tiles := p.tiles, gangs := [Gang.reset, Gang.reset], token := 0, layouts := [none, none, none, none] }
    bars := List.replicate 16 Barrier.reset, regroup := [], regroups := 0
    trap := TrapSide.reset, save := SaveSide.reset p.frame relaunched, colls := List.replicate 8 .free, stopped := [], order := id, past := 0 }

end Sys2Proof.Machine
end

