-- ==== Sys2Proof/Machine/Fetch.lean ====
section
/-! DEFINITION. Fetching an instruction word (spec/01 R4, spec/11 R323) and placing one word for the next step to run. -/

namespace Sys2Proof.Machine

/-- A word an instruction cache still holds for a VA, if the replacement the manual leaves open lets it be used (R323). -/
def icacheWord (s : State) (core job va : Nat) (fresh : Word) : Word :=
  match (s.core core).icache.find? (fun e => e.job == job && e.va == va) with
  | some e => if e.word = fresh then fresh else if Config.freeBool s.freeTag va then e.word else fresh
  | none => fresh

/-- What a fetch meets: a word (with the translation it used), a trap at the word, or a missing page. -/
inductive Fetched where
  | word (w : Word) (e : TlbEntry)
  | trap (i : TrapInfo)
  | miss (page : Nat)

/-- The fetch of the word at a split's PC: GLOBAL only, with execute permission, through L2 (R316, R320, R323). An enabled KEYOVR does not apply to the fetches of the handler that enabled it (DESIGN CHOICE, notes/assumptions/49.md: R320 speaks of accesses). -/
def fetchWord (s : State) (t : Team) (p : Split) : Fetched :=
  let va := p.pc.toNat
  if va ≥ globalTop then .trap (trapAddr causePROT va (lowestLane p.mask))
  else match translate s { job := t.ident.job, core := some t.core, keyovr := none } va .x with
    | .fault cause => .trap (trapAddr cause va (lowestLane p.mask))
    | .miss => .miss (pageOf va)
    | .ok m => .word (icacheWord s t.core t.ident.job va (BitVec.ofNat 32 (readPhysNat s m.slot m.pa 4))) m.entry

/-- A fetched word and its translation are held in the core's instruction cache and TLB (R321, R323). -/
def noteFetch (s : State) (t : Team) (va : Nat) (w : Word) (e : TlbEntry) : State :=
  let s := noteTlb s { job := t.ident.job, core := some t.core, keyovr := none } [e]
  s.updCore t.core (fun c =>
    if c.icache.any (fun x => x.job == t.ident.job && x.va == va && x.word == w) then c
    else { c with icache := { job := t.ident.job, va := va, word := w } ::
                    c.icache.filter (fun x => !(x.job == t.ident.job && x.va == va)) })

/-- Opcodes only execute warps may issue (R35). -/
def executeOpcode (o : Nat) : Bool :=
  decide (0x20 ≤ o ∧ o < 0x40) || o == 0x43 || o == 0x44 || decide (0xB0 ≤ o ∧ o < 0xC0) || o == 0xC4 || o == 0xC5

/-- Where installWord puts its word: VA and PA alike. -/
def installVa : Nat := 0x1000
/-- The level-0 table of installWord's job; its level-1 table follows 2 MiB above. -/
def installRoot : Nat := 0x4000000000
/-- The kernel of installWord's team: one warp of 64 registers in the role that may issue the word. -/
def installKernel (exe : Bool) : Kernel :=
  { kdesc := 0, livetab := 0, nlive := 0, entryA := BitVec.ofNat 64 installVa, entryE := BitVec.ofNat 64 installVa
    teamA := if exe then 0 else 1, teamE := if exe then 1 else 0, regsA := 64, regsE := 64, acc := 0, scratch := 0
    exch := 0, spill := 64, queues := [], rings := [] }

/-- Writes n bytes of a number straight to HBM under slot 0's key. -/
def putHbm (s : State) (pa n v : Nat) : State := (bytesAt pa (leBytes n v)).foldl (fun s b => writeHbm s 0 b.1 b.2) s

/-- The state with one word placed where the next step fetches: job 1 in job slot 0 with one identity-mapped GiB, the word at installVa, its stacks and core 0 ready, and one team of one warp whose split stands at the word; the agenda lets that split issue next. It stands for the host's loading and the dispatcher's placement of a program (notes/assumptions/10.md). -/
def installWord (s : State) (nbits w : Nat) : State :=
  let exe := executeOpcode (w / 2 ^ 24 % 256)
  let slot : BitVec 512 := BitVec.ofNat 512 (installRoot * 2 ^ 64 + 2 ^ 63 + 2 ^ 32)
  let id := s.nextId
  let ident : Ident := { task := id + 1, linear := 0, x := 0, y := 0, z := 0, gx := 1, gy := 1, gz := 1, job := 1, prio := 0
                         depth := 0, launch := id + 2, member := 0, kern := installKernel exe }
  let slots : Slots := { core := 0, scrBase := 0, queueBases := [], tiles := [], frame := 0x7F00000000
                         spillBases := [0x7F00200000], privSlots := [0]
                         quadrants := [0] }
  let s := { s with nextId := id + 3, agenda := .issue id 0 0 :: s.agenda
                    teams := Team.start id ident slots (List.replicate 32 0) s.clock s.freeTag false :: s.teams }
  let s := s.updPkg (fun p => { p with jobs := cellsSet p.jobs 0 slot, ready := p.ready ||| 0x1FE00000001 })
  let s := s.updCore 0 (fun c => { c with ready := true })
  let s := putHbm s installRoot 8 (installRoot + 0x200000 + 3)
  let s := putHbm s (installRoot + 0x200000) 8 0x3F
  putHbm s installVa 4 (w % 2 ^ nbits)

end Sys2Proof.Machine
end

