-- ==== Sys2Proof/Machine/Cycle.lean ====
section
/-! DEFINITION. What a cycle of the clock does by itself, and the issue of one live split (spec/02 R69-R78, spec/05 R150-R151, spec/11 R298-R299, R304, R312). -/

namespace Sys2Proof.Machine

/-- A team is queue-stalled (R151). -/
def queueStalled (t : Team) : Bool :=
  t.status == .resident && t.warps.any (fun w => !w.done) &&
  t.warps.all (fun w => w.done ||
    (w.splits.all (fun p => !p.ready) && w.splits.all (fun p => p.blk == 0 || p.blk == 2))) &&
  t.queues.all (fun q => q.entries.all (fun e => e.lanes.all (fun l => l.st != .inflight && l.st != .refetch)))

/-- Some lane reserved by an LDQ, RLDQ or XLDQ of the warp is still INFLIGHT or REFETCH (R150). -/
def readsOutstanding (t : Team) (w : Warp) : Bool :=
  t.queues.any (fun q => isProducer q w && q.entries.any QEntry.draining)

/-- Bits 13:7 of an instruction of opcode o are operand a (R5 to R8). -/
def readsA (o : Nat) : Bool :=
  decide (o ≤ 0x44) || decide (0x46 ≤ o ∧ o ≤ 0x4E) || decide (0x50 ≤ o ∧ o ≤ 0x5B) || decide (0x68 ≤ o ∧ o ≤ 0x6C) ||
    decide (0x70 ≤ o ∧ o ≤ 0x7B) || decide (0x82 ≤ o ∧ o ≤ 0x86) || decide (0x90 ≤ o ∧ o ≤ 0x9F) || o == 0xA4 || o == 0xAC ||
    decide (0xB0 ≤ o ∧ o ≤ 0xB9) || o == 0xBE || decide (0xC0 ≤ o ∧ o ≤ 0xC2) || decide (0xC4 ≤ o ∧ o ≤ 0xC8) ||
    decide (0xD0 ≤ o ∧ o ≤ 0xD5) || decide (0xD9 ≤ o ∧ o ≤ 0xDE) || o == 0xE0 || o == 0xE3 || o == 0xE6
/-- Bits 6:0 of an instruction of opcode o are operand b, or PEER: format A and F, but for the rows that give them another use (R5, R8, R20). -/
def readsB (o : Nat) : Bool :=
  decide (o ≤ 0x1E) || decide (0x20 ≤ o ∧ o ≤ 0x39) || decide (0x3C ≤ o ∧ o ≤ 0x3E) || o == 0x46 || decide (0x48 ≤ o ∧ o ≤ 0x4B) || o == 0x4D ||
    o == 0x52 || decide (0x54 ≤ o ∧ o ≤ 0x58) || decide (0x5A ≤ o ∧ o ≤ 0x5B) || decide (0x68 ≤ o ∧ o ≤ 0x6C) ||
    decide (0xB0 ≤ o ∧ o ≤ 0xB9) || o == 0xBE || decide (0xC4 ≤ o ∧ o ≤ 0xC7) || decide (0xD0 ≤ o ∧ o ≤ 0xD5) ||
    decide (0xD9 ≤ o ∧ o ≤ 0xDC) || o == 0xE6

/-- The queues an instruction pops, in operand order, and the queue it fills. -/
def queueUse (w : Word) : List Nat × List Nat :=
  let o := bitsOf w 24 8
  match decodeWord w with
  | .qpush _ q a => ((specQueue a).toList, [q.toNat])
  | .qpop _ _ q _ _ => ([q.toNat], [])
  | .qtry _ _ q _ => ([q.toNat], [])
  | .qskip _ q _ => ([q.toNat], [])
  | .ldqB16 f => ([], [f.q.toNat])
  | .ldqB32 f => ([], [f.q.toNat])
  | .ldqB64 f => ([], [f.q.toNat])
  | .rldqB32 _ q _ _ => ([], [q.toNat])
  | .rldqB64 _ q _ _ => ([], [q.toNat])
  | .xldq _ q a _ => ((specQueue a).toList, [q.toNat])
  | .stqB16 f => ([f.q.toNat], [])
  | .stqB32 f => ([f.q.toNat], [])
  | .stqB64 f => ([f.q.toNat], [])
  | _ => ((if readsA o then (specQueue (w.extractLsb' 7 7)).toList else []) ++ (if readsB o then (specQueue (w.extractLsb' 0 7)).toList else []), [])

/-- The consumer word of the unit a split stands in, past its IMM words. -/
def unitWord (s : State) (t : Team) (p : Split) : Nat → Option Word
  | 0 => none
  | n + 1 =>
    match fetchWord s t p with
    | .word w _ => if bitsOf w 24 8 = 0xF4 ∨ bitsOf w 24 8 = 0xF5 then unitWord s t { p with pc := p.pc + 4 } n else some w
    | _ => none

/-- A split of an access warp blocked on the pop of an empty E→A queue; an STQ that waits for its data is none, nor a QSKIP, which pops nothing (R150, R176). -/
def starved (s : State) (t : Team) (p : Split) : Bool :=
  p.blk == 2 && (match unitWord s t { p with pc := p.unitPc } 3 with
    | none => false
    | some w => !(decide (0x7F ≤ bitsOf w 24 8 ∧ bitsOf w 24 8 ≤ 0x81)) && !(match decodeWord w with | .qskip _ _ _ => true | _ => false) &&
        (queueUse w).1.any (fun n => match t.queue? n with | some q => q.dir && q.count == 0 | none => false))

/-- An access warp in loss of decoupling: a split starved, and no read of the warp on its way (R150). -/
def lostDecoupling (s : State) (t : Team) (w : Warp) : Bool :=
  w.role == .access && (t.status == .resident || t.status == .halted || t.status == .saving) && w.splits.any (starved s t) && !readsOutstanding t w

/-- The access warps of a core in loss of decoupling. -/
def dcplNow (s : State) (core : Nat) : List (Nat × Nat) :=
  (s.teams.filter (fun t => t.core == core)).flatMap (fun t =>
    ((List.range t.warps.length).zip t.warps).filterMap (fun x => if lostDecoupling s t x.2 then some (t.id, x.1) else none))

/-- Counts n cycles of decoupling loss on a core (R150). -/
def countDcpl (s : State) (n core : Nat) : State :=
  let now := dcplNow s core
  let new := now.filter (fun x => !(s.core core).dcplWas.contains x)
  if now.isEmpty ∧ (s.core core).dcplWas.isEmpty then s
  else s.updCore core (fun c => { c with
    dcplCyc := if now.isEmpty then c.dcplCyc else c.dcplCyc + BitVec.ofNat 48 n
    dcplEvt := c.dcplEvt + BitVec.ofNat 48 new.length
    dcplWas := now })

/-- A sleeping split whose time has come is ready again (R138). -/
def Split.wakeAt (now : Nat) (p : Split) : Split :=
  match p.wake with
  | some t => if t ≤ now then p.wakeUp else p
  | none => p

/-- Splits of a team whose wake time has passed. -/
def Team.wakeDue (now : Nat) (t : Team) : Team :=
  { t with warps := t.warps.map (fun w => { w with table := w.table.map (Split.wakeAt now), spilled := w.spilled.map (Split.wakeAt now) }) }

/-- Some split of a team sleeps. -/
def Team.sleeps (t : Team) : Bool := t.warps.any (fun w => w.splits.any (fun p => p.wake.isSome))

/-- No team resident and no task waiting, the quiet that idle entry counts (R343). -/
def quiet (s : State) : Bool :=
  !s.teams.any Team.placed && !s.die.tasks.any (fun t => t.st == .waiting)

/-- n cycles of the clock: CLOCK, QDEAD counts, decoupling counters, sleeps, quiet time. -/
def cycles (s : State) (n : Nat) : State :=
  if !clockRuns s then s
  else
    let s := (List.range s.cores.length).foldl (fun s c => countDcpl s n c) s
    let now := s.clock + n
    let s := { s with
      clock := now
      teams := s.teams.map (fun (t : Team) =>
        let t := if t.sleeps then (t.wakeDue now).refill now else t
        let k := if queueStalled t then t.save.qdead + n else 0
        if k = t.save.qdead then t else { t with save := { t.save with qdead := k } }) }
    s.updPkg (fun p => { p with idleFor := if quiet s then p.idleFor + n else 0 })

/-- The split a live slot holds. -/
def slotSplit (w : Warp) (slot : Nat) : Option Split :=
  match w.slots[slot]? with
  | some { seq := some q, issued := _ } => findSplit w.table q
  | _ => none

/-- Whether a split of a team may issue now: a resident team's live splits, unless the warp stands at its save point or the split sleeps; a halted team's handler, or a split still in its skid (R299, R304). -/
def mayIssue (t : Team) (wi : Nat) (w : Warp) (p : Split) : Bool :=
  p.st == .live && p.wake.isNone && w.atPoint.isNone && (match t.status with
  | .resident => true
  | .halted =>
    (match t.trap.handler with
     | none => false
     | some h => (h.warp == wi && h.seq == p.seq) ||
       (match t.trap.skid with
        | none => false
        | some l => l.any (fun k => k.warp == wi && k.seq == p.seq && !k.stopped && decide (k.count < Config.maxSkid))))
  | _ => false)

/-- A split whose multicast has replays to issue is within its issue unit still (R360, R368). -/
def replaying (s : State) (id wi : Nat) (q : BitVec 16) : Bool :=
  s.fab.mcasts.any (fun m => m.team == id && m.warp == wi && m.seq == q && !m.todo.isEmpty)

/-- The context of split q of warp wi of team t. -/
def ctxAt (s : State) (t : Team) (wi : Nat) (q : BitVec 16) : Option Ctx :=
  match t.warps[wi]? with
  | none => none
  | some w => (findSplit w.table q).map (fun p => { s := s, t := t, w := w, p := p, wi := wi })

/-- A split is the one a failure that split q of the warp at position k asked for is delivered to (R363): q itself; the oldest of that warp when q is gone; when the warp has finished, the oldest split of the team's lowest-indexed unfinished access warp. -/
def deliversTo (t : Team) (wi : Nat) (w : Warp) (p : Split) (k : Nat) (q : BitVec 16) : Bool :=
  let oldest := (oldestOf (w.splits.filter (fun x => x.st != .waitingMerge))).map (·.seq) == some p.seq
  if k = wi then p.seq == q || ((w.split? q).isNone && oldest)
  else match t.warps[k]? with
    | none => false
    | some x => x.done && oldest &&
        (((List.range t.warps.length).zip t.warps).find? (fun y => y.2.role == .access && !y.2.done)).map (·.1) == some wi

/-- A remote failure waits for this split: the warp whose record holds it, and the record (R363). -/
def faultDue (t : Team) (wi : Nat) (w : Warp) (p : Split) : Option (Nat × FaultRecord) :=
  ((List.range t.warps.length).zip t.warps).findSome? (fun x => match x.2.rfault with
    | some r => if !r.delivered && deliversTo t wi w p x.1 r.seq then some (x.1, r) else none
    | none => none)

/-- A requested MCASTPART waits for this split (R369): the warp it stands in, and the oldest that does with its count. -/
def mcastDue (t : Team) (wi : Nat) (w : Warp) (p : Split) : Option (Nat × BitVec 16 × Nat) :=
  ((List.range t.warps.length).zip t.warps).findSome? (fun x =>
    (x.2.mcast.pending.find? (fun m => deliversTo t wi w p x.1 m.1)).map (fun m => (x.1, m)))

/-- A trap before the unit a split stands at, which consumes an announcement in warp k; a split in skid only stops (R299). -/
def deliverBefore (c : Ctx) (k : Nat) (spend : Warp → Warp) (i : TrapInfo) : State :=
  if c.t.trap.handler.isSome && !c.inHandler then takeTrap c i c.p.unitPc
  else
    takeTrap { c with
      w := if k = c.wi then spend c.w else c.w
      t := { c.t with warps := updAt c.t.warps k spend } } i c.p.unitPc

/-- Delivers a remote failure before the unit the split stands at (R363). -/
def deliverFault (c : Ctx) (k : Nat) (r : FaultRecord) : State :=
  deliverBefore c k (fun w => { w with rfault := some { r with delivered := true } }) (trapAddr r.cause r.addr.toNat r.lane)

/-- Delivers MCASTPART before the unit the split stands at (R369). -/
def deliverMcast (c : Ctx) (k : Nat) (m : BitVec 16 × Nat) : State :=
  deliverBefore c k (fun w => { w with mcast := { w.mcast with pending := w.mcast.pending.erase m } })
    { cause := causeMCASTPART, lo := BitVec.ofNat 32 m.2, hi := 0, lane := 0 }

/-- One issue of a live slot: a failure waiting for the split is delivered; else the word at its PC is fetched, and run executes what it decodes to. A slot that may not issue changes nothing. -/
def issueSlot (run : Instr → State → Host.Outcome State Fault Refusal) (s : State) (id wi slot : Nat) :
    Host.Outcome State Fault Refusal :=
  match s.team? id with
  | none => .next s
  | some t =>
    match t.warps[wi]? with
    | none => .next s
    | some w =>
      match slotSplit w slot with
      | none => .next s
      | some p =>
        if !mayIssue t wi w p || replaying s id wi p.seq then .next s
        else
          let c : Ctx := { s := s, t := t, w := w, p := p, wi := wi }
          match faultDue t wi w p, mcastDue t wi w p with
          | some (k, r), _ => .next (deliverFault c k r)
          | none, some (k, m) => .next (deliverMcast c k m)
          | none, none =>
            match fetchWord s t p with
            | .trap i => .next (takeTrap c i p.unitPc)
            | .miss page => .next (switchOutTeam s t [page])
            | .word word e =>
              run (decodeWord word) { noteFetch s t p.pc.toNat word e with cur := some { team := id, warp := wi, seq := p.seq } }

/-- An issue that finds the word of its unit in no line of the instruction cache: the split waits for it with BLK 9 (R61, R323). A fetch that faults or misses its page is met at once. -/
def missSlot (run : Instr → State → Host.Outcome State Fault Refusal) (s : State) (id wi slot : Nat) : Host.Outcome State Fault Refusal :=
  match s.team? id with
  | none => .next s
  | some t =>
    match (t.warps[wi]?).bind (fun w => (slotSplit w slot).map (fun p => (w, p))) with
    | none => .next s
    | some (w, p) =>
      let held := (s.core t.core).icache.any (fun e => e.job == t.ident.job && e.va == p.pc.toNat)
      match fetchWord s t p with
      | .word _ _ =>
        if mayIssue t wi w p && p.blk == 0 && !held then .next (blockUnit { s := s, t := t, w := w, p := p, wi := wi } 9)
        else issueSlot run s id wi slot
      | _ => issueSlot run s id wi slot

/-! ## Both live splits in one cycle (R74, R78) -/

/-- A split of the team has raised an exception in its unit: its handler has begun, or the team, whose job gives no handler, has ended (R297). -/
def raisedIn (s s' : State) (id wi : Nat) (q : BitVec 16) : Bool :=
  match s.team? id, s'.team? id with
  | some t, some t' => t.trap.handler.isNone && (match t'.trap.handler with
    | some h => h.warp == wi && h.seq == q
    | none => t.status == .resident && t'.status == .finished)
  | _, _ => false

/-- The splits of both live slots of a warp, older first. -/
def bothSlots (s : State) (id wi : Nat) : Option ((Nat × Split) × (Nat × Split)) :=
  match s.team? id with
  | none => none
  | some t =>
    match t.warps[wi]? with
    | none => none
    | some w =>
      match slotSplit w 0, slotSplit w 1 with
      | some a, some b => some (if olderSeq a.seq b.seq then ((0, a), (1, b)) else ((1, b), (0, a)))
      | _, _ => none

/-- The queue an instruction flushes. -/
def flushedBy (w : Word) : Option Nat := match decodeWord w with | .qflush _ q _ => some q.toNat | _ => none

/-- The place of an instruction among those of its cycle: pops before flushes before reservations (spec/06 R181), set-empty before set-full (spec/05 R166), matrix requests before MWAIT before CDRAIN (spec/09 R259). -/
def cycleRank (w : Word) : Nat :=
  match decodeWord w with
  | .qflush _ _ _ => 1
  | .mwait _ _ _ _ => 2
  | .rset _ => 2
  | .stfe _ _ _ x => if x = 1 ∨ x = 3 then 2 else 0
  | .cdrain _ => 3
  | _ => if (queueUse w).2.isEmpty then 0 else 2

/-- Of the instructions of two splits, older first, the younger's takes effect first: it pops a queue that the older's flushes, each acting on the queue as the cycle began, or its place comes before (spec/06 R181). -/
def youngerFirst (a b : Word) : Bool :=
  let flushes (x y : Word) : Bool := match flushedBy x with | some q => (queueUse y).1.contains q | none => false
  if flushes a b then true else if flushes b a then false else decide (cycleRank b < cycleRank a)

/-- The word at a split's PC, when it can be fetched. -/
def wordAt (s : State) (id : Nat) (p : Split) : Option Word :=
  match s.team? id with
  | none => none
  | some t => match fetchWord s t p with
    | .word w _ => some w
    | _ => none

/-- A reservation in a queue that had no room as the cycle began waits for the next (R181). -/
def reserveWaits (s : State) (id : Nat) (p : Split) : Bool :=
  match s.team? id, wordAt s id p with
  | some t, some w => (queueUse w).2.any (fun n => match t.queue? n with | some q => !q.canReserve | none => false)
  | _, _ => false

/-- A failure announced for a split waits for it (R363, R369); it is no exception of the split's own unit. -/
def announced (s : State) (id wi : Nat) (p : Split) : Bool :=
  match s.team? id with
  | none => false
  | some t => match t.warps[wi]? with
    | none => false
    | some w => (faultDue t wi w p).isSome || (mcastDue t wi w p).isSome

/-- The stopped drain of warp wi that the unit which led from s to s' has reported (R266). -/
def reportedDrain (s s' : State) (id : Nat) : Option Nat :=
  match s.team? id, s'.team? id with
  | some t, some t' => (t.stopped.find? (fun d => !t'.stopped.any (fun x => x.id == d.id))).map (·.id)
  | _, _ => none

/-- The machine as the younger split's unit meets it, with the drain that the older's trap has reported no longer to report (R266). -/
def afterReport (s : State) (id wi : Nat) (drain : Option Nat) : State :=
  s.updTeam id (fun t => match t.warps[wi]? with
    | none => t
    | some w => let (t, w) := reportDrain t w drain; { t with warps := updAt t.warps wi (fun _ => w) })

/-- What the exception of the younger split has done, its trap left aside (R78): a TRAP has popped its operand and its lanes have acquired what that entry released, a CWAIT freed its slot. The drain a SWAIT is to report counts as reported only at the delivery (R266). s is the machine before the cycle, s2 as the younger's unit left it. -/
def secondEffects (s s2 : State) (id : Nat) (drain : Option Nat) : State :=
  match s2.team? id with
  | none => s
  | some t2 => if drain.isSome then s else (s.updCore t2.core (fun c => { c with poison := (s2.core t2.core).poison })).updTeam id (fun t => { t with
      queues := t2.queues, colls := t2.colls, past := t2.past, scr := { t.scr with unfenced := t2.scr.unfenced }
      warps := (t.warps.zip t2.warps).map (fun x => { x.1 with flags := x.2.flags }) })

/-- The older split's trap with the younger's recorded as the secondary (R78): the younger's cause, the PC of its unit, and what it will report. The younger stops before its unit, with skid 0 and what it had announced there (R299). -/
def recordSecond (s1 s2 : State) (id wi : Nat) (b : Split) (drain : Option Nat) : State :=
  match s2.team? id with
  | none => s1
  | some t2 =>
    let r2 := t2.trap.regs
    s1.updTeam id (fun t =>
      if t.trap.handler.isNone then t
      else { t with
        warps := updAt t.warps wi (fun w => w.updSplit b.seq (fun p => { p with arrival := (t2.trap.handler.map (·.arrival)).getD p.arrival }))
        trap := { t.trap with
          regs := { t.trap.regs with cause2 := BitVec.ofNat 32 (b.seq.toNat * 65536 + 256 + bitsOf r2.cause 0 8), pc2 := b.unitPc }
          skid := t.trap.skid.map (fun l => l.map (fun k => if k.warp = wi ∧ k.seq = b.seq then { k with stopped := true } else k))
          second := { lo := r2.addrLo, hi := r2.addrHi, lane := bitsOf r2.cause 8 5, pc := r2.pc, drain := drain } } })

/-- Both live splits of a warp issue in one cycle (R74). Their effects follow one another: by the order the rules give instructions of one cycle, else the older split's first, so that the younger's value remains (R121, R264). When both raise, the older is primary, met where the younger's exception has had its effects, and the younger's cause is recorded (R78). A SWAIT of the younger that has nothing left to report once the older's has reported is no exception: it issues in skid. -/
def issuePair (run : Instr → State → Host.Outcome State Fault Refusal) (s : State) (id wi : Nat) :
    Host.Outcome State Fault Refusal :=
  match bothSlots s id wi with
  | none => issueSlot run s id wi 0
  | some ((i, a), (j, b)) =>
    let swap := match wordAt s id a, wordAt s id b with | some x, some y => youngerFirst x y | _, _ => false
    let (f, g) := if swap then ((j, b), (i, a)) else ((i, a), (j, b))
    match issueSlot run s id wi f.1 with
    | .next s1 =>
      let r1 := raisedIn s s1 id wi f.2.seq && !announced s id wi f.2
      match issueSlot run s id wi g.1 with
      | .next s2 =>
        if r1 && raisedIn s s2 id wi g.2.seq && !announced s id wi g.2 then
          let old := if swap then s2 else s1
          match issueSlot run (afterReport s id wi (reportedDrain s old id)) id wi j with
          | .next young' =>
            let drain := reportedDrain (afterReport s id wi (reportedDrain s old id)) young' id
            if !raisedIn s young' id wi b.seq then issueSlot run old id wi j
            else
              let sy := secondEffects s young' id drain
              match issueSlot run sy id wi i with
              | .next old' => .next (recordSecond (if raisedIn sy old' id wi a.seq then old' else old) young' id wi b drain)
              | o => o
          | o => o
        else if reserveWaits s id g.2 then .next s1
        else issueSlot run s1 id wi g.1
      | o => o
    | o => o

/-- Whether the unit of the split in slot 0 of a warp, standing at stood, gets past its blocking condition; n words at most. -/
def unitRuns (run : Instr → State → Host.Outcome State Fault Refusal) (id wi : Nat) (q : BitVec 16) (stood : DWord) :
    Nat → State → Bool
  | 0, _ => true
  | n + 1, s =>
    match issueSlot run s id wi 0 with
    | .next s2 =>
      match ((s2.team? id).bind (fun t => t.warps[wi]?)).bind (fun w => w.split? q) with
      | none => true
      | some p => if p.immRun > 0 then unitRuns run id wi q stood n s2 else p.blk == 0 || p.unitPc != stood
    | _ => true

/-- The word of a split that waits with BLK 9 has come, or its fetch now meets a fault or a missing page, which the split is to take. -/
def wordCame (s : State) (t : Team) (p : Split) : Bool :=
  match fetchWord s t p with
  | .word _ _ => (s.core t.core).icache.any (fun e => e.job == t.ident.job && e.va == p.pc.toNat)
  | _ => true

/-- A split outside its slot or in it that waits for its word (R61). -/
def fetchers (s : State) : List (Nat × Split) :=
  s.teams.flatMap (fun t => if t.placed && t.status != .restoring then
    t.warps.flatMap (fun w => (w.table.filter (fun p => p.blk == 9)).map (fun p => (t.id, p))) else [])

/-- The line that a split waiting with BLK 9 misses arrives in its core's instruction cache, whether the split holds a live slot or not (R61, R323). -/
def fetchArrives (id : Nat) (p : Split) (s : State) : State :=
  match s.team? id with
  | none => s
  | some t => match fetchWord s t p with
    | .word w e => if wordCame s t p then s else noteFetch s t p.pc.toNat w e
    | _ => s

/-- Whether the blocked split p of warp wi would issue its instruction now; one that waits for its word (BLK 9), whether the word has come. -/
def wouldRun (run : Instr → State → Host.Outcome State Fault Refusal) (s : State) (t : Team) (wi : Nat) (p : Split) : Bool :=
  if p.blk = 9 then wordCame s t p
  else
  let p' := { p with st := .live, blk := 0 }
  unitRuns run t.id wi p.seq p.unitPc 3 (s.updTeam t.id (fun t => { t with warps := updAt t.warps wi (fun w =>
    { w with table := putSplit w.table p', slots := [⟨some p.seq, 0⟩, ⟨none, 0⟩] }) }))

/-- A split that waits on a condition, in a live slot or not. -/
def Split.waits (p : Split) : Bool := (p.st == .blocked || (p.st == .live && p.blk != 0)) && p.wake.isNone

/-- The split of warp wi is watched for the end of its block: in a halted team only the handler's runs (R304). -/
def watched (t : Team) (wi : Nat) (p : Split) : Bool :=
  match t.status with
  | .resident => true
  | .halted => (match t.trap.handler with | some h => h.warp == wi && h.seq == p.seq | none => false)
  | _ => false

/-- Blocked splits become ready when their instruction would no longer block (R69, R71): those outside the live slots wait for one, counted from when they last held one (R70). -/
def wakeBlocked (run : Instr → State → Host.Outcome State Fault Refusal) (s : State) : State :=
  s.teams.foldl (fun s t =>
    if !t.placed then s
    else ((List.range t.warps.length).zip t.warps).foldl (fun s x =>
      (x.2.table.filter (fun p => p.waits && watched t x.1 p)).foldl (fun s p =>
        if wouldRun run s t x.1 p then
          s.updTeam t.id (fun t => { t with warps := updAt t.warps x.1 (fun w =>
            let w := w.updSplit p.seq (fun p => if p.st = .live then { p with blk := 0 }
              else { p with st := .parked, blk := 0 })
            if t.status = .resident then w.refill s.clock else w) })
        else s) s) s) s

/-- Every live slot of the machine whose split is not blocked: team, warp, slot. -/
def allSlots (s : State) : List (Nat × Nat × Nat) :=
  s.teams.flatMap (fun t => ((List.range t.warps.length).zip t.warps).flatMap (fun x =>
    (List.range x.2.slots.length).filterMap (fun i =>
      match slotSplit x.2 i with
      | some p => if mayIssue t x.1 x.2 p && !replaying s t.id x.1 p.seq && p.blk == 0 then some (t.id, x.1, i) else none
      | none => none)))

/-- A split in the middle of an issue unit goes on before any other (R33). -/
def midUnit (s : State) : Option (Nat × Nat × Nat) :=
  (allSlots s).find? (fun x =>
    match s.team? x.1 with
    | none => false
    | some t => match (t.warps[x.2.1]?).bind (fun w => slotSplit w x.2.2) with
      | some p => decide (p.immRun > 0)
      | none => false)

end Sys2Proof.Machine
end

