-- ==== Sys2Proof/Machine/Placement.lean ====
section
/-! DEFINITION. Footprints, the placement window, gang launches, and the choice of victims (spec/10 R270-R272, R284, R287, spec/05 R142, R144, R162-R164, spec/08 R225, R243). -/

namespace Sys2Proof.Machine

/-- What a team holds on its core and in the pools (R270). -/
structure Held where
  core : Nat
  kern : Kernel
  scr : Nat × Nat
  queues : List (Nat × Nat)
  tiles : List Nat
  quads : List Nat
  spill : Nat × Nat
  frame : Nat
  job : Nat
  privs : List Nat
  deriving DecidableEq, Repr

/-- 64-byte units of a queue's region (R144). -/
def queueUnits (w : DWord) : Nat := queueBytes w / 64

/-- Warps of a kernel's team. -/
def kernelWarps (k : Kernel) : Nat := k.teamA + k.teamE

/-- What a team holds. Execute warps that have finished do not count for the quadrant choice (DESIGN CHOICE, notes/assumptions/49.md: R142 counts resident warps and does not say whether these are). -/
def Team.held (t : Team) : Held :=
  { core := t.core, kern := t.ident.kern, scr := (t.scr.base, t.scr.size + 2 * t.scr.exch)
    queues := (t.queues.zip t.ident.kern.queues).map (fun x => (x.1.base, queueUnits x.2.2))
    tiles := t.mtx.tiles, quads := (t.warps.filter (fun w => w.role == .execute && !w.done)).map (·.quadrant)
    spill := ((t.warps.map (·.spillBase)).foldl min (t.warps.head?.map (·.spillBase) |>.getD 0), kernelWarps t.ident.kern * spillBytes t.ident.kern)
    frame := t.save.frame, job := t.ident.job, privs := t.warps.map (·.privSlot) }

/-- What the teams on cores hold there. -/
def coreHeld (s : State) : List Held := (s.teams.filter (holdsFootprint s)).map Team.held
/-- What teams hold in the pools: a saved team keeps its spill areas, frame and private slots (R270). -/
def poolHeld (s : State) : List Held := (s.teams.filter (fun t => holdsFootprint s t || t.status == .saved)).map Team.held

/-- A sum over what a core's teams hold. -/
def sumOn (h : List Held) (core : Nat) (f : Kernel → Nat) : Nat := ((h.filter (fun x => x.core == core)).map (fun x => f x.kern)).foldl (· + ·) 0

/-- Free execute warp-registers of a core (R141). -/
def freeExecute (h : List Held) (core : Nat) : Nat := 4096 - sumOn h core (fun k => k.teamE * k.regsE)

/-- Regions for queues, one after another (R144). -/
def queueRegions (taken : List (Nat × Nat)) : List DWord → Option (List Nat)
  | [] => some []
  | w :: r =>
    match findRoom taken (queueUnits w) 1 4096 with
    | none => none
    | some b => (queueRegions ((b, queueUnits w) :: taken) r).map (fun l => b :: l)

/-- Quadrants for n execute warps: each to the one with the fewest, the lower on a tie (R142). -/
def quadrantsFor (busy : List Nat) : Nat → List Nat
  | 0 => []
  | n + 1 =>
    let q := (firstBy (fun a b => decide ((busy.filter (· == a)).length ≤ (busy.filter (· == b)).length)) [0, 1, 2, 3]).getD 0
    q :: quadrantsFor (q :: busy) n

/-- Room on one core for a kernel's team (R271): scratchpad base, queue bases, tiles, quadrants. Of the free ranges, regions and tiles the team takes the lowest, and so of the pools' below (DESIGN CHOICE, notes/assumptions/48.md: R270 gives no policy). -/
def fitOn (s : State) (h : List Held) (k : Kernel) (core : Nat) : Option (Nat × List Nat × List Nat × List Nat) :=
  let c := s.core core
  let mine := h.filter (fun x => x.core == core)
  let cl := s.cluster (clusterOf core)
  let busy := (h.filter (fun x => clusterOf x.core == clusterOf core)).flatMap (·.tiles)
  let free := (List.range cl.tiles.length).filter (fun i => !busy.contains i)
  if !c.ready || c.retired || (decide (k.acc > 0) && !cl.ready) || decide (free.length < k.acc) then none
  else if sumOn h core (fun k => k.teamA * k.regsA) + k.teamA * k.regsA > 1024 ∨
      sumOn h core (fun k => k.teamE * k.regsE) + k.teamE * k.regsE > 4096 ∨
      sumOn h core (fun k => k.teamA) + k.teamA > 32 ∨ sumOn h core (fun k => k.teamE) + k.teamE > 96 then none
  else match findRoom (mine.map (·.scr)) (k.scratch + 2 * k.exch) 16 0x40000,
      queueRegions (mine.flatMap (·.queues)) (k.queues.map (·.2)) with
    | some b, some qs => some (b, qs, free.take k.acc, quadrantsFor (mine.flatMap (·.quads)) k.teamE)
    | _, _ => none

/-- A pool register (spec/12 R332): base and bytes. -/
def poolBase (r : DWord) : Nat := bitsOf r 16 24 * 65536
def poolSize (r : DWord) : Nat := bitsOf r 0 16 * 65536

/-- The lowest private slots of a job not in use (R317). -/
def freePrivs (h : List Held) (job n count : Nat) : Option (List Nat) :=
  let busy := (h.filter (fun x => x.job == job)).flatMap (·.privs)
  let l := ((List.range (min count (busy.length + n))).filter (fun i => !busy.contains i)).take n
  if l.length = n then some l else none

/-- Spill areas, frame and private slots for a new team (R270): base of its spill areas, frame, slots. -/
def poolRoom (s : State) (h : List Held) (k : Kernel) (job : Nat) : Option (Nat × Nat × List Nat) :=
  let n := kernelWarps k
  let sp := h.map (fun x => (x.spill.1 - poolBase s.pkg.spillPool, x.spill.2))
  let fr := h.map (fun x => (x.frame - poolBase s.pkg.framePool, frameBytes))
  let count := match jobSlot s job with | some j => slotPcount j | none => 0
  match findRoom sp (n * spillBytes k) 32 (poolSize s.pkg.spillPool), findRoom fr frameBytes 65536 (poolSize s.pkg.framePool),
      freePrivs h job n count with
  | some a, some f, some p => some (poolBase s.pkg.spillPool + a, poolBase s.pkg.framePool + f, p)
  | _, _, _ => none

/-- One team to place: a saved one, or a new one of a linear index, and the cores it may go to. -/
inductive Unit1 where
  | saved (id : Nat)
  | fresh (linear : Nat) (again : Bool)
  deriving DecidableEq, Repr

/-- Where each team of a unit goes. -/
structure Site where
  unit : Unit1
  slots : Slots
  deriving DecidableEq, Repr

/-- Room for one team of a unit on a core, beside what is held; the kernel's needs and the pools' for a new team. -/
def siteFor (s : State) (onCore inPool : List Held) (t : Task) (k : Kernel) (u : Unit1) (core : Nat) : Option Site :=
  match fitOn s onCore k core with
  | none => none
  | some (b, qs, tiles, quads) =>
    let slots (spill frame : Nat) (privs : List Nat) : Slots :=
      { core := core, scrBase := b, queueBases := qs, tiles := tiles, frame := frame
        spillBases := (List.range (kernelWarps k)).map (fun i => spill + i * spillBytes k), privSlots := privs, quadrants := quads }
    match u with
    | .saved id => (s.team? id).map (fun x => { unit := u, slots := slots (Team.held x).spill.1 x.save.frame (x.warps.map (·.privSlot)) })
    | .fresh _ _ => (poolRoom s inPool k t.job).map (fun p => { unit := u, slots := slots p.1 p.2.1 p.2.2 })

/-- What a site holds. -/
def Site.held (t : Task) (k : Kernel) (x : Site) : Held :=
  { core := x.slots.core, kern := k, scr := (x.slots.scrBase, k.scratch + 2 * k.exch)
    queues := (x.slots.queueBases.zip k.queues).map (fun q => (q.1, queueUnits q.2.2))
    tiles := x.slots.tiles, quads := x.slots.quadrants
    spill := (x.slots.spillBases.headD 0, kernelWarps k * spillBytes k), frame := x.slots.frame, job := t.job, privs := x.slots.privSlots }

/-- All members of a unit on the cores given for them, or none (R243, R272). -/
def sitesOn (s : State) (t : Task) (k : Kernel) : List Held → List Held → List (Unit1 × Nat) → Option (List Site)
  | _, _, [] => some []
  | h, p, (u, core) :: r =>
    match siteFor s h p t k u core with
    | none => none
    | some x =>
      let mine := x.held t k
      let p := match u with | .saved _ => p | .fresh _ _ => mine :: p
      (sitesOn s t k (mine :: h) p r).map (fun l => x :: l)

/-- A unit: its teams with their gang members, and whether it is a gang launch. -/
structure PlaceUnit where
  teams : List (Unit1 × Nat)
  gang : Bool
  pinned : Option Nat
  deriving DecidableEq, Repr

/-- Saved and not held: no page missing, not stopped, not held for debug (R286, R345). -/
def runnable (s : State) (t : Team) : Bool :=
  t.status == .saved && t.save.missing.isEmpty && !t.trap.held && !s.die.stoppedJobs.contains t.ident.job

/-- The teams of a task's gang launch that have not ended. -/
def liveLaunch (s : State) (t : Team) : List Team :=
  s.teams.filter (fun x => x.ident.launch == t.ident.launch && x.status != .finished && x.status != .killed)

/-- The gang mates of a team of a task that have not ended. -/
def matesOf (s : State) (t : Task) (g l : Nat) : List Team :=
  if g = 0 then [] else s.teams.filter (fun x => x.ident.task == t.id && x.ident.linear != l && x.ident.linear / g == l / g &&
    x.status != .finished && x.status != .killed)

/-- A killed team may be relaunched: its operations have ended, and its mates stand on a cluster, where it joins them: a launch is one unit on one cluster (spec/08 R243). While they are saved it waits for them. -/
def relaunchable (s : State) (t : Task) (g l : Nat) : Bool :=
  !s.teams.any (fun x => x.ident.task == t.id && x.ident.linear == l && outstanding s x.id) &&
    (matesOf s t g l).all (fun x => x.status == .resident || x.status == .halted || x.status == .restoring)

/-- The next unit of a task (R272, R284): runnable saved teams first, a gang launch whole; then a team to relaunch; then the grid in ascending order. A failed task places no unplaced team (R280). -/
def nextUnit (s : State) (t : Task) : Option PlaceUnit :=
  let g := recGang t.record
  let saved := s.teams.filter (fun x => x.ident.task == t.id && runnable s x && (liveLaunch s x).all (runnable s))
  match firstBy (fun a b => decide (a.ident.linear ≤ b.ident.linear)) saved with
  | some x =>
    if g = 0 then some { teams := [(.saved x.id, 0)], gang := false, pinned := none }
    else some { teams := (liveLaunch s x).map (fun y => (.saved y.id, y.ident.member)), gang := true, pinned := none }
  | none =>
    if t.st ≠ .dispatched then none
    else match t.relaunch.find? (relaunchable s t g) with
      | some l =>
        some { teams := [(.fresh l true, if g = 0 then 0 else l % g)], gang := decide (g ≠ 0)
               pinned := ((matesOf s t g l).head?).map (fun x => clusterOf x.core) }
      | none =>
        if t.gx * t.gy * t.gz ≤ t.nextTeam then none
        else if g = 0 then some { teams := [(.fresh t.nextTeam false, 0)], gang := false, pinned := none }
        else some { teams := (List.range g).map (fun m => (.fresh (t.nextTeam + m) false, m)), gang := true, pinned := none }

/-- Candidate places of a unit in the order of R271: cores by free execute registers, or clusters for a gang. -/
def candidates (h : List Held) (u : PlaceUnit) : List (List (Unit1 × Nat)) :=
  if u.gang then
    let free (k : Nat) : Nat := ((List.range 4).map (fun i => freeExecute h (4 * k + i))).foldl (· + ·) 0
    let ks := match u.pinned with | some k => [k] | none => List.range 6
    (sortBy (fun a b => decide (free a > free b) || (free a == free b && decide (a ≤ b))) ks).map (fun k =>
      u.teams.map (fun x => (x.1, 4 * k + x.2 % 4)))
  else
    (sortBy (fun a b => decide (freeExecute h a > freeExecute h b) || (freeExecute h a == freeExecute h b && decide (a ≤ b)))
      (List.range 24)).map (fun c => u.teams.map (fun x => (x.1, c)))

/-- Where a unit fits now. -/
def placeOf (s : State) (t : Task) (k : Kernel) (u : PlaceUnit) : Option (List Site) :=
  (candidates (coreHeld s) u).findSome? (sitesOn s t k (coreHeld s) (poolHeld s))

/-! ## Arguments (R271) -/

/-- The 32 scalars a new team starts with, or what keeps the argument block from being read. -/
def argScalars (s : State) (t : Task) : Sum Item (List Word) :=
  if recArgs t.record = 0 then .inr (List.replicate 32 0)
  else match recordRange s t (recArgs t.record) 64 .r with
    | .miss ps => .inl (.wait (ps.getD 0 0))
    | .fault cause => .inl (.bad cause.toNat)
    | .ok ps _ =>
      let n := leNat (homeBytes s ps)
      .inr ((List.range 16).map (fun i => BitVec.ofNat 32 (n / 2 ^ (32 * i))) ++ List.replicate 16 0)

/-- A unit holds a team that has not run yet. -/
def PlaceUnit.fresh (u : PlaceUnit) : Bool := u.teams.any (fun x => match x.1 with | .fresh _ _ => true | _ => false)

/-- A task with a next unit that fits, its arguments at hand: what the next window places. -/
def placeable (s : State) (t : Task) : Option (PlaceUnit × List Site × List Word) :=
  if !jobRuns s t.job then none
  else match nextUnit s t, t.kern with
    | some u, some k =>
      match (if u.fresh then argScalars s t else .inr []) with
      | .inr sregs => (placeOf s t k u).map (fun l => (u, l, sregs))
      | .inl _ => none
    | _, _ => none

/-! ## The window -/

/-- The boundary a core needs with some sites added (R162). -/
def boundaryFor (s : State) (core : Nat) (sites : List Site) (k : Kernel) : Nat :=
  (sites.filter (fun x => x.slots.core == core)).foldl
    (fun m x => max m (roundUp (x.slots.scrBase + k.scratch + 2 * k.exch) 0x4000)) (neededBoundary s core)

/-- Tiles granted to a team: contents undefined (R225). -/
def grantTiles (s : State) (core id : Nat) (tiles : List Nat) : State :=
  (s.updCluster (clusterOf core) (fun c => { c with
    tiles := ((List.range c.tiles.length).zip c.tiles).map (fun x =>
      if tiles.contains x.1 then { Tile.reset (s.freeTag + x.1) with owner := some id } else x.2) }))

/-- One team of a unit put on its core: a new one at its start, a saved one restoring. -/
def placeTeam (s : State) (t : Task) (k : Kernel) (launch member : Nat) (sregs : List Word) (x : Site) : State :=
  match x.unit with
  | .saved id =>
    let s := grantTiles s x.slots.core id x.slots.tiles
    let s := match s.team? id with | some y => writeHeader s y 3 | none => s
    (s.updTeam id (fun y => { y with
      status := .restoring, core := x.slots.core, order := s.nextId
      scr := { y.scr with base := x.slots.scrBase }
      mtx := { y.mtx with tiles := x.slots.tiles }
      queues := (y.queues.zip x.slots.queueBases).map (fun q => { q.1 with base := q.2 })
      warps := ((List.range y.warps.length).zip y.warps).map (fun w =>
        { w.2 with quadrant := x.slots.quadrants.getD (w.1 - k.teamA) 0 }) }))
  | .fresh linear again =>
    let (id, s) := s.fresh
    let s := grantTiles s x.slots.core id x.slots.tiles
    let i : Ident :=
      { task := t.id, linear := linear, x := linear % t.gx, y := linear / t.gx % t.gy, z := linear / (t.gx * t.gy)
        gx := t.gx, gy := t.gy, gz := t.gz, job := t.job, prio := t.prio, depth := t.depth, launch := launch, member := member, kern := k }
    let new := Team.start id i x.slots sregs s.clock (s.freeTag + 64) again
    -- a relaunched team takes the place of the killed one's record; its frame is empty (R314)
    writeHeader ({ s with teams := s.teams.filter (fun y => !(again && y.ident.task == t.id && y.ident.linear == linear && y.status == .killed &&
                        !outstanding s y.id)) ++
                      [new] }) new 0

/-- The launch a relaunched member belongs to. -/
def launchOf (s : State) (t : Task) (u : PlaceUnit) : Option Nat :=
  match u.teams with
  | [(.fresh l true, _)] =>
    (s.teams.find? (fun x => x.ident.task == t.id && x.ident.linear == l)).map (·.ident.launch)
  | _ => none

/-- The unit placed (R272). -/
def placeSites (s : State) (t : Task) (k : Kernel) (u : PlaceUnit) (sites : List Site) (sregs : List Word) : State :=
  let (n, s) := s.fresh
  let launch := (launchOf s t u).getD n
  let s := (sites.zip u.teams).foldl (fun s x => { (placeTeam s t k launch x.2.2 sregs x.1) with freeTag := s.freeTag + 65 }) s
  let s := (dedup (sites.map (fun x => x.slots.core))).foldl (fun s c => s.updCore c (fun x => { x with boundary := neededBoundary s c, raising := none })) s
  s.updTask t.id (fun y => match u.teams with
    | (.fresh l true, _) :: _ => { y with relaunch := y.relaunch.erase l }
    | (.fresh _ false, _) :: _ => { y with nextTeam := y.nextTeam + u.teams.length }
    | _ => y)

/-! ## Victims (R287) -/

/-- Teams that may be saved for a task of priority p: resident, of lower priority, with their whole launch, and no save pending (R286, R287; that a team already to be saved counts for no other task is DESIGN CHOICE, notes/assumptions/48.md). -/
def mayYield (s : State) (p : Nat) (t : Team) : Bool :=
  t.status == .resident && decide (t.ident.prio < p) && (liveLaunch s t).all (fun x => x.status == .resident && x.save.request.isNone)

/-- Tiles are short in the cluster of a core: victims from its other cores would help (R225). -/
def tilesShort (h : List Held) (k : Kernel) (cores : List Nat) : Bool :=
  match cores with
  | [] => false
  | c :: _ => decide (32 < ((h.filter (fun x => clusterOf x.core == clusterOf c)).map (fun x => x.tiles.length)).foldl (· + ·) 0 + cores.length * k.acc)

/-- Victims added one by one, lowest priority first and most recently placed first, until the unit fits. -/
def gatherVictims (s : State) (t : Task) (k : Kernel) (site : List (Unit1 × Nat)) : List Team → List Team → Option (List Team)
  | [], _ => none
  | v :: rest, taken =>
    let cores := site.map (·.2)
    let heldWithout (l : List Team) : List Held :=
      (s.teams.filter (fun x => holdsFootprint s x && !l.any (fun y => y.id == x.id))).map Team.held
    if !cores.contains v.core && !tilesShort (heldWithout taken) k cores then gatherVictims s t k site rest taken
    else
      let taken := taken ++ (liveLaunch s v).filter (fun x => !taken.any (fun y => y.id == x.id))
      if (sitesOn s t k (heldWithout taken) (poolHeld s) site).isSome then some taken
      else gatherVictims s t k site rest taken

/-- The victims for a site. -/
def victimsFor (s : State) (t : Task) (k : Kernel) (site : List (Unit1 × Nat)) : Option (List Team) :=
  let clusters := dedup (site.map (fun x => clusterOf x.2))
  let c := s.teams.filter (fun x => mayYield s t.prio x && clusters.contains (clusterOf x.core))
  gatherVictims s t k site (sortBy (fun a b => decide (a.ident.prio < b.ident.prio) ||
    (a.ident.prio == b.ident.prio && decide (b.order ≤ a.order))) c) []

/-- The site with the fewest victims, the lowest on a tie. -/
def chooseVictims (s : State) (t : Task) (k : Kernel) (u : PlaceUnit) : Option (List Team) :=
  let ks := match u.pinned with | some c => [c] | none => List.range 6
  let sites := if u.gang then ks.map (fun c => u.teams.map (fun x => (x.1, 4 * c + x.2 % 4)))
    else (List.range 24).map (fun c => u.teams.map (fun x => (x.1, c)))
  firstBy (fun a b => decide (a.length ≤ b.length)) (sites.filterMap (victimsFor s t k))

/-- An earlier save for the task is in progress. -/
def savingFor (s : State) (t : Task) : Bool :=
  t.victims.any (fun id => match s.team? id with
    | some x => x.status == .saving || (x.status == .resident && x.save.request.isSome)
    | none => false)

/-- A save request: the bound counter starts (R288). -/
def requestSave (s : State) (id : Nat) (why : SaveWhy) : State :=
  s.updTeam id (fun t => { t with save := { t.save with request := some (s.clock, why) } })

/-- Pre-emption for a unit that fits nowhere (R287). -/
def preemptFor (s : State) (t : Task) (k : Kernel) (u : PlaceUnit) : State :=
  if savingFor s t then s
  else match chooseVictims s t k u with
    | none => s
    | some vs =>
      let s := vs.foldl (fun s v => requestSave s v.id .preempt) s
      s.updTask t.id (fun x => { x with victims := vs.map (·.id) })

/-- The tasks whose teams the dispatcher places, in the order of service (R284). -/
def placedTasks (s : State) : List Task :=
  sortBy servedBefore (s.die.tasks.filter (fun t => t.dispatched && (nextUnit s t).isSome))

/-- A raise of the boundary that some site needs (R163), if any. -/
def raiseNeeded (s : State) (k : Kernel) (sites : List Site) : Option (Nat × Nat) :=
  ((dedup (sites.map (fun x => x.slots.core))).map (fun c => (c, boundaryFor s c sites k))).find? (fun x =>
    decide ((s.core x.1).boundary < x.2))

/-- PLACEMENT_WINDOW (R272): the window of a task. A missing argument page is requested; an unreadable one fails the team (R271). When the task is the first whose next unit fits, the unit is placed, after the boundary has been raised (R163). When its unit fits nowhere, victims may be chosen (R287). -/
def execPlacementWindow (task : Nat) (s : State) : Host.Outcome State Fault Refusal := whenClocked s <|
  match s.task? task with
  | none => .next s
  | some t =>
    match (if t.dispatched && jobRuns s t.job then nextUnit s t else none), t.kern with
    | some u, some k =>
      match (if u.fresh then argScalars s t else .inr []) with
      | .inl (.wait page) => .next (taskWaits s t page)
      | .inl (.bad code) => .next (failTask s task code (match u.teams with | (.fresh l _, _) :: _ => l | _ => 0))
      | .inl .good => .next s
      | .inr sregs =>
        match placeOf s t k u with
        | none => .next (preemptFor s t k u)
        | some sites =>
          -- a task served before this one goes first when its unit fits
          let first := (placedTasks s).find? (fun x => (placeable s x).isSome)
          if (first.map (·.id)) ≠ some task then .next s
          else match raiseNeeded s k sites with
            | some (c, n) => .next (s.updCore c (fun x => { x with raising := some n }))
            | none => .next (placeSites s t k u sites sregs)
    | _, _ => .next s

/-- Lines a core's L1 holds beside its scratchpad (R162): while the boundary is being raised, the range it is to give up is closed (R163). -/
def l1Lines (s : State) (core : Nat) : Nat := Config.arrayLines - max (s.core core).boundary ((s.core core).raising.getD 0) / 128

/-- The dirty lines of a core's L1. -/
def l1Dirty (s : State) (core : Nat) : Nat := ((s.core core).stores.filter (·.l1)).length

/-- BOUNDARY_MOVE (R163): the boundary moves once the last line of the range has been written back and dropped. Which lines lie in the range the spec does not say: the model takes the oldest of those that the rest of L1 has no room for (DESIGN CHOICE, notes/assumptions/48.md). -/
def execBoundaryMove (core : Nat) (s : State) : Host.Outcome State Fault Refusal := whenClocked s <|
  match (s.core core).raising with
  | none => .next s
  | some n => .next (if l1Lines s core < l1Dirty s core then s else s.updCore core (fun c => { c with boundary := max c.boundary n, raising := none }))

end Sys2Proof.Machine
end

