-- ==== Sys2Proof/Machine/CoreEvents.lean ====
section
/-! DEFINITION. Events of a core: rotation and wake-up of splits, completion of loads and stores, landing of queue elements, QDEAD, page requests, soft errors, delivery of traps, fetch (spec/02 R69-R70, spec/05 R146-R155, R169, spec/11 R303, R323, R326-R327). -/

namespace Sys2Proof.Machine

/-- A warp of a team replaced. -/
def updWarp (s : State) (id wi : Nat) (f : Warp → Warp) : State := s.updTeam id (fun t => { t with warps := updAt t.warps wi f })

/-- SPLIT_ROTATION (R69): a live split that is blocked, or has issued its 256 units, gives its slot to a waiting split. -/
def execSplitRotation (id wi slot : Nat) (s : State) : Host.Outcome State Fault Refusal :=
  match s.team? id with
  | none => .next s
  | some t =>
    .next (if t.status ≠ .resident then s else updWarp s id wi (fun w =>
      match w.slots[slot]?, slotSplit w slot with
      | some l, some p => if (p.blk ≠ 0 ∨ Config.rotateUnits ≤ l.issued) ∧ !w.waiting.isEmpty then w.rotate s.clock slot else w
      | _, _ => w.fillSlot s.clock slot))

/-- SLEEP_WAKE (R138): the time of a sleeping split has come. -/
def execSleepWake (id wi q : Nat) (s : State) : Host.Outcome State Fault Refusal :=
  match s.team? id with
  | none => .next s
  | some t =>
    .next ((updWarp s id wi (fun w => w.updSplit (BitVec.ofNat 16 q) (Split.wakeAt s.clock))).updTeam id (fun x =>
      if t.status = .resident then x.refill s.clock else x))

/-- LOAD_COMPLETE (R25): the registers are written and the flag released. -/
def execLoadComplete (op : Nat) (s : State) : Host.Outcome State Fault Refusal := whenClocked s <|
  match s.die.loads.find? (fun l => l.op == op) with
  | none => .next s
  | some l =>
    let s := s.updDie (fun d => { d with loads := d.loads.filter (fun x => x.op != op) })
    let s := updWarp s l.team l.warp (fun w =>
      l.writes.foldl (fun w x => { w with vregs := updAt w.vregs x.1 (fun r => updAt r x.2.1 (fun _ => x.2.2)) }) (w.unbind l.flag))
    .next (opEnded s l.team)

/-- The core and the store of an operation. -/
def findStore (s : State) (op : Nat) : Option (Nat × PStore) :=
  ((List.range s.cores.length).zip s.cores).findSome? (fun x => (x.2.stores.find? (fun st => st.op == op)).map (fun st => (x.1, st)))

/-- STORE_PERFORMED (spec/07 R208): an accepted store reaches its home slice, after earlier ones of its core to the same bytes. -/
def execStorePerformed (op : Nat) (s : State) : Host.Outcome State Fault Refusal := whenClocked s <|
  match findStore s op with
  | none => .next s
  | some (c, st) =>
    .next (if st.stream.isNone && olderFirst (s.core c).stores st then opEnded (performStore s c st) st.team else s)

/-- STREAM_STORE_RELEASE (R326): a slice releases a stream store once its predecessors there have been released. -/
def execStreamStoreRelease (op : Nat) (s : State) : Host.Outcome State Fault Refusal := whenClocked s <|
  match findStore s op with
  | none => .next s
  | some (c, st) =>
    .next (if st.stream.isSome && streamTurn (s.core c).stores st && olderFirst (s.core c).stores st then
      opEnded (performStore s c st) st.team else s)

/-! ## Queue elements -/

/-- Replaces one lane of an entry; the flag of the LDQ is released with the entry's last INFLIGHT lane (R146, R147). A lane of a removed entry is freed instead. -/
def landLane (s : State) (id n slot L : Nat) (l : QLane) : State :=
  match s.team? id with
  | none => s
  | some t =>
    match t.queue? n with
    | none => s
    | some q =>
      let e := q.entries.getD slot QEntry.empty
      let e' := { e with lanes := updAt e.lanes L (fun _ => if q.holds slot then l else QLane.empty) }
      let done := e'.complete
      let s := s.setTeam (t.setQueue (q.setEntry slot (fun _ => if done then { e' with flag := none } else e')))
      if done then (match e.flag with | some (wi, f) => s.unbind id wi (some f) | none => s) else s

/-- The read of a REFETCH lane waits for an entry of the outstanding request table (R143) and for what its lane is to access before it at the same bytes (spec/07 R214, R217). -/
def refetchWaits (s : State) (t : Team) (q : Queue) (slot L : Nat) (l : QLane) : Bool :=
  let e := q.entries.getD slot QEntry.empty
  decide (Config.requestEntries ≤ requestsUsed s t.core) ||
    (mappedBytes s t e.keyovr l.va.toNat (q.bits / 8) .r).any (laneOwed s t e.by_ L e.op).contains

/-- The read of a REFETCH lane, translated afresh (R155), under the KEYOVR its LDQ was issued with (R320). One that finds a poisoned dirty line of L1 reads it without an error, no instruction being at hand that could raise ECCU (DESIGN CHOICE, notes/assumptions/49.md: R169 is silent). -/
def refetchLane (s : State) (t : Team) (q : Queue) (slot L : Nat) (l : QLane) : State :=
  let a : Agent := { job := t.ident.job, core := some t.core, keyovr := (q.entries.getD slot QEntry.empty).keyovr }
  let put (s : State) (l : QLane) : State := landLane s t.id q.num slot L l
  match globalPlaces s a l.va.toNat (q.bits / 8) .r with
  | .ok ps es =>
    if elemL2Poisoned s ps then killTeam s t.id
    else put (noteTlb s a es) { l with st := .valid, data := BitVec.ofNat 64 (readElem (laneView s t.core t.id (q.entries.getD slot QEntry.empty).by_ L) t ps) }
  | .miss pages =>
    -- a page missed again is no longer an answered one (R157)
    let s := (put s { l with st := .pending }).updTeam t.id (fun t => { t with save := { t.save with
      answered := t.save.answered.filter (fun p => !pages.contains p), refused := t.save.refused.filter (fun p => !pages.contains p) } })
    requestPages s t.core t.ident.job (if q.holds slot then pages else [])
  | .fault cause =>
    if q.holds slot then
      let (s, w) := addPoison s t.core t.id q.num L cause l.va
      put s { l with st := .poison, data := w }
    else put s l

/-- LDQ_LANDING (R147): a local lane lands; a REFETCH lane is read again. -/
def execLdqLanding (id n slot L : Nat) (s : State) : Host.Outcome State Fault Refusal := whenClocked s <|
  match s.team? id with
  | none => .next s
  | some t =>
    if !t.placed ∨ t.status = .restoring then .next s
    else match t.queue? n with
    | none => .next s
    | some q =>
      let l := (q.entries.getD slot QEntry.empty).lane L
      .next (match l.st with
        | .inflight => if l.req.isNone then landLane s id n slot L { l with st := .valid } else s
        | .refetch => if refetchWaits s t q slot L l then s else refetchLane s t q slot L l
        | _ => s)

/-! ## QDEAD (R151, R152) -/

/-- The queues a blocked split waits on: those it pops that hold too little or whose entries are held (spec/07 R215), those it fills that are full. -/
def blockedOn (s : State) (t : Team) (p : Split) : List Nat :=
  match unitWord s t { p with pc := p.unitPc } 3 with
  | none => []
  | some w =>
    let pops (w : Word) : Bool := match decodeWord w with | .qskip _ _ _ => false | _ => true
    let need (n : Nat) : Nat := match decodeWord w with | .qskip _ _ k => k.toNat + 1 | _ => ((queueUse w).1.filter (· == n)).length
    (queueUse w).1.filter (fun n => match t.queue? n with | some q => decide (q.count < need n) || (pops w && (List.range (need n)).any (fun i => (q.entryAt i).held s t)) | none => false) ++
      (queueUse w).2.filter (fun n => match t.queue? n with | some q => !q.canReserve | none => false)

/-- The split with SEQ q takes a live slot: a vacant one, else slot 0, whose split gives way (DESIGN CHOICE, notes/assumptions/41.md: R69 gives no such case, R152 delivers QDEAD in a blocked split). -/
def Warp.forceLive (now : Nat) (w : Warp) (q : BitVec 16) : Warp :=
  if w.slots.any (fun l => l.seq == some q) then w
  else match w.split? q with
    | none => w
    | some p =>
      let i := if (w.slots.getD 0 ⟨none, 0⟩).seq.isNone then 0 else if (w.slots.getD 1 ⟨none, 0⟩).seq.isNone then 1 else 0
      let leaving := slotSplit w i
      let w := match leaving with
        | some x => { w with table := putSplit w.table { x with st := if x.blk = 0 then .parked else .blocked, since := now } }
        | none => w
      w.takeSlot i p leaving

/-- The split QDEAD is delivered in (R152): the lowest queue-stalled access warp, else the lowest execute warp; its oldest blocked split. -/
def qdeadSplit (t : Team) : Option (Nat × Split) :=
  let l := ((List.range t.warps.length).zip t.warps).filter (fun x => !x.2.done)
  match l.find? (fun x => x.2.role == .access), l with
  | some (i, w), _ => (oldestOf (w.table.filter (fun p => p.blk == 2))).map (fun p => (i, p))
  | none, (i, w) :: _ => (oldestOf (w.table.filter (fun p => p.blk == 2))).map (fun p => (i, p))
  | none, [] => none

/-- A trap raised in a split by an event: the split takes a live slot and its handler starts. -/
def eventTrap (s : State) (id wi : Nat) (q : BitVec 16) (f : Ctx → State) : State :=
  let s := updWarp s id wi (fun w => w.forceLive s.clock q)
  match s.team? id with
  | none => s
  | some t =>
    match ctxAt s t wi q with
    | none => s
    | some c => f c

/-- QDEAD_TIMEOUT (R151): 4,096 queue-stalled cycles. -/
def execQdeadTimeout (id : Nat) (s : State) : Host.Outcome State Fault Refusal := whenClocked s <|
  match s.team? id with
  | none => .next s
  | some t =>
    if t.save.qdead < Config.qdeadCycles ∨ !queueStalled t then .next s
    else match qdeadSplit t with
      | none => .next s
      | some (wi, p) =>
        let on := t.warps.flatMap (fun w => (w.table.filter (fun x => x.blk == 2)).flatMap (blockedOn s t))
        let mask := (dedup on).foldl (fun n q => n + 2 ^ q) 0
        .next (eventTrap s id wi p.seq (fun c =>
          takeTrap c { cause := causeQDEAD, lo := BitVec.ofNat 32 mask, hi := 0, lane := 0 } c.p.unitPc))

/-- PAGE_REQUEST_ENTER (R154): the longest-waiting page takes a freed entry of the core's table and is requested. -/
def execPageRequestEnter (core : Nat) (s : State) : Host.Outcome State Fault Refusal := whenClocked s <|
  .next (s.updCore core (fun c =>
    match c.waiters with
    | x :: r => if c.pages.length < 64 then { c with waiters := r, pages := c.pages ++ [x] } else c
    | [] => c))

/-! ## Soft errors (R169, R227, R327) -/

/-- The slice of a read-only copy of a line in a crossbar sector (R325). -/
def copySlice (line sector : Nat) : Nat := homeSlice line % 24 + 24 * sector

/-- A line frame of an L2 slice is retired, 64 at most in a slice (R327). -/
def retireFrame (s : State) (h : Nat) : State :=
  let n := (cellsGet s.die.l2retired h).getD 0
  s.updDie (fun d => if n < 64 then { d with l2retired := cellsSet d.l2retired h (n + 1) }
    else { d with l2degraded := if d.l2degraded.contains h then d.l2degraded else d.l2degraded ++ [h] })

/-- A physical byte lies in the private pool slots of a team (R317). -/
def ownsPrivate (s : State) (t : Team) (pa : Nat) : Bool :=
  match jobSlot s t.ident.job with
  | none => false
  | some j => t.warps.any (fun w => decide (slotPpool j + w.privSlot * 32 * slotPsize j ≤ pa ∧ pa < slotPpool j + (w.privSlot + 1) * 32 * slotPsize j))

/-- Cycles within which a second error of a core or of a line frame counts (R327, R348). -/
def errorWindow : Nat := 2 ^ 24

/-- An uncorrectable error in a core: the second within 2^24 cycles makes the core unfit (spec/12 R348). -/
def noteError (s : State) (core : Nat) : State :=
  s.updCore core (fun c => { c with
    lastUe := some s.clock
    unfit := c.unfit || (match c.lastUe with | some t => decide (s.clock - t ≤ errorWindow) | none => false) })

/-- The core whose storage, in use, an error lies in; one in storage that no team owns has no effect but the log (R168). -/
def siteCore (s : State) : EccSite → Option Nat
  | .teamStorage id => (s.team? id).map (·.core)
  | .cleanL1 core _ => some core
  | .dirtyL1 core _ => some core
  | _ => none

/-- A correctable error (R168, R327): corrected and counted, the counters saturating; the second in a line frame of L2 within 2^24 cycles retires the frame. The counters are frozen in Idle, and in Retain held with all else (R344). -/
def correctError (site : SoftError) (s : State) : State :=
  let up (w : Word) : Word := if w = BitVec.allOnes 32 ∨ s.pkg.power = .idle then w else w + 1
  let frame (key slice : Nat) : State :=
    let s' := s.updDie (fun d => { d with l2cerr := updAt d.l2cerr (slice / 24) up, l2errAt := cellsSet d.l2errAt key s.clock })
    match cellsGet s.die.l2errAt key with
    | some t => if s.clock - t ≤ errorWindow then (retireFrame s' slice).updDie (fun d => { d with l2errAt := cellsErase d.l2errAt key }) else s'
    | none => s'
  if !clockRuns s then s else
  match site with
  | .core n => s.updCore n (fun c => { c with cerr := up c.cerr })
  | .l2 line => frame line (homeSlice line)
  | .copy line sector => if s.die.copies.contains (line, sector) then frame (line + 2 ^ 33 * (sector + 1)) (copySlice line sector) else s

/-- ECC_UNCORRECTABLE: storage of a team kills it, storage of none is logged (R168, R227); a clean line is fetched again; a dirty line, which only stores that L1 holds make, is marked poisoned and its data lost. -/
def execEccUncorrectable (site : EccSite) (s : State) : Host.Outcome State Fault Refusal :=
  let s := match siteCore s site with | some core => noteError s core | none => s
  .next (match site with
    -- counted, and nothing else (R168)
    | .unowned core => s.updCore core (fun c => { c with logged := c.logged + 1 })
    | .teamStorage id => killTeam s id
    | .cleanL1 _ _ => s
    | .dirtyL1 core line =>
      let inLine := (s.core core).stores.filter (fun st => st.l1 && st.stream.isNone && st.bytes.any (fun b => b.1 / 128 == line))
      match inLine with
      | [] => s
      | st :: _ =>
        let mine := inLine.filter (fun x => x.key == st.key)
        let s := s.updCore core (fun c => { c with
          poisonL1 := (line, st.team) :: c.poisonL1.filter (fun x => x.1 != line)
          stores := c.stores.filter (fun x => !mine.any (fun y => y.op == x.op)) })
        mine.foldl (fun s x => opEnded (s.unbind x.team x.warp x.flag) x.team) s
    | .tile k i => match ((s.cluster k).tiles.getD i (Tile.reset 0)).owner with
      | some id => killTeam s id
      | none => s.updCluster k (fun c => { c with logged := c.logged + 1 })
    | .cleanL2 line => retireFrame s (homeSlice line)
    | .copyL2 line sector =>
      if s.die.copies.contains (line, sector) then
        (retireFrame s (copySlice line sector)).updDie (fun d => { d with copies := d.copies.filter (· != (line, sector)) })
      else s
    | .dirtyL2 line =>
      if s.die.l2.any (fun x => x.1 % 2 ^ 40 / 128 == line) && !s.die.l2Poison.contains line then
        (retireFrame s (homeSlice line)).updDie (fun d => { d with l2Poison := line :: d.l2Poison })
      else s
    | .pool pa => match s.teams.find? (fun t => (t.placed || t.status == .saved) && (ownsByte t pa || ownsPrivate s t pa)) with
      | some t => killTeam s t.id
      | none => s)

/-! ## Delivery and fetch -/

/-- TRAP_DELIVERY (R303): the handler is entered: no other split of the team skids any further (R299). The registers and the handler's split were set when the trap was accepted. -/
def execTrapDelivery (id : Nat) (s : State) : Host.Outcome State Fault Refusal :=
  .next (s.updTeam id (fun t => if t.trap.handler.isSome then t.endSkid else t))

/-- A live split that may issue and to which due names a failure: the failure is delivered there, before its unit (R69, R363). -/
def deliverLive {α : Type} (s : State) (id : Nat) (due : Team → Nat → Warp → Split → Option α) (f : Ctx → α → State) : State :=
  match s.team? id with
  | none => s
  | some t =>
    let at_ := ((List.range t.warps.length).zip t.warps).findSome? (fun x => x.2.slots.findSome? (fun l =>
      (l.seq.bind (findSplit x.2.table)).bind (fun p =>
        if mayIssue t x.1 x.2 p && p.blk == 0 then (due t x.1 x.2 p).map (fun d => (x.1, p.seq, d)) else none)))
    match at_ with
    | none => s
    | some (wi, q, d) => match ctxAt s t wi q with
      | none => s
      | some c => f c d

/-- REMOTE_FAULT_DELIVERY (R363): the failure warp k has recorded is delivered before the unit its split, in a live slot, stands at. -/
def execRemoteFaultDelivery (id k : Nat) (s : State) : Host.Outcome State Fault Refusal :=
  .next (deliverLive s id (fun t wi w p => (faultDue t wi w p).bind (fun x => if x.1 = k then some x else none))
    (fun c x => deliverFault c x.1 x.2))

/-- MCASTPART_DELIVERY (R369). -/
def execMcastpartDelivery (id k : Nat) (s : State) : Host.Outcome State Fault Refusal :=
  .next (deliverLive s id (fun t wi w p => (mcastDue t wi w p).bind (fun x => if x.1 = k then some x else none))
    (fun c x => deliverMcast c x.1 x.2))

/-- INSTRUCTION_FETCH (R323): the word at a live split's PC is brought into its core's instruction cache; faults wait for the split to reach the word. -/
def execInstructionFetch (id wi slot : Nat) (s : State) : Host.Outcome State Fault Refusal :=
  match s.team? id with
  | none => .next s
  | some t =>
    match (t.warps[wi]?).bind (fun w => slotSplit w slot) with
    | none => .next s
    | some p =>
      .next (match fetchWord s t p with
        | .word w e => if t.placed then noteFetch s t p.pc.toNat w e else s
        | _ => s)

end Sys2Proof.Machine
end

