-- ==== Sys2Proof/Machine/Views.lean ====
section
/-! DEFINITION. Membership views: suspicion, agreement, commit, joining and leaving, and the events of collectives (spec/13 R374-R380, R389). -/

namespace Sys2Proof.Machine

/-- Kinds of agreement message. -/
def msgSuspect : Nat := 0
def msgPropose : Nat := 1
def msgAccept : Nat := 2
def msgCommit : Nat := 3
def msgJoin : Nat := 4

/-- A message of a group in its present state. -/
def viewMsg (s : State) (g : Group) (names : List Nat) : ViewMsg :=
  { group := g.num, view := g.view, src := ownRank s, attempt := g.attempt, bitmap := g.bitmap, names := names, holds := []
    decisions := [], seq := g.seq, leave := false }

/-- Sends a message of agreement: its header with the group and the view it stands at, and the bitmap (R374, R377). -/
def sendView (s : State) (g : Group) (kind dest : Nat) (m : ViewMsg) : State :=
  send s 544 (.agreement (controlHead s dest g.job kind g.num m.view.toNat) kind m)

/-- What an ACCEPT says of the collectives begun here and not complete (R377). -/
def holdsOf (s : State) (g : Nat) : List (BitVec 32 × Bool) :=
  (s.fab.colls.filter (fun c => cdGroup c.desc == g && c.started)).map (fun c => (c.seq, c.result.isSome))

/-- The coordinator as the device sees it: the lowest member it does not suspect and that is not leaving (R377, R380). -/
def coordinatorOf (g : Group) : Option Nat :=
  (membersOf g.bitmap).find? (fun r => !g.suspects.contains r && g.joiner != some (r, true))

/-- The coordinator as R377 has it, leaver or not: whose proposals a member accepts. -/
def lowestTrusted (g : Group) : Option Nat := (membersOf g.bitmap).find? (fun r => !g.suspects.contains r)

/-- Requests that a commit leaves waiting: those its bitmap does not serve, but for a joiner it names, one that did not accept (R378, notes/assumptions/35.md). -/
def Group.unserved (g : Group) (m : ViewMsg) : List (Nat × Bool) :=
  g.requests.filter (fun q => bitOf m.bitmap q.1 == q.2 && (q.2 || !m.names.contains q.1))

/-- The bitmap the device would propose: its view without those it suspects; without suspicions, with the joiner or without the leaver (R377, R380). -/
def proposalOf (g : Group) : BitVec 4096 :=
  let rest := g.bitmap &&& ~~~bitmapOf g.suspects
  match g.joiner with
  | some (r, leave) => if g.suspects.isEmpty then (if leave then rest &&& ~~~bitmapOf [r] else rest ||| bitmapOf [r]) else rest
  | none => rest

/-- A bitmap holds more than half of the view's members (R377). -/
def quorum (g : Group) (b : BitVec 4096) : Bool := decide (2 * countOf (b &&& g.bitmap) > countOf g.bitmap)

/-- Results of collectives that have completed here since an acceptance, which the decisions have this device forward (R379). -/
def forwardResults (s : State) (g : Group) (ds : List Decision) : State :=
  (g.results.filter (fun p => ds.any (fun d => d.seq == p.seq && d.holder == some (ownRank s)))).foldl (fun s p =>
    sendColl s g.job (otherMembers s g.bitmap) { p with vtag := g.view.setWidth 16 }) s

/-- The view installed, collectives settled in sequence, those that waited started, held packets used (R377, R379). Collectives held for a join stay held through a commit that serves no request known here (R380). -/
def installView (s : State) (g : Group) (m : ViewMsg) : State :=
  let member := g.active && bitOf g.bitmap (ownRank s)
  let rest := g.unserved m
  let g' : Group := { g with
    view := m.view + 1, bitmap := m.bitmap, st := if rest.isEmpty then .stable else .joining, suspects := [], attempt := 0
    proposal := none, accepts := [], seen := [], since := s.clock, joiner := rest.head?, asks := rest.tail, settled := m.decisions
    oldView := m.view, oldBitmap := g.bitmap, seq := if member then g.seq else m.seq, results := [] }
  let s := forwardResults (s.updGroup g.num (fun _ => g')) { g' with results := g.results } m.decisions
  let cs := (s.fab.colls.filter (fun c => cdGroup c.desc == g.num && (rest.isEmpty || rest != g.requests || c.started || m.decisions.any (fun d => d.seq == c.seq))))
  rehold (cs.foldl (fun s c => settleColl s g' m.decisions c) s) g.num

/-- A commit reaches the device (R377, R379): it installs the view, or learns that it is not in it. -/
def applyCommit (s : State) (m : ViewMsg) : State :=
  match s.group? m.group with
  | none => s
  | some g =>
    if g.initDigest.isSome then s
    else if bitOf m.bitmap (ownRank s) then installView s g m
    else if g.st = .uninstalled then s
    else enterExcluded s g.num

/-- The decisions from the acceptances: for each collective the lowest holder (R379). -/
def decide379 (g : Group) : List Decision :=
  let seqs := (g.accepts.flatMap (fun a => a.2.map (·.1))).foldl (fun acc x => if acc.contains x then acc else acc ++ [x]) []
  seqs.map (fun q => { seq := q, holder := firstBy (fun a b => decide (a ≤ b)) (g.accepts.filterMap (fun a =>
    if a.2.contains (q, true) then some a.1 else none)) })

/-- Collectives held since the group learned of a join or leave, which run under the next view: not begun, and not settled by the decisions (R380). -/
def heldColls (s : State) (gn : Nat) (ds : List Decision) : Nat :=
  (s.fab.colls.filter (fun c => cdGroup c.desc == gn && !c.started && !ds.any (fun d => d.seq == c.seq))).length

/-- A proposal that serves a join or a leave, not a suspicion. -/
def Group.joins (g : Group) : Bool := g.joiner.isSome && g.suspects.isEmpty

/-- Some acceptance names a collective that is still in flight: a join or a leave waits for it (R380). -/
def Group.inFlight (g : Group) : Bool := g.accepts.any (fun a => !a.2.isEmpty)

/-- When every rank of the proposal has accepted, the commit goes to its members and to the ranks removed, and is installed here; then next follows (R377). It names a joiner that did not accept (R378). One that admits or releases a rank is sent only with no collective in flight, and its number is that of the first collective held for it (R374, R380). -/
def commitWith (next : State → Nat → State) (s : State) (gn : Nat) : State :=
  match s.group? gn with
  | none => s
  | some g =>
    match g.proposal with
    | none => s
    | some b =>
      if !(membersOf b).all (fun r => g.accepts.any (fun a => a.1 == r)) ∨ !quorum g b ∨ (g.joins ∧ g.inFlight) then s
      else
        let ds := decide379 g
        let m := { viewMsg s g (g.suspects.filter (fun r => !bitOf g.bitmap r)) with bitmap := b, decisions := ds, seq := g.seq - BitVec.ofNat 32 (heldColls s gn ds) }
        let s := (otherMembers s (b ||| g.bitmap)).foldl (fun s r => sendView s g msgCommit r m) s
        next (applyCommit s m) gn

/-- The coordinator's next proposal; one without a quorum is never sent (R377). -/
def proposeWith (next : State → Nat → State) (s : State) (gn : Nat) : State :=
  match s.group? gn with
  | none => s
  | some g =>
    let b := proposalOf g
    if !quorum g b then s.updGroup gn (fun x => { x with proposal := none, accepts := [] })
    else
      let me := ownRank s
      let g' : Group := { g with
        attempt := g.attempt + 1, proposal := some b, accepts := if bitOf b me then [(me, holdsOf s gn)] else [], since := s.clock }
      let s := s.updGroup gn (fun _ => g')
      let m := { viewMsg s g' (match g.joiner with | some (r, _) => [r] | none => []) with bitmap := b }
      commitWith next ((otherMembers s b).foldl (fun s r => sendView s g msgPropose r m) s) gn

/-- The coordinator proposes a join or leave once no collective of the group is in flight (R380). -/
def joinWith (prop : State → Nat → State) (s : State) (gn : Nat) : State :=
  match s.group? gn with
  | none => s
  | some g =>
    if g.st = .joining ∧ g.joiner.isSome ∧ g.proposal.isNone ∧ groupQuiet s gn ∧ coordinatorOf g = some (ownRank s) then prop s gn
    else s

/-- A proposal; a join or leave that its commit leaves pending is proposed after it. -/
def propose : State → Nat → State := proposeWith (joinWith (proposeWith (fun s _ => s)))
/-- A join or leave proposed when its time has come (R380). -/
def tryJoin : State → Nat → State := joinWith propose
/-- The commit, when every acceptance is there. -/
def tryCommit : State → Nat → State := commitWith tryJoin

/-- After new suspicions the device proposes, or tells its coordinator (R377). -/
def react (s : State) (gn : Nat) (ys : List Nat) : State :=
  match s.group? gn with
  | none => s
  | some g =>
    match coordinatorOf g with
    | none => s
    | some c =>
      if c = ownRank s then propose s gn
      else sendView (s.updGroup gn (fun x => { x with proposal := none, accepts := [], since := s.clock })) g msgSuspect c (viewMsg s g ys)

/-- Suspicions taken on: the device enters agreeing (R377). A quorum that is lost is lost from now on (R378). -/
def Group.suspect (g : Group) (new : List Nat) (now : Nat) : Group :=
  { g with
    suspects := g.suspects ++ new, st := .agreeing
    since := if g.st = .agreeing && (!quorum g (proposalOf g) || quorum g (proposalOf { g with suspects := g.suspects ++ new })) then g.since else now }

/-- New suspicions among some ranks of an installed group (R376, R377). -/
def suspectAmong (ok : Group → Nat → Bool) (s : State) (gn : Nat) (ys : List Nat) : State :=
  match s.group? gn with
  | none => s
  | some g =>
    let new := (dedup ys).filter (fun y => ok g y && y != ownRank s && !g.suspects.contains y)
    if !g.active ∨ new.isEmpty then s
    else react (s.updGroup gn (fun x => x.suspect new s.clock)) gn new

/-- New suspicions of members of an installed group (R376). -/
def suspectRanks : State → Nat → List Nat → State := suspectAmong (fun g y => bitOf g.bitmap y)

/-- A rank becomes a suspect in every installed group whose view contains it (R376). -/
def suspectEverywhere (s : State) (rank : Nat) : State :=
  (s.fab.groups.map (·.num)).foldl (fun s g => suspectRanks s g [rank]) s

/-! ## The events -/

/-- SUSPECT (R377): the coordinator takes over the suspicion; another member passes it on to its own. -/
def takeSuspect (m : ViewMsg) (s : State) : State :=
  match s.group? m.group with
  | none => s
  | some g => if tagClass g.view (m.view.setWidth 16) = .stale then s else suspectRanks s m.group m.names

def execSuspect (m : ViewMsg) (s : State) : Host.Outcome State Fault Refusal := laneEvent s (takeSuspect m)

/-- Attempts in order: those of a later view come after (R377). -/
def attemptKey (m : ViewMsg) : Nat := m.view.toNat * 2 ^ 32 + m.attempt
/-- The highest attempt seen from a sender. -/
def seenFrom (g : Group) (r : Nat) : Nat := (cellsGet g.seen r).getD 0

/-- The group asks to be taken in: excluded, or without a view here (R380). -/
def Group.outside (g : Group) : Bool := g.st == .excluded || (g.st == .uninstalled && g.initDigest.isNone)

/-- Accepts a proposal, under the view it replaces (R377). -/
def acceptProposal (s : State) (g : Group) (m : ViewMsg) : State :=
  let s := s.updGroup g.num (fun x => { x with
    seen := cellsSet x.seen m.src (attemptKey m), proposal := none, accepts := [], since := s.clock
    st := if x.outside then x.st else if x.suspects.isEmpty then .joining else .agreeing })
  sendView s g msgAccept m.src
    { viewMsg s g g.suspects with view := m.view, attempt := m.attempt, bitmap := m.bitmap, holds := holdsOf s g.num }

/-- PROPOSE (R377, R380): a member adopts the omissions as suspicions, then accepts when the sender is its coordinator, the lowest member it does not suspect, and the attempt is new; a joiner accepts. -/
def takePropose (m : ViewMsg) (s : State) : State :=
  match s.group? m.group with
  | none => s
  | some g =>
    let me := ownRank s
    if !bitOf m.bitmap me then s
    else if g.outside then (if attemptKey m > seenFrom g m.src then acceptProposal s g m else s)
    else if !g.active ∨ tagClass g.view (m.view.setWidth 16) = .stale then s
    else
      let out := (membersOf (g.bitmap &&& ~~~m.bitmap)).filter (fun r => r != me)
      let new := out.filter (fun r => !g.suspects.contains r)
      let g' : Group := { g with suspects := g.suspects ++ new, st := if new.isEmpty then g.st else .agreeing }
      let s := s.updGroup g.num (fun _ => g')
      if lowestTrusted g' = some m.src ∧ attemptKey m > seenFrom g' m.src then acceptProposal s g' m
      else if new.isEmpty then s else react s g.num new

def execPropose (m : ViewMsg) (s : State) : Host.Outcome State Fault Refusal := laneEvent s (takePropose m)

/-- ACCEPT (R377, R379): a suspect that the proposal still contains makes the coordinator propose again, and so does, for a join or a leave, a collective in flight at a member (R380); the last acceptance commits. An ACCEPT of a later view shows a device that it is out. -/
def takeAccept (m : ViewMsg) (s : State) : State :=
  match s.group? m.group with
  | none => s
  | some g =>
    match tagClass g.view (m.view.setWidth 16) with
    | .stale => s
    | .ahead => if g.active ∧ !bitOf m.bitmap (ownRank s) then enterExcluded s g.num else s
    | .current =>
      match g.proposal with
      | none => s
      | some b =>
        if m.attempt ≠ g.attempt ∨ !bitOf b m.src then s
        else if m.names.any (fun y => bitOf b y && y != ownRank s) then suspectRanks s g.num m.names
        else
          let g' := { g with accepts := g.accepts.filter (fun a => a.1 != m.src) ++ [(m.src, m.holds)] }
          if (membersOf b).all (fun r => g'.accepts.any (fun a => a.1 == r)) && g'.joins && g'.inFlight then
            tryJoin (s.updGroup g.num (fun _ => { g' with proposal := none, accepts := [] })) g.num
          else tryCommit (s.updGroup g.num (fun _ => g')) g.num

def execAccept (m : ViewMsg) (s : State) : Host.Outcome State Fault Refusal := laneEvent s (takeAccept m)

/-- COMMIT (R377, R379). -/
def takeCommit (m : ViewMsg) (s : State) : State :=
  match s.group? m.group with
  | none => s
  | some g => if !g.outside ∧ tagClass g.view (m.view.setWidth 16) = .stale then s else tryJoin (applyCommit s m) m.group

def execCommit (m : ViewMsg) (s : State) : Host.Outcome State Fault Refusal := laneEvent s (takeCommit m)

/-- JOIN_REQUEST (R380): a member learns of a rank that asks to join or leave; the coordinator acts, another member forwards the request. One that asks for what the requests before it come to already changes nothing. -/
def takeJoin (m : ViewMsg) (s : State) : State :=
  match s.group? m.group, m.names with
  | some g, r :: _ =>
    if !g.active ∨ g.willHold r ≠ m.leave ∨ (!m.leave ∧ !inCgroup s r) then s
    else
      let g' : Group := g.ask (r, m.leave)
      let s := s.updGroup g.num (fun _ => g')
      match coordinatorOf g' with
      | some c => if c = ownRank s then tryJoin s g.num
                  else sendView s g' msgJoin c { viewMsg s g' [r] with leave := m.leave }
      | none => s
  | _, _ => s

def execJoinRequest (m : ViewMsg) (s : State) : Host.Outcome State Fault Refusal := laneEvent s (takeJoin m)

/-- AGREE_TIMEOUT (R378): the coordinator suspects those that have not accepted, a joiner too, and proposes again, a member suspects its coordinator; a device that has formed no quorum for the whole time is excluded. -/
def execAgreeTimeout (gn : Nat) (s : State) : Host.Outcome State Fault Refusal := whenClocked s <|
  .next (match s.group? gn with
    | none => s
    | some g =>
      if (g.st ≠ .agreeing ∧ g.st ≠ .joining) ∨ s.clock - g.since < s.fab.agree.toNat then s
      else
        match g.proposal with
        | some b => suspectAmong (fun _ _ => true) s gn ((membersOf b).filter (fun r => !g.accepts.any (fun a => a.1 == r)))
        | none =>
          if g.st = .joining ∧ g.seen.isEmpty then s
          else match coordinatorOf g with
            | some c =>
              if c ≠ ownRank s then suspectRanks (s.updGroup gn (fun x => { x with since := s.clock })) gn [c]
              else if g.st = .agreeing ∧ !quorum g (proposalOf g) then enterExcluded s gn
              else s
            | none => enterExcluded s gn)

/-- CSTEP_TIMEOUT (R376): a step has waited CSTEP cycles for a packet of a member. -/
def execCstepTimeout (id rank : Nat) (s : State) : Host.Outcome State Fault Refusal := whenClocked s <|
  .next (match s.coll? id with
    | none => s
    | some c =>
      let waits := c.started && c.result.isNone && (match c.holder with
        | some h => h == rank
        | none => bitOf c.members rank && !c.inputs.any (fun x => x.1 == rank) && !c.faults.contains rank)
      if waits && decide (s.fab.cstep.toNat ≤ s.clock - c.since) then suspectRanks s (cdGroup c.desc) [rank] else s)

def execCollectivePacket (p : CollPacket) (s : State) : Host.Outcome State Fault Refusal := laneEvent s (takeCollective p)

/-- COLLECTIVE_COMPLETE (R382, R411): the result is written and the slot completes; a join that waited may be proposed. -/
def execCollectiveComplete (id : Nat) (s : State) : Host.Outcome State Fault Refusal := whenClocked s <|
  .next (match s.coll? id with
    | none => s
    | some c => tryJoin (completeColl s c) (cdGroup c.desc))

/-- A group is no longer held: it reads as uninstalled. -/
def dropGroup (s : State) (gn : Nat) : State := s.updFab (fun b => { b with groups := b.groups.filter (fun x => x.num != gn) })

/-- INIT_AGREEMENT (R389): the ranks named have executed VIEWCTL.init with the digests given. All of them with the same digest install the group; a mismatch, or AGREE cycles, leaves it uninstalled. -/
def execInitAgreement (gn : Nat) (peers : List (Nat × BitVec 32)) (s : State) : Host.Outcome State Fault Refusal := whenClocked s <|
  .next (match s.group? gn with
    | none => s
    | some g =>
      match g.initDigest with
      | none => s
      | some d =>
        let drop : State := dropGroup s gn
        if g.st ≠ .uninstalled then s
        else if peers.any (fun p => bitOf g.bitmap p.1 && p.2 != d) then drop
        else if (otherMembers s g.bitmap).all (fun r => peers.any (fun p => p.1 == r)) then
          rehold (s.updGroup gn (fun x => { x with st := .stable, view := 1, seq := 0, initDigest := none, since := s.clock })) gn
        else if s.fab.agree.toNat ≤ s.clock - g.since then drop else s)

end Sys2Proof.Machine
end

