-- ==== Sys2Proof/Machine/Remote.lean ====
section
/-! DEFINITION. Remote access and multicast: requests at their issue, at the peer, and their responses (spec/13 R358-R369). -/

namespace Sys2Proof.Machine

/-! ## Requests -/

/-- One active lane of a remote instruction: lane, rank, remote address. -/
abbrev RLane := Nat × Nat × Nat

/-- The lanes of a remote instruction (R359). -/
def remoteLanes (c : Ctx) (a peer : BitVec 7) (act : LaneMask) : List RLane :=
  (lanesOf act).map (fun L => (L, bitsOf ((op32 .int peer).value c L) 0 16, ((op64 a).value c L).toNat))

/-- The checks of R359 on one lane; ranked false leaves out step 3. -/
def remoteCheck (s : State) (width : Nat) (ranked : Bool) (x : RLane) : Option TrapInfo :=
  if x.2.2 % width ≠ 0 then some (trapAddr causeALIGN x.2.2 x.1)
  else if x.2.2 ≥ globalTop then some (trapAddr causePROT x.2.2 x.1)
  else if ranked && !(decide (x.2.1 < domainOf s) && inCgroup s x.2.1) then
    some { cause := causeFABRIC, lo := BitVec.ofNat 32 x.2.1, hi := 0, lane := x.1 }
  else none

/-- The packets of an instruction: ranks ascending, then pages ascending (R360, R361). -/
def packetsOf (xs : List RLane) : List (Nat × List RLane) :=
  let up (l : List Nat) : List Nat := sortBy (fun a b => decide (a ≤ b)) (dedup l)
  (up (xs.map (·.2.1))).flatMap (fun r =>
    let mine := xs.filter (fun x => x.2.1 == r)
    (up (mine.map (fun x => pageOf x.2.2))).map (fun p => (r, mine.filter (fun x => pageOf x.2.2 == p))))

/-- Entries of the core's remote request table in use (R361). -/
def remoteUsed (s : State) (core : Nat) : Nat :=
  ((s.core core).remote.filter (fun r => match r.kind with | .ue _ _ => false | _ => true)).length

/-- The table can take n more. An instruction of one peer's worth of packets a lane needs 32 at most; MCST issues its replays one by one. -/
def remoteRoom (s : State) (core n : Nat) : Bool := decide (remoteUsed s core + n ≤ 256)

/-- The packet of a request (R361). -/
def packetFor (s : State) (r : RemoteReq) : Packet :=
  { dest := r.peer, src := ownRank s, warp := r.team * 32 + r.warp, job := r.job, opc := r.opc, stream := r.stream, seq := r.num
    req := r.id, lanes := r.lanes }

/-- A request packet leaves for its peer. -/
def sendRequest (s : State) (p : Packet) : State := send s (requestBytes p) (requestMsg p)

/-- One packet enters the table and leaves for its peer; one for the device itself uses no port (R358). A stream numbers it (R365). -/
def Ctx.sendPacket (c : Ctx) (opc : Nat) (kind : RemoteKind) (flag : Option Nat) (data : Nat → List DWord) (p : Nat × List RLane) : Ctx :=
  let (id, s) := c.s.fresh
  let stream := c.w.streamId.toNat
  let key := p.1 * 16 + stream
  let n := (cellsGet c.w.peerCtr key).getD 0
  let r : RemoteReq :=
    { id := id, sent := s.clock, team := c.t.id, warp := c.wi, seq := c.p.seq, flag := flag, opc := opc, kind := kind, peer := p.1
      job := c.t.ident.job, stream := stream, num := if stream = 0 then 0 else n
      lanes := p.2.map (fun x => (x.1, BitVec.ofNat 64 x.2.2, data x.1)) }
  let s := s.updCore c.t.core (fun k => { k with remote := k.remote ++ [r] })
  let s := if p.1 = ownRank s then s else sendRequest s (packetFor s r)
  { c with s := s, w := if stream = 0 then c.w else { c.w with peerCtr := cellsSet c.w.peerCtr key ((n + 1) % 65536) } }

/-- RLD, RST and the remote atomics (R359-R361, R366): width bytes, dOk the rule of D, read or write class, and the data of a lane. -/
def remoteForm (s : State) (f : FmtF) (opc width : Nat) (dOk : Ctx → Nat → Bool) (kind : Nat → RemoteKind) (write : Bool)
    (data : Warp → Nat → Nat → List DWord) : Host.Outcome State Fault Refusal :=
  issue s .accessOnly (fun c =>
    let act := c.act f.g
    let d := f.d.toNat
    orIllopnd (dOk c d && !isQueueSpec f.a && !isQueueSpec f.peer && (op64 f.a).ok c && (op32 .int f.peer).ok c) (
      if act = 0 then .done c
      else
        let xs := remoteLanes c f.a f.peer act
        match xs.findSome? (remoteCheck c.s width true) with
        | some i => .trap i
        | none =>
          let ps := packetsOf xs
          if !remoteRoom c.s c.t.core ps.length then .stall
          else
            let flag := flagOf (if write then c.p.setB else c.p.setA)
            .done (ps.foldl (fun c p =>
              let c := c.sendPacket opc (kind d) flag (data c.w d) p
              { c with w := c.w.bind flag }) c)))

def noData (_ : Warp) (_ _ : Nat) : List DWord := []

def execRldB32 (f : FmtF) (s : State) := remoteForm s f 0xD0 4 (fun c d => regOk c d) (fun d => .load d 1) false noData
def execRldB64 (f : FmtF) (s : State) := remoteForm s f 0xD1 8 (fun c d => pairOk c d) (fun d => .load d 2) false noData
def execRstB32 (f : FmtF) (s : State) :=
  remoteForm s f 0xD2 4 (fun c d => regOk c d) (fun _ => .store) true (fun w d L => [(w.v d L).setWidth 64])
def execRstB64 (f : FmtF) (s : State) :=
  remoteForm s f 0xD3 8 (fun c d => pairOk c d) (fun _ => .store) true (fun w d L => [w.v64 d L])
def execRaaddI64 (f : FmtF) (s : State) :=
  remoteForm s f 0xD4 8 (fun c d => pairOk c d) (fun d => .load d 2) false (fun w d L => [w.v64 d L])
def execRacasB64 (f : FmtF) (s : State) :=
  remoteForm s f 0xD5 8 (fun c d => dataOk c d 16) (fun d => .load d 2) false (fun w d L => [w.v64 d L, w.v64 (d + 2) L])

/-- The entry RLDQ or XLDQ reserves for a warp as operation op: active lanes INFLIGHT with their requests, others INVALID (R146, R367, R373). -/
def inflightEntry (wi op : Nat) (act : LaneMask) (flag : Option (Nat × Nat)) (va : Nat → DWord) (req : Nat → Nat) : QEntry :=
  { by_ := wi
    op := op
    lanes := laneList.map (fun L => if inMask act L then { QLane.empty with st := .inflight, va := va L, req := some (req L) }
                                    else { QLane.empty with st := .invalid })
    flag := flag, keyovr := none }

/-- The request of a core that carries a lane and is newer than n. -/
def reqOfLane (s : State) (core n L : Nat) : Nat :=
  (((s.core core).remote.find? (fun r => decide (n ≤ r.id) && r.lanes.any (fun x => x.1 == L))).map (·.id)).getD 0

/-- RLDQ (R367). -/
def rldqForm (s : State) (g : BitVec 4) (q : BitVec 4) (a peer : BitVec 7) (opc : Nat) (wcode : BitVec 2) :
    Host.Outcome State Fault Refusal :=
  issue s .accessOnly (fun c =>
    let act := c.act g
    match c.t.queue? q.toNat with
    | none => .trapC causeILLOPND
    | some x =>
      orIllopnd (isProducer x c.w && !x.dir && x.width == wcode && !isQueueSpec a && !isQueueSpec peer && (op64 a).ok c &&
          (op32 .int peer).ok c) (
        if act = 0 then .done c
        else
          let xs := remoteLanes c a peer act
          match xs.findSome? (remoteCheck c.s (x.bits / 8) true) with
          | some i => .trap i
          | none =>
            let ps := packetsOf xs
            if !x.canReserve then .block c 2
            else if !remoteRoom c.s c.t.core ps.length then .stall
            else
              let first := c.s.nextId
              let c := ps.foldl (fun c p => c.sendPacket opc (.queue q.toNat x.tail) none (fun _ => []) p) c
              let flag := flagOf c.p.setA
              let e := inflightEntry c.wi first act (flag.map (fun n => (c.wi, n))) (fun L => (op64 a).value c L) (reqOfLane c.s c.t.core first)
              .done { c with t := (c.t.setQueue (x.reserve e)).signals (.entry first) c.wi act, w := c.w.bind flag }))

def execRldqB32 (g : BitVec 4) (q : BitVec 4) (a : BitVec 7) (p : BitVec 7) (s : State) := rldqForm s g q a p 0xD6 1
def execRldqB64 (g : BitVec 4) (q : BitVec 4) (a : BitVec 7) (p : BitVec 7) (s : State) := rldqForm s g q a p 0xD7 2

/-- One packet of a multicast enters its core's table and leaves. -/
def sendMcast (s : State) (core : Nat) (m : Mcast) (rank : Nat) (p : ReplayPacket) : State :=
  let (id, s) := s.fresh
  let key := rank * 16 + m.stream
  let n := match s.team? m.team with
    | some t => ((t.warps[m.warp]?).bind (fun w => cellsGet w.peerCtr key)).getD 0
    | none => 0
  let r : RemoteReq :=
    { id := id, sent := s.clock, team := m.team, warp := m.warp, seq := m.seq, flag := none, opc := 0xD9, kind := .mcast m.op, peer := rank
      job := m.job, stream := m.stream, num := if m.stream = 0 then 0 else n, lanes := p.lanes }
  let s := s.updCore core (fun k => { k with remote := k.remote ++ [r] })
  let s := if m.stream = 0 then s else updWarp s m.team m.warp (fun w => { w with peerCtr := cellsSet w.peerCtr key ((n + 1) % 65536) })
  if rank = ownRank s then s else sendRequest s (packetFor s r)

/-- The replays of a multicast issue one after another, each as soon as its packets find entries (R360, R361). -/
def replayMcast (core : Nat) (m : Mcast) : List Replay → State → State
  | [], s => s.updFab (fun b => { b with mcasts := b.mcasts.map (fun x => if x.op = m.op then { x with todo := [] } else x) })
  | x :: rest, s =>
    if remoteRoom s core x.packets.length then replayMcast core m rest (x.packets.foldl (sendMcast · core m x.rank) s)
    else s.updFab (fun b => { b with mcasts := b.mcasts.map (fun y => if y.op = m.op then { y with todo := x :: rest } else y) })

/-- The multicasts of a core's teams that have replays to issue go on. -/
def replayMcasts (s : State) (core : Nat) : State :=
  (s.fab.mcasts.filter (fun m => !m.todo.isEmpty)).foldl (fun s m =>
    match s.team? m.team with
    | some t => if t.core = core then replayMcast core m m.todo s else s
    | none => s) s

/-- MCST (R368): checks, then one set of packets for each member of the view. The group and MCASTPART come from the lowest active lane. The split goes on when the last replay has issued. -/
def execMcst (f : FmtF) (s : State) : Host.Outcome State Fault Refusal :=
  issue s .accessOnly (fun c =>
    let act := c.act f.g
    let ops := [op64 f.a, op32 .int f.peer]
    orIllopnd (regOk c f.d.toNat && ops.all (Opnd.ok c)) (
      if act = 0 then .done c
      else match readOps c act ops with
        | .stop r => r
        | .got c' vs =>
        let grp := val vs 1 (lane0 act)
        let xs : List RLane := (lanesOf act).map (fun L => (L, 0, (val vs 0 L).toNat))
        let bad : Res := .trap { cause := causeFABRIC, lo := BitVec.ofNat 32 (ownRank c.s), hi := 0, lane := lane0 act }
        match xs.findSome? (remoteCheck c.s 4 false), c.s.group? (bitsOf grp 0 6) with
        | some i, _ => .trap i
        | none, none => bad
        | none, some g =>
          if !g.active then bad
          else
            let packets := (packetsOf xs).map (fun p =>
              ({ lanes := p.2.map (fun x => (x.1, BitVec.ofNat 64 x.2.2, [(c.w.v f.d.toNat x.1).setWidth 64])) } : ReplayPacket))
            if !remoteRoom c.s c.t.core packets.length then .stall
            else
              let (op, s) := c'.s.fresh
              let flag := flagOf c.p.setB
              let m : Mcast :=
                { op := op, team := c.t.id, warp := c.wi, seq := c.p.seq, flag := flag, stream := c.w.streamId.toNat, job := c.t.ident.job
                  part := bitOf grp 8, members := g.bitmap, failed := [], todo := (membersOf g.bitmap).map (fun r => { rank := r, packets := packets }) }
              let c := { c' with s := s.updFab (fun b => { b with mcasts := b.mcasts ++ [m] }), w := c'.w.bind flag }
              .gone (replayMcast c.t.core m m.todo c.advance.commit)))

/-! ## Responses (R363, R364, R369) -/

/-- A failed lane enters the warp's remote fault record; a team with no unfinished warp fails with the cause (R363). -/
def recordFailure (s : State) (r : RemoteReq) (cause : BitVec 8) (lane : Nat) (addr : DWord) : State :=
  match s.team? r.team with
  | none => s
  | some t =>
    if t.status = .killed then s
    else if t.warps.all Warp.done then failTask s t.ident.task cause.toNat t.ident.linear
    else updWarp s r.team r.warp (fun w => match w.rfault with
      | some x => if x.delivered then
          { w with rfault := some { cause := cause, lane := lane, opc := BitVec.ofNat 8 r.opc, rank := BitVec.ofNat 16 r.peer, addr := addr
                                    count := 0, seq := r.seq, delivered := false } }
        else { w with rfault := some { x with count := x.count + 1 } }
      | none =>
          { w with rfault := some { cause := cause, lane := lane, opc := BitVec.ofNat 8 r.opc, rank := BitVec.ofNat 16 r.peer, addr := addr
                                    count := 0, seq := r.seq, delivered := false } })

/-- The answer to one lane: cause (0 none) and data; a lane the response leaves out is refused. -/
def laneAnswer (l : List (Nat × BitVec 8 × DWord)) (L : Nat) : BitVec 8 × DWord :=
  match l.find? (fun x => x.1 == L) with
  | some x => x.2
  | none => (causeNOMAP, 0)

/-- A lane of a reserved entry lands, if it still waits for this request: VALID, or POISON with its record (R363, R367). -/
def landRemote (s : State) (r : RemoteReq) (q slot L : Nat) (va : DWord) (ans : BitVec 8 × DWord) : State :=
  let team := r.team
  match s.team? team with
  | none => s
  | some t =>
    match t.queue? q with
    | none => s
    | some x =>
      let l := (x.entries.getD slot QEntry.empty).lane L
      if l.req ≠ some r.id then s
      else if ans.1 = 0 then
        landLane s team q slot L { l with st := .valid, data := BitVec.ofNat 64 (ans.2.toNat % 2 ^ x.bits), req := none, port := none }
      else if x.holds slot then
        let (s, w) := addPoison s t.core team q L ans.1 va
        landLane s team q slot L { l with st := .poison, data := w, req := none, port := none }
      else landLane s team q slot L { l with st := .poison, req := none, port := none }

/-- The request in flight with an id, and its core. -/
def findReq (s : State) (id : Nat) : Option (Nat × RemoteReq) :=
  ((List.range s.cores.length).zip s.cores).findSome? (fun x => (x.2.remote.find? (fun r => r.id == id)).map (fun r => (x.1, r)))

/-- A request answered: it leaves the table, its lanes complete or fail (R362, R363). -/
def answerReq (s : State) (core : Nat) (r : RemoteReq) (l : List (Nat × BitVec 8 × DWord)) : State :=
  let s := replayMcasts (s.updCore core (fun c => { c with remote := c.remote.filter (fun x => x.id != r.id) })) core
  let fails (s : State) : State := r.lanes.foldl (fun s x =>
    let ans := laneAnswer l x.1
    if ans.1 = 0 then s else recordFailure s r ans.1 x.1 x.2.1) s
  match r.kind with
  | .load d regs =>
    let s := updWarp s r.team r.warp (fun w => r.lanes.foldl (fun w x =>
      let ans := laneAnswer l x.1
      let v : DWord := if ans.1 = 0 then ans.2 else 0
      (regWrites d (4 * regs) x.1 v.toNat).foldl (fun w y =>
        { w with vregs := updAt w.vregs y.1 (fun v => updAt v y.2.1 (fun _ => y.2.2)) }) w) (w.unbind r.flag))
    opEnded (fails s) r.team
  | .store => opEnded (fails (s.unbind r.team r.warp r.flag)) r.team
  | .queue q slot => opEnded (r.lanes.foldl (fun s x => landRemote s r q slot x.1 x.2.1 (laneAnswer l x.1)) s) r.team
  | .ue q slot => opEnded (r.lanes.foldl (fun s x => landRemote s r q slot x.1 x.2.1 (laneAnswer l x.1)) s) r.team
  | .mcast op =>
    if r.lanes.all (fun x => (laneAnswer l x.1).1 == 0) then s
    else s.updFab (fun b => { b with mcasts := b.mcasts.map (fun m =>
      if m.op = op ∧ !m.failed.contains r.peer then { m with failed := m.failed ++ [r.peer] } else m) })

/-- A response arrives; one that answers nothing in flight is discarded (R364). -/
def takeResponse (r : Response) (s : State) : State :=
  match findReq s r.req with
  | some (core, q) => match q.kind with
    | .ue _ _ => s
    | _ => answerReq s core q r.lanes
  | none => s

/-- REMOTE_RESPONSE (R363). -/
def execRemoteResponse (r : Response) (s : State) : Host.Outcome State Fault Refusal := laneEvent s (takeResponse r)

/-- A request is lost: its lanes fail with NOMAP and its rank is suspected (R364). -/
def loseReq (s : State) (core : Nat) (r : RemoteReq) : State := suspectEverywhere (answerReq s core r []) r.peer

/-- REMOTE_REQUEST_LOST (R364): no response within RTIME cycles. -/
def execRemoteRequestLost (id : Nat) (s : State) : Host.Outcome State Fault Refusal := whenClocked s <|
  .next (match findReq s id with
    | none => s
    | some (core, r) => match r.kind with
      | .ue _ _ => s
      | _ => if s.fab.rtime.toNat ≤ s.clock - r.sent then loseReq s core r else s)

/-- A rank is down: its outstanding requests are lost and it is suspected (R358, R364). -/
def rankDown (s : State) (rank : Nat) : State :=
  let reqs := ((List.range s.cores.length).zip s.cores).flatMap (fun x =>
    (x.2.remote.filter (fun r => r.peer == rank && (match r.kind with | .ue _ _ => false | _ => true))).map (fun r => (x.1, r)))
  suspectEverywhere (reqs.foldl (fun s x => answerReq s x.1 x.2 []) s) rank

/-- RANK_DOWN_NOTICE (R358). -/
def execRankDownNotice (rank : Nat) (s : State) : Host.Outcome State Fault Refusal :=
  laneEvent s (fun s => if rank = ownRank s then s else rankDown s rank)

/-- A requested MCASTPART that no unfinished warp is left to take fails the team (R363, R369). -/
def mcastFails (s : State) (id : Nat) : State :=
  match s.team? id with
  | none => s
  | some t =>
    if t.status ≠ .killed ∧ t.warps.all Warp.done ∧ t.warps.any (fun w => !w.mcast.pending.isEmpty) then
      failTask s t.ident.task causeMCASTPART.toNat t.ident.linear
    else s

/-- MULTICAST_COMPLETE (R369): no packet of the multicast is outstanding; the warp's status is set. -/
def execMulticastComplete (op : Nat) (s : State) : Host.Outcome State Fault Refusal := whenClocked s <|
  .next (match s.fab.mcasts.find? (fun m => m.op == op) with
    | none => s
    | some m =>
      if !m.todo.isEmpty ∨ s.cores.any (fun c => c.remote.any (fun r => r.kind == .mcast op)) then s
      else
        let s := s.updFab (fun b => { b with mcasts := b.mcasts.filter (fun x => x.op != op) })
        let s := updWarp s m.team m.warp (fun w => { w.unbind m.flag with mcast :=
          { bits := m.members &&& ~~~bitmapOf m.failed, fails := m.failed.length
            pending := if m.part ∧ !m.failed.isEmpty then w.mcast.pending ++ [(m.seq, m.failed.length)] else w.mcast.pending } })
        opEnded (mcastFails s m.team) m.team)

/-! ## At the peer (R362, R365) -/

def remoteNeed (opc : Nat) : Need :=
  if opc = 0xD2 ∨ opc = 0xD3 ∨ opc = 0xD9 then .w else if opc = 0xD4 ∨ opc = 0xD5 then .rw else .r

/-- What one lane's address meets. -/
def remoteXlat (s : State) (p : Packet) (va : Nat) : Xlat :=
  if va ≥ globalTop then .fault causePROT else translate s (bareAgent p.job) va (remoteNeed p.opc)

/-- The pages a packet waits for. -/
def packetMisses (s : State) (p : Packet) : List Nat :=
  dedup ((p.lanes.filter (fun x => remoteXlat s p x.2.1.toNat == .miss)).map (fun x => pageOf x.2.1.toNat))

/-- One lane performed at L2 (R362): the old or read value. -/
def performLane (s : State) (p : Packet) (m : Mapped) (data : List DWord) : State × DWord :=
  let n := remoteWidth p.opc
  let old := BitVec.ofNat 64 (readPhysNat s m.slot m.pa n)
  let put (v : DWord) : State :=
    touchPools (writeBytes s m.slot (m.cattr == 2) (bytesAt m.pa (leBytes n v.toNat))) ((List.range n).map (m.pa + ·))
  let v := data.getD 0 0
  match remoteNeed p.opc with
  | .r => (s, old)
  | .w => (put v, 0)
  | _ => if p.opc = 0xD4 then (put (old + v), old) else (put (if old = v then data.getD 1 0 else old), old)

/-- The bytes that the lanes of a packet write, as far as their pages are mapped. -/
def packetBytes (s : State) (p : Packet) : List (Nat × Byte) :=
  if remoteNeed p.opc = .r then []
  else p.lanes.flatMap (fun x => match remoteXlat s p x.2.1.toNat with
    | .ok m => (List.range (remoteWidth p.opc)).map (fun i => (m.pa + i, 0))
    | _ => [])

/-- Every lane of a packet performed or refused, lanes ascending (R190, R362); a page still missing was refused: NOMAP. A line that the lanes write whole loses its poison mark (spec/11 R327). -/
def performPacket (s : State) (p : Packet) : State × List (Nat × BitVec 8 × DWord) :=
  p.lanes.foldl (fun acc x =>
    match remoteXlat acc.1 p x.2.1.toNat with
    | .ok m =>
      let (s, v) := performLane acc.1 p m x.2.2
      (s, acc.2 ++ [(x.1, 0, v)])
    | .fault cause => (acc.1, acc.2 ++ [(x.1, cause, 0)])
    | .miss => (acc.1, acc.2 ++ [(x.1, causeNOMAP, 0)])) (clearCovered s (packetBytes s p), [])

/-- A read of the packet would consume a poisoned line (spec/11 R327). -/
def packetPoisoned (s : State) (p : Packet) : Bool :=
  remoteNeed p.opc != .w && p.lanes.any (fun x => match remoteXlat s p x.2.1.toNat with | .ok m => l2Poisoned s m.pa | _ => false)

/-- The response goes back, or is taken here when the device is its own peer (R358). -/
def respond (s : State) (p : Packet) (l : List (Nat × BitVec 8 × DWord)) : State :=
  let r : Response := { req := p.req, lanes := l }
  if p.src = ownRank s then takeResponse r s else send s (responseBytes p r) (responseMsg p r)

/-- The key of a source's stream, and the number its next packet carries (R365). -/
def streamNext (s : State) (p : Packet) : Nat :=
  ((s.fab.order.find? (fun x => x.1 == p.src && x.2.1 == p.warp && x.2.2.1 == p.stream)).map (·.2.2.2)).getD 0
def streamAdvance (s : State) (p : Packet) : State :=
  if p.stream = 0 then s
  else s.updFab (fun b => { b with order :=
    (p.src, p.warp, p.stream, (p.seq + 1) % 65536) :: b.order.filter (fun x => !(x.1 == p.src && x.2.1 == p.warp && x.2.2.1 == p.stream)) })
/-- A packet's turn in its stream has come. -/
def packetTurn (s : State) (p : Packet) : Bool := p.stream == 0 || streamNext s p == p.seq

/-- A packet in its turn is performed and answered, or held for a missing page. Consumption of a poisoned line kills the team of a device's own request, and leaves a peer's unanswered. -/
def tryPacket (s : State) (refused : List Nat) (p : Packet) : State :=
  match (packetMisses s p).filter (fun x => !refused.contains x) with
  | x :: xs => fabricPages (s.updFab (fun b => { b with held := b.held ++ [{ packet := p, wait := x :: xs }] })) p.job (x :: xs)
  | [] =>
    if packetPoisoned s p then
      let s := streamAdvance s p
      if p.src = ownRank s then
        match findReq s p.req with
        | some (_, r) => respond (killTeam s r.team) p []
        | none => s
      else s
    else
      let (s, l) := performPacket s p
      respond (streamAdvance s p) p l

/-- Held packets whose page has come and whose turn it is, n at most. -/
def drainHeld : Nat → State → State
  | 0, s => s
  | n + 1, s =>
    match s.fab.held.find? (fun h => h.wait.isEmpty && packetTurn s h.packet) with
    | none => s
    | some h => drainHeld n (tryPacket (s.updFab (fun b => { b with held := b.held.erase h })) [] h.packet)

/-- Packets of a stream that the reorder buffer holds (R365). -/
def earlyHeld (s : State) (p : Packet) : Nat :=
  (s.fab.held.filter (fun h => h.wait.isEmpty && h.packet.src == p.src && h.packet.warp == p.warp && h.packet.stream == p.stream)).length

/-- A request packet is offered to the fabric unit (R362, R365): in its turn it is performed; one that is early in its stream is held, 64 at most, and one that finds no room waits in the receive buffer, so that its source's port holds those behind it; one already seen is dropped. -/
def offerRequest (p : Packet) (s : State) : State :=
  if packetTurn s p then
    let s := tryPacket s [] p
    drainHeld s.fab.held.length s
  else if 0x8000 ≤ (p.seq + 65536 - streamNext s p) % 65536 then s
  else if earlyHeld s p < 64 then s.updFab (fun b => { b with held := b.held ++ [{ packet := p, wait := [] }] })
  else s.updFab (fun b => { b with rx := b.rx ++ [.request p] })

/-- The requests of the receive buffer are offered again, in order. -/
def reoffer (s : State) : State :=
  let waiting := s.fab.rx.filterMap (fun i => match i with | .request p => some p | _ => none)
  if waiting.isEmpty then s
  else waiting.foldl (fun s p => offerRequest p s) (s.updFab (fun b => { b with rx := b.rx.filter (fun i => itemCls i != 3) }))

/-- A request packet arrives; one already held is dropped. -/
def takeRequest (p : Packet) (s : State) : State :=
  if s.fab.held.any (fun h => h.packet.src == p.src && h.packet.req == p.req) || s.fab.rx.contains (.request p) then s
  else reoffer (offerRequest p s)

/-- REMOTE_REQUEST (R362): for this rank; one of the device itself must be in its table. -/
def execRemoteRequest (p : Packet) (s : State) : Host.Outcome State Fault Refusal := whenClocked s <|
  laneEvent s (fun s =>
    if p.dest ≠ ownRank s then s
    else if p.src = ownRank s then
      match findReq s p.req with
      | some (core, r) =>
        let waits := match s.team? r.team with | some t => remoteWaits s t core r | none => false
        if packetFor s r = p ∧ !waits then takeRequest p s else s
      | none => s
    else takeRequest p s)

/-! ## RFENCE (R388) -/

/-- A remote operation of some lane of act that RFENCE covers is in flight: not XLDQ. -/
def fenceRemote (c : Ctx) (act : LaneMask) : Bool :=
  (c.s.core c.t.core).remote.any (fun r => r.team == c.t.id && r.warp == c.wi && r.lanes.any (fun l => inMask act l.1) &&
    (match r.kind with | .ue _ _ => false | _ => true)) ||
  c.s.fab.mcasts.any (fun m => m.team == c.t.id && m.warp == c.wi && act != 0)

def execRfence (g : BitVec 4) (s : State) : Host.Outcome State Fault Refusal :=
  issue s .accessOnly (fun c =>
    let act := c.act g
    if act = 0 then .done c
    else if (c.s.core c.t.core).stores.isEmpty && !exchangePending c.s c.t.id c.wi act && !fenceRemote c act &&
        lanesDone c.s c.t c.wi act c.s.nextId && !teamRereading c.t then .done (c.releases act)
    else .stall)

end Sys2Proof.Machine
end

