-- ==== Sys2Proof/Machine/ScaleOut.lean ====
section
/-! DEFINITION. Ultra Ethernet: the endpoint table, UE windows, remote RMA requests, and XLDQ (spec/13 R370-R373). -/

namespace Sys2Proof.Machine

/-! ## Windows for remote endpoints (R372) -/

/-- Fields of a UEWIN register. -/
def ueKey (r : BitVec 512) : Nat := bitsOf r 0 32
def ueJob (r : BitVec 512) : Nat := bitsOf r 32 16
def ueWr (r : BitVec 512) : Bool := bitOf r 61
def ueRd (r : BitVec 512) : Bool := bitOf r 62
def ueValid (r : BitVec 512) : Bool := bitOf r 63
def ueUetJob (r : BitVec 512) : Nat := bitsOf r 96 32
def ueBase (r : BitVec 512) : Nat := bitsOf r 128 57
def ueLen (r : BitVec 512) : Nat := bitsOf r 192 64
def ueWin (s : State) (w : Nat) : BitVec 512 := (cellsGet s.fab.uewins w).getD 0
def setUeWin (s : State) (w : Nat) (r : BitVec 512) : State := s.updFab (fun b => { b with uewins := cellsSet b.uewins w r })

/-- The window that serves a request: the lowest valid one with its RKEY and UETJOB. -/
def ueMatch (s : State) (r : UeRequest) : Option (BitVec 512) :=
  (s.fab.uewins.find? (fun w => ueValid w.2 && ueKey w.2 == r.rkey.toNat && ueUetJob w.2 == r.uetJob.toNat)).map (·.2)

/-- The answer to a remote endpoint: data (empty for a write), or a UET access error. -/
def ueAnswer (s : State) (a : Option (List Byte)) : State := emit s [.ueAnswer a]

/-- The pages of a job's range that are missing. -/
def rangeMisses (s : State) (job va n : Nat) (need : Need) : List Nat :=
  dedup (((pagePieces (n / 0x10000 + 2) va n).filter (fun p => translate s (bareAgent job) p.1 need == .miss)).map (fun p => pageOf p.1))

/-- An accepted request carried out, held for missing pages, or refused. -/
def serveUe (s : State) (job va : Nat) (r : UeRequest) : State :=
  let need : Need := if r.write.isSome then .w else .r
  match confRange s job va r.len need with
  | .fault _ => ueAnswer s none
  | .miss _ =>
    fabricPages (s.updFab (fun b => { b with ueHeld := b.ueHeld ++ [(job, va, r)] })) job (rangeMisses s job va r.len need)
  | .ok ps =>
    match r.write with
    | none => if elemL2Poisoned s ps then ueAnswer s none else ueAnswer s (some (homeBytes s ps))
    | some bs =>
      ueAnswer (writePlaces s ps bs) (some [])

/-- UE_RMA_REQUEST (R372). -/
def execUeRmaRequest (r : UeRequest) (s : State) : Host.Outcome State Fault Refusal := whenClocked s <|
  linkEvent s (fun s =>
    match ueMatch s r with
    | none => ueAnswer s none
    | some w =>
      if (if r.write.isSome then !ueWr w else !ueRd w) || decide (r.offset + r.len > ueLen w) ||
          (r.write.map List.length).getD r.len != r.len then ueAnswer s none
      else serveUe s (ueJob w) (ueBase w + r.offset) r)

/-! ## XLDQ (R371, R373) -/

/-- The endpoint table: its physical base and entry count (R351, R371). -/
def ueTabBase (s : State) : Nat := bitsOf s.fab.uetab 16 41 * 0x10000
def ueTabCount (s : State) : Nat := bitsOf s.fab.uetab 0 16

/-- The address of an endpoint entry. -/
def ueEntry (s : State) (i : Nat) : Nat := ueTabBase s + 32 * i

/-- The parts of an endpoint entry (R371): the target's fabric address, the job allowed to use it, the UET job identifier. -/
def ueEntryTarget (s : State) (i : Nat) : BitVec 128 := BitVec.ofNat 128 (readPhysNat s 0 (ueEntry s i) 16)
def ueEntryJob (s : State) (i : Nat) : Nat := readPhysNat s 0 (ueEntry s i + 16) 2
def ueEntryUetJob (s : State) (i : Nat) : Word := BitVec.ofNat 32 (readPhysNat s 0 (ueEntry s i + 20) 4)

/-- The handle may be used by a job (R373). -/
def ueHandleOk (s : State) (job : Nat) (h : DWord) : Bool :=
  let i := bitsOf h 32 16
  bitsOf h 48 16 == 0 && decide (i < ueTabCount s) && decide (ueEntry s i + 32 ≤ Config.hbmBytes) && ueEntryJob s i == job

/-- The first of XLDQ's checks that fails. -/
def xldqCheck (s : State) (job : Nat) (h : DWord) (x : Nat × Nat) : Option TrapInfo :=
  if x.2 % 8 ≠ 0 then some (trapAddr causeALIGN x.2 x.1)
  else if !ueHandleOk s job h then some { cause := causePROT, lo := loWord h, hi := 0, lane := x.1 }
  else none

/-- One RMA read for a block of 256 bytes, sent to the target the endpoint entry names under its UET job (R371, R373). -/
def Ctx.sendRead (c : Ctx) (q slot : Nat) (h : DWord) (block : Nat) (lanes : List (Nat × Nat)) : Ctx :=
  let (id, s) := c.s.fresh
  let r : RemoteReq :=
    { id := id, sent := s.clock, team := c.t.id, warp := c.wi, seq := c.p.seq, flag := none, opc := 0xD8, kind := .ue q slot
      peer := bitsOf h 32 16, job := c.t.ident.job, stream := 0, num := 0, lanes := lanes.map (fun x => (x.1, BitVec.ofNat 64 x.2, [])) }
  let s := s.updCore c.t.core (fun k => { k with remote := k.remote ++ [r] })
  { c with s := emit s [.ueRead id (ueEntryTarget c.s (bitsOf h 32 16)) (ueEntryUetJob c.s (bitsOf h 32 16)) (loWord h) block] }

/-- XLDQ (R373). A queue in A gives the offsets, popped with the reservation. -/
def execXldq (g : BitVec 4) (q : BitVec 4) (a : BitVec 7) (hr : BitVec 4) (s : State) : Host.Outcome State Fault Refusal :=
  issue s .accessOnly (fun c =>
    let act := c.act g
    match c.t.queue? q.toNat with
    | none => .trapC causeILLOPND
    | some x =>
      orIllopnd (isProducer x c.w && !x.dir && x.width == 2 && (op64 a).ok c) (
        if act = 0 then .done c
        else match readOps c act [op64 a] with
        | .stop r => r
        | .got c' vs =>
          let h := c.w.s64 (2 * hr.toNat)
          let xs := (lanesOf act).map (fun L => (L, (val vs 0 L).toNat))
          let i := bitsOf h 32 16
          if decide (i < ueTabCount c.s) && decide (ueEntry c.s i + 32 ≤ Config.hbmBytes) && !stackReady c.s (ueEntry c.s i) then .stall
          else match xs.findSome? (xldqCheck c.s c.t.ident.job h) with
          | some t => .trap t
          | none =>
            if !x.canReserve then .block c 2
            else
              let first := c.s.nextId
              let blocks := sortBy (fun a b => decide (a ≤ b)) (dedup (xs.map (fun y => y.2 / 256)))
              let c := blocks.foldl (fun c b => c.sendRead q.toNat x.tail h b (xs.filter (fun y => y.2 / 256 == b))) c'
              let flag := flagOf c.p.setA
              let e := inflightEntry c.wi first act (flag.map (fun n => (c.wi, n))) (val vs 0) (reqOfLane c.s c.t.core first)
              .done { c with t := (c.t.setQueue (x.reserve e)).signals (.entry first) c.wi act, w := c.w.bind flag }))

/-- The end of an XLDQ read: its data in lane order, or its failure (R373). -/
def ueEnd (req : Nat) (data : Option (List DWord)) (s : State) : State :=
  match findReq s req with
  | none => s
  | some (core, r) => match r.kind with
    | .ue _ _ => answerReq s core r (match data with
        | none => []
        | some l => ((r.lanes.map (·.1)).zip l).map (fun x => (x.1, 0, x.2)))
    | _ => s

/-- UE_READ_RESPONSE (R373). -/
def execUeReadResponse (req : Nat) (r : Option (List DWord)) (s : State) : Host.Outcome State Fault Refusal := linkEvent s (ueEnd req r)

/-- PACKET_DELIVERY_CONTEXT_FAIL (R373): the lanes the read serves become POISON with NOMAP. -/
def execPacketDeliveryContextFail (req : Nat) (s : State) : Host.Outcome State Fault Refusal := whenClocked s <| .next (ueEnd req none s)

end Sys2Proof.Machine
end

