-- ==== Sys2Proof/Machine/Ports.lean ====
section
/-! DEFINITION. Ports and windows: training, rekeying, reception by mode, spares, dark links (spec/13 R350-R358). -/

namespace Sys2Proof.Machine

/-- A port as the boot configuration leaves it: its mode and cipher, down (R350, R352, R354). -/
def Port.boot (mode : BitVec 2) (aes : Bool) : Port :=
  { reg := BitVec.ofNat 64 (mode.toNat * 2 ^ 10), tested := false, trained := false, retrain := false, aes := aes, key := 0
    txCtr := 0, rxCtr := 0, txPhase := false, rxPhase := false, txNext := none, rxNext := false, replay := [], peerWm := 0
    padSince := 0, fails := [], nack := false, skidOn := false, skidLines := [], toldCtr := 0, toldWm := 0 }

/-- The device's Agulanel ports have all failed: every other member of every group is suspected (R376). -/
def checkAllFailed (s : State) : State :=
  let l := s.fab.ports.filter (fun x => portMode x.2 == 1)
  if l.isEmpty ∨ !l.all (fun x => portState x.2 == 3) then s
  else s.fab.groups.foldl (fun s g => suspectRanks s g.num (otherMembers s g.bitmap)) s

/-- Packets that go from their first flit again. -/
def wholeAgain (l : List TxItem) : List TxItem := l.map (fun x => { x with left := x.flits })

/-- The packets of windows not yet acknowledged, each once, wait for a port again (R355): ahead of those not yet sent. -/
def requeue (s : State) (p : Port) : State :=
  s.updFab (fun b => { b with txq := (wholeAgain (p.replay.flatMap (·.parts) ++ b.txq)).eraseDups })

/-- A port fails (R355, R357): skid writes it never verified leave their lines poisoned; its packets travel again by other ports. -/
def failPort (s : State) (n : Nat) : State :=
  match s.port? n with
  | none => s
  | some p =>
    let s := s.updDie (fun d => { d with l2Poison := dedup (d.l2Poison ++ p.skidLines) })
    let s := requeue (s.updPort n (fun p => { p.setState 3 with skidLines := [], replay := [] })) p
    checkAllFailed (pump s s)

/-- The windows a port still keeps go again with the trailer of now (R353). -/
def resend (s : State) (n : Nat) : State :=
  match s.port? n with
  | none => s
  | some p =>
    if p.replay.isEmpty then s
    else (emit s (p.replay.map (fun x => .window n (trailerOf s p x.ctr x.parts)))).updPort n (fun p => { p with toldCtr := p.rxCtr, toldWm := fillLevels s })

/-- PORT_TRAINING (R352, R354, R357): with a peer port, training completes, a link key is agreed and the counters start at 0; after a spare has taken a wavelength's place key and counters go on, and the windows in flight are sent again. Without a peer, training is under way. -/
def execPortTraining (port : Nat) (peer : Option Nat) (s : State) : Host.Outcome State Fault Refusal :=
  .next (match s.port? port with
    | none => s
    | some p =>
      if portMode p = 0 ∨ !(s.pkg.power == .run || s.pkg.power == .idle) then s
      else match peer with
        | none => s.updPort port (fun p => p.setState 1)
        | some n =>
          let up (p : Port) : Port :=
            Port.setReady { p.setState 2 with
              reg := setBits (setBits p.reg 16 2 2) 0 10 n, trained := true, retrain := false, padSince := s.clock, skidOn := bitOf p.reg 18 }
          if p.retrain then
            let t := resend (s.updPort port up) port
            pump t t
          else
            let t := requeue (s.updPort port (fun p =>
              { up p with key := s.fab.keys, txCtr := 0, rxCtr := 0, txPhase := false, rxPhase := false, txNext := none, rxNext := false
                          replay := [], peerWm := 0, fails := [], nack := false, skidLines := [], toldCtr := 0, toldWm := 0 })) p
            pump t (t.updFab (fun b => { b with keys := b.keys + 1 })))

/-- The transmitter switches to the agreed key at the window boundary where none of its windows waits for an acknowledgement: KPH inverts, its counter starts at 0 (R354). -/
def Port.switchKey (p : Port) : Port :=
  match p.txNext with
  | some k => if p.replay.isEmpty then { p with key := k, txPhase := !p.txPhase, txCtr := 0, txNext := none } else p
  | none => p

/-- LINK_REKEY (R354): after 2^47 windows the ends have agreed the next key. -/
def execLinkRekey (port : Nat) (s : State) : Host.Outcome State Fault Refusal :=
  .next (match s.port? port with
    | none => s
    | some p =>
      if portState p = 2 ∧ (2 ^ 47 ≤ p.txCtr ∨ 2 ^ 47 ≤ p.rxCtr) ∧ p.txNext = none ∧ p.rxNext = false then
        let t := s.updPort port (fun p => Port.switchKey { p with txNext := some s.fab.keys, rxNext := true })
        pump t (t.updFab (fun b => { b with keys := b.keys + 1 }))
      else s)

/-! ## Reception (R355) -/

/-- One packet of a verified window. -/
def takeItem (s : State) : WindowItem → State
  | .request p => if p.dest = ownRank s ∧ p.src ≠ ownRank s then takeRequest p s else s
  | .response r => takeResponse r s
  | .collective p => takeCollective p s
  | .suspect m => takeSuspect m s
  | .propose m => takePropose m s
  | .accept m => takeAccept m s
  | .commit m => takeCommit m s
  | .join m => takeJoin m s

/-- The lines a packet's writes touch. -/
def writeLines (s : State) (p : Packet) : List Nat :=
  p.lanes.filterMap (fun x => match remoteXlat s p x.2.1.toNat with | .ok m => some (m.pa / 128) | _ => none)

/-- One packet of a window that has not verified, in skid mode: the data of RST and MCST is applied, that of RLDQ lands TENT; nothing else is released. -/
def skidItem (s : State) (port : Nat) : WindowItem → State
  | .request p =>
    if p.dest = ownRank s && writesOnly p.opc then
      (performPacket s p).1.updPort port (fun x => { x with skidLines := dedup (x.skidLines ++ writeLines s p) })
    else s
  | .response r =>
    match findReq s r.req with
    | none => s
    | some (_, q) => match q.kind with
      | .queue n slot => q.lanes.foldl (fun s x =>
          let ans := laneAnswer r.lanes x.1
          match (s.team? q.team).bind (fun t => t.queue? n) with
          | none => s
          | some y =>
            let l := (y.entries.getD slot QEntry.empty).lane x.1
            if ans.1 = 0 ∧ (l.st = .inflight ∨ l.st = .tent) then
              landLane s q.team n slot x.1 { l with st := .tent, data := BitVec.ofNat 64 (ans.2.toNat % 2 ^ y.bits), port := some port }
            else s) s
      | _ => s
  | _ => s

/-- An acknowledgement covers a window: its counter is at or below ACK, both modulo 2^32 (R353). -/
def acked (ack : BitVec 32) (ctr : Nat) : Bool := decide ((ack - BitVec.ofNat 32 ctr).toNat < 2 ^ 31)

/-- What a verified trailer tells this device's transmitter: windows up to ACK are kept no longer, WM gives the peer's fill levels, and after a NACK the windows behind ACK go again (R353, R356). -/
def takeTrailer (s : State) (port : Nat) (w : Window) : State :=
  let t := s.updPort port (fun p => { p with replay := p.replay.filter (fun x => !acked w.ack x.ctr), peerWm := w.wm })
  let t := if w.nack then resend t port else t
  pump s (t.updPort port Port.switchKey)

/-- A window verifies: its tag is right, and its counter is the one expected under its key phase; a phase that inverts announces the agreed key (R354). -/
def verifies (p : Port) (w : Window) : Bool :=
  w.tagGood && (if w.kph = p.rxPhase then w.ctr == p.rxCtr else p.rxNext && w.ctr == 0)

/-- WINDOW_RECEIVE (R353-R355): a window that verifies is released; one that fails is NACKed and comes again, and the fourth failure of one window fails the port. -/
def execWindowReceive (port : Nat) (w : Window) (s : State) : Host.Outcome State Fault Refusal :=
  match s.port? port with
  | none => .next s
  | some p =>
    if portMode p ≠ 1 ∨ portState p ≠ 2 then .next s
    else laneEvent s (fun s =>
      if verifies p w then
        let s := s.updPort port (fun p => { p with
          rxCtr := w.ctr + 1, rxPhase := w.kph, rxNext := p.rxNext && w.kph == p.rxPhase, fails := [], skidLines := [] })
        w.items.foldl takeItem (takeTrailer s port w)
      else
        let n := (cellsGet p.fails w.ctr).getD 0 + 1
        let s := s.updPort port (fun p => { p with
          fails := cellsSet p.fails w.ctr n, nack := true, reg := setBits p.reg 32 32 (min (bitsOf p.reg 32 32 + 1) (2 ^ 32 - 1)) })
        let s := if p.skidOn ∧ w.ctr = p.rxCtr then w.items.foldl (fun s i => skidItem s port i) s else s
        if 4 ≤ n then failPort s port else sendWindow s port)

/-- WINDOW_PAD_TIMEOUT (R353): fewer than five flits are padded with idle flits and sent after 64 cycles, by any port that is up: a window of idle flits alone too brings the peer ACK, NACK and WM. -/
def execWindowPadTimeout (port : Nat) (s : State) : Host.Outcome State Fault Refusal :=
  .next (match s.port? port with
    | none => s
    | some p => if linkUp s p ∧ 64 ≤ s.clock - p.padSince then sendWindow s port else s)

/-- WAVELENGTH_SPARE (R357): SPTX or SPRX counts a spare in use, and the port retrains; a fibre that needs a third fails its port. -/
def execWavelengthSpare (port : Nat) (transmit : Bool) (s : State) : Host.Outcome State Fault Refusal :=
  .next (match s.port? port with
    | none => s
    | some p =>
      let lo := if transmit then 24 else 26
      let n := bitsOf p.reg lo 2
      if n ≥ 2 then failPort s port
      else s.updPort port (fun p =>
        let q := { p with reg := setBits p.reg lo 2 (n + 1) }
        if portState p = 2 then { q.setState 1 with retrain := true } else q))

/-- DARK_LINK (spec/12 R343): a dark link is a link failure. -/
def execDarkLink (port : Nat) (s : State) : Host.Outcome State Fault Refusal :=
  .next (match s.port? port with
    | some p => if portMode p = 0 then s else failPort s port
    | none => s)

/-! ## The connected group (R351, R358) -/

/-- A team of any job is resident or saved. -/
def teamsPresent (s : State) : Bool := s.teams.any (fun t => t.placed || t.status == .saved)

/-- CGROUP_WRITE (R351, R358): 64 bits of the bitmap; each rank removed has the effect of a rank-down notice. -/
def cgroupSet (s : State) (index : Nat) (val : DWord) : State :=
  if teamsPresent s ∨ index ≥ 64 then s
  else
    let old := s.fab.cgroup
    let new := setBits old (64 * index) 64 val.toNat
    let gone := ((List.range 64).map (fun i => 64 * index + i)).filter (fun r => bitOf old r && !bitOf new r && r != ownRank s)
    gone.foldl rankDown (s.updFab (fun b => { b with cgroup := new }))

end Sys2Proof.Machine
end

