-- ==== Sys2Proof/Machine/RingOps.lean ====
section
/-! DEFINITION. Slot access, opcodes 0x68 to 0x6C (spec/05 R166-R167, spec/06 R182-R183, spec/01 R52). -/

namespace Sys2Proof.Machine

/-- The ring and slot of a handle: bits 31:28 and 27:16 (R52). -/
def handleRing (h : Word) : Nat := bitsOf h 28 4
def handleSlot (h : Word) : Nat := bitsOf h 16 12

def Team.ring? (t : Team) (n : Nat) : Option Ring := t.rings.find? (fun r => r.num == n)

/-- The ring of a handle when the first three cases of R167 hold. -/
def handleOk (t : Team) (h : Word) : Option Ring :=
  match t.ring? (handleRing h) with
  | none => none
  | some r => if handleSlot h < r.count ∧ bitsOf h 0 16 = 0 then some r else none

/-- The first byte of a slot, as a team offset. -/
def slotOff (r : Ring) (h : Word) : Nat := r.off + handleSlot h * r.slotSize

/-- The team offset of a region of bytes in a handle's slot, or in the slot after it. -/
def slotPlace (t : Team) (h : Word) (next : Bool) (bytes : Nat) : Option Nat :=
  match handleOk t h with
  | none => none
  | some r =>
    let n := handleSlot h + (if next then 1 else 0)
    if n < r.count ∧ bytes ≤ r.slotSize then some (r.off + n * r.slotSize) else none

/-- Where the band scales stand in a scale slot of R rows of K (spec/08 R224). -/
def bandOff (R K : Nat) : Nat := roundUp (R * K / 8) 16
/-- Bytes of a scale slot's contents: one for each block of 8, then a BF16 band scale for each 64 rows (R224, spec/09 R251). -/
def scaleBytes (R K : Nat) : Nat := bandOff R K + 2 * ((R + 63) / 64)

/-- The slot-poison entry of a handle's slot (spec/08 R238). -/
def slotPoisonOf (s : State) (t : Team) (h : Word) : Option SlotPoison :=
  (s.core t.core).slotPoison.find? (fun p => p.team == t.id && p.ring == handleRing h && p.slot == handleSlot h)

/-- The trap of a poisoned slot: the VA of its entry. -/
def slotPoisonTrap (p : SlotPoison) (L : Nat) : TrapInfo := trapAddr causeSLOTPOISON p.va.toNat L

/-- A ring fault: the handle and the offset of the lane. -/
def ringTrap (cause : BitVec 8) (h off : Word) (L : Nat) : TrapInfo := { cause := cause, lo := h, hi := off, lane := L }

/-- The granules a lane of RWAIT, RREL or RSET names: first and one past the last granule of the team, or none when the range leaves the slot (R182). The offset RINGBND reports is the first granule's byte offset. A count of 0 from just past the last granule names no granule and is accepted (DESIGN CHOICE, notes/assumptions/42.md). -/
def granuleRange (t : Team) (h b : Word) : Option (Nat × Nat) :=
  match handleOk t h with
  | none => none
  | some r =>
    let n := r.slotSize / 16
    let first := bitsOf b 16 16
    let cnt := if bitsOf b 0 16 = 0 then n - first else bitsOf b 0 16
    if first + cnt > n then none
    else some (slotOff r h / 16 + first, slotOff r h / 16 + first + cnt)

/-- The offset reported for a lane whose handle or range is refused (notes/assumptions/14.md). -/
def granuleFaultOff (b : Word) : Word := BitVec.ofNat 32 (16 * bitsOf b 16 16)

/-- The form of RWAIT, RREL and RSET: D zero, operands read, every active lane's range checked. -/
def granuleForm (s : State) (f : FmtAB) (body : Ctx → Ctx → List (Nat × Word × Nat × Nat) → Res) :
    Host.Outcome State Fault Refusal :=
  issue s .both (fun c =>
    let ops := [op32 .int f.a, op32 .int f.b]
    let act := c.act f.g
    orIllopnd (ops.all (Opnd.ok c)) (
      if act = 0 then .done c
      else match readOps c act ops with
        | .stop r => r
        | .got c' vs =>
          let h (L : Nat) := loWord (val vs 0 L)
          let b (L : Nat) := loWord (val vs 1 L)
          match (lanesOf act).find? (fun L => (granuleRange c.t (h L) (b L)).isNone) with
          | some L => .trap (ringTrap causeRINGBND (h L) (granuleFaultOff (b L)) L)
          | none => body c c' ((lanesOf act).filterMap (fun L => (granuleRange c.t (h L) (b L)).map (fun r => (L, h L, r.1, r.2))))))

/-- Every granule from lo up to hi is full. -/
def rangeFull (t : Team) (lo hi : Nat) : Bool := (List.range (hi - lo)).all (fun i => granuleFull t (lo + i))
/-- The granules of a range. -/
def rangeList (lo hi : Nat) : List Nat := (List.range (hi - lo)).map (· + lo)

/-- RWAIT (R182): a poisoned slot traps, also for a lane whose range names no granule of it (DESIGN CHOICE, notes/assumptions/49.md); else it waits until every granule is full. A wait pops nothing. -/
def execRwait (f : FmtAB) (s : State) : Host.Outcome State Fault Refusal :=
  granuleForm s f (fun c0 c rs =>
    match rs.findSome? (fun x => (slotPoisonOf c.s c.t x.2.1).map (fun p => (x.1, p))) with
    | some (L, p) => .trap (slotPoisonTrap p L)
    | none =>
      if rs.all (fun x => rangeFull c.t x.2.2.1 x.2.2.2) then
        afterReads c0 (c0.act f.g) <| .done { c with t := c.t.observesGranules (dedup (rs.flatMap (fun x => rangeList x.2.2.1 x.2.2.2))) c.wi (c0.act f.g) }
      else .block c0 5)

/-- The slots that the lanes' ranges together cover whole: their poison ends with RREL or RSET (spec/08 R238). -/
def clearSlotPoison (c : Ctx) (rs : List (Nat × Word × Nat × Nat)) : Ctx :=
  let whole := rs.filter (fun x => match handleOk c.t x.2.1 with
    | some r => (rangeList (slotOff r x.2.1 / 16) ((slotOff r x.2.1 + r.slotSize) / 16)).all (fun g =>
        rs.any (fun y => decide (y.2.2.1 ≤ g ∧ g < y.2.2.2)))
    | none => false)
  { c with s := c.s.updCore c.t.core (fun k => { k with slotPoison := k.slotPoison.filter (fun p =>
      !(p.team == c.t.id && whole.any (fun x => p.ring == handleRing x.2.1 && p.slot == handleSlot x.2.1))) }) }

/-- RREL and RSET (R182). -/
def setForm (s : State) (f : FmtAB) (full : Bool) : Host.Outcome State Fault Refusal :=
  granuleForm s f (fun c0 c rs =>
    let act := c0.act f.g
    let c := clearSlotPoison c rs
    let c := c.scrFence act (fun g => rs.any (fun x => decide (x.2.2.1 ≤ g ∧ g < x.2.2.2)))
    .done (c.changeBits act false (dedup (rs.flatMap (fun x => rangeList x.2.2.1 x.2.2.2))) full []))

def execRrel (f : FmtAB) (s : State) := setForm s f false
def execRset (f : FmtAB) (s : State) := setForm s f true

/-- The fault of an LDR or STR lane, in the order of R183; else the team offset of its word. -/
def wordCheck (t : Team) (h b : Word) : Sum (BitVec 8) Nat :=
  match handleOk t h with
  | none => .inl causeRINGBND
  | some r =>
    if bitsOf b 0 2 ≠ 0 then .inl causeALIGN
    else if b.toNat + 4 > r.slotSize then .inl causeRINGBND
    else .inr (slotOff r h + b.toNat)

/-- The form of LDR and STR. -/
def wordForm (s : State) (f : FmtA) (body : Ctx → Ctx → List (Nat × Word × Nat) → Res) : Host.Outcome State Fault Refusal :=
  issue s .both (fun c =>
    let ops := [op32 .int f.a, op32 .int f.b]
    let act := c.act f.g
    orIllopnd (regOk c f.d.toNat && ops.all (Opnd.ok c)) (
      if act = 0 then .done c
      else match readOps c act ops with
        | .stop r => r
        | .got c' vs =>
          let h (L : Nat) := loWord (val vs 0 L)
          let b (L : Nat) := loWord (val vs 1 L)
          let rs := (lanesOf act).map (fun L => (L, wordCheck c.t (h L) (b L)))
          match firstCause rs with
          | some (L, cause) => .trap (ringTrap cause (h L) (b L) L)
          | none => if rs.any (fun x => match x.2 with | .inr off => c.wordsHeld (off / 16) | _ => false) then .stall
            else body c c' ((passedLanes rs).map (fun x => (x.1, h x.1, x.2)))))

/-- LDR (R183): waits with BLK 5, no operand popped, until each word's granule is full. -/
def execLdr (f : FmtA) (s : State) : Host.Outcome State Fault Refusal :=
  wordForm s f (fun c0 c ws =>
    match ws.findSome? (fun x => (slotPoisonOf c.s c.t x.2.1).map (fun p => (x.1, p))) with
    | some (L, p) => .trap (slotPoisonTrap p L)
    | none =>
      if ws.all (fun x => granuleFull c.t (x.2.2 / 16)) then
        afterReads c0 (c0.act f.g) <| .done { c with
          t := c.t.observesGranules (dedup (ws.map (fun x => x.2.2 / 16))) c.wi (c0.act f.g)
          w := c.w.setV f.d.toNat (maskOf (fun L => ws.any (fun x => x.1 == L))) (fun L =>
            match ws.find? (fun x => x.1 == L) with
            | some x => BitVec.ofNat 32 (leNat (c.t.scr.bytes.read x.2.2 4))
            | none => 0) }
      else .block c0 5)

/-- STR (R183): never waits, never changes a full/empty bit. -/
def execStr (f : FmtA) (s : State) : Host.Outcome State Fault Refusal :=
  wordForm s f (fun _ c ws =>
    .done (ws.foldl (fun c x => c.scrStore x.1 (wholeBytes x.2.2 (leBytes 4 (c.w.v f.d.toNat x.1).toNat))) c))

end Sys2Proof.Machine
end

