-- ==== Sys2Proof/Machine/Stream.lean ====
section
/-! DEFINITION. Stream commands, opcodes 0xC0 to 0xC3, and the layout record (spec/08 R233-R236, spec/09 R264-R266). -/

namespace Sys2Proof.Machine

/-! ## The layout record (R234, R235) -/

def layBox (l : BitVec 512) (i : Nat) : Nat := bitsOf l (440 + 12 * i) 12 + 1
def laySize (l : BitVec 512) (i : Nat) : Nat := bitsOf l (192 + 24 * i) 24
/-- The byte stride of dimension i, from 1 to 4. -/
def layStride (l : BitVec 512) (i : Nat) : Nat := bitsOf l (312 + 32 * (i - 1)) 32 * 16
def layBands (l : BitVec 512) : Nat := bitsOf l 128 57
def layFill (l : BitVec 512) : Nat := bitsOf l 126 2
def layPlanes (l : BitVec 512) : Bool := bitOf l 125
def layScales (l : BitVec 512) : Nat := bitsOf l 64 57
def layRank (l : BitVec 512) : Nat := bitsOf l 61 3
def layFmt (l : BitVec 512) : Nat := bitsOf l 57 4
def layBase (l : BitVec 512) : Nat := bitsOf l 0 57

/-- Bits of an element of FMT 1 to 9. -/
def elemBits (f : Nat) : Nat := if f = 8 ∨ f = 9 then 32 else if f = 6 ∨ f = 7 then 16 else if f = 1 ∨ f = 4 then 4 else 8

/-- The limits of R235. -/
def layoutOk (l : BitVec 512) : Bool :=
  let r := layRank l
  let f := layFmt l
  let b0 := layBox l 0
  bitsOf l 500 12 == 0 && bitsOf l 185 7 == 0 && bitsOf l 121 4 == 0 && decide (1 ≤ r ∧ r ≤ 5) && decide (1 ≤ f ∧ f ≤ 9) &&
    (List.range 5).all (fun i => if i < r then decide (1 ≤ laySize l i)
      else laySize l i == 0 && layBox l i == 1 && (i == 0 || layStride l i == 0)) &&
    (f != 1 || b0 % 8 == 0) &&
    (!layPlanes l || (decide (2 ≤ r) && decide (f ≤ 7) && b0 % 32 == 0 && decide (b0 ≤ 512) && decide (layBox l 1 ≤ 128) &&
      layBox l 2 == 1 && layBox l 3 == 1 && layBox l 4 == 1)) &&
    (f == 1 || (layScales l == 0 && layBands l == 0))

/-- Bytes of a dimension-0 line in row layout: it starts on a 16-byte boundary (R236). -/
def lineBytes (l : BitVec 512) : Nat := roundUp ((layBox l 0 * elemBits (layFmt l) + 7) / 8) 16
/-- Lines of a box. -/
def boxLines (l : BitVec 512) : Nat := layBox l 1 * layBox l 2 * layBox l 3 * layBox l 4
/-- Bytes a box takes in its slot (R223, R236). -/
def boxBytes (l : BitVec 512) : Nat :=
  if layPlanes l then elemBits (layFmt l) * layBox l 1 * layBox l 0 / 8 else lineBytes l * boxLines l
/-- A fill writes a scale slot (R236). -/
def hasScales (l : BitVec 512) : Bool := layPlanes l && layFmt l == 1
/-! ## SLAY (R264) -/

/-- SLAY: the record is read in relaxed reads of 8 bytes, for which the split blocks with BLK 5 while they must wait. -/
def execSlay (g : BitVec 4) (n : BitVec 2) (a : BitVec 7) (s : State) : Host.Outcome State Fault Refusal :=
  issue s .both (fun c =>
    orIllopnd (isSPair a) (
      let act := c.act g
      let va := (c.w.s64 (sNum a)).toNat
      if act = 0 then .done c
      else if va % 64 ≠ 0 then .trap (trapAddr causeALIGN va 0)
      else if va ≥ globalTop then .trap (trapAddr causePROT va 0)
      else match globalPlaces c.s c.agent va 64 .r with
        | .fault cause => .trap (trapAddr cause va 0)
        | .miss ps => .switchOut ps
        | .ok ps es =>
          if elemPoisoned c.s c.t.core ps then .trap (trapAddr causeECCU va 0)
          else if elemL2Poisoned c.s ps then .raw (killTeam c.s c.t.id)
          else if overtakesAny c ((lanesOf act).map (fun L => (L, ps))) then .block c 5
          else
            let rec_ := BitVec.ofNat 512 (readElem c.s c.t ps)
            orIllopnd (layoutOk rec_) (
              let c := c.noteTlb es
              .done { c with t := { c.t with mtx := { c.t.mtx with layouts := updAt c.t.mtx.layouts n.toNat (fun _ => some rec_) } } })))

/-! ## SFILL and SDRAIN (R265) -/

/-- Entries of an engine's FIFO in use: commands not yet started, one that waits for a page among them (R233; DESIGN CHOICE, notes/assumptions/42.md). -/
def fifoUsed (r : Runnel) : Nat := (r.fifo.filter (fun x => !x.started)).length

/-- The form of SFILL and SDRAIN. RINGBND reports the handle and the bytes of the box, or 0 where the layout register was never loaded (DESIGN CHOICE, notes/assumptions/14.md). -/
def commandForm (s : State) (g : BitVec 4) (e n : BitVec 2) (a : BitVec 7) (drain : Bool) : Host.Outcome State Fault Refusal :=
  issue s .both (fun c =>
    orIllopnd (decide (0x40 ≤ a.toNat ∧ a.toNat ≤ 0x5A)) (
      let h := c.w.sr (sNum a)
      let org : List Int := (List.range 5).map (fun i => (c.w.sr (sNum a + 1 + i)).toInt)
      if c.act g = 0 then .done c
      else match c.t.mtx.layouts.getD n.toNat none with
        | none => .trap (ringTrap causeRINGBND h 0 0)
        | some l =>
          orIllopnd (!(drain && layPlanes l) && (!hasScales l || (org.getD 0 0 % 8 == 0 && org.getD 1 0 % 64 == 0))) (
            if (slotPlace c.t h false (boxBytes l)).isNone then .trap (ringTrap causeRINGBND h (BitVec.ofNat 32 (boxBytes l)) 0)
            else if hasScales l && (slotPlace c.t h true (scaleBytes (layBox l 1) (layBox l 0))).isNone then
              .trap (ringTrap causeRINGBND h (BitVec.ofNat 32 (scaleBytes (layBox l 1) (layBox l 0))) 0)
            else
              let r := (c.s.core c.t.core).runnels.getD e.toNat Runnel.reset
              if fifoUsed r ≥ 16 then .block c 5
              else
                let flag := flagOf (if drain then c.p.setB else c.p.setA)
                let (id, s) := c.s.fresh
                let cmd : RunCmd :=
                  { id := id, team := c.t.id, warp := c.wi, lanes := c.act g, drain := drain, flag := flag, layout := l, handle := h, origin := org
                    started := false, granules := [], writes := [], wrote := [], missing := [], poison := none }
                .done { c with
                  s := s.updCore c.t.core (fun k => { k with runnels := updAt k.runnels e.toNat (fun r => { r with fifo := r.fifo ++ [cmd] }) })
                  t := c.t.signals (.cmd id) c.wi (c.act g)
                  w := c.w.bind flag })))

def execSfill (g : BitVec 4) (e l : BitVec 2) (a : BitVec 7) (s : State) : Host.Outcome State Fault Refusal :=
  commandForm s g e l a false
def execSdrain (g : BitVec 4) (e l : BitVec 2) (a : BitVec 7) (s : State) : Host.Outcome State Fault Refusal :=
  commandForm s g e l a true

/-! ## SWAIT (R266) -/

/-- Engines of a mask. -/
def maskEngines (m : BitVec 4) : List Nat := (List.range 4).filter (fun e => bitOf m e)

/-- The commands of a warp at some engines of its core that have not completed. -/
def pendingCmds (c : Ctx) (es : List Nat) : List Nat :=
  es.flatMap (fun e => (((c.s.core c.t.core).runnels.getD e Runnel.reset).fifo.filter
    (fun x => x.team == c.t.id && x.warp == c.wi)).map (·.id))

/-- SWAIT: a stopped drain is reported once, the oldest first; else it waits for the commands sent before it. -/
def execSwait (g : BitVec 4) (m : BitVec 4) (s : State) : Host.Outcome State Fault Refusal :=
  issue s .both (fun c =>
    orIllop (m != 0) (
      if c.act g = 0 then .done c
      else
        let es := maskEngines m
        let bad := c.t.stopped.filter (fun d => d.warp == c.wi && es.contains d.engine)
        let mark : List Nat := match c.p.arrival with
          | some (.swait l) => l
          | _ => pendingCmds c es ++ bad.map (·.id)
        match firstBy (fun a b => decide (a.id ≤ b.id)) (bad.filter (fun d => mark.contains d.id)) with
        | some d =>
          .trapWith { c with t := { c.t with stopped := c.t.stopped.filter (fun x => x.id != d.id) }
                             w := c.w.unbind d.flag
                             p := { c.p with arrival := some (.swait mark) } }
            (trapAddr causeSLOTPOISON d.va.toNat 0) c.p.unitPc
        | none =>
          if (pendingCmds c es).any mark.contains then .block { c with p := { c.p with arrival := some (.swait mark) } } 5
          else afterReads c (c.act g) (.done c)))

end Sys2Proof.Machine
end

