-- ==== Sys2Proof/Machine/RunnelEvents.lean ====
section
/-! DEFINITION. Events of the Runnel engines: start of a command, landing of a fill's granules, the writes of a drain (spec/08 R233-R238, spec/09 R265). -/

namespace Sys2Proof.Machine

/-- The FILL code of a format (R234). -/
def fillCode (f sel : Nat) : Nat :=
  let w := elemBits f
  if f = 4 ∨ f = 5 ∨ f = 9 then (match sel with | 2 => 2 ^ (w - 1) | 3 => 1 | _ => 0)
  else
    let F := if f = 8 then fp32 else if f = 7 then fp16 else if f = 6 then bf16 else if f = 3 then e5m2 else if f = 2 then e4m3 else e2m1
    match sel with
    | 0 => 0
    | 1 => F.nanCode
    | 2 => F.maxCode true
    | _ => roundQ F .rne false false 1 1 0

/-- What an engine's read meets: a value, a recoverable miss, an unrecoverable one, or a poisoned line of L2. -/
inductive EngRead where
  | val (n : Nat)
  | miss (va : Nat)
  | fault (cause : BitVec 8) (va : Nat)
  | dead
  deriving DecidableEq, Repr

/-- Where an engine of a core finds a byte of GLOBAL. -/
def enginePlace (s : State) (core job va : Nat) (need : Need) : Xlat :=
  if va ≥ globalTop then .fault causePROT else translate s { job := job, core := some core, keyovr := none } va need

/-- One byte read by an engine as its core sees it (R215: SFILL at CORE scope), late stores of its lanes apart. -/
def engineByte (s : State) (core job va : Nat) : EngRead :=
  match enginePlace s core job va .r with
  | .fault cause => .fault cause va
  | .miss => .miss va
  | .ok m => if l2Poisoned s m.pa then .dead else .val (coreByte (coreView s core) core m.slot m.pa).toNat

/-- Several bytes as one number: the first that is no value decides. -/
def engineRead (s : State) (core job va : Nat) : Nat → EngRead
  | 0 => .val 0
  | n + 1 =>
    match engineByte s core job va, engineRead s core job (va + 1) n with
    | .val b, .val r => .val (b + 256 * r)
    | .val _, x => x
    | x, _ => x

/-- The tensor coordinates of box element e, counted along dimension 0 first (R236, R265). -/
def boxCoord (c : RunCmd) (e : Nat) : List Int :=
  let b (i : Nat) : Nat := layBox c.layout i
  let t := [e % b 0, e / b 0 % b 1, e / (b 0 * b 1) % b 2, e / (b 0 * b 1 * b 2) % b 3, e / (b 0 * b 1 * b 2 * b 3) % b 4]
  (List.range 5).map (fun i => if i < layRank c.layout then c.origin.getD i 0 + (t.getD i 0 : Int) else 0)

/-- A coordinate from dimension lo on lies in the tensor. -/
def coordIn (l : BitVec 512) (lo : Nat) (ii : List Int) : Bool :=
  (List.range 5).all (fun i => decide (i < lo ∨ i ≥ layRank l) || decide (0 ≤ ii.getD i 0 ∧ ii.getD i 0 < laySize l i))

/-- Σ over dimensions 1 and up of ii × STRIDEi × 16. -/
def coordOffset (l : BitVec 512) (ii : List Int) : Nat :=
  ((List.range 4).map (fun i => (ii.getD (i + 1) 0).toNat * layStride l (i + 1))).foldl (· + ·) 0

/-- The VA of an in-bounds element, and its nibble when it has four bits. -/
def elemAddr (l : BitVec 512) (ii : List Int) : Nat :=
  layBase l + (ii.getD 0 0).toNat * elemBits (layFmt l) / 8 + coordOffset l ii

/-- Box element e: the FILL code out of bounds, else its code in memory (R236). -/
def boxElem (s : State) (core job : Nat) (c : RunCmd) (e : Nat) : EngRead :=
  let l := c.layout
  let ii := boxCoord c e
  if !coordIn l 0 ii then .val (fillCode (layFmt l) (layFill l))
  else
    let w := elemBits (layFmt l)
    match engineRead s core job (elemAddr l ii) (if w = 4 then 1 else w / 8) with
    | .val n => .val (if w = 4 then n / 2 ^ (4 * ((ii.getD 0 0).toNat % 2)) % 16 else n)
    | x => x

/-- Byte x of the scale slot: a block scale, or half of a band scale (R236); between them padding, a free value (notes/assumptions/22.md). -/
def scaleByte (s : State) (core job : Nat) (c : RunCmd) (x : Nat) : EngRead :=
  let l := c.layout
  let R := layBox l 1
  let K := layBox l 0
  if x < R * K / 8 then
    let ii := boxCoord c (x / (K / 8) * K + 8 * (x % (K / 8)))
    if layScales l = 0 ∨ !coordIn l 0 ii then .val 0x60
    else engineRead s core job (layScales l + (ii.getD 0 0).toNat / 8 + coordOffset l ii / 4) 1
  else
    let g := (x - bandOff R K) / 2
    let ii := boxCoord c (64 * g * K)
    let z (i : Nat) : Nat := (ii.getD i 0).toNat
    if x < bandOff R K then .val ((Config.freeBits s.freeTag (2 ^ 32 + x)).setWidth 8 : Byte).toNat
    else if layBands l = 0 ∨ !coordIn l 1 ii then .val (if (x - bandOff R K) % 2 = 0 then 0x80 else 0x3F)
    else engineRead s core job (layBands l + 2 * (z 1 / 64 + (laySize l 1 + 63) / 64 * (z 2 + laySize l 2 * (z 3 + laySize l 3 * z 4)))
      + (x - bandOff R K) % 2) 1

/-- The box elements that byte o of the slot is made of. -/
def byteElems (l : BitVec 512) (o : Nat) : List Nat :=
  let b0 := layBox l 0
  let w := elemBits (layFmt l)
  if layPlanes l then
    let plane := layBox l 1 * b0 / 8
    (List.range 8).map (fun t => 8 * (o % plane) + t)
  else
    let li := o / lineBytes l
    let x := o % lineBytes l
    if w = 4 then ((List.range 2).map (fun t => 2 * x + t)).filterMap (fun t => if t < b0 then some (li * b0 + t) else none)
    else if 8 * x / w < b0 then [li * b0 + 8 * x / w] else []

/-- Byte o of the slot from the codes of its elements. Padding at the end of a line is a free value: the manual does not give it. -/
def byteOf (tag : Nat) (l : BitVec 512) (code : Nat → Nat) (o : Nat) : Byte :=
  let es := byteElems l o
  let w := elemBits (layFmt l)
  if layPlanes l then
    let j := o / (layBox l 1 * layBox l 0 / 8)
    BitVec.ofNat 8 (((List.range 8).zip es).foldl (fun n x => n + (code x.2 / 2 ^ j % 2) * 2 ^ x.1) 0)
  else
    let pad : Byte := (Config.freeBits tag o).setWidth 8
    match es with
    | [] => pad
    | [e] => if w = 4 then mergeBits pad 0x0F (BitVec.ofNat 8 (code e))
             else BitVec.ofNat 8 (code e / 2 ^ (8 * (o % lineBytes l % (w / 8))))
    | e :: f :: _ => BitVec.ofNat 8 (code e + 16 * code f)

/-! ## The end of a command -/

/-- A core's engine changed. -/
def updRunnel (s : State) (core eng : Nat) (f : Runnel → Runnel) : State :=
  s.updCore core (fun k => { k with runnels := updAt k.runnels eng f })

def updCmd (s : State) (core eng id : Nat) (f : RunCmd → RunCmd) : State :=
  updRunnel s core eng (fun r => { r with fifo := r.fifo.map (fun x => if x.id = id then f x else x) })

/-- A command leaves its FIFO. -/
def dropCmd (s : State) (core eng : Nat) (c : RunCmd) : State :=
  updRunnel s core eng (fun r => { r with fifo := r.fifo.filter (fun x => x.id != c.id) })

/-- A command completes: it leaves its FIFO and its flag is released. -/
def endCmd (s : State) (core eng : Nat) (c : RunCmd) : State :=
  opEnded ((dropCmd s core eng c).unbind c.team c.warp c.flag) c.team

/-- A command waits for the pages of some VAs: requested under R154; it starts again when they are answered (R238). -/
def waitPages (s : State) (core job eng : Nat) (c : RunCmd) (vas : List Nat) : State :=
  updCmd (requestPages s core job (dedup (vas.map pageOf))) core eng c.id (fun x => { x with missing := dedup vas })

/-- A command stops on an unrecoverable miss (R238): a fill's slot is poisoned, once the table has room; a drain is kept for SWAIT. -/
def stopCmd (s : State) (core eng : Nat) (c : RunCmd) (cause : BitVec 8) (va : Nat) : State :=
  if c.drain then
    opEnded (dropCmd (s.updTeam c.team (fun t => { t with stopped := t.stopped ++
      [{ id := c.id, warp := c.warp, flag := c.flag, engine := eng, va := BitVec.ofNat 64 va }] })) core eng c) c.team
  else if (s.core core).slotPoison.length ≥ 16 then updCmd s core eng c.id (fun x => { x with poison := some (cause, va) })
  else
    endCmd (s.updCore core (fun k => { k with slotPoison := k.slotPoison ++
      [{ team := c.team, ring := handleRing c.handle, slot := handleSlot c.handle, cause := cause, va := BitVec.ofNat 64 va }] })) core eng c

/-- The first that is no value, faults before misses. -/
def firstBad (l : List EngRead) : Option EngRead :=
  match l.find? (fun x => x == .dead) with
  | some x => some x
  | none => match l.find? (fun x => match x with | .fault _ _ => true | _ => false) with
    | some x => some x
    | none => l.find? (fun x => match x with | .miss _ => true | _ => false)

/-! ## Fills -/

/-- The granules of a region with the offset of their first byte in it. -/
def granulesFrom (off bytes : Nat) : List (Nat × Nat) := (List.range ((bytes + 15) / 16)).map (fun i => (off / 16 + i, 16 * i))

/-- A fill starts: the box is read; each granule then lands by itself. -/
def startFill (s : State) (t : Team) (core eng : Nat) (c : RunCmd) : State :=
  let l := c.layout
  let job := t.ident.job
  let n := boxBytes l
  let m := if hasScales l then scaleBytes (layBox l 1) (layBox l 0) else 0
  let es := ((List.range (layBox l 0 * boxLines l)).map (boxElem s core job c)).toArray
  let ss := ((List.range m).map (scaleByte s core job c)).toArray
  let code (e : Nat) : Nat := match es.getD e .dead with | .val v => v | _ => 0
  let scale (x : Nat) : Nat := match ss.getD x .dead with | .val v => v | _ => 0
  let off := (slotPlace t c.handle false n).getD 0
  let off2 := (slotPlace t c.handle true m).getD 0
  let main := (granulesFrom off n).map (fun g =>
    ((g.1, (List.range (min 16 (n - g.2))).map (fun i => byteOf s.freeTag l code (g.2 + i))),
     (List.range (min 16 (n - g.2))).flatMap (fun i => (byteElems l (g.2 + i)).map (fun e => es.getD e .dead))))
  let scl := (granulesFrom off2 m).map (fun g =>
    ((g.1, (List.range (min 16 (m - g.2))).map (fun i => BitVec.ofNat 8 (scale (g.2 + i)))),
     (List.range (min 16 (m - g.2))).map (fun i => ss.getD (g.2 + i) .dead)))
  let all := main ++ scl
  match firstBad (es.toList ++ ss.toList) with
  | some .dead => killTeam s c.team
  | some (.fault cause va) =>
    -- granules that depend on no faulting element may have landed before the engine stopped
    let landed := all.filter (fun g => (firstBad g.2).isNone && Config.freeBool s.freeTag g.1.1)
    let s := s.updTeam c.team (fun t => { t with scr := landed.foldl (fun sc g => sc.land c.id g.1.1 (wholeBytes (16 * g.1.1) g.1.2)) t.scr })
    stopCmd s core eng c cause va
  | some (.miss _) => waitPages s core job eng c ((es.toList ++ ss.toList).filterMap (fun x => match x with | .miss va => some va | _ => none))
  | _ => updCmd s core eng c.id (fun x => { x with started := true, missing := [], granules := all.map (·.1) })

/-! ## Drains -/

/-- The bytes a drain writes, line by line: in-bounds elements only (R265). -/
def drainWrites (t : Team) (c : RunCmd) (off : Nat) : List (Nat × Byte × Byte) :=
  let l := c.layout
  let w := elemBits (layFmt l)
  let slot := (t.scr.bytes.read off (boxBytes l)).toArray
  let b0 := layBox l 0
  (List.range (b0 * boxLines l)).flatMap (fun e =>
    let ii := boxCoord c e
    if !coordIn l 0 ii then []
    else
      let va := elemAddr l ii
      let at_ := e / b0 * lineBytes l + e % b0 * w / 8
      if w = 4 then
        let n := (slot.getD at_ 0).toNat / 2 ^ (4 * (e % b0 % 2)) % 16
        if (ii.getD 0 0).toNat % 2 = 0 then [(va, 0x0F, BitVec.ofNat 8 n)] else [(va, 0xF0, BitVec.ofNat 8 (16 * n))]
      else (List.range (w / 8)).map (fun i => (va + i, 0xFF, slot.getD (at_ + i) 0)))

/-- A drain starts once every granule of its box is full (R237). -/
def startDrain (s : State) (t : Team) (core eng : Nat) (c : RunCmd) : State :=
  let n := boxBytes c.layout
  match slotPlace t c.handle false n with
  | none => s
  | some off =>
    if !(granulesFrom off n).all (fun g => granuleFull t g.1) then s
    else updCmd s core eng c.id (fun x => { x with started := true, missing := [], writes := drainWrites t c off })

/-- How a drain's writes end: all performed, or at a miss or an unrecoverable one with its VA. -/
inductive DrainEnd where
  | done
  | miss (va : Nat)
  | fault (cause : BitVec 8) (va : Nat)

/-- The writes performed in order at DEVICE, until one misses, and those left. -/
def performWrites (core job : Nat) : State → List (Nat × Byte × Byte) → State × DrainEnd × List (Nat × Byte × Byte)
  | s, [] => (s, .done, [])
  | s, (va, mask, v) :: r =>
    match enginePlace s core job va .w with
    | .fault cause => (s, .fault cause va, (va, mask, v) :: r)
    | .miss => (s, .miss va, (va, mask, v) :: r)
    | .ok m =>
      performWrites core job (touchPools (writeBytes s m.slot (m.cattr == 2) [(m.pa, mergeBits (readPhys s m.slot m.pa) mask v)]) [m.pa]) r

/-- The bytes of memory that some writes of a drain cover, every bit of them. -/
def coveredBytes (s : State) (core job : Nat) (ws : List (Nat × Byte × Byte)) : List (Nat × Byte) :=
  (dedup (ws.map (·.1))).filterMap (fun va =>
    if (ws.filter (fun x => x.1 == va)).foldl (fun (m : Byte) x => m ||| x.2.1) 0 ≠ 0xFF then none
    else match enginePlace s core job va .w with | .ok m => some (m.pa, 0) | _ => none)

/-- A byte a drain is to write has a store of its core pending: that one comes first (spec/07 R206). -/
def storesAhead (s : State) (core job : Nat) (ws : List (Nat × Byte × Byte)) : Bool :=
  !(s.core core).stores.isEmpty && ws.any (fun x => match enginePlace s core job x.1 .w with
    | .ok m => (pendingByte (s.core core).stores m.slot m.pa).isSome
    | _ => false)

/-- The command at the head of an engine's FIFO with its team. -/
def headCmd (s : State) (core eng : Nat) : Option (RunCmd × Team) :=
  match ((s.core core).runnels.getD eng Runnel.reset).fifo with
  | [] => none
  | c :: _ => (s.team? c.team).map (fun t => (c, t))

/-- RUNNEL_COMMAND_START (R233): the head command of a ready engine starts; one that is to stop does so when the slot-poison table has room; one of a team that has ended completes with its results discarded (spec/11 R306). -/
def execRunnelCommandStart (core eng : Nat) (s : State) : Host.Outcome State Fault Refusal := whenClocked s <|
  if !((s.core core).runnels.getD eng Runnel.reset).ready then .next s
  else match headCmd s core eng with
    | none => .next s
    | some (c, t) =>
      if c.started then .next s
      else if t.status = .finished ∨ t.status = .killed then .next (endCmd s core eng c)
      else if !c.missing.isEmpty then .next s
      else match c.poison with
        | some (cause, va) => .next (stopCmd s core eng c cause va)
        | none =>
          -- the reads of a fill come after what its issuing lanes released (spec/07 R215)
          .next (if c.drain then startDrain s t core eng c
            else if lanesDone s t c.warp c.lanes c.id then startFill s t core eng c else s)

/-- FILL_GRANULE_LAND (R237): a granule of a fill lands and is set full; the fill completes with its last. A change of the granule that was issued before the fill and is held takes effect first (spec/07 R214, R215). -/
def execFillGranuleLand (core eng g : Nat) (s : State) : Host.Outcome State Fault Refusal := whenClocked s <|
  match headCmd s core eng with
  | none => .next s
  | some (c, t) =>
    if t.scr.held.any (fun h => decide (h.mark ≤ c.id) && h.granules.contains g) then .next s
    else match c.granules.find? (fun x => x.1 == g) with
    | none => .next s
    | some x =>
      let s := s.updTeam c.team (fun t => { t with scr := t.scr.land c.id g (wholeBytes (16 * g) x.2) })
      let left := c.granules.filter (fun y => y.1 != g)
      .next (if left.isEmpty then endCmd s core eng c else updCmd s core eng c.id (fun y => { y with granules := left }))

/-- SDRAIN_WRITES_DONE (R265): the writes of the drain are performed at DEVICE and it completes, a line it has written whole losing its poison mark, also where it ends in a miss (spec/11 R327); a recoverable miss leaves the rest for later; an unrecoverable one, or a page whose request has been refused, stops it (R238). -/
def execSdrainWritesDone (core eng : Nat) (s : State) : Host.Outcome State Fault Refusal := whenClocked s <|
  match headCmd s core eng with
  | none => .next s
  | some (c, t) =>
    if !c.drain ∨ !c.started ∨ !c.missing.isEmpty then .next s
    else match c.poison with
    | some (cause, va) => .next (stopCmd s core eng c cause va)
    | none =>
    if storesAhead s core t.ident.job c.writes then .next s
    else
      let (s, e, left) := performWrites core t.ident.job s c.writes
      let wrote := c.wrote ++ c.writes.take (c.writes.length - left.length)
      let s := if s.die.l2Poison.isEmpty then s else clearCovered s (coveredBytes s core t.ident.job wrote)
      .next (match e with
        | .done => endCmd s core eng c
        | .miss va => updCmd (waitPages s core t.ident.job eng c [va]) core eng c.id (fun x => { x with writes := left, wrote := wrote })
        | .fault cause va => stopCmd s core eng c cause va)

end Sys2Proof.Machine
end

