-- ==== Sys2Proof/Machine/Pass.lean ====
section
/-! DEFINITION. The matrix pass: operand layout (spec/08 R223-R226), which regions a request reads (spec/09 R251-R253), and the arithmetic of a pass (spec/03 R95-R100). -/

namespace Sys2Proof.Machine

/-- Code bits of a matrix format (R247). -/
def fmtBits (f : Nat) : Nat := if f = 1 ∨ f = 4 then 4 else if f = 6 ∨ f = 7 then 16 else 8
/-- The integer formats. -/
def fmtIsInt (f : Nat) : Bool := f == 4 || f == 5
/-- The floating format of a code. -/
def fmtFloat (f : Nat) : FFmt := if f = 1 then e2m1 else if f = 2 then e4m3 else if f = 3 then e5m2 else if f = 6 then bf16 else fp16

/-- A matrix-family instruction with its control word (R247): opcode 0xB1 to 0xB5, shape, FMT, K, and the two handles. -/
structure MtxOp where
  opc : Nat
  full : Bool
  fmt : Nat
  k : Nat
  h1 : Word
  h2 : Word
  deriving DecidableEq, Repr

def MtxOp.rows (o : MtxOp) : Nat := if o.full then 128 else 64
/-- FMT and K of a control word (R247). -/
def ctlFmt (ctl : Word) : Nat := bitsOf ctl 0 4
def ctlK (ctl : Word) : Nat := 32 * (bitsOf ctl 4 4 + 1)

/-- The operation of a word and the three s values it reads. -/
def mtxOp (opc : Nat) (full : Bool) (vals : List Word) : MtxOp :=
  { opc := opc, full := full, fmt := ctlFmt (vals.getD 2 0), k := ctlK (vals.getD 2 0), h1 := vals.getD 0 0, h2 := vals.getD 1 0 }

/-- The limits on the control word and on H2 (R247, R251, R253). -/
def MtxOp.ok (o : MtxOp) (ctl : Word) : Bool :=
  bitsOf ctl 8 24 == 0 && decide (1 ≤ o.fmt ∧ o.fmt ≤ 7) && (o.opc != 0xB2 || o.fmt == 1) &&
    ((o.opc != 0xB3 && o.opc != 0xB4) || o.k == o.rows) && ((o.opc != 0xB3 && o.opc != 0xB5) || o.h2 == 0)

/-- Bytes of an operand's codes (R223). -/
def codeBytes (b R K : Nat) : Nat := b * R * K / 8
/-- A region a matrix instruction reads or writes: the handle its instruction names, whether it lies in the next slot, and its length. -/
structure Region where
  h : Word
  next : Bool
  bytes : Nat
  deriving DecidableEq, Repr

/-- The regions of a request, in the order they are checked (R251, R253). -/
def MtxOp.regions (o : MtxOp) : List Region :=
  let codes (h : Word) : Region := { h := h, next := false, bytes := codeBytes (fmtBits o.fmt) o.rows o.k }
  let scale (h : Word) : Region := { h := h, next := true, bytes := scaleBytes o.rows o.k }
  let two := o.opc == 0xB1 || o.opc == 0xB2
  [codes o.h1] ++ (if two then [codes o.h2] else if o.opc = 0xB4 then [{ h := o.h2, next := false, bytes := o.rows }] else []) ++
    (if o.fmt = 1 then scale o.h1 :: (if two then [scale o.h2] else []) else [])

/-- The handle of the slot a region lies in. -/
def Region.handle (r : Region) : Word := if r.next then r.h + 0x10000 else r.h

/-- The team offset of a region that lies wholly in its slot (R249). -/
def Region.place (t : Team) (r : Region) : Option Nat := slotPlace t r.h r.next r.bytes

/-- The trap of a region that does not fit: the handle and the bytes it needs (R249). -/
def Region.trap (r : Region) : TrapInfo := ringTrap causeRINGBND r.h (BitVec.ofNat 32 r.bytes) 0

/-- The granules of a region placed at a team offset. -/
def regionGranules (off bytes : Nat) : List Nat := rangeList (off / 16) (off / 16 + (bytes + 15) / 16)

/-! ## Reading the operands (R218) -/

/-- What a granule may read as: what it holds, and what unfenced stores replaced. -/
def granuleViews (sc : Scratch) (g : Nat) : List (List Byte) :=
  sc.bytes.read (16 * g) 16 :: (sc.unfenced.filter (fun e => e.granule == g)).reverse.map (·.old)

/-- One of the views of a granule: a choice the manual leaves open. -/
def pickView (tag g : Nat) : Nat → List Byte → List (List Byte) → List Byte
  | _, cur, [] => cur
  | i, cur, v :: r => if v = cur ∨ !Config.freeBool tag (g * 4096 + i) then pickView tag g (i + 1) cur r else v

/-- A granule as a pass reads it: now, or as it was at the posting. -/
def passGranule (tag : Nat) (t : Team) (snap : List (Nat × List (List Byte))) (g : Nat) : List Byte :=
  match granuleViews t.scr g ++ (match snap.find? (fun x => x.1 == g) with | some x => x.2 | none => []) with
  | [] => []
  | cur :: rest => pickView tag g 0 cur rest

/-- The bytes of a region as a pass reads them. -/
def regionBytes (tag : Nat) (t : Team) (snap : List (Nat × List (List Byte))) (r : Region) : Array Byte :=
  match r.place t with
  | none => #[]
  | some off => (regionGranules off r.bytes).foldl (fun a g => a ++ (passGranule tag t snap g).toArray) #[]

/-- The code of element (row, k) in the bit-plane layout (R223). -/
def planeCode (a : Array Byte) (b R K row k : Nat) : Nat :=
  (List.range b).foldl (fun n j =>
    n + if bitOf (a.getD (j * (R * K / 8) + row * (K / 8) + k / 8) 0) (k % 8) then 2 ^ j else 0) 0

/-- A code of b bits as a two's-complement integer. -/
def codeInt (b n : Nat) : Int := if n ≥ 2 ^ (b - 1) then (n : Int) - 2 ^ b else n

/-- Element (row, k) of a floating operand, times its block scale when there is one (R95). -/
def floatElem (f : Nat) (codes scales : Array Byte) (R K row k : Nat) : FVal :=
  let v := (fmtFloat f).decode (planeCode codes (fmtBits f) R K row k)
  if f = 1 then v.mul (e3m5.decode (scales.getD (row * (K / 8) + k / 8) 0).toNat) else v

/-- A band scale of a scale slot (R224). -/
def bandScale (scales : Array Byte) (R K h : Nat) : FVal :=
  let o := bandOff R K + 2 * h
  bf16.decode ((scales.getD o 0).toNat + 256 * (scales.getD (o + 1) 0).toNat)

/-! ## The arithmetic (R97-R100) -/

/-- A value rounded once to FP32. -/
def round32 (v : FVal) : FVal := fp32.decode (roundV fp32 .rne false v)

/-- One level of the adder tree. -/
def treeLevel : List FVal → List FVal
  | a :: b :: r => round32 (a.add b) :: treeLevel r
  | l => l

/-- The result of a block's 32 leaves: five levels. -/
def treeSum (l : List FVal) : FVal :=
  match treeLevel (treeLevel (treeLevel (treeLevel (treeLevel l)))) with
  | x :: _ => x
  | [] => .fin false 0 0

/-- One accumulator element under a floating format: A and B by position, band the exact band product of MMAX. -/
def dotFloat (nblk : Nat) (a b : Nat → FVal) (band : Option FVal) (acc : Word) : Word :=
  (List.range nblk).foldl (fun acc blk =>
    let leaf := treeSum ((List.range 32).map (fun t => (a (32 * blk + t)).mul (b (32 * blk + t))))
    let res := match band with
      | some s => round32 (leaf.mul s)
      | none => leaf
    BitVec.ofNat 32 (roundV fp32 .rne false ((fp32.decode acc.toNat).add res))) acc

/-- One accumulator element under an integer format. -/
def dotInt (K : Nat) (a b : Nat → Int) (acc : Word) : Word :=
  acc + BitVec.ofInt 32 ((List.range K).foldl (fun n k => n + a k * b k) 0)

/-- The operand matrices of a pass: what the slots hold, as read. -/
structure PassData where
  a : Array Byte
  b : Array Byte
  sa : Array Byte
  sb : Array Byte

/-- The slots of a pass read into its operands: A and B of MMA and MMAX; the data operand of the others, with MXP's index in b. -/
def passData (tag : Nat) (t : Team) (q : MtxReq) (o : MtxOp) : PassData :=
  let get (r : Region) : Array Byte := regionBytes tag t q.snap r
  let codes (h : Word) : Region := { h := h, next := false, bytes := codeBytes (fmtBits o.fmt) o.rows o.k }
  let scale (h : Word) : Region := { h := h, next := true, bytes := scaleBytes o.rows o.k }
  let two := o.opc == 0xB1 || o.opc == 0xB2
  { a := get (codes o.h1)
    b := if two then get (codes o.h2) else if o.opc = 0xB4 then get { h := o.h2, next := false, bytes := o.rows } else #[]
    sa := if o.fmt = 1 then get (scale o.h1) else #[]
    sb := if two && o.fmt == 1 then get (scale o.h2) else #[] }

/-- The constant operand of MXT, MXP and MXS at (row of the output, k): 1 or 0 (R253). -/
def constBit (o : MtxOp) (idx : Array Byte) (i k : Nat) : Bool :=
  if o.opc = 0xB3 then k == i else if o.opc = 0xB4 then k == (idx.getD i 0).toNat else true

/-- A value is finite. -/
def FVal.finite : FVal → Bool
  | .fin .. => true
  | _ => false

/-- A table of R rows of K values, computed once. -/
def rowTable {α : Type} (R K : Nat) (f : Nat → Nat → α) : Array (Array α) :=
  ((List.range R).map (fun i => ((List.range K).map (f i)).toArray)).toArray

/-- The pass: the new word of element (i, j) from its old word (R97, R100, R252, R253). A row of MXS with an infinite or NaN element is NaN whole, as R253 says, though no constant of MXS is zero. -/
def passElem (o : MtxOp) (d : PassData) : Nat → Nat → Word → Word :=
  let R := o.rows
  let K := o.k
  let two := o.opc == 0xB1 || o.opc == 0xB2
  let w := fmtBits o.fmt
  if fmtIsInt o.fmt then
    let x := rowTable R K (fun i k => codeInt w (planeCode d.a w R K i k))
    let y := if two then rowTable R K (fun j k => codeInt w (planeCode d.b w R K j k)) else #[]
    let at_ (m : Array (Array Int)) (i k : Nat) : Int := (m.getD i #[]).getD k 0
    let one (i k : Nat) : Int := if constBit o d.b i k then 1 else 0
    fun i j acc =>
      if two then dotInt K (at_ x i) (at_ y j) acc
      else if o.opc = 0xB5 then dotInt K (at_ x i) (one i) acc
      else dotInt K (one i) (at_ x j) acc
  else
    let x := rowTable R K (floatElem o.fmt d.a d.sa R K)
    let y := if two then rowTable R K (floatElem o.fmt d.b d.sb R K) else #[]
    let at_ (m : Array (Array FVal)) (i k : Nat) : FVal := (m.getD i #[]).getD k (.fin false 0 0)
    let one (i k : Nat) : FVal := if constBit o d.b i k then .fin false 1 0 else .fin false 0 0
    let whole := x.map (fun row => row.all FVal.finite)
    let band (i j : Nat) : Option FVal :=
      if o.opc = 0xB2 then some ((bandScale d.sa R K (i / 64)).mul (bandScale d.sb R K (j / 64))) else none
    fun i j acc =>
      if two then dotFloat (K / 32) (at_ x i) (at_ y j) (band i j) acc
      else if o.opc = 0xB5 then if whole.getD i true then dotFloat (K / 32) (at_ x i) (one i) none acc else 0x7FC00000
      else dotFloat (K / 32) (one i) (at_ x j) none acc

/-- A tile that holds exactly the given words. -/
def tileOf (f : Nat → Nat → Word) : Store 32 :=
  { cells := (List.range 4096).filterMap (fun n => let v := f (n / 64) (n % 64); if v = 0 then none else some (n, v)), fill := .zero }

/-- The words of a tile after a pass: quarter q of a full shape lies at rows 64 (q / 2), columns 64 (q % 2) (R226). -/
def passTile (elem : Nat → Nat → Word → Word) (q : Nat) (old : Store 32) : Store 32 :=
  tileOf (fun r c => elem (64 * (q / 2) + r) (64 * (q % 2) + c) (old.get (64 * r + c)))

end Sys2Proof.Machine
end

