-- ==== Sys2Proof/Machine/Matrix.lean ====
section
/-! DEFINITION. Matrix instructions, opcodes 0xB0 to 0xBE: gangs and their latch, matrix requests, tiles, CDRAIN, MWAIT, OFENCE, the token, PLANES (spec/08 R225-R232, spec/09 R246-R262). -/

namespace Sys2Proof.Machine

def Ctx.cluster (c : Ctx) : Nat := clusterOf c.t.core

/-- The tiles D names fit the team's T tiles (R246). -/
def tilesOk (c : Ctx) (full : BitVec 1) (n : BitVec 4) : Bool :=
  let T := c.t.mtx.tiles.length
  if full = 1 then n.toNat % 4 == 0 && decide (n.toNat + 3 < T) else decide (n.toNat < T)

/-- The cluster's tiles that D names, in order. -/
def namedTiles (c : Ctx) (full : BitVec 1) (n : BitVec 4) : List Nat :=
  (c.t.mtx.tiles.drop n.toNat).take (if full = 1 then 4 else 1)

def State.tile (s : State) (k i : Nat) : Tile := (s.cluster k).tiles.getD i (Tile.reset 0)
def State.updTile (s : State) (k i : Nat) (f : Tile → Tile) : State :=
  s.updCluster k (fun x => { x with tiles := updAt x.tiles i f })

/-! ## Gangs and the latch (R230-R232, R248) -/

def Team.gang (t : Team) (g : Nat) : Gang := t.mtx.gangs.getD g { members := 0, word := none, vals := [], arrived := [], num := 0 }
def Team.updGang (t : Team) (g : Nat) (f : Gang → Gang) : Team := { t with mtx := { t.mtx with gangs := updAt t.mtx.gangs g f } }

/-- The gang a warp belongs to (R230). -/
def gangOf (t : Team) (w : Warp) : Option Nat :=
  if w.role ≠ .execute then none
  else (List.range 2).find? (fun g => bitOf (t.gang g).members w.index)

/-- The members of a gang, as positions in the team, ascending. -/
def gangWarps (t : Team) (g : Nat) : List Nat :=
  (List.range t.warps.length).filter (fun i => match t.warps[i]? with
    | some w => w.role == .execute && bitOf (t.gang g).members w.index
    | none => false)

/-- A split that waits in a gang's latch changed. -/
def Split.inLatch (g : Nat) (f : Split → Split) (p : Split) : Split := match p.arrival with
  | some (.gang h _) => if h = g then f p else p
  | _ => p

/-- The latch emptied: the members that wait no longer do, and execute their instruction again (R249). -/
def Team.clearLatch (t : Team) (g : Nat) : Team :=
  let forget := Split.inLatch g (fun p => { p with arrival := none, blk := 0, st := if p.st = .blocked then .parked else p.st })
  { (t.updGang g (fun x => { x with word := none, vals := [], arrived := [] })) with
    warps := t.warps.map (fun w => { w with table := w.table.map forget, spilled := w.spilled.map forget }) }

/-- A trap that clears the latch, in the issuing split (R231, R249). -/
def latchTrap (c : Ctx) (g : Nat) (i : TrapInfo) : Res :=
  let t := c.team.clearLatch g
  .trapWith { c with t := t, w := t.warps.getD c.wi c.w, p := { c.p with arrival := none } } i c.p.unitPc

/-- The members that waited go on after the instruction, all but the issuing warp. -/
def releaseMembers (t : Team) (g wi now : Nat) : Team :=
  (t.gang g).arrived.foldl (fun t x =>
    if x.1 = wi then t
    else { t with warps := updAt t.warps x.1 (fun w =>
      let go (p : Split) : Split := match p.arrival with
        | some (.gang h _) =>
          if h = g then { p with pc := x.2.2, immRun := 0, blk := 0, arrival := none, since := now
                                 st := if p.st = .blocked then .parked else p.st }
          else p
        | _ => p
      { w with table := w.table.map go, spilled := w.spilled.map go }) }) t

/-- The members that wait block with another reason: all issuing warps wait for operands with BLK 5 (R249). -/
def Team.blockMembers (t : Team) (g n : Nat) : Team :=
  let wait := Split.inLatch g (fun p => { p with blk := BitVec.ofNat 4 n })
  { t with warps := t.warps.map (fun w => { w with table := w.table.map wait, spilled := w.spilled.map wait }) }

/-- What the last arrival finds: a trap for the lowest member, a further wait, or the effect. -/
inductive Joint where
  | trap (i : TrapInfo)
  | block (n : Nat)
  | go (c : Ctx)

/-- A warp that has arrived: GANG when a listed member has finished, be it before the first arrival (DESIGN CHOICE, notes/assumptions/42.md), the effect when all have arrived, else BLK 4. -/
def jointWait (c : Ctx) (g : Nat) (finish : Ctx → List (Nat × Option Nat) → Joint) : Res :=
  let gang := c.t.gang g
  let here := gang.arrived.map (·.1)
  let lowest := here.all (fun i => decide (c.wi ≤ i))
  let team := c.team
  if (gangWarps team g).any (fun i => match team.warps[i]? with | some w => w.done | none => false) then
    if lowest then latchTrap c g { cause := causeGANG, lo := 0, hi := 0, lane := 0 } else .block c 4
  else if !(gangWarps team g).all here.contains then .block c 4
  else match finish c (gang.arrived.map (fun x => (x.1, x.2.1))) with
    | .trap i => if lowest then latchTrap c g i else .block c 4
    | .block n => let t := c.team.blockMembers g n; .block { c with t := t, w := t.warps.getD c.wi c.w } n
    | .go c =>
      let t := releaseMembers c.team g c.wi c.s.clock
      let t := t.updGang g (fun x => { x with word := none, vals := [], arrived := [], num := x.num + 1 })
      .done { c with t := t, w := t.warps.getD c.wi c.w }

/-- An instruction of a gang's member through the latch (R231). -/
def joint (c : Ctx) (g : Nat) (word : Word) (vals : List Word) (finish : Ctx → List (Nat × Option Nat) → Joint) : Res :=
  let gang := c.t.gang g
  let mine := gang.arrived.any (fun x => x.1 == c.wi)
  let arrive (c : Ctx) : Res :=
    jointWait { c with
      t := c.t.updGang g (fun x => { x with word := some word, vals := vals, arrived := x.arrived ++ [(c.wi, flagOf c.p.setA, c.p.pc + 4)] })
      p := { c.p with arrival := some (.gang g gang.num) } } g finish
  let first (c : Ctx) : Res :=
    match gang.word with
    | none => if c.t.mtx.token ≠ g then .trapC causeTOKEN else arrive c
    | some w =>
      if mine then .block c 4
      else if w ≠ word ∨ gang.vals ≠ vals then latchTrap c g { cause := causeGANG, lo := 0, hi := 0, lane := 0 }
      else arrive c
  match c.p.arrival with
  | some (.gang h n) =>
    if h = g ∧ n < gang.num then .done c
    else if h = g ∧ mine then jointWait c g finish
    else first c
  | _ => first c

/-- Membership a GANG may set (R248). -/
def gangMaskOk (t : Team) (mask : BitVec 24) (g : Nat) : Bool :=
  let l := (List.range 24).filter (fun i => bitOf mask i)
  l.isEmpty || (decide (2 ≤ l.length ∧ l.length ≤ 6) && l.all (fun i =>
    !bitOf (t.gang (1 - g)).members i && t.warps.any (fun w => w.role == .execute && w.index == i && !w.done)))

/-- GANG (R248). -/
def execGang (f : FmtAB) (s : State) : Host.Outcome State Fault Refusal :=
  issue s .executeOnly (fun c =>
    let ops := [op32 .int f.a, op32 .int f.b]
    let act := c.act f.g
    orIllop (!c.inHandler) (orIllopnd (ops.all (Opnd.ok c)) (
      if act = 0 then .done c
      else match readOps c act ops with
        | .stop r => r
        | .got c' vs =>
          let a := loWord (val vs 0 (lane0 act))
          let b := loWord (val vs 1 (lane0 act))
          let g := bitsOf b 0 1
          orIllopnd (bitsOf a 24 8 == 0 && bitsOf b 1 31 == 0 && gangMaskOk c.team (a.setWidth 24) g) (
            if (c.t.gang g).word.isSome then .block c 4
            else .done { c' with t := c'.t.updGang g (fun x => { x with members := a.setWidth 24 }) }))))

/-! ## Matrix requests (R247, R249) -/

/-- What steps 3 to 5 of R249 meet. -/
inductive PostFate where
  | trap (i : TrapInfo)
  | block (n : Nat)
  | go
  deriving DecidableEq, Repr

def postFate (c : Ctx) (o : MtxOp) : PostFate :=
  let rs := o.regions
  match rs.find? (fun r => (r.place c.t).isNone) with
  | some r => .trap r.trap
  | none =>
    match rs.findSome? (fun r => slotPoisonOf c.s c.t r.handle) with
    | some p => .trap (slotPoisonTrap p 0)
    | none =>
      if !rs.all (fun r => match r.place c.t with
        | some off => (regionGranules off r.bytes).all (granuleFull c.t)
        | none => false) then .block 5
      else if (c.s.cluster c.cluster).table.length ≥ 32 then .block 4
      else .go

/-- What each granule of a request's regions may read as at the posting. -/
def postSnap (t : Team) (o : MtxOp) : List (Nat × List (List Byte)) :=
  (dedup (o.regions.flatMap (fun r => match r.place t with
    | some off => regionGranules off r.bytes
    | none => []))).map (fun g => (g, granuleViews t.scr g))

/-- The posting: an entry with its allowance (R229), bound to each issuing warp's flag. -/
def post (c : Ctx) (o : MtxOp) (word : Word) (vals : List Word) (tiles : List Nat) (who : List (Nat × Option Nat)) : Ctx :=
  let (id, s) := c.s.fresh
  let k := c.cluster
  let req : MtxReq :=
    { id := id, team := c.t.id, members := who, word := word, vals := vals, tiles := tiles, full := o.full, prio := c.t.ident.prio
      allowance := 31 - (s.cluster k).table.length, snap := postSnap c.t o, units := [], more := 0 }
  let s := s.updCluster k (fun x => { x with table := x.table ++ [req] })
  let s := tiles.foldl (fun s i => s.updTile k i (fun x => { x with unwaited := x.unwaited ++ [id] })) s
  let t := who.foldl (fun t x => { t with warps := updAt t.warps x.1 (fun w => w.bind x.2) }) c.team
  { c with s := s, t := t, w := t.warps.getD c.wi c.w }

/-- The form of MMA, MMAX, MXT, MXP and MXS. The checks of R247 come first, whether a lane is active or not (DESIGN CHOICE, notes/assumptions/42.md; so in CDRAIN and PLANES). -/
def matrixForm (s : State) (f : FmtT) (i : Instr) : Host.Outcome State Fault Refusal :=
  let word := (encode i).getD 0
  issue s .executeOnly (fun c =>
    let vals := [c.w.sr (sNum f.a), c.w.sr (sNum f.a + 1), c.w.sr (sNum f.b)]
    let o := mtxOp (bitsOf word 24 8) (f.full == 1) vals
    let mate := gangOf c.t c.w
    orIllop (!(c.inHandler && mate.isSome)) (
      orIllopnd (tilesOk c f.full f.c && isSPair f.a && isSReg f.b && o.ok (vals.getD 2 0)) (
        if c.act f.g = 0 then .done c
        else
          let tiles := namedTiles c f.full f.c
          match mate with
          | none =>
            match postFate c o with
            | .trap i => .trap i
            | .block n => .block c n
            | .go => .done (post c o word vals tiles [(c.wi, flagOf c.p.setA)])
          | some g =>
            joint c g word vals (fun c who =>
              match postFate c o with
              | .trap i => .trap i
              | .block n => .block n
              | .go => .go (post c o word vals tiles who)))))

def execMma (f : FmtT) (s : State) := matrixForm s f (.mma f)
def execMmax (f : FmtT) (s : State) := matrixForm s f (.mmax f)
def execMxt (f : FmtT) (s : State) := matrixForm s f (.mxt f)
def execMxp (f : FmtT) (s : State) := matrixForm s f (.mxp f)
def execMxs (f : FmtT) (s : State) := matrixForm s f (.mxs f)

/-! ## Tiles outside passes (R254-R256) -/

/-- A tile written at issue; while a request on it is not waited for, it is left undefined after MWAIT (R218). -/
def writeTile (s : State) (k i : Nat) (f : Store 32 → Store 32) : State :=
  s.updTile k i (fun x => { x with words := f x.words, hazard := x.hazard || !x.unwaited.isEmpty })

/-- The words of a tile as an instruction reads them: free values while a request on it is not waited for (R218). -/
def tileWords (s : State) (k i : Nat) : Store 32 :=
  if (s.tile k i).unwaited.isEmpty then (s.tile k i).words else { cells := [], fill := .free (s.freeTag + 1 + i) }

/-- The machine with the tags of free tile values spent. -/
def State.spendTags (s : State) : State := { s with freeTag := s.freeTag + 33 }

/-- CZERO (R254). -/
def execCzero (g : BitVec 4) (full : BitVec 1) (n : BitVec 4) (s : State) : Host.Outcome State Fault Refusal :=
  issue s .executeOnly (fun c =>
    orIllopnd (tilesOk c full n) (
      if c.act g = 0 then .done c
      else .done { c with s := (namedTiles c full n).foldl (fun s i =>
        writeTile s c.cluster i (fun _ => { cells := [], fill := .zero })) c.s }))

/-- The key of an element from a lane's coordinate (R255). -/
def elemKey (x : DWord) : Nat := bitsOf x 6 6 * 64 + bitsOf x 0 6

/-- b of CREAD and CWRITE: an s register, an inline constant or the latch (R255). -/
def tileSpecOk (b : BitVec 7) : Bool := isSReg b || decide (0x70 ≤ b.toNat ∧ b.toNat < 0x78) || b == 0x7F

/-- The form of CREAD and CWRITE. -/
def elemForm (s : State) (f : FmtA) (body : Ctx → LaneMask → Nat → (Nat → Nat) → Ctx) : Host.Outcome State Fault Refusal :=
  issue s .executeOnly (fun c =>
    let a := op32 .int f.a
    let b := op32 .int f.b
    let act := c.act f.g
    let n := bitsOf (b.value c (lane0 act)) 0 4
    orIllopnd (regOk c f.d.toNat && a.ok c && tileSpecOk f.b && b.ok c) (
      if act = 0 then .done c
      else orIllopnd (decide (n < c.t.mtx.tiles.length)) (
        match readOps c act [a] with
        | .stop r => r
        | .got c vs => .done (body c act (c.t.mtx.tiles.getD n 0) (fun L => elemKey (val vs 0 L))))))

def execCread (f : FmtA) (s : State) : Host.Outcome State Fault Refusal :=
  elemForm s f (fun c act i key =>
    let m := tileWords c.s c.cluster i
    { c with s := c.s.spendTags, w := c.w.setV f.d.toNat act (fun L => m.get (key L)) })

def execCwrite (f : FmtA) (s : State) : Host.Outcome State Fault Refusal :=
  elemForm s f (fun c act i key =>
    { c with s := writeTile c.s c.cluster i (fun m => (lanesOf act).foldl (fun m L => m.put (key L) (c.w.v f.d.toNat L)) m) })

/-! ## CDRAIN (R257, R258) -/

/-- The formats CDRAIN takes. -/
def drainFmtOk (f : Nat) : Bool := [1, 2, 3, 6, 7, 8, 9].contains f
/-- Bytes of R × R elements of a format, as drained. -/
def drainBytes (f R : Nat) : Nat := R * R * (if f = 8 ∨ f = 9 then 8 else if f = 6 ∨ f = 7 then 4 else if f = 1 then 1 else 2) / 2

/-- The bytes of one converted element of a format wider than four bits. -/
def drainElem (f : Nat) (sat : Bool) (x : Word) : List Byte :=
  if f = 8 ∨ f = 9 then leBytes 4 x.toNat
  else if f = 6 ∨ f = 7 then leBytes 2 (convert fp32 (fmtFloat f) .rne sat x.toNat)
  else leBytes 1 (convert fp32 (fmtFloat f) .rne sat x.toNat)

/-- The scale and the four bytes of one E2M1 block (R258). -/
def drainBlock (xs : List Word) : Nat × List Byte :=
  let m := (xs.map (fun x => x.toNat % 2 ^ 31)).foldl (maxCodeOf fp32) 0x7FC00000
  let s := qscaleCode (fp32.decode m) (.fin false 6 0)
  (s, leBytes 4 ((xs.map (fun x => qpk4Code (fp32.decode x.toNat) s)).foldr (fun n acc => n + 16 * acc) 0))

/-- The output of a drain: the bytes of the slot and of the scale slot. -/
def drainImage (f R : Nat) (sat : Bool) (elem : Nat → Nat → Word) : List Byte × List Byte :=
  if f = 1 then
    let blocks := (List.range R).flatMap (fun r => (List.range (R / 8)).map (fun g =>
      drainBlock ((List.range 8).map (fun t => elem r (8 * g + t)))))
    (blocks.flatMap (·.2),
     blocks.map (fun b => BitVec.ofNat 8 b.1) ++ (List.range (R / 64)).flatMap (fun _ => leBytes 2 0x3F80))
  else ((List.range R).flatMap (fun r => (List.range R).flatMap (fun c => drainElem f sat (elem r c))), [])

/-- Bytes from a team offset on, cut into granules. -/
def cutGranules : Nat → Nat → List Byte → List (Nat × List Byte)
  | 0, _, _ => []
  | n + 1, off, bs => if bs.isEmpty then [] else (off / 16, bs.take 16) :: cutGranules n (off + 16) (bs.drop 16)

/-- CDRAIN: a snapshot at issue, written granule by granule (R256, R257). -/
def execCdrain (f : FmtT) (s : State) : Host.Outcome State Fault Refusal :=
  issue s .executeOnly (fun c =>
    let h := c.w.sr (sNum f.a)
    let ctl := c.w.sr (sNum f.b)
    let fmt := bitsOf ctl 0 4
    let R := if f.full = 1 then 128 else 64
    orIllopnd (tilesOk c f.full f.c && isSReg f.a && isSReg f.b && bitsOf ctl 5 27 == 0 && drainFmtOk fmt) (
      if c.act f.g = 0 then .done c
      else
        let dst : Region := { h := h, next := false, bytes := drainBytes fmt R }
        let scl : Region := { h := h, next := true, bytes := scaleBytes R R }
        match dst.place c.t, (if fmt = 1 then scl.place c.t else some 0) with
        | none, _ => .trap dst.trap
        | _, none => .trap scl.trap
        | some o1, some o2 =>
          let tiles := namedTiles c f.full f.c
          let words := (tiles.map (tileWords c.s c.cluster)).toArray
          let elem (r k : Nat) : Word := (words.getD (2 * (r / 64) + k / 64) { cells := [], fill := .zero }).get (64 * (r % 64) + k % 64)
          let img := drainImage fmt R (bitOf ctl 4) elem
          let gs := cutGranules img.1.length o1 img.1 ++ cutGranules img.2.length o2 img.2
          let (op, s) := c.s.spendTags.fresh
          .done { c with s := s.updDie (fun d => { d with drains := d.drains ++
            [{ op := op, team := c.t.id, tiles := tiles, granules := gs }] }) }))

/-! ## MWAIT, OFENCE, TKPASS, TKWAIT (R259-R261) -/

/-- The tiles MWAIT names. -/
def mwaitTiles (c : Ctx) (all full : BitVec 1) (n : BitVec 4) : List Nat := if all = 1 then c.t.mtx.tiles else namedTiles c full n

/-- Requests are over for a tile: no longer unwaited; a tile hit meanwhile by CWRITE or CZERO becomes undefined once none is left (R218). -/
def coverTile (tag : Nat) (reqs : List Nat) (x : Tile) : Tile :=
  let left := x.unwaited.filter (fun id => !reqs.contains id)
  if left.isEmpty ∧ x.hazard then { x with words := { cells := [], fill := .free tag }, unwaited := [], hazard := false }
  else { x with unwaited := left }

/-- MWAIT (R259): with ALL set the other bits of D must be 0. -/
def execMwait (g : BitVec 4) (all full : BitVec 1) (n : BitVec 4) (s : State) : Host.Outcome State Fault Refusal :=
  issue s .executeOnly (fun c =>
    orIllop (all == 0 || (full == 0 && n == 0)) (orIllopnd (all == 1 || tilesOk c full n) (
      if c.act g = 0 then .done c
      else
        let tiles := mwaitTiles c all full n
        let k := c.cluster
        let mark : List Nat × List Nat := match c.p.arrival with
          | some (.mwait r d) => (r, d)
          | _ => (dedup (tiles.flatMap (fun i => (c.s.tile k i).unwaited)),
                  (c.s.die.drains.filter (fun d => d.team == c.t.id && d.tiles.any tiles.contains)).map (·.op))
        let cl := c.s.cluster k
        if (cl.table ++ cl.passes).any (fun q => q.team == c.t.id && mark.1.contains q.id) ∨
            c.s.die.drains.any (fun d => mark.2.contains d.op) then
          .block { c with p := { c.p with arrival := some (.mwait mark.1 mark.2) } } 4
        else
          .done { c with s := (tiles.foldl (fun s i => s.updTile k i (coverTile (s.freeTag + 1 + i) mark.1)) c.s).spendTags })))

/-- OFENCE (R260): STR and PLANES are in scratchpad once they have issued; they now come before later passes (R218). -/
def execOfence (g : BitVec 4) (s : State) : Host.Outcome State Fault Refusal :=
  issue s .executeOnly (fun c => .done (c.scrFence (c.act g) (fun _ => true)))

/-- TKPASS (R261): through the latch; the token moves when the last member arrives. -/
def execTkpass (g : BitVec 4) (s : State) : Host.Outcome State Fault Refusal :=
  issue s .executeOnly (fun c =>
    if c.act g = 0 then .done c
    else orIllop (!c.inHandler) (
      match gangOf c.t c.w with
      | none => .trapC causeTOKEN
      | some n => joint c n ((encode (.tkpass g)).getD 0) [] (fun c _ =>
          .go { c with t := { c.t with mtx := { c.t.mtx with token := 1 - n } } })))

/-- TKWAIT (R261). -/
def execTkwait (g : BitVec 4) (s : State) : Host.Outcome State Fault Refusal :=
  issue s .executeOnly (fun c =>
    if c.act g = 0 then .done c
    else match gangOf c.t c.w with
      | none => .trapC causeTOKEN
      | some n => if c.t.mtx.token = n then .done c else .block c 4)

/-! ## PLANES (R262) -/

/-- The writes of one lane's code: bit j of it at the bit of R223 for (row, k). -/
def planeWrites (off b R K row k : Nat) (code : Word) : List (Nat × Byte × Byte) :=
  (List.range b).map (fun j =>
    (off + j * (R * K / 8) + row * (K / 8) + k / 8, BitVec.ofNat 8 (2 ^ (k % 8)), if bitOf code j then 0xFF else 0))

def execPlanes (f : FmtA) (s : State) : Host.Outcome State Fault Refusal :=
  issue s .executeOnly (fun c =>
    let h := c.w.sr (sNum f.a)
    let ctl := c.w.sr (sNum f.b)
    let fmt := ctlFmt ctl
    let K := ctlK ctl
    let R := if bitOf ctl 8 then 128 else 64
    let row := bitsOf ctl 9 7
    let grp := bitsOf ctl 16 4
    let b := fmtBits fmt
    orIllopnd (regOk c f.d.toNat && isSReg f.a && isSReg f.b && bitsOf ctl 20 12 == 0 && decide (1 ≤ fmt ∧ fmt ≤ 7) &&
        decide (row < R) && decide (32 * grp < K)) (
      if c.act f.g = 0 then .done c
      else
        let dst : Region := { h := h, next := false, bytes := codeBytes b R K }
        match dst.place c.t with
        | none => .trap dst.trap
        | some off => .done ((lanesOf (c.act f.g)).foldl (fun c L =>
            c.scrStore L (planeWrites off b R K row (32 * grp + L) (c.w.v f.d.toNat L))) c)))

end Sys2Proof.Machine
end

