-- ==== Sys2Proof/Machine/MatrixEvents.lean ====
section
/-! DEFINITION. Events of the matrix engine: grant, completion of a pass, granules of a drain, repair of a column group (spec/08 R221-R229, R244, spec/09 R250, R257). -/

namespace Sys2Proof.Machine

/-- Step units that work: one that has lost a column group beyond its spare is fenced (R244). -/
def workingUnits (k : Cluster) : List Nat := (List.range k.units.length).filter (fun u => decide (k.units.getD u 0 < 2))

/-- Working step units that no pass holds. -/
def freeUnits (k : Cluster) : List Nat := (workingUnits k).filter (fun u => !k.passes.any (fun p => p.units.contains u))

/-- Tiles a request writes, one unit each (R222). -/
def tileCount (q : MtxReq) : Nat := if q.full then 4 else 1

/-- Step units a request starts on: one for a quarter shape; for a full one all four, or those left when units are fenced (R222, R244). -/
def unitsOf (k : Cluster) (q : MtxReq) : Nat := min (tileCount q) (workingUnits k).length

/-- The step units a request needs are free (R229). -/
def unitsFree (k : Cluster) (q : MtxReq) : Bool := decide (0 < unitsOf k q ∧ unitsOf k q ≤ (freeUnits k).length)

/-- The four rules of R229 for the request at place i of the table. -/
def eligible (k : Cluster) (i : Nat) (q : MtxReq) : Bool :=
  let older := k.table.take i
  k.passes.all (fun p => !p.tiles.any q.tiles.contains) && unitsFree k q &&
    older.all (fun z => !(z.team == q.team && z.tiles.any q.tiles.contains)) && older.all (fun z => decide (1 ≤ z.allowance))

/-- The request the arbiter grants: the highest priority, the oldest on a tie (R229). -/
def arbiter (k : Cluster) : Option Nat :=
  let c := ((List.range k.table.length).zip k.table).filter (fun x => eligible k x.1 x.2)
  (firstBy (fun a b => decide (a.2.prio > b.2.prio) || (a.2.prio == b.2.prio && decide (a.1 < b.1))) c).map (·.1)

/-- The grant of the request at place i: every older one loses 1 from its allowance. -/
def grantAt (k : Cluster) (i : Nat) : Cluster :=
  match k.table[i]? with
  | none => k
  | some q => { k with
      table := (k.table.take i).map (fun z => { z with allowance := z.allowance - 1 }) ++ k.table.drop (i + 1)
      passes := k.passes ++ [{ q with units := (freeUnits k).take (unitsOf k q), more := tileCount q - unitsOf k q }] }

/-- MATRIX_GRANT (R229): one grant, unless none is eligible or grants are gated (spec/12 R349). -/
def execMatrixGrant (k : Nat) (s : State) : Host.Outcome State Fault Refusal := whenClocked s <|
  if !(s.cluster k).ready || s.pkg.gated then .next s
  else match arbiter (s.cluster k) with
    | none => .next s
    | some i => .next (s.updCluster k (fun x => grantAt x i))

/-- The words a pass writes: each target tile after it (R97, R226). -/
def performPass (s : State) (k : Nat) (q : MtxReq) (t : Team) : State :=
  let o := mtxOp (bitsOf q.word 24 8) q.full q.vals
  let elem := passElem o (passData s.freeTag t q o)
  ((List.range q.tiles.length).zip q.tiles).foldl (fun s x =>
    s.updTile k x.2 (fun y => { y with words := passTile elem x.1 y.words })) s

/-- The units of a pass have done their tiles: the tiles left over go to the first of them, the others are free (R244). Where its units free together, the lowest are the first (DESIGN CHOICE, notes/assumptions/48.md). -/
def MtxReq.nextTiles (q : MtxReq) : MtxReq := { q with units := q.units.take q.more, more := q.more - q.units.length }

/-- PASS_COMPLETE (R250): the tiles are written and the request completes on every flag it is bound to; a pass with tiles still to perform on a unit that frees goes on there. -/
def execPassComplete (k req : Nat) (s : State) : Host.Outcome State Fault Refusal := whenClocked s <|
  match (s.cluster k).passes.find? (fun q => q.id == req) with
  | none => .next s
  | some q =>
    if 0 < q.more ∧ q.units ≠ [] then .next (s.updCluster k (fun x => { x with passes := x.passes.map (fun p => if p.id = req then p.nextTiles else p) }))
    else
    let s := match s.team? q.team with
      | some t => performPass s k q t
      | none => s
    let s := s.updCluster k (fun x => { x with passes := x.passes.filter (fun p => p.id != req) })
    let s := q.members.foldl (fun s m => s.unbind q.team m.1 m.2) s
    .next (opEnded s q.team)

/-- CDRAIN_GRANULE_WRITE (R257): a granule of a drain is written and set full; the drain completes with its last. -/
def execCdrainGranuleWrite (op g : Nat) (s : State) : Host.Outcome State Fault Refusal := whenClocked s <|
  match s.die.drains.find? (fun d => d.op == op) with
  | none => .next s
  | some d =>
    match d.granules.find? (fun x => x.1 == g) with
    | none => .next s
    | some x =>
      let s := s.updTeam d.team (fun t => { t with scr := t.scr.land d.op g (wholeBytes (16 * g) x.2) })
      let left := d.granules.filter (fun y => y.1 != g)
      let rest (l : List Drain) : List Drain :=
        if left.isEmpty then l.filter (fun z => z.op != op) else l.map (fun z => if z.op = op then { z with granules := left } else z)
      let s := s.updDie (fun y => { y with drains := rest y.drains })
      .next (if left.isEmpty then opEnded s d.team else s)

/-- COLUMN_GROUP_REPAIR (R244): a column group of a step unit is mapped out; results never change (R98). While a pass runs on the unit it is the pass's residue check that fails: an uncorrectable soft error of its target tiles, which kills the team that holds them (R227). -/
def execColumnGroupRepair (k unit : Nat) (s : State) : Host.Outcome State Fault Refusal :=
  let failed := (s.cluster k).passes.filter (fun p => p.units.contains unit)
  .next (failed.foldl (fun s p => killTeam s p.team) (s.updCluster k (fun x => { x with units := updAt x.units unit (· + 1) })))

end Sys2Proof.Machine
end

