-- ==== Sys2Proof/Machine/Flags.lean ====
section
/-! DEFINITION. Predicates and completion flags: the conditions of the compares (spec/04 R114), the form that writes a predicate, and the wait of a clause on flags (spec/01 R23). -/

namespace Sys2Proof.Machine

/-- The form of the instructions that write predicate pd in every active lane. -/
def predForm (s : State) (roles : Roles) (g : BitVec 4) (pd : BitVec 3) (ops : List Opnd)
    (f : Ctx → Nat → List (Nat → DWord) → Bool) : Host.Outcome State Fault Refusal :=
  issue s roles (fun c =>
    orIllopnd (ops.all (Opnd.ok c)) (
      match readOps c (c.act g) ops with
      | .stop r => r
      | .got c' vs => .done { c' with w := c'.w.setP pd.toNat (c.act g) (fun L => f c L vs) }))

/-- Conditions 0 to 5 of R114 over two integers. -/
def condInt (cond : Nat) (a b : Int) : Bool :=
  match cond with
  | 0 => decide (a = b)
  | 1 => decide (a ≠ b)
  | 2 => decide (a < b)
  | 3 => decide (a ≤ b)
  | 4 => decide (a > b)
  | _ => decide (a ≥ b)

/-- The conditions of R114 over two codes of a floating format: −0 equals +0 (R88). -/
def condFloat (F : FFmt) (cond a b : Nat) : Bool :=
  let uno := isNanCode F a || isNanCode F b
  match cond with
  | 6 => !uno
  | 7 => uno
  | 1 => uno || condInt 1 (orderKey F a) (orderKey F b)
  | k => !uno && condInt k (orderKey F a) (orderKey F b)

/-- Every flag a clause's WAIT field names is clear (R23). -/
def Warp.flagsClear (w : Warp) (wait : BitVec 12) : Bool :=
  (List.range 12).all (fun i => !bitOf wait i || w.flags.getD i 0 == 0)

end Sys2Proof.Machine
end

