-- ==== Sys2Proof/Machine/Queue.lean ====
section
/-! DEFINITION. Queue instructions, opcodes 0x60 to 0x67 (spec/06 R172-R180). -/

namespace Sys2Proof.Machine

/-- The meaning over a declared queue; an undeclared one raises ILLOPND (R171). -/
def withQueue (c : Ctx) (q : BitVec 4) (body : Queue → Res) : Res :=
  match c.t.queue? q.toNat with
  | none => .trapC causeILLOPND
  | some x => body x

/-- QPUSH (R172). -/
def execQpush (g : BitVec 4) (q : BitVec 4) (a : BitVec 7) (s : State) : Host.Outcome State Fault Refusal :=
  issue s .both (fun c => withQueue c q (fun x =>
    let o : Opnd := { spec := a, wide := x.width == 2, cls := .int }
    orIllopnd (isProducer x c.w && o.ok c) (
      let act := c.act g
      if act = 0 then .done c
      else if !x.canReserve then .block c 2
      else match readOps c act [o] with
        | .stop r => r
        | .got c vs =>
          let lanes := laneList.map (fun L =>
            if inMask act L then { QLane.empty with st := .valid, data := BitVec.ofNat 64 ((val vs 0 L).toNat % 2 ^ x.bits) }
            else { QLane.empty with st := .invalid })
          -- the operand may have popped this very queue's sibling, never x itself: its producer is not its consumer
          match c.t.queue? q.toNat with
          | none => .done c
          | some x =>
            let (op, s) := c.s.fresh
            let t := c.t.setQueue (x.reserve { lanes := lanes, flag := none, by_ := c.wi, op := op, keyovr := none })
            .done { c with s := s, t := t.signals (.entry op) c.wi act })))

/-- The pop of QPOP and QTRY: D takes each active lane's element. -/
def popTo (c : Ctx) (x : Queue) (d : Nat) (act : LaneMask) : Ctx :=
  let e := x.entryAt 0
  (c.popHead x.num act).setD d (x.width == 2) act e.deliver

/-- QPOP (R173). -/
def execQpop (g : BitVec 4) (d : BitVec 6) (q : BitVec 4) (e : BitVec 1) (p : BitVec 3) (s : State) :
    Host.Outcome State Fault Refusal :=
  issue s .both (fun c => withQueue c q (fun x =>
    orIllopnd (isConsumer x c.w && destOk c d.toNat (x.width == 2)) (
      let act := c.act g
      if act = 0 then .done c
      else if x.count = 0 then .block c 2
      else match popFate c.s c.t [x.entryAt 0] act with
        | .wait b => .block c b
        | .trap i => .trap i
        | .pending => .switchOut []
        | .ok =>
          let c' := popTo c x d.toNat act
          afterReads c act <| .done (if e = 1 then { c' with w := c'.w.setP p.toNat act (fun L => ((x.entryAt 0).lane L).st == .valid) } else c'))))

/-- QTRY (R174): pd false where a pop would wait. -/
def execQtry (g : BitVec 4) (d : BitVec 6) (q : BitVec 4) (p : BitVec 3) (s : State) : Host.Outcome State Fault Refusal :=
  issue s .both (fun c => withQueue c q (fun x =>
    orIllopnd (isConsumer x c.w && destOk c d.toNat (x.width == 2)) (
      let act := c.act g
      let no : Res := .done { c with w := c.w.setP p.toNat act (fun _ => false) }
      if act = 0 then .done c
      else if x.count = 0 then no
      else
        let e := x.entryAt 0
        -- rows 1 and 2 of R148, whatever the window behind a TENT lane has met
        if e.held c.s c.t || !(lanesWith [e] act (fun y => y == .inflight || y == .refetch || y == .tent)).isEmpty then no
        else match popFate c.s c.t [e] act with
          | .wait _ => no
          | .trap i => .trap i
          | .pending => .switchOut []
          | .ok =>
            let c' := popTo c x d.toNat act
            afterReads c act <| .done { c' with w := c'.w.setP p.toNat act (fun _ => true) })))

/-- The code of a lane state (R147). -/
def stateCode : LaneState → Nat
  | .free => 0
  | .inflight => 1
  | .valid => 2
  | .invalid => 3
  | .pending => 4
  | .refetch => 5
  | .poison => 6
  | .tent => 7

/-- What QPEEK reads of a lane (R175). -/
def peekLane (sel : Bool) (x : Queue) (L : Nat) : DWord :=
  let l := (x.entryAt 0).lane L
  if x.count = 0 then 0
  else if sel then BitVec.ofNat 64 (stateCode l.st)
  else if l.st = .valid ∨ l.st = .poison then l.data else 0

/-- QPEEK (R175): for the consumer (R171). -/
def execQpeek (g : BitVec 4) (d : BitVec 6) (q : BitVec 4) (sel : BitVec 1) (s : State) : Host.Outcome State Fault Refusal :=
  issue s .both (fun c => withQueue c q (fun x =>
    let wide := x.width == 2 && sel == 0
    orIllopnd (isConsumer x c.w && destOk c d.toNat wide) (
      .done (c.setD d.toNat wide (c.act g) (peekLane (sel == 1) x)))))

/-- QSKIP (R176). -/
def execQskip (g : BitVec 4) (q : BitVec 4) (n : BitVec 7) (s : State) : Host.Outcome State Fault Refusal :=
  issue s .both (fun c => withQueue c q (fun x =>
    orIllopnd (isConsumer x c.w) (
      if c.act g = 0 then .done c
      else if x.count < n.toNat + 1 then .block c 2
      else .done (c.dropHead x.num (n.toNat + 1)))))

/-- QFLUSH (R177): by the producer or the consumer. -/
def execQflush (g : BitVec 4) (q : BitVec 4) (e : BitVec 1) (s : State) : Host.Outcome State Fault Refusal :=
  issue s .both (fun c => withQueue c q (fun x =>
    orIllopnd (isConsumer x c.w || isProducer x c.w) (
      if c.act g = 0 then .done c
      else
        let c := c.dropHead x.num x.count
        match c.t.queue? x.num with
        | none => .done c
        | some y => .done (if e = 1 then { c with t := c.t.setQueue { y with eos := false } } else c))))

/-- Consecutive entries from the head that are complete and hold no lane that a pop would not deliver (R179 ready). -/
def readyCount (x : Queue) : Nat :=
  ((List.range x.count).takeWhile (fun i =>
    (x.entryAt i).lanes.all (fun l => l.st == .free || l.st == .valid || l.st == .invalid))).length

/-- QSTAT's value (R179). -/
def qstatValue (sel : Nat) (x : Queue) : Word :=
  let h := x.entryAt 0
  let has (p : LaneState → Bool) : LaneMask := if x.count = 0 then 0 else h.maskIn p
  let pend := has (fun y => y == .pending || y == .refetch)
  match sel with
  | 0 => BitVec.ofNat 32 x.count
  | 1 => BitVec.ofNat 32 (readyCount x)
  | 2 => BitVec.ofNat 32 (x.cap - x.count - x.drainingCount)
  | 3 => BitVec.ofNat 32 ((if x.eos then 1 else 0) + (if pend ≠ 0 then 2 else 0) + (if has (· == .poison) ≠ 0 then 4 else 0) +
      (if has (· == .tent) ≠ 0 then 8 else 0) + (if has (· == .inflight) ≠ 0 then 16 else 0))
  | 4 => has (· == .valid)
  | 5 => pend
  | 6 => has (· == .poison)
  | _ => x.lastinv

/-- QSTAT (R179): for the producer or the consumer (R171). -/
def execQstat (g : BitVec 4) (d : BitVec 6) (q : BitVec 4) (sel : BitVec 3) (s : State) : Host.Outcome State Fault Refusal :=
  issue s .both (fun c => withQueue c q (fun x =>
    orIllopnd ((isConsumer x c.w || isProducer x c.w) && regOk c d.toNat) (
      .done { c with w := c.w.setV d.toNat (c.act g) (fun _ => qstatValue sel.toNat x) })))

/-- QEOS (R180). -/
def execQeos (g : BitVec 4) (q : BitVec 4) (s : State) : Host.Outcome State Fault Refusal :=
  issue s .both (fun c => withQueue c q (fun x =>
    orIllopnd (isProducer x c.w) (
      .done (if c.act g = 0 ∨ x.eos then c else { c with t := c.t.setQueue { x with eos := true } }))))

/-- QEOS.test (R180). -/
def execQeosTest (g : BitVec 4) (q : BitVec 4) (p : BitVec 3) (s : State) : Host.Outcome State Fault Refusal :=
  issue s .both (fun c => withQueue c q (fun x =>
    orIllopnd (isConsumer x c.w) (
      .done { c with w := c.w.setP p.toNat (c.act g) (fun _ => x.eos && x.count == 0) })))

end Sys2Proof.Machine
end

