-- ==== Sys2Proof/Machine/Frame.lean ====
section
/-! DEFINITION. The context frame: what a save writes and what a restore reads (spec/11 R313-R315, spec/10 R288-R290, spec/02 R60, R79, spec/05 R157). Places within a region that the manual does not give are notes/assumptions/16.md. -/

namespace Sys2Proof.Machine

/-- The STATE code of a split (R58). -/
def splitStateCode : SplitState → Nat
  | .live => 0
  | .parked => 1
  | .blocked => 2
  | .waitingMerge => 3

def splitStateOf (n : Nat) : SplitState :=
  match n with
  | 0 => .live
  | 1 => .parked
  | 2 => .blocked
  | _ => .waitingMerge

/-- The 32-byte record of a split (R60). -/
def splitRecord (p : Split) : Nat :=
  packBits [(0, 64, p.pc.toNat), (64, 64, p.mpc.toNat), (128, 32, p.mask.toNat), (160, 32, p.arrived.toNat), (192, 16, p.seq.toNat),
    (208, 16, (p.parent.getD 0).toNat), (224, 1, if p.parent.isSome then 1 else 0), (225, 1, if p.arm then 1 else 0),
    (226, 2, splitStateCode p.st), (228, 4, p.setA.toNat), (232, 4, p.setB.toNat), (236, 4, p.blk.toNat)]

/-- A split read from its record; what the record does not hold stays as the split of that SEQ had it. -/
def splitOfRecord (old : List Split) (now : Nat) (n : Nat) : Split :=
  let r := BitVec.ofNat 256 n
  let q := BitVec.ofNat 16 (bitsOf r 192 16)
  let p := (findSplit old q).getD (Split.first 0 now 0)
  { p with seq := q, parent := if bitOf r 224 then some (BitVec.ofNat 16 (bitsOf r 208 16)) else none
           pc := BitVec.ofNat 64 (bitsOf r 0 64), mpc := BitVec.ofNat 64 (bitsOf r 64 64)
           mask := BitVec.ofNat 32 (bitsOf r 128 32), arrived := BitVec.ofNat 32 (bitsOf r 160 32), arm := bitOf r 225
           st := splitStateOf (bitsOf r 226 2), setA := BitVec.ofNat 4 (bitsOf r 228 4), setB := BitVec.ofNat 4 (bitsOf r 232 4)
           blk := BitVec.ofNat 4 (bitsOf r 236 4)
           -- a split moved to another instruction has announced nothing there
           arrival := if p.pc = BitVec.ofNat 64 (bitsOf r 0 64) then p.arrival else none }

/-- A code of the condition of R288. -/
def condCode : SaveCond → Nat
  | .none => 0
  | .point => 1
  | .quiescent => 2
  | .forced => 3

/-- A halt record of its bytes. -/
def haltOfBytes (n : Nat) : HaltRecord :=
  let b := BitVec.ofNat 384 n
  { slots := (List.range 2).map (fun i =>
      if bitOf b (128 * i + 95) then
        some { seq := BitVec.ofNat 16 (bitsOf b (128 * i + 64) 16), pc := BitVec.ofNat 64 (bitsOf b (128 * i) 64), count := bitsOf b (128 * i + 80) 5 }
      else none)
    setA := BitVec.ofNat 4 (bitsOf b 320 4), setB := BitVec.ofNat 4 (bitsOf b 324 4), arm := bitOf b 328, mpc := BitVec.ofNat 64 (bitsOf b 256 64) }

/-- Bytes of words, little-endian. -/
def wordsBytes (l : List Word) : List Byte := l.flatMap (fun w => leBytes 4 w.toNat)

/-- A storage offset of a team offset: the live exchange bank follows the size, then the shadow bank (spec/05 R165). -/
def storageOffset (sc : Scratch) (o : Nat) : Nat :=
  if o < sc.size then o
  else if o < sc.size + sc.exch then liveExOffset sc (o - sc.size) else shadowOffset sc (o - sc.size - sc.exch)

/-- The descriptor of a queue (spec/05 R145). -/
def queueDescriptor (q : Queue) : Nat :=
  packBits [(62, 2, q.width.toNat), (61, 1, if q.dir then 1 else 0), (56, 5, q.prod), (51, 5, q.cons), (39, 12, q.base), (31, 8, q.cap - 1),
    (23, 8, q.head), (14, 9, q.count), (13, 1, if q.eos then 1 else 0)]

/-- A poison record (spec/05 R159). -/
def poisonRecord (p : PoisonRec) : Nat :=
  packBits [(72, 8, p.cause.toNat), (68, 4, p.queue), (63, 5, p.lane), (0, 57, p.va.toNat)]

/-- Where each queue's region begins in the frame's queue memory, queues in order: bytes, and entries before it. -/
def queueOffsets (qs : List Queue) : List (Queue × Nat × Nat) :=
  (qs.foldl (fun acc q => (acc.1 ++ [(q, acc.2.1, acc.2.2)], acc.2.1 + q.cap * 4 * q.bits, acc.2.2 + q.cap)) (([], 0, 0) : List (Queue × Nat × Nat) × Nat × Nat)).1

/-- The lane states of an entry, three bits a lane. -/
def entryStates (e : QEntry) : Nat := packBits (laneList.map (fun L => (3 * L, 3, stateCode (e.lane L).st)))

/-- A warp's saved parts: which of its vector, scalar and predicate registers. -/
def liveOf (v : Saved) (i : Nat) : DWord × Word × Byte := v.live.getD i (BitVec.allOnes 64, BitVec.allOnes 32, BitVec.allOnes 8)

/-- The missing-page list of a frame in bytes (R313). -/
def missingBytes (t : Team) : List Byte := (t.save.missing.take 64).flatMap (fun p => leBytes 8 (p * 0x10000))

/-- The pieces of a frame a save writes, offset and bytes (R289, R313), all but the header. -/
def framePieces (s : State) (t : Team) (v : Saved) : List (Nat × List Byte) :=
  let ws := (List.range t.warps.length).zip t.warps
  let missing := (0x40, missingBytes t)
  let warps := ws.map (fun x =>
    let w := x.2
    (0x400 + 512 * frameWarp w,
      (List.range 8).flatMap (fun i => leBytes 32 (match w.table[i]? with | some p => splitRecord p | none => 0)) ++
      leBytes 4 w.seqCtr.toNat ++ leBytes 4 w.exited.toNat ++
      w.slots.flatMap (fun l => leBytes 4 (match l.seq with | some q => 65536 + q.toNat | none => 0)) ++
      leBytes 4 ((List.range 12).foldl (fun n i => n + if w.flags.getD i 0 = 0 then 0 else 2 ^ i) 0) ++ leBytes 4 w.streamId.toNat ++
      leBytes 8 (packBits [(0, 32, w.atPoint.getD 0), (32, 2, condCode w.cond)]) ++ haltBytes w.halt))
  let queues := t.queues.map (fun q => (0x4400 + 16 * q.num, leBytes 8 (queueDescriptor q) ++ leBytes 8 q.lastinv.toNat))
  let rings := t.ident.kern.rings.map (fun r => (0x4500 + 8 * r.1, leBytes 8 r.2.toNat))
  let layouts := (List.range 4).map (fun i => (0x4600 + 64 * i, leBytes 64 ((t.mtx.layouts.getD i none).getD 0).toNat))
  let gangs := (0x4700, (t.mtx.gangs.flatMap (fun g => leBytes 4 g.members.toNat)) ++ leBytes 4 t.mtx.token ++
    leBytes 4 (match t.mtx.gangs.findSome? (fun g => g.word) with | some w => w.toNat | none => 0))
  let reqs := (0x4800, v.requests.flatMap (fun r => leBytes 4 r.word.toNat ++ leBytes 12 r.id))
  let poison := ((List.range 64).zip (s.core t.core).poison).filterMap (fun x => match x.2 with
    | some p => if p.team = t.id then some (0x4A00 + 16 * x.1, leBytes 16 (poisonRecord p)) else none
    | none => none)
  let bars := (0x4E00, (t.bars.flatMap (fun b => leBytes 2 (match b.pending with | i :: _ => i.arrived.length | [] => 0))) ++
    leBytes 2 (match (launchCbar s t.ident.launch).pending with | i :: _ => i.arrived.length | [] => 0))
  let scalars := ws.flatMap (fun x =>
    let w := x.2
    (((List.range 32).filter (fun r => bitOf (liveOf v x.1).2.1 r)).map (fun r => (0x8000 + 256 * frameWarp w + 4 * r, leBytes 4 (w.sr r).toNat))) ++
    (((List.range 8).filter (fun r => bitOf (liveOf v x.1).2.2 r)).map (fun r => (0x8000 + 256 * frameWarp w + 128 + 4 * r, leBytes 4 (w.p r).toNat))))
  let held (q : Queue) : List (Nat × QEntry) := ((List.range q.cap).zip q.entries).filter (fun e => q.holds e.1)
  let states := (queueOffsets t.queues).flatMap (fun x => (held x.1).map (fun e => (0xC000 + 12 * (x.2.2 + e.1), leBytes 12 (entryStates e.2))))
  let vregs := ws.flatMap (fun x => ((List.range x.2.nregs).filter (fun r => bitOf (liveOf v x.1).1 r)).map (fun r =>
    (0x18000 + 8192 * frameWarp x.2 + 128 * r, wordsBytes (x.2.vregs.getD r []))))
  let scratch := v.ranges.flatMap (fun r => (List.range r.2).flatMap (fun i =>
    let g := r.1 + i
    [(0x58000 + 16 * g, (List.range 16).map (fun k => t.scr.bytes.get (storageOffset t.scr (16 * g + k))))]))
  let saved := dedup (v.ranges.flatMap (fun r => (List.range r.2).map (· + r.1)))
  -- the full/empty bits of the saved granules; the others of a byte stay as they stand
  let bits := (dedup (saved.map (· / 8))).map (fun i => (0xA000 + i, [saved.foldl (fun (b : Byte) g =>
    if g / 8 = i then mergeBits b (BitVec.ofNat 8 (2 ^ (g % 8))) (if t.scr.full.get (storageOffset t.scr (16 * g) / 16) = 1 then 0xFF else 0) else b)
    (readPhys s 0 (t.save.frame + 0xA000 + i))]))
  let data := (queueOffsets t.queues).flatMap (fun x => (held x.1).map (fun e => (0x98000 + x.2.1 + 4 * x.1.bits * e.1,
    laneList.flatMap (fun L => leBytes (x.1.bits / 8) (e.2.lane L).data.toNat))))
  let tiles := v.tiles.map (fun i => (0xD8000 + 16384 * i,
    wordsBytes (((s.cluster (clusterOf t.core)).tiles.getD (t.mtx.tiles.getD i 0) (Tile.reset 0)).words.read 0 4096)))
  [missing] ++ warps ++ queues ++ rings ++ layouts ++ [gangs, reqs] ++ poison ++ [bars] ++ scalars ++ bits ++ states ++ vregs ++
    scratch ++ data ++ tiles

/-- Every stack that holds one of n bytes from pa on is ready (spec/12 R346). -/
def rangeReady (s : State) (pa n : Nat) : Bool :=
  (List.range ((pa + n) / 2048 - pa / 2048 + 1)).all (fun i => stackReady s (max pa (2048 * (pa / 2048 + i))) || decide (pa + n ≤ 2048 * (pa / 2048 + i)))

/-- The frame of a save can be written: each line it writes lies in a stack that is ready (spec/12 R346). -/
def frameReady (s : State) (t : Team) (v : Saved) : Bool :=
  bitsOf s.pkg.ready 33 8 == 0xFF ||
    ((0, []) :: framePieces s t v).all (fun x => rangeReady s (t.save.frame + x.1) (max 64 x.2.length))

/-- The frame written, header last (R315). -/
def writeFrame (s : State) (t : Team) (v : Saved) : State :=
  let s := (framePieces s t v).foldl (fun s x => writeBytes s 0 false (bytesAt (t.save.frame + x.1) x.2)) s
  writeHeader s t 2

/-! ## Restore (R290) -/

/-- A number of n bytes of a frame. -/
def frameNat (s : State) (t : Team) (off n : Nat) : Nat := readPhysNat s 0 (t.save.frame + off) n

/-- Words of a frame. -/
def frameWords (s : State) (t : Team) (off n : Nat) : List Word := (List.range n).map (fun i => BitVec.ofNat 32 (frameNat s t (off + 4 * i) 4))

/-- A live slot of its frame word: the split's SEQ, with bit 16 when the slot holds one. -/
def slotOfWord (n : Nat) : LiveSlot := { seq := if n / 65536 % 2 = 1 then some (BitVec.ofNat 16 n) else none, issued := 0 }

/-- A warp as its frame holds it, its split state with it (spec/02 R79, spec/12 R345); registers the save omitted are free values. Live-slot counts restart. -/
def restoreWarp (s : State) (t : Team) (v : Saved) (i : Nat) (w : Warp) : Warp :=
  let f := frameWarp w
  let live := liveOf v i
  let free (k : Nat) : Word := (Config.freeBits s.freeTag (2 ^ 20 * i + k)).setWidth 32
  let recs := ((List.range 8).map (fun n => frameNat s t (0x400 + 512 * f + 32 * n) 32)).filter (fun n => bitsOf (BitVec.ofNat 256 n) 128 32 != 0)
  { w with
    table := recs.map (splitOfRecord w.table s.clock)
    seqCtr := BitVec.ofNat 16 (frameNat s t (0x400 + 512 * f + 0x100) 4)
    exited := BitVec.ofNat 32 (frameNat s t (0x400 + 512 * f + 0x104) 4)
    slots := (List.range w.slots.length).map (fun k => slotOfWord (frameNat s t (0x400 + 512 * f + 0x108 + 4 * k) 4))
    streamId := BitVec.ofNat 4 (frameNat s t (0x400 + 512 * f + 0x114) 4)
    vregs := (List.range w.nregs).map (fun r => if bitOf live.1 r then frameWords s t (0x18000 + 8192 * f + 128 * r) 32
      else laneList.map (fun L => free (64 * 32 + 32 * r + L)))
    sregs := (List.range 32).map (fun r => if bitOf live.2.1 r then BitVec.ofNat 32 (frameNat s t (0x8000 + 256 * f + 4 * r) 4) else free r)
    preds := (List.range 7).map (fun r => if bitOf live.2.2 r then BitVec.ofNat 32 (frameNat s t (0x8000 + 256 * f + 128 + 4 * r) 4) else free (32 + r))
    halt := haltOfBytes (frameNat s t (0x400 + 512 * f + 0x120) 48)
    atPoint := none, cond := .none }

/-- The lane state of a code (spec/05 R147). -/
def laneStateOf (n : Nat) : LaneState :=
  match n with
  | 0 => .free
  | 1 => .inflight
  | 2 => .valid
  | 3 => .invalid
  | 4 => .pending
  | 5 => .refetch
  | 6 => .poison
  | _ => .tent

/-- The pages of an element of a queue. -/
def lanePages (q : Queue) (l : QLane) : List Nat := dedup [pageOf l.va.toNat, pageOf (l.va.toNat + q.bits / 8 - 1)]

/-- A queue as its frame holds it. A lane saved TENT stands as its window has left it meanwhile. -/
def restoreQueue (s : State) (t : Team) (x : Queue × Nat × Nat) : Queue :=
  let q := x.1
  let d := BitVec.ofNat 64 (frameNat s t (0x4400 + 16 * q.num) 8)
  let q := { q with head := bitsOf d 23 8 % q.cap, count := min (bitsOf d 14 9) q.cap }
  { q with
    head := bitsOf d 23 8 % q.cap, count := min (bitsOf d 14 9) q.cap, eos := bitOf d 13
    lastinv := BitVec.ofNat 32 (frameNat s t (0x4400 + 16 * q.num + 8) 4)
    entries := ((List.range q.cap).zip q.entries).map (fun e =>
      let states := BitVec.ofNat 96 (frameNat s t (0xC000 + 12 * (x.2.2 + e.1)) 12)
      if !q.holds e.1 then QEntry.empty
      else { e.2 with lanes := laneList.map (fun L =>
          let l := e.2.lane L
          let st := laneStateOf (bitsOf states (3 * L) 3)
          { l with
            st := if st = .tent then l.st else st
            data := BitVec.ofNat 64 (frameNat s t (0x98000 + x.2.1 + (32 * e.1 + L) * (q.bits / 8)) (q.bits / 8)) }) }) }

/-- PENDING lanes after the answers (R157): POISON where the request was refused, else REFETCH. POISON lanes take records of the new core. -/
def settleLane (core : Nat) (id : Nat) (q : Queue) (acc : State × List QLane) (x : Nat × QLane) : State × List QLane :=
  let (s, ls) := acc
  let l := x.2
  match s.team? id with
  | none => (s, ls ++ [l])
  | some t =>
    if l.st = .pending then
      if (lanePages q l).any t.save.refused.contains then
        let (s, w) := addPoison s core id q.num x.1 causeNOMAP l.va
        (s, ls ++ [{ l with st := .poison, data := w }])
      else (s, ls ++ [{ l with st := .refetch }])
    else if l.st = .poison ∧ bitsOf l.data 0 7 ≠ 0x7F then
      let r := BitVec.ofNat 128 (frameNat s t (0x4A00 + 16 * bitsOf l.data 0 7) 16)
      let (s, w) := addPoison s core id q.num x.1 (BitVec.ofNat 8 (bitsOf r 72 8)) (BitVec.ofNat 64 (bitsOf r 0 57))
      (s, ls ++ [{ l with st := .poison, data := w }])
    else (s, ls ++ [l])

/-- Every queue of a team after restore. -/
def settleQueues (s : State) (t : Team) : State × List Queue :=
  t.queues.foldl (fun acc q =>
    let (s, es) := q.entries.foldl (fun acc e =>
      let (s, ls) := ((List.range e.lanes.length).zip e.lanes).foldl (settleLane t.core t.id q) (acc.1, [])
      (s, acc.2 ++ [{ e with lanes := ls }])) (acc.1, ([] : List QEntry))
    (s, acc.2 ++ [{ q with entries := es }])) (s, ([] : List Queue))

/-- Scratchpad after restore: the saved ranges with their full/empty bits, the rest undefined and empty (spec/05 R164). -/
def restoreScratch (s : State) (t : Team) (v : Saved) : Scratch :=
  let gs := dedup (v.ranges.flatMap (fun r => (List.range r.2).map (fun i => r.1 + i)))
  let bits := (List.range ((t.scr.size + 2 * t.scr.exch) / 128)).map (fun i => frameNat s t (0xA000 + i) 1)
  { t.scr with
    unfenced := []
    bytes := gs.foldl (fun m g => (List.range 16).foldl (fun m k =>
      m.put (storageOffset t.scr (16 * g + k)) (BitVec.ofNat 8 (frameNat s t (0x58000 + 16 * g + k) 1))) m)
      { cells := [], fill := .free s.freeTag }
    full := gs.foldl (fun m g => m.put (storageOffset t.scr (16 * g) / 16) (BitVec.ofNat 1 (bits.getD (g / 8) 0 / 2 ^ (g % 8))))
      { cells := [], fill := .zero } }

/-- A saved tile's words back in place, with its marks. -/
def restoreTiles (s : State) (t : Team) (v : Saved) : State :=
  ((List.range t.mtx.tiles.length).zip t.mtx.tiles).foldl (fun s x =>
    let mark := v.marks.getD x.1 ([], false)
    s.updCluster (clusterOf t.core) (fun c => { c with tiles := updAt c.tiles x.2 (fun y => { y with
      words := if v.tiles.contains x.1 then y.words.write 0 (frameWords s t (0xD8000 + 16384 * x.1) 4096) else y.words
      unwaited := mark.1, hazard := mark.2 }) })) s

end Sys2Proof.Machine
end

