-- ==== Sys2Proof/Machine/Speedwell.lean ====
section
/-! DEFINITION. Speedwell: save requests met, frames completed, teams restored, jobs stopped (spec/10 R286-R291, spec/08 R243, spec/11 R300, R315). -/

namespace Sys2Proof.Machine

/-- The warp has finished, stands at its point, or is quiescent (R288). -/
def saveCondition (w : Warp) : Bool := w.done || w.atPoint.isSome || quiescent w

/-- A save of a team proceeds with its gang launch as one unit (spec/08 R243): every member has met its conditions or is past them; a halted member holds it up. -/
def unitReady (s : State) (t : Team) (ok : Team → Bool) : Bool :=
  (liveLaunch s t).all (fun x => match x.status with
    | .resident => ok x
    | .saving | .saved => true
    | _ => false)

/-- The reason the unit is saved for: that of its first request. -/
def unitWhy (s : State) (t : Team) : SaveWhy := (((liveLaunch s t).findSome? (fun x => x.save.request)).map (·.2)).getD .preempt

/-- The unit's saves begin. -/
def beginUnit (s : State) (t : Team) : State :=
  ((liveLaunch s t).filter (fun x => x.status == .resident)).foldl (fun s x => beginSave s x.id (unitWhy s t) []) s

/-- SAVE_START (R289): every unfinished warp is at a point or quiescent. -/
def execSaveStart (id : Nat) (s : State) : Host.Outcome State Fault Refusal := whenClocked s <|
  match s.team? id with
  | none => .next s
  | some t =>
    .next (if t.status == .resident && t.save.request.isSome && unitReady s t (fun x => x.warps.all saveCondition) then beginUnit s t else s)

/-- FORCED_SAVE_BOUND (R288): the bound counter has reached the bound; warps neither at a point nor quiescent are halted where they stand. -/
def execForcedSaveBound (id : Nat) (s : State) : Host.Outcome State Fault Refusal := whenClocked s <|
  match s.team? id with
  | none => .next s
  | some t =>
    match t.save.request with
    | none => .next s
    | some (start, _) =>
      .next (if t.status == .resident && decide (s.pkg.fsBound ≤ s.clock - start) && unitReady s t (fun _ => true) then beginUnit s t else s)

/-! ## Completing a frame (R289) -/

/-- A command an engine is performing, which the save waits for (spec/08 R237): not one stalled on a recoverable miss. -/
def performing (c : RunCmd) : Bool := (c.started && c.missing.isEmpty) || c.poison.isSome

/-- What the save waits for is over (R289, spec/07 R207). -/
def saveReady (s : State) (t : Team) : Bool :=
  t.status == .saving && t.queues.all (fun q => q.entries.all QEntry.complete) &&
  !s.die.loads.any (fun l => l.team == t.id) && !s.die.exStores.any (fun l => l.team == t.id || l.target == t.id) &&
  !s.die.drains.any (fun l => l.team == t.id) && !s.fab.mcasts.any (fun l => l.team == t.id) &&
  -- the save is a release at DEVICE of all that happens before it: every store its core holds
  (s.core t.core).stores.isEmpty && s.cores.all (fun c => !c.stores.any (fun l => l.team == t.id) && !c.remote.any (fun l => l.team == t.id) &&
    c.runnels.all (fun r => !r.fifo.any (fun l => l.team == t.id && performing l))) &&
  s.clusters.all (fun c => !c.passes.any (fun l => l.team == t.id))

/-- The liveness record of an index, if it lies in GLOBAL, can be read and is valid (R289, spec/01 R54). -/
def liveRecord (s : State) (t : Team) (i : Nat) : Option (BitVec 256) :=
  if t.ident.kern.livetab + 32 * i + 32 > globalTop then none
  else match readVa s t.ident.job (t.ident.kern.livetab + 32 * i) 32 .r with
  | .inl _ => none
  | .inr bs =>
    let r := BitVec.ofNat 256 (leNat bs)
    if bitsOf r 104 8 ≤ 4 then some r else none

/-- Why a save takes the whole declared context whatever the records say (R156, R290, spec/12 R345). -/
def wholeWhy (t : Team) : Bool := t.save.why == some .pageMiss || t.save.why == some .debug

/-- The record a warp's point names; none when the warp is saved whole. -/
def warpRecord (s : State) (t : Team) (w : Warp) : Option (BitVec 256) :=
  if wholeWhy t then none else w.atPoint.bind (liveRecord s t)

/-- Ranges of a record within a footprint of n granules. -/
def recordRanges (n : Nat) (r : BitVec 256) : List (Nat × Nat) :=
  (List.range (bitsOf r 104 8)).filterMap (fun i =>
    let a := bitsOf r (128 + 32 * i) 16
    if a < n then some (a, min (bitsOf r (144 + 32 * i) 16) (n - a)) else none)

/-- A command as it is saved: not started (spec/08 R237). -/
def RunCmd.unstarted (c : RunCmd) : RunCmd := { c with started := false, granules := [], writes := [], wrote := [], missing := [], poison := none }

/-- What the save of a team takes (R288, R289), and whether it is whole. -/
def savedOf (s : State) (t : Team) : Saved × Bool :=
  let n := (t.scr.size + 2 * t.scr.exch) / 16
  let recs := t.warps.map (fun w => if w.done then some none else (warpRecord s t w).map some)
  let whole := recs.any Option.isNone
  let used := recs.filterMap (fun r => match r with | some (some x) => some x | _ => none)
  let c := s.core t.core
  let k := s.cluster (clusterOf t.core)
  let index (i : Nat) : Nat := (t.mtx.tiles.findIdx? (· == i)).getD 0
  ({ live := recs.map (fun r => match r with
      | some (some x) => (BitVec.ofNat 64 (bitsOf x 0 64), BitVec.ofNat 32 (bitsOf x 64 32), BitVec.ofNat 8 (bitsOf x 96 8))
      | _ => (BitVec.allOnes 64, BitVec.allOnes 32, BitVec.allOnes 8))
     ranges := if whole then [(0, n)] else used.flatMap (recordRanges n)
     tiles := (List.range t.mtx.tiles.length).filter (fun i => whole || used.any (fun r => bitOf r (112 + i)))
     marks := t.mtx.tiles.map (fun i => ((k.tiles.getD i (Tile.reset 0)).unwaited, (k.tiles.getD i (Tile.reset 0)).hazard))
     requests := (k.table.filter (fun r => r.team == t.id)).map (fun r => { r with tiles := r.tiles.map index })
     cmds := ((List.range c.runnels.length).zip c.runnels).flatMap (fun x =>
       (x.2.fifo.filter (fun m => m.team == t.id)).map (fun m => (x.1, m.unstarted)))
     slots := c.slotPoison.filter (fun p => p.team == t.id) }, whole)

/-- The pages a saved team waits for (R157, R158): its instruction's and those of its PENDING lanes, but for a page answered during the save, whichever core's request that served (R315), and not missed again since. -/
def missingPages (s : State) (t : Team) : List Nat :=
  let c := s.core t.core
  let asked := (c.pages ++ c.waiters).filterMap (fun x => if x.1 = t.ident.job then some x.2 else none)
  let lanes := t.queues.flatMap (fun q => q.entries.flatMap (fun e =>
    (e.lanes.filter (fun l => l.st == .pending)).flatMap (fun l => (lanePages q l).filter asked.contains)))
  dedup ((t.save.missing ++ lanes).filter (fun p => !t.save.answered.contains p))

/-- Waiting requests and queued commands leave the table and the engines (spec/09 R263, spec/08 R237). -/
def withdrawWork (s : State) (t : Team) : State :=
  let s := s.updCluster (clusterOf t.core) (fun k => { k with table := k.table.filter (fun r => r.team != t.id) })
  s.updCore t.core (fun c => { c with runnels := c.runnels.map (fun r => { r with fifo := r.fifo.filter (fun m => m.team != t.id) }) })

/-- FRAME_COMPLETE (R315): the frame is written, the header last, once the stacks it lies in are ready (spec/12 R346); the footprint is freed and the team is saved. -/
def execFrameComplete (id : Nat) (s : State) : Host.Outcome State Fault Refusal := whenClocked s <|
  match s.team? id with
  | none => .next s
  | some t =>
    if !saveReady s t then .next s
    else
      let (v, whole) := savedOf s t
      let parts := (if whole then 3 else 4) + (if t.trap.handler.isSome then 8 else 0)
      let t := { t with save := { t.save with missing := missingPages s t, parts := BitVec.ofNat 4 parts, saved := some v } }
      if !frameReady s t v then .next s
      else
        let s := writeFrame (s.setTeam t) t v
        let s := s.setTeam { t with status := .saved }
        .next (leaveCore (withdrawWork s t) id)

/-! ## Restore (R290) -/

/-- The saved requests posted again in order, with fresh allowances (spec/09 R263). -/
def repost (s : State) (t : Team) (v : Saved) : State :=
  v.requests.foldl (fun s r => s.updCluster (clusterOf t.core) (fun k => { k with
    table := k.table ++ [{ r with tiles := r.tiles.map (fun i => t.mtx.tiles.getD i 0), allowance := 31 - k.table.length }] })) s

/-- One team restored from its frame. -/
def restoreTeam (s : State) (id : Nat) : State :=
  match s.team? id with
  | none => s
  | some t =>
    let v := t.save.saved.getD { live := [], ranges := [], tiles := [], marks := [], requests := [], cmds := [], slots := [] }
    let t1 := { t with
      warps := ((List.range t.warps.length).zip t.warps).map (fun x =>
        let w := restoreWarp s t v x.1 x.2
        if x.2.done && w.done then x.2 else w)
      scr := restoreScratch s t v, queues := (queueOffsets t.queues).map (restoreQueue s t) }
    let (s, qs) := settleQueues (s.setTeam t1) t1
    let t2 := { t1 with
      queues := qs, status := if t.trap.handler.isSome then .halted else .resident
      save := { t.save with request := none, why := none, missing := [], answered := [], refused := [], qdead := 0, saved := none } }
    let s := s.setTeam (t2.refill s.clock)
    let s := repost (restoreTiles s t2 v) t2 v
    let s := v.cmds.foldl (fun s m => s.updCore t.core (fun c => { c with
      runnels := updAt c.runnels m.1 (fun r => { r with fifo := r.fifo ++ [m.2] }) })) s
    let s := s.updCore t.core (fun c => { c with slotPoison := c.slotPoison ++ v.slots })
    { (writeHeader s t2 0) with freeTag := s.freeTag + 1 }

/-- The slot-poison tables of the cores can take the entries saved with these teams (spec/08 R238). -/
def poisonRoom (s : State) (l : List Team) : Bool :=
  (List.range 24).all (fun c =>
    let new := (l.filter (fun t => t.core == c)).flatMap (fun t => match t.save.saved with | some v => v.slots | none => [])
    new.isEmpty || decide ((s.core c).slotPoison.length + new.length ≤ 16))

/-- The reservation table can take the requests of these teams. -/
def tableRoom (s : State) (l : List Team) : Bool :=
  (List.range 6).all (fun k => decide ((s.cluster k).table.length +
    ((l.filter (fun t => clusterOf t.core == k)).map (fun t => match t.save.saved with | some v => v.requests.length | none => 0)).foldl (· + ·) 0 ≤ 32))

/-- The FIFOs of the engines can take the commands saved with these teams (spec/08 R233): 16, and one more where the engine takes the first at once. -/
def fifoRoom (s : State) (l : List Team) : Bool :=
  (List.range 24).all (fun c => (List.range 4).all (fun e =>
    let r := (s.core c).runnels.getD e Runnel.reset
    let new := (((l.filter (fun t => t.core == c)).flatMap (fun t => match t.save.saved with | some v => v.cmds | none => [])).filter (fun m => m.1 == e)).length
    new == 0 || decide (fifoUsed r + new ≤ 16) || (r.fifo.isEmpty && decide (new ≤ 17))))

/-- TEAM_RESTORE (R290): a restoring team, with its gang launch, is back from its frame before any warp of it issues. -/
def execTeamRestore (id : Nat) (s : State) : Host.Outcome State Fault Refusal := whenClocked s <|
  match s.team? id with
  | none => .next s
  | some t =>
    let unit := (liveLaunch s t).filter (fun x => x.status == .restoring)
    .next (if t.status == .restoring && tableRoom s unit && poisonRoom s unit && fifoRoom s unit then unit.foldl (fun s x => restoreTeam s x.id) s else s)

/-! ## Job stop (R291) -/

/-- A team of the task still has to be saved or still runs. -/
def taskOn (s : State) (t : Task) : Bool := s.teams.any (fun x => x.ident.task == t.id && x.placed)

/-- The tasks the stop of a job orders: those it found with teams to order as it began. -/
def stopTasks (s : State) (job : Nat) : List Task :=
  s.die.tasks.filter (fun t => s.die.stopOrder.any (fun x => x.1 == job && x.2.contains t.id))

/-- An edge P → C: a sluice in P's OUT is named in C's IN. -/
def feeds (p c : Task) : Bool :=
  (List.range 4).any (fun i => recOut p.record i != 0 && (List.range 4).any (fun j => recIn c.record j == recOut p.record i))

/-- The tasks that the edges reach from a task, in n steps. -/
def reached (l : List Task) : Nat → List Nat → List Nat
  | 0, acc => acc
  | n + 1, acc =>
    reached l n (dedup (acc ++ (l.filter (fun c => l.any (fun p => acc.contains p.id && feeds p c))).map (·.id)))

/-- C is reached from P by edges. -/
def reaches (l : List Task) (p c : Task) : Bool :=
  (reached l l.length ((l.filter (fun x => feeds p x)).map (·.id))).contains c.id

/-- P's teams are to be saved before C's requests go out: a producer, or, on a cycle, the earlier published. -/
def stopsBefore (l : List Task) (p c : Task) : Bool :=
  if reaches l p c && reaches l c p then decide (p.id < c.id) else feeds p c

/-- JOB_STOP (R291): save requests go to the resident teams of every task whose producers' teams are all saved. -/
def execJobStop (job : Nat) (s : State) : Host.Outcome State Fault Refusal := whenClocked s <|
  if !s.die.stoppedJobs.contains job then .next s
  else
    let l := stopTasks s job
    let go := l.filter (fun c => l.all (fun p => !stopsBefore l p c || !taskOn s p))
    .next ((s.teams.filter (fun t => t.status == .resident && t.save.request.isNone && go.any (fun k => k.id == t.ident.task))).foldl
      (fun s t => requestSave s t.id .jobStop) s)

end Sys2Proof.Machine
end

