-- ==== Sys2Proof/Machine/Answers.lean ====
section
/-! DEFINITION. Answers of the fault service to page requests, and what a stack that becomes ready answers (spec/05 R155-R157, spec/08 R238, spec/12 R346, spec/13 R362, R372, R411). -/

namespace Sys2Proof.Machine

/-- An answer as teams being saved and saved teams take it, whichever core it serves (R157, R315). -/
def noteAnswer (job page : Nat) (present : Bool) (t : Team) : Team :=
  if t.ident.job ≠ job then t
  else if t.status = .saving then
    { t with save := { t.save with
        answered := dedup (t.save.answered ++ [page]), refused := if present then t.save.refused else dedup (t.save.refused ++ [page]) } }
  else if t.status = .saved ∧ t.save.missing.contains page then
    { t with save := { t.save with
        missing := t.save.missing.filter (· != page), refused := if present then t.save.refused else dedup (t.save.refused ++ [page]) } }
  else t

/-- The missing-page list and count of a saved team's frame (R157, R315). -/
def writeMissing (s : State) (t : Team) : State :=
  writeHeader (writeBytes s 0 false (bytesAt (t.save.frame + 0x40) (missingBytes t))) t 2

/-- An answer taken by every team and, for a saved team whose list it shortens, by its frame. -/
def noteAnswers (s : State) (job page : Nat) (present : Bool) : State :=
  let hit := s.teams.filter (fun t => t.ident.job == job && t.status == .saved && t.save.missing.contains page)
  let s := { s with teams := s.teams.map (noteAnswer job page present) }
  hit.foldl (fun s t => match s.team? t.id with | some u => writeMissing s u | none => s) s

/-- The PENDING lanes of a team that wait for a page: queue, slot, lane (R155). -/
def pendingLanes (t : Team) (page : Nat) : List (Nat × Nat × Nat) :=
  t.queues.flatMap (fun q => (List.range q.cap).flatMap (fun slot =>
    if !q.holds slot then []
    else laneList.filterMap (fun L =>
      let l := (q.entries.getD slot QEntry.empty).lane L
      if l.st = .pending ∧ (lanePages q l).contains page then some (q.num, slot, L) else none)))

/-- One PENDING lane answered: REFETCH, or POISON with cause NOMAP (R155). -/
def answerLane (s : State) (id : Nat) (present : Bool) (x : Nat × Nat × Nat) : State :=
  match s.team? id with
  | none => s
  | some t =>
    match t.queue? x.1 with
    | none => s
    | some q =>
      let l := (q.entries.getD x.2.1 QEntry.empty).lane x.2.2
      if present then landLane s id x.1 x.2.1 x.2.2 { l with st := .refetch }
      else
        let (s, w) := addPoison s t.core id x.1 x.2.2 causeNOMAP l.va
        landLane s id x.1 x.2.1 x.2.2 { l with st := .poison, data := w }

/-- An engine command that waits for a page goes on; where the request is refused it stops as on an unrecoverable miss of cause NOMAP (R238; DESIGN CHOICE, notes/assumptions/48.md). -/
def answerCmd (page : Nat) (present : Bool) (c : RunCmd) : RunCmd :=
  match c.missing.find? (fun va => pageOf va == page) with
  | none => c
  | some va =>
    if present then { c with missing := c.missing.filter (fun va => pageOf va != page) }
    else { c with missing := [], poison := some (causeNOMAP, va) }

/-- A core's request answered. -/
def answerCore (s : State) (core job page : Nat) (present : Bool) : State :=
  let s := s.updCore core (fun c => { c with pages := c.pages.filter (· != (job, page)) })
  let mine := s.teams.filter (fun t => t.core == core && t.ident.job == job && t.placed && t.status != .restoring)
  let s := mine.foldl (fun s t => (pendingLanes t page).foldl (fun s x => answerLane s t.id present x) s) s
  let of (c : RunCmd) : Bool := match s.team? c.team with | some t => t.ident.job == job | none => false
  s.updCore core (fun c => { c with runnels := c.runnels.map (fun r =>
    { r with fifo := r.fifo.map (fun m => if of m then answerCmd page present m else m) }) })

/-- A collective whose page has been answered: its input is read again, or the access has failed (R411). -/
def answerColl (s : State) (page : Nat) (present : Bool) (c : Coll) : State :=
  if !c.wait.contains page then s
  else
    let s := s.updColl c.id (fun c => { c with wait := c.wait.filter (· != page) })
    if present then contribute s c.id
    else if c.result.isSome then dstFault s c 2
    else collFault s c 2

/-- The STATUS words that waited for a page are written in order, or lost with it (R275). -/
def answerStatus (s : State) (job page : Nat) (present : Bool) : State :=
  let mine := s.die.statusWrites.filter (fun x => x.1 == job && pageOf x.2.1 == page)
  let s := s.updDie (fun d => { d with statusWrites := d.statusWrites.filter (fun x => !(x.1 == job && pageOf x.2.1 == page)) })
  if present then mine.foldl (fun s x => writeVa64 s x.1 x.2.1 x.2.2) s else s

/-- A request of the dispatcher or of Confluence answered (R271, R275, R411). -/
def answerDispatcher (s : State) (job page : Nat) (present : Bool) : State :=
  let s := s.updDie (fun d => { d with
    pages := d.pages.filter (· != (job, page))
    tasks := d.tasks.map (fun t => if t.job = job ∧ t.wait.contains page then
      { t with wait := t.wait.filter (· != page), refused := if present then t.refused else dedup (t.refused ++ [page]) } else t) })
  let s := answerStatus s job page present
  (s.fab.colls.filter (fun c => c.job == job)).foldl (fun s c => answerColl s page present c) s

/-- A request of the fabric unit answered: held packets and held UE requests go on, a refused page failing them (R362, R372). -/
def answerFabric (s : State) (job page : Nat) (present : Bool) : State :=
  let s := s.updFab (fun b => { b with pages := b.pages.filter (· != (job, page)) })
  let mine := s.fab.held.filter (fun h => h.packet.job == job && h.wait.contains page)
  let s := s.updFab (fun b => { b with held := b.held.filter (fun h => !mine.contains h) })
  let s := mine.foldl (fun s h => tryPacket s (if present then [] else [page]) h.packet) s
  let s := reoffer (drainHeld s.fab.held.length s)
  let ue := s.fab.ueHeld.filter (fun x => x.1 == job)
  let s := s.updFab (fun b => { b with ueHeld := b.ueHeld.filter (fun x => x.1 != job) })
  let s := ue.foldl (fun s x =>
    let touches := decide (pageOf x.2.1 ≤ page ∧ page ≤ pageOf (x.2.1 + x.2.2.len - 1))
    if touches && !present then ueAnswer s none else serveUe s x.1 x.2.1 x.2.2) s
  -- pages that found the table full are requested now
  let s := s.fab.held.foldl (fun s h => fabricPages s h.packet.job h.wait) s
  s.fab.ueHeld.foldl (fun s x => fabricPages s x.1 (rangeMisses s x.1 x.2.1 x.2.2.len (if x.2.2.write.isSome then .w else .r))) s

/-- The request an answer answers is outstanding. -/
def requested (s : State) (a : PageAnswer) : Bool :=
  if a.core < 24 then (s.core a.core).pages.contains (a.job, a.page)
  else if a.core = 24 then s.die.pages.contains (a.job, a.page)
  else s.fab.pages.contains (a.job, a.page)

/-- One answer. -/
def answerPage (s : State) (a : PageAnswer) : State :=
  if !requested s a then s
  else
    let s := noteAnswers s a.job a.page a.present
    if a.core < 24 then answerCore s a.core a.job a.page a.present
    else if a.core = 24 then answerDispatcher s a.job a.page a.present
    else answerFabric s a.job a.page a.present

/-- PAGE_ANSWER (R155). -/
def execPageAnswer (a : PageAnswer) (s : State) : Host.Outcome State Fault Refusal := whenClocked s <| .next (answerPage s a)

/-- Every page request outstanding. -/
def allRequests (s : State) : List PageAnswer :=
  ((List.range s.cores.length).zip s.cores).flatMap (fun x => x.2.pages.map (fun p => { core := x.1, job := p.1, page := p.2, present := true })) ++
    s.die.pages.map (fun p => { core := 24, job := p.1, page := p.2, present := true }) ++
    s.fab.pages.map (fun p => { core := 25, job := p.1, page := p.2, present := true })

/-- A page is no longer missing once its tables and a stack of it can be reached: what its stack's ready bit answers (R346). -/
def stackAnswers (s : State) : State :=
  ((allRequests s).filter (fun a => walk s a.job (a.page * 0x10000) != .miss)).foldl answerPage s

end Sys2Proof.Machine
end

