-- ==== Sys2Proof/Machine/Atomics.lean ====
section
/-! DEFINITION. Atomics, opcodes 0x90 to 0x9F (spec/06 R190, R199). -/

namespace Sys2Proof.Machine

/-- How many registers from D up an atomic reads, as bytes of operand: width for one value, twice that for a compare and swap. -/
structure AtomicKind where
  width : Nat
  swap : Bool
  deriving DecidableEq, Repr

/-- D may be named: ACAS.b64 needs a multiple of 4, ACAS.b32 and the 64-bit forms an even register (R199). -/
def atomicOk (c : Ctx) (d : Nat) (k : AtomicKind) : Bool :=
  dataOk c d (if k.swap then 2 * k.width else k.width)

/-- The operation at one lane's location: the old value and the machine after it. -/
def atomicLane (c : Ctx) (lane : Nat) (ps : List Place) (new : Nat → Nat) : Ctx × Nat :=
  let old := readElem c.s c.t ps
  (c.putNow lane (placeBytes ps (new old)), old)

/-- The lanes in ascending order, each finding what the ones before left (R190). -/
def atomicLanes (k : AtomicKind) (d : Nat) (op : Nat → Nat → Nat → Nat) :
    Ctx → List (Nat × List Place) → List (Nat × Nat × Word) → Ctx × List (Nat × Nat × Word)
  | c, [], acc => (c, acc)
  | c, (L, ps) :: r, acc =>
    let v := dataOf c.w d k.width L
    let v2 := dataOf c.w (d + k.width / 4) k.width L
    let (c, old) := atomicLane c L ps (fun old => op old v (if k.swap then v2 else 0))
    atomicLanes k d op c r (acc ++ regWrites d k.width L old)

/-- The physical addresses of the lanes' places. -/
def placeAddrs (ls : List (Nat × List Place)) : List (Nat × Byte) :=
  ls.flatMap (fun x => x.2.filterMap (fun p => match p with | .phys _ pa _ => some (pa, 0) | _ => none))

/-- An atomic (R199): performed at the home slice once the core's own earlier stores to its bytes are; op takes old, v and the second operand of a compare and swap. -/
def atomicForm (s : State) (f : FmtAt) (k : AtomicKind) (op : Nat → Nat → Nat → Nat) : Host.Outcome State Fault Refusal :=
  issue s .accessOnly (fun c =>
    let act := c.act f.g
    orIllop (scopeOk f.scope) (orIllopnd (atomicOk c f.d.toNat k && baseOk c f.a) (
      if act = 0 then .done c
      else match checkLanes c act f.a .atomic .rw k.width k.width with
        | .stop r => r
        | .ok ls es =>
          if ls.any (fun x => elemL2Poisoned c.s x.2) then .raw (killTeam c.s c.t.id)
          else if !mayAccess c ls || unverified c f.order f.scope ls then .stall
          else if (c.s.core c.t.core).stores.any (fun st => sharesByte st.bytes (placeAddrs ls)) then .stall
          else
            let (c', writes) := atomicLanes k f.d.toNat op (c.noteTlb es) ls []
            let done : Res := .done ((c'.acceptLoad (sectorsOf ls) writes).ordered f.order act)
            if bitOf f.order 1 then afterRelease c act f.scope.toNat done else done)))

/-- A 32-bit operation over words. -/
def on32 (op : Word → Word → Word) : Nat → Nat → Nat → Nat :=
  fun old v _ => (op (BitVec.ofNat 32 old) (BitVec.ofNat 32 v)).toNat

def k32 : AtomicKind := { width := 4, swap := false }
def k64 : AtomicKind := { width := 8, swap := false }

def execAaddI32 (f : FmtAt) (s : State) := atomicForm s f k32 (on32 (· + ·))
def execAaddI64 (f : FmtAt) (s : State) := atomicForm s f k64 (fun old v _ => (old + v) % 2 ^ 64)
def execAaddF32 (f : FmtAt) (s : State) := atomicForm s f k32 (on32 f32Add)
def execAaddB2 (f : FmtAt) (s : State) := atomicForm s f k32 (on32 (halves (addCode bf16)))
def execAminI32 (f : FmtAt) (s : State) := atomicForm s f k32 (on32 (fun a b => if a.toInt ≤ b.toInt then a else b))
def execAminN32 (f : FmtAt) (s : State) := atomicForm s f k32 (fun old v _ => min old v)
def execAmaxI32 (f : FmtAt) (s : State) := atomicForm s f k32 (on32 (fun a b => if a.toInt ≥ b.toInt then a else b))
def execAmaxN32 (f : FmtAt) (s : State) := atomicForm s f k32 (fun old v _ => max old v)
def execAand (f : FmtAt) (s : State) := atomicForm s f k32 (on32 (· &&& ·))
def execAor (f : FmtAt) (s : State) := atomicForm s f k32 (on32 (· ||| ·))
def execAxor (f : FmtAt) (s : State) := atomicForm s f k32 (on32 (· ^^^ ·))
def execAxchB32 (f : FmtAt) (s : State) := atomicForm s f k32 (fun _ v _ => v)
def execAxchB64 (f : FmtAt) (s : State) := atomicForm s f k64 (fun _ v _ => v)
def execAcasB32 (f : FmtAt) (s : State) := atomicForm s f { width := 4, swap := true } (fun old v n => if old = v then n else old)
def execAcasB64 (f : FmtAt) (s : State) := atomicForm s f { width := 8, swap := true } (fun old v n => if old = v then n else old)
def execAincb (f : FmtAt) (s : State) := atomicForm s f k32 (fun old v _ => if old < v then (old + 1) % 2 ^ 32 else old)

end Sys2Proof.Machine
end

