-- ==== Sys2Proof/Machine/HostAccess.lean ====
section
/-! DEFINITION. Host accesses to memory: the HBM window BAR2, held egress rings and their window BAR4 (spec/12 R331, R337-R339, R346). -/

namespace Sys2Proof.Machine

/-- A byte of a valid egress ring, hidden from BAR2 (R338). -/
def ringHidden (s : State) (pa : Nat) : Bool :=
  s.pkg.egrings.any (fun x => egValid x.2 && decide (egBase x.2 ≤ pa ∧ pa < egBase x.2 + egSize x.2 * egCount x.2))

/-- Every line of a range can be read: its stacks are ready (R346). -/
def hostReady (s : State) (pa len : Nat) : Bool :=
  decide (pa + len ≤ Config.hbmBytes) && (List.range len).all (fun i => stackReady s (pa + i))

/-- HOST_MEMORY_ACCESS (R331): through slot 0. Bytes of held rings read zero and keep their value; a stack that is not ready completes as unsupported, a poisoned line with a poisoned completion, neither with data (R327, R346). -/
def execHostMemoryAccess (a : HostAccess) (s : State) : Host.Outcome State Fault Refusal :=
  hostEvent s (fun s =>
    let bare : State := s.updPkg (fun p => { p with hostRead := [] })
    if s.pkg.power ≠ .run ∨ !hostReady s a.pa a.len then bare
    else match a.write with
      | some bs =>
        let cells := (bytesAt a.pa (bs.take a.len)).filter (fun b => !ringHidden s b.1)
        (touchPools (writeBytes s 0 false cells) (cells.map (·.1))).updPkg (fun p => { p with hostRead := [] })
      | none =>
        if (List.range a.len).any (fun i => l2Poisoned s (a.pa + i)) then bare
        else
          let bs := (List.range a.len).map (fun i => if ringHidden s (a.pa + i) then 0 else readPhys s 0 (a.pa + i))
          s.updPkg (fun p => { p with hostRead := bs }))

/-! ## BAR4 (R337, R339) -/

def egWoff (r : BitVec 512) : Nat := bitsOf r 320 14 * 4096
def egWlen (r : BitVec 512) : Nat := bitsOf r 334 15 * 4096
def egWslot (r : BitVec 512) : Nat := bitsOf r 352 16

/-- The ring whose window shows a BAR4 offset: the lowest of those that do. -/
def ringAt (s : State) (off : Nat) : Option (BitVec 512) :=
  (s.pkg.egrings.find? (fun x => egValid x.2 && decide (egWoff x.2 ≤ off ∧ off < egWoff x.2 + egWlen x.2))).map (·.2)

/-- The index a slot stands for: the one in [HCUR, HCUR + COUNT) (R337). -/
def egIndex (r : BitVec 512) (slot : Nat) : Nat :=
  egHcur r + (slot + egCount r - egHcur r % egCount r) % egCount r

/-- The physical address that a byte of BAR4 shows, if it shows one. -/
def bar4Pa (s : State) (off : Nat) : Option Nat :=
  (if off < 0x4000000 then ringAt s off else none).bind (fun r =>
    let o := off - egWoff r
    let slot := egWslot r + o / egSize r
    if slot < min (egCount r) (egWslot r + egWlen r / egSize r) ∧ egIndex r slot < egRcur r then
      some (egBase r + slot * egSize r + o % egSize r) else none)

/-- A byte of BAR4: of an entry released and not consumed, else zero. -/
def bar4Byte (s : State) (off : Nat) : Byte := match bar4Pa s off with | some pa => readPhys s 0 pa | none => 0

/-- EGRESS_WINDOW_READ (R339): a line of a stack that is not ready completes as unsupported (R346), a poisoned one poisoned (R327), neither with data. -/
def execEgressWindowRead (off len : Nat) (s : State) : Host.Outcome State Fault Refusal :=
  hostEvent s (fun s =>
    let pas := (List.range len).filterMap (fun i => bar4Pa s (off + i))
    s.updPkg (fun p => { p with
      hostRead := if s.pkg.power = .run ∧ pas.all (fun pa => stackReady s pa && !l2Poisoned s pa) then
        (List.range len).map (fun i => bar4Byte s (off + i)) else [] }))

/-- VALID written 1: RCUR takes HCUR; ignored when JOB names no valid slot (R338). -/
def openRing (e : Nat) (s : State) : State :=
  let r := egRing s e
  if egValid r ∨ (jobSlot s (egJob r)).isNone then s else setEgRing s e (setBits (setBits r 192 64 (egHcur r)) 64 1 1)

/-- VALID written 0 (R338). -/
def closeRing (e : Nat) (s : State) : State :=
  let r := egRing s e
  if egValid r then setEgRing s e (setBits r 64 1 0) else s

/-- HCUR written: on an open ring up to RCUR and only forward (R337), on a closed one any value (R338). -/
def writeHcur (e : Nat) (val : DWord) (s : State) : State :=
  let r := egRing s e
  if !egValid r then setEgRing s e (setBits r 256 64 val.toNat)
  else
    let n := min val.toNat (egRcur r)
    if n > egHcur r then setEgRing s e (setBits r 256 64 n) else s

def execEgringOpen (e : Nat) (s : State) : Host.Outcome State Fault Refusal := hostEvent s (openRing e)
def execEgringClose (e : Nat) (s : State) : Host.Outcome State Fault Refusal := hostEvent s (closeRing e)
def execEgringHcurWrite (e : Nat) (val : BitVec 64) (s : State) : Host.Outcome State Fault Refusal := hostEvent s (writeHcur e val)

end Sys2Proof.Machine
end

