-- ==== Sys2Proof/Machine/Mirror.lean ====
section
/-! DEFINITION. What memory holds of a warp's split state while the team lives: the spill area (spec/02 R60, R65) and the halt records of its frame (spec/11 R301, R313). -/

namespace Sys2Proof.Machine

/-- The spill area of a warp: the records of its spilled splits, one after another (R60; their order is notes/assumptions/16.md). -/
def writeSpill (s : State) (w : Warp) : State := writeOwn s (bytesAt w.spillBase (w.spilled.flatMap (fun p => leBytes 32 (splitRecord p))))

/-- What a turn has changed of a warp's spilled splits and halt record goes to memory. -/
def mirrorWarp (s : State) (t : Team) (old : Option Warp) (w : Warp) : State :=
  let s := if w.spilled = (old.map (·.spilled)).getD [] then s else writeSpill s w
  if w.halt = (old.map (·.halt)).getD HaltRecord.reset then s else writeHalt s t w

/-- The machine s after a turn taken in s0, with the memory that holds split state brought up to date. -/
def mirror (s0 s : State) : State :=
  (s.teams.filter Team.placed).foldl (fun s t =>
    ((List.range t.warps.length).zip t.warps).foldl (fun s x => mirrorWarp s t ((s0.team? t.id).bind (fun u => u.warps[x.1]?)) x.2) s) s

/-- STATE of the header of a team on a core (R314). -/
def headerCode (t : Team) : Nat :=
  match t.status with
  | .saving => 1
  | .restoring => 3
  | _ => 0

/-- A stack has become ready: what the device owes the frames and spill areas of the teams on cores is written (spec/12 R346). -/
def writeOwed (s : State) : State :=
  (s.teams.filter Team.placed).foldl (fun s t => t.warps.foldl writeSpill (writeHalts (writeHeader s t (headerCode t)) t)) s

end Sys2Proof.Machine
end

