-- ==== Sys2Proof/Machine/Security.lean ====
section
/-! DEFINITION. Keys, lifecycle, attestation and debug (spec/12 R330, R332, R341-R345). -/

namespace Sys2Proof.Machine

/-! ## Keys (R332) -/

/-- A KEYSLOT write is over: the staged blob may be cleared, KEYSTAT set, a new ephemeral key made. -/
def keyDone (s : State) (stat : Nat) (clear : Bool) : State :=
  s.updPkg (fun p => { p with keyStat := stat, keyEph := p.keyEph + 1, keyStage := if clear then 0 else p.keyStage })

/-- A key put into a slot: the entry of the keyring that holds it already, else a new one. Each of the die's own keys is another one. -/
def putKey (s : State) (k : Nat) (m : KeyMat) : State :=
  match s.pkg.keyring.findIdx? (fun x => x == m && m.cipher != 0) with
  | some i => s.updPkg (fun p => { p with keySlots := cellsSet p.keySlots k i })
  | none => s.updPkg (fun p => { p with keyring := p.keyring ++ [m], keySlots := cellsSet p.keySlots k p.keyring.length })

/-- 1 written to KEYSLOT k: the staged blob is opened under the transport key; its tag is checked before its cipher code. -/
def installKey (k : Nat) (s : State) : State :=
  if k = 0 ∨ Config.nKeySlots ≤ k then keyDone s 3 true
  else match Config.gcmOpen (Config.transportKey s.pkg.keyEph s.pkg.keyHost) s.pkg.keyStage with
    | none => keyDone s 1 true
    | some m =>
      let cipher := bitsOf s.pkg.keyStage 0 8
      if cipher ≠ 1 ∧ cipher ≠ 2 then keyDone s 2 true else keyDone (putKey s k { cipher := cipher, material := m }) 0 true

/-- 0 written to KEYSLOT k. -/
def emptyKey (k : Nat) (s : State) : State :=
  if k = 0 ∨ Config.nKeySlots ≤ k then keyDone s 3 false
  else keyDone (s.updPkg (fun p => { p with keySlots := cellsErase p.keySlots k })) 0 false

def execKeyInstall (k : Nat) (s : State) : Host.Outcome State Fault Refusal := hostEvent s (installKey k)
def execKeyEmpty (k : Nat) (s : State) : Host.Outcome State Fault Refusal := hostEvent s (emptyKey k)

/-! ## Debug (R344, R345) -/

/-- DBGNONCE takes a fresh value after every request. -/
def freshNonce (s : State) : State :=
  s.updPkg (fun p => { p with dbgNonce := Config.randomSource p.randoms, randoms := p.randoms + 1 })

/-- Teams held for debug are released: of one job, or all (R345). -/
def releaseTeams (s : State) (job : Option Nat) : State :=
  { s with teams := s.teams.map (fun (t : Team) =>
      if t.trap.held ∧ (job = none ∨ job = some t.ident.job) then { t with trap := { t.trap with held := false } } else t) }

/-- The outcome of a request: its result, the state it leaves, a fresh nonce. -/
def dbgResult (s : State) (r : Nat) (st : DebugState) : State :=
  freshNonce (s.updPkg (fun p => { p with dbgResult := r, debug := st }))

/-- A hold is still in progress: some held team is not saved yet. -/
def holdPending (s : State) : Bool := s.teams.any (fun t => t.trap.held && t.status != .saved)

/-- Debug access is answered in Run; Idle has returned to Run, Retain refuses it (R344). -/
def debugReached (s : State) : Bool := s.pkg.power == .run

/-- The debug state becomes Off: every held team is released, the token is void. -/
def debugOff (s : State) : State :=
  releaseTeams (s.updPkg (fun p => { p with debug := .off, tokenValid := false })) none

/-- A request for Off. -/
def requestOff (s : State) : State :=
  if !debugReached s then s
  else if holdPending s then dbgResult s 4 s.pkg.debug
  else dbgResult (debugOff s) 0 .off

/-- A request for Observe. -/
def requestObserve (s : State) : State :=
  if !debugReached s then s
  else if s.pkg.lifecycle = .tenantLocked then dbgResult s 1 s.pkg.debug
  else if holdPending s then dbgResult s 4 s.pkg.debug
  else dbgResult s 0 .observe

/-- Bytes lo .. lo + n - 1 of the token. -/
def tokenBytes (t : BitVec 1536) (lo n : Nat) : List Byte := leBytes n (bitsOf t (8 * lo) (8 * n))

/-- The token checks against the identity key, the nonce and the owner key (R345). -/
def tokenGood (s : State) : Bool :=
  let t := s.pkg.dbgToken
  match s.pkg.ownerKey with
  | none => false
  | some key =>
    bitsOf t 0 256 == (Config.sm3 (leBytes 64 Config.identityPub.toNat)).toNat && bitsOf t 256 256 == s.pkg.dbgNonce.toNat &&
      bitsOf t 512 8 == 2 && bitsOf t 520 504 == 0 && Config.sm2Verify key (Config.sm3 (tokenBytes t 0 128)) (BitVec.ofNat 512 (bitsOf t 1024 512))

/-- A request for Halt: in Owned only with a token; one that has been accepted stays valid. -/
def requestHalt (s : State) : State :=
  if !debugReached s then s
  else match s.pkg.lifecycle with
    | .tenantLocked => dbgResult s 1 s.pkg.debug
    | .provisioning => if holdPending s then dbgResult s 4 s.pkg.debug else dbgResult s 0 .halt
    | .owned =>
      if holdPending s then dbgResult s 4 s.pkg.debug
      else if s.pkg.tokenValid then dbgResult s 0 .halt
      else if s.pkg.dbgToken = 0 then dbgResult s 2 s.pkg.debug
      else if tokenGood s then dbgResult (s.updPkg (fun p => { p with tokenValid := true })) 0 .halt
      else dbgResult s 3 s.pkg.debug

def execDbgReqOff (s : State) : Host.Outcome State Fault Refusal := hostEvent s requestOff
def execDbgReqObserve (s : State) : Host.Outcome State Fault Refusal := hostEvent s requestObserve
def execDbgReqHalt (s : State) : Host.Outcome State Fault Refusal := hostEvent s requestHalt

/-- DBGHALT: every resident team of the job is held (R345). -/
def haltJob (job : Nat) (s : State) : State :=
  if !debugReached s ∨ !haltInForce s then s
  else (s.teams.filter (fun t => t.ident.job == job && t.status == .resident)).foldl (fun s t =>
    match s.team? t.id with
    | some x => if x.status = .resident then holdTeam s t.id else s.updTeam t.id (fun x => { x with trap := { x.trap with held := true } })
    | none => s) s

/-- DBGRESUME: every held team of the job is released (R345). -/
def resumeHeld (job : Nat) (s : State) : State :=
  if !debugReached s ∨ !haltInForce s then s else releaseTeams s (some job)

def execDbghalt (job : Nat) (s : State) : Host.Outcome State Fault Refusal := hostEvent s (haltJob job)
def execDbgresume (job : Nat) (s : State) : Host.Outcome State Fault Refusal := hostEvent s (resumeHeld job)

/-! ## Lifecycle and attestation (R341, R342) -/

/-- LIFECYCLE_OWN: an owner key is installed. A lifecycle change voids the token. -/
def execLifecycleOwn (key : BitVec 512) (s : State) : Host.Outcome State Fault Refusal :=
  hostEvent s (fun s =>
    if s.pkg.lifecycle = .provisioning then
      s.updPkg (fun p => { p with lifecycle := .owned, ownerKey := some key, tokenValid := false })
    else s)

/-- The owner's signature over a lifecycle command of this device: the digest of the identity public key and the command's code. -/
def ownerSigned (s : State) (code : Nat) (sig : BitVec 512) : Bool :=
  match s.pkg.ownerKey with
  | none => false
  | some key => Config.sm2Verify key (Config.sm3 (leBytes 64 Config.identityPub.toNat ++ leBytes 1 code)) sig

/-- LIFECYCLE_LOCK: the debug state is forced to Off. -/
def execLifecycleLock (sig : BitVec 512) (s : State) : Host.Outcome State Fault Refusal :=
  hostEvent s (fun s =>
    if s.pkg.lifecycle = .owned ∧ ownerSigned s 2 sig = true then debugOff (s.updPkg (fun p => { p with lifecycle := .tenantLocked })) else s)

/-- Every key slot erased; slot 0 takes a new key of the die's own. -/
def eraseKeys (s : State) : State := putKey (s.updPkg (fun p => { p with keySlots := [] })) 0 { cipher := 0, material := 0 }

/-- LIFECYCLE_UNLOCK: every key slot and the contents of HBM are erased first. Under the new key of slot 0 the erased bytes read as free values. -/
def execLifecycleUnlock (sig : BitVec 512) (s : State) : Host.Outcome State Fault Refusal :=
  hostEvent s (fun s =>
    if s.pkg.lifecycle = .tenantLocked ∧ ownerSigned s 1 sig = true then
      let s := (eraseKeys s).updDie (fun d => { d with l2 := [], copies := [], l2Poison := [] })
      s.updPkg (fun p => { p with hbm := { cells := [], fill := .zero }, keyOf := [], lifecycle := .owned, tokenValid := false })
    else s)

/-- LIFECYCLE as a register (R332). -/
def lifecycleCode : Lifecycle → Nat
  | .provisioning => 0
  | .owned => 1
  | .tenantLocked => 2

/-- The contents of a report: firmware digest, lifecycle and debug state, occupied key slots, nonce (R341). -/
def reportBytes (s : State) (nonce : BitVec 256) : List Byte :=
  leBytes 32 ((s.pkg.firmware.getD 0).toNat) ++ leBytes 1 (lifecycleCode s.pkg.lifecycle) ++ leBytes 1 (debugCode s.pkg.debug) ++
    leBytes 256 ((s.pkg.keySlots.map (fun x => 2 ^ x.1)).foldl (· + ·) 0) ++ leBytes 32 nonce.toNat

/-- ATTESTATION_REPORT (R341): signed with the identity key over its SM3 digest. -/
def execAttestationReport (nonce : BitVec 256) (s : State) : Host.Outcome State Fault Refusal :=
  hostEvent s (fun s =>
    let b := reportBytes s nonce
    s.updPkg (fun p => { p with reports := p.reports ++ [(b, Config.sm2Sign (Config.sm3 b))] }))

end Sys2Proof.Machine
end

