-- ==== Sys2Proof/Machine/Power.lean ====
section
/-! DEFINITION. Boot, reset, self-test, power states, repair (spec/00 R3, spec/12 R341, R343, R346-R349). -/

namespace Sys2Proof.Machine

/-! ## Reset and power (R3, R343) -/

/-- Clusters at reset, their tiles' contents free values not used before. -/
def freshClusters (tag : Nat) : List Cluster :=
  (List.range 6).map (fun n => { Cluster.reset n with tiles := (List.range 32).map (fun i => Tile.reset (tag + 32 * n + i)) })

/-- Everything a reset clears. What fuses hold stays, and so do the contents of HBM, the keys given, and the records of what has left the device. The dirty bytes of L2 and the stores that the cores' L1 caches have accepted are lost, and the poison marks of lines are dropped, also of lines whose bytes lie in HBM (DESIGN CHOICE, notes/assumptions/29.md). -/
def clearDevice (s : State) (keys : List (Nat × Nat)) (power : PowerState) : State :=
  { clock := 0, agenda := s.agenda, cur := none, rr := 0, nextId := s.nextId, freeTag := s.freeTag + 192, late := false, teams := []
    cores := List.replicate 24 Core.reset, clusters := freshClusters s.freeTag, die := Die.reset
    pkg := { Package.reset with
      hbm := s.pkg.hbm, keyOf := s.pkg.keyOf, keyring := s.pkg.keyring, keySlots := keys, keyEph := s.pkg.keyEph + 1
      lifecycle := s.pkg.lifecycle, ownerKey := s.pkg.ownerKey, power := power, randoms := s.pkg.randoms, msix := s.pkg.msix
      reports := s.pkg.reports, spareHbm := s.pkg.spareHbm }
    fab := { Fabric.reset with keys := s.fab.keys, outbox := s.fab.outbox } }

/-- MODULE_RESET (R3): every register takes its reset value; slot 0 keeps the key of this power-up. -/
def execModuleReset (s : State) : Host.Outcome State Fault Refusal :=
  .next (if s.pkg.power = .off then s else clearDevice s (s.pkg.keySlots.filter (fun x => x.1 == 0)) .run)

/-- The module goes Off: every key slot is erased, slot 0's too (R343). -/
def goOff (s : State) : State := clearDevice s [] .off

/-- POWER_OFF (R343). -/
def execPowerOff (s : State) : Host.Outcome State Fault Refusal := .next (if s.pkg.power = .off then s else goOff s)

/-- Retain: L2 is written back and emptied, the optics go dark (R343). -/
def goRetain (s : State) : State :=
  let s := writeBackAll s
  let s := s.updDie (fun d => { d with l2 := [], copies := [] })
  (s.updFab (fun b => { b with ports := b.ports.map (fun x => (x.1, x.2.setState 0)) })).updPkg (fun p => { p with power := .retain })

/-- PWRSTATE written (R332, R343): Run; Retain, granted with no team resident or saved; Off. Idle is entered by the module itself. The codes are the order of R343's states (DESIGN CHOICE, notes/assumptions/48.md). -/
def requestPower (val : DWord) (s : State) : State :=
  match val.toNat with
  | 0 => s.updPkg (fun p => { p with power := .run })
  | 2 => if s.pkg.power = .run ∧ teamsPresent s = false then goRetain s else s
  | 3 => goOff s
  | _ => s

def execPwrstateWrite (val : BitVec 64) (s : State) : Host.Outcome State Fault Refusal := hostEvent s (requestPower val)

/-- IDLE_ENTRY (R343): 2^20 cycles without a resident team, a waiting task or a host access. -/
def execIdleEntry (s : State) : Host.Outcome State Fault Refusal :=
  .next (if s.pkg.power = .run ∧ quiet s = true ∧ 2 ^ 20 ≤ s.pkg.idleFor then s.updPkg (fun p => { p with power := .idle }) else s)

/-- IDLE_WAKE (R343). -/
def execIdleWake (s : State) : Host.Outcome State Fault Refusal :=
  .next (s.updPkg (fun p => { p with power := if p.power = .idle then .run else p.power, idleFor := 0 }))

/-- THERMAL_GATE (R349): at 105 degrees grants are gated; below they are not. No result changes. -/
def execThermalGate (celsius : Nat) (s : State) : Host.Outcome State Fault Refusal :=
  .next (s.updPkg (fun p => { p with gated := decide (105 ≤ celsius) }))

/-- THERMAL_TRIP (R349): at 115 degrees the module goes Off after an MSI-X notice. -/
def execThermalTrip (celsius : Nat) (s : State) : Host.Outcome State Fault Refusal :=
  .next (if celsius < 115 ∨ s.pkg.power = .off then s else goOff (s.updPkg (fun p => { p with msix := p.msix ++ [0] })))

/-! ## Boot and self-test (R341, R346) -/

/-- The image is signed by the vendor whose key digest the fuses hold. -/
def imageGood (b : BootImage) : Bool :=
  Config.sm3 (leBytes 64 b.vendorKey.toNat) == Config.vendorKeyDigest && Config.sm2Verify b.vendorKey (Config.sm3 b.image) b.sig

/-- BOOT (R341): power-up verifies and runs the image. A power-up from Off gives slot 0 a new key. An image that fails is never run: nothing becomes ready. -/
def execBoot (b : BootImage) (s : State) : Host.Outcome State Fault Refusal :=
  .next (if s.pkg.firmware.isSome then s
    else
      let s := if (keyIn s 0).isSome then s else putKey s 0 { cipher := 0, material := 0 }
      let s := s.updPkg (fun p => { p with power := .run })
      if !imageGood b then s
      else (s.updPkg (fun p => { p with firmware := some (Config.sm3 b.image) })).updFab (fun f => { f with
        ports := (List.range 96).zip (b.portModes ++ List.replicate 96 0) |>.map (fun x => (x.1, Port.boot x.2 (b.portCiphers.getD x.1 false))) }))

/-- READY or FAILED with a bit set; a function that has failed never sets READY (R346). -/
def setReady (s : State) (i : Nat) (pass : Bool) : State :=
  s.updPkg (fun p => if bitOf p.failed i then p else if pass then { p with ready := p.ready ||| BitVec.ofNat 64 (2 ^ i) } else { p with failed := p.failed ||| BitVec.ofNat 64 (2 ^ i) })

/-- SELF_TEST_DONE (R346): fn is a bit of READY (0-23 cores, 24-29 matrix engines, 30-32 sectors, 33-40 stacks, 41 Confluence), 42 + 4 c + e for Runnel engine e of core c, or 138 + p for port p (R352). A stack that becomes ready takes the writes and answers the requests that waited for it. -/
def execSelfTestDone (fn : Nat) (pass : Bool) (s : State) : Host.Outcome State Fault Refusal :=
  .next (if s.pkg.firmware.isNone then s
    else if fn < 24 then (setReady s fn pass).updCore fn (fun c => { c with ready := pass && !bitOf s.pkg.failed fn })
    else if fn < 30 then (setReady s fn pass).updCluster (fn - 24) (fun c => { c with ready := pass && !c.failed, failed := c.failed || !pass })
    else if fn < 33 then setReady s fn pass
    else if fn < 41 then (if pass && !bitOf s.pkg.failed fn then stackAnswers (writeOwed (setReady s fn pass)) else setReady s fn pass)
    else if fn < 42 then setReady s fn pass
    else if 138 ≤ fn then s.updPort (fn - 138) (fun p => Port.setReady { p with tested := pass })
    else s.updCore ((fn - 42) / 4) (fun c => { c with runnels := updAt c.runnels ((fn - 42) % 4) (fun r => { r with ready := pass && !r.failed, failed := r.failed || !pass }) }))

/-! ## Repair (R348) -/

/-- A team on a retired core: saved and placed elsewhere with its gang launch (R243), or killed where the save fails. One still restoring goes back to its frame. -/
def evictTeam (s : State) (savable : Bool) (id : Nat) : State :=
  match s.team? id with
  | none => s
  | some t =>
    if !savable then killTeam s id
    else match t.status with
      | .resident | .halted => saveMates (beginSave s id .preempt []) t .preempt
      | .restoring => saveMates (sendBack s id) t .preempt
      | _ => s

/-- A core is to be retired: it failed its self-test, or met two uncorrectable errors within 2^24 cycles (R348). -/
def coreUnfit (s : State) (core : Nat) : Bool := (s.core core).unfit || bitOf s.pkg.failed core

/-- CORE_RETIRE (R348). -/
def execCoreRetire (core : Nat) (savable : Bool) (s : State) : Host.Outcome State Fault Refusal :=
  .next (if core ≥ 24 ∨ !coreUnfit s core ∨ (s.core core).retired then s
    else
      let s := (s.updCore core (fun c => { c with ready := false, retired := true })).updPkg (fun p => { p with
        ready := p.ready &&& ~~~BitVec.ofNat 64 (2 ^ core), failed := p.failed ||| BitVec.ofNat 64 (2 ^ core) })
      (s.teams.filter (fun t => t.core == core && t.placed)).foldl (fun s t => evictTeam s savable t.id) s)

/-- HBM_CHANNEL_SPARE (R348, R329): a pseudo-channel is copied to one of its stack's two spares; no byte changes. -/
def execHbmChannelSpare (stack channel : Nat) (s : State) : Host.Outcome State Fault Refusal :=
  .next (if s.pkg.spareHbm.contains (stack, channel) ∨ 2 ≤ (s.pkg.spareHbm.filter (fun x => x.1 == stack)).length then s
    else s.updPkg (fun p => { p with spareHbm := p.spareHbm ++ [(stack, channel)] }))

end Sys2Proof.Machine
end

