-- ==== Sys2Proof/Machine/Bar0.lean ====
section
/-! DEFINITION. The control registers of BAR0: what a host write does and what a host read returns (spec/12 R332-R338, R345, R347, spec/13 R351-R352, R372). -/

namespace Sys2Proof.Machine

/-- A register with the bits of a mask replaced, from bit lo on. -/
def maskField {n : Nat} (r : BitVec n) (lo : Nat) (mask val : DWord) : BitVec n :=
  setBits r lo 64 ((BitVec.ofNat 64 (bitsOf r lo 64) &&& ~~~mask) ||| (val &&& mask)).toNat

/-- A pool register is written (R332). -/
def poolOk (s : State) (v : DWord) : Bool :=
  bitsOf v 40 24 == 0 && decide (bitsOf v 16 24 * 0x10000 + bitsOf v 0 16 * 0x10000 ≤ Config.hbmBytes) && !teamsPresent s

/-- FABCFG takes a value (R351). -/
def fabcfgOk (s : State) (v : DWord) : Bool :=
  !teamsPresent s && bitsOf v 16 16 == 0 && bitsOf v 48 16 == 0 && decide (bitsOf v 32 16 ≤ 4096) &&
    (bitsOf v 32 16 == 0 || decide (bitsOf v 0 16 < bitsOf v 32 16))

/-- A word of JOBSLOT j (R333). -/
def writeJobWord (j i : Nat) (v : DWord) (s : State) : State :=
  if i ≠ 0 then setJobReg s j (setBits (jobReg s j) (64 * i) 64 v.toNat)
  else if bitOf v 63 then validateJob j v s
  else invalidateJob j (setJobReg s j (setBits (jobReg s j) 0 64 v.toNat))

/-- A word of CMDQ q (R335). The notify of a plain write carries no relaxed-ordering attribute. -/
def writeCmdWord (q i : Nat) (v : DWord) (s : State) : State :=
  let x := cmdQueue s q
  let off := cqState x.reg == 0
  let conf (lo : Nat) (mask : DWord) : State := if off then setCmdQueue s { x with reg := maskField x.reg lo mask v } else s
  match i with
  | 0 => conf 0 0x000000FFFFFFFF00
  | 1 => conf 64 0xFFFF00F7
  | 3 => notifyQueue q (bitsOf v 0 16) false s
  | 4 =>
    let s := conf 256 0xFF00
    (match bitsOf v 0 2 with
     | 0 => stopQueue q s
     | 1 => if off then startQueue q s else resumeQueue q s
     | _ => s)
  | _ => s

/-- A word of EGRING e (R338). -/
def writeRingWord (e i : Nat) (v : DWord) (s : State) : State :=
  let r := egRing s e
  let conf (lo : Nat) (mask : DWord) : State := if egValid r then s else setEgRing s e (maskField r lo mask v)
  match i with
  | 0 => conf 0 0x000000FFFFFFFFC0
  | 1 => if egValid r then (if bitOf v 0 then s else closeRing e s)
         else let s := conf 64 0xFFFF03FFFFFF0000; if bitOf v 0 then openRing e s else s
  | 2 => conf 128 0x01FFFFFFFFFFFFFF
  | 4 => writeHcur e v s
  | 5 => setEgRing s e (maskField r 320 0x0000FFFF1FFFFFFF v)
  | _ => s

/-- VALID of a UE window (R372). -/
def openUe (w : Nat) (s : State) : State := setUeWin s w (setBits (ueWin s w) 63 1 1)
def closeUe (w : Nat) (s : State) : State := setUeWin s w (setBits (ueWin s w) 63 1 0)

def execUewinOpen (w : Nat) (s : State) : Host.Outcome State Fault Refusal := hostEvent s (openUe w)
def execUewinClose (w : Nat) (s : State) : Host.Outcome State Fault Refusal := hostEvent s (closeUe w)
def execCgroupWrite (index : Nat) (val : BitVec 64) (s : State) : Host.Outcome State Fault Refusal := hostEvent s (fun s => cgroupSet s index val)

/-- A word of UEWIN w (R372): fields other than VALID only while VALID is 0. -/
def writeUeWord (w i : Nat) (v : DWord) (s : State) : State :=
  let r := ueWin s w
  let conf (lo : Nat) (mask : DWord) : State := if ueValid r then s else setUeWin s w (maskField r lo mask v)
  match i with
  | 0 => let s := conf 0 0x6000FFFFFFFFFFFF; if bitOf v 63 then openUe w s else closeUe w s
  | 1 => conf 64 0xFFFFFFFF00000000
  | 2 => conf 128 0x01FFFFFFFFFFF000
  | 3 => conf 192 0xFFFFFFFFFFFFFFFF
  | _ => s

/-- A register of the package block. -/
def writeLow (off : Nat) (v : DWord) (s : State) : State :=
  match off with
  | 0x10 => requestPower v s
  | 0x18 => if 1800 ≤ v.toNat ∧ v.toNat ≤ 3600 then s.updPkg (fun p => { p with pwrLimit := v.toNat }) else s
  | 0x20 => if v.toNat < 2 ^ 32 then s.updPkg (fun p => { p with fsBound := v.toNat }) else s
  | 0x28 => if poolOk s v then s.updPkg (fun p => { p with spillPool := v }) else s
  | 0x30 => if poolOk s v then s.updPkg (fun p => { p with framePool := v }) else s
  | 0x38 =>
    if bitsOf v 0 16 = 1 ∧ bitsOf v 32 32 = 0 then dropTlb s (fun e => e.job == bitsOf v 16 16)
    else if v = 2 then dropTlb s (fun _ => true) else s
  | _ => s

/-- A register of the fabric block (R351). -/
def writeFabric (off : Nat) (v : DWord) (s : State) : State :=
  match off with
  | 0x60000 => if fabcfgOk s v then s.updFab (fun b => { b with fabcfg := v }) else s
  | 0x60008 => s.updFab (fun b => { b with cstep := v })
  | 0x60010 => s.updFab (fun b => { b with agree := v })
  | 0x60018 => s.updFab (fun b => { b with rtime := v })
  | 0x60020 => if teamsPresent s then s else s.updFab (fun b => { b with uetab := v &&& 0x01FFFFFFFFFFFFFF })
  | _ =>
    if 0x60200 ≤ off ∧ off < 0x60400 then cgroupSet s ((off - 0x60200) / 8) v
    else if 0x61000 ≤ off ∧ off < 0x61000 + 64 * 96 ∧ off % 64 = 0 then
      s.updPort ((off - 0x61000) / 64) (fun p => { p with reg := setBits p.reg 18 1 (bitsOf v 18 1) })
    else if 0x64000 ≤ off ∧ off < 0x68000 then writeUeWord ((off - 0x64000) / 64) (off % 64 / 8) v s
    else s

/-- A register of the debug block (R345). In Retain debug access is refused (R344): no register of the block takes a value. -/
def writeDebug (off : Nat) (v : DWord) (s : State) : State :=
  if !debugReached s then s
  else if off = 0x70000 then (match v.toNat with | 0 => requestOff s | 1 => requestObserve s | 2 => requestHalt s | _ => s)
  else if 0x70040 ≤ off ∧ off < 0x70100 then s.updPkg (fun p => { p with dbgToken := setBits p.dbgToken (8 * (off - 0x70040)) 64 v.toNat })
  else if off = 0x70200 then haltJob (v.toNat % 65536) s
  else if off = 0x70208 then resumeHeld (v.toNat % 65536) s
  else s

/-- A host write of 8 bytes to BAR0 (R332): offsets no register occupies ignore it. -/
def writeBar0 (off : Nat) (v : DWord) (s : State) : State :=
  if off % 8 ≠ 0 then s
  else if off < 0x1000 then writeLow off v s
  else if off < 0x5000 then writeJobWord ((off - 0x1000) / 64) (off % 64 / 8) v s
  else if 0x10000 ≤ off ∧ off < 0x11000 then writeCmdWord ((off - 0x10000) / 64) (off % 64 / 8) v s
  else if 0x20000 ≤ off ∧ off < 0x24000 then writeRingWord ((off - 0x20000) / 64) (off % 64 / 8) v s
  else if 0x3FF00 ≤ off ∧ off < 0x3FF80 then s.updPkg (fun p => { p with keyStage := setBits p.keyStage (8 * (off - 0x3FF00)) 64 v.toNat })
  else if 0x3FFC0 ≤ off ∧ off < 0x40000 then s.updPkg (fun p => { p with keyHost := setBits p.keyHost (8 * (off - 0x3FFC0)) 64 v.toNat })
  else if 0x40040 ≤ off ∧ off < 0x60000 ∧ off % 64 = 0 then
    (if v = 1 then installKey ((off - 0x40000) / 64) s else if v = 0 then emptyKey ((off - 0x40000) / 64) s else s)
  else if 0x60000 ≤ off ∧ off < 0x68000 then writeFabric off v s
  else if 0x70000 ≤ off ∧ off < 0x70300 then writeDebug off v s
  else s

/-- BAR0_REGISTER_WRITE (R332). -/
def execBar0RegisterWrite (off : Nat) (val : BitVec 64) (s : State) : Host.Outcome State Fault Refusal := hostEvent s (writeBar0 off val)

/-! ## What a host read returns -/

/-- Word i of a register. -/
def wordOf {n : Nat} (r : BitVec n) (i : Nat) : DWord := BitVec.ofNat 64 (bitsOf r (64 * i) 64)

/-- Ready or failed Runnel engines of cores lo upward, bit 4 (c - lo) + e (R347). -/
def runnelBits (s : State) (lo n : Nat) (p : Runnel → Bool) : DWord :=
  (List.range n).foldl (fun acc i => ((List.range 4).zip (s.core (lo + i)).runnels).foldl (fun acc x =>
    if p x.2 then acc ||| BitVec.ofNat 64 (2 ^ (4 * i + x.1)) else acc) acc) 0

/-- PWRSTATE as it reads. -/
def powerCode : PowerState → Nat
  | .run => 0
  | .idle => 1
  | .retain => 2
  | .off => 3

/-- CORESTAT and SECTSTAT (R347): zero in debug Off, and until Run in Retain (R344). -/
def readStat (s : State) (off : Nat) : DWord :=
  if s.pkg.debug = .off ∨ !clockRuns s then 0
  else if off < 0x72000 then
    let c := s.core ((off - 0x71000) / 64)
    if off ≥ 0x71000 + 64 * 24 then 0
    else match off % 64 with
      | 0 => c.dcplCyc.setWidth 64
      | 8 => c.dcplEvt.setWidth 64
      | 16 => c.cerr.setWidth 64
      | _ => 0
  else
    let n := (off - 0x72000) / 64
    if n ≥ 3 then 0
    else match off % 64 with
      | 0 => (s.die.l2cerr.getD n 0).setWidth 64
      | 8 => BitVec.ofNat 64 (((List.range 24).map (fun i => (cellsGet s.die.l2retired (24 * n + i)).getD 0)).foldl (· + ·) 0)
      | 16 => (List.range 24).foldl (fun acc i => if s.die.l2degraded.contains (24 * n + i) then acc ||| BitVec.ofNat 64 (2 ^ i) else acc) 0
      | _ => 0

/-- A host read of 8 bytes of BAR0: write-only registers and empty offsets read zero. A debug register that refuses access in Retain (R344) reads zero too (DESIGN CHOICE, notes/assumptions/49.md). -/
def readBar0 (s : State) (off : Nat) : DWord :=
  if off % 8 ≠ 0 then 0
  else if off < 0x1000 then
    (match off with
     | 0x00 => s.pkg.ready
     | 0x08 => BitVec.ofNat 64 (lifecycleCode s.pkg.lifecycle)
     | 0x10 => BitVec.ofNat 64 (powerCode s.pkg.power)
     | 0x18 => BitVec.ofNat 64 s.pkg.pwrLimit
     | 0x20 => BitVec.ofNat 64 s.pkg.fsBound
     | 0x28 => s.pkg.spillPool
     | 0x30 => s.pkg.framePool
     | 0x40 => s.pkg.failed
     | 0x48 => runnelBits s 0 16 (·.ready)
     | 0x50 => runnelBits s 16 8 (·.ready)
     | 0x58 => runnelBits s 0 16 (·.failed)
     | 0x60 => runnelBits s 16 8 (·.failed)
     | 0x68 => BitVec.ofNat 64 s.pkg.keyStat
     | _ => 0)
  else if off < 0x5000 then wordOf (jobReg s ((off - 0x1000) / 64)) (off % 64 / 8)
  else if 0x10000 ≤ off ∧ off < 0x11000 then wordOf (cmdQueue s ((off - 0x10000) / 64)).reg (off % 64 / 8)
  else if 0x20000 ≤ off ∧ off < 0x24000 then wordOf (egRing s ((off - 0x20000) / 64)) (off % 64 / 8)
  else if 0x3FF80 ≤ off ∧ off < 0x3FFC0 then wordOf (Config.ephemeralPub s.pkg.keyEph) ((off - 0x3FF80) / 8)
  else if off = 0x60000 then s.fab.fabcfg
  else if off = 0x60008 then s.fab.cstep
  else if off = 0x60010 then s.fab.agree
  else if off = 0x60018 then s.fab.rtime
  else if off = 0x60020 then s.fab.uetab
  else if 0x60200 ≤ off ∧ off < 0x60400 then wordOf s.fab.cgroup ((off - 0x60200) / 8)
  else if 0x61000 ≤ off ∧ off < 0x61000 + 64 * 96 ∧ off % 64 = 0 then ((s.port? ((off - 0x61000) / 64)).map (·.reg)).getD 0
  else if 0x64000 ≤ off ∧ off < 0x68000 then wordOf (ueWin s ((off - 0x64000) / 64)) (off % 64 / 8)
  else if 0x70000 ≤ off ∧ off < 0x71000 ∧ !debugReached s then 0
  else if off = 0x70008 then BitVec.ofNat 64 (debugCode s.pkg.debug + s.pkg.dbgResult * 256)
  else if off = 0x70010 then BitVec.ofNat 64 (s.teams.filter (fun t => t.trap.held)).length
  else if 0x70020 ≤ off ∧ off < 0x70040 then wordOf s.pkg.dbgNonce ((off - 0x70020) / 8)
  else if 0x71000 ≤ off ∧ off < 0x72600 then readStat s off
  else 0

end Sys2Proof.Machine
end

