-- ==== Sys2Proof/Machine/Cbar.lean ====
section
/-! DEFINITION. CBAR, the swap of exchange banks, and the landing of exchange stores (spec/08 R239-R242, spec/09 R267, spec/07 R219). -/

namespace Sys2Proof.Machine

/-- The teams of a gang launch. -/
def launchTeams (s : State) (launch : Nat) : List Team := s.teams.filter (fun t => t.ident.launch == launch)

/-- The CBAR of a launch replaced. -/
def setCbar (s : State) (launch : Nat) (b : Cbar) : State :=
  s.updDie (fun d => { d with cbars := (launch, b) :: d.cbars.filter (fun x => x.1 != launch) })

/-- A warp of an instance has arrived. -/
def CbarInstance.has (i : CbarInstance) (team warp : Nat) : Bool := i.arrived.any (fun a => a.team == team && a.warp == warp)

/-- A warp's arrival: counted in the oldest pending instance that has not counted it, else in a new one. -/
def Cbar.arrive (b : Cbar) (a : CbarArrival) : Cbar × Nat :=
  match b.pending.find? (fun i => !i.has a.team a.warp) with
  | some i => ({ b with pending := b.pending.map (fun x => if x.num = i.num then { x with arrived := x.arrived ++ [a] } else x) }, i.num)
  | none => ({ next := b.next + 1, pending := b.pending ++ [{ num := b.next, arrived := [a] }] }, b.next)

/-- CBAR (R267): the arrival, once; then the split waits for the swap. -/
def execCbar (g : BitVec 4) (s : State) : Host.Outcome State Fault Refusal :=
  issue s .both (fun c => orIllop (!c.inHandler) (
    if c.act g = 0 then .done c
    else
      let launch := c.t.ident.launch
      let b := launchCbar c.s launch
      match c.p.arrival with
      | some (.cbar n) => if b.pending.any (fun i => i.num == n) then .block c 7
          else .done { c with t := c.t.observes (.cbar n) c.wi (c.act g) }
      | _ =>
        let (b, n) := b.arrive { team := c.t.id, warp := c.wi, lanes := c.p.mask, mark := c.s.nextId }
        .block { c with s := setCbar c.s launch b, t := c.t.addSignals (.cbar n) c.wi c.p.mask
                        p := { c.p with arrival := some (.cbar n) } } 7))

/-- A killed team that is to be relaunched (spec/05 R170): it has not finished. -/
def awaitsRelaunch (s : State) (t : Team) : Bool :=
  t.status == .killed && (match s.task? t.ident.task with | some k => k.relaunch.contains t.ident.linear | none => false)

/-- Every warp that has not finished, in every team that has not finished, has arrived (R241). -/
def cbarComplete (s : State) (launch : Nat) (i : CbarInstance) : Bool :=
  (launchTeams s launch).all (fun t => !awaitsRelaunch s t &&
    ((List.range t.warps.length).zip t.warps).all (fun x => x.2.done || i.has t.id x.1))

/-- The accesses before the arrivals have completed: exchange stores have landed, the stores of their cores are performed, nothing is left to be read or to be done by a peer (R215, R219). -/
def cbarLanded (s : State) (i : CbarInstance) : Bool :=
  i.arrived.all (fun a =>
    s.die.exStores.all (fun x => !(x.team == a.team && x.warp == a.warp && inMask a.lanes x.lane && decide (x.op < a.mark))) &&
    (match s.team? a.team with
     | some t => lanesDone s t a.warp a.lanes a.mark && !teamRereading t && (s.core t.core).stores.all (fun x => decide (a.mark ≤ x.op))
     | none => true))

/-- The banks of a team swap, and XPASS is set (R239, R242). -/
def Team.swapBanks (t : Team) : Team :=
  if t.scr.exch = 0 then t else { t with scr := { t.scr with secondLive := !t.scr.secondLive, xpass := true } }

/-- CBAR_SWAP (R241): the oldest instance of the team's launch completes and the banks of every member swap in one step. -/
def execCbarSwap (id : Nat) (s : State) : Host.Outcome State Fault Refusal := whenClocked s <|
  match s.team? id with
  | none => .next s
  | some t =>
    let launch := t.ident.launch
    let b := launchCbar s launch
    match b.pending with
    | [] => .next s
    | i :: rest =>
      if (launchTeams s launch).all (fun x => x.status == .resident || x.status == .halted || x.status == .finished || x.status == .killed) &&
          cbarComplete s launch i && cbarLanded s i then
        let s := setCbar s launch { b with pending := rest }
        .next { s with teams := s.teams.map (fun x => if x.ident.launch = launch then x.swapBanks else x) }
      else .next s

/-- An older exchange store is on its way to one of the bytes of this one. -/
def exBehind (s : State) (x : ExStore) : Bool :=
  s.die.exStores.any (fun y => decide (y.op < x.op) && y.target == x.target &&
    decide (y.off < x.off + x.bytes.length ∧ x.off < y.off + y.bytes.length))

/-- EXCHANGE_STORE_LAND (R219): the bytes land in the bank that is the receiver's shadow now. -/
def execExchangeStoreLand (op : Nat) (s : State) : Host.Outcome State Fault Refusal := whenClocked s <|
  match s.die.exStores.find? (fun x => x.op == op) with
  | none => .next s
  | some x =>
    if exBehind s x then .next s
    else
      let s := s.updTeam x.target (fun t => { t with scr := { t.scr with bytes := t.scr.bytes.write (shadowOffset t.scr x.off) x.bytes } })
      let s := s.updDie (fun d => { d with exStores := d.exStores.filter (fun y => y.op != op) })
      .next (opEnded (s.unbind x.team x.warp x.flag) x.team)

end Sys2Proof.Machine
end

