-- ==== Sys2Proof/Machine/Task.lean ====
section
/-! DEFINITION. Task instructions, opcodes 0xC6 to 0xC9: SPAWN, TSIG, TWAIT, PREEMPT (spec/10 R292-R295). -/

namespace Sys2Proof.Machine

/-- A uniform GLOBAL range checked in the order of R292 and R293: alignment, aperture, translation. -/
def uniformRange (c : Ctx) (va align n : Nat) (need : Need) (k : List Place → List TlbEntry → Res) : Res :=
  if va % align ≠ 0 then .trap (trapAddr causeALIGN va 0)
  else if va + n > globalTop then .trap (trapAddr causePROT va 0)
  else match globalPlaces c.s c.agent va n need with
    | .fault cause => .trap (trapAddr cause va 0)
    | .miss ps => .switchOut ps
    | .ok ps es =>
      if need ≠ .w ∧ elemPoisoned c.s c.t.core ps then .trap (trapAddr causeECCU va 0)
      else if need ≠ .w ∧ elemL2Poisoned c.s ps then .raw (killTeam c.s c.t.id)
      else if overtakesAny c ((lanesOf c.p.mask).map (fun L => (L, ps))) then .stall
      else k ps es

/-- SPAWN (R292). -/
def execSpawn (g : BitVec 4) (a : BitVec 7) (s : State) : Host.Outcome State Fault Refusal :=
  issue s .both (fun c =>
    orIllopnd (isSPair a) (
      let va := (c.w.s64 (sNum a)).toNat
      if c.act g = 0 then .done c
      else if c.t.ident.depth ≥ 4 then .trap (trapAddr causeSPAWNDEPTH va 0)
      else uniformRange c va 128 128 .r (fun ps es =>
        if recordsHeld c.s ≥ Config.maxRecords then .stall
        else afterRelease c (c.act g) 3 (
          let r := BitVec.ofNat 1024 (readElem c.s c.t ps)
          let c := (c.noteTlb es).releases (c.act g)
          .done { c with s := publish c.s false va r c.t.ident.job (c.t.ident.depth + 1) (min (recPrio r) c.t.ident.prio) }))))

/-- TSIG (R293): one read-modify-write at the home slice. -/
def execTsig (f : FmtAB) (s : State) : Host.Outcome State Fault Refusal :=
  issue s .both (fun c =>
    let b := op32 .int f.b
    orIllopnd (isSPair f.a && b.ok c) (
      let act := c.act f.g
      let va := (c.w.s64 (sNum f.a)).toNat
      if act = 0 then .done c
      else uniformRange c va 8 8 .rw (fun ps es =>
        match readOps c act [b] with
        | .stop r => r
        | .got c' vs => afterRelease c act 3 (
            let v := sluiceSignal (BitVec.ofNat 64 (readElem c.s c.t ps)) (bitsOf (val vs 0 (lane0 act)) 0 32)
            .done (((c'.noteTlb es).putNow 0 (placeBytes ps v.toNat)).releases act)))))

/-- TWAIT (R294): BLK 10 until a read of the sluice finds FULL as wanted; the word that satisfied the wait goes to D. A wait for full acquires; one for empty orders nothing. -/
def twait (s : State) (f : FmtU) (full : Bool) : Host.Outcome State Fault Refusal :=
  issue s .both (fun c =>
    orIllopnd (isSPair f.a && pairOk c f.d.toNat) (
      let act := c.act f.g
      let va := (c.w.s64 (sNum f.a)).toNat
      if act = 0 then .done c
      else uniformRange c va 8 8 .r (fun ps es =>
        let v := BitVec.ofNat 64 (readElem c.s c.t ps)
        let got (c : Ctx) : Res := .done ((c.noteTlb es).setD f.d.toNat true act (fun _ => v))
        if sluiceFull v != full then .block c 10
        else if full then afterReads c act (got (c.acquires act)) else got c)))

def execTwaitFull (f : FmtU) (s : State) := twait s f true
def execTwaitEmpty (f : FmtU) (s : State) := twait s f false

/-- PREEMPT (R295): the index is checked whatever the guard; with a save pending and every lane left in the split it is the warp's point. -/
def execPreempt (g : BitVec 4) (i : BitVec 20) (s : State) : Host.Outcome State Fault Refusal :=
  issue s .both (fun c =>
    orIllopnd (decide (i.toNat < c.t.ident.kern.nlive)) (
      if c.act g = 0 ∨ c.t.save.request.isNone ∨ c.p.mask ≠ ~~~c.w.exited then .done c
      else .done { c with w := { c.w with atPoint := some i.toNat } }))

end Sys2Proof.Machine
end

