-- ==== Sys2Proof/Machine/Collective.lean ====
section
/-! DEFINITION. Instructions of the collective engine: COLL, CWAIT, VIEWQ, VIEWCTL (spec/13 R384-R389). -/

namespace Sys2Proof.Machine

/-- The outcome of a 64-byte or longer uniform range checked as COLL does (R384): ALIGN, PROT, then translation. -/
def collRange (c : Ctx) (va n : Nat) (k : List Place → List TlbEntry → Res) : Res := uniformRange c va 64 n .r k

/-- The slot of a team. -/
def slotOf (t : Team) (i : Nat) : CollSlot := t.colls.getD i .free
/-- The team with a slot set. -/
def Ctx.setSlot (c : Ctx) (i : Nat) (v : CollSlot) : Ctx := { c with t := { c.t with colls := updAt c.t.colls i (fun _ => v) } }

/-- A descriptor that COLL takes (R381): on an installed group a broadcast's ROOT lies in the view. -/
def descOk (s : State) (d : CDesc) : Bool :=
  cdOk d globalTop && (match s.group? (cdGroup d) with
    | some g => if g.active ∧ cdOp d = 3 then bitOf g.bitmap (cdRoot d) else true
    | none => true)

/-- A collective handed to Confluence: started, settled by the last commit's decisions, or waiting for the next view (R379, R380, R384). -/
def passColl (s : State) (g : Group) (c : Coll) : State :=
  let s := s.updFab (fun b => { b with colls := b.colls ++ [c] })
  let s := s.updGroup g.num (fun x => { x with seq := x.seq + 1 })
  if g.settled.any (fun d => d.seq == c.seq) then rehold (settleColl s g g.settled c) g.num
  else if g.st = .stable then startColl s c.id 0 else s

/-- COLL (R384). -/
def execColl (f : FmtAB) (s : State) : Host.Outcome State Fault Refusal :=
  issue s .accessOnly (fun c =>
    let act := c.act f.g
    let b := op32 .int f.b
    orIllopnd (isSPair f.a && b.ok c) (
      if act = 0 then .done c
      else match readOps c act [b] with
        | .stop r => r
        | .got c' vs =>
          let slot := bitsOf (val vs 0 (lane0 act)) 0 32
          let va := (c.w.s64 (sNum f.a)).toNat
          orIllopnd (decide (slot ≤ 7) && slotOf c.t slot == .free) (
            collRange c va 64 (fun ps es =>
              if c.s.fab.colls.length ≥ 256 then .stall
              else afterRelease c act 4 (
                let d : CDesc := BitVec.ofNat 512 (readElem c.s c.t ps)
                orIllopnd (descOk c.s d) (
                  let c := (c'.noteTlb es).releases act
                  match c.s.group? (cdGroup d) with
                  | none => .done (c.setSlot slot (.aborted (cdGroup d)))
                  | some g =>
                    if !g.active then .done (c.setSlot slot (.aborted (cdGroup d)))
                    else
                      let (id, s) := c.s.fresh
                      let flag := flagOf c.p.setA
                      let x : Coll :=
                        { id := id, team := c.t.id, slot := slot, flag := flag.map (fun n => (c.wi, n)), job := c.t.ident.job, desc := d
                          seq := g.seq, digest := cdDigest d, started := false, inputs := [], digests := [], faults := [], ownFault := 0
                          since := s.clock, result := none, status := 0, view := g.view, members := g.bitmap, holder := none, wait := [] }
                      -- the engine may end the collective at once, which sets the slot and the flag: the context goes first
                      let c := ({ c with s := s, w := c.w.bind flag } : Ctx).setSlot slot (.running id)
                      .gone (passColl c.advance.commit g x)))))))

/-- CWAIT (R385, R386). VIEWCHG reports the lowest active lane (DESIGN CHOICE, notes/assumptions/48.md). -/
def execCwait (f : FmtU) (s : State) : Host.Outcome State Fault Refusal :=
  issue s .accessOnly (fun c =>
    let act := c.act f.g
    let a := op32 .int f.a
    orIllopnd (pairOk c f.d.toNat && a.ok c) (
      if act = 0 then .done c
      else match readOps c act [a] with
        | .stop r => r
        | .got c' vs =>
          let slot := bitsOf (val vs 0 (lane0 act)) 0 32
          orIllopnd (decide (slot ≤ 7)) (
            match slotOf c.t slot with
            | .free => .trapC causeILLOPND
            | .running _ => .block c 6
            | .done v => afterReads c act <| .done (((c'.setSlot slot .free).acquires act).setD f.d.toNat true act (fun _ => v))
            | .aborted g => contTrap (c'.setSlot slot .free) { cause := causeVIEWCHG, lo := BitVec.ofNat 32 g, hi := viewHeld c.s g, lane := lane0 act })))

/-- GSTATE of VIEWQ (R387). -/
def groupCode : GroupState → Nat
  | .uninstalled => 0
  | .stable => 1
  | .agreeing => 2
  | .excluded => 3
  | .joining => 4

/-- A 32-bit piece of a bitmap: ranks 1,024 k + 32 L upward. -/
def bitmapWord (b : BitVec 4096) (k L : Nat) : Word := BitVec.ofNat 32 (bitsOf b (1024 * k + 32 * L) 32)

/-- The place of the device in a view; all ones when it is in none. -/
def viewPos (s : State) (g : Group) : Word :=
  if g.st = .excluded then 0xFFFFFFFF
  else match (membersOf g.bitmap).findIdx? (· == ownRank s) with
    | some i => BitVec.ofNat 32 i
    | none => 0xFFFFFFFF

/-- The words of the remote fault record (R387 selector 6). -/
def faultWord (r : Option FaultRecord) (L : Nat) : Word :=
  match r with
  | none => 0
  | some x => match L with
    | 0 => BitVec.ofNat 32 (x.cause.toNat + x.lane * 256 + x.opc.toNat * 65536)
    | 1 => x.rank.setWidth 32
    | 2 => loWord x.addr
    | 3 => BitVec.ofNat 32 (bitsOf x.addr 32 25)
    | 4 => BitVec.ofNat 32 x.count
    | _ => 0

/-- VIEWQ's value in a lane. -/
def viewqValue (c : Ctx) (grp sel L : Nat) : Word :=
  let k := sel / 16 % 4
  let ofGroup (f : Group → Word) : Word := match c.s.group? (grp % 64) with
    | some g => if g.st = .uninstalled then 0 else f g
    | none => 0
  match sel % 16 with
  | 0 => ofGroup (fun g => g.view)
  | 1 => ofGroup (fun g => BitVec.ofNat 32 (countOf g.bitmap))
  | 2 => ofGroup (viewPos c.s)
  | 3 => ofGroup (fun g => BitVec.ofNat 32 (groupCode g.st))
  | 4 => ofGroup (fun g => bitmapWord g.bitmap k L)
  | 5 => bitmapWord c.w.mcast.bits k L
  | 6 => faultWord c.w.rfault L
  | _ => BitVec.ofNat 32 c.w.mcast.fails

/-- VIEWQ (R387): sel above 7 raises ILLOP; selector 6 empties the record. -/
def execViewq (f : FmtA) (s : State) : Host.Outcome State Fault Refusal :=
  issue s .accessOnly (fun c =>
    let act := c.act f.g
    let a := op32 .int f.a
    let b := op32 .int f.b
    orIllopnd (regOk c f.d.toNat && a.ok c && b.ok c) (
      if act = 0 then .done c
      else match readOps c act [a, b] with
        | .stop r => r
        | .got c' vs =>
          let grp := (val vs 0 (lane0 act)).toNat
          let sel := (val vs 1 (lane0 act)).toNat
          orIllop (decide (sel % 16 ≤ 7)) (
            let w := c'.w.setV f.d.toNat act (viewqValue c' grp sel)
            .done { c' with w := if sel % 16 = 6 then { w with rfault := none } else w })))

/-! ## VIEWCTL (R389) -/

/-- The form of VIEWCTL: handler privilege, D, and the group from the lowest active lane. -/
def viewctl (s : State) (g : BitVec 4) (d : BitVec 6) (a : BitVec 7) (body : Ctx → Ctx → Nat → Res) : Host.Outcome State Fault Refusal :=
  issue s .accessOnly (fun c =>
    let act := c.act g
    let o := op32 .int a
    if !c.inHandler then .trapC causePRIV
    else orIllopnd (regOk c d.toNat && o.ok c) (
      if act = 0 then .done c
      else match readOps c act [o] with
        | .stop r => r
        | .got c' vs => body c c' (bitsOf (val vs 0 (lane0 act)) 0 6)))

/-- D takes a number in every active lane. -/
def Ctx.answer (c : Ctx) (g : BitVec 4) (d : BitVec 6) (n : Nat) : Ctx :=
  { c with w := c.w.setV d.toNat (c.act g) (fun _ => BitVec.ofNat 32 n) }

/-- A join or leave request to some ranks, ascending (R380). -/
def sendJoin (s : State) (x : Group) (dests : List Nat) (leave : Bool) : State :=
  dests.foldl (fun s r => sendView s x msgJoin r { viewMsg s x [ownRank s] with leave := leave }) s

/-- A group of which nothing is known yet: its installation by VIEWCTL.init is under way under a digest and a number (R389), or, without a digest, the device has asked to join it (R380). -/
def Group.pending (num job : Nat) (b : BitVec 4096) (digest : Option (BitVec 32)) (id now : Nat) : Group :=
  { num := num, job := job, view := 0, bitmap := b, st := .uninstalled, seq := 0, suspects := [], attempt := 0, proposal := none
    accepts := [], seen := [], since := now, joiner := none, asks := [], held := [], settled := [], oldView := 0, oldBitmap := 0
    initDigest := digest, initId := id, results := [] }

/-- The other ranks a device without a last view can ask: the connected group (DESIGN CHOICE, notes/assumptions/35.md). -/
def askable (s : State) : List Nat := (otherMembers s s.fab.cgroup).filter (fun r => decide (r < domainOf s))

/-- VIEWCTL.join (R380, R389). -/
def execViewctlJoin (f : FmtU) (s : State) : Host.Outcome State Fault Refusal :=
  viewctl s f.g f.d f.a (fun _ c gn =>
    match c.s.group? gn with
    | some x =>
      if x.st = .stable ∧ bitOf x.bitmap (ownRank c.s) then .done (c.answer f.g f.d 1)
      else
        let dests := if x.st = .uninstalled then askable c.s else otherMembers c.s x.bitmap
        .done (({ c with s := sendJoin c.s x dests false } : Ctx).answer f.g f.d 0)
    | none =>
      let x := Group.pending gn c.t.ident.job 0 none 0 c.s.clock
      let s := c.s.updFab (fun b => { b with groups := b.groups ++ [x] })
      .done (({ c with s := sendJoin s x (askable s) false } : Ctx).answer f.g f.d 0))

/-- A leaving device holds its later collectives like every member that learns of it (R380). -/
def execViewctlLeave (f : FmtU) (s : State) : Host.Outcome State Fault Refusal :=
  viewctl s f.g f.d f.a (fun _ c gn =>
    match c.s.group? gn with
    | some x =>
      if !x.active ∨ !bitOf x.bitmap (ownRank c.s) then .done (c.answer f.g f.d 1)
      else
        let s := c.s.updGroup gn (fun x => x.ask (ownRank c.s, true))
        .done (({ c with s := sendJoin s x (otherMembers s x.bitmap) true } : Ctx).answer f.g f.d 0)
    | none => .done (c.answer f.g f.d 1))

/-- VIEWCTL.init (R389): the first execution announces the bitmap; the split waits until the group is installed or its attempt has failed. Another split's execution joins the attempt when its bitmap has the same CRC, and otherwise ends it. -/
def execViewctlInit (g : BitVec 4) (d : BitVec 6) (a : BitVec 7) (b : BitVec 4) (s : State) : Host.Outcome State Fault Refusal :=
  viewctl s g d a (fun c0 c gn =>
    let wait (c0 : Ctx) (s : State) (id : Nat) : Res := .block { c0 with s := s, p := { c0.p with arrival := some (.init gn id) } } 6
    let announce (s : State) (job : Nat) (digest : BitVec 32) : State :=
      (match s.group? gn with | some x => otherMembers s x.bitmap | none => []).foldl (fun s r => send s 36 (.initReady (controlHead s r job 6 gn 0) digest)) s
    match c0.p.arrival with
    | some (.init n id) =>
      (match c0.s.group? n with
       | some x => if x.initId ≠ id then .done (c.answer g d 2) else if x.st = .uninstalled then .block c0 6 else .done (c.answer g d 0)
       | none => .done (c.answer g d 2))
    | _ =>
      let va := (c0.w.s64 (2 * b.toNat)).toNat
      collRange c0 va 512 (fun ps es =>
        let bm : BitVec 4096 := BitVec.ofNat 4096 (readElem c0.s c0.t ps)
        let c := c.noteTlb es
        let digest := crc32c (leBytes 512 bm.toNat)
        let (id, fresh) := c0.s.fresh
        let start (s : State) : Res :=
          let s := s.updFab (fun f => { f with groups := f.groups ++ [Group.pending gn c0.t.ident.job bm (some digest) id s.clock] })
          wait c0 (announce s c0.t.ident.job digest) id
        if !bitOf bm (ownRank c0.s) then .done (c.answer g d 3)
        else match c0.s.group? gn with
          | none => start fresh
          | some x =>
            if x.st ≠ .uninstalled then .done (c.answer g d 4)
            else match x.initDigest with
              | none => start (dropGroup fresh gn)
              | some e =>
                if e = digest then wait c0 c0.s x.initId
                else .done (({ c with s := dropGroup (announce c0.s c0.t.ident.job digest) gn } : Ctx).answer g d 2)))

end Sys2Proof.Machine
end

