-- ==== Sys2Proof/Machine/Compare.lean ====
section
/-! DEFINITION. Compares, predicates and cross-lane instructions, opcodes 0x40 to 0x4E (spec/04 R114-R121). -/

namespace Sys2Proof.Machine

/-- A compare (R114): the first source is v register src, a pair when wide; the second an operand. -/
def compareForm (s : State) (roles : Roles) (f : FmtCmp) (wide : Bool) (cls : OpClass) (condOk : Bool)
    (rel : DWord → DWord → Bool) : Host.Outcome State Fault Refusal :=
  issue s roles (fun c =>
    let o : Opnd := { spec := f.a, wide := wide, cls := cls }
    orIllop condOk (orIllopnd (destOk c f.src.toNat wide && o.ok c) (
      match readOps c (c.act f.g) [o] with
      | .stop r => r
      | .got c' vs => .done { c' with w := c'.w.setP f.pd.toNat (c.act f.g) (fun L =>
          rel (if wide then c.w.v64 f.src.toNat L else (c.w.v f.src.toNat L).setWidth 64) (val vs 0 L)) })))

/-- An integer compare: conditions 6 and 7 are reserved. -/
def intCompare (s : State) (f : FmtCmp) (wide : Bool) (num : DWord → Int) : Host.Outcome State Fault Refusal :=
  compareForm s .both f wide .int (decide (f.cond.toNat < 6)) (fun a b => condInt f.cond.toNat (num a) (num b))

def execIcmpI32 (f : FmtCmp) (s : State) := intCompare s f false (fun a => (loWord a).toInt)
def execIcmpN32 (f : FmtCmp) (s : State) := intCompare s f false (fun a => ((loWord a).toNat : Int))
def execIcmpI64 (f : FmtCmp) (s : State) := intCompare s f true (fun a => a.toInt)
def execFcmpF32 (f : FmtCmp) (s : State) : Host.Outcome State Fault Refusal :=
  compareForm s .executeOnly f false .f32 true (fun a b => condFloat fp32 f.cond.toNat (bitsOf a 0 32) (bitsOf b 0 32))

/-- FCMP.h: h selects the FP16 half of both operands. -/
def execFcmpH (g : BitVec 4) (src : BitVec 6) (a : BitVec 7) (h : BitVec 1) (cond : BitVec 3) (p : BitVec 3) (s : State) :
    Host.Outcome State Fault Refusal :=
  compareForm s .executeOnly { g := g, src := src, a := a, cond := cond, pd := p } false .h2 true
    (fun a b => condFloat fp16 cond.toNat (bitsOf a (16 * h.toNat) 16) (bitsOf b (16 * h.toNat) 16))

/-- PLOP (R115): bit 2 pa + pb of the table. -/
def execPlop (g : BitVec 4) (d a b : BitVec 3) (t : BitVec 4) (s : State) : Host.Outcome State Fault Refusal :=
  predForm s .both g d [] (fun c L _ =>
    bitOf t ((if inMask (c.w.p a.toNat) L then 2 else 0) + (if inMask (c.w.p b.toNat) L then 1 else 0)))

/-- BALLOT (R116). -/
def execBallot (f : FmtA) (s : State) : Host.Outcome State Fault Refusal :=
  laneForm s .both f.g f.d false [op32 .int f.a, op32 .int f.b]
    (fun c _ vs => (maskOf (fun J => inMask (c.act f.g) J && (val vs 0 J &&& val vs 1 J) != 0)).setWidth 64)

/-- VOTE (R117). -/
def voteResult (kind : Nat) (act : LaneMask) (a : Nat → DWord) : Bool :=
  let on := laneList.filter (inMask act)
  match kind with
  | 0 => on.all (fun L => a L != 0)
  | 1 => on.any (fun L => a L != 0)
  | _ => on.all (fun L => a L == a (lane0 act))

def execVote (g : BitVec 4) (p : BitVec 3) (a : BitVec 7) (k : BitVec 2) (s : State) : Host.Outcome State Fault Refusal :=
  issue s .both (fun c =>
    orIllop (k != 3) (orIllopnd ((op32 .int a).ok c) (
      match readOps c (c.act g) [op32 .int a] with
      | .stop r => r
      | .got c' vs => .done { c' with w := c'.w.setP p.toNat (c.act g) (fun _ => voteResult k.toNat (c.act g) (val vs 0)) })))

/-- A lane move (R118): every read before every write; a lane without a source lane keeps d. -/
def laneMove (s : State) (f : FmtA) (src : Nat → Word → Option Nat) : Host.Outcome State Fault Refusal :=
  laneForm s .both f.g f.d false [op32 .int f.a, op32 .int f.b]
    (fun c L vs => (match src L (loWord (val vs 1 L)) with
      | some j => c.w.v f.a.toNat j
      | none => c.w.v f.d.toNat L).setWidth 64)

/-- The lane moves need a vector register in a (R118). -/
def laneMoveV (s : State) (f : FmtA) (src : Nat → Word → Option Nat) : Host.Outcome State Fault Refusal :=
  if f.a.toNat < 0x40 then laneMove s f src else issue s .both (fun _ => .trapC causeILLOPND)

def execLpick (f : FmtA) (s : State) := laneMoveV s f (fun _ b => some (b.toNat % 32))
def execLmirr (f : FmtA) (s : State) := laneMoveV s f (fun L b => some (L ^^^ (b.toNat % 32)))
def execLrot (f : FmtA) (s : State) := laneMoveV s f (fun L b => some ((L + 32 - b.toNat % 32) % 32))
def execLshift (f : FmtA) (s : State) :=
  laneMoveV s f (fun L b => if 0 ≤ (L : Int) - b.toInt ∧ (L : Int) - b.toInt ≤ 31 then some ((L : Int) - b.toInt).toNat else none)

/-- One level of the fixed tree of R119 and R97: neighbours combined, an absent child passing the other. -/
def foldLevel (f : Word → Word → Word) : List (Option Word) → List (Option Word)
  | some x :: some y :: r => some (f x y) :: foldLevel f r
  | some x :: none :: r => some x :: foldLevel f r
  | none :: y :: r => y :: foldLevel f r
  | l => l

/-- The fold over the active lanes. -/
def laneFold (f : Word → Word → Word) (act : LaneMask) (a : Nat → Word) : Word :=
  let leaves := laneList.map (fun L => if inMask act L then some (a L) else none)
  ((foldLevel f (foldLevel f (foldLevel f (foldLevel f (foldLevel f leaves))))).getD 0 none).getD 0

/-- The canonical NaN in place of any NaN (R87, R119). -/
def quiet32 (a : Word) : Word := if isNanCode fp32 a.toNat then 0x7FC00000 else a

/-- The operations of LFOLD (R119). -/
def foldOp (op : Nat) : Word → Word → Word :=
  match op with
  | 0 => (· + ·)
  | 1 => fun a b => if a.toInt ≤ b.toInt then a else b
  | 2 => fun a b => if a.toInt ≥ b.toInt then a else b
  | 3 => fun a b => if a ≤ b then a else b
  | 4 => fun a b => if a ≥ b then a else b
  | 5 => (· &&& ·)
  | 6 => (· ||| ·)
  | 7 => (· ^^^ ·)
  | 8 => f32Add
  | 9 => fun a b => BitVec.ofNat 32 (minCode fp32 a.toNat b.toNat)
  | _ => fun a b => BitVec.ofNat 32 (maxCodeOf fp32 a.toNat b.toNat)

/-- LFOLD (R119): operations 8 to 10 are of f32 class and closed to access warps. -/
def execLfold (g : BitVec 4) (d : BitVec 6) (a : BitVec 7) (o : BitVec 4) (s : State) : Host.Outcome State Fault Refusal :=
  issue s .both (fun c =>
    let op := o.toNat
    let x := op32 (if op < 8 then .int else .f32) a
    orIllop (decide (op ≤ 10) && (decide (op < 8) || c.w.role == .execute)) (
      orIllopnd (regOk c d.toNat && x.ok c) (
        match readOps c (c.act g) [x] with
        | .stop r => r
        | .got c' vs =>
          let r := laneFold (foldOp op) (c.act g) (fun L => loWord (val vs 0 L))
          .done { c' with w := c'.w.setV d.toNat (c.act g) (fun _ => if op < 8 then r else quiet32 r) })))

/-- LPEER (R120). -/
def execLpeer (f : FmtA) (s : State) : Host.Outcome State Fault Refusal :=
  laneForm s .both f.g f.d false [op32 .int f.a, op32 .int f.b]
    (fun c L vs => (maskOf (fun J => inMask (c.act f.g) J && val vs 0 J == val vs 0 L && val vs 1 J == val vs 1 L)).setWidth 64)

/-- SWR (R121). -/
def execSwr (g : BitVec 4) (r : BitVec 5) (a : BitVec 7) (s : State) : Host.Outcome State Fault Refusal :=
  issue s .both (fun c =>
    orIllopnd ((op32 .int a).ok c) (
      match readOps c (c.act g) [op32 .int a] with
      | .stop x => x
      | .got c' vs => .done (if c.act g = 0 then c' else { c' with w := c'.w.setS r.toNat (loWord (val vs 0 (lane0 (c.act g)))) })))

end Sys2Proof.Machine
end

