-- ==== Sys2Proof/Machine/Regroup.lean ====
section
/-! DEFINITION. Regrouping lanes, opcodes 0xC4 and 0xC5 (spec/06 R200-R203). -/

namespace Sys2Proof.Machine

/-- MOV is acceptable: at most 16 registers, all owned by the warp (R200). -/
def movOk (w : Warp) (mov : DWord) : Bool :=
  let regs := (List.range 64).filter (fun r => bitOf mov r)
  decide (regs.length ≤ 16) && regs.all (fun r => decide (r < w.nregs))

/-- The registers of MOV. -/
def movRegs (mov : DWord) : List Nat := (List.range 64).filter (fun r => bitOf mov r)

/-- The participants: positions of the execute warps that have not finished, by index. -/
def participants (t : Team) : List Nat :=
  (List.range t.warps.length).filter (fun i => match t.warps[i]? with
    | some w => w.role == .execute && !w.done
    | none => false)

/-- One lane taking part: warp position, warp index, lane, and what its warp read there. -/
structure PartLane where
  pos : Nat
  index : Nat
  lane : Nat
  key : Word
  deriving DecidableEq, Repr

def PartLane.origin (x : PartLane) : Nat := 32 * x.index + x.lane

/-- The non-exited lanes of the participants, by warp index then lane, with the keys their warps supplied. -/
def partLanes (t : Team) (arr : List RegroupArrival) : List PartLane :=
  (participants t).flatMap (fun i => match t.warps[i]?, arr.find? (fun a => a.warp == i) with
    | some w, some a => (laneList.filter (fun L => !inMask w.exited L)).map (fun L =>
        { pos := i, index := w.index, lane := L, key := a.keys.getD L 0xFFFFFFFF })
    | _, _ => [])

/-- Where the next key starts: at pos when it is the first destination lane of its warp, else at the first of the warp after (R201). -/
def nextWarp (dest : List PartLane) (pos : Nat) : Nat :=
  match dest[pos]? with
  | none => pos
  | some x =>
    if pos = 0 ∨ (dest.getD (pos - 1) x).pos ≠ x.pos then pos
    else pos + ((dest.drop pos).takeWhile (fun y => y.pos == x.pos)).length

/-- Places the source lanes, in key order, at destination positions. -/
def placeKeys (dest : List PartLane) : Nat → Option Word → List PartLane → List (Nat × PartLane)
  | _, _, [] => []
  | pos, prev, x :: r =>
    let pos := match prev with
      | some k => if k = x.key then pos else nextWarp dest pos
      | none => pos
    if pos < dest.length then (pos, x) :: placeKeys dest (pos + 1) (some x.key) r else placeKeys dest pos (some x.key) r

/-- What each destination lane receives: the assignment of REGROUP (R201). -/
def regroupMap (dest : List PartLane) : List (Nat × PartLane) :=
  let src := sortBy (fun a b => decide (a.key.toNat < b.key.toNat) || (a.key == b.key && decide (a.origin ≤ b.origin)))
    (dest.filter (fun x => !bitOf x.key 31))
  placeKeys dest 0 none src

/-- The assignment of UNGROUP (R202): each origin's position with its last sender. -/
def ungroupMap (dest : List PartLane) : List (Nat × PartLane) :=
  dest.foldl (fun acc x =>
    match dest.findIdx? (fun y => y.origin == x.key.toNat) with
    | some i => (i, x) :: acc.filter (fun p => p.1 != i)
    | none => acc) []

/-- One register of one lane. -/
def Warp.put1 (w : Warp) (r L : Nat) (v : Word) : Warp := { w with vregs := updAt w.vregs r (fun l => updAt l L (fun _ => v)) }

/-- The move: every read from the team as it was, then every write; MOV registers without a value are free (R201, R202). -/
def regroupMove (tag : Nat) (un : Bool) (t : Team) (arr : List RegroupArrival) : Team :=
  let dest := partLanes t arr
  let m := if un then ungroupMap dest else regroupMap dest
  let mov := match arr.head? with | some a => movRegs a.mov | none => []
  ((List.range dest.length).zip dest).foldl (fun t' x =>
    let y := x.2
    let got := (m.find? (fun p => p.1 == x.1)).map (·.2)
    let d := match arr.find? (fun a => a.warp == y.pos) with | some a => a.d | none => 0
    let w' (w : Warp) : Warp :=
      let w := mov.foldl (fun w r => w.put1 r y.lane (match got with
        | some z => (match t.warps[z.pos]? with | some u => u.v r z.lane | none => 0)
        | none => (Config.freeBits tag ((y.pos * 64 + r) * 32 + y.lane)).setWidth 32)) w
      w.put1 d y.lane (match got with
        | some z => if un then 1 else BitVec.ofNat 32 z.origin
        | none => if un then 0 else 0xFFFFFFFF)
    { t' with warps := updAt t'.warps y.pos w' }) t

/-- Every participant has arrived at the same of the two instructions. -/
def regroupReady (t : Team) (un : Bool) : Bool :=
  (participants t).all (fun i => t.regroup.any (fun a => a.warp == i && a.un == un))

/-- The lowest-indexed participant whose mask differs from that of the lowest-indexed participant (R200). -/
def regroupOdd (t : Team) (un : Bool) : Option Nat :=
  let l := (participants t).filterMap (fun i => (t.regroup.find? (fun a => a.warp == i && a.un == un)).map (fun a => (i, a.mov)))
  match l with
  | [] => none
  | (_, m) :: r => (r.find? (fun x => x.2 != m)).map (·.1)

/-- The team after a regroup: the lanes moved, the arrivals spent. -/
def regroupDone (tag : Nat) (un : Bool) (t : Team) : Team :=
  { regroupMove tag un t (t.regroup.filter (fun a => a.un == un)) with
    regroup := t.regroup.filter (fun a => a.un != un), regroups := t.regroups + 1 }

/-- The move a team's waiting warps are owed once no other participant is left to arrive (R200). -/
def regroupDue (tag : Nat) (t : Team) : Team :=
  let due (un : Bool) (t : Team) : Team :=
    if t.regroup.any (fun a => a.un == un) && regroupReady t un && (regroupOdd t un).isNone then regroupDone tag un t else t
  due true (due false t)

/-- A warp that waits at REGROUP or UNGROUP: the move when all have arrived, ILLOPND in the warp whose mask differs, else BLK 7. -/
def regroupTry (c : Ctx) (un : Bool) : Res :=
  let t := c.team
  if !regroupReady t un then .block c 7
  else match regroupOdd t un with
    | some i =>
      if i = c.wi then
        .trapWith { c with t := { c.t with regroup := c.t.regroup.filter (fun a => a.warp != c.wi) }
                           p := { c.p with arrival := none } }
          { cause := causeILLOPND, lo := 0, hi := 0, lane := 0 } c.p.unitPc
      else .block c 7
    | none =>
      let t' := regroupDone c.s.freeTag un t
      .done { c with t := t', w := t'.warps.getD c.wi c.w }

/-- REGROUP and UNGROUP (R200): the checks, the arrival once, then the wait. The never guard does nothing (R9). -/
def regroupForm (s : State) (f : FmtA) (un : Bool) : Host.Outcome State Fault Refusal :=
  issue s .executeOnly (fun c =>
    let mov := c.w.s64 (sNum f.b)
    orIllop (!c.inHandler) (orIllopnd (regOk c f.d.toNat && !isQueueSpec f.a && (op32 .int f.a).ok c && isSPair f.b && movOk c.w mov) (
      if f.g = 15 then .done c
      else if c.p.mask ≠ ~~~c.w.exited then .trapC causeDIVERGE
      else match c.p.arrival with
        | some (.regroup _) =>
          if c.t.regroup.any (fun a => a.warp == c.wi) then regroupTry c un else .done c
        | _ =>
          let act := c.act f.g
          let keys := laneList.map (fun L => if inMask act L then loWord ((op32 .int f.a).value c L) else 0xFFFFFFFF)
          let a : RegroupArrival := { warp := c.wi, seq := c.p.seq, un := un, d := f.d.toNat, keys := keys, mov := mov }
          regroupTry { c with t := { c.t with regroup := c.t.regroup ++ [a] }
                              p := { c.p with arrival := some (.regroup c.t.regroups) } } un)))

def execRegroup (f : FmtA) (s : State) := regroupForm s f false
def execUngroup (f : FmtA) (s : State) := regroupForm s f true

end Sys2Proof.Machine
end

