-- ==== Sys2Proof/Machine/Control.lean ====
section
/-! DEFINITION. Control and splits, opcodes 0xA0 to 0xAE, the side words, and words no row of the opcode table matches (spec/04 R129-R140, spec/02 R62-R71, R76, spec/01 R21-R30, R34-R39). -/

namespace Sys2Proof.Machine

/-- The word after the one a split stands at. -/
def Split.nextPc (p : Split) : DWord := p.pc + 4
/-- PC + 4 × OFF (R6, R129). -/
def branchTarget (p : Split) (off : BitVec 20) : DWord := p.pc + (off.signExtend 64 <<< 2)

/-- BRA (R129). -/
def execBra (f : FmtC) (s : State) : Host.Outcome State Fault Refusal :=
  issue s .both (fun c => transfer c (fun L => if inMask (c.act f.g) L then branchTarget c.p f.off else c.p.nextPc))

/-- BRU (R130). -/
def execBru (f : FmtC) (s : State) : Host.Outcome State Fault Refusal :=
  issue s .both (fun c =>
    if c.act f.g = c.p.mask then transfer c (fun _ => branchTarget c.p f.off)
    else if c.act f.g = 0 then .done c
    else .trapC causeDIVERGE)

/-- CALL (R131): active lanes link in v6:v7. -/
def execCall (f : FmtC) (s : State) : Host.Outcome State Fault Refusal :=
  issue s .both (fun c =>
    let link := { c with w := c.w.setV64 6 (c.act f.g) (fun _ => c.p.nextPc) }
    transfer link (fun L => if inMask (c.act f.g) L then branchTarget c.p f.off else c.p.nextPc))

/-- A jump of each active lane to its own target; a misaligned target traps (R132). -/
def jumpLanes (c : Ctx) (act : LaneMask) (target : Nat → DWord) : Res :=
  match laneList.find? (fun L => inMask act L && bitsOf (target L) 0 2 != 0) with
  | some L => .trap (trapAddr causeALIGN (target L).toNat L)
  | none => transfer c (fun L => if inMask act L then target L else c.p.nextPc)

def execRet (g : BitVec 4) (s : State) : Host.Outcome State Fault Refusal :=
  issue s .both (fun c => jumpLanes c (c.act g) (c.w.v64 6))

/-- JMPI (R132): the target is a pair of vector or scalar registers. -/
def execJmpi (g : BitVec 4) (a : BitVec 7) (s : State) : Host.Outcome State Fault Refusal :=
  issue s .both (fun c =>
    orIllopnd (decide (a.toNat < 0x60) && (op64 a).ok c) (jumpLanes c (c.act g) ((op64 a).value c)))

/-- The guards MERGEAT, MERGE and YIELD take (R133). -/
def wholeGuard (g : BitVec 4) : Bool := g == 7 || g == 15

def execMergeat (f : FmtC) (s : State) : Host.Outcome State Fault Refusal :=
  issue s .both (fun c => orIllop (wholeGuard f.g) (
    .done (if f.g = 15 then c else { c with p := { c.p with mpc := branchTarget c.p f.off, arm := true } })))

/-- Split x stands below the split with SEQ q; n bounds the ancestors visited. -/
def Warp.below (w : Warp) (q : BitVec 16) : Nat → Split → Bool
  | 0, _ => false
  | n + 1, x => match x.parent with
    | none => false
    | some r => r == q || (match w.split? r with | some y => w.below q n y | none => false)

/-- The split that a handler goes on in when MERGE frees its own: the fused parent, else the oldest split below the parent that does not itself wait for a merge (notes/assumptions/11.md). -/
def handlerHeir (w : Warp) (parent : BitVec 16) : Option Split :=
  match w.split? parent with
  | some p => if p.st ≠ .waitingMerge then some p else oldestOf (w.splits.filter (fun x => x.st != .waitingMerge && w.below parent 64 x))
  | none => none

/-- The split X arrives at its parent and its entry is freed (R67). In a handler its privilege passes on. -/
def arriveAt (c : Ctx) (q : BitVec 16) : Res :=
  let w := { c.w with table := dropSplit c.w.table c.p.seq }.updSplit q (fun p => { p with arrived := p.arrived ||| c.p.mask })
  let w := fuseWarp c.s c.t c.wi w q
  let put (t : Team) (w : Warp) : State := c.s.setTeam { (t.shares c.wi c.w w) with warps := updAt t.warps c.wi (fun _ => w) }
  if c.inHandler then
    match handlerHeir w q, w.slots.findIdx? (fun l => l.seq == some c.p.seq) with
    | some h, some i => .gone (put (c.passHandler h.seq) (w.takeSlot i h none))
    | _, _ => .gone (put c.t w)
  else .gone (put c.t w)

/-- MERGE (R67) at the address the split stands at. -/
def execMerge (g : BitVec 4) (s : State) : Host.Outcome State Fault Refusal :=
  issue s .both (fun c => orIllop (wholeGuard g) (
    if g = 15 then .done c
    else
      let atParent := c.p.parent.bind (fun q => (c.w.split? q).bind (fun p =>
        if p.st = .waitingMerge ∧ p.mpc = c.p.pc then some q else none))
      match atParent with
      | some q => if c.inHandler then afterRelease c c.p.mask 0 (arriveAt c q) else arriveAt c q
      | none => if c.p.arm && c.p.mpc == c.p.pc then .done { c with p := { c.p with arm := false } } else .done c))

/-- YIELD (R69, R134): the split gives up its slot while another waits. A halted team has no waiting split. -/
def execYield (g : BitVec 4) (s : State) : Host.Outcome State Fault Refusal :=
  issue s .both (fun c => orIllop (wholeGuard g) (
    if g = 15 ∨ c.inHandler ∨ c.w.waiting.isEmpty then .done c
    else .gone ((c.advance.commit).updTeam c.t.id (fun t => { t with warps := updAt t.warps c.wi (fun w =>
      match w.slots.findIdx? (fun l => l.seq == some c.p.seq) with
      | some i => w.rotate c.s.clock i
      | none => w) }))))

/-- The EXIT of act finishes the team's last unfinished warp. -/
def lastExit (c : Ctx) (act : LaneMask) : Bool :=
  c.w.exited ||| act == BitVec.allOnes 32 &&
    ((List.range c.t.warps.length).zip c.t.warps).all (fun x => x.1 == c.wi || x.2.done)

/-- EXIT (R68, R135, R242, R307). A warp that finishes may be the last that a regroup waited for: the move is then made in the same turn (R200, R203). -/
def execExit (g : BitVec 4) (s : State) : Host.Outcome State Fault Refusal :=
  issue s .both (fun c =>
    let act := c.act g
    if act = 0 then .done c
    else if lastExit c act && decide (c.t.scr.exch > 0) && !c.t.scr.xpass then .trapC causeEXCHEXIT
    else
      let w := { c.w with exited := c.w.exited ||| act }
      let mask := c.p.mask &&& ~~~act
      if mask ≠ 0 then .done { c with w := w, p := { c.p with mask := mask } }
      else
        let gone : Unit → Res := fun _ =>
          -- a handler's end is a DEVICE-scope fence of its lanes (R307)
          let c := if c.inHandler then (c.releases act).acquires act else c
          let w' := { w with table := dropSplit w.table c.p.seq }
          let w' := match c.p.parent with | some q => fuseWarp c.s c.t c.wi w' q | none => w'
          let s := c.s.setTeam (regroupDue c.s.freeTag { (c.t.shares c.wi w w') with warps := updAt c.t.warps c.wi (fun _ => w') })
          if lastExit c act then .gone (finishTeam s c.t.id)
          else if c.inHandler then .ended (endHandler s c.t.id)
          else .gone s
        if c.inHandler then afterRelease c act 3 (gone ()) else gone ())

/-! ## Barriers (R76, R136) -/

/-- A warp belongs to a barrier set: 0 all, 1 execute, 2 access. -/
def inSet (set : BitVec 2) (w : Warp) : Bool :=
  set == 0 || (set == 1 && w.role == .execute) || (set == 2 && w.role == .access)

/-- A warp has arrived at an instance. -/
def BarInstance.has (b : BarInstance) (wi : Nat) : Bool := b.arrived.any (fun a => a.warp == wi)

/-- An instance is complete: every warp of its set that has not finished has arrived, and its arrival is counted, the accesses of its lanes before it having completed (spec/07 R215). -/
def BarInstance.complete (s : State) (t : Team) (b : BarInstance) : Bool :=
  ((List.range t.warps.length).zip t.warps).all (fun x => x.2.done || !inSet b.set x.2 ||
    b.arrived.any (fun a => a.warp == x.1 && lanesDone s t x.1 a.lanes a.mark))

/-- Complete instances leave. -/
def dropComplete (s : State) (t : Team) (l : List BarInstance) : List BarInstance := l.filter (fun b => !b.complete s t)

def Barrier.settle (s : State) (t : Team) (b : Barrier) : Barrier := { b with pending := dropComplete s t b.pending }

/-- A warp's arrival at a barrier: the barrier after it and the instance that counts it; none when the warp is outside the set. With several instances pending, the oldest one's set decides, then that of the first that has not counted the warp (DESIGN CHOICE, notes/assumptions/42.md). The first arrival that executes opens the instance and fixes its set, whether it is counted yet or held (DESIGN CHOICE, notes/assumptions/48.md). -/
def Barrier.arrive (b : Barrier) (w : Warp) (a : BarArrival) (set : BitVec 2) : Option (Barrier × Nat) :=
  let opened : Option (Barrier × Nat) :=
    if inSet set w then
      some ({ next := b.next + 1, pending := b.pending ++ [{ num := b.next, set := set, arrived := [a] }] }, b.next)
    else none
  match b.pending with
  | [] => opened
  | o :: _ =>
    if !inSet o.set w then none
    else match b.pending.find? (fun x => !x.has a.warp) with
      | none => opened
      | some x => if !inSet x.set w then none
                  else some ({ b with pending := b.pending.map (fun y =>
                    if y.num = x.num then { y with arrived := y.arrived ++ [a] } else y) }, x.num)

def Team.bar (t : Team) (id : Nat) : Barrier := t.bars.getD id { next := 0, pending := [] }
def Team.setBar (t : Team) (id : Nat) (b : Barrier) : Team := { t with bars := updAt t.bars id (fun _ => b) }

/-- BAR and BARA: arrive, once; BAR blocks until its instance completes. The arrival releases, and the completion acquires (spec/07 R215). -/
def barrier (c : Ctx) (act : LaneMask) (set : BitVec 2) (id : Nat) (blocks : Bool) : Res :=
  let b := (c.t.bar id).settle c.s c.team
  let c := { c with t := c.t.setBar id b }
  let wait (c : Ctx) (num : Nat) : Res :=
    if (c.t.bar id).pending.any (fun x => x.num == num) then .block { c with p := { c.p with arrival := some (.bar id num) } } 7
    else .done { c with t := c.t.observes (.bar id num) c.wi act }
  match c.p.arrival with
  | some (.bar i num) => if i = id then wait c num else .done c
  | _ =>
    match b.arrive c.w { warp := c.wi, lanes := act, mark := c.s.nextId } set with
    | none => .done c
    | some (b', num) =>
      let c := { c with t := (c.t.setBar id b').addSignals (.bar id num) c.wi act }
      let c := { c with t := c.t.setBar id (b'.settle c.s c.team) }
      if blocks then wait c num else .done c

/-- The barriers are closed to a handler (R304). -/
def execBar (g : BitVec 4) (set : BitVec 2) (i : BitVec 4) (s : State) : Host.Outcome State Fault Refusal :=
  issue s .both (fun c => orIllop (set != 3 && !c.inHandler) (
    if c.act g = 0 then .done c else barrier c (c.act g) set i.toNat true))

def execBara (g : BitVec 4) (set : BitVec 2) (i : BitVec 4) (s : State) : Host.Outcome State Fault Refusal :=
  issue s .both (fun c => orIllop (set != 3 && !c.inHandler) (
    if c.act g = 0 then .done c else barrier c (c.act g) set i.toNat false))

/-- SLEEP (R138): complete at issue, with the split blocked after it. -/
def execSleep (g : BitVec 4) (a : BitVec 7) (s : State) : Host.Outcome State Fault Refusal :=
  issue s .both (fun c =>
    orIllopnd ((op32 .int a).ok c) (
      match readOps c (c.act g) [op32 .int a] with
      | .stop r => r
      | .got c vs =>
        let n := min (val vs 0 (lane0 (c.act g))).toNat 0xFFFFFF
        if c.act g = 0 ∨ n = 0 then .done c
        else
          let c := c.advance
          .gone { c with p := { c.p with wake := some (c.s.clock + n), blk := 8 } }.commit))

def execNop (g : BitVec 4) (s : State) : Host.Outcome State Fault Refusal :=
  issue s .both (fun c => .done (if c.act g = 0 then c else c))

/-- The word of SPLITQ (R140). -/
def splitWord (w : Warp) (p : Split) : Word :=
  BitVec.ofNat 32 ((if p.parent.isSome then 2 ^ 31 else 0) + (if p.arm then 2 ^ 30 else 0) + w.table.length % 16 * 2 ^ 22 +
    w.splits.length % 64 * 2 ^ 16 + p.seq.toNat)

def execSplitq (g : BitVec 4) (d : BitVec 6) (s : State) : Host.Outcome State Fault Refusal :=
  laneForm s .both g d false [] (fun c _ _ => (splitWord c.w c.p).setWidth 64)

/-! ## Side words (R21-R30) -/

/-- A SETA or SETB value is defined. -/
def flagNameOk (x : BitVec 4) : Bool := decide (x.toNat < 12) || x == 15

/-- CLAUSE (R21-R23, R29): GAP and GIVE change timing only (R27). -/
def execClause (wait : BitVec 12) (a b : BitVec 4) (_gap : BitVec 3) (_give : BitVec 1) (s : State) :
    Host.Outcome State Fault Refusal :=
  issue s .both (fun c => orIllop (flagNameOk a && flagNameOk b && c.p.immRun == 0) (
    if c.w.flagsClear wait then .done { c with p := { c.p with setA := a, setB := b } } else .block c 1))

/-- An IMM word: a third in a row raises ILLOP (R29); else the latch changes and the unit goes on (R33). -/
def immWord (s : State) (latch : Split → Word) : Host.Outcome State Fault Refusal :=
  issue s .both (fun c => orIllop (decide (c.p.immRun < 2)) (
    .raw { c with p := { c.p with pc := c.p.nextPc, immRun := c.p.immRun + 1, latch := latch c.p, blk := 0 } }.commit))

def execImmL (x : BitVec 24) (s : State) : Host.Outcome State Fault Refusal := immWord s (fun _ => x.signExtend 32)

/-- IMM.H (R28). After another IMM.H the low byte of the latch is zero, so the two cases agree there. -/
def execImmH (x : BitVec 24) (s : State) : Host.Outcome State Fault Refusal :=
  immWord s (fun p => (x.setWidth 32 <<< 8) ||| (if p.immRun > 0 then p.latch &&& 0xFF else 0))

/-! ## Words that match no row (R34, R39) -/

/-- The opcode is assigned (R37, R39). -/
def opcodeAssigned (o : Nat) : Bool :=
  !(o == 0x4F || decide (0x5C ≤ o ∧ o ≤ 0x5F) || decide (0x6D ≤ o ∧ o ≤ 0x6F) || decide (0x89 ≤ o ∧ o ≤ 0x8F) ||
    o == 0xAF || o == 0xBF || decide (0xCA ≤ o ∧ o ≤ 0xCF) || o == 0xDF || decide (0xEA ≤ o ∧ o ≤ 0xEF) ||
    decide (0xF1 ≤ o ∧ o ≤ 0xF3) || decide (0xF6 ≤ o))

/-- The roles that may issue an opcode (R35). -/
def opcodeRoles (o : Nat) : Roles :=
  if decide (0x20 ≤ o ∧ o < 0x40) || o == 0x43 || o == 0x44 || decide (0xB0 ≤ o ∧ o < 0xC0) || o == 0xC4 || o == 0xC5 then .executeOnly
  else if o == 0x1E || o == 0x1F || decide (0x70 ≤ o ∧ o < 0xA0) || decide (0xD0 ≤ o ∧ o < 0xE0) then .accessOnly
  else .both

/-- The word needs handler privilege (R36): WRSR, TLBINV, VIEWCTL, and RDSR from 0x40 up. -/
def wordPrivileged (word : Word) : Bool :=
  let o := bitsOf word 24 8
  o == 0xE3 || o == 0xE7 || o == 0xDE || (o == 0xE2 && decide (bitsOf word 0 7 ≥ 0x40))

/-- A word outside the rows whose fault is an operand's, not a reserved field's: TLBINV.page whose A is no register pair (R322), XLDQ whose PEER is no even scalar register (R373). -/
def operandOnly (word : Word) : Bool :=
  (bitsOf word 24 8 == 0xE7 && bitsOf word 0 7 == 1 && bitsOf word 14 6 == 0) ||
  (bitsOf word 24 8 == 0xD8 && bitsOf word 18 2 == 0)

/-- A word that no row matches raises the first cause of R34 and changes nothing. -/
def execReservedOpcode (word : BitVec 32) (s : State) : Host.Outcome State Fault Refusal :=
  let o := bitsOf word 24 8
  if !opcodeAssigned o then issue s .both (fun _ => .trapC causeILLOP)
  else issue s (opcodeRoles o) (fun c =>
    if wordPrivileged word && !c.inHandler then .trapC causePRIV
    else .trapC (if operandOnly word then causeILLOPND else causeILLOP))

end Sys2Proof.Machine
end

