-- ==== Sys2Proof/Machine/Convert.lean ====
section
/-! DEFINITION. Moves, conversions and quantisation, opcodes 0x50 to 0x5B (spec/04 R122-R128). -/

namespace Sys2Proof.Machine

def execMov (f : FmtU) (s : State) := laneA s .both .int f (fun a => a)

/-- MOV64 (R122): a pair to a pair. -/
def execMov64 (f : FmtU) (s : State) : Host.Outcome State Fault Refusal :=
  laneForm s .both f.g f.d true [op64 f.a] (fun _ L vs => val vs 0 L)

/-- RDLANE (R122): s register r takes v register a of lane b & 31, b read in the lowest active lane. -/
def execRdlane (g : BitVec 4) (r : BitVec 5) (a b : BitVec 7) (s : State) : Host.Outcome State Fault Refusal :=
  issue s .both (fun c =>
    orIllopnd (decide (a.toNat < 0x40) && (op32 .int a).ok c && (op32 .int b).ok c) (
      match readOps c (c.act g) [op32 .int b] with
      | .stop x => x
      | .got c' vs => .done (if c.act g = 0 then c' else
          { c' with w := c'.w.setS r.toNat (c.w.v a.toNat ((val vs 0 (lane0 (c.act g))).toNat % 32)) })))

/-- The source class of a conversion (R14, R123). -/
def cvtClass (m : Nat) : OpClass :=
  match m with
  | 0 | 1 | 4 | 6 | 8 | 10 | 13 => .f32
  | 5 => .h2
  | 7 => .b2
  | _ => .int

/-- f32 to E3M5 (R123): overflow and NaN give 0xFF, a negative value or −0 gives 0. -/
def toE3M5 (mode : RMode) (a : Word) : Nat :=
  match fp32.decode a.toNat with
  | .nan => 0xFF
  | .inf neg => if neg then 0 else 0xFF
  | .fin neg m e => if neg then 0 else roundQ e3m5 mode true false m 1 e

/-- An i32 narrowed to w bits, clamped when sat (R91, R123). -/
def narrowInt (w : Nat) (sat : Bool) (a : Word) : Word :=
  let lo : Int := -(2 ^ (w - 1) : Nat)
  let hi : Int := (2 ^ (w - 1) : Nat) - 1
  if sat then BitVec.ofInt 32 (max lo (min hi a.toInt)) else (a.setWidth w).signExtend 32

/-- The conversions of R123. -/
def cvtWord (m : Nat) (mode : RMode) (sat : Bool) (a : Word) : Word :=
  let v := fp32.decode a.toNat
  match m with
  | 0 => BitVec.ofInt 32 (toInt mode (-2147483648) 2147483647 v)
  | 1 => BitVec.ofInt 32 (toInt mode 0 4294967295 v)
  | 2 => BitVec.ofNat 32 (roundV fp32 mode false (ofInt a.toInt))
  | 3 => BitVec.ofNat 32 (roundV fp32 mode false (ofInt a.toNat))
  | 4 => BitVec.ofNat 32 (roundV fp16 mode sat v)
  | 5 => BitVec.ofNat 32 (convert fp16 fp32 .rne false (bitsOf a 0 16))
  | 6 => BitVec.ofNat 32 (roundV bf16 mode sat v)
  | 7 => BitVec.ofNat 32 (convert bf16 fp32 .rne false (bitsOf a 0 16))
  | 8 => BitVec.ofNat 32 (roundV e4m3 mode sat v)
  | 9 => BitVec.ofNat 32 (convert e4m3 fp32 .rne false (bitsOf a 0 8))
  | 10 => BitVec.ofNat 32 (roundV e5m2 mode sat v)
  | 11 => BitVec.ofNat 32 (convert e5m2 fp32 .rne false (bitsOf a 0 8))
  | 12 => BitVec.ofNat 32 (convert e3m5 fp32 .rne false (bitsOf a 0 8))
  | 13 => BitVec.ofNat 32 (toE3M5 mode a)
  | 14 => narrowInt 8 sat a
  | _ => narrowInt 16 sat a

/-- CVT (R123). -/
def execCvt (g : BitVec 4) (d : BitVec 6) (a : BitVec 7) (sat : BitVec 1) (mode : BitVec 2) (m : BitVec 4) (s : State) :
    Host.Outcome State Fault Refusal :=
  laneA s .both (cvtClass m.toNat) ⟨g, d, a⟩ (cvtWord m.toNat (modeOf mode.toNat) (sat == 1))

/-- Two f32 values packed in a 16-bit format, a low (R124). -/
def pack2 (F : FFmt) (a b : Word) : Word :=
  BitVec.ofNat 32 (convert fp32 F .rne false b.toNat * 65536 + convert fp32 F .rne false a.toNat)

/-- Two f32 values packed as bytes above the upper half of d (R124). -/
def pack4 (F : FFmt) (sat : Bool) (a b d : Word) : Word :=
  BitVec.ofNat 32 (convert fp32 F .rne sat b.toNat * 2 ^ 24 + convert fp32 F .rne sat a.toNat * 65536 + bitsOf d 16 16)

def execCvtpkH2 (f : FmtA) (s : State) := laneAB s .both .f32 f (pack2 fp16)
def execCvtpkB2 (f : FmtA) (s : State) := laneAB s .both .f32 f (pack2 bf16)
def execCvtpkE4 (f : FmtA) (s : State) := laneABD s .both .f32 f (pack4 e4m3 true)
def execCvtpkE5 (f : FmtA) (s : State) := laneABD s .both .f32 f (pack4 e5m2 false)

/-- QPK4 (R125). -/
def execQpk4 (f : FmtA) (s : State) : Host.Outcome State Fault Refusal :=
  laneABD s .both .int f (fun a b d => (d >>> 4) ||| (BitVec.ofNat 32 (qpk4Code (fp32.decode a.toNat) (bitsOf b 0 8)) <<< 28))

/-- QUPK4 (R126). -/
def execQupk4 (g : BitVec 4) (d : BitVec 6) (a : BitVec 7) (i : BitVec 3) (s : State) : Host.Outcome State Fault Refusal :=
  laneA s .both .int ⟨g, d, a⟩ (fun a => BitVec.ofNat 32 (convert e2m1 fp32 .rne false (bitsOf a (4 * i.toNat) 4)))

/-- QSCALE (R127). -/
def execQscale (f : FmtA) (s : State) : Host.Outcome State Fault Refusal :=
  laneAB s .both .f32 f (fun a b => BitVec.ofNat 32 (qscaleCode (fp32.decode a.toNat) (fp32.decode b.toNat)))

/-- REQUANT (R128): eight elements, each in its place. -/
def execRequant (f : FmtA) (s : State) : Host.Outcome State Fault Refusal :=
  laneAB s .both .int f (fun a b => BitVec.ofNat 32 ((List.range 8).foldl (fun n i =>
    n + requantCode (bitsOf a (4 * i) 4) (bitsOf b 0 8) (bitsOf b 8 8) * 2 ^ (4 * i)) 0))

end Sys2Proof.Machine
end

