-- ==== Sys2Proof/Machine/MathFn.lean ====
section
/-! DEFINITION. The correctly rounded functions FEXP2, FLOG2, FSINPI, FCOSPI and FTANH (spec/03 R93, R94): each is enclosed in an interval of fixed-point numbers, and the interval is rounded. An interval whose ends round apart leaves the result to Config.unresolved (notes/assumptions/12.md). -/

namespace Sys2Proof.Machine

/-- Fraction bits of the fixed-point numbers. -/
def fxBits : Nat := 256

/-- An interval of nonnegative fixed-point numbers. -/
structure Iv where
  lo : Nat
  hi : Nat
  deriving DecidableEq, Repr

def Iv.one : Iv := ⟨2 ^ fxBits, 2 ^ fxBits⟩
def Iv.add (a b : Iv) : Iv := ⟨a.lo + b.lo, a.hi + b.hi⟩
def Iv.sub (a b : Iv) : Iv := ⟨a.lo - b.hi, a.hi - b.lo⟩
def Iv.mul (a b : Iv) : Iv := ⟨a.lo * b.lo / 2 ^ fxBits, a.hi * b.hi / 2 ^ fxBits + 1⟩
def Iv.divNat (a : Iv) (k : Nat) : Iv := ⟨a.lo / k, a.hi / k + 1⟩
def Iv.mulNat (a : Iv) (k : Nat) : Iv := ⟨a.lo * k, a.hi * k⟩
def Iv.div (a b : Iv) : Iv := ⟨a.lo * 2 ^ fxBits / b.hi, a.hi * 2 ^ fxBits / b.lo + 1⟩
/-- m 2^e, e at or above -fxBits. -/
def Iv.ofDyadic (m : Nat) (e : Int) : Iv := let x := m * 2 ^ (e + (fxBits : Int)).toNat; ⟨x, x⟩

/-- Σ w^(2j+1) / (2j+1): n more terms from the power p = w^(2j+1). -/
def atanhFrom (w2 : Iv) : Nat → Nat → Iv → Iv → Iv
  | 0, _, p, acc => ⟨acc.lo, acc.hi + 2 * p.hi⟩
  | n + 1, j, p, acc => atanhFrom w2 n (j + 1) (p.mul w2) (acc.add (p.divNat (2 * j + 1)))

/-- atanh of w in [0, 1/3]. -/
def atanhIv (w : Iv) : Iv := atanhFrom (w.mul w) 90 0 w ⟨0, 0⟩

/-- ln 2 = 2 atanh(1/3). -/
def ln2Iv : Iv := (atanhIv (Iv.one.divNat 3)).mulNat 2

/-- Positive and negative parts of Σ (-1)^j z^(2j+1) / (2j+1) for z = 1/k. -/
def atanInvFrom (k2 : Nat) : Nat → Nat → Iv → Iv → Iv → Iv
  | 0, _, p, pos, neg => ⟨pos.lo - neg.hi - p.hi, pos.hi - neg.lo + p.hi⟩
  | n + 1, j, p, pos, neg =>
    let t := p.divNat (2 * j + 1)
    if j % 2 = 0 then atanInvFrom k2 n (j + 1) (p.divNat k2) (pos.add t) neg
    else atanInvFrom k2 n (j + 1) (p.divNat k2) pos (neg.add t)

/-- arctan(1/k). -/
def atanInv (k : Nat) : Iv := atanInvFrom (k * k) 60 0 (Iv.one.divNat k) ⟨0, 0⟩ ⟨0, 0⟩

/-- π by Machin's formula. -/
def piIv : Iv := ((atanInv 5).mulNat 16).sub ((atanInv 239).mulNat 4)

/-- Σ z^k / k!: n more terms from t = z^k / k!. -/
def expFrom (z : Iv) : Nat → Nat → Iv → Iv → Iv
  | 0, _, t, acc => ⟨acc.lo, acc.hi + 2 * t.hi⟩
  | n + 1, k, t, acc => expFrom z n (k + 1) ((t.mul z).divNat (k + 1)) (acc.add t)

/-- e^z for z in [0, 1). -/
def expIv (z : Iv) : Iv := expFrom z 64 0 Iv.one ⟨0, 0⟩

/-- 2^f for f in [0, 1]. -/
def exp2Iv (f : Iv) : Iv := expIv (f.mul ln2Iv)

/-- Positive and negative parts of the sine series. -/
def sinFrom (z2 : Iv) : Nat → Nat → Iv → Iv → Iv → Iv
  | 0, _, t, pos, neg => ⟨pos.lo - neg.hi - t.hi, pos.hi - neg.lo + t.hi⟩
  | n + 1, j, t, pos, neg =>
    let t' := (t.mul z2).divNat ((2 * j + 2) * (2 * j + 3))
    if j % 2 = 0 then sinFrom z2 n (j + 1) t' (pos.add t) neg else sinFrom z2 n (j + 1) t' pos (neg.add t)

/-- sin z for z in [0, π/2]. -/
def sinIv (z : Iv) : Iv := sinFrom (z.mul z) 40 0 z ⟨0, 0⟩ ⟨0, 0⟩

/-- The rounded value of a number in an interval scaled by 2^x; op and the operand name the free value where the ends round apart. -/
def roundIv (op : Nat) (a : Word) (neg : Bool) (v : Iv) (x : Int) : Word :=
  let lo := roundQ fp32 .rne false neg v.lo 1 (x - (fxBits : Int))
  let hi := roundQ fp32 .rne false neg v.hi 1 (x - (fxBits : Int))
  if lo = hi then BitVec.ofNat 32 lo else Config.unresolved op a

def canonicalNan : Word := 0x7FC00000
def word32 (n : Nat) : Word := BitVec.ofNat 32 n
/-- ±1.0. -/
def oneWord (neg : Bool) : Word := if neg then 0xBF800000 else 0x3F800000
def zeroWord (neg : Bool) : Word := if neg then 0x80000000 else 0

/-- FEXP2 (R93, R94). -/
def fexp2 (a : Word) : Word :=
  match fp32.decode a.toNat with
  | .nan => canonicalNan
  | .inf neg => if neg then 0 else 0x7F800000
  | .fin neg m e =>
    if m = 0 then oneWord false
    else if (m.log2 : Int) + e ≥ 8 then (if neg then 0 else 0x7F800000)
    else
      -- |a| = n + f with f a fraction of 2^fxBits
      let x := m * 2 ^ (e + (fxBits : Int)).toNat
      let n := x / 2 ^ fxBits
      let f := x % 2 ^ fxBits
      if f = 0 then
        if neg then word32 (roundQ fp32 .rne false false 1 1 (-(n : Int))) else word32 (roundQ fp32 .rne false false 1 1 n)
      else if neg then
        if n ≥ 150 then 0 else roundIv 0x34 a false (exp2Iv ⟨2 ^ fxBits - f, 2 ^ fxBits - f⟩) (-(n : Int) - 1)
      else if n ≥ 128 then 0x7F800000 else roundIv 0x34 a false (exp2Iv ⟨f, f⟩) n

/-- FLOG2 (R93, R94). -/
def flog2 (a : Word) : Word :=
  match fp32.decode a.toNat with
  | .nan => canonicalNan
  | .inf neg => if neg then canonicalNan else 0x7F800000
  | .fin neg m e =>
    if m = 0 then 0xFF800000
    else if neg then canonicalNan
    else
      let k : Int := (m.log2 : Int) + e
      let p := 2 ^ m.log2
      if m = p then
        (if k < 0 then word32 (roundQ fp32 .rne false true k.natAbs 1 0) else word32 (roundQ fp32 .rne false false k.toNat 1 0))
      else
        let w : Iv := ⟨(m - p) * 2 ^ fxBits / (m + p), (m - p) * 2 ^ fxBits / (m + p) + 1⟩
        let l := ((atanhIv w).mulNat 2).div ln2Iv
        if k ≥ 0 then roundIv 0x35 a false ((Iv.ofDyadic k.toNat 0).add l) 0
        else roundIv 0x35 a true ((Iv.ofDyadic k.natAbs 0).sub l) 0

/-- |a| mod 2 as a fixed-point fraction, exactly. -/
def mod2 (m : Nat) (e : Int) : Nat :=
  if e ≥ 0 then m * 2 ^ (min e 2).toNat % 2 * 2 ^ fxBits else m * 2 ^ (e + (fxBits : Int)).toNat % 2 ^ (fxBits + 1)

/-- sin(π r) for a fixed-point r in [0, 1/2], with the sign given. -/
def sinPiOf (op : Nat) (a : Word) (neg : Bool) (r : Nat) : Word :=
  if r = 2 ^ (fxBits - 1) then oneWord neg else roundIv op a neg (sinIv (piIv.mul ⟨r, r⟩)) 0

/-- FSINPI (R93, R94). -/
def fsinpi (a : Word) : Word :=
  match fp32.decode a.toNat with
  | .nan => canonicalNan
  | .inf _ => canonicalNan
  | .fin neg m e =>
    let one := 2 ^ fxBits
    let r := mod2 m e
    if r % one = 0 then zeroWord neg
    else
      let s := if r ≥ one then !neg else neg
      let r := r % one
      sinPiOf 0x36 a s (if r > one / 2 then one - r else r)

/-- FCOSPI (R93, R94). -/
def fcospi (a : Word) : Word :=
  match fp32.decode a.toNat with
  | .nan => canonicalNan
  | .inf _ => canonicalNan
  | .fin _ m e =>
    let one := 2 ^ fxBits
    let r := mod2 m e
    let r := if r > one then 2 * one - r else r
    let s := decide (r > one / 2)
    let r := if s then one - r else r
    if r = one / 2 then 0 else sinPiOf 0x37 a s (one / 2 - r)

/-- FTANH (R93, R94). -/
def ftanh (a : Word) : Word :=
  match fp32.decode a.toNat with
  | .nan => canonicalNan
  | .inf neg => oneWord neg
  | .fin neg m e =>
    if m = 0 then a
    else if (m.log2 : Int) + e ≥ 4 then
      roundIv 0x38 a neg ⟨2 ^ fxBits - 2 ^ (fxBits - 40), 2 ^ fxBits - 1⟩ 0
    else
      let u := (Iv.ofDyadic (2 * m) e).div ln2Iv
      let n := u.lo / 2 ^ fxBits
      let f := exp2Iv ⟨u.lo - n * 2 ^ fxBits, u.hi - n * 2 ^ fxBits⟩
      let ex := f.mulNat (2 ^ n)
      roundIv 0x38 a neg ((ex.sub Iv.one).div (ex.add Iv.one)) 0

end Sys2Proof.Machine
end

