-- ==== Sys2Proof/Machine/FloatLane.lean ====
section
/-! DEFINITION. Floating point instructions, opcodes 0x20 to 0x3F (spec/04 R107-R113), in the execute role. -/

namespace Sys2Proof.Machine

/-- A code of a format as a word. -/
def codeWord (n : Nat) : Word := BitVec.ofNat 32 n

/-- A unary FP32 function of codes. -/
def fUn (f : FVal → Nat) (a : Word) : Word := codeWord (f (fp32.decode a.toNat))
/-- A binary FP32 function of codes. -/
def fBin (f : Nat → Nat → Nat) (a b : Word) : Word := codeWord (f a.toNat b.toNat)

def f32Sub (a b : Word) : Word := codeWord (roundV fp32 .rne false ((fp32.decode a.toNat).add (fp32.decode b.toNat).neg))
def f32Fma (a b d : Word) : Word := codeWord (fmaCode fp32 a.toNat b.toNat d.toNat)
def f32Div (a b : Word) : Word := codeWord (divV fp32 .rne false (fp32.decode a.toNat) (fp32.decode b.toNat))

/-- a × 2^b rounded once (R109). Exponents beyond ±1000 give the same overflow or underflow as ±1000. -/
def f32Scale (a b : Word) : Word :=
  match fp32.decode a.toNat with
  | .fin neg m e => codeWord (roundV fp32 .rne false (.fin neg m (e + max (-1000) (min 1000 b.toInt))))
  | v => codeWord (roundV fp32 .rne false v)

/-- FRND (R110). -/
def f32Round (mode : RMode) (a : Word) : Word :=
  match fp32.decode a.toNat with
  | .fin neg m e => if e ≥ 0 then a else codeWord (roundV fp32 .rz false (.fin neg (roundInt mode neg m e) 0))
  | v => codeWord (roundV fp32 .rne false v)

/-- The class bit of an f32 pattern (R111). -/
def f32Class (a : Word) : Nat :=
  let E := bitsOf a 23 8
  let M := bitsOf a 0 23
  let neg := bitOf a 31
  if E = 255 then (if M ≠ 0 then 0 else if neg then 2 else 1)
  else if E = 0 then (if M = 0 then 3 else 4)
  else if neg then 6 else 5

/-- The dot products of R112: the exact sum of the element products and d, rounded once. -/
def dotWord (F : FFmt) (n w : Nat) (a b d : Word) : Word :=
  let terms := (List.range n).map (fun i => (F.decode (bitsOf a (w * i) w)).mul (F.decode (bitsOf b (w * i) w)))
  codeWord (roundV fp32 .rne false (sumV (terms ++ [fp32.decode d.toNat])))

/-- A signalling NaN of FP32 (R82). -/
def isSnan32 (a : Word) : Bool := isNanCode fp32 a.toNat && !bitOf a 22
/-- FMIN.f32 and FMAX.f32: R107 gives the canonical NaN for a signalling NaN, every other case is R88's (DEDUCED, notes/assumptions/47.md). -/
def quieting (f : Word → Word → Word) (a b : Word) : Word := if isSnan32 a || isSnan32 b then 0x7FC00000 else f a b
def f32Min : Word → Word → Word := quieting (fBin (minCode fp32))
def f32Max : Word → Word → Word := quieting (fBin (maxCodeOf fp32))

/-- KEYF (R113). -/
def keyWord (a : Word) : Word := if bitOf a 31 then ~~~a else a ||| 0x80000000

def execFaddF32 (f : FmtA) (s : State) := laneAB s .executeOnly .f32 f f32Add
def execFsubF32 (f : FmtA) (s : State) := laneAB s .executeOnly .f32 f f32Sub
def execFmulF32 (f : FmtA) (s : State) := laneAB s .executeOnly .f32 f f32Mul
def execFfmaF32 (f : FmtA) (s : State) := laneABD s .executeOnly .f32 f f32Fma
def execFminF32 (f : FmtA) (s : State) := laneAB s .executeOnly .f32 f f32Min
def execFmaxF32 (f : FmtA) (s : State) := laneAB s .executeOnly .f32 f f32Max
def execFabsF32 (f : FmtU) (s : State) := laneA s .executeOnly .f32 f (fun a => a &&& 0x7FFFFFFF)
def execFnegF32 (f : FmtU) (s : State) := laneA s .executeOnly .f32 f (fun a => a ^^^ 0x80000000)
def execFaddH2 (f : FmtA) (s : State) := laneAB s .executeOnly .h2 f (halves (addCode fp16))
def execFmulH2 (f : FmtA) (s : State) := laneAB s .executeOnly .h2 f (halves (mulCode fp16))
def execFfmaH2 (f : FmtA) (s : State) := laneABD s .executeOnly .h2 f (halves3 (fmaCode fp16))
def execFminH2 (f : FmtA) (s : State) := laneAB s .executeOnly .h2 f (halves (minCode fp16))
def execFmaxH2 (f : FmtA) (s : State) := laneAB s .executeOnly .h2 f (halves (maxCodeOf fp16))
def execFaddB2 (f : FmtA) (s : State) := laneAB s .executeOnly .b2 f (halves (addCode bf16))
def execFmulB2 (f : FmtA) (s : State) := laneAB s .executeOnly .b2 f (halves (mulCode bf16))
def execFfmaB2 (f : FmtA) (s : State) := laneABD s .executeOnly .b2 f (halves3 (fmaCode bf16))
def execFrcp (f : FmtU) (s : State) := laneA s .executeOnly .f32 f (f32Div 0x3F800000)
def execFrsq (f : FmtU) (s : State) := laneA s .executeOnly .f32 f (fUn (rsqrtV fp32))
def execFsqrt (f : FmtU) (s : State) := laneA s .executeOnly .f32 f (fUn (sqrtV fp32))
def execFdiv (f : FmtA) (s : State) := laneAB s .executeOnly .f32 f f32Div
def execFexp2 (f : FmtU) (s : State) := laneA s .executeOnly .f32 f fexp2
def execFlog2 (f : FmtU) (s : State) := laneA s .executeOnly .f32 f flog2
def execFsinpi (f : FmtU) (s : State) := laneA s .executeOnly .f32 f fsinpi
def execFcospi (f : FmtU) (s : State) := laneA s .executeOnly .f32 f fcospi
def execFtanh (f : FmtU) (s : State) := laneA s .executeOnly .f32 f ftanh

/-- FSCALE (R109): a of f32 class, b an integer (R14). -/
def execFscale (f : FmtA) (s : State) : Host.Outcome State Fault Refusal :=
  laneForm s .executeOnly f.g f.d false [op32 .f32 f.a, op32 .int f.b]
    (fun _ L vs => (f32Scale (loWord (val vs 0 L)) (loWord (val vs 1 L))).setWidth 64)

def execFrnd (g : BitVec 4) (d : BitVec 6) (a : BitVec 7) (m : BitVec 2) (s : State) : Host.Outcome State Fault Refusal :=
  laneA s .executeOnly .f32 ⟨g, d, a⟩ (f32Round (modeOf m.toNat))

/-- FCLASS (R111): writes the predicate in each active lane. -/
def execFclass (g : BitVec 4) (p : BitVec 3) (a : BitVec 7) (m : BitVec 7) (s : State) : Host.Outcome State Fault Refusal :=
  predForm s .executeOnly g p [op32 .f32 a] (fun _ L vs => bitOf m (f32Class (loWord (val vs 0 L))))

def execFdot2H (f : FmtA) (s : State) := laneABD s .executeOnly .h2 f (dotWord fp16 2 16)
def execFdot4E4 (f : FmtA) (s : State) := laneABD s .executeOnly .int f (dotWord e4m3 4 8)
def execFdot4E5 (f : FmtA) (s : State) := laneABD s .executeOnly .int f (dotWord e5m2 4 8)
def execKeyf (f : FmtU) (s : State) := laneA s .executeOnly .f32 f keyWord

end Sys2Proof.Machine
end

