-- ==== Sys2Proof/Machine/IntLane.lean ====
section
/-! DEFINITION. Integer and logic instructions, opcodes 0x00 to 0x1F (spec/04 R103-R106). -/

namespace Sys2Proof.Machine

/-- clamp of R103 to the signed 32-bit range. -/
def clamp32 (x : Int) : Word :=
  if x < -2147483648 then 0x80000000 else if x > 2147483647 then 0x7FFFFFFF else BitVec.ofInt 32 x

/-- Bits 63:32 of the product of two extended operands. -/
def mulHigh (a b : DWord) : Word := hiWord (a * b)

/-- Number of set bits. -/
def popCount (a : Word) : Nat := (laneList.filter (inMask a)).length
/-- Number of leading zero bits. -/
def leadZeros (a : Word) : Nat := if a = 0 then 32 else 31 - a.toNat.log2
/-- Bit i moved to bit 31 − i. -/
def bitReverse (a : Word) : Word := maskOf (fun i => inMask a (31 - i))

def shlWord (a b : Word) : Word := if b.toNat < 32 then a <<< b.toNat else 0
def shrWord (a b : Word) : Word := if b.toNat < 32 then a >>> b.toNat else 0
def sarWord (a b : Word) : Word := if b.toNat < 32 then a.sshiftRight b.toNat else if bitOf a 31 then 0xFFFFFFFF else 0
def divWord (a b : Word) : Word := if b = 0 then 0xFFFFFFFF else a / b
def minSigned (a b : Word) : Word := if a.toInt ≤ b.toInt then a else b
def maxSigned (a b : Word) : Word := if a.toInt ≥ b.toInt then a else b
def minUnsigned (a b : Word) : Word := if a ≤ b then a else b
def maxUnsigned (a b : Word) : Word := if a ≥ b then a else b
def absWord (a : Word) : Word := if bitOf a 31 then -a else a

/-- The position, length and mask of a BFX or BFI control word (R105). -/
def fieldPos (b : Word) : Nat := bitsOf b 0 5
def fieldLen (b : Word) : Nat := min (bitsOf b 8 6) (32 - fieldPos b)
def fieldMask (b : Word) : Word := if fieldLen b = 0 then 0 else (0xFFFFFFFF : Word) >>> (32 - fieldLen b)

/-- BFX (R105). -/
def bitExtract (a b : Word) : Word :=
  let f := (a >>> fieldPos b) &&& fieldMask b
  if bitOf b 15 ∧ fieldLen b > 0 ∧ bitOf f (fieldLen b - 1) then f ||| ~~~(fieldMask b) else f

/-- BFI (R105). -/
def bitInsert (a b d : Word) : Word :=
  (d &&& ~~~(fieldMask b <<< fieldPos b)) ||| ((a &&& fieldMask b) <<< fieldPos b)

def execIaddI32 (f : FmtA) (s : State) := laneAB s .both .int f (· + ·)
def execIsubI32 (f : FmtA) (s : State) := laneAB s .both .int f (· - ·)
def execImulI32 (f : FmtA) (s : State) := laneAB s .both .int f (· * ·)
def execImulhiI32 (f : FmtA) (s : State) := laneAB s .both .int f (fun a b => mulHigh (a.signExtend 64) (b.signExtend 64))
def execImulhiN32 (f : FmtA) (s : State) := laneAB s .both .int f (fun a b => mulHigh (a.setWidth 64) (b.setWidth 64))
def execImadI32 (f : FmtA) (s : State) := laneABD s .both .int f (fun a b d => a * b + d)
def execIaddI64 (f : FmtA) (s : State) := laneAB64 s .both f (· + ·)
def execIsubI64 (f : FmtA) (s : State) := laneAB64 s .both f (· - ·)
def execIminI32 (f : FmtA) (s : State) := laneAB s .both .int f minSigned
def execIminN32 (f : FmtA) (s : State) := laneAB s .both .int f minUnsigned
def execImaxI32 (f : FmtA) (s : State) := laneAB s .both .int f maxSigned
def execImaxN32 (f : FmtA) (s : State) := laneAB s .both .int f maxUnsigned
def execIabsI32 (f : FmtU) (s : State) := laneA s .both .int f absWord
def execIaddsI32 (f : FmtA) (s : State) := laneAB s .both .int f (fun a b => clamp32 (a.toInt + b.toInt))
def execIsubsI32 (f : FmtA) (s : State) := laneAB s .both .int f (fun a b => clamp32 (a.toInt - b.toInt))
def execIdivN32 (f : FmtA) (s : State) := laneAB s .both .int f divWord
def execAnd (f : FmtA) (s : State) := laneAB s .both .int f (· &&& ·)
def execOr (f : FmtA) (s : State) := laneAB s .both .int f (· ||| ·)
def execXor (f : FmtA) (s : State) := laneAB s .both .int f (· ^^^ ·)
def execAndn (f : FmtA) (s : State) := laneAB s .both .int f (fun a b => a &&& ~~~b)
def execNot (f : FmtU) (s : State) := laneA s .both .int f (fun a => ~~~a)
def execShl (f : FmtA) (s : State) := laneAB s .both .int f shlWord
def execShrN32 (f : FmtA) (s : State) := laneAB s .both .int f shrWord
def execShrI32 (f : FmtA) (s : State) := laneAB s .both .int f sarWord
def execPopc (f : FmtU) (s : State) := laneA s .both .int f (fun a => BitVec.ofNat 32 (popCount a))
def execClz (f : FmtU) (s : State) := laneA s .both .int f (fun a => BitVec.ofNat 32 (leadZeros a))
def execBrev (f : FmtU) (s : State) := laneA s .both .int f bitReverse
def execBfx (f : FmtA) (s : State) := laneAB s .both .int f bitExtract
def execBfi (f : FmtA) (s : State) := laneABD s .both .int f bitInsert

/-- SEL (R11, R104): every lane of the split writes, the guard selecting a or b; queues are popped under every guard. -/
def execSel (f : FmtA) (s : State) : Host.Outcome State Fault Refusal :=
  issue s .both (fun c =>
    let ops := [op32 .int f.a, op32 .int f.b]
    orIllopnd (regOk c f.d.toNat && ops.all (Opnd.ok c)) (
      match readOps c c.p.mask ops with
      | .stop r => r
      | .got c' vs => .done (c'.setD f.d.toNat false c.p.mask (fun L => if inMask (c.act f.g) L then val vs 0 L else val vs 1 L))))

/-- LEA (R106): d pair := a pair + sext(b, 64). a is a register pair: any other specifier is no pair (notes/assumptions/13.md). -/
def execLea (f : FmtA) (s : State) : Host.Outcome State Fault Refusal :=
  issue s .accessOnly (fun c =>
    let ops := [op64 f.a, op32 .int f.b]
    orIllopnd (pairOk c f.d.toNat && decide (f.a.toNat < 0x60) && ops.all (Opnd.ok c)) (
      match readOps c (c.act f.g) ops with
      | .stop r => r
      | .got c' vs => .done (c'.setD f.d.toNat true (c.act f.g) (fun L => val vs 0 L + (loWord (val vs 1 L)).signExtend 64))))

/-- LEAS (R106): d pair := d pair + (sext(a, 64) << sh). -/
def execLeas (g : BitVec 4) (d : BitVec 6) (a : BitVec 7) (sh : BitVec 3) (s : State) : Host.Outcome State Fault Refusal :=
  laneForm s .accessOnly g d true [op32 .int a]
    (fun c L vs => c.w.v64 d.toNat L + ((loWord (val vs 0 L)).signExtend 64 <<< sh.toNat))

end Sys2Proof.Machine
end

