-- ==== Sys2Proof/Machine/Dispatch.lean ====
section
/-! DEFINITION. The dispatch of instructions and events: one arm for each constructor of Instr, each one direct call of its meaning. -/

namespace Sys2Proof.Machine

/-- The meaning of an instruction or event in a state. -/
def exec (i : Instr) (s : State) : Host.Outcome State Fault Refusal :=
  match i with
  | .iaddI32 f => Sys2Proof.Machine.execIaddI32 f s
  | .isubI32 f => Sys2Proof.Machine.execIsubI32 f s
  | .imulI32 f => Sys2Proof.Machine.execImulI32 f s
  | .imulhiI32 f => Sys2Proof.Machine.execImulhiI32 f s
  | .imulhiN32 f => Sys2Proof.Machine.execImulhiN32 f s
  | .imadI32 f => Sys2Proof.Machine.execImadI32 f s
  | .iaddI64 f => Sys2Proof.Machine.execIaddI64 f s
  | .isubI64 f => Sys2Proof.Machine.execIsubI64 f s
  | .iminI32 f => Sys2Proof.Machine.execIminI32 f s
  | .iminN32 f => Sys2Proof.Machine.execIminN32 f s
  | .imaxI32 f => Sys2Proof.Machine.execImaxI32 f s
  | .imaxN32 f => Sys2Proof.Machine.execImaxN32 f s
  | .iabsI32 f => Sys2Proof.Machine.execIabsI32 f s
  | .iaddsI32 f => Sys2Proof.Machine.execIaddsI32 f s
  | .isubsI32 f => Sys2Proof.Machine.execIsubsI32 f s
  | .idivN32 f => Sys2Proof.Machine.execIdivN32 f s
  | .and f => Sys2Proof.Machine.execAnd f s
  | .or f => Sys2Proof.Machine.execOr f s
  | .xor f => Sys2Proof.Machine.execXor f s
  | .andn f => Sys2Proof.Machine.execAndn f s
  | .not f => Sys2Proof.Machine.execNot f s
  | .shl f => Sys2Proof.Machine.execShl f s
  | .shrN32 f => Sys2Proof.Machine.execShrN32 f s
  | .shrI32 f => Sys2Proof.Machine.execShrI32 f s
  | .sel f => Sys2Proof.Machine.execSel f s
  | .popc f => Sys2Proof.Machine.execPopc f s
  | .clz f => Sys2Proof.Machine.execClz f s
  | .brev f => Sys2Proof.Machine.execBrev f s
  | .bfx f => Sys2Proof.Machine.execBfx f s
  | .bfi f => Sys2Proof.Machine.execBfi f s
  | .lea f => Sys2Proof.Machine.execLea f s
  | .leas g d a x => Sys2Proof.Machine.execLeas g d a x s
  | .faddF32 f => Sys2Proof.Machine.execFaddF32 f s
  | .fsubF32 f => Sys2Proof.Machine.execFsubF32 f s
  | .fmulF32 f => Sys2Proof.Machine.execFmulF32 f s
  | .ffmaF32 f => Sys2Proof.Machine.execFfmaF32 f s
  | .fminF32 f => Sys2Proof.Machine.execFminF32 f s
  | .fmaxF32 f => Sys2Proof.Machine.execFmaxF32 f s
  | .fabsF32 f => Sys2Proof.Machine.execFabsF32 f s
  | .fnegF32 f => Sys2Proof.Machine.execFnegF32 f s
  | .faddH2 f => Sys2Proof.Machine.execFaddH2 f s
  | .fmulH2 f => Sys2Proof.Machine.execFmulH2 f s
  | .ffmaH2 f => Sys2Proof.Machine.execFfmaH2 f s
  | .fminH2 f => Sys2Proof.Machine.execFminH2 f s
  | .fmaxH2 f => Sys2Proof.Machine.execFmaxH2 f s
  | .faddB2 f => Sys2Proof.Machine.execFaddB2 f s
  | .fmulB2 f => Sys2Proof.Machine.execFmulB2 f s
  | .ffmaB2 f => Sys2Proof.Machine.execFfmaB2 f s
  | .frcp f => Sys2Proof.Machine.execFrcp f s
  | .frsq f => Sys2Proof.Machine.execFrsq f s
  | .fsqrt f => Sys2Proof.Machine.execFsqrt f s
  | .fdiv f => Sys2Proof.Machine.execFdiv f s
  | .fexp2 f => Sys2Proof.Machine.execFexp2 f s
  | .flog2 f => Sys2Proof.Machine.execFlog2 f s
  | .fsinpi f => Sys2Proof.Machine.execFsinpi f s
  | .fcospi f => Sys2Proof.Machine.execFcospi f s
  | .ftanh f => Sys2Proof.Machine.execFtanh f s
  | .fscale f => Sys2Proof.Machine.execFscale f s
  | .frnd g d a m => Sys2Proof.Machine.execFrnd g d a m s
  | .fclass g p a m => Sys2Proof.Machine.execFclass g p a m s
  | .fdot2H f => Sys2Proof.Machine.execFdot2H f s
  | .fdot4E4 f => Sys2Proof.Machine.execFdot4E4 f s
  | .fdot4E5 f => Sys2Proof.Machine.execFdot4E5 f s
  | .keyf f => Sys2Proof.Machine.execKeyf f s
  | .icmpI32 f => Sys2Proof.Machine.execIcmpI32 f s
  | .icmpN32 f => Sys2Proof.Machine.execIcmpN32 f s
  | .icmpI64 f => Sys2Proof.Machine.execIcmpI64 f s
  | .fcmpF32 f => Sys2Proof.Machine.execFcmpF32 f s
  | .fcmpH g x a h c p => Sys2Proof.Machine.execFcmpH g x a h c p s
  | .plop g d a b t => Sys2Proof.Machine.execPlop g d a b t s
  | .ballot f => Sys2Proof.Machine.execBallot f s
  | .vote g p a k => Sys2Proof.Machine.execVote g p a k s
  | .lpick f => Sys2Proof.Machine.execLpick f s
  | .lmirr f => Sys2Proof.Machine.execLmirr f s
  | .lrot f => Sys2Proof.Machine.execLrot f s
  | .lshift f => Sys2Proof.Machine.execLshift f s
  | .lfold g d a o => Sys2Proof.Machine.execLfold g d a o s
  | .lpeer f => Sys2Proof.Machine.execLpeer f s
  | .swr g x a => Sys2Proof.Machine.execSwr g x a s
  | .mov f => Sys2Proof.Machine.execMov f s
  | .mov64 f => Sys2Proof.Machine.execMov64 f s
  | .rdlane g x a b => Sys2Proof.Machine.execRdlane g x a b s
  | .cvt g d a x m c => Sys2Proof.Machine.execCvt g d a x m c s
  | .cvtpkH2 f => Sys2Proof.Machine.execCvtpkH2 f s
  | .cvtpkB2 f => Sys2Proof.Machine.execCvtpkB2 f s
  | .cvtpkE4 f => Sys2Proof.Machine.execCvtpkE4 f s
  | .cvtpkE5 f => Sys2Proof.Machine.execCvtpkE5 f s
  | .qpk4 f => Sys2Proof.Machine.execQpk4 f s
  | .qupk4 g d a y => Sys2Proof.Machine.execQupk4 g d a y s
  | .qscale f => Sys2Proof.Machine.execQscale f s
  | .requant f => Sys2Proof.Machine.execRequant f s
  | .qpush g q a => Sys2Proof.Machine.execQpush g q a s
  | .qpop g d q e p => Sys2Proof.Machine.execQpop g d q e p s
  | .qtry g d q p => Sys2Proof.Machine.execQtry g d q p s
  | .qpeek g d q x => Sys2Proof.Machine.execQpeek g d q x s
  | .qskip g q n => Sys2Proof.Machine.execQskip g q n s
  | .qflush g q e => Sys2Proof.Machine.execQflush g q e s
  | .qstat g d q x => Sys2Proof.Machine.execQstat g d q x s
  | .qeos g q => Sys2Proof.Machine.execQeos g q s
  | .qeosTest g q p => Sys2Proof.Machine.execQeosTest g q p s
  | .rwait f => Sys2Proof.Machine.execRwait f s
  | .rrel f => Sys2Proof.Machine.execRrel f s
  | .ldr f => Sys2Proof.Machine.execLdr f s
  | .str f => Sys2Proof.Machine.execStr f s
  | .rset f => Sys2Proof.Machine.execRset f s
  | .ldB8n f => Sys2Proof.Machine.execLdB8n f s
  | .ldB8i f => Sys2Proof.Machine.execLdB8i f s
  | .ldB16n f => Sys2Proof.Machine.execLdB16n f s
  | .ldB16i f => Sys2Proof.Machine.execLdB16i f s
  | .ldB32 f => Sys2Proof.Machine.execLdB32 f s
  | .ldB64 f => Sys2Proof.Machine.execLdB64 f s
  | .ldB128 f => Sys2Proof.Machine.execLdB128 f s
  | .stB8 f => Sys2Proof.Machine.execStB8 f s
  | .stB16 f => Sys2Proof.Machine.execStB16 f s
  | .stB32 f => Sys2Proof.Machine.execStB32 f s
  | .stB64 f => Sys2Proof.Machine.execStB64 f s
  | .stB128 f => Sys2Proof.Machine.execStB128 f s
  | .ldqB32 f => Sys2Proof.Machine.execLdqB32 f s
  | .ldqB64 f => Sys2Proof.Machine.execLdqB64 f s
  | .ldqB16 f => Sys2Proof.Machine.execLdqB16 f s
  | .stqB32 f => Sys2Proof.Machine.execStqB32 f s
  | .stqB64 f => Sys2Proof.Machine.execStqB64 f s
  | .stqB16 f => Sys2Proof.Machine.execStqB16 f s
  | .ldfe g d a x => Sys2Proof.Machine.execLdfe g d a x s
  | .stfe g d a x => Sys2Proof.Machine.execStfe g d a x s
  | .pref g a c => Sys2Proof.Machine.execPref g a c s
  | .discard g d a x => Sys2Proof.Machine.execDiscard g d a x s
  | .wback g d a x c => Sys2Proof.Machine.execWback g d a x c s
  | .fence g o x => Sys2Proof.Machine.execFence g o x s
  | .stream g y => Sys2Proof.Machine.execStream g y s
  | .aaddI32 f => Sys2Proof.Machine.execAaddI32 f s
  | .aaddI64 f => Sys2Proof.Machine.execAaddI64 f s
  | .aaddF32 f => Sys2Proof.Machine.execAaddF32 f s
  | .aaddB2 f => Sys2Proof.Machine.execAaddB2 f s
  | .aminI32 f => Sys2Proof.Machine.execAminI32 f s
  | .aminN32 f => Sys2Proof.Machine.execAminN32 f s
  | .amaxI32 f => Sys2Proof.Machine.execAmaxI32 f s
  | .amaxN32 f => Sys2Proof.Machine.execAmaxN32 f s
  | .aand f => Sys2Proof.Machine.execAand f s
  | .aor f => Sys2Proof.Machine.execAor f s
  | .axor f => Sys2Proof.Machine.execAxor f s
  | .axchB32 f => Sys2Proof.Machine.execAxchB32 f s
  | .axchB64 f => Sys2Proof.Machine.execAxchB64 f s
  | .acasB32 f => Sys2Proof.Machine.execAcasB32 f s
  | .acasB64 f => Sys2Proof.Machine.execAcasB64 f s
  | .aincb f => Sys2Proof.Machine.execAincb f s
  | .bra f => Sys2Proof.Machine.execBra f s
  | .bru f => Sys2Proof.Machine.execBru f s
  | .call f => Sys2Proof.Machine.execCall f s
  | .ret g => Sys2Proof.Machine.execRet g s
  | .jmpi g a => Sys2Proof.Machine.execJmpi g a s
  | .mergeat f => Sys2Proof.Machine.execMergeat f s
  | .merge g => Sys2Proof.Machine.execMerge g s
  | .yield g => Sys2Proof.Machine.execYield g s
  | .exit g => Sys2Proof.Machine.execExit g s
  | .bar g x y => Sys2Proof.Machine.execBar g x y s
  | .bara g x y => Sys2Proof.Machine.execBara g x y s
  | .cbar g => Sys2Proof.Machine.execCbar g s
  | .sleep g a => Sys2Proof.Machine.execSleep g a s
  | .nop g => Sys2Proof.Machine.execNop g s
  | .splitq g d => Sys2Proof.Machine.execSplitq g d s
  | .gang f => Sys2Proof.Machine.execGang f s
  | .mma f => Sys2Proof.Machine.execMma f s
  | .mmax f => Sys2Proof.Machine.execMmax f s
  | .mxt f => Sys2Proof.Machine.execMxt f s
  | .mxp f => Sys2Proof.Machine.execMxp f s
  | .mxs f => Sys2Proof.Machine.execMxs f s
  | .czero g f c => Sys2Proof.Machine.execCzero g f c s
  | .cread f => Sys2Proof.Machine.execCread f s
  | .cwrite f => Sys2Proof.Machine.execCwrite f s
  | .cdrain f => Sys2Proof.Machine.execCdrain f s
  | .mwait g l f c => Sys2Proof.Machine.execMwait g l f c s
  | .ofence g => Sys2Proof.Machine.execOfence g s
  | .tkpass g => Sys2Proof.Machine.execTkpass g s
  | .tkwait g => Sys2Proof.Machine.execTkwait g s
  | .planes f => Sys2Proof.Machine.execPlanes f s
  | .slay g l a => Sys2Proof.Machine.execSlay g l a s
  | .sfill g e l a => Sys2Proof.Machine.execSfill g e l a s
  | .sdrain g e l a => Sys2Proof.Machine.execSdrain g e l a s
  | .swait g m => Sys2Proof.Machine.execSwait g m s
  | .regroup f => Sys2Proof.Machine.execRegroup f s
  | .ungroup f => Sys2Proof.Machine.execUngroup f s
  | .spawn g a => Sys2Proof.Machine.execSpawn g a s
  | .tsig f => Sys2Proof.Machine.execTsig f s
  | .twaitFull f => Sys2Proof.Machine.execTwaitFull f s
  | .twaitEmpty f => Sys2Proof.Machine.execTwaitEmpty f s
  | .preempt g y => Sys2Proof.Machine.execPreempt g y s
  | .rldB32 f => Sys2Proof.Machine.execRldB32 f s
  | .rldB64 f => Sys2Proof.Machine.execRldB64 f s
  | .rstB32 f => Sys2Proof.Machine.execRstB32 f s
  | .rstB64 f => Sys2Proof.Machine.execRstB64 f s
  | .raaddI64 f => Sys2Proof.Machine.execRaaddI64 f s
  | .racasB64 f => Sys2Proof.Machine.execRacasB64 f s
  | .rldqB32 g q a p => Sys2Proof.Machine.execRldqB32 g q a p s
  | .rldqB64 g q a p => Sys2Proof.Machine.execRldqB64 g q a p s
  | .xldq g q a h => Sys2Proof.Machine.execXldq g q a h s
  | .mcst f => Sys2Proof.Machine.execMcst f s
  | .coll f => Sys2Proof.Machine.execColl f s
  | .cwait f => Sys2Proof.Machine.execCwait f s
  | .viewq f => Sys2Proof.Machine.execViewq f s
  | .rfence g => Sys2Proof.Machine.execRfence g s
  | .viewctlJoin f => Sys2Proof.Machine.execViewctlJoin f s
  | .viewctlLeave f => Sys2Proof.Machine.execViewctlLeave f s
  | .viewctlInit g d a b => Sys2Proof.Machine.execViewctlInit g d a b s
  | .trap g a => Sys2Proof.Machine.execTrap g a s
  | .bkpt g => Sys2Proof.Machine.execBkpt g s
  | .rdsr g d m => Sys2Proof.Machine.execRdsr g d m s
  | .wrsr g a m => Sys2Proof.Machine.execWrsr g a m s
  | .rett g => Sys2Proof.Machine.execRett g s
  | .clock g d => Sys2Proof.Machine.execClock g d s
  | .egrel f => Sys2Proof.Machine.execEgrel f s
  | .tlbinvJob g => Sys2Proof.Machine.execTlbinvJob g s
  | .tlbinvPage g a => Sys2Proof.Machine.execTlbinvPage g a s
  | .tlbinvAll g => Sys2Proof.Machine.execTlbinvAll g s
  | .icinvCore g => Sys2Proof.Machine.execIcinvCore g s
  | .icinvDevice g => Sys2Proof.Machine.execIcinvDevice g s
  | .haltt g => Sys2Proof.Machine.execHaltt g s
  | .clause w a b p v => Sys2Proof.Machine.execClause w a b p v s
  | .immL p => Sys2Proof.Machine.execImmL p s
  | .immH p => Sys2Proof.Machine.execImmH p s
  | .reservedOpcode word => Sys2Proof.Machine.execReservedOpcode word s
  | .splitRotation t w slot => Sys2Proof.Machine.execSplitRotation t w slot s
  | .sleepWake t w seq => Sys2Proof.Machine.execSleepWake t w seq s
  | .loadComplete op => Sys2Proof.Machine.execLoadComplete op s
  | .storePerformed op => Sys2Proof.Machine.execStorePerformed op s
  | .ldqLanding t q slot lane => Sys2Proof.Machine.execLdqLanding t q slot lane s
  | .qdeadTimeout t => Sys2Proof.Machine.execQdeadTimeout t s
  | .pageRequestEnter core => Sys2Proof.Machine.execPageRequestEnter core s
  | .pageAnswer a => Sys2Proof.Machine.execPageAnswer a s
  | .boundaryMove core => Sys2Proof.Machine.execBoundaryMove core s
  | .eccUncorrectable site => Sys2Proof.Machine.execEccUncorrectable site s
  | .streamStoreRelease op => Sys2Proof.Machine.execStreamStoreRelease op s
  | .matrixGrant cluster => Sys2Proof.Machine.execMatrixGrant cluster s
  | .passComplete cluster req => Sys2Proof.Machine.execPassComplete cluster req s
  | .runnelCommandStart core engine => Sys2Proof.Machine.execRunnelCommandStart core engine s
  | .fillGranuleLand core engine granule => Sys2Proof.Machine.execFillGranuleLand core engine granule s
  | .sdrainWritesDone core engine => Sys2Proof.Machine.execSdrainWritesDone core engine s
  | .cdrainGranuleWrite op granule => Sys2Proof.Machine.execCdrainGranuleWrite op granule s
  | .cbarSwap t => Sys2Proof.Machine.execCbarSwap t s
  | .exchangeStoreLand op => Sys2Proof.Machine.execExchangeStoreLand op s
  | .columnGroupRepair cluster unit => Sys2Proof.Machine.execColumnGroupRepair cluster unit s
  | .taskPublish task => Sys2Proof.Machine.execTaskPublish task s
  | .sluiceWriteReport task => Sys2Proof.Machine.execSluiceWriteReport task s
  | .taskDispatch task => Sys2Proof.Machine.execTaskDispatch task s
  | .placementWindow task => Sys2Proof.Machine.execPlacementWindow task s
  | .taskComplete task => Sys2Proof.Machine.execTaskComplete task s
  | .forcedSaveBound t => Sys2Proof.Machine.execForcedSaveBound t s
  | .saveStart t => Sys2Proof.Machine.execSaveStart t s
  | .frameComplete t => Sys2Proof.Machine.execFrameComplete t s
  | .teamRestore t => Sys2Proof.Machine.execTeamRestore t s
  | .jobStop job => Sys2Proof.Machine.execJobStop job s
  | .trapDelivery t => Sys2Proof.Machine.execTrapDelivery t s
  | .remoteFaultDelivery t w => Sys2Proof.Machine.execRemoteFaultDelivery t w s
  | .mcastpartDelivery t w => Sys2Proof.Machine.execMcastpartDelivery t w s
  | .instructionFetch t w slot => Sys2Proof.Machine.execInstructionFetch t w slot s
  | .coreRetire core savable => Sys2Proof.Machine.execCoreRetire core savable s
  | .hbmChannelSpare stack channel => Sys2Proof.Machine.execHbmChannelSpare stack channel s
  | .hostMemoryAccess a => Sys2Proof.Machine.execHostMemoryAccess a s
  | .egressWindowRead off len => Sys2Proof.Machine.execEgressWindowRead off len s
  | .bar0RegisterWrite off val => Sys2Proof.Machine.execBar0RegisterWrite off val s
  | .pwrstateWrite val => Sys2Proof.Machine.execPwrstateWrite val s
  | .tlbcmdDropJob job => Sys2Proof.Machine.execTlbcmdDropJob job s
  | .tlbcmdDropAll => Sys2Proof.Machine.execTlbcmdDropAll s
  | .jobslotValidate j val => Sys2Proof.Machine.execJobslotValidate j val s
  | .jobslotInvalidate j => Sys2Proof.Machine.execJobslotInvalidate j s
  | .cmdqStart q => Sys2Proof.Machine.execCmdqStart q s
  | .cmdqResume q => Sys2Proof.Machine.execCmdqResume q s
  | .cmdqStop q => Sys2Proof.Machine.execCmdqStop q s
  | .cmdqNotify q tail ro => Sys2Proof.Machine.execCmdqNotify q tail ro s
  | .phaseReread q => Sys2Proof.Machine.execPhaseReread q s
  | .cmdPublish q => Sys2Proof.Machine.execCmdPublish q s
  | .cmdStopJob q => Sys2Proof.Machine.execCmdStopJob q s
  | .cmdResumeJob q => Sys2Proof.Machine.execCmdResumeJob q s
  | .cmdDiscardJob q => Sys2Proof.Machine.execCmdDiscardJob q s
  | .keyInstall k => Sys2Proof.Machine.execKeyInstall k s
  | .keyEmpty k => Sys2Proof.Machine.execKeyEmpty k s
  | .egringOpen e => Sys2Proof.Machine.execEgringOpen e s
  | .egringClose e => Sys2Proof.Machine.execEgringClose e s
  | .egringHcurWrite e val => Sys2Proof.Machine.execEgringHcurWrite e val s
  | .dbgReqOff => Sys2Proof.Machine.execDbgReqOff s
  | .dbgReqObserve => Sys2Proof.Machine.execDbgReqObserve s
  | .dbgReqHalt => Sys2Proof.Machine.execDbgReqHalt s
  | .dbghalt job => Sys2Proof.Machine.execDbghalt job s
  | .dbgresume job => Sys2Proof.Machine.execDbgresume job s
  | .lifecycleOwn key => Sys2Proof.Machine.execLifecycleOwn key s
  | .lifecycleLock sig => Sys2Proof.Machine.execLifecycleLock sig s
  | .lifecycleUnlock sig => Sys2Proof.Machine.execLifecycleUnlock sig s
  | .attestationReport nonce => Sys2Proof.Machine.execAttestationReport nonce s
  | .boot img => Sys2Proof.Machine.execBoot img s
  | .moduleReset => Sys2Proof.Machine.execModuleReset s
  | .selfTestDone fn pass => Sys2Proof.Machine.execSelfTestDone fn pass s
  | .idleEntry => Sys2Proof.Machine.execIdleEntry s
  | .idleWake => Sys2Proof.Machine.execIdleWake s
  | .powerOff => Sys2Proof.Machine.execPowerOff s
  | .thermalGate celsius => Sys2Proof.Machine.execThermalGate celsius s
  | .thermalTrip celsius => Sys2Proof.Machine.execThermalTrip celsius s
  | .portTraining port peer => Sys2Proof.Machine.execPortTraining port peer s
  | .linkRekey port => Sys2Proof.Machine.execLinkRekey port s
  | .windowReceive port w => Sys2Proof.Machine.execWindowReceive port w s
  | .windowPadTimeout port => Sys2Proof.Machine.execWindowPadTimeout port s
  | .wavelengthSpare port transmit => Sys2Proof.Machine.execWavelengthSpare port transmit s
  | .rankDownNotice rank => Sys2Proof.Machine.execRankDownNotice rank s
  | .cgroupWrite index val => Sys2Proof.Machine.execCgroupWrite index val s
  | .remoteRequest p => Sys2Proof.Machine.execRemoteRequest p s
  | .remoteResponse r => Sys2Proof.Machine.execRemoteResponse r s
  | .remoteRequestLost req => Sys2Proof.Machine.execRemoteRequestLost req s
  | .multicastComplete op => Sys2Proof.Machine.execMulticastComplete op s
  | .ueRmaRequest r => Sys2Proof.Machine.execUeRmaRequest r s
  | .uewinOpen w => Sys2Proof.Machine.execUewinOpen w s
  | .uewinClose w => Sys2Proof.Machine.execUewinClose w s
  | .ueReadResponse req r => Sys2Proof.Machine.execUeReadResponse req r s
  | .collectivePacket p => Sys2Proof.Machine.execCollectivePacket p s
  | .cstepTimeout coll rank => Sys2Proof.Machine.execCstepTimeout coll rank s
  | .suspect m => Sys2Proof.Machine.execSuspect m s
  | .propose m => Sys2Proof.Machine.execPropose m s
  | .accept m => Sys2Proof.Machine.execAccept m s
  | .commit m => Sys2Proof.Machine.execCommit m s
  | .agreeTimeout group => Sys2Proof.Machine.execAgreeTimeout group s
  | .joinRequest m => Sys2Proof.Machine.execJoinRequest m s
  | .collectiveComplete coll => Sys2Proof.Machine.execCollectiveComplete coll s
  | .initAgreement group peers => Sys2Proof.Machine.execInitAgreement group peers s
  | .darkLink port => Sys2Proof.Machine.execDarkLink port s
  | .packetDeliveryContextFail req => Sys2Proof.Machine.execPacketDeliveryContextFail req s

end Sys2Proof.Machine
end

