-- ==== Sys2Proof/Machine/Evict.lean ====
section
/-! DEFINITION. What the caches write back by themselves when they are full (spec/00 R2, spec/05 R162, spec/11 R324, R327). -/

namespace Sys2Proof.Machine

/-- The oldest of a core's stores that may go to its home slice does, n at most, until L1 has room for the lines of those left (R162, R163). -/
def drainL1 (core : Nat) : Nat → State → State
  | 0, s => s
  | n + 1, s =>
    let l := (s.core core).stores
    if l1Dirty s core ≤ l1Lines s core then s
    else match l.find? (fun st => streamTurn l st && olderFirst l st) with
      | none => s
      | some st => drainL1 core n (opEnded (performStore s core st) st.team)

/-- Every core's L1 within its size. -/
def evictL1 (s : State) : State := (List.range s.cores.length).foldl (fun s c => drainL1 c (s.core c).stores.length s) s

/-- Line frames that a slice still has (R2, R327). -/
def sliceRoom (s : State) (h : Nat) : Nat := Config.sliceLines - (cellsGet s.die.l2retired h).getD 0

/-- The home slice of a tagged line. -/
def tagSlice (tag : Nat) : Nat := homeSlice (tag % 2 ^ 33)

/-- A slice whose dirty lines exceed its frames writes back the lowest of them (the manual gives no replacement policy: DESIGN CHOICE, notes/assumptions/43.md). -/
def evictSlice (s : State) (h : Nat) : State :=
  let l := (dirtyLines s).filter (fun t => tagSlice t == h)
  (l.take (l.length - sliceRoom s h)).foldl writeBackLine s

/-- Every slice of L2 within its 2 MiB. Fewer dirty bytes than any slice has frames cannot exceed one. -/
def evictL2 (s : State) : State :=
  if s.die.l2.length ≤ Config.sliceLines - 64 then s else (List.range 72).foldl evictSlice s

end Sys2Proof.Machine
end

