-- ==== Sys2Proof/Machine/Schedule.lean ====
section
/-! DEFINITION. Which agent moves next (notes/assumptions/2.md): the head of the agenda, or by default the oldest work of the device, then the live slots in turn. -/

namespace Sys2Proof.Machine

/-- Something the device may do by itself: the meaning of one event row of the table, its fields given. -/
abbrev Event := State → Host.Outcome State Fault Refusal

/-- Events of operations in flight: matrix passes, loads, stores, drains, engine commands, queue lanes, the device's own remote requests, multicasts, collectives. -/
def operationEvents (s : State) : List Event :=
  let cores := (List.range s.cores.length).zip s.cores
  let clusters := (List.range s.clusters.length).zip s.clusters
  s.die.loads.map (fun l => execLoadComplete l.op) ++
    cores.flatMap (fun c => c.2.stores.map (fun x => if x.stream.isSome then execStreamStoreRelease x.op else execStorePerformed x.op)) ++
    s.die.exStores.map (fun x => execExchangeStoreLand x.op) ++
    s.die.drains.flatMap (fun d => (d.granules.take 1).map (fun g => execCdrainGranuleWrite d.op g.1)) ++
    clusters.flatMap (fun k => k.2.passes.map (fun q => execPassComplete k.1 q.id) ++ (if k.2.table.isEmpty then [] else [execMatrixGrant k.1])) ++
    cores.flatMap (fun c => ((List.range c.2.runnels.length).zip c.2.runnels).flatMap (fun r => match r.2.fifo with
      | [] => []
      | x :: _ => (x.granules.take 1).map (fun g => execFillGranuleLand c.1 r.1 g.1) ++
          [execSdrainWritesDone c.1 r.1, execRunnelCommandStart c.1 r.1])) ++
    s.teams.flatMap (fun t => t.queues.flatMap (fun q => ((List.range q.entries.length).zip q.entries).flatMap (fun e =>
      ((List.range e.2.lanes.length).zip e.2.lanes).filterMap (fun l =>
        if l.2.st = .refetch ∨ (l.2.st = .inflight ∧ l.2.req = none) then some (execLdqLanding t.id q.num e.1 l.1) else none)))) ++
    cores.flatMap (fun c => (c.2.remote.filter (fun r => r.peer == ownRank s && (match r.kind with | .ue _ _ => false | _ => true))).map
      (fun r => execRemoteRequest (packetFor s r))) ++
    (fetchers s).map (fun x => (fun s => .next (fetchArrives x.1 x.2 s) : Event)) ++
    s.fab.mcasts.map (fun m => execMulticastComplete m.op) ++
    s.fab.groups.filterMap (fun g => if g.initDigest.isSome then some (execInitAgreement g.num []) else none) ++
    s.fab.colls.map (fun c => execCollectiveComplete c.id) ++
    (s.teams.filter (fun t => !(launchCbar s t.ident.launch).pending.isEmpty)).map (fun t => execCbarSwap t.id)

/-- Events of the dispatcher and of Speedwell. -/
def dispatcherEvents (s : State) : List Event :=
  let tasks := sortBy servedBefore s.die.tasks
  let cores := (List.range s.cores.length).zip s.cores
  s.die.tasks.filterMap (fun t => if t.st = .held then some (execTaskPublish t.id) else none) ++
    s.die.tasks.filterMap (fun t => if t.st = .waiting then some (execSluiceWriteReport t.id) else none) ++
    tasks.map (fun t => execTaskDispatch t.id) ++ tasks.map (fun t => execTaskComplete t.id) ++
    s.die.stoppedJobs.map (fun j => execJobStop j) ++
    s.teams.flatMap (fun t => match t.status with
      | .resident => if t.save.request.isSome then [execSaveStart t.id, execForcedSaveBound t.id] else []
      | .saving => [execFrameComplete t.id]
      | .restoring => [execTeamRestore t.id]
      | _ => []) ++
    cores.filterMap (fun c => if c.2.raising.isSome then some (execBoundaryMove c.1) else none) ++
    (tasks.filter (fun t => t.dispatched)).map (fun t => execPlacementWindow t.id) ++
    cores.filterMap (fun c => if c.2.waiters.isEmpty then none else some (execPageRequestEnter c.1))

/-- Events of the command queues and of time: a header found unfit, a bound passed. -/
def timedEvents (s : State) : List Event :=
  s.pkg.cmdqs.flatMap (fun x => [execCmdPublish x.num, execCmdStopJob x.num, execCmdResumeJob x.num, execCmdDiscardJob x.num, execPhaseReread x.num]) ++
    (s.teams.filter (fun t => decide (Config.qdeadCycles ≤ t.save.qdead))).map (fun t => execQdeadTimeout t.id) ++
    s.cores.flatMap (fun c => c.remote.map (fun r => execRemoteRequestLost r.id)) ++
    s.fab.groups.map (fun g => execAgreeTimeout g.num) ++
    s.fab.colls.flatMap (fun c => (membersOf c.members).map (fun r => execCstepTimeout c.id r)) ++
    (s.fab.ports.filter (fun p => owesWindow s p.1 p.2)).map (fun p => execWindowPadTimeout p.1) ++
    [execIdleEntry]

/-- The first event of a list that changes something: the state after it. -/
def firstEvent (s : State) : List Event → Option State
  | [] => none
  | e :: r =>
    match e s with
    | .next s' => if s' = s then firstEvent s r else some s'
    | _ => firstEvent s r

/-- What the device does by itself when nothing else is chosen: the state after the first of its events that is enabled. -/
def internalEvent (s : State) : Option State :=
  firstEvent s (operationEvents s ++ dispatcherEvents s ++ timedEvents s)

/-- The default choice when the agenda is empty. -/
def defaultTurn (run : Instr → State → Host.Outcome State Fault Refusal) (s : State) : Host.Outcome State Fault Refusal :=
  match midUnit s with
  | some (t, w, i) => issueSlot run s t w i
  | none =>
    match internalEvent s with
    | some s' => .next s'
    | none =>
      let l := allSlots s
      match l[s.rr % l.length]? with
      | some (t, w, i) => issueSlot run { s with rr := s.rr + 1 } t w i
      | none => .next s

/-- One turn. -/
def takeTurn (run : Instr → State → Host.Outcome State Fault Refusal) (s : State) : Turn → Host.Outcome State Fault Refusal
  | .event i => run i s
  | .corrected e => .next (correctError e s)
  | .issue t w i => issueSlot run s t w i
  | .issueLate t w i => issueSlot run { s with late := true } t w i
  | .fetchMiss t w i => missSlot run s t w i
  | .pair t w => issuePair run s t w
  | .evict tag => .next (writeBackLine s tag)
  | .tick n => .next (cycles s n)

/-- After a turn taken in s0 no split is named as issuing and no store is late any more by its issue, held effects that are due take place, splits whose condition now holds are woken, free values are fresh again, memory holds the split state that lies there, and no cache holds more than it has room for. -/
def settle (run : Instr → State → Host.Outcome State Fault Refusal) (s0 s : State) : State :=
  let s := { s with cur := none, late := false, freeTag := s.freeTag + 1 }
  evictL2 (evictL1 (mirror s0 (wakeBlocked run (releaseAll s))))

/-- One step over a dispatch of meanings: a cycle of the clock, then the next turn. -/
def stepWith (run : Instr → State → Host.Outcome State Fault Refusal) (s : State) : Host.Outcome State Fault Refusal :=
  let s := cycles { s with cur := none } 1
  let o := match s.agenda with
    | turn :: rest => takeTurn run { s with agenda := rest } turn
    | [] => defaultTurn run s
  match o with
  | .next s' => .next (settle run s s')
  | o => o

end Sys2Proof.Machine
end

