-- ==== Sys2Proof/Machine/Step.lean ====
section
/-! DEFINITION. The step of the machine. -/

namespace Sys2Proof.Machine

/-- One step: a cycle of the clock, then the next turn (Machine/Schedule.lean), instruction words and events run by exec. -/
def step (s : State) : Host.Outcome State Fault Refusal := stepWith exec s

/-- The state in which the next step fetches and runs the given instruction (notes/assumptions/10.md). -/
def State.withFetchWord (s : State) (nbits w : Nat) : State := installWord s nbits w

end Sys2Proof.Machine
end

