-- ==== Sys2Proof/Safety.lean ====
section
/-! DEFINITION. What a safe run is, and the terms the statements are made in: when a split may issue, and what the machine is after an instruction has completed. -/

namespace Sys2Proof.Machine

/-- A run of k steps that ends in no fault and no refusal. -/
def safeRun (k : Nat) (s : State) : Prop := ∃ s', Sys2Proof.core.run k s = .next s'

/-- The split that State.cur names stands in the context c, and nothing has overwritten its team's spill area or frame (spec/02 R65, spec/11 R315). -/
def Issuing (s : State) (c : Ctx) : Prop := getCtx s = some c ∧ c.t.save.corrupt = false

/-- The split that State.cur names may issue an instruction of the roles (spec/01 R34, R35). -/
def Issues (s : State) (roles : Roles) (c : Ctx) : Prop := Issuing s c ∧ roles.allows c.w.role = true

/-- Everything a warp holds but its splits, its live slots and its halt record: registers, predicates, flags, EXITED and the rest of spec/02 R56. -/
def Warp.contents (w : Warp) : Warp := { w with table := [], spilled := [], slots := [], halt := { slots := [], setA := 0, setB := 0, arm := false, mpc := 0 } }

/-- Everything a split holds but whether it is live, why and since when it is not: SEQ, parent, the first word of the unit it stands in, MPC, MASK, ARRIVED, ARM, clause header, latch and announcement (spec/02 R58-R60). -/
def Split.record (p : Split) : Split := { p with pc := p.unitPc, immRun := 0, st := .parked, blk := 0, wake := none, since := 0 }

/-- Everything a team holds but its warps and the count of units issued in a skid (spec/11 R299). -/
def Team.contents (t : Team) : Team :=
  { t with warps := [], trap := { t.trap with skid := none, regs := { t.trap.regs with skid := 0 } } }

/-- The context with its split at npc, its unit complete. -/
def Ctx.landed (c : Ctx) (npc : DWord) : Ctx := { c with p := { c.p with pc := npc, immRun := 0, blk := 0, arrival := none } }

/-- t is the machine after the issuing split of the context c has completed its instruction with the effects that c holds and goes on at npc. Outside the team only what c.s holds has changed; no other team has; the team holds what c.t holds, the warp what c.w holds, every other warp of the team what it held. Every split of every warp of the team has the record it had, the issuing split standing at npc; only which of them are live can change (R69, R70). Halt records change only in a skid. While no split of the warp waits for a live slot, the issuing split is as it was but for its place. -/
structure After (c : Ctx) (npc : DWord) (t : State) : Prop where
  rest : t = { c.s with teams := t.teams }
  others : ∀ id, id ≠ c.t.id → t.team? id = c.s.team? id
  team : ∃ u, t.team? c.t.id = some u ∧ u.contents = c.t.contents ∧
    (∀ k : Nat, (u.warps[k]?).map Warp.contents = ((c.landed npc).team.warps[k]?).map Warp.contents) ∧
    (c.t.trap.handler = none → ∀ k : Nat, (u.warps[k]?).map Warp.halt = ((c.landed npc).team.warps[k]?).map Warp.halt) ∧
    (∀ (k : Nat) (v : Warp), (c.landed npc).team.warps[k]? = some v → (v.splits.map Split.seq).Nodup →
      ∃ w : Warp, u.warps[k]? = some w ∧ (w.splits.map Split.record).Perm (v.splits.map Split.record)) ∧
    (c.w.waiting = [] → c.p.st ≠ .parked →
      ∃ w, u.warps[c.wi]? = some w ∧ findSplit w.table c.p.seq = some (c.landed npc).p)

/-- exec completes an instruction with the effects that c holds, and its split goes on at npc. -/
def Completes (i : Instr) (s : State) (c : Ctx) (npc : DWord) : Prop := ∃ t, exec i s = .next t ∧ After c npc t

/-- exec ends an instruction by taking a trap in its split before any effect, with TRAPPC the unit it stands at (spec/11 R298, R302). -/
def Traps (i : Instr) (s : State) (c : Ctx) (x : TrapInfo) : Prop := exec i s = .next (takeTrap c x c.p.unitPc)

/-- The issuing split may issue, every operand may be named, and the operands have been read for the lanes that the guard leaves (spec/01 R10-R18): c' is the context after the pops, vs one function of the lane for each operand. -/
def Reads (s : State) (roles : Roles) (c : Ctx) (g : BitVec 4) (ops : List Opnd) (c' : Ctx) (vs : List (Nat → DWord)) : Prop :=
  Issues s roles c ∧ (∀ o ∈ ops, o.ok c = true) ∧ readOps c (c.act g) ops = .got c' vs

/-- A context whose warp has changed. -/
def Ctx.withW (c : Ctx) (w : Warp) : Ctx := { c with w := w }

/-- The trap of a cause that reports no address and no lane. -/
def plain (cause : BitVec 8) : TrapInfo := { cause := cause, lo := 0, hi := 0, lane := 0 }

/-- The context of a split that continues whole at a target: the clause header stands on falling through and ends otherwise (R22, R62). -/
def goes (c : Ctx) (pc : DWord) : Ctx :=
  { c with p := { c.p with pc := pc, setA := if pc = c.p.pc + 4 then c.p.setA else 15, setB := if pc = c.p.pc + 4 then c.p.setB else 15 } }

/-- PC + 4 × OFF (R6). -/
def target (c : Ctx) (off : BitVec 20) : DWord := c.p.pc + (off.signExtend 64 <<< 2)

end Sys2Proof.Machine
end

