-- ==== Sys2Proof/Laws/PerInstr.lean ====
section
/-! SUPPORT. Statements for all instructions, one lemma for each constructor. -/

namespace Sys2Proof.Laws.Words

/-- The decoder reads a well-formed instruction back from its word (spec/01 R4-R8, R38). -/
def Statement (i : Instr) : Prop := ∀ w : Word, i.wellFormed = true → encode i = some w → decodeWord w = i

/-! ## Fields of a word -/

/-- A field above the low part of a concatenation lies in its high part. -/
theorem skip {n m : Nat} (lo len k : Nat) (x : BitVec n) (y : BitVec m) (h : lo = m + k) : (x ++ y).extractLsb' lo len = x.extractLsb' k len := by
  subst h
  apply BitVec.eq_of_getLsbD_eq
  intro i hi
  simp [BitVec.getLsbD_append, hi, show ¬ (m + k + i < m) by omega]
  congr 1
  omega

/-- The low field of a concatenation is its low part. -/
theorem take {n m : Nat} (x : BitVec n) (y : BitVec m) : (x ++ y).extractLsb' 0 m = y := by
  apply BitVec.eq_of_getLsbD_eq
  intro i hi
  simp [BitVec.getLsbD_append, hi]

/-- A field of a field is a field of the word. -/
theorem sub_fld (w : Word) (lo n k m : Nat) (h : k + m ≤ n ∧ n ≤ 32) : fld ((fld w lo n).setWidth 32) k m = fld w (lo + k) m := by
  apply BitVec.eq_of_getLsbD_eq
  intro i hi
  simp [fld, hi, show k + i < 32 by omega, show k + i < n by omega, Nat.add_assoc]

/-- The two halves of the opcode. -/
theorem op_of {w : Word} {o : BitVec 8} (h : fld w 24 8 = o) : fld w 28 4 = fld (o.setWidth 32) 4 4 ∧ fld w 24 4 = fld (o.setWidth 32) 0 4 := by
  subst h
  exact ⟨(sub_fld w 24 8 4 4 (by decide)).symm, (sub_fld w 24 8 0 4 (by decide)).symm⟩

/-- Bit 0 of a word whose low bits are zero. -/
theorem low_bit (w : Word) (n : Nat) (hn : 1 ≤ n ∧ n ≤ 32) (h : fld w 0 n = 0) : fld w 0 1 = 0 := by
  rw [← show fld ((fld w 0 n).setWidth 32) 0 1 = fld w 0 1 from sub_fld w 0 n 0 1 hn, h]
  simp [fld]

/-! ## The layouts -/

theorem shape4_1_1_4_7_7 (o : BitVec 8) (x0 : BitVec 4) (x1 : BitVec 1) (x2 : BitVec 1) (x3 : BitVec 4) (x4 : BitVec 7) (x5 : BitVec 7) (w : Word) (h : o ++ x0 ++ x1 ++ x2 ++ x3 ++ x4 ++ x5 = w) :
    fld w 24 8 = o ∧ fld w 20 4 = x0 ∧ fld w 19 1 = x1 ∧ fld w 18 1 = x2 ∧ fld w 14 4 = x3 ∧ fld w 7 7 = x4 ∧ fld w 0 7 = x5 := by
  subst h
  exact ⟨(skip 24 8 17 _ x5 rfl).trans <| (skip 17 8 10 _ x4 rfl).trans <| (skip 10 8 6 _ x3 rfl).trans <| (skip 6 8 5 _ x2 rfl).trans <| (skip 5 8 4 _ x1 rfl).trans <| (skip 4 8 0 _ x0 rfl).trans <| BitVec.extractLsb'_eq_self,
    (skip 20 4 13 _ x5 rfl).trans <| (skip 13 4 6 _ x4 rfl).trans <| (skip 6 4 2 _ x3 rfl).trans <| (skip 2 4 1 _ x2 rfl).trans <| (skip 1 4 0 _ x1 rfl).trans <| take _ _,
    (skip 19 1 12 _ x5 rfl).trans <| (skip 12 1 5 _ x4 rfl).trans <| (skip 5 1 1 _ x3 rfl).trans <| (skip 1 1 0 _ x2 rfl).trans <| take _ _,
    (skip 18 1 11 _ x5 rfl).trans <| (skip 11 1 4 _ x4 rfl).trans <| (skip 4 1 0 _ x3 rfl).trans <| take _ _,
    (skip 14 4 7 _ x5 rfl).trans <| (skip 7 4 0 _ x4 rfl).trans <| take _ _,
    (skip 7 7 0 _ x5 rfl).trans <| take _ _,
    take _ _⟩

theorem shape4_1_1_4_14 (o : BitVec 8) (x0 : BitVec 4) (x1 : BitVec 1) (x2 : BitVec 1) (x3 : BitVec 4) (x4 : BitVec 14) (w : Word) (h : o ++ x0 ++ x1 ++ x2 ++ x3 ++ x4 = w) :
    fld w 24 8 = o ∧ fld w 20 4 = x0 ∧ fld w 19 1 = x1 ∧ fld w 18 1 = x2 ∧ fld w 14 4 = x3 ∧ fld w 0 14 = x4 := by
  subst h
  exact ⟨(skip 24 8 10 _ x4 rfl).trans <| (skip 10 8 6 _ x3 rfl).trans <| (skip 6 8 5 _ x2 rfl).trans <| (skip 5 8 4 _ x1 rfl).trans <| (skip 4 8 0 _ x0 rfl).trans <| BitVec.extractLsb'_eq_self,
    (skip 20 4 6 _ x4 rfl).trans <| (skip 6 4 2 _ x3 rfl).trans <| (skip 2 4 1 _ x2 rfl).trans <| (skip 1 4 0 _ x1 rfl).trans <| take _ _,
    (skip 19 1 5 _ x4 rfl).trans <| (skip 5 1 1 _ x3 rfl).trans <| (skip 1 1 0 _ x2 rfl).trans <| take _ _,
    (skip 18 1 4 _ x4 rfl).trans <| (skip 4 1 0 _ x3 rfl).trans <| take _ _,
    (skip 14 4 0 _ x4 rfl).trans <| take _ _,
    take _ _⟩

theorem shape4_1_5_7_7 (o : BitVec 8) (x0 : BitVec 4) (x1 : BitVec 1) (x2 : BitVec 5) (x3 : BitVec 7) (x4 : BitVec 7) (w : Word) (h : o ++ x0 ++ x1 ++ x2 ++ x3 ++ x4 = w) :
    fld w 24 8 = o ∧ fld w 20 4 = x0 ∧ fld w 19 1 = x1 ∧ fld w 14 5 = x2 ∧ fld w 7 7 = x3 ∧ fld w 0 7 = x4 := by
  subst h
  exact ⟨(skip 24 8 17 _ x4 rfl).trans <| (skip 17 8 10 _ x3 rfl).trans <| (skip 10 8 5 _ x2 rfl).trans <| (skip 5 8 4 _ x1 rfl).trans <| (skip 4 8 0 _ x0 rfl).trans <| BitVec.extractLsb'_eq_self,
    (skip 20 4 13 _ x4 rfl).trans <| (skip 13 4 6 _ x3 rfl).trans <| (skip 6 4 1 _ x2 rfl).trans <| (skip 1 4 0 _ x1 rfl).trans <| take _ _,
    (skip 19 1 12 _ x4 rfl).trans <| (skip 12 1 5 _ x3 rfl).trans <| (skip 5 1 0 _ x2 rfl).trans <| take _ _,
    (skip 14 5 7 _ x4 rfl).trans <| (skip 7 5 0 _ x3 rfl).trans <| take _ _,
    (skip 7 7 0 _ x4 rfl).trans <| take _ _,
    take _ _⟩

theorem shape4_2_2_2_7_7 (o : BitVec 8) (x0 : BitVec 4) (x1 : BitVec 2) (x2 : BitVec 2) (x3 : BitVec 2) (x4 : BitVec 7) (x5 : BitVec 7) (w : Word) (h : o ++ x0 ++ x1 ++ x2 ++ x3 ++ x4 ++ x5 = w) :
    fld w 24 8 = o ∧ fld w 20 4 = x0 ∧ fld w 18 2 = x1 ∧ fld w 16 2 = x2 ∧ fld w 14 2 = x3 ∧ fld w 7 7 = x4 ∧ fld w 0 7 = x5 := by
  subst h
  exact ⟨(skip 24 8 17 _ x5 rfl).trans <| (skip 17 8 10 _ x4 rfl).trans <| (skip 10 8 8 _ x3 rfl).trans <| (skip 8 8 6 _ x2 rfl).trans <| (skip 6 8 4 _ x1 rfl).trans <| (skip 4 8 0 _ x0 rfl).trans <| BitVec.extractLsb'_eq_self,
    (skip 20 4 13 _ x5 rfl).trans <| (skip 13 4 6 _ x4 rfl).trans <| (skip 6 4 4 _ x3 rfl).trans <| (skip 4 4 2 _ x2 rfl).trans <| (skip 2 4 0 _ x1 rfl).trans <| take _ _,
    (skip 18 2 11 _ x5 rfl).trans <| (skip 11 2 4 _ x4 rfl).trans <| (skip 4 2 2 _ x3 rfl).trans <| (skip 2 2 0 _ x2 rfl).trans <| take _ _,
    (skip 16 2 9 _ x5 rfl).trans <| (skip 9 2 2 _ x4 rfl).trans <| (skip 2 2 0 _ x3 rfl).trans <| take _ _,
    (skip 14 2 7 _ x5 rfl).trans <| (skip 7 2 0 _ x4 rfl).trans <| take _ _,
    (skip 7 7 0 _ x5 rfl).trans <| take _ _,
    take _ _⟩

theorem shape4_2_4_7_2_3_2 (o : BitVec 8) (x0 : BitVec 4) (x1 : BitVec 2) (x2 : BitVec 4) (x3 : BitVec 7) (x4 : BitVec 2) (x5 : BitVec 3) (x6 : BitVec 2) (w : Word) (h : o ++ x0 ++ x1 ++ x2 ++ x3 ++ x4 ++ x5 ++ x6 = w) :
    fld w 24 8 = o ∧ fld w 20 4 = x0 ∧ fld w 18 2 = x1 ∧ fld w 14 4 = x2 ∧ fld w 7 7 = x3 ∧ fld w 5 2 = x4 ∧ fld w 2 3 = x5 ∧ fld w 0 2 = x6 := by
  subst h
  exact ⟨(skip 24 8 22 _ x6 rfl).trans <| (skip 22 8 19 _ x5 rfl).trans <| (skip 19 8 17 _ x4 rfl).trans <| (skip 17 8 10 _ x3 rfl).trans <| (skip 10 8 6 _ x2 rfl).trans <| (skip 6 8 4 _ x1 rfl).trans <| (skip 4 8 0 _ x0 rfl).trans <| BitVec.extractLsb'_eq_self,
    (skip 20 4 18 _ x6 rfl).trans <| (skip 18 4 15 _ x5 rfl).trans <| (skip 15 4 13 _ x4 rfl).trans <| (skip 13 4 6 _ x3 rfl).trans <| (skip 6 4 2 _ x2 rfl).trans <| (skip 2 4 0 _ x1 rfl).trans <| take _ _,
    (skip 18 2 16 _ x6 rfl).trans <| (skip 16 2 13 _ x5 rfl).trans <| (skip 13 2 11 _ x4 rfl).trans <| (skip 11 2 4 _ x3 rfl).trans <| (skip 4 2 0 _ x2 rfl).trans <| take _ _,
    (skip 14 4 12 _ x6 rfl).trans <| (skip 12 4 9 _ x5 rfl).trans <| (skip 9 4 7 _ x4 rfl).trans <| (skip 7 4 0 _ x3 rfl).trans <| take _ _,
    (skip 7 7 5 _ x6 rfl).trans <| (skip 5 7 2 _ x5 rfl).trans <| (skip 2 7 0 _ x4 rfl).trans <| take _ _,
    (skip 5 2 3 _ x6 rfl).trans <| (skip 3 2 0 _ x5 rfl).trans <| take _ _,
    (skip 2 3 0 _ x6 rfl).trans <| take _ _,
    take _ _⟩

theorem shape4_2_4_7_2_4_1 (o : BitVec 8) (x0 : BitVec 4) (x1 : BitVec 2) (x2 : BitVec 4) (x3 : BitVec 7) (x4 : BitVec 2) (x5 : BitVec 4) (x6 : BitVec 1) (w : Word) (h : o ++ x0 ++ x1 ++ x2 ++ x3 ++ x4 ++ x5 ++ x6 = w) :
    fld w 24 8 = o ∧ fld w 20 4 = x0 ∧ fld w 18 2 = x1 ∧ fld w 14 4 = x2 ∧ fld w 7 7 = x3 ∧ fld w 5 2 = x4 ∧ fld w 1 4 = x5 ∧ fld w 0 1 = x6 := by
  subst h
  exact ⟨(skip 24 8 23 _ x6 rfl).trans <| (skip 23 8 19 _ x5 rfl).trans <| (skip 19 8 17 _ x4 rfl).trans <| (skip 17 8 10 _ x3 rfl).trans <| (skip 10 8 6 _ x2 rfl).trans <| (skip 6 8 4 _ x1 rfl).trans <| (skip 4 8 0 _ x0 rfl).trans <| BitVec.extractLsb'_eq_self,
    (skip 20 4 19 _ x6 rfl).trans <| (skip 19 4 15 _ x5 rfl).trans <| (skip 15 4 13 _ x4 rfl).trans <| (skip 13 4 6 _ x3 rfl).trans <| (skip 6 4 2 _ x2 rfl).trans <| (skip 2 4 0 _ x1 rfl).trans <| take _ _,
    (skip 18 2 17 _ x6 rfl).trans <| (skip 17 2 13 _ x5 rfl).trans <| (skip 13 2 11 _ x4 rfl).trans <| (skip 11 2 4 _ x3 rfl).trans <| (skip 4 2 0 _ x2 rfl).trans <| take _ _,
    (skip 14 4 13 _ x6 rfl).trans <| (skip 13 4 9 _ x5 rfl).trans <| (skip 9 4 7 _ x4 rfl).trans <| (skip 7 4 0 _ x3 rfl).trans <| take _ _,
    (skip 7 7 6 _ x6 rfl).trans <| (skip 6 7 2 _ x5 rfl).trans <| (skip 2 7 0 _ x4 rfl).trans <| take _ _,
    (skip 5 2 4 _ x6 rfl).trans <| (skip 4 2 0 _ x5 rfl).trans <| take _ _,
    (skip 1 4 0 _ x6 rfl).trans <| take _ _,
    take _ _⟩

theorem shape4_2_4_7_5_2 (o : BitVec 8) (x0 : BitVec 4) (x1 : BitVec 2) (x2 : BitVec 4) (x3 : BitVec 7) (x4 : BitVec 5) (x5 : BitVec 2) (w : Word) (h : o ++ x0 ++ x1 ++ x2 ++ x3 ++ x4 ++ x5 = w) :
    fld w 24 8 = o ∧ fld w 20 4 = x0 ∧ fld w 18 2 = x1 ∧ fld w 14 4 = x2 ∧ fld w 7 7 = x3 ∧ fld w 2 5 = x4 ∧ fld w 0 2 = x5 := by
  subst h
  exact ⟨(skip 24 8 22 _ x5 rfl).trans <| (skip 22 8 17 _ x4 rfl).trans <| (skip 17 8 10 _ x3 rfl).trans <| (skip 10 8 6 _ x2 rfl).trans <| (skip 6 8 4 _ x1 rfl).trans <| (skip 4 8 0 _ x0 rfl).trans <| BitVec.extractLsb'_eq_self,
    (skip 20 4 18 _ x5 rfl).trans <| (skip 18 4 13 _ x4 rfl).trans <| (skip 13 4 6 _ x3 rfl).trans <| (skip 6 4 2 _ x2 rfl).trans <| (skip 2 4 0 _ x1 rfl).trans <| take _ _,
    (skip 18 2 16 _ x5 rfl).trans <| (skip 16 2 11 _ x4 rfl).trans <| (skip 11 2 4 _ x3 rfl).trans <| (skip 4 2 0 _ x2 rfl).trans <| take _ _,
    (skip 14 4 12 _ x5 rfl).trans <| (skip 12 4 7 _ x4 rfl).trans <| (skip 7 4 0 _ x3 rfl).trans <| take _ _,
    (skip 7 7 5 _ x5 rfl).trans <| (skip 5 7 0 _ x4 rfl).trans <| take _ _,
    (skip 2 5 0 _ x5 rfl).trans <| take _ _,
    take _ _⟩

theorem shape4_2_4_7_7 (o : BitVec 8) (x0 : BitVec 4) (x1 : BitVec 2) (x2 : BitVec 4) (x3 : BitVec 7) (x4 : BitVec 7) (w : Word) (h : o ++ x0 ++ x1 ++ x2 ++ x3 ++ x4 = w) :
    fld w 24 8 = o ∧ fld w 20 4 = x0 ∧ fld w 18 2 = x1 ∧ fld w 14 4 = x2 ∧ fld w 7 7 = x3 ∧ fld w 0 7 = x4 := by
  subst h
  exact ⟨(skip 24 8 17 _ x4 rfl).trans <| (skip 17 8 10 _ x3 rfl).trans <| (skip 10 8 6 _ x2 rfl).trans <| (skip 6 8 4 _ x1 rfl).trans <| (skip 4 8 0 _ x0 rfl).trans <| BitVec.extractLsb'_eq_self,
    (skip 20 4 13 _ x4 rfl).trans <| (skip 13 4 6 _ x3 rfl).trans <| (skip 6 4 2 _ x2 rfl).trans <| (skip 2 4 0 _ x1 rfl).trans <| take _ _,
    (skip 18 2 11 _ x4 rfl).trans <| (skip 11 2 4 _ x3 rfl).trans <| (skip 4 2 0 _ x2 rfl).trans <| take _ _,
    (skip 14 4 7 _ x4 rfl).trans <| (skip 7 4 0 _ x3 rfl).trans <| take _ _,
    (skip 7 7 0 _ x4 rfl).trans <| take _ _,
    take _ _⟩

theorem shape4_2_4_10_3_1 (o : BitVec 8) (x0 : BitVec 4) (x1 : BitVec 2) (x2 : BitVec 4) (x3 : BitVec 10) (x4 : BitVec 3) (x5 : BitVec 1) (w : Word) (h : o ++ x0 ++ x1 ++ x2 ++ x3 ++ x4 ++ x5 = w) :
    fld w 24 8 = o ∧ fld w 20 4 = x0 ∧ fld w 18 2 = x1 ∧ fld w 14 4 = x2 ∧ fld w 4 10 = x3 ∧ fld w 1 3 = x4 ∧ fld w 0 1 = x5 := by
  subst h
  exact ⟨(skip 24 8 23 _ x5 rfl).trans <| (skip 23 8 20 _ x4 rfl).trans <| (skip 20 8 10 _ x3 rfl).trans <| (skip 10 8 6 _ x2 rfl).trans <| (skip 6 8 4 _ x1 rfl).trans <| (skip 4 8 0 _ x0 rfl).trans <| BitVec.extractLsb'_eq_self,
    (skip 20 4 19 _ x5 rfl).trans <| (skip 19 4 16 _ x4 rfl).trans <| (skip 16 4 6 _ x3 rfl).trans <| (skip 6 4 2 _ x2 rfl).trans <| (skip 2 4 0 _ x1 rfl).trans <| take _ _,
    (skip 18 2 17 _ x5 rfl).trans <| (skip 17 2 14 _ x4 rfl).trans <| (skip 14 2 4 _ x3 rfl).trans <| (skip 4 2 0 _ x2 rfl).trans <| take _ _,
    (skip 14 4 13 _ x5 rfl).trans <| (skip 13 4 10 _ x4 rfl).trans <| (skip 10 4 0 _ x3 rfl).trans <| take _ _,
    (skip 4 10 3 _ x5 rfl).trans <| (skip 3 10 0 _ x4 rfl).trans <| take _ _,
    (skip 1 3 0 _ x5 rfl).trans <| take _ _,
    take _ _⟩

theorem shape4_2_4_13_1 (o : BitVec 8) (x0 : BitVec 4) (x1 : BitVec 2) (x2 : BitVec 4) (x3 : BitVec 13) (x4 : BitVec 1) (w : Word) (h : o ++ x0 ++ x1 ++ x2 ++ x3 ++ x4 = w) :
    fld w 24 8 = o ∧ fld w 20 4 = x0 ∧ fld w 18 2 = x1 ∧ fld w 14 4 = x2 ∧ fld w 1 13 = x3 ∧ fld w 0 1 = x4 := by
  subst h
  exact ⟨(skip 24 8 23 _ x4 rfl).trans <| (skip 23 8 10 _ x3 rfl).trans <| (skip 10 8 6 _ x2 rfl).trans <| (skip 6 8 4 _ x1 rfl).trans <| (skip 4 8 0 _ x0 rfl).trans <| BitVec.extractLsb'_eq_self,
    (skip 20 4 19 _ x4 rfl).trans <| (skip 19 4 6 _ x3 rfl).trans <| (skip 6 4 2 _ x2 rfl).trans <| (skip 2 4 0 _ x1 rfl).trans <| take _ _,
    (skip 18 2 17 _ x4 rfl).trans <| (skip 17 2 4 _ x3 rfl).trans <| (skip 4 2 0 _ x2 rfl).trans <| take _ _,
    (skip 14 4 13 _ x4 rfl).trans <| (skip 13 4 0 _ x3 rfl).trans <| take _ _,
    (skip 1 13 0 _ x4 rfl).trans <| take _ _,
    take _ _⟩

theorem shape4_2_4_14 (o : BitVec 8) (x0 : BitVec 4) (x1 : BitVec 2) (x2 : BitVec 4) (x3 : BitVec 14) (w : Word) (h : o ++ x0 ++ x1 ++ x2 ++ x3 = w) :
    fld w 24 8 = o ∧ fld w 20 4 = x0 ∧ fld w 18 2 = x1 ∧ fld w 14 4 = x2 ∧ fld w 0 14 = x3 := by
  subst h
  exact ⟨(skip 24 8 10 _ x3 rfl).trans <| (skip 10 8 6 _ x2 rfl).trans <| (skip 6 8 4 _ x1 rfl).trans <| (skip 4 8 0 _ x0 rfl).trans <| BitVec.extractLsb'_eq_self,
    (skip 20 4 6 _ x3 rfl).trans <| (skip 6 4 2 _ x2 rfl).trans <| (skip 2 4 0 _ x1 rfl).trans <| take _ _,
    (skip 18 2 4 _ x3 rfl).trans <| (skip 4 2 0 _ x2 rfl).trans <| take _ _,
    (skip 14 4 0 _ x3 rfl).trans <| take _ _,
    take _ _⟩

theorem shape4_3_3_4_3_3_4 (o : BitVec 8) (x0 : BitVec 4) (x1 : BitVec 3) (x2 : BitVec 3) (x3 : BitVec 4) (x4 : BitVec 3) (x5 : BitVec 3) (x6 : BitVec 4) (w : Word) (h : o ++ x0 ++ x1 ++ x2 ++ x3 ++ x4 ++ x5 ++ x6 = w) :
    fld w 24 8 = o ∧ fld w 20 4 = x0 ∧ fld w 17 3 = x1 ∧ fld w 14 3 = x2 ∧ fld w 10 4 = x3 ∧ fld w 7 3 = x4 ∧ fld w 4 3 = x5 ∧ fld w 0 4 = x6 := by
  subst h
  exact ⟨(skip 24 8 20 _ x6 rfl).trans <| (skip 20 8 17 _ x5 rfl).trans <| (skip 17 8 14 _ x4 rfl).trans <| (skip 14 8 10 _ x3 rfl).trans <| (skip 10 8 7 _ x2 rfl).trans <| (skip 7 8 4 _ x1 rfl).trans <| (skip 4 8 0 _ x0 rfl).trans <| BitVec.extractLsb'_eq_self,
    (skip 20 4 16 _ x6 rfl).trans <| (skip 16 4 13 _ x5 rfl).trans <| (skip 13 4 10 _ x4 rfl).trans <| (skip 10 4 6 _ x3 rfl).trans <| (skip 6 4 3 _ x2 rfl).trans <| (skip 3 4 0 _ x1 rfl).trans <| take _ _,
    (skip 17 3 13 _ x6 rfl).trans <| (skip 13 3 10 _ x5 rfl).trans <| (skip 10 3 7 _ x4 rfl).trans <| (skip 7 3 3 _ x3 rfl).trans <| (skip 3 3 0 _ x2 rfl).trans <| take _ _,
    (skip 14 3 10 _ x6 rfl).trans <| (skip 10 3 7 _ x5 rfl).trans <| (skip 7 3 4 _ x4 rfl).trans <| (skip 4 3 0 _ x3 rfl).trans <| take _ _,
    (skip 10 4 6 _ x6 rfl).trans <| (skip 6 4 3 _ x5 rfl).trans <| (skip 3 4 0 _ x4 rfl).trans <| take _ _,
    (skip 7 3 3 _ x6 rfl).trans <| (skip 3 3 0 _ x5 rfl).trans <| take _ _,
    (skip 4 3 0 _ x6 rfl).trans <| take _ _,
    take _ _⟩

theorem shape4_3_3_7_5_2 (o : BitVec 8) (x0 : BitVec 4) (x1 : BitVec 3) (x2 : BitVec 3) (x3 : BitVec 7) (x4 : BitVec 5) (x5 : BitVec 2) (w : Word) (h : o ++ x0 ++ x1 ++ x2 ++ x3 ++ x4 ++ x5 = w) :
    fld w 24 8 = o ∧ fld w 20 4 = x0 ∧ fld w 17 3 = x1 ∧ fld w 14 3 = x2 ∧ fld w 7 7 = x3 ∧ fld w 2 5 = x4 ∧ fld w 0 2 = x5 := by
  subst h
  exact ⟨(skip 24 8 22 _ x5 rfl).trans <| (skip 22 8 17 _ x4 rfl).trans <| (skip 17 8 10 _ x3 rfl).trans <| (skip 10 8 7 _ x2 rfl).trans <| (skip 7 8 4 _ x1 rfl).trans <| (skip 4 8 0 _ x0 rfl).trans <| BitVec.extractLsb'_eq_self,
    (skip 20 4 18 _ x5 rfl).trans <| (skip 18 4 13 _ x4 rfl).trans <| (skip 13 4 6 _ x3 rfl).trans <| (skip 6 4 3 _ x2 rfl).trans <| (skip 3 4 0 _ x1 rfl).trans <| take _ _,
    (skip 17 3 15 _ x5 rfl).trans <| (skip 15 3 10 _ x4 rfl).trans <| (skip 10 3 3 _ x3 rfl).trans <| (skip 3 3 0 _ x2 rfl).trans <| take _ _,
    (skip 14 3 12 _ x5 rfl).trans <| (skip 12 3 7 _ x4 rfl).trans <| (skip 7 3 0 _ x3 rfl).trans <| take _ _,
    (skip 7 7 5 _ x5 rfl).trans <| (skip 5 7 0 _ x4 rfl).trans <| take _ _,
    (skip 2 5 0 _ x5 rfl).trans <| take _ _,
    take _ _⟩

theorem shape4_3_3_7_7 (o : BitVec 8) (x0 : BitVec 4) (x1 : BitVec 3) (x2 : BitVec 3) (x3 : BitVec 7) (x4 : BitVec 7) (w : Word) (h : o ++ x0 ++ x1 ++ x2 ++ x3 ++ x4 = w) :
    fld w 24 8 = o ∧ fld w 20 4 = x0 ∧ fld w 17 3 = x1 ∧ fld w 14 3 = x2 ∧ fld w 7 7 = x3 ∧ fld w 0 7 = x4 := by
  subst h
  exact ⟨(skip 24 8 17 _ x4 rfl).trans <| (skip 17 8 10 _ x3 rfl).trans <| (skip 10 8 7 _ x2 rfl).trans <| (skip 7 8 4 _ x1 rfl).trans <| (skip 4 8 0 _ x0 rfl).trans <| BitVec.extractLsb'_eq_self,
    (skip 20 4 13 _ x4 rfl).trans <| (skip 13 4 6 _ x3 rfl).trans <| (skip 6 4 3 _ x2 rfl).trans <| (skip 3 4 0 _ x1 rfl).trans <| take _ _,
    (skip 17 3 10 _ x4 rfl).trans <| (skip 10 3 3 _ x3 rfl).trans <| (skip 3 3 0 _ x2 rfl).trans <| take _ _,
    (skip 14 3 7 _ x4 rfl).trans <| (skip 7 3 0 _ x3 rfl).trans <| take _ _,
    (skip 7 7 0 _ x4 rfl).trans <| take _ _,
    take _ _⟩

theorem shape4_4_2_7_7 (o : BitVec 8) (x0 : BitVec 4) (x1 : BitVec 4) (x2 : BitVec 2) (x3 : BitVec 7) (x4 : BitVec 7) (w : Word) (h : o ++ x0 ++ x1 ++ x2 ++ x3 ++ x4 = w) :
    fld w 24 8 = o ∧ fld w 20 4 = x0 ∧ fld w 16 4 = x1 ∧ fld w 14 2 = x2 ∧ fld w 7 7 = x3 ∧ fld w 0 7 = x4 := by
  subst h
  exact ⟨(skip 24 8 17 _ x4 rfl).trans <| (skip 17 8 10 _ x3 rfl).trans <| (skip 10 8 8 _ x2 rfl).trans <| (skip 8 8 4 _ x1 rfl).trans <| (skip 4 8 0 _ x0 rfl).trans <| BitVec.extractLsb'_eq_self,
    (skip 20 4 13 _ x4 rfl).trans <| (skip 13 4 6 _ x3 rfl).trans <| (skip 6 4 4 _ x2 rfl).trans <| (skip 4 4 0 _ x1 rfl).trans <| take _ _,
    (skip 16 4 9 _ x4 rfl).trans <| (skip 9 4 2 _ x3 rfl).trans <| (skip 2 4 0 _ x2 rfl).trans <| take _ _,
    (skip 14 2 7 _ x4 rfl).trans <| (skip 7 2 0 _ x3 rfl).trans <| take _ _,
    (skip 7 7 0 _ x4 rfl).trans <| take _ _,
    take _ _⟩

theorem shape4_6_3_4_3_1_3 (o : BitVec 8) (x0 : BitVec 4) (x1 : BitVec 6) (x2 : BitVec 3) (x3 : BitVec 4) (x4 : BitVec 3) (x5 : BitVec 1) (x6 : BitVec 3) (w : Word) (h : o ++ x0 ++ x1 ++ x2 ++ x3 ++ x4 ++ x5 ++ x6 = w) :
    fld w 24 8 = o ∧ fld w 20 4 = x0 ∧ fld w 14 6 = x1 ∧ fld w 11 3 = x2 ∧ fld w 7 4 = x3 ∧ fld w 4 3 = x4 ∧ fld w 3 1 = x5 ∧ fld w 0 3 = x6 := by
  subst h
  exact ⟨(skip 24 8 21 _ x6 rfl).trans <| (skip 21 8 20 _ x5 rfl).trans <| (skip 20 8 17 _ x4 rfl).trans <| (skip 17 8 13 _ x3 rfl).trans <| (skip 13 8 10 _ x2 rfl).trans <| (skip 10 8 4 _ x1 rfl).trans <| (skip 4 8 0 _ x0 rfl).trans <| BitVec.extractLsb'_eq_self,
    (skip 20 4 17 _ x6 rfl).trans <| (skip 17 4 16 _ x5 rfl).trans <| (skip 16 4 13 _ x4 rfl).trans <| (skip 13 4 9 _ x3 rfl).trans <| (skip 9 4 6 _ x2 rfl).trans <| (skip 6 4 0 _ x1 rfl).trans <| take _ _,
    (skip 14 6 11 _ x6 rfl).trans <| (skip 11 6 10 _ x5 rfl).trans <| (skip 10 6 7 _ x4 rfl).trans <| (skip 7 6 3 _ x3 rfl).trans <| (skip 3 6 0 _ x2 rfl).trans <| take _ _,
    (skip 11 3 8 _ x6 rfl).trans <| (skip 8 3 7 _ x5 rfl).trans <| (skip 7 3 4 _ x4 rfl).trans <| (skip 4 3 0 _ x3 rfl).trans <| take _ _,
    (skip 7 4 4 _ x6 rfl).trans <| (skip 4 4 3 _ x5 rfl).trans <| (skip 3 4 0 _ x4 rfl).trans <| take _ _,
    (skip 4 3 1 _ x6 rfl).trans <| (skip 1 3 0 _ x5 rfl).trans <| take _ _,
    (skip 3 1 0 _ x6 rfl).trans <| take _ _,
    take _ _⟩

theorem shape4_6_3_4_4_3 (o : BitVec 8) (x0 : BitVec 4) (x1 : BitVec 6) (x2 : BitVec 3) (x3 : BitVec 4) (x4 : BitVec 4) (x5 : BitVec 3) (w : Word) (h : o ++ x0 ++ x1 ++ x2 ++ x3 ++ x4 ++ x5 = w) :
    fld w 24 8 = o ∧ fld w 20 4 = x0 ∧ fld w 14 6 = x1 ∧ fld w 11 3 = x2 ∧ fld w 7 4 = x3 ∧ fld w 3 4 = x4 ∧ fld w 0 3 = x5 := by
  subst h
  exact ⟨(skip 24 8 21 _ x5 rfl).trans <| (skip 21 8 17 _ x4 rfl).trans <| (skip 17 8 13 _ x3 rfl).trans <| (skip 13 8 10 _ x2 rfl).trans <| (skip 10 8 4 _ x1 rfl).trans <| (skip 4 8 0 _ x0 rfl).trans <| BitVec.extractLsb'_eq_self,
    (skip 20 4 17 _ x5 rfl).trans <| (skip 17 4 13 _ x4 rfl).trans <| (skip 13 4 9 _ x3 rfl).trans <| (skip 9 4 6 _ x2 rfl).trans <| (skip 6 4 0 _ x1 rfl).trans <| take _ _,
    (skip 14 6 11 _ x5 rfl).trans <| (skip 11 6 7 _ x4 rfl).trans <| (skip 7 6 3 _ x3 rfl).trans <| (skip 3 6 0 _ x2 rfl).trans <| take _ _,
    (skip 11 3 8 _ x5 rfl).trans <| (skip 8 3 4 _ x4 rfl).trans <| (skip 4 3 0 _ x3 rfl).trans <| take _ _,
    (skip 7 4 4 _ x5 rfl).trans <| (skip 4 4 0 _ x4 rfl).trans <| take _ _,
    (skip 3 4 0 _ x5 rfl).trans <| take _ _,
    take _ _⟩

theorem shape4_6_3_4_6_1 (o : BitVec 8) (x0 : BitVec 4) (x1 : BitVec 6) (x2 : BitVec 3) (x3 : BitVec 4) (x4 : BitVec 6) (x5 : BitVec 1) (w : Word) (h : o ++ x0 ++ x1 ++ x2 ++ x3 ++ x4 ++ x5 = w) :
    fld w 24 8 = o ∧ fld w 20 4 = x0 ∧ fld w 14 6 = x1 ∧ fld w 11 3 = x2 ∧ fld w 7 4 = x3 ∧ fld w 1 6 = x4 ∧ fld w 0 1 = x5 := by
  subst h
  exact ⟨(skip 24 8 23 _ x5 rfl).trans <| (skip 23 8 17 _ x4 rfl).trans <| (skip 17 8 13 _ x3 rfl).trans <| (skip 13 8 10 _ x2 rfl).trans <| (skip 10 8 4 _ x1 rfl).trans <| (skip 4 8 0 _ x0 rfl).trans <| BitVec.extractLsb'_eq_self,
    (skip 20 4 19 _ x5 rfl).trans <| (skip 19 4 13 _ x4 rfl).trans <| (skip 13 4 9 _ x3 rfl).trans <| (skip 9 4 6 _ x2 rfl).trans <| (skip 6 4 0 _ x1 rfl).trans <| take _ _,
    (skip 14 6 13 _ x5 rfl).trans <| (skip 13 6 7 _ x4 rfl).trans <| (skip 7 6 3 _ x3 rfl).trans <| (skip 3 6 0 _ x2 rfl).trans <| take _ _,
    (skip 11 3 10 _ x5 rfl).trans <| (skip 10 3 4 _ x4 rfl).trans <| (skip 4 3 0 _ x3 rfl).trans <| take _ _,
    (skip 7 4 6 _ x5 rfl).trans <| (skip 6 4 0 _ x4 rfl).trans <| take _ _,
    (skip 1 6 0 _ x5 rfl).trans <| take _ _,
    take _ _⟩

theorem shape4_6_7_1_2_4 (o : BitVec 8) (x0 : BitVec 4) (x1 : BitVec 6) (x2 : BitVec 7) (x3 : BitVec 1) (x4 : BitVec 2) (x5 : BitVec 4) (w : Word) (h : o ++ x0 ++ x1 ++ x2 ++ x3 ++ x4 ++ x5 = w) :
    fld w 24 8 = o ∧ fld w 20 4 = x0 ∧ fld w 14 6 = x1 ∧ fld w 7 7 = x2 ∧ fld w 6 1 = x3 ∧ fld w 4 2 = x4 ∧ fld w 0 4 = x5 := by
  subst h
  exact ⟨(skip 24 8 20 _ x5 rfl).trans <| (skip 20 8 18 _ x4 rfl).trans <| (skip 18 8 17 _ x3 rfl).trans <| (skip 17 8 10 _ x2 rfl).trans <| (skip 10 8 4 _ x1 rfl).trans <| (skip 4 8 0 _ x0 rfl).trans <| BitVec.extractLsb'_eq_self,
    (skip 20 4 16 _ x5 rfl).trans <| (skip 16 4 14 _ x4 rfl).trans <| (skip 14 4 13 _ x3 rfl).trans <| (skip 13 4 6 _ x2 rfl).trans <| (skip 6 4 0 _ x1 rfl).trans <| take _ _,
    (skip 14 6 10 _ x5 rfl).trans <| (skip 10 6 8 _ x4 rfl).trans <| (skip 8 6 7 _ x3 rfl).trans <| (skip 7 6 0 _ x2 rfl).trans <| take _ _,
    (skip 7 7 3 _ x5 rfl).trans <| (skip 3 7 1 _ x4 rfl).trans <| (skip 1 7 0 _ x3 rfl).trans <| take _ _,
    (skip 6 1 2 _ x5 rfl).trans <| (skip 2 1 0 _ x4 rfl).trans <| take _ _,
    (skip 4 2 0 _ x5 rfl).trans <| take _ _,
    take _ _⟩

theorem shape4_6_7_1_3_3 (o : BitVec 8) (x0 : BitVec 4) (x1 : BitVec 6) (x2 : BitVec 7) (x3 : BitVec 1) (x4 : BitVec 3) (x5 : BitVec 3) (w : Word) (h : o ++ x0 ++ x1 ++ x2 ++ x3 ++ x4 ++ x5 = w) :
    fld w 24 8 = o ∧ fld w 20 4 = x0 ∧ fld w 14 6 = x1 ∧ fld w 7 7 = x2 ∧ fld w 6 1 = x3 ∧ fld w 3 3 = x4 ∧ fld w 0 3 = x5 := by
  subst h
  exact ⟨(skip 24 8 21 _ x5 rfl).trans <| (skip 21 8 18 _ x4 rfl).trans <| (skip 18 8 17 _ x3 rfl).trans <| (skip 17 8 10 _ x2 rfl).trans <| (skip 10 8 4 _ x1 rfl).trans <| (skip 4 8 0 _ x0 rfl).trans <| BitVec.extractLsb'_eq_self,
    (skip 20 4 17 _ x5 rfl).trans <| (skip 17 4 14 _ x4 rfl).trans <| (skip 14 4 13 _ x3 rfl).trans <| (skip 13 4 6 _ x2 rfl).trans <| (skip 6 4 0 _ x1 rfl).trans <| take _ _,
    (skip 14 6 11 _ x5 rfl).trans <| (skip 11 6 8 _ x4 rfl).trans <| (skip 8 6 7 _ x3 rfl).trans <| (skip 7 6 0 _ x2 rfl).trans <| take _ _,
    (skip 7 7 4 _ x5 rfl).trans <| (skip 4 7 1 _ x4 rfl).trans <| (skip 1 7 0 _ x3 rfl).trans <| take _ _,
    (skip 6 1 3 _ x5 rfl).trans <| (skip 3 1 0 _ x4 rfl).trans <| take _ _,
    (skip 3 3 0 _ x5 rfl).trans <| take _ _,
    take _ _⟩

theorem shape4_6_7_2_3_2 (o : BitVec 8) (x0 : BitVec 4) (x1 : BitVec 6) (x2 : BitVec 7) (x3 : BitVec 2) (x4 : BitVec 3) (x5 : BitVec 2) (w : Word) (h : o ++ x0 ++ x1 ++ x2 ++ x3 ++ x4 ++ x5 = w) :
    fld w 24 8 = o ∧ fld w 20 4 = x0 ∧ fld w 14 6 = x1 ∧ fld w 7 7 = x2 ∧ fld w 5 2 = x3 ∧ fld w 2 3 = x4 ∧ fld w 0 2 = x5 := by
  subst h
  exact ⟨(skip 24 8 22 _ x5 rfl).trans <| (skip 22 8 19 _ x4 rfl).trans <| (skip 19 8 17 _ x3 rfl).trans <| (skip 17 8 10 _ x2 rfl).trans <| (skip 10 8 4 _ x1 rfl).trans <| (skip 4 8 0 _ x0 rfl).trans <| BitVec.extractLsb'_eq_self,
    (skip 20 4 18 _ x5 rfl).trans <| (skip 18 4 15 _ x4 rfl).trans <| (skip 15 4 13 _ x3 rfl).trans <| (skip 13 4 6 _ x2 rfl).trans <| (skip 6 4 0 _ x1 rfl).trans <| take _ _,
    (skip 14 6 12 _ x5 rfl).trans <| (skip 12 6 9 _ x4 rfl).trans <| (skip 9 6 7 _ x3 rfl).trans <| (skip 7 6 0 _ x2 rfl).trans <| take _ _,
    (skip 7 7 5 _ x5 rfl).trans <| (skip 5 7 2 _ x4 rfl).trans <| (skip 2 7 0 _ x3 rfl).trans <| take _ _,
    (skip 5 2 3 _ x5 rfl).trans <| (skip 3 2 0 _ x4 rfl).trans <| take _ _,
    (skip 2 3 0 _ x5 rfl).trans <| take _ _,
    take _ _⟩

theorem shape4_6_7_2_4_1 (o : BitVec 8) (x0 : BitVec 4) (x1 : BitVec 6) (x2 : BitVec 7) (x3 : BitVec 2) (x4 : BitVec 4) (x5 : BitVec 1) (w : Word) (h : o ++ x0 ++ x1 ++ x2 ++ x3 ++ x4 ++ x5 = w) :
    fld w 24 8 = o ∧ fld w 20 4 = x0 ∧ fld w 14 6 = x1 ∧ fld w 7 7 = x2 ∧ fld w 5 2 = x3 ∧ fld w 1 4 = x4 ∧ fld w 0 1 = x5 := by
  subst h
  exact ⟨(skip 24 8 23 _ x5 rfl).trans <| (skip 23 8 19 _ x4 rfl).trans <| (skip 19 8 17 _ x3 rfl).trans <| (skip 17 8 10 _ x2 rfl).trans <| (skip 10 8 4 _ x1 rfl).trans <| (skip 4 8 0 _ x0 rfl).trans <| BitVec.extractLsb'_eq_self,
    (skip 20 4 19 _ x5 rfl).trans <| (skip 19 4 15 _ x4 rfl).trans <| (skip 15 4 13 _ x3 rfl).trans <| (skip 13 4 6 _ x2 rfl).trans <| (skip 6 4 0 _ x1 rfl).trans <| take _ _,
    (skip 14 6 13 _ x5 rfl).trans <| (skip 13 6 9 _ x4 rfl).trans <| (skip 9 6 7 _ x3 rfl).trans <| (skip 7 6 0 _ x2 rfl).trans <| take _ _,
    (skip 7 7 6 _ x5 rfl).trans <| (skip 6 7 2 _ x4 rfl).trans <| (skip 2 7 0 _ x3 rfl).trans <| take _ _,
    (skip 5 2 4 _ x5 rfl).trans <| (skip 4 2 0 _ x4 rfl).trans <| take _ _,
    (skip 1 4 0 _ x5 rfl).trans <| take _ _,
    take _ _⟩

theorem shape4_6_7_3_4 (o : BitVec 8) (x0 : BitVec 4) (x1 : BitVec 6) (x2 : BitVec 7) (x3 : BitVec 3) (x4 : BitVec 4) (w : Word) (h : o ++ x0 ++ x1 ++ x2 ++ x3 ++ x4 = w) :
    fld w 24 8 = o ∧ fld w 20 4 = x0 ∧ fld w 14 6 = x1 ∧ fld w 7 7 = x2 ∧ fld w 4 3 = x3 ∧ fld w 0 4 = x4 := by
  subst h
  exact ⟨(skip 24 8 20 _ x4 rfl).trans <| (skip 20 8 17 _ x3 rfl).trans <| (skip 17 8 10 _ x2 rfl).trans <| (skip 10 8 4 _ x1 rfl).trans <| (skip 4 8 0 _ x0 rfl).trans <| BitVec.extractLsb'_eq_self,
    (skip 20 4 16 _ x4 rfl).trans <| (skip 16 4 13 _ x3 rfl).trans <| (skip 13 4 6 _ x2 rfl).trans <| (skip 6 4 0 _ x1 rfl).trans <| take _ _,
    (skip 14 6 10 _ x4 rfl).trans <| (skip 10 6 7 _ x3 rfl).trans <| (skip 7 6 0 _ x2 rfl).trans <| take _ _,
    (skip 7 7 3 _ x4 rfl).trans <| (skip 3 7 0 _ x3 rfl).trans <| take _ _,
    (skip 4 3 0 _ x4 rfl).trans <| take _ _,
    take _ _⟩

theorem shape4_6_7_4_3 (o : BitVec 8) (x0 : BitVec 4) (x1 : BitVec 6) (x2 : BitVec 7) (x3 : BitVec 4) (x4 : BitVec 3) (w : Word) (h : o ++ x0 ++ x1 ++ x2 ++ x3 ++ x4 = w) :
    fld w 24 8 = o ∧ fld w 20 4 = x0 ∧ fld w 14 6 = x1 ∧ fld w 7 7 = x2 ∧ fld w 3 4 = x3 ∧ fld w 0 3 = x4 := by
  subst h
  exact ⟨(skip 24 8 21 _ x4 rfl).trans <| (skip 21 8 17 _ x3 rfl).trans <| (skip 17 8 10 _ x2 rfl).trans <| (skip 10 8 4 _ x1 rfl).trans <| (skip 4 8 0 _ x0 rfl).trans <| BitVec.extractLsb'_eq_self,
    (skip 20 4 17 _ x4 rfl).trans <| (skip 17 4 13 _ x3 rfl).trans <| (skip 13 4 6 _ x2 rfl).trans <| (skip 6 4 0 _ x1 rfl).trans <| take _ _,
    (skip 14 6 11 _ x4 rfl).trans <| (skip 11 6 7 _ x3 rfl).trans <| (skip 7 6 0 _ x2 rfl).trans <| take _ _,
    (skip 7 7 4 _ x4 rfl).trans <| (skip 4 7 0 _ x3 rfl).trans <| take _ _,
    (skip 3 4 0 _ x4 rfl).trans <| take _ _,
    take _ _⟩

theorem shape4_6_7_5_2 (o : BitVec 8) (x0 : BitVec 4) (x1 : BitVec 6) (x2 : BitVec 7) (x3 : BitVec 5) (x4 : BitVec 2) (w : Word) (h : o ++ x0 ++ x1 ++ x2 ++ x3 ++ x4 = w) :
    fld w 24 8 = o ∧ fld w 20 4 = x0 ∧ fld w 14 6 = x1 ∧ fld w 7 7 = x2 ∧ fld w 2 5 = x3 ∧ fld w 0 2 = x4 := by
  subst h
  exact ⟨(skip 24 8 22 _ x4 rfl).trans <| (skip 22 8 17 _ x3 rfl).trans <| (skip 17 8 10 _ x2 rfl).trans <| (skip 10 8 4 _ x1 rfl).trans <| (skip 4 8 0 _ x0 rfl).trans <| BitVec.extractLsb'_eq_self,
    (skip 20 4 18 _ x4 rfl).trans <| (skip 18 4 13 _ x3 rfl).trans <| (skip 13 4 6 _ x2 rfl).trans <| (skip 6 4 0 _ x1 rfl).trans <| take _ _,
    (skip 14 6 12 _ x4 rfl).trans <| (skip 12 6 7 _ x3 rfl).trans <| (skip 7 6 0 _ x2 rfl).trans <| take _ _,
    (skip 7 7 5 _ x4 rfl).trans <| (skip 5 7 0 _ x3 rfl).trans <| take _ _,
    (skip 2 5 0 _ x4 rfl).trans <| take _ _,
    take _ _⟩

theorem shape4_6_7_7 (o : BitVec 8) (x0 : BitVec 4) (x1 : BitVec 6) (x2 : BitVec 7) (x3 : BitVec 7) (w : Word) (h : o ++ x0 ++ x1 ++ x2 ++ x3 = w) :
    fld w 24 8 = o ∧ fld w 20 4 = x0 ∧ fld w 14 6 = x1 ∧ fld w 7 7 = x2 ∧ fld w 0 7 = x3 := by
  subst h
  exact ⟨(skip 24 8 17 _ x3 rfl).trans <| (skip 17 8 10 _ x2 rfl).trans <| (skip 10 8 4 _ x1 rfl).trans <| (skip 4 8 0 _ x0 rfl).trans <| BitVec.extractLsb'_eq_self,
    (skip 20 4 13 _ x3 rfl).trans <| (skip 13 4 6 _ x2 rfl).trans <| (skip 6 4 0 _ x1 rfl).trans <| take _ _,
    (skip 14 6 7 _ x3 rfl).trans <| (skip 7 6 0 _ x2 rfl).trans <| take _ _,
    (skip 7 7 0 _ x3 rfl).trans <| take _ _,
    take _ _⟩

theorem shape4_6_14 (o : BitVec 8) (x0 : BitVec 4) (x1 : BitVec 6) (x2 : BitVec 14) (w : Word) (h : o ++ x0 ++ x1 ++ x2 = w) :
    fld w 24 8 = o ∧ fld w 20 4 = x0 ∧ fld w 14 6 = x1 ∧ fld w 0 14 = x2 := by
  subst h
  exact ⟨(skip 24 8 10 _ x2 rfl).trans <| (skip 10 8 4 _ x1 rfl).trans <| (skip 4 8 0 _ x0 rfl).trans <| BitVec.extractLsb'_eq_self,
    (skip 20 4 6 _ x2 rfl).trans <| (skip 6 4 0 _ x1 rfl).trans <| take _ _,
    (skip 14 6 0 _ x2 rfl).trans <| take _ _,
    take _ _⟩

theorem shape4_8_4_8 (o : BitVec 8) (x0 : BitVec 4) (x1 : BitVec 8) (x2 : BitVec 4) (x3 : BitVec 8) (w : Word) (h : o ++ x0 ++ x1 ++ x2 ++ x3 = w) :
    fld w 24 8 = o ∧ fld w 20 4 = x0 ∧ fld w 12 8 = x1 ∧ fld w 8 4 = x2 ∧ fld w 0 8 = x3 := by
  subst h
  exact ⟨(skip 24 8 16 _ x3 rfl).trans <| (skip 16 8 12 _ x2 rfl).trans <| (skip 12 8 4 _ x1 rfl).trans <| (skip 4 8 0 _ x0 rfl).trans <| BitVec.extractLsb'_eq_self,
    (skip 20 4 12 _ x3 rfl).trans <| (skip 12 4 8 _ x2 rfl).trans <| (skip 8 4 0 _ x1 rfl).trans <| take _ _,
    (skip 12 8 4 _ x3 rfl).trans <| (skip 4 8 0 _ x2 rfl).trans <| take _ _,
    (skip 8 4 0 _ x3 rfl).trans <| take _ _,
    take _ _⟩

theorem shape4_13_2_3_2 (o : BitVec 8) (x0 : BitVec 4) (x1 : BitVec 13) (x2 : BitVec 2) (x3 : BitVec 3) (x4 : BitVec 2) (w : Word) (h : o ++ x0 ++ x1 ++ x2 ++ x3 ++ x4 = w) :
    fld w 24 8 = o ∧ fld w 20 4 = x0 ∧ fld w 7 13 = x1 ∧ fld w 5 2 = x2 ∧ fld w 2 3 = x3 ∧ fld w 0 2 = x4 := by
  subst h
  exact ⟨(skip 24 8 22 _ x4 rfl).trans <| (skip 22 8 19 _ x3 rfl).trans <| (skip 19 8 17 _ x2 rfl).trans <| (skip 17 8 4 _ x1 rfl).trans <| (skip 4 8 0 _ x0 rfl).trans <| BitVec.extractLsb'_eq_self,
    (skip 20 4 18 _ x4 rfl).trans <| (skip 18 4 15 _ x3 rfl).trans <| (skip 15 4 13 _ x2 rfl).trans <| (skip 13 4 0 _ x1 rfl).trans <| take _ _,
    (skip 7 13 5 _ x4 rfl).trans <| (skip 5 13 2 _ x3 rfl).trans <| (skip 2 13 0 _ x2 rfl).trans <| take _ _,
    (skip 5 2 3 _ x4 rfl).trans <| (skip 3 2 0 _ x3 rfl).trans <| take _ _,
    (skip 2 3 0 _ x4 rfl).trans <| take _ _,
    take _ _⟩

theorem shape4_14_2_4 (o : BitVec 8) (x0 : BitVec 4) (x1 : BitVec 14) (x2 : BitVec 2) (x3 : BitVec 4) (w : Word) (h : o ++ x0 ++ x1 ++ x2 ++ x3 = w) :
    fld w 24 8 = o ∧ fld w 20 4 = x0 ∧ fld w 6 14 = x1 ∧ fld w 4 2 = x2 ∧ fld w 0 4 = x3 := by
  subst h
  exact ⟨(skip 24 8 20 _ x3 rfl).trans <| (skip 20 8 18 _ x2 rfl).trans <| (skip 18 8 4 _ x1 rfl).trans <| (skip 4 8 0 _ x0 rfl).trans <| BitVec.extractLsb'_eq_self,
    (skip 20 4 16 _ x3 rfl).trans <| (skip 16 4 14 _ x2 rfl).trans <| (skip 14 4 0 _ x1 rfl).trans <| take _ _,
    (skip 6 14 2 _ x3 rfl).trans <| (skip 2 14 0 _ x2 rfl).trans <| take _ _,
    (skip 4 2 0 _ x3 rfl).trans <| take _ _,
    take _ _⟩

theorem shape4_20 (o : BitVec 8) (x0 : BitVec 4) (x1 : BitVec 20) (w : Word) (h : o ++ x0 ++ x1 = w) :
    fld w 24 8 = o ∧ fld w 20 4 = x0 ∧ fld w 0 20 = x1 := by
  subst h
  exact ⟨(skip 24 8 4 _ x1 rfl).trans <| (skip 4 8 0 _ x0 rfl).trans <| BitVec.extractLsb'_eq_self,
    (skip 20 4 0 _ x1 rfl).trans <| take _ _,
    take _ _⟩

theorem shape12_4_4_3_1 (o : BitVec 8) (x0 : BitVec 12) (x1 : BitVec 4) (x2 : BitVec 4) (x3 : BitVec 3) (x4 : BitVec 1) (w : Word) (h : o ++ x0 ++ x1 ++ x2 ++ x3 ++ x4 = w) :
    fld w 24 8 = o ∧ fld w 12 12 = x0 ∧ fld w 8 4 = x1 ∧ fld w 4 4 = x2 ∧ fld w 1 3 = x3 ∧ fld w 0 1 = x4 := by
  subst h
  exact ⟨(skip 24 8 23 _ x4 rfl).trans <| (skip 23 8 20 _ x3 rfl).trans <| (skip 20 8 16 _ x2 rfl).trans <| (skip 16 8 12 _ x1 rfl).trans <| (skip 12 8 0 _ x0 rfl).trans <| BitVec.extractLsb'_eq_self,
    (skip 12 12 11 _ x4 rfl).trans <| (skip 11 12 8 _ x3 rfl).trans <| (skip 8 12 4 _ x2 rfl).trans <| (skip 4 12 0 _ x1 rfl).trans <| take _ _,
    (skip 8 4 7 _ x4 rfl).trans <| (skip 7 4 4 _ x3 rfl).trans <| (skip 4 4 0 _ x2 rfl).trans <| take _ _,
    (skip 4 4 3 _ x4 rfl).trans <| (skip 3 4 0 _ x3 rfl).trans <| take _ _,
    (skip 1 3 0 _ x4 rfl).trans <| take _ _,
    take _ _⟩

theorem shape24 (o : BitVec 8) (x0 : BitVec 24) (w : Word) (h : o ++ x0 = w) :
    fld w 24 8 = o ∧ fld w 0 24 = x0 := by
  subst h
  exact ⟨(skip 24 8 0 _ x0 rfl).trans <| BitVec.extractLsb'_eq_self,
    take _ _⟩

/-! ## Words that match no row -/

/-- The mask of a field, and a value placed in it. -/
def maskAt (lo n : Nat) : Word := (BitVec.allOnes n).setWidth 32 <<< lo
def place {n : Nat} (lo : Nat) (v : BitVec n) : Word := v.setWidth 32 <<< lo

theorem and_mask (w : Word) (lo n : Nat) : w &&& maskAt lo n = place lo (fld w lo n) := by
  apply BitVec.eq_of_getLsbD_eq
  intro i hi
  simp only [maskAt, place, fld, BitVec.getLsbD_and, BitVec.getLsbD_shiftLeft, BitVec.getLsbD_setWidth, BitVec.getLsbD_allOnes,
    BitVec.getLsbD_extractLsb', hi, decide_true, Bool.true_and]
  by_cases h : i < lo
  · simp [h]
  · by_cases h2 : i - lo < n
    · simp [h, h2, show i - lo < 32 by omega, show lo + (i - lo) = i by omega]
    · simp [h, h2]

/-- The opcode halves and the fixed fields of a row, each as first bit, width and value. -/
def rowOf (l : List (Nat × Nat × Nat)) : Word × Word :=
  (l.foldr (fun x m => maskAt x.1 x.2.1 ||| m) 0, l.foldr (fun x m => place x.1 (BitVec.ofNat x.2.1 x.2.2) ||| m) 0)

theorem and_row (w : Word) (l : List (Nat × Nat × Nat)) (h : ∀ x ∈ l, fld w x.1 x.2.1 = BitVec.ofNat x.2.1 x.2.2) :
    w &&& (rowOf l).1 = (rowOf l).2 := by
  induction l with
  | nil => simp [rowOf]
  | cons x r ih =>
    have := ih (fun y hy => h y (List.mem_cons_of_mem _ hy))
    simp only [rowOf, List.foldr_cons] at this ⊢
    rw [BitVec.and_or_distrib_left, this, and_mask, h x List.mem_cons_self]

/-- An unassigned word has not the fixed fields of a row. -/
theorem no_row {w : Word} (hu : unassigned w = true) (l : List (Nat × Nat × Nat)) (hl : rowTable.contains (rowOf l) = true)
    (h : ∀ x ∈ l, fld w x.1 x.2.1 = BitVec.ofNat x.2.1 x.2.2) : False := by
  have := List.all_eq_true.mp hu (rowOf l) (by simpa using hl)
  simp [and_row w l h] at this

theorem reserved0 {w : Word} (hu : unassigned w = true) (hh : fld w 28 4 = 0#4) :
    decodeHi0 w (fld w 24 4) = .reservedOpcode w := by
  have hlt := (fld w 24 4).isLt
  unfold decodeHi0
  generalize hk : (fld w 24 4).toNat = k at hlt
  have hl : fld w 24 4 = BitVec.ofNat 4 k := by rw [← hk]; simp
  obtain rfl | rfl | rfl | rfl | rfl | rfl | rfl | rfl | rfl | rfl | rfl | rfl | rfl | rfl | rfl | rfl := (show k = 0 ∨ k = 1 ∨ k = 2 ∨ k = 3 ∨ k = 4 ∨ k = 5 ∨ k = 6 ∨ k = 7 ∨ k = 8 ∨ k = 9 ∨ k = 10 ∨ k = 11 ∨ k = 12 ∨ k = 13 ∨ k = 14 ∨ k = 15 by omega)
  · try simp only
    exact (no_row hu [(28, 4, 0), (24, 4, 0)] (by decide) (by simp [hh, hl])).elim
  · try simp only
    exact (no_row hu [(28, 4, 0), (24, 4, 1)] (by decide) (by simp [hh, hl])).elim
  · try simp only
    exact (no_row hu [(28, 4, 0), (24, 4, 2)] (by decide) (by simp [hh, hl])).elim
  · try simp only
    exact (no_row hu [(28, 4, 0), (24, 4, 3)] (by decide) (by simp [hh, hl])).elim
  · try simp only
    exact (no_row hu [(28, 4, 0), (24, 4, 4)] (by decide) (by simp [hh, hl])).elim
  · try simp only
    exact (no_row hu [(28, 4, 0), (24, 4, 5)] (by decide) (by simp [hh, hl])).elim
  · try simp only
    exact (no_row hu [(28, 4, 0), (24, 4, 6)] (by decide) (by simp [hh, hl])).elim
  · try simp only
    exact (no_row hu [(28, 4, 0), (24, 4, 7)] (by decide) (by simp [hh, hl])).elim
  · try simp only
    exact (no_row hu [(28, 4, 0), (24, 4, 8)] (by decide) (by simp [hh, hl])).elim
  · try simp only
    exact (no_row hu [(28, 4, 0), (24, 4, 9)] (by decide) (by simp [hh, hl])).elim
  · try simp only
    exact (no_row hu [(28, 4, 0), (24, 4, 10)] (by decide) (by simp [hh, hl])).elim
  · try simp only
    exact (no_row hu [(28, 4, 0), (24, 4, 11)] (by decide) (by simp [hh, hl])).elim
  · try simp only
    rw [if_neg (by rintro hc; exact no_row hu [(28, 4, 0), (24, 4, 12), (0, 7, 112)] (by decide) (by simp [hh, hl, hc]))]
  · try simp only
    exact (no_row hu [(28, 4, 0), (24, 4, 13)] (by decide) (by simp [hh, hl])).elim
  · try simp only
    exact (no_row hu [(28, 4, 0), (24, 4, 14)] (by decide) (by simp [hh, hl])).elim
  · try simp only
    exact (no_row hu [(28, 4, 0), (24, 4, 15)] (by decide) (by simp [hh, hl])).elim

theorem reserved1 {w : Word} (hu : unassigned w = true) (hh : fld w 28 4 = 1#4) :
    decodeHi1 w (fld w 24 4) = .reservedOpcode w := by
  have hlt := (fld w 24 4).isLt
  unfold decodeHi1
  generalize hk : (fld w 24 4).toNat = k at hlt
  have hl : fld w 24 4 = BitVec.ofNat 4 k := by rw [← hk]; simp
  obtain rfl | rfl | rfl | rfl | rfl | rfl | rfl | rfl | rfl | rfl | rfl | rfl | rfl | rfl | rfl | rfl := (show k = 0 ∨ k = 1 ∨ k = 2 ∨ k = 3 ∨ k = 4 ∨ k = 5 ∨ k = 6 ∨ k = 7 ∨ k = 8 ∨ k = 9 ∨ k = 10 ∨ k = 11 ∨ k = 12 ∨ k = 13 ∨ k = 14 ∨ k = 15 by omega)
  · try simp only
    exact (no_row hu [(28, 4, 1), (24, 4, 0)] (by decide) (by simp [hh, hl])).elim
  · try simp only
    exact (no_row hu [(28, 4, 1), (24, 4, 1)] (by decide) (by simp [hh, hl])).elim
  · try simp only
    exact (no_row hu [(28, 4, 1), (24, 4, 2)] (by decide) (by simp [hh, hl])).elim
  · try simp only
    exact (no_row hu [(28, 4, 1), (24, 4, 3)] (by decide) (by simp [hh, hl])).elim
  · try simp only
    rw [if_neg (by rintro hc; exact no_row hu [(28, 4, 1), (24, 4, 4), (0, 7, 112)] (by decide) (by simp [hh, hl, hc]))]
  · try simp only
    exact (no_row hu [(28, 4, 1), (24, 4, 5)] (by decide) (by simp [hh, hl])).elim
  · try simp only
    exact (no_row hu [(28, 4, 1), (24, 4, 6)] (by decide) (by simp [hh, hl])).elim
  · try simp only
    exact (no_row hu [(28, 4, 1), (24, 4, 7)] (by decide) (by simp [hh, hl])).elim
  · try simp only
    exact (no_row hu [(28, 4, 1), (24, 4, 8)] (by decide) (by simp [hh, hl])).elim
  · try simp only
    rw [if_neg (by rintro hc; exact no_row hu [(28, 4, 1), (24, 4, 9), (0, 7, 112)] (by decide) (by simp [hh, hl, hc]))]
  · try simp only
    rw [if_neg (by rintro hc; exact no_row hu [(28, 4, 1), (24, 4, 10), (0, 7, 112)] (by decide) (by simp [hh, hl, hc]))]
  · try simp only
    rw [if_neg (by rintro hc; exact no_row hu [(28, 4, 1), (24, 4, 11), (0, 7, 112)] (by decide) (by simp [hh, hl, hc]))]
  · try simp only
    exact (no_row hu [(28, 4, 1), (24, 4, 12)] (by decide) (by simp [hh, hl])).elim
  · try simp only
    exact (no_row hu [(28, 4, 1), (24, 4, 13)] (by decide) (by simp [hh, hl])).elim
  · try simp only
    exact (no_row hu [(28, 4, 1), (24, 4, 14)] (by decide) (by simp [hh, hl])).elim
  · try simp only
    rw [if_neg (by rintro hc; exact no_row hu [(28, 4, 1), (24, 4, 15), (3, 4, 0)] (by decide) (by simp [hh, hl, hc]))]

theorem reserved2 {w : Word} (hu : unassigned w = true) (hh : fld w 28 4 = 2#4) :
    decodeHi2 w (fld w 24 4) = .reservedOpcode w := by
  have hlt := (fld w 24 4).isLt
  unfold decodeHi2
  generalize hk : (fld w 24 4).toNat = k at hlt
  have hl : fld w 24 4 = BitVec.ofNat 4 k := by rw [← hk]; simp
  obtain rfl | rfl | rfl | rfl | rfl | rfl | rfl | rfl | rfl | rfl | rfl | rfl | rfl | rfl | rfl | rfl := (show k = 0 ∨ k = 1 ∨ k = 2 ∨ k = 3 ∨ k = 4 ∨ k = 5 ∨ k = 6 ∨ k = 7 ∨ k = 8 ∨ k = 9 ∨ k = 10 ∨ k = 11 ∨ k = 12 ∨ k = 13 ∨ k = 14 ∨ k = 15 by omega)
  · try simp only
    exact (no_row hu [(28, 4, 2), (24, 4, 0)] (by decide) (by simp [hh, hl])).elim
  · try simp only
    exact (no_row hu [(28, 4, 2), (24, 4, 1)] (by decide) (by simp [hh, hl])).elim
  · try simp only
    exact (no_row hu [(28, 4, 2), (24, 4, 2)] (by decide) (by simp [hh, hl])).elim
  · try simp only
    exact (no_row hu [(28, 4, 2), (24, 4, 3)] (by decide) (by simp [hh, hl])).elim
  · try simp only
    exact (no_row hu [(28, 4, 2), (24, 4, 4)] (by decide) (by simp [hh, hl])).elim
  · try simp only
    exact (no_row hu [(28, 4, 2), (24, 4, 5)] (by decide) (by simp [hh, hl])).elim
  · try simp only
    rw [if_neg (by rintro hc; exact no_row hu [(28, 4, 2), (24, 4, 6), (0, 7, 112)] (by decide) (by simp [hh, hl, hc]))]
  · try simp only
    rw [if_neg (by rintro hc; exact no_row hu [(28, 4, 2), (24, 4, 7), (0, 7, 112)] (by decide) (by simp [hh, hl, hc]))]
  · try simp only
    exact (no_row hu [(28, 4, 2), (24, 4, 8)] (by decide) (by simp [hh, hl])).elim
  · try simp only
    exact (no_row hu [(28, 4, 2), (24, 4, 9)] (by decide) (by simp [hh, hl])).elim
  · try simp only
    exact (no_row hu [(28, 4, 2), (24, 4, 10)] (by decide) (by simp [hh, hl])).elim
  · try simp only
    exact (no_row hu [(28, 4, 2), (24, 4, 11)] (by decide) (by simp [hh, hl])).elim
  · try simp only
    exact (no_row hu [(28, 4, 2), (24, 4, 12)] (by decide) (by simp [hh, hl])).elim
  · try simp only
    exact (no_row hu [(28, 4, 2), (24, 4, 13)] (by decide) (by simp [hh, hl])).elim
  · try simp only
    exact (no_row hu [(28, 4, 2), (24, 4, 14)] (by decide) (by simp [hh, hl])).elim
  · try simp only
    exact (no_row hu [(28, 4, 2), (24, 4, 15)] (by decide) (by simp [hh, hl])).elim

theorem reserved3 {w : Word} (hu : unassigned w = true) (hh : fld w 28 4 = 3#4) :
    decodeHi3 w (fld w 24 4) = .reservedOpcode w := by
  have hlt := (fld w 24 4).isLt
  unfold decodeHi3
  generalize hk : (fld w 24 4).toNat = k at hlt
  have hl : fld w 24 4 = BitVec.ofNat 4 k := by rw [← hk]; simp
  obtain rfl | rfl | rfl | rfl | rfl | rfl | rfl | rfl | rfl | rfl | rfl | rfl | rfl | rfl | rfl | rfl := (show k = 0 ∨ k = 1 ∨ k = 2 ∨ k = 3 ∨ k = 4 ∨ k = 5 ∨ k = 6 ∨ k = 7 ∨ k = 8 ∨ k = 9 ∨ k = 10 ∨ k = 11 ∨ k = 12 ∨ k = 13 ∨ k = 14 ∨ k = 15 by omega)
  · try simp only
    rw [if_neg (by rintro hc; exact no_row hu [(28, 4, 3), (24, 4, 0), (0, 7, 112)] (by decide) (by simp [hh, hl, hc]))]
  · try simp only
    rw [if_neg (by rintro hc; exact no_row hu [(28, 4, 3), (24, 4, 1), (0, 7, 112)] (by decide) (by simp [hh, hl, hc]))]
  · try simp only
    rw [if_neg (by rintro hc; exact no_row hu [(28, 4, 3), (24, 4, 2), (0, 7, 112)] (by decide) (by simp [hh, hl, hc]))]
  · try simp only
    exact (no_row hu [(28, 4, 3), (24, 4, 3)] (by decide) (by simp [hh, hl])).elim
  · try simp only
    rw [if_neg (by rintro hc; exact no_row hu [(28, 4, 3), (24, 4, 4), (0, 7, 112)] (by decide) (by simp [hh, hl, hc]))]
  · try simp only
    rw [if_neg (by rintro hc; exact no_row hu [(28, 4, 3), (24, 4, 5), (0, 7, 112)] (by decide) (by simp [hh, hl, hc]))]
  · try simp only
    rw [if_neg (by rintro hc; exact no_row hu [(28, 4, 3), (24, 4, 6), (0, 7, 112)] (by decide) (by simp [hh, hl, hc]))]
  · try simp only
    rw [if_neg (by rintro hc; exact no_row hu [(28, 4, 3), (24, 4, 7), (0, 7, 112)] (by decide) (by simp [hh, hl, hc]))]
  · try simp only
    rw [if_neg (by rintro hc; exact no_row hu [(28, 4, 3), (24, 4, 8), (0, 7, 112)] (by decide) (by simp [hh, hl, hc]))]
  · try simp only
    exact (no_row hu [(28, 4, 3), (24, 4, 9)] (by decide) (by simp [hh, hl])).elim
  · try simp only
    rw [if_neg (by rintro hc; exact no_row hu [(28, 4, 3), (24, 4, 10), (2, 5, 0)] (by decide) (by simp [hh, hl, hc]))]
  · try simp only
    rw [if_neg (by rintro hc; exact no_row hu [(28, 4, 3), (24, 4, 11), (17, 3, 0)] (by decide) (by simp [hh, hl, hc]))]
  · try simp only
    exact (no_row hu [(28, 4, 3), (24, 4, 12)] (by decide) (by simp [hh, hl])).elim
  · try simp only
    exact (no_row hu [(28, 4, 3), (24, 4, 13)] (by decide) (by simp [hh, hl])).elim
  · try simp only
    exact (no_row hu [(28, 4, 3), (24, 4, 14)] (by decide) (by simp [hh, hl])).elim
  · try simp only
    rw [if_neg (by rintro hc; exact no_row hu [(28, 4, 3), (24, 4, 15), (0, 7, 112)] (by decide) (by simp [hh, hl, hc]))]

theorem reserved4 {w : Word} (hu : unassigned w = true) (hh : fld w 28 4 = 4#4) :
    decodeHi4 w (fld w 24 4) = .reservedOpcode w := by
  have hlt := (fld w 24 4).isLt
  unfold decodeHi4
  generalize hk : (fld w 24 4).toNat = k at hlt
  have hl : fld w 24 4 = BitVec.ofNat 4 k := by rw [← hk]; simp
  obtain rfl | rfl | rfl | rfl | rfl | rfl | rfl | rfl | rfl | rfl | rfl | rfl | rfl | rfl | rfl | rfl := (show k = 0 ∨ k = 1 ∨ k = 2 ∨ k = 3 ∨ k = 4 ∨ k = 5 ∨ k = 6 ∨ k = 7 ∨ k = 8 ∨ k = 9 ∨ k = 10 ∨ k = 11 ∨ k = 12 ∨ k = 13 ∨ k = 14 ∨ k = 15 by omega)
  · try simp only
    rw [if_neg (by rintro hc; exact no_row hu [(28, 4, 4), (24, 4, 0), (6, 1, 0)] (by decide) (by simp [hh, hl, hc]))]
  · try simp only
    rw [if_neg (by rintro hc; exact no_row hu [(28, 4, 4), (24, 4, 1), (6, 1, 0)] (by decide) (by simp [hh, hl, hc]))]
  · try simp only
    rw [if_neg (by rintro hc; exact no_row hu [(28, 4, 4), (24, 4, 2), (6, 1, 0)] (by decide) (by simp [hh, hl, hc]))]
  · try simp only
    rw [if_neg (by rintro hc; exact no_row hu [(28, 4, 4), (24, 4, 3), (6, 1, 0)] (by decide) (by simp [hh, hl, hc]))]
  · try simp only
    exact (no_row hu [(28, 4, 4), (24, 4, 4)] (by decide) (by simp [hh, hl])).elim
  · try simp only
    rw [if_neg (by rintro ⟨c0, c1⟩; exact no_row hu [(28, 4, 4), (24, 4, 5), (17, 3, 0), (10, 4, 0)] (by decide) (by simp [hh, hl, c0, c1]))]
  · try simp only
    exact (no_row hu [(28, 4, 4), (24, 4, 6)] (by decide) (by simp [hh, hl])).elim
  · try simp only
    rw [if_neg (by rintro ⟨c0, c1⟩; exact no_row hu [(28, 4, 4), (24, 4, 7), (17, 3, 0), (2, 5, 0)] (by decide) (by simp [hh, hl, c0, c1]))]
  · try simp only
    exact (no_row hu [(28, 4, 4), (24, 4, 8)] (by decide) (by simp [hh, hl])).elim
  · try simp only
    exact (no_row hu [(28, 4, 4), (24, 4, 9)] (by decide) (by simp [hh, hl])).elim
  · try simp only
    exact (no_row hu [(28, 4, 4), (24, 4, 10)] (by decide) (by simp [hh, hl])).elim
  · try simp only
    exact (no_row hu [(28, 4, 4), (24, 4, 11)] (by decide) (by simp [hh, hl])).elim
  · try simp only
    rw [if_neg (by rintro hc; exact no_row hu [(28, 4, 4), (24, 4, 12), (4, 3, 0)] (by decide) (by simp [hh, hl, hc]))]
  · try simp only
    exact (no_row hu [(28, 4, 4), (24, 4, 13)] (by decide) (by simp [hh, hl])).elim
  · try simp only
    rw [if_neg (by rintro ⟨c0, c1⟩; exact no_row hu [(28, 4, 4), (24, 4, 14), (19, 1, 0), (0, 7, 112)] (by decide) (by simp [hh, hl, c0, c1]))]
  · rfl

theorem reserved5 {w : Word} (hu : unassigned w = true) (hh : fld w 28 4 = 5#4) :
    decodeHi5 w (fld w 24 4) = .reservedOpcode w := by
  have hlt := (fld w 24 4).isLt
  unfold decodeHi5
  generalize hk : (fld w 24 4).toNat = k at hlt
  have hl : fld w 24 4 = BitVec.ofNat 4 k := by rw [← hk]; simp
  obtain rfl | rfl | rfl | rfl | rfl | rfl | rfl | rfl | rfl | rfl | rfl | rfl | rfl | rfl | rfl | rfl := (show k = 0 ∨ k = 1 ∨ k = 2 ∨ k = 3 ∨ k = 4 ∨ k = 5 ∨ k = 6 ∨ k = 7 ∨ k = 8 ∨ k = 9 ∨ k = 10 ∨ k = 11 ∨ k = 12 ∨ k = 13 ∨ k = 14 ∨ k = 15 by omega)
  · try simp only
    rw [if_neg (by rintro hc; exact no_row hu [(28, 4, 5), (24, 4, 0), (0, 7, 112)] (by decide) (by simp [hh, hl, hc]))]
  · try simp only
    rw [if_neg (by rintro hc; exact no_row hu [(28, 4, 5), (24, 4, 1), (0, 7, 112)] (by decide) (by simp [hh, hl, hc]))]
  · try simp only
    rw [if_neg (by rintro hc; exact no_row hu [(28, 4, 5), (24, 4, 2), (19, 1, 0)] (by decide) (by simp [hh, hl, hc]))]
  · try simp only
    exact (no_row hu [(28, 4, 5), (24, 4, 3)] (by decide) (by simp [hh, hl])).elim
  · try simp only
    exact (no_row hu [(28, 4, 5), (24, 4, 4)] (by decide) (by simp [hh, hl])).elim
  · try simp only
    exact (no_row hu [(28, 4, 5), (24, 4, 5)] (by decide) (by simp [hh, hl])).elim
  · try simp only
    exact (no_row hu [(28, 4, 5), (24, 4, 6)] (by decide) (by simp [hh, hl])).elim
  · try simp only
    exact (no_row hu [(28, 4, 5), (24, 4, 7)] (by decide) (by simp [hh, hl])).elim
  · try simp only
    exact (no_row hu [(28, 4, 5), (24, 4, 8)] (by decide) (by simp [hh, hl])).elim
  · try simp only
    rw [if_neg (by rintro hc; exact no_row hu [(28, 4, 5), (24, 4, 9), (3, 4, 0)] (by decide) (by simp [hh, hl, hc]))]
  · try simp only
    exact (no_row hu [(28, 4, 5), (24, 4, 10)] (by decide) (by simp [hh, hl])).elim
  · try simp only
    exact (no_row hu [(28, 4, 5), (24, 4, 11)] (by decide) (by simp [hh, hl])).elim
  · rfl
  · rfl
  · rfl
  · rfl

theorem reserved6 {w : Word} (hu : unassigned w = true) (hh : fld w 28 4 = 6#4) :
    decodeHi6 w (fld w 24 4) = .reservedOpcode w := by
  have hlt := (fld w 24 4).isLt
  unfold decodeHi6
  generalize hk : (fld w 24 4).toNat = k at hlt
  have hl : fld w 24 4 = BitVec.ofNat 4 k := by rw [← hk]; simp
  obtain rfl | rfl | rfl | rfl | rfl | rfl | rfl | rfl | rfl | rfl | rfl | rfl | rfl | rfl | rfl | rfl := (show k = 0 ∨ k = 1 ∨ k = 2 ∨ k = 3 ∨ k = 4 ∨ k = 5 ∨ k = 6 ∨ k = 7 ∨ k = 8 ∨ k = 9 ∨ k = 10 ∨ k = 11 ∨ k = 12 ∨ k = 13 ∨ k = 14 ∨ k = 15 by omega)
  · try simp only
    rw [if_neg (by rintro ⟨c0, c1⟩; exact no_row hu [(28, 4, 6), (24, 4, 0), (18, 2, 0), (0, 7, 0)] (by decide) (by simp [hh, hl, c0, c1]))]
  · try simp only
    rw [if_neg (by rintro ⟨c0, c1⟩; exact no_row hu [(28, 4, 6), (24, 4, 1), (11, 3, 0), (4, 3, 0)] (by decide) (by simp [hh, hl, c0, c1]))]
  · try simp only
    rw [if_neg (by rintro ⟨c0, c1⟩; exact no_row hu [(28, 4, 6), (24, 4, 2), (11, 3, 0), (3, 4, 0)] (by decide) (by simp [hh, hl, c0, c1]))]
  · try simp only
    rw [if_neg (by rintro ⟨c0, c1⟩; exact no_row hu [(28, 4, 6), (24, 4, 3), (11, 3, 0), (1, 6, 0)] (by decide) (by simp [hh, hl, c0, c1]))]
  · try simp only
    rw [if_neg (by rintro ⟨c0, c1⟩; exact no_row hu [(28, 4, 6), (24, 4, 4), (18, 2, 0), (7, 7, 0)] (by decide) (by simp [hh, hl, c0, c1]))]
  · try simp only
    rw [if_neg (by rintro ⟨c0, c1⟩; exact no_row hu [(28, 4, 6), (24, 4, 5), (18, 2, 0), (1, 13, 0)] (by decide) (by simp [hh, hl, c0, c1]))]
  · try simp only
    rw [if_neg (by rintro ⟨c0, c1⟩; exact no_row hu [(28, 4, 6), (24, 4, 6), (11, 3, 0), (3, 4, 0)] (by decide) (by simp [hh, hl, c0, c1]))]
  · try simp only
    rw [if_neg (by rintro ⟨c0, c1⟩; exact no_row hu [(28, 4, 6), (24, 4, 7), (18, 2, 0), (0, 14, 0)] (by decide) (by simp [hh, hl, c0, c1]))]
    rw [if_neg (by rintro ⟨c0, c1, c2⟩; exact no_row hu [(28, 4, 6), (24, 4, 7), (18, 2, 0), (4, 10, 0), (0, 1, 1)] (by decide) (by simp [hh, hl, c0, c1, c2]))]
  · try simp only
    rw [if_neg (by rintro hc; exact no_row hu [(28, 4, 6), (24, 4, 8), (14, 6, 0)] (by decide) (by simp [hh, hl, hc]))]
  · try simp only
    rw [if_neg (by rintro hc; exact no_row hu [(28, 4, 6), (24, 4, 9), (14, 6, 0)] (by decide) (by simp [hh, hl, hc]))]
  · try simp only
    exact (no_row hu [(28, 4, 6), (24, 4, 10)] (by decide) (by simp [hh, hl])).elim
  · try simp only
    exact (no_row hu [(28, 4, 6), (24, 4, 11)] (by decide) (by simp [hh, hl])).elim
  · try simp only
    rw [if_neg (by rintro hc; exact no_row hu [(28, 4, 6), (24, 4, 12), (14, 6, 0)] (by decide) (by simp [hh, hl, hc]))]
  · rfl
  · rfl
  · rfl

theorem reserved7 {w : Word} (hu : unassigned w = true) (hh : fld w 28 4 = 7#4) :
    decodeHi7 w (fld w 24 4) = .reservedOpcode w := by
  have hlt := (fld w 24 4).isLt
  unfold decodeHi7
  generalize hk : (fld w 24 4).toNat = k at hlt
  have hl : fld w 24 4 = BitVec.ofNat 4 k := by rw [← hk]; simp
  obtain rfl | rfl | rfl | rfl | rfl | rfl | rfl | rfl | rfl | rfl | rfl | rfl | rfl | rfl | rfl | rfl := (show k = 0 ∨ k = 1 ∨ k = 2 ∨ k = 3 ∨ k = 4 ∨ k = 5 ∨ k = 6 ∨ k = 7 ∨ k = 8 ∨ k = 9 ∨ k = 10 ∨ k = 11 ∨ k = 12 ∨ k = 13 ∨ k = 14 ∨ k = 15 by omega)
  · try simp only
    exact (no_row hu [(28, 4, 7), (24, 4, 0)] (by decide) (by simp [hh, hl])).elim
  · try simp only
    exact (no_row hu [(28, 4, 7), (24, 4, 1)] (by decide) (by simp [hh, hl])).elim
  · try simp only
    exact (no_row hu [(28, 4, 7), (24, 4, 2)] (by decide) (by simp [hh, hl])).elim
  · try simp only
    exact (no_row hu [(28, 4, 7), (24, 4, 3)] (by decide) (by simp [hh, hl])).elim
  · try simp only
    exact (no_row hu [(28, 4, 7), (24, 4, 4)] (by decide) (by simp [hh, hl])).elim
  · try simp only
    exact (no_row hu [(28, 4, 7), (24, 4, 5)] (by decide) (by simp [hh, hl])).elim
  · try simp only
    exact (no_row hu [(28, 4, 7), (24, 4, 6)] (by decide) (by simp [hh, hl])).elim
  · try simp only
    exact (no_row hu [(28, 4, 7), (24, 4, 7)] (by decide) (by simp [hh, hl])).elim
  · try simp only
    exact (no_row hu [(28, 4, 7), (24, 4, 8)] (by decide) (by simp [hh, hl])).elim
  · try simp only
    exact (no_row hu [(28, 4, 7), (24, 4, 9)] (by decide) (by simp [hh, hl])).elim
  · try simp only
    exact (no_row hu [(28, 4, 7), (24, 4, 10)] (by decide) (by simp [hh, hl])).elim
  · try simp only
    exact (no_row hu [(28, 4, 7), (24, 4, 11)] (by decide) (by simp [hh, hl])).elim
  · try simp only
    rw [if_neg (by rintro ⟨c0, c1⟩; exact no_row hu [(28, 4, 7), (24, 4, 12), (18, 2, 0), (2, 5, 0)] (by decide) (by simp [hh, hl, c0, c1]))]
  · try simp only
    rw [if_neg (by rintro ⟨c0, c1⟩; exact no_row hu [(28, 4, 7), (24, 4, 13), (18, 2, 0), (2, 5, 0)] (by decide) (by simp [hh, hl, c0, c1]))]
  · try simp only
    rw [if_neg (by rintro ⟨c0, c1⟩; exact no_row hu [(28, 4, 7), (24, 4, 14), (18, 2, 0), (2, 5, 0)] (by decide) (by simp [hh, hl, c0, c1]))]
  · try simp only
    rw [if_neg (by rintro hc; exact no_row hu [(28, 4, 7), (24, 4, 15), (18, 2, 0)] (by decide) (by simp [hh, hl, hc]))]

theorem reserved8 {w : Word} (hu : unassigned w = true) (hh : fld w 28 4 = 8#4) :
    decodeHi8 w (fld w 24 4) = .reservedOpcode w := by
  have hlt := (fld w 24 4).isLt
  unfold decodeHi8
  generalize hk : (fld w 24 4).toNat = k at hlt
  have hl : fld w 24 4 = BitVec.ofNat 4 k := by rw [← hk]; simp
  obtain rfl | rfl | rfl | rfl | rfl | rfl | rfl | rfl | rfl | rfl | rfl | rfl | rfl | rfl | rfl | rfl := (show k = 0 ∨ k = 1 ∨ k = 2 ∨ k = 3 ∨ k = 4 ∨ k = 5 ∨ k = 6 ∨ k = 7 ∨ k = 8 ∨ k = 9 ∨ k = 10 ∨ k = 11 ∨ k = 12 ∨ k = 13 ∨ k = 14 ∨ k = 15 by omega)
  · try simp only
    rw [if_neg (by rintro hc; exact no_row hu [(28, 4, 8), (24, 4, 0), (18, 2, 0)] (by decide) (by simp [hh, hl, hc]))]
  · try simp only
    rw [if_neg (by rintro hc; exact no_row hu [(28, 4, 8), (24, 4, 1), (18, 2, 0)] (by decide) (by simp [hh, hl, hc]))]
  · try simp only
    rw [if_neg (by rintro hc; exact no_row hu [(28, 4, 8), (24, 4, 2), (2, 5, 0)] (by decide) (by simp [hh, hl, hc]))]
  · try simp only
    rw [if_neg (by rintro hc; exact no_row hu [(28, 4, 8), (24, 4, 3), (2, 5, 0)] (by decide) (by simp [hh, hl, hc]))]
  · try simp only
    rw [if_neg (by rintro ⟨c0, c1⟩; exact no_row hu [(28, 4, 8), (24, 4, 4), (14, 6, 0), (2, 5, 0)] (by decide) (by simp [hh, hl, c0, c1]))]
  · try simp only
    rw [if_neg (by rintro ⟨c0, c1⟩; exact no_row hu [(28, 4, 8), (24, 4, 5), (5, 2, 0), (0, 2, 0)] (by decide) (by simp [hh, hl, c0, c1]))]
  · try simp only
    rw [if_neg (by rintro hc; exact no_row hu [(28, 4, 8), (24, 4, 6), (5, 2, 0)] (by decide) (by simp [hh, hl, hc]))]
  · try simp only
    rw [if_neg (by rintro ⟨c0, c1⟩; exact no_row hu [(28, 4, 8), (24, 4, 7), (7, 13, 0), (0, 2, 0)] (by decide) (by simp [hh, hl, c0, c1]))]
  · try simp only
    rw [if_neg (by rintro ⟨c0, c1⟩; exact no_row hu [(28, 4, 8), (24, 4, 8), (18, 2, 0), (0, 14, 0)] (by decide) (by simp [hh, hl, c0, c1]))]
  · rfl
  · rfl
  · rfl
  · rfl
  · rfl
  · rfl
  · rfl

theorem reserved9 {w : Word} (hu : unassigned w = true) (hh : fld w 28 4 = 9#4) :
    decodeHi9 w (fld w 24 4) = .reservedOpcode w := by
  have hlt := (fld w 24 4).isLt
  unfold decodeHi9
  generalize hk : (fld w 24 4).toNat = k at hlt
  have hl : fld w 24 4 = BitVec.ofNat 4 k := by rw [← hk]; simp
  obtain rfl | rfl | rfl | rfl | rfl | rfl | rfl | rfl | rfl | rfl | rfl | rfl | rfl | rfl | rfl | rfl := (show k = 0 ∨ k = 1 ∨ k = 2 ∨ k = 3 ∨ k = 4 ∨ k = 5 ∨ k = 6 ∨ k = 7 ∨ k = 8 ∨ k = 9 ∨ k = 10 ∨ k = 11 ∨ k = 12 ∨ k = 13 ∨ k = 14 ∨ k = 15 by omega)
  · try simp only
    rw [if_neg (by rintro hc; exact no_row hu [(28, 4, 9), (24, 4, 0), (0, 2, 0)] (by decide) (by simp [hh, hl, hc]))]
  · try simp only
    rw [if_neg (by rintro hc; exact no_row hu [(28, 4, 9), (24, 4, 1), (0, 2, 0)] (by decide) (by simp [hh, hl, hc]))]
  · try simp only
    rw [if_neg (by rintro hc; exact no_row hu [(28, 4, 9), (24, 4, 2), (0, 2, 0)] (by decide) (by simp [hh, hl, hc]))]
  · try simp only
    rw [if_neg (by rintro hc; exact no_row hu [(28, 4, 9), (24, 4, 3), (0, 2, 0)] (by decide) (by simp [hh, hl, hc]))]
  · try simp only
    rw [if_neg (by rintro hc; exact no_row hu [(28, 4, 9), (24, 4, 4), (0, 2, 0)] (by decide) (by simp [hh, hl, hc]))]
  · try simp only
    rw [if_neg (by rintro hc; exact no_row hu [(28, 4, 9), (24, 4, 5), (0, 2, 0)] (by decide) (by simp [hh, hl, hc]))]
  · try simp only
    rw [if_neg (by rintro hc; exact no_row hu [(28, 4, 9), (24, 4, 6), (0, 2, 0)] (by decide) (by simp [hh, hl, hc]))]
  · try simp only
    rw [if_neg (by rintro hc; exact no_row hu [(28, 4, 9), (24, 4, 7), (0, 2, 0)] (by decide) (by simp [hh, hl, hc]))]
  · try simp only
    rw [if_neg (by rintro hc; exact no_row hu [(28, 4, 9), (24, 4, 8), (0, 2, 0)] (by decide) (by simp [hh, hl, hc]))]
  · try simp only
    rw [if_neg (by rintro hc; exact no_row hu [(28, 4, 9), (24, 4, 9), (0, 2, 0)] (by decide) (by simp [hh, hl, hc]))]
  · try simp only
    rw [if_neg (by rintro hc; exact no_row hu [(28, 4, 9), (24, 4, 10), (0, 2, 0)] (by decide) (by simp [hh, hl, hc]))]
  · try simp only
    rw [if_neg (by rintro hc; exact no_row hu [(28, 4, 9), (24, 4, 11), (0, 2, 0)] (by decide) (by simp [hh, hl, hc]))]
  · try simp only
    rw [if_neg (by rintro hc; exact no_row hu [(28, 4, 9), (24, 4, 12), (0, 2, 0)] (by decide) (by simp [hh, hl, hc]))]
  · try simp only
    rw [if_neg (by rintro hc; exact no_row hu [(28, 4, 9), (24, 4, 13), (0, 2, 0)] (by decide) (by simp [hh, hl, hc]))]
  · try simp only
    rw [if_neg (by rintro hc; exact no_row hu [(28, 4, 9), (24, 4, 14), (0, 2, 0)] (by decide) (by simp [hh, hl, hc]))]
  · try simp only
    rw [if_neg (by rintro hc; exact no_row hu [(28, 4, 9), (24, 4, 15), (0, 2, 0)] (by decide) (by simp [hh, hl, hc]))]

theorem reservedA {w : Word} (hu : unassigned w = true) (hh : fld w 28 4 = 10#4) :
    decodeHiA w (fld w 24 4) = .reservedOpcode w := by
  have hlt := (fld w 24 4).isLt
  unfold decodeHiA
  generalize hk : (fld w 24 4).toNat = k at hlt
  have hl : fld w 24 4 = BitVec.ofNat 4 k := by rw [← hk]; simp
  obtain rfl | rfl | rfl | rfl | rfl | rfl | rfl | rfl | rfl | rfl | rfl | rfl | rfl | rfl | rfl | rfl := (show k = 0 ∨ k = 1 ∨ k = 2 ∨ k = 3 ∨ k = 4 ∨ k = 5 ∨ k = 6 ∨ k = 7 ∨ k = 8 ∨ k = 9 ∨ k = 10 ∨ k = 11 ∨ k = 12 ∨ k = 13 ∨ k = 14 ∨ k = 15 by omega)
  · try simp only
    exact (no_row hu [(28, 4, 10), (24, 4, 0)] (by decide) (by simp [hh, hl])).elim
  · try simp only
    exact (no_row hu [(28, 4, 10), (24, 4, 1)] (by decide) (by simp [hh, hl])).elim
  · try simp only
    exact (no_row hu [(28, 4, 10), (24, 4, 2)] (by decide) (by simp [hh, hl])).elim
  · try simp only
    rw [if_neg (by rintro hc; exact no_row hu [(28, 4, 10), (24, 4, 3), (0, 20, 0)] (by decide) (by simp [hh, hl, hc]))]
  · try simp only
    rw [if_neg (by rintro ⟨c0, c1⟩; exact no_row hu [(28, 4, 10), (24, 4, 4), (14, 6, 0), (0, 7, 0)] (by decide) (by simp [hh, hl, c0, c1]))]
  · try simp only
    exact (no_row hu [(28, 4, 10), (24, 4, 5)] (by decide) (by simp [hh, hl])).elim
  · try simp only
    rw [if_neg (by rintro hc; exact no_row hu [(28, 4, 10), (24, 4, 6), (0, 20, 0)] (by decide) (by simp [hh, hl, hc]))]
  · try simp only
    rw [if_neg (by rintro hc; exact no_row hu [(28, 4, 10), (24, 4, 7), (0, 20, 0)] (by decide) (by simp [hh, hl, hc]))]
  · try simp only
    rw [if_neg (by rintro hc; exact no_row hu [(28, 4, 10), (24, 4, 8), (0, 20, 0)] (by decide) (by simp [hh, hl, hc]))]
  · try simp only
    rw [if_neg (by rintro hc; exact no_row hu [(28, 4, 10), (24, 4, 9), (6, 14, 0)] (by decide) (by simp [hh, hl, hc]))]
  · try simp only
    rw [if_neg (by rintro hc; exact no_row hu [(28, 4, 10), (24, 4, 10), (6, 14, 0)] (by decide) (by simp [hh, hl, hc]))]
  · try simp only
    rw [if_neg (by rintro hc; exact no_row hu [(28, 4, 10), (24, 4, 11), (0, 20, 0)] (by decide) (by simp [hh, hl, hc]))]
  · try simp only
    rw [if_neg (by rintro ⟨c0, c1⟩; exact no_row hu [(28, 4, 10), (24, 4, 12), (14, 6, 0), (0, 7, 112)] (by decide) (by simp [hh, hl, c0, c1]))]
  · try simp only
    rw [if_neg (by rintro hc; exact no_row hu [(28, 4, 10), (24, 4, 13), (0, 20, 0)] (by decide) (by simp [hh, hl, hc]))]
  · try simp only
    rw [if_neg (by rintro hc; exact no_row hu [(28, 4, 10), (24, 4, 14), (0, 14, 14448)] (by decide) (by simp [hh, hl, hc]))]
  · rfl

theorem reservedB {w : Word} (hu : unassigned w = true) (hh : fld w 28 4 = 11#4) :
    decodeHiB w (fld w 24 4) = .reservedOpcode w := by
  have hlt := (fld w 24 4).isLt
  unfold decodeHiB
  generalize hk : (fld w 24 4).toNat = k at hlt
  have hl : fld w 24 4 = BitVec.ofNat 4 k := by rw [← hk]; simp
  obtain rfl | rfl | rfl | rfl | rfl | rfl | rfl | rfl | rfl | rfl | rfl | rfl | rfl | rfl | rfl | rfl := (show k = 0 ∨ k = 1 ∨ k = 2 ∨ k = 3 ∨ k = 4 ∨ k = 5 ∨ k = 6 ∨ k = 7 ∨ k = 8 ∨ k = 9 ∨ k = 10 ∨ k = 11 ∨ k = 12 ∨ k = 13 ∨ k = 14 ∨ k = 15 by omega)
  · try simp only
    rw [if_neg (by rintro hc; exact no_row hu [(28, 4, 11), (24, 4, 0), (14, 6, 0)] (by decide) (by simp [hh, hl, hc]))]
  · try simp only
    rw [if_neg (by rintro hc; exact no_row hu [(28, 4, 11), (24, 4, 1), (19, 1, 0)] (by decide) (by simp [hh, hl, hc]))]
  · try simp only
    rw [if_neg (by rintro hc; exact no_row hu [(28, 4, 11), (24, 4, 2), (19, 1, 0)] (by decide) (by simp [hh, hl, hc]))]
  · try simp only
    rw [if_neg (by rintro hc; exact no_row hu [(28, 4, 11), (24, 4, 3), (19, 1, 0)] (by decide) (by simp [hh, hl, hc]))]
  · try simp only
    rw [if_neg (by rintro hc; exact no_row hu [(28, 4, 11), (24, 4, 4), (19, 1, 0)] (by decide) (by simp [hh, hl, hc]))]
  · try simp only
    rw [if_neg (by rintro hc; exact no_row hu [(28, 4, 11), (24, 4, 5), (19, 1, 0)] (by decide) (by simp [hh, hl, hc]))]
  · try simp only
    rw [if_neg (by rintro ⟨c0, c1⟩; exact no_row hu [(28, 4, 11), (24, 4, 6), (19, 1, 0), (0, 14, 0)] (by decide) (by simp [hh, hl, c0, c1]))]
  · try simp only
    exact (no_row hu [(28, 4, 11), (24, 4, 7)] (by decide) (by simp [hh, hl])).elim
  · try simp only
    exact (no_row hu [(28, 4, 11), (24, 4, 8)] (by decide) (by simp [hh, hl])).elim
  · try simp only
    rw [if_neg (by rintro hc; exact no_row hu [(28, 4, 11), (24, 4, 9), (19, 1, 0)] (by decide) (by simp [hh, hl, hc]))]
  · try simp only
    rw [if_neg (by rintro hc; exact no_row hu [(28, 4, 11), (24, 4, 10), (0, 14, 0)] (by decide) (by simp [hh, hl, hc]))]
  · try simp only
    rw [if_neg (by rintro hc; exact no_row hu [(28, 4, 11), (24, 4, 11), (0, 20, 0)] (by decide) (by simp [hh, hl, hc]))]
  · try simp only
    rw [if_neg (by rintro hc; exact no_row hu [(28, 4, 11), (24, 4, 12), (0, 20, 0)] (by decide) (by simp [hh, hl, hc]))]
  · try simp only
    rw [if_neg (by rintro hc; exact no_row hu [(28, 4, 11), (24, 4, 13), (0, 20, 0)] (by decide) (by simp [hh, hl, hc]))]
  · try simp only
    exact (no_row hu [(28, 4, 11), (24, 4, 14)] (by decide) (by simp [hh, hl])).elim
  · rfl

theorem reservedC {w : Word} (hu : unassigned w = true) (hh : fld w 28 4 = 12#4) :
    decodeHiC w (fld w 24 4) = .reservedOpcode w := by
  have hlt := (fld w 24 4).isLt
  unfold decodeHiC
  generalize hk : (fld w 24 4).toNat = k at hlt
  have hl : fld w 24 4 = BitVec.ofNat 4 k := by rw [← hk]; simp
  obtain rfl | rfl | rfl | rfl | rfl | rfl | rfl | rfl | rfl | rfl | rfl | rfl | rfl | rfl | rfl | rfl := (show k = 0 ∨ k = 1 ∨ k = 2 ∨ k = 3 ∨ k = 4 ∨ k = 5 ∨ k = 6 ∨ k = 7 ∨ k = 8 ∨ k = 9 ∨ k = 10 ∨ k = 11 ∨ k = 12 ∨ k = 13 ∨ k = 14 ∨ k = 15 by omega)
  · try simp only
    rw [if_neg (by rintro ⟨c0, c1⟩; exact no_row hu [(28, 4, 12), (24, 4, 0), (16, 4, 0), (0, 7, 0)] (by decide) (by simp [hh, hl, c0, c1]))]
  · try simp only
    rw [if_neg (by rintro ⟨c0, c1⟩; exact no_row hu [(28, 4, 12), (24, 4, 1), (18, 2, 0), (0, 7, 0)] (by decide) (by simp [hh, hl, c0, c1]))]
  · try simp only
    rw [if_neg (by rintro ⟨c0, c1⟩; exact no_row hu [(28, 4, 12), (24, 4, 2), (18, 2, 0), (0, 7, 0)] (by decide) (by simp [hh, hl, c0, c1]))]
  · try simp only
    rw [if_neg (by rintro ⟨c0, c1⟩; exact no_row hu [(28, 4, 12), (24, 4, 3), (18, 2, 0), (0, 14, 0)] (by decide) (by simp [hh, hl, c0, c1]))]
  · try simp only
    exact (no_row hu [(28, 4, 12), (24, 4, 4)] (by decide) (by simp [hh, hl])).elim
  · try simp only
    exact (no_row hu [(28, 4, 12), (24, 4, 5)] (by decide) (by simp [hh, hl])).elim
  · try simp only
    rw [if_neg (by rintro ⟨c0, c1⟩; exact no_row hu [(28, 4, 12), (24, 4, 6), (14, 6, 0), (0, 7, 112)] (by decide) (by simp [hh, hl, c0, c1]))]
  · try simp only
    rw [if_neg (by rintro hc; exact no_row hu [(28, 4, 12), (24, 4, 7), (14, 6, 0)] (by decide) (by simp [hh, hl, hc]))]
  · try simp only
    rw [if_neg (by rintro hc; exact no_row hu [(28, 4, 12), (24, 4, 8), (0, 7, 112)] (by decide) (by simp [hh, hl, hc]))]
    rw [if_neg (by rintro hc; exact no_row hu [(28, 4, 12), (24, 4, 8), (0, 7, 113)] (by decide) (by simp [hh, hl, hc]))]
  · try simp only
    exact (no_row hu [(28, 4, 12), (24, 4, 9)] (by decide) (by simp [hh, hl])).elim
  · rfl
  · rfl
  · rfl
  · rfl
  · rfl
  · rfl

theorem reservedD {w : Word} (hu : unassigned w = true) (hh : fld w 28 4 = 13#4) :
    decodeHiD w (fld w 24 4) = .reservedOpcode w := by
  have hlt := (fld w 24 4).isLt
  unfold decodeHiD
  generalize hk : (fld w 24 4).toNat = k at hlt
  have hl : fld w 24 4 = BitVec.ofNat 4 k := by rw [← hk]; simp
  obtain rfl | rfl | rfl | rfl | rfl | rfl | rfl | rfl | rfl | rfl | rfl | rfl | rfl | rfl | rfl | rfl := (show k = 0 ∨ k = 1 ∨ k = 2 ∨ k = 3 ∨ k = 4 ∨ k = 5 ∨ k = 6 ∨ k = 7 ∨ k = 8 ∨ k = 9 ∨ k = 10 ∨ k = 11 ∨ k = 12 ∨ k = 13 ∨ k = 14 ∨ k = 15 by omega)
  · try simp only
    exact (no_row hu [(28, 4, 13), (24, 4, 0)] (by decide) (by simp [hh, hl])).elim
  · try simp only
    exact (no_row hu [(28, 4, 13), (24, 4, 1)] (by decide) (by simp [hh, hl])).elim
  · try simp only
    exact (no_row hu [(28, 4, 13), (24, 4, 2)] (by decide) (by simp [hh, hl])).elim
  · try simp only
    exact (no_row hu [(28, 4, 13), (24, 4, 3)] (by decide) (by simp [hh, hl])).elim
  · try simp only
    exact (no_row hu [(28, 4, 13), (24, 4, 4)] (by decide) (by simp [hh, hl])).elim
  · try simp only
    exact (no_row hu [(28, 4, 13), (24, 4, 5)] (by decide) (by simp [hh, hl])).elim
  · try simp only
    rw [if_neg (by rintro hc; exact no_row hu [(28, 4, 13), (24, 4, 6), (18, 2, 0)] (by decide) (by simp [hh, hl, hc]))]
  · try simp only
    rw [if_neg (by rintro hc; exact no_row hu [(28, 4, 13), (24, 4, 7), (18, 2, 0)] (by decide) (by simp [hh, hl, hc]))]
  · try simp only
    rw [if_neg (by rintro ⟨c0, c1, c2⟩; exact no_row hu [(28, 4, 13), (24, 4, 8), (18, 2, 0), (5, 2, 2), (0, 1, 0)] (by decide) (by simp [hh, hl, c0, c1, c2]))]
  · try simp only
    exact (no_row hu [(28, 4, 13), (24, 4, 9)] (by decide) (by simp [hh, hl])).elim
  · try simp only
    rw [if_neg (by rintro hc; exact no_row hu [(28, 4, 13), (24, 4, 10), (14, 6, 0)] (by decide) (by simp [hh, hl, hc]))]
  · try simp only
    rw [if_neg (by rintro hc; exact no_row hu [(28, 4, 13), (24, 4, 11), (0, 7, 112)] (by decide) (by simp [hh, hl, hc]))]
  · try simp only
    exact (no_row hu [(28, 4, 13), (24, 4, 12)] (by decide) (by simp [hh, hl])).elim
  · try simp only
    rw [if_neg (by rintro hc; exact no_row hu [(28, 4, 13), (24, 4, 13), (0, 20, 0)] (by decide) (by simp [hh, hl, hc]))]
  · try simp only
    rw [if_neg (by rintro hc; exact no_row hu [(28, 4, 13), (24, 4, 14), (0, 7, 112)] (by decide) (by simp [hh, hl, hc]))]
    rw [if_neg (by rintro hc; exact no_row hu [(28, 4, 13), (24, 4, 14), (0, 7, 113)] (by decide) (by simp [hh, hl, hc]))]
    rw [if_neg (by rintro ⟨c0, c1⟩; exact no_row hu [(28, 4, 13), (24, 4, 14), (5, 2, 2), (0, 1, 0)] (by decide) (by simp [hh, hl, c0, c1]))]
  · rfl

theorem reservedE {w : Word} (hu : unassigned w = true) (hh : fld w 28 4 = 14#4) :
    decodeHiE w (fld w 24 4) = .reservedOpcode w := by
  have hlt := (fld w 24 4).isLt
  unfold decodeHiE
  generalize hk : (fld w 24 4).toNat = k at hlt
  have hl : fld w 24 4 = BitVec.ofNat 4 k := by rw [← hk]; simp
  obtain rfl | rfl | rfl | rfl | rfl | rfl | rfl | rfl | rfl | rfl | rfl | rfl | rfl | rfl | rfl | rfl := (show k = 0 ∨ k = 1 ∨ k = 2 ∨ k = 3 ∨ k = 4 ∨ k = 5 ∨ k = 6 ∨ k = 7 ∨ k = 8 ∨ k = 9 ∨ k = 10 ∨ k = 11 ∨ k = 12 ∨ k = 13 ∨ k = 14 ∨ k = 15 by omega)
  · try simp only
    rw [if_neg (by rintro ⟨c0, c1⟩; exact no_row hu [(28, 4, 14), (24, 4, 0), (14, 6, 0), (0, 7, 0)] (by decide) (by simp [hh, hl, c0, c1]))]
  · try simp only
    rw [if_neg (by rintro hc; exact no_row hu [(28, 4, 14), (24, 4, 1), (0, 20, 0)] (by decide) (by simp [hh, hl, hc]))]
  · try simp only
    rw [if_neg (by rintro hc; exact no_row hu [(28, 4, 14), (24, 4, 2), (7, 7, 0)] (by decide) (by simp [hh, hl, hc]))]
  · try simp only
    rw [if_neg (by rintro hc; exact no_row hu [(28, 4, 14), (24, 4, 3), (14, 6, 0)] (by decide) (by simp [hh, hl, hc]))]
  · try simp only
    rw [if_neg (by rintro hc; exact no_row hu [(28, 4, 14), (24, 4, 4), (0, 20, 0)] (by decide) (by simp [hh, hl, hc]))]
  · try simp only
    rw [if_neg (by rintro hc; exact no_row hu [(28, 4, 14), (24, 4, 5), (0, 14, 0)] (by decide) (by simp [hh, hl, hc]))]
  · try simp only
    exact (no_row hu [(28, 4, 14), (24, 4, 6)] (by decide) (by simp [hh, hl])).elim
  · try simp only
    rw [if_neg (by rintro hc; exact no_row hu [(28, 4, 14), (24, 4, 7), (0, 20, 0)] (by decide) (by simp [hh, hl, hc]))]
    rw [if_neg (by rintro ⟨c0, c1⟩; exact no_row hu [(28, 4, 14), (24, 4, 7), (12, 8, 2), (0, 8, 1)] (by decide) (by simp [hh, hl, c0, c1]))]
    rw [if_neg (by rintro hc; exact no_row hu [(28, 4, 14), (24, 4, 7), (0, 20, 2)] (by decide) (by simp [hh, hl, hc]))]
  · try simp only
    rw [if_neg (by rintro hc; exact no_row hu [(28, 4, 14), (24, 4, 8), (0, 20, 0)] (by decide) (by simp [hh, hl, hc]))]
    rw [if_neg (by rintro hc; exact no_row hu [(28, 4, 14), (24, 4, 8), (0, 20, 1)] (by decide) (by simp [hh, hl, hc]))]
  · try simp only
    rw [if_neg (by rintro hc; exact no_row hu [(28, 4, 14), (24, 4, 9), (0, 20, 0)] (by decide) (by simp [hh, hl, hc]))]
  · rfl
  · rfl
  · rfl
  · rfl
  · rfl
  · rfl

theorem reservedF {w : Word} (hu : unassigned w = true) (hh : fld w 28 4 = 15#4) :
    decodeHiF w (fld w 24 4) = .reservedOpcode w := by
  have hlt := (fld w 24 4).isLt
  unfold decodeHiF
  generalize hk : (fld w 24 4).toNat = k at hlt
  have hl : fld w 24 4 = BitVec.ofNat 4 k := by rw [← hk]; simp
  obtain rfl | rfl | rfl | rfl | rfl | rfl | rfl | rfl | rfl | rfl | rfl | rfl | rfl | rfl | rfl | rfl := (show k = 0 ∨ k = 1 ∨ k = 2 ∨ k = 3 ∨ k = 4 ∨ k = 5 ∨ k = 6 ∨ k = 7 ∨ k = 8 ∨ k = 9 ∨ k = 10 ∨ k = 11 ∨ k = 12 ∨ k = 13 ∨ k = 14 ∨ k = 15 by omega)
  · try simp only
    exact (no_row hu [(28, 4, 15), (24, 4, 0)] (by decide) (by simp [hh, hl])).elim
  · rfl
  · rfl
  · rfl
  · try simp only
    exact (no_row hu [(28, 4, 15), (24, 4, 4)] (by decide) (by simp [hh, hl])).elim
  · try simp only
    exact (no_row hu [(28, 4, 15), (24, 4, 5)] (by decide) (by simp [hh, hl])).elim
  · rfl
  · rfl
  · rfl
  · rfl
  · rfl
  · rfl
  · rfl
  · rfl
  · rfl
  · rfl

theorem reservedOpcode (x : BitVec 32) : Statement (.reservedOpcode x) := by
  intro w hu h
  obtain rfl : x = w := Option.some.inj h
  have hlt := (fld x 28 4).isLt
  unfold decodeWord
  generalize hk : (fld x 28 4).toNat = k at hlt
  have hl : fld x 28 4 = BitVec.ofNat 4 k := by rw [← hk]; simp
  obtain rfl | rfl | rfl | rfl | rfl | rfl | rfl | rfl | rfl | rfl | rfl | rfl | rfl | rfl | rfl | rfl := (show k = 0 ∨ k = 1 ∨ k = 2 ∨ k = 3 ∨ k = 4 ∨ k = 5 ∨ k = 6 ∨ k = 7 ∨ k = 8 ∨ k = 9 ∨ k = 10 ∨ k = 11 ∨ k = 12 ∨ k = 13 ∨ k = 14 ∨ k = 15 by omega)
  · exact reserved0 hu hl
  · exact reserved1 hu hl
  · exact reserved2 hu hl
  · exact reserved3 hu hl
  · exact reserved4 hu hl
  · exact reserved5 hu hl
  · exact reserved6 hu hl
  · exact reserved7 hu hl
  · exact reserved8 hu hl
  · exact reserved9 hu hl
  · exact reservedA hu hl
  · exact reservedB hu hl
  · exact reservedC hu hl
  · exact reservedD hu hl
  · exact reservedE hu hl
  · exact reservedF hu hl

/-! ## Every word is the word of the instruction it decodes to -/

/-- Two neighbouring fields are one. -/
theorem join (w : Word) (lo n hi m : Nat) (h : hi = lo + n) : fld w hi m ++ fld w lo n = fld w lo (m + n) := by
  subst h
  apply BitVec.eq_of_getLsbD_eq
  intro i hi
  simp only [fld, BitVec.getLsbD_append, BitVec.getLsbD_extractLsb']
  by_cases h : i < n
  · simp [h, show i < m + n by omega]
  · simp [h, show i - n < m by omega, hi, show lo + n + (i - n) = lo + i by omega]

theorem whole (w : Word) : fld w 0 32 = w := BitVec.extractLsb'_eq_self

/-- A field below the high part of a word that is one field so far. -/
theorem grow {w : Word} {x : BitVec m} {y : BitVec n} (lo : Nat) (hx : x = fld w (lo + n) m) (hy : y = fld w lo n) : x ++ y = fld w lo (m + n) := by
  subst hx hy
  exact join w lo n (lo + n) m rfl

theorem op_eq {w : Word} {H k : Nat} (hh : fld w 28 4 = BitVec.ofNat 4 H) (hl : fld w 24 4 = BitVec.ofNat 4 k) :
    BitVec.ofNat 4 H ++ BitVec.ofNat 4 k = fld w 24 8 := by
  rw [← hh, ← hl]
  exact join w 24 4 28 4 rfl

theorem encodeHi0 {w : Word} (hh : fld w 28 4 = 0#4) : encode (decodeHi0 w (fld w 24 4)) = some w := by
  have hlt := (fld w 24 4).isLt
  unfold decodeHi0
  generalize hk : (fld w 24 4).toNat = k at hlt
  have hl : fld w 24 4 = BitVec.ofNat 4 k := by rw [← hk]; simp
  have ho := op_eq hh hl
  obtain rfl | rfl | rfl | rfl | rfl | rfl | rfl | rfl | rfl | rfl | rfl | rfl | rfl | rfl | rfl | rfl := (show k = 0 ∨ k = 1 ∨ k = 2 ∨ k = 3 ∨ k = 4 ∨ k = 5 ∨ k = 6 ∨ k = 7 ∨ k = 8 ∨ k = 9 ∨ k = 10 ∨ k = 11 ∨ k = 12 ∨ k = 13 ∨ k = 14 ∨ k = 15 by omega)
  · try simp only
    exact congrArg some ((grow 0 (grow 7 (grow 14 (grow 20 (ho) rfl) rfl) rfl) rfl).trans (whole w))
  · try simp only
    exact congrArg some ((grow 0 (grow 7 (grow 14 (grow 20 (ho) rfl) rfl) rfl) rfl).trans (whole w))
  · try simp only
    exact congrArg some ((grow 0 (grow 7 (grow 14 (grow 20 (ho) rfl) rfl) rfl) rfl).trans (whole w))
  · try simp only
    exact congrArg some ((grow 0 (grow 7 (grow 14 (grow 20 (ho) rfl) rfl) rfl) rfl).trans (whole w))
  · try simp only
    exact congrArg some ((grow 0 (grow 7 (grow 14 (grow 20 (ho) rfl) rfl) rfl) rfl).trans (whole w))
  · try simp only
    exact congrArg some ((grow 0 (grow 7 (grow 14 (grow 20 (ho) rfl) rfl) rfl) rfl).trans (whole w))
  · try simp only
    exact congrArg some ((grow 0 (grow 7 (grow 14 (grow 20 (ho) rfl) rfl) rfl) rfl).trans (whole w))
  · try simp only
    exact congrArg some ((grow 0 (grow 7 (grow 14 (grow 20 (ho) rfl) rfl) rfl) rfl).trans (whole w))
  · try simp only
    exact congrArg some ((grow 0 (grow 7 (grow 14 (grow 20 (ho) rfl) rfl) rfl) rfl).trans (whole w))
  · try simp only
    exact congrArg some ((grow 0 (grow 7 (grow 14 (grow 20 (ho) rfl) rfl) rfl) rfl).trans (whole w))
  · try simp only
    exact congrArg some ((grow 0 (grow 7 (grow 14 (grow 20 (ho) rfl) rfl) rfl) rfl).trans (whole w))
  · try simp only
    exact congrArg some ((grow 0 (grow 7 (grow 14 (grow 20 (ho) rfl) rfl) rfl) rfl).trans (whole w))
  · try simp only
    split
    · rename_i hc0
      exact congrArg some ((grow 0 (grow 7 (grow 14 (grow 20 (ho) rfl) rfl) rfl) (hc0.symm)).trans (whole w))
    · rfl
  · try simp only
    exact congrArg some ((grow 0 (grow 7 (grow 14 (grow 20 (ho) rfl) rfl) rfl) rfl).trans (whole w))
  · try simp only
    exact congrArg some ((grow 0 (grow 7 (grow 14 (grow 20 (ho) rfl) rfl) rfl) rfl).trans (whole w))
  · try simp only
    exact congrArg some ((grow 0 (grow 7 (grow 14 (grow 20 (ho) rfl) rfl) rfl) rfl).trans (whole w))

theorem encodeHi1 {w : Word} (hh : fld w 28 4 = 1#4) : encode (decodeHi1 w (fld w 24 4)) = some w := by
  have hlt := (fld w 24 4).isLt
  unfold decodeHi1
  generalize hk : (fld w 24 4).toNat = k at hlt
  have hl : fld w 24 4 = BitVec.ofNat 4 k := by rw [← hk]; simp
  have ho := op_eq hh hl
  obtain rfl | rfl | rfl | rfl | rfl | rfl | rfl | rfl | rfl | rfl | rfl | rfl | rfl | rfl | rfl | rfl := (show k = 0 ∨ k = 1 ∨ k = 2 ∨ k = 3 ∨ k = 4 ∨ k = 5 ∨ k = 6 ∨ k = 7 ∨ k = 8 ∨ k = 9 ∨ k = 10 ∨ k = 11 ∨ k = 12 ∨ k = 13 ∨ k = 14 ∨ k = 15 by omega)
  · try simp only
    exact congrArg some ((grow 0 (grow 7 (grow 14 (grow 20 (ho) rfl) rfl) rfl) rfl).trans (whole w))
  · try simp only
    exact congrArg some ((grow 0 (grow 7 (grow 14 (grow 20 (ho) rfl) rfl) rfl) rfl).trans (whole w))
  · try simp only
    exact congrArg some ((grow 0 (grow 7 (grow 14 (grow 20 (ho) rfl) rfl) rfl) rfl).trans (whole w))
  · try simp only
    exact congrArg some ((grow 0 (grow 7 (grow 14 (grow 20 (ho) rfl) rfl) rfl) rfl).trans (whole w))
  · try simp only
    split
    · rename_i hc0
      exact congrArg some ((grow 0 (grow 7 (grow 14 (grow 20 (ho) rfl) rfl) rfl) (hc0.symm)).trans (whole w))
    · rfl
  · try simp only
    exact congrArg some ((grow 0 (grow 7 (grow 14 (grow 20 (ho) rfl) rfl) rfl) rfl).trans (whole w))
  · try simp only
    exact congrArg some ((grow 0 (grow 7 (grow 14 (grow 20 (ho) rfl) rfl) rfl) rfl).trans (whole w))
  · try simp only
    exact congrArg some ((grow 0 (grow 7 (grow 14 (grow 20 (ho) rfl) rfl) rfl) rfl).trans (whole w))
  · try simp only
    exact congrArg some ((grow 0 (grow 7 (grow 14 (grow 20 (ho) rfl) rfl) rfl) rfl).trans (whole w))
  · try simp only
    split
    · rename_i hc0
      exact congrArg some ((grow 0 (grow 7 (grow 14 (grow 20 (ho) rfl) rfl) rfl) (hc0.symm)).trans (whole w))
    · rfl
  · try simp only
    split
    · rename_i hc0
      exact congrArg some ((grow 0 (grow 7 (grow 14 (grow 20 (ho) rfl) rfl) rfl) (hc0.symm)).trans (whole w))
    · rfl
  · try simp only
    split
    · rename_i hc0
      exact congrArg some ((grow 0 (grow 7 (grow 14 (grow 20 (ho) rfl) rfl) rfl) (hc0.symm)).trans (whole w))
    · rfl
  · try simp only
    exact congrArg some ((grow 0 (grow 7 (grow 14 (grow 20 (ho) rfl) rfl) rfl) rfl).trans (whole w))
  · try simp only
    exact congrArg some ((grow 0 (grow 7 (grow 14 (grow 20 (ho) rfl) rfl) rfl) rfl).trans (whole w))
  · try simp only
    exact congrArg some ((grow 0 (grow 7 (grow 14 (grow 20 (ho) rfl) rfl) rfl) rfl).trans (whole w))
  · try simp only
    split
    · rename_i hc0
      exact congrArg some ((grow 0 (grow 3 (grow 7 (grow 14 (grow 20 (ho) rfl) rfl) rfl) (hc0.symm)) rfl).trans (whole w))
    · rfl

theorem encodeHi2 {w : Word} (hh : fld w 28 4 = 2#4) : encode (decodeHi2 w (fld w 24 4)) = some w := by
  have hlt := (fld w 24 4).isLt
  unfold decodeHi2
  generalize hk : (fld w 24 4).toNat = k at hlt
  have hl : fld w 24 4 = BitVec.ofNat 4 k := by rw [← hk]; simp
  have ho := op_eq hh hl
  obtain rfl | rfl | rfl | rfl | rfl | rfl | rfl | rfl | rfl | rfl | rfl | rfl | rfl | rfl | rfl | rfl := (show k = 0 ∨ k = 1 ∨ k = 2 ∨ k = 3 ∨ k = 4 ∨ k = 5 ∨ k = 6 ∨ k = 7 ∨ k = 8 ∨ k = 9 ∨ k = 10 ∨ k = 11 ∨ k = 12 ∨ k = 13 ∨ k = 14 ∨ k = 15 by omega)
  · try simp only
    exact congrArg some ((grow 0 (grow 7 (grow 14 (grow 20 (ho) rfl) rfl) rfl) rfl).trans (whole w))
  · try simp only
    exact congrArg some ((grow 0 (grow 7 (grow 14 (grow 20 (ho) rfl) rfl) rfl) rfl).trans (whole w))
  · try simp only
    exact congrArg some ((grow 0 (grow 7 (grow 14 (grow 20 (ho) rfl) rfl) rfl) rfl).trans (whole w))
  · try simp only
    exact congrArg some ((grow 0 (grow 7 (grow 14 (grow 20 (ho) rfl) rfl) rfl) rfl).trans (whole w))
  · try simp only
    exact congrArg some ((grow 0 (grow 7 (grow 14 (grow 20 (ho) rfl) rfl) rfl) rfl).trans (whole w))
  · try simp only
    exact congrArg some ((grow 0 (grow 7 (grow 14 (grow 20 (ho) rfl) rfl) rfl) rfl).trans (whole w))
  · try simp only
    split
    · rename_i hc0
      exact congrArg some ((grow 0 (grow 7 (grow 14 (grow 20 (ho) rfl) rfl) rfl) (hc0.symm)).trans (whole w))
    · rfl
  · try simp only
    split
    · rename_i hc0
      exact congrArg some ((grow 0 (grow 7 (grow 14 (grow 20 (ho) rfl) rfl) rfl) (hc0.symm)).trans (whole w))
    · rfl
  · try simp only
    exact congrArg some ((grow 0 (grow 7 (grow 14 (grow 20 (ho) rfl) rfl) rfl) rfl).trans (whole w))
  · try simp only
    exact congrArg some ((grow 0 (grow 7 (grow 14 (grow 20 (ho) rfl) rfl) rfl) rfl).trans (whole w))
  · try simp only
    exact congrArg some ((grow 0 (grow 7 (grow 14 (grow 20 (ho) rfl) rfl) rfl) rfl).trans (whole w))
  · try simp only
    exact congrArg some ((grow 0 (grow 7 (grow 14 (grow 20 (ho) rfl) rfl) rfl) rfl).trans (whole w))
  · try simp only
    exact congrArg some ((grow 0 (grow 7 (grow 14 (grow 20 (ho) rfl) rfl) rfl) rfl).trans (whole w))
  · try simp only
    exact congrArg some ((grow 0 (grow 7 (grow 14 (grow 20 (ho) rfl) rfl) rfl) rfl).trans (whole w))
  · try simp only
    exact congrArg some ((grow 0 (grow 7 (grow 14 (grow 20 (ho) rfl) rfl) rfl) rfl).trans (whole w))
  · try simp only
    exact congrArg some ((grow 0 (grow 7 (grow 14 (grow 20 (ho) rfl) rfl) rfl) rfl).trans (whole w))

theorem encodeHi3 {w : Word} (hh : fld w 28 4 = 3#4) : encode (decodeHi3 w (fld w 24 4)) = some w := by
  have hlt := (fld w 24 4).isLt
  unfold decodeHi3
  generalize hk : (fld w 24 4).toNat = k at hlt
  have hl : fld w 24 4 = BitVec.ofNat 4 k := by rw [← hk]; simp
  have ho := op_eq hh hl
  obtain rfl | rfl | rfl | rfl | rfl | rfl | rfl | rfl | rfl | rfl | rfl | rfl | rfl | rfl | rfl | rfl := (show k = 0 ∨ k = 1 ∨ k = 2 ∨ k = 3 ∨ k = 4 ∨ k = 5 ∨ k = 6 ∨ k = 7 ∨ k = 8 ∨ k = 9 ∨ k = 10 ∨ k = 11 ∨ k = 12 ∨ k = 13 ∨ k = 14 ∨ k = 15 by omega)
  · try simp only
    split
    · rename_i hc0
      exact congrArg some ((grow 0 (grow 7 (grow 14 (grow 20 (ho) rfl) rfl) rfl) (hc0.symm)).trans (whole w))
    · rfl
  · try simp only
    split
    · rename_i hc0
      exact congrArg some ((grow 0 (grow 7 (grow 14 (grow 20 (ho) rfl) rfl) rfl) (hc0.symm)).trans (whole w))
    · rfl
  · try simp only
    split
    · rename_i hc0
      exact congrArg some ((grow 0 (grow 7 (grow 14 (grow 20 (ho) rfl) rfl) rfl) (hc0.symm)).trans (whole w))
    · rfl
  · try simp only
    exact congrArg some ((grow 0 (grow 7 (grow 14 (grow 20 (ho) rfl) rfl) rfl) rfl).trans (whole w))
  · try simp only
    split
    · rename_i hc0
      exact congrArg some ((grow 0 (grow 7 (grow 14 (grow 20 (ho) rfl) rfl) rfl) (hc0.symm)).trans (whole w))
    · rfl
  · try simp only
    split
    · rename_i hc0
      exact congrArg some ((grow 0 (grow 7 (grow 14 (grow 20 (ho) rfl) rfl) rfl) (hc0.symm)).trans (whole w))
    · rfl
  · try simp only
    split
    · rename_i hc0
      exact congrArg some ((grow 0 (grow 7 (grow 14 (grow 20 (ho) rfl) rfl) rfl) (hc0.symm)).trans (whole w))
    · rfl
  · try simp only
    split
    · rename_i hc0
      exact congrArg some ((grow 0 (grow 7 (grow 14 (grow 20 (ho) rfl) rfl) rfl) (hc0.symm)).trans (whole w))
    · rfl
  · try simp only
    split
    · rename_i hc0
      exact congrArg some ((grow 0 (grow 7 (grow 14 (grow 20 (ho) rfl) rfl) rfl) (hc0.symm)).trans (whole w))
    · rfl
  · try simp only
    exact congrArg some ((grow 0 (grow 7 (grow 14 (grow 20 (ho) rfl) rfl) rfl) rfl).trans (whole w))
  · try simp only
    split
    · rename_i hc0
      exact congrArg some ((grow 0 (grow 2 (grow 7 (grow 14 (grow 20 (ho) rfl) rfl) rfl) (hc0.symm)) rfl).trans (whole w))
    · rfl
  · try simp only
    split
    · rename_i hc0
      exact congrArg some ((grow 0 (grow 7 (grow 14 (grow 17 (grow 20 (ho) rfl) (hc0.symm)) rfl) rfl) rfl).trans (whole w))
    · rfl
  · try simp only
    exact congrArg some ((grow 0 (grow 7 (grow 14 (grow 20 (ho) rfl) rfl) rfl) rfl).trans (whole w))
  · try simp only
    exact congrArg some ((grow 0 (grow 7 (grow 14 (grow 20 (ho) rfl) rfl) rfl) rfl).trans (whole w))
  · try simp only
    exact congrArg some ((grow 0 (grow 7 (grow 14 (grow 20 (ho) rfl) rfl) rfl) rfl).trans (whole w))
  · try simp only
    split
    · rename_i hc0
      exact congrArg some ((grow 0 (grow 7 (grow 14 (grow 20 (ho) rfl) rfl) rfl) (hc0.symm)).trans (whole w))
    · rfl

theorem encodeHi4 {w : Word} (hh : fld w 28 4 = 4#4) : encode (decodeHi4 w (fld w 24 4)) = some w := by
  have hlt := (fld w 24 4).isLt
  unfold decodeHi4
  generalize hk : (fld w 24 4).toNat = k at hlt
  have hl : fld w 24 4 = BitVec.ofNat 4 k := by rw [← hk]; simp
  have ho := op_eq hh hl
  obtain rfl | rfl | rfl | rfl | rfl | rfl | rfl | rfl | rfl | rfl | rfl | rfl | rfl | rfl | rfl | rfl := (show k = 0 ∨ k = 1 ∨ k = 2 ∨ k = 3 ∨ k = 4 ∨ k = 5 ∨ k = 6 ∨ k = 7 ∨ k = 8 ∨ k = 9 ∨ k = 10 ∨ k = 11 ∨ k = 12 ∨ k = 13 ∨ k = 14 ∨ k = 15 by omega)
  · try simp only
    split
    · rename_i hc0
      exact congrArg some ((grow 0 (grow 3 (grow 6 (grow 7 (grow 14 (grow 20 (ho) rfl) rfl) rfl) (hc0.symm)) rfl) rfl).trans (whole w))
    · rfl
  · try simp only
    split
    · rename_i hc0
      exact congrArg some ((grow 0 (grow 3 (grow 6 (grow 7 (grow 14 (grow 20 (ho) rfl) rfl) rfl) (hc0.symm)) rfl) rfl).trans (whole w))
    · rfl
  · try simp only
    split
    · rename_i hc0
      exact congrArg some ((grow 0 (grow 3 (grow 6 (grow 7 (grow 14 (grow 20 (ho) rfl) rfl) rfl) (hc0.symm)) rfl) rfl).trans (whole w))
    · rfl
  · try simp only
    split
    · rename_i hc0
      exact congrArg some ((grow 0 (grow 3 (grow 6 (grow 7 (grow 14 (grow 20 (ho) rfl) rfl) rfl) (hc0.symm)) rfl) rfl).trans (whole w))
    · rfl
  · try simp only
    exact congrArg some ((grow 0 (grow 3 (grow 6 (grow 7 (grow 14 (grow 20 (ho) rfl) rfl) rfl) rfl) rfl) rfl).trans (whole w))
  · try simp only
    split
    · rename_i hc0
      obtain ⟨c0_0, c0_1⟩ := hc0
      exact congrArg some ((grow 0 (grow 4 (grow 7 (grow 10 (grow 14 (grow 17 (grow 20 (ho) rfl) (c0_0.symm)) rfl) (c0_1.symm)) rfl) rfl) rfl).trans (whole w))
    · rfl
  · try simp only
    exact congrArg some ((grow 0 (grow 7 (grow 14 (grow 20 (ho) rfl) rfl) rfl) rfl).trans (whole w))
  · try simp only
    split
    · rename_i hc0
      obtain ⟨c0_0, c0_1⟩ := hc0
      exact congrArg some ((grow 0 (grow 2 (grow 7 (grow 14 (grow 17 (grow 20 (ho) rfl) (c0_0.symm)) rfl) rfl) (c0_1.symm)) rfl).trans (whole w))
    · rfl
  · try simp only
    exact congrArg some ((grow 0 (grow 7 (grow 14 (grow 20 (ho) rfl) rfl) rfl) rfl).trans (whole w))
  · try simp only
    exact congrArg some ((grow 0 (grow 7 (grow 14 (grow 20 (ho) rfl) rfl) rfl) rfl).trans (whole w))
  · try simp only
    exact congrArg some ((grow 0 (grow 7 (grow 14 (grow 20 (ho) rfl) rfl) rfl) rfl).trans (whole w))
  · try simp only
    exact congrArg some ((grow 0 (grow 7 (grow 14 (grow 20 (ho) rfl) rfl) rfl) rfl).trans (whole w))
  · try simp only
    split
    · rename_i hc0
      exact congrArg some ((grow 0 (grow 4 (grow 7 (grow 14 (grow 20 (ho) rfl) rfl) rfl) (hc0.symm)) rfl).trans (whole w))
    · rfl
  · try simp only
    exact congrArg some ((grow 0 (grow 7 (grow 14 (grow 20 (ho) rfl) rfl) rfl) rfl).trans (whole w))
  · try simp only
    split
    · rename_i hc0
      obtain ⟨c0_0, c0_1⟩ := hc0
      exact congrArg some ((grow 0 (grow 7 (grow 14 (grow 19 (grow 20 (ho) rfl) (c0_0.symm)) rfl) rfl) (c0_1.symm)).trans (whole w))
    · rfl
  · rfl

theorem encodeHi5 {w : Word} (hh : fld w 28 4 = 5#4) : encode (decodeHi5 w (fld w 24 4)) = some w := by
  have hlt := (fld w 24 4).isLt
  unfold decodeHi5
  generalize hk : (fld w 24 4).toNat = k at hlt
  have hl : fld w 24 4 = BitVec.ofNat 4 k := by rw [← hk]; simp
  have ho := op_eq hh hl
  obtain rfl | rfl | rfl | rfl | rfl | rfl | rfl | rfl | rfl | rfl | rfl | rfl | rfl | rfl | rfl | rfl := (show k = 0 ∨ k = 1 ∨ k = 2 ∨ k = 3 ∨ k = 4 ∨ k = 5 ∨ k = 6 ∨ k = 7 ∨ k = 8 ∨ k = 9 ∨ k = 10 ∨ k = 11 ∨ k = 12 ∨ k = 13 ∨ k = 14 ∨ k = 15 by omega)
  · try simp only
    split
    · rename_i hc0
      exact congrArg some ((grow 0 (grow 7 (grow 14 (grow 20 (ho) rfl) rfl) rfl) (hc0.symm)).trans (whole w))
    · rfl
  · try simp only
    split
    · rename_i hc0
      exact congrArg some ((grow 0 (grow 7 (grow 14 (grow 20 (ho) rfl) rfl) rfl) (hc0.symm)).trans (whole w))
    · rfl
  · try simp only
    split
    · rename_i hc0
      exact congrArg some ((grow 0 (grow 7 (grow 14 (grow 19 (grow 20 (ho) rfl) (hc0.symm)) rfl) rfl) rfl).trans (whole w))
    · rfl
  · try simp only
    exact congrArg some ((grow 0 (grow 4 (grow 6 (grow 7 (grow 14 (grow 20 (ho) rfl) rfl) rfl) rfl) rfl) rfl).trans (whole w))
  · try simp only
    exact congrArg some ((grow 0 (grow 7 (grow 14 (grow 20 (ho) rfl) rfl) rfl) rfl).trans (whole w))
  · try simp only
    exact congrArg some ((grow 0 (grow 7 (grow 14 (grow 20 (ho) rfl) rfl) rfl) rfl).trans (whole w))
  · try simp only
    exact congrArg some ((grow 0 (grow 7 (grow 14 (grow 20 (ho) rfl) rfl) rfl) rfl).trans (whole w))
  · try simp only
    exact congrArg some ((grow 0 (grow 7 (grow 14 (grow 20 (ho) rfl) rfl) rfl) rfl).trans (whole w))
  · try simp only
    exact congrArg some ((grow 0 (grow 7 (grow 14 (grow 20 (ho) rfl) rfl) rfl) rfl).trans (whole w))
  · try simp only
    split
    · rename_i hc0
      exact congrArg some ((grow 0 (grow 3 (grow 7 (grow 14 (grow 20 (ho) rfl) rfl) rfl) (hc0.symm)) rfl).trans (whole w))
    · rfl
  · try simp only
    exact congrArg some ((grow 0 (grow 7 (grow 14 (grow 20 (ho) rfl) rfl) rfl) rfl).trans (whole w))
  · try simp only
    exact congrArg some ((grow 0 (grow 7 (grow 14 (grow 20 (ho) rfl) rfl) rfl) rfl).trans (whole w))
  · rfl
  · rfl
  · rfl
  · rfl

theorem encodeHi6 {w : Word} (hh : fld w 28 4 = 6#4) : encode (decodeHi6 w (fld w 24 4)) = some w := by
  have hlt := (fld w 24 4).isLt
  unfold decodeHi6
  generalize hk : (fld w 24 4).toNat = k at hlt
  have hl : fld w 24 4 = BitVec.ofNat 4 k := by rw [← hk]; simp
  have ho := op_eq hh hl
  obtain rfl | rfl | rfl | rfl | rfl | rfl | rfl | rfl | rfl | rfl | rfl | rfl | rfl | rfl | rfl | rfl := (show k = 0 ∨ k = 1 ∨ k = 2 ∨ k = 3 ∨ k = 4 ∨ k = 5 ∨ k = 6 ∨ k = 7 ∨ k = 8 ∨ k = 9 ∨ k = 10 ∨ k = 11 ∨ k = 12 ∨ k = 13 ∨ k = 14 ∨ k = 15 by omega)
  · try simp only
    split
    · rename_i hc0
      obtain ⟨c0_0, c0_1⟩ := hc0
      exact congrArg some ((grow 0 (grow 7 (grow 14 (grow 18 (grow 20 (ho) rfl) (c0_0.symm)) rfl) rfl) (c0_1.symm)).trans (whole w))
    · rfl
  · try simp only
    split
    · rename_i hc0
      obtain ⟨c0_0, c0_1⟩ := hc0
      exact congrArg some ((grow 0 (grow 3 (grow 4 (grow 7 (grow 11 (grow 14 (grow 20 (ho) rfl) rfl) (c0_0.symm)) rfl) (c0_1.symm)) rfl) rfl).trans (whole w))
    · rfl
  · try simp only
    split
    · rename_i hc0
      obtain ⟨c0_0, c0_1⟩ := hc0
      exact congrArg some ((grow 0 (grow 3 (grow 7 (grow 11 (grow 14 (grow 20 (ho) rfl) rfl) (c0_0.symm)) rfl) (c0_1.symm)) rfl).trans (whole w))
    · rfl
  · try simp only
    split
    · rename_i hc0
      obtain ⟨c0_0, c0_1⟩ := hc0
      exact congrArg some ((grow 0 (grow 1 (grow 7 (grow 11 (grow 14 (grow 20 (ho) rfl) rfl) (c0_0.symm)) rfl) (c0_1.symm)) rfl).trans (whole w))
    · rfl
  · try simp only
    split
    · rename_i hc0
      obtain ⟨c0_0, c0_1⟩ := hc0
      exact congrArg some ((grow 0 (grow 7 (grow 14 (grow 18 (grow 20 (ho) rfl) (c0_0.symm)) rfl) (c0_1.symm)) rfl).trans (whole w))
    · rfl
  · try simp only
    split
    · rename_i hc0
      obtain ⟨c0_0, c0_1⟩ := hc0
      exact congrArg some ((grow 0 (grow 1 (grow 14 (grow 18 (grow 20 (ho) rfl) (c0_0.symm)) rfl) (c0_1.symm)) rfl).trans (whole w))
    · rfl
  · try simp only
    split
    · rename_i hc0
      obtain ⟨c0_0, c0_1⟩ := hc0
      exact congrArg some ((grow 0 (grow 3 (grow 7 (grow 11 (grow 14 (grow 20 (ho) rfl) rfl) (c0_0.symm)) rfl) (c0_1.symm)) rfl).trans (whole w))
    · rfl
  · try simp only
    split
    · rename_i hc0
      obtain ⟨c0_0, c0_1⟩ := hc0
      exact congrArg some ((grow 0 (grow 14 (grow 18 (grow 20 (ho) rfl) (c0_0.symm)) rfl) (c0_1.symm)).trans (whole w))
    · split
      · rename_i hc1
        obtain ⟨c1_0, c1_1, c1_2⟩ := hc1
        exact congrArg some ((grow 0 (grow 1 (grow 4 (grow 14 (grow 18 (grow 20 (ho) rfl) (c1_0.symm)) rfl) (c1_1.symm)) rfl) (c1_2.symm)).trans (whole w))
      · rfl
  · try simp only
    split
    · rename_i hc0
      exact congrArg some ((grow 0 (grow 7 (grow 14 (grow 20 (ho) rfl) (hc0.symm)) rfl) rfl).trans (whole w))
    · rfl
  · try simp only
    split
    · rename_i hc0
      exact congrArg some ((grow 0 (grow 7 (grow 14 (grow 20 (ho) rfl) (hc0.symm)) rfl) rfl).trans (whole w))
    · rfl
  · try simp only
    exact congrArg some ((grow 0 (grow 7 (grow 14 (grow 20 (ho) rfl) rfl) rfl) rfl).trans (whole w))
  · try simp only
    exact congrArg some ((grow 0 (grow 7 (grow 14 (grow 20 (ho) rfl) rfl) rfl) rfl).trans (whole w))
  · try simp only
    split
    · rename_i hc0
      exact congrArg some ((grow 0 (grow 7 (grow 14 (grow 20 (ho) rfl) (hc0.symm)) rfl) rfl).trans (whole w))
    · rfl
  · rfl
  · rfl
  · rfl

theorem encodeHi7 {w : Word} (hh : fld w 28 4 = 7#4) : encode (decodeHi7 w (fld w 24 4)) = some w := by
  have hlt := (fld w 24 4).isLt
  unfold decodeHi7
  generalize hk : (fld w 24 4).toNat = k at hlt
  have hl : fld w 24 4 = BitVec.ofNat 4 k := by rw [← hk]; simp
  have ho := op_eq hh hl
  obtain rfl | rfl | rfl | rfl | rfl | rfl | rfl | rfl | rfl | rfl | rfl | rfl | rfl | rfl | rfl | rfl := (show k = 0 ∨ k = 1 ∨ k = 2 ∨ k = 3 ∨ k = 4 ∨ k = 5 ∨ k = 6 ∨ k = 7 ∨ k = 8 ∨ k = 9 ∨ k = 10 ∨ k = 11 ∨ k = 12 ∨ k = 13 ∨ k = 14 ∨ k = 15 by omega)
  · try simp only
    exact congrArg some ((grow 0 (grow 2 (grow 5 (grow 7 (grow 14 (grow 20 (ho) rfl) rfl) rfl) rfl) rfl) rfl).trans (whole w))
  · try simp only
    exact congrArg some ((grow 0 (grow 2 (grow 5 (grow 7 (grow 14 (grow 20 (ho) rfl) rfl) rfl) rfl) rfl) rfl).trans (whole w))
  · try simp only
    exact congrArg some ((grow 0 (grow 2 (grow 5 (grow 7 (grow 14 (grow 20 (ho) rfl) rfl) rfl) rfl) rfl) rfl).trans (whole w))
  · try simp only
    exact congrArg some ((grow 0 (grow 2 (grow 5 (grow 7 (grow 14 (grow 20 (ho) rfl) rfl) rfl) rfl) rfl) rfl).trans (whole w))
  · try simp only
    exact congrArg some ((grow 0 (grow 2 (grow 5 (grow 7 (grow 14 (grow 20 (ho) rfl) rfl) rfl) rfl) rfl) rfl).trans (whole w))
  · try simp only
    exact congrArg some ((grow 0 (grow 2 (grow 5 (grow 7 (grow 14 (grow 20 (ho) rfl) rfl) rfl) rfl) rfl) rfl).trans (whole w))
  · try simp only
    exact congrArg some ((grow 0 (grow 2 (grow 5 (grow 7 (grow 14 (grow 20 (ho) rfl) rfl) rfl) rfl) rfl) rfl).trans (whole w))
  · try simp only
    exact congrArg some ((grow 0 (grow 2 (grow 5 (grow 7 (grow 14 (grow 20 (ho) rfl) rfl) rfl) rfl) rfl) rfl).trans (whole w))
  · try simp only
    exact congrArg some ((grow 0 (grow 2 (grow 5 (grow 7 (grow 14 (grow 20 (ho) rfl) rfl) rfl) rfl) rfl) rfl).trans (whole w))
  · try simp only
    exact congrArg some ((grow 0 (grow 2 (grow 5 (grow 7 (grow 14 (grow 20 (ho) rfl) rfl) rfl) rfl) rfl) rfl).trans (whole w))
  · try simp only
    exact congrArg some ((grow 0 (grow 2 (grow 5 (grow 7 (grow 14 (grow 20 (ho) rfl) rfl) rfl) rfl) rfl) rfl).trans (whole w))
  · try simp only
    exact congrArg some ((grow 0 (grow 2 (grow 5 (grow 7 (grow 14 (grow 20 (ho) rfl) rfl) rfl) rfl) rfl) rfl).trans (whole w))
  · try simp only
    split
    · rename_i hc0
      obtain ⟨c0_0, c0_1⟩ := hc0
      exact congrArg some ((grow 0 (grow 2 (grow 7 (grow 14 (grow 18 (grow 20 (ho) rfl) (c0_0.symm)) rfl) rfl) (c0_1.symm)) rfl).trans (whole w))
    · rfl
  · try simp only
    split
    · rename_i hc0
      obtain ⟨c0_0, c0_1⟩ := hc0
      exact congrArg some ((grow 0 (grow 2 (grow 7 (grow 14 (grow 18 (grow 20 (ho) rfl) (c0_0.symm)) rfl) rfl) (c0_1.symm)) rfl).trans (whole w))
    · rfl
  · try simp only
    split
    · rename_i hc0
      obtain ⟨c0_0, c0_1⟩ := hc0
      exact congrArg some ((grow 0 (grow 2 (grow 7 (grow 14 (grow 18 (grow 20 (ho) rfl) (c0_0.symm)) rfl) rfl) (c0_1.symm)) rfl).trans (whole w))
    · rfl
  · try simp only
    split
    · rename_i hc0
      exact congrArg some ((grow 0 (grow 2 (grow 5 (grow 7 (grow 14 (grow 18 (grow 20 (ho) rfl) (hc0.symm)) rfl) rfl) rfl) rfl) rfl).trans (whole w))
    · rfl

theorem encodeHi8 {w : Word} (hh : fld w 28 4 = 8#4) : encode (decodeHi8 w (fld w 24 4)) = some w := by
  have hlt := (fld w 24 4).isLt
  unfold decodeHi8
  generalize hk : (fld w 24 4).toNat = k at hlt
  have hl : fld w 24 4 = BitVec.ofNat 4 k := by rw [← hk]; simp
  have ho := op_eq hh hl
  obtain rfl | rfl | rfl | rfl | rfl | rfl | rfl | rfl | rfl | rfl | rfl | rfl | rfl | rfl | rfl | rfl := (show k = 0 ∨ k = 1 ∨ k = 2 ∨ k = 3 ∨ k = 4 ∨ k = 5 ∨ k = 6 ∨ k = 7 ∨ k = 8 ∨ k = 9 ∨ k = 10 ∨ k = 11 ∨ k = 12 ∨ k = 13 ∨ k = 14 ∨ k = 15 by omega)
  · try simp only
    split
    · rename_i hc0
      exact congrArg some ((grow 0 (grow 2 (grow 5 (grow 7 (grow 14 (grow 18 (grow 20 (ho) rfl) (hc0.symm)) rfl) rfl) rfl) rfl) rfl).trans (whole w))
    · rfl
  · try simp only
    split
    · rename_i hc0
      exact congrArg some ((grow 0 (grow 2 (grow 5 (grow 7 (grow 14 (grow 18 (grow 20 (ho) rfl) (hc0.symm)) rfl) rfl) rfl) rfl) rfl).trans (whole w))
    · rfl
  · try simp only
    split
    · rename_i hc0
      exact congrArg some ((grow 0 (grow 2 (grow 7 (grow 14 (grow 20 (ho) rfl) rfl) rfl) (hc0.symm)) rfl).trans (whole w))
    · rfl
  · try simp only
    split
    · rename_i hc0
      exact congrArg some ((grow 0 (grow 2 (grow 7 (grow 14 (grow 20 (ho) rfl) rfl) rfl) (hc0.symm)) rfl).trans (whole w))
    · rfl
  · try simp only
    split
    · rename_i hc0
      obtain ⟨c0_0, c0_1⟩ := hc0
      exact congrArg some ((grow 0 (grow 2 (grow 7 (grow 14 (grow 20 (ho) rfl) (c0_0.symm)) rfl) (c0_1.symm)) rfl).trans (whole w))
    · rfl
  · try simp only
    split
    · rename_i hc0
      obtain ⟨c0_0, c0_1⟩ := hc0
      exact congrArg some ((grow 0 (grow 2 (grow 5 (grow 7 (grow 14 (grow 20 (ho) rfl) rfl) rfl) (c0_0.symm)) rfl) (c0_1.symm)).trans (whole w))
    · rfl
  · try simp only
    split
    · rename_i hc0
      exact congrArg some ((grow 0 (grow 2 (grow 5 (grow 7 (grow 14 (grow 20 (ho) rfl) rfl) rfl) (hc0.symm)) rfl) rfl).trans (whole w))
    · rfl
  · try simp only
    split
    · rename_i hc0
      obtain ⟨c0_0, c0_1⟩ := hc0
      exact congrArg some ((grow 0 (grow 2 (grow 5 (grow 7 (grow 20 (ho) rfl) (c0_0.symm)) rfl) rfl) (c0_1.symm)).trans (whole w))
    · rfl
  · try simp only
    split
    · rename_i hc0
      obtain ⟨c0_0, c0_1⟩ := hc0
      exact congrArg some ((grow 0 (grow 14 (grow 18 (grow 20 (ho) rfl) (c0_0.symm)) rfl) (c0_1.symm)).trans (whole w))
    · rfl
  · rfl
  · rfl
  · rfl
  · rfl
  · rfl
  · rfl
  · rfl

theorem encodeHi9 {w : Word} (hh : fld w 28 4 = 9#4) : encode (decodeHi9 w (fld w 24 4)) = some w := by
  have hlt := (fld w 24 4).isLt
  unfold decodeHi9
  generalize hk : (fld w 24 4).toNat = k at hlt
  have hl : fld w 24 4 = BitVec.ofNat 4 k := by rw [← hk]; simp
  have ho := op_eq hh hl
  obtain rfl | rfl | rfl | rfl | rfl | rfl | rfl | rfl | rfl | rfl | rfl | rfl | rfl | rfl | rfl | rfl := (show k = 0 ∨ k = 1 ∨ k = 2 ∨ k = 3 ∨ k = 4 ∨ k = 5 ∨ k = 6 ∨ k = 7 ∨ k = 8 ∨ k = 9 ∨ k = 10 ∨ k = 11 ∨ k = 12 ∨ k = 13 ∨ k = 14 ∨ k = 15 by omega)
  · try simp only
    split
    · rename_i hc0
      exact congrArg some ((grow 0 (grow 2 (grow 5 (grow 7 (grow 14 (grow 20 (ho) rfl) rfl) rfl) rfl) rfl) (hc0.symm)).trans (whole w))
    · rfl
  · try simp only
    split
    · rename_i hc0
      exact congrArg some ((grow 0 (grow 2 (grow 5 (grow 7 (grow 14 (grow 20 (ho) rfl) rfl) rfl) rfl) rfl) (hc0.symm)).trans (whole w))
    · rfl
  · try simp only
    split
    · rename_i hc0
      exact congrArg some ((grow 0 (grow 2 (grow 5 (grow 7 (grow 14 (grow 20 (ho) rfl) rfl) rfl) rfl) rfl) (hc0.symm)).trans (whole w))
    · rfl
  · try simp only
    split
    · rename_i hc0
      exact congrArg some ((grow 0 (grow 2 (grow 5 (grow 7 (grow 14 (grow 20 (ho) rfl) rfl) rfl) rfl) rfl) (hc0.symm)).trans (whole w))
    · rfl
  · try simp only
    split
    · rename_i hc0
      exact congrArg some ((grow 0 (grow 2 (grow 5 (grow 7 (grow 14 (grow 20 (ho) rfl) rfl) rfl) rfl) rfl) (hc0.symm)).trans (whole w))
    · rfl
  · try simp only
    split
    · rename_i hc0
      exact congrArg some ((grow 0 (grow 2 (grow 5 (grow 7 (grow 14 (grow 20 (ho) rfl) rfl) rfl) rfl) rfl) (hc0.symm)).trans (whole w))
    · rfl
  · try simp only
    split
    · rename_i hc0
      exact congrArg some ((grow 0 (grow 2 (grow 5 (grow 7 (grow 14 (grow 20 (ho) rfl) rfl) rfl) rfl) rfl) (hc0.symm)).trans (whole w))
    · rfl
  · try simp only
    split
    · rename_i hc0
      exact congrArg some ((grow 0 (grow 2 (grow 5 (grow 7 (grow 14 (grow 20 (ho) rfl) rfl) rfl) rfl) rfl) (hc0.symm)).trans (whole w))
    · rfl
  · try simp only
    split
    · rename_i hc0
      exact congrArg some ((grow 0 (grow 2 (grow 5 (grow 7 (grow 14 (grow 20 (ho) rfl) rfl) rfl) rfl) rfl) (hc0.symm)).trans (whole w))
    · rfl
  · try simp only
    split
    · rename_i hc0
      exact congrArg some ((grow 0 (grow 2 (grow 5 (grow 7 (grow 14 (grow 20 (ho) rfl) rfl) rfl) rfl) rfl) (hc0.symm)).trans (whole w))
    · rfl
  · try simp only
    split
    · rename_i hc0
      exact congrArg some ((grow 0 (grow 2 (grow 5 (grow 7 (grow 14 (grow 20 (ho) rfl) rfl) rfl) rfl) rfl) (hc0.symm)).trans (whole w))
    · rfl
  · try simp only
    split
    · rename_i hc0
      exact congrArg some ((grow 0 (grow 2 (grow 5 (grow 7 (grow 14 (grow 20 (ho) rfl) rfl) rfl) rfl) rfl) (hc0.symm)).trans (whole w))
    · rfl
  · try simp only
    split
    · rename_i hc0
      exact congrArg some ((grow 0 (grow 2 (grow 5 (grow 7 (grow 14 (grow 20 (ho) rfl) rfl) rfl) rfl) rfl) (hc0.symm)).trans (whole w))
    · rfl
  · try simp only
    split
    · rename_i hc0
      exact congrArg some ((grow 0 (grow 2 (grow 5 (grow 7 (grow 14 (grow 20 (ho) rfl) rfl) rfl) rfl) rfl) (hc0.symm)).trans (whole w))
    · rfl
  · try simp only
    split
    · rename_i hc0
      exact congrArg some ((grow 0 (grow 2 (grow 5 (grow 7 (grow 14 (grow 20 (ho) rfl) rfl) rfl) rfl) rfl) (hc0.symm)).trans (whole w))
    · rfl
  · try simp only
    split
    · rename_i hc0
      exact congrArg some ((grow 0 (grow 2 (grow 5 (grow 7 (grow 14 (grow 20 (ho) rfl) rfl) rfl) rfl) rfl) (hc0.symm)).trans (whole w))
    · rfl

theorem encodeHiA {w : Word} (hh : fld w 28 4 = 10#4) : encode (decodeHiA w (fld w 24 4)) = some w := by
  have hlt := (fld w 24 4).isLt
  unfold decodeHiA
  generalize hk : (fld w 24 4).toNat = k at hlt
  have hl : fld w 24 4 = BitVec.ofNat 4 k := by rw [← hk]; simp
  have ho := op_eq hh hl
  obtain rfl | rfl | rfl | rfl | rfl | rfl | rfl | rfl | rfl | rfl | rfl | rfl | rfl | rfl | rfl | rfl := (show k = 0 ∨ k = 1 ∨ k = 2 ∨ k = 3 ∨ k = 4 ∨ k = 5 ∨ k = 6 ∨ k = 7 ∨ k = 8 ∨ k = 9 ∨ k = 10 ∨ k = 11 ∨ k = 12 ∨ k = 13 ∨ k = 14 ∨ k = 15 by omega)
  · try simp only
    exact congrArg some ((grow 0 (grow 20 (ho) rfl) rfl).trans (whole w))
  · try simp only
    exact congrArg some ((grow 0 (grow 20 (ho) rfl) rfl).trans (whole w))
  · try simp only
    exact congrArg some ((grow 0 (grow 20 (ho) rfl) rfl).trans (whole w))
  · try simp only
    split
    · rename_i hc0
      exact congrArg some ((grow 0 (grow 20 (ho) rfl) (hc0.symm)).trans (whole w))
    · rfl
  · try simp only
    split
    · rename_i hc0
      obtain ⟨c0_0, c0_1⟩ := hc0
      exact congrArg some ((grow 0 (grow 7 (grow 14 (grow 20 (ho) rfl) (c0_0.symm)) rfl) (c0_1.symm)).trans (whole w))
    · rfl
  · try simp only
    exact congrArg some ((grow 0 (grow 20 (ho) rfl) rfl).trans (whole w))
  · try simp only
    split
    · rename_i hc0
      exact congrArg some ((grow 0 (grow 20 (ho) rfl) (hc0.symm)).trans (whole w))
    · rfl
  · try simp only
    split
    · rename_i hc0
      exact congrArg some ((grow 0 (grow 20 (ho) rfl) (hc0.symm)).trans (whole w))
    · rfl
  · try simp only
    split
    · rename_i hc0
      exact congrArg some ((grow 0 (grow 20 (ho) rfl) (hc0.symm)).trans (whole w))
    · rfl
  · try simp only
    split
    · rename_i hc0
      exact congrArg some ((grow 0 (grow 4 (grow 6 (grow 20 (ho) rfl) (hc0.symm)) rfl) rfl).trans (whole w))
    · rfl
  · try simp only
    split
    · rename_i hc0
      exact congrArg some ((grow 0 (grow 4 (grow 6 (grow 20 (ho) rfl) (hc0.symm)) rfl) rfl).trans (whole w))
    · rfl
  · try simp only
    split
    · rename_i hc0
      exact congrArg some ((grow 0 (grow 20 (ho) rfl) (hc0.symm)).trans (whole w))
    · rfl
  · try simp only
    split
    · rename_i hc0
      obtain ⟨c0_0, c0_1⟩ := hc0
      exact congrArg some ((grow 0 (grow 7 (grow 14 (grow 20 (ho) rfl) (c0_0.symm)) rfl) (c0_1.symm)).trans (whole w))
    · rfl
  · try simp only
    split
    · rename_i hc0
      exact congrArg some ((grow 0 (grow 20 (ho) rfl) (hc0.symm)).trans (whole w))
    · rfl
  · try simp only
    split
    · rename_i hc0
      exact congrArg some ((grow 0 (grow 14 (grow 20 (ho) rfl) rfl) (hc0.symm)).trans (whole w))
    · rfl
  · rfl

theorem encodeHiB {w : Word} (hh : fld w 28 4 = 11#4) : encode (decodeHiB w (fld w 24 4)) = some w := by
  have hlt := (fld w 24 4).isLt
  unfold decodeHiB
  generalize hk : (fld w 24 4).toNat = k at hlt
  have hl : fld w 24 4 = BitVec.ofNat 4 k := by rw [← hk]; simp
  have ho := op_eq hh hl
  obtain rfl | rfl | rfl | rfl | rfl | rfl | rfl | rfl | rfl | rfl | rfl | rfl | rfl | rfl | rfl | rfl := (show k = 0 ∨ k = 1 ∨ k = 2 ∨ k = 3 ∨ k = 4 ∨ k = 5 ∨ k = 6 ∨ k = 7 ∨ k = 8 ∨ k = 9 ∨ k = 10 ∨ k = 11 ∨ k = 12 ∨ k = 13 ∨ k = 14 ∨ k = 15 by omega)
  · try simp only
    split
    · rename_i hc0
      exact congrArg some ((grow 0 (grow 7 (grow 14 (grow 20 (ho) rfl) (hc0.symm)) rfl) rfl).trans (whole w))
    · rfl
  · try simp only
    split
    · rename_i hc0
      exact congrArg some ((grow 0 (grow 7 (grow 14 (grow 18 (grow 19 (grow 20 (ho) rfl) (hc0.symm)) rfl) rfl) rfl) rfl).trans (whole w))
    · rfl
  · try simp only
    split
    · rename_i hc0
      exact congrArg some ((grow 0 (grow 7 (grow 14 (grow 18 (grow 19 (grow 20 (ho) rfl) (hc0.symm)) rfl) rfl) rfl) rfl).trans (whole w))
    · rfl
  · try simp only
    split
    · rename_i hc0
      exact congrArg some ((grow 0 (grow 7 (grow 14 (grow 18 (grow 19 (grow 20 (ho) rfl) (hc0.symm)) rfl) rfl) rfl) rfl).trans (whole w))
    · rfl
  · try simp only
    split
    · rename_i hc0
      exact congrArg some ((grow 0 (grow 7 (grow 14 (grow 18 (grow 19 (grow 20 (ho) rfl) (hc0.symm)) rfl) rfl) rfl) rfl).trans (whole w))
    · rfl
  · try simp only
    split
    · rename_i hc0
      exact congrArg some ((grow 0 (grow 7 (grow 14 (grow 18 (grow 19 (grow 20 (ho) rfl) (hc0.symm)) rfl) rfl) rfl) rfl).trans (whole w))
    · rfl
  · try simp only
    split
    · rename_i hc0
      obtain ⟨c0_0, c0_1⟩ := hc0
      exact congrArg some ((grow 0 (grow 14 (grow 18 (grow 19 (grow 20 (ho) rfl) (c0_0.symm)) rfl) rfl) (c0_1.symm)).trans (whole w))
    · rfl
  · try simp only
    exact congrArg some ((grow 0 (grow 7 (grow 14 (grow 20 (ho) rfl) rfl) rfl) rfl).trans (whole w))
  · try simp only
    exact congrArg some ((grow 0 (grow 7 (grow 14 (grow 20 (ho) rfl) rfl) rfl) rfl).trans (whole w))
  · try simp only
    split
    · rename_i hc0
      exact congrArg some ((grow 0 (grow 7 (grow 14 (grow 18 (grow 19 (grow 20 (ho) rfl) (hc0.symm)) rfl) rfl) rfl) rfl).trans (whole w))
    · rfl
  · try simp only
    split
    · rename_i hc0
      exact congrArg some ((grow 0 (grow 14 (grow 18 (grow 19 (grow 20 (ho) rfl) rfl) rfl) rfl) (hc0.symm)).trans (whole w))
    · rfl
  · try simp only
    split
    · rename_i hc0
      exact congrArg some ((grow 0 (grow 20 (ho) rfl) (hc0.symm)).trans (whole w))
    · rfl
  · try simp only
    split
    · rename_i hc0
      exact congrArg some ((grow 0 (grow 20 (ho) rfl) (hc0.symm)).trans (whole w))
    · rfl
  · try simp only
    split
    · rename_i hc0
      exact congrArg some ((grow 0 (grow 20 (ho) rfl) (hc0.symm)).trans (whole w))
    · rfl
  · try simp only
    exact congrArg some ((grow 0 (grow 7 (grow 14 (grow 20 (ho) rfl) rfl) rfl) rfl).trans (whole w))
  · rfl

theorem encodeHiC {w : Word} (hh : fld w 28 4 = 12#4) : encode (decodeHiC w (fld w 24 4)) = some w := by
  have hlt := (fld w 24 4).isLt
  unfold decodeHiC
  generalize hk : (fld w 24 4).toNat = k at hlt
  have hl : fld w 24 4 = BitVec.ofNat 4 k := by rw [← hk]; simp
  have ho := op_eq hh hl
  obtain rfl | rfl | rfl | rfl | rfl | rfl | rfl | rfl | rfl | rfl | rfl | rfl | rfl | rfl | rfl | rfl := (show k = 0 ∨ k = 1 ∨ k = 2 ∨ k = 3 ∨ k = 4 ∨ k = 5 ∨ k = 6 ∨ k = 7 ∨ k = 8 ∨ k = 9 ∨ k = 10 ∨ k = 11 ∨ k = 12 ∨ k = 13 ∨ k = 14 ∨ k = 15 by omega)
  · try simp only
    split
    · rename_i hc0
      obtain ⟨c0_0, c0_1⟩ := hc0
      exact congrArg some ((grow 0 (grow 7 (grow 14 (grow 16 (grow 20 (ho) rfl) (c0_0.symm)) rfl) rfl) (c0_1.symm)).trans (whole w))
    · rfl
  · try simp only
    split
    · rename_i hc0
      obtain ⟨c0_0, c0_1⟩ := hc0
      exact congrArg some ((grow 0 (grow 7 (grow 14 (grow 16 (grow 18 (grow 20 (ho) rfl) (c0_0.symm)) rfl) rfl) rfl) (c0_1.symm)).trans (whole w))
    · rfl
  · try simp only
    split
    · rename_i hc0
      obtain ⟨c0_0, c0_1⟩ := hc0
      exact congrArg some ((grow 0 (grow 7 (grow 14 (grow 16 (grow 18 (grow 20 (ho) rfl) (c0_0.symm)) rfl) rfl) rfl) (c0_1.symm)).trans (whole w))
    · rfl
  · try simp only
    split
    · rename_i hc0
      obtain ⟨c0_0, c0_1⟩ := hc0
      exact congrArg some ((grow 0 (grow 14 (grow 18 (grow 20 (ho) rfl) (c0_0.symm)) rfl) (c0_1.symm)).trans (whole w))
    · rfl
  · try simp only
    exact congrArg some ((grow 0 (grow 7 (grow 14 (grow 20 (ho) rfl) rfl) rfl) rfl).trans (whole w))
  · try simp only
    exact congrArg some ((grow 0 (grow 7 (grow 14 (grow 20 (ho) rfl) rfl) rfl) rfl).trans (whole w))
  · try simp only
    split
    · rename_i hc0
      obtain ⟨c0_0, c0_1⟩ := hc0
      exact congrArg some ((grow 0 (grow 7 (grow 14 (grow 20 (ho) rfl) (c0_0.symm)) rfl) (c0_1.symm)).trans (whole w))
    · rfl
  · try simp only
    split
    · rename_i hc0
      exact congrArg some ((grow 0 (grow 7 (grow 14 (grow 20 (ho) rfl) (hc0.symm)) rfl) rfl).trans (whole w))
    · rfl
  · try simp only
    split
    · rename_i hc0
      exact congrArg some ((grow 0 (grow 7 (grow 14 (grow 20 (ho) rfl) rfl) rfl) (hc0.symm)).trans (whole w))
    · split
      · rename_i hc1
        exact congrArg some ((grow 0 (grow 7 (grow 14 (grow 20 (ho) rfl) rfl) rfl) (hc1.symm)).trans (whole w))
      · rfl
  · try simp only
    exact congrArg some ((grow 0 (grow 20 (ho) rfl) rfl).trans (whole w))
  · rfl
  · rfl
  · rfl
  · rfl
  · rfl
  · rfl

theorem encodeHiD {w : Word} (hh : fld w 28 4 = 13#4) : encode (decodeHiD w (fld w 24 4)) = some w := by
  have hlt := (fld w 24 4).isLt
  unfold decodeHiD
  generalize hk : (fld w 24 4).toNat = k at hlt
  have hl : fld w 24 4 = BitVec.ofNat 4 k := by rw [← hk]; simp
  have ho := op_eq hh hl
  obtain rfl | rfl | rfl | rfl | rfl | rfl | rfl | rfl | rfl | rfl | rfl | rfl | rfl | rfl | rfl | rfl := (show k = 0 ∨ k = 1 ∨ k = 2 ∨ k = 3 ∨ k = 4 ∨ k = 5 ∨ k = 6 ∨ k = 7 ∨ k = 8 ∨ k = 9 ∨ k = 10 ∨ k = 11 ∨ k = 12 ∨ k = 13 ∨ k = 14 ∨ k = 15 by omega)
  · try simp only
    exact congrArg some ((grow 0 (grow 7 (grow 14 (grow 20 (ho) rfl) rfl) rfl) rfl).trans (whole w))
  · try simp only
    exact congrArg some ((grow 0 (grow 7 (grow 14 (grow 20 (ho) rfl) rfl) rfl) rfl).trans (whole w))
  · try simp only
    exact congrArg some ((grow 0 (grow 7 (grow 14 (grow 20 (ho) rfl) rfl) rfl) rfl).trans (whole w))
  · try simp only
    exact congrArg some ((grow 0 (grow 7 (grow 14 (grow 20 (ho) rfl) rfl) rfl) rfl).trans (whole w))
  · try simp only
    exact congrArg some ((grow 0 (grow 7 (grow 14 (grow 20 (ho) rfl) rfl) rfl) rfl).trans (whole w))
  · try simp only
    exact congrArg some ((grow 0 (grow 7 (grow 14 (grow 20 (ho) rfl) rfl) rfl) rfl).trans (whole w))
  · try simp only
    split
    · rename_i hc0
      exact congrArg some ((grow 0 (grow 7 (grow 14 (grow 18 (grow 20 (ho) rfl) (hc0.symm)) rfl) rfl) rfl).trans (whole w))
    · rfl
  · try simp only
    split
    · rename_i hc0
      exact congrArg some ((grow 0 (grow 7 (grow 14 (grow 18 (grow 20 (ho) rfl) (hc0.symm)) rfl) rfl) rfl).trans (whole w))
    · rfl
  · try simp only
    split
    · rename_i hc0
      obtain ⟨c0_0, c0_1, c0_2⟩ := hc0
      exact congrArg some ((grow 0 (grow 1 (grow 5 (grow 7 (grow 14 (grow 18 (grow 20 (ho) rfl) (c0_0.symm)) rfl) rfl) (c0_1.symm)) rfl) (c0_2.symm)).trans (whole w))
    · rfl
  · try simp only
    exact congrArg some ((grow 0 (grow 7 (grow 14 (grow 20 (ho) rfl) rfl) rfl) rfl).trans (whole w))
  · try simp only
    split
    · rename_i hc0
      exact congrArg some ((grow 0 (grow 7 (grow 14 (grow 20 (ho) rfl) (hc0.symm)) rfl) rfl).trans (whole w))
    · rfl
  · try simp only
    split
    · rename_i hc0
      exact congrArg some ((grow 0 (grow 7 (grow 14 (grow 20 (ho) rfl) rfl) rfl) (hc0.symm)).trans (whole w))
    · rfl
  · try simp only
    exact congrArg some ((grow 0 (grow 7 (grow 14 (grow 20 (ho) rfl) rfl) rfl) rfl).trans (whole w))
  · try simp only
    split
    · rename_i hc0
      exact congrArg some ((grow 0 (grow 20 (ho) rfl) (hc0.symm)).trans (whole w))
    · rfl
  · try simp only
    split
    · rename_i hc0
      exact congrArg some ((grow 0 (grow 7 (grow 14 (grow 20 (ho) rfl) rfl) rfl) (hc0.symm)).trans (whole w))
    · split
      · rename_i hc1
        exact congrArg some ((grow 0 (grow 7 (grow 14 (grow 20 (ho) rfl) rfl) rfl) (hc1.symm)).trans (whole w))
      · split
        · rename_i hc2
          obtain ⟨c2_0, c2_1⟩ := hc2
          exact congrArg some ((grow 0 (grow 1 (grow 5 (grow 7 (grow 14 (grow 20 (ho) rfl) rfl) rfl) (c2_0.symm)) rfl) (c2_1.symm)).trans (whole w))
        · rfl
  · rfl

theorem encodeHiE {w : Word} (hh : fld w 28 4 = 14#4) : encode (decodeHiE w (fld w 24 4)) = some w := by
  have hlt := (fld w 24 4).isLt
  unfold decodeHiE
  generalize hk : (fld w 24 4).toNat = k at hlt
  have hl : fld w 24 4 = BitVec.ofNat 4 k := by rw [← hk]; simp
  have ho := op_eq hh hl
  obtain rfl | rfl | rfl | rfl | rfl | rfl | rfl | rfl | rfl | rfl | rfl | rfl | rfl | rfl | rfl | rfl := (show k = 0 ∨ k = 1 ∨ k = 2 ∨ k = 3 ∨ k = 4 ∨ k = 5 ∨ k = 6 ∨ k = 7 ∨ k = 8 ∨ k = 9 ∨ k = 10 ∨ k = 11 ∨ k = 12 ∨ k = 13 ∨ k = 14 ∨ k = 15 by omega)
  · try simp only
    split
    · rename_i hc0
      obtain ⟨c0_0, c0_1⟩ := hc0
      exact congrArg some ((grow 0 (grow 7 (grow 14 (grow 20 (ho) rfl) (c0_0.symm)) rfl) (c0_1.symm)).trans (whole w))
    · rfl
  · try simp only
    split
    · rename_i hc0
      exact congrArg some ((grow 0 (grow 20 (ho) rfl) (hc0.symm)).trans (whole w))
    · rfl
  · try simp only
    split
    · rename_i hc0
      exact congrArg some ((grow 0 (grow 7 (grow 14 (grow 20 (ho) rfl) rfl) (hc0.symm)) rfl).trans (whole w))
    · rfl
  · try simp only
    split
    · rename_i hc0
      exact congrArg some ((grow 0 (grow 7 (grow 14 (grow 20 (ho) rfl) (hc0.symm)) rfl) rfl).trans (whole w))
    · rfl
  · try simp only
    split
    · rename_i hc0
      exact congrArg some ((grow 0 (grow 20 (ho) rfl) (hc0.symm)).trans (whole w))
    · rfl
  · try simp only
    split
    · rename_i hc0
      exact congrArg some ((grow 0 (grow 14 (grow 20 (ho) rfl) rfl) (hc0.symm)).trans (whole w))
    · rfl
  · try simp only
    exact congrArg some ((grow 0 (grow 7 (grow 14 (grow 20 (ho) rfl) rfl) rfl) rfl).trans (whole w))
  · try simp only
    split
    · rename_i hc0
      exact congrArg some ((grow 0 (grow 20 (ho) rfl) (hc0.symm)).trans (whole w))
    · split
      · rename_i hc1
        obtain ⟨c1_0, c1_1⟩ := hc1
        exact congrArg some ((grow 0 (grow 8 (grow 12 (grow 20 (ho) rfl) (c1_0.symm)) rfl) (c1_1.symm)).trans (whole w))
      · split
        · rename_i hc2
          exact congrArg some ((grow 0 (grow 20 (ho) rfl) (hc2.symm)).trans (whole w))
        · rfl
  · try simp only
    split
    · rename_i hc0
      exact congrArg some ((grow 0 (grow 20 (ho) rfl) (hc0.symm)).trans (whole w))
    · split
      · rename_i hc1
        exact congrArg some ((grow 0 (grow 20 (ho) rfl) (hc1.symm)).trans (whole w))
      · rfl
  · try simp only
    split
    · rename_i hc0
      exact congrArg some ((grow 0 (grow 20 (ho) rfl) (hc0.symm)).trans (whole w))
    · rfl
  · rfl
  · rfl
  · rfl
  · rfl
  · rfl
  · rfl

theorem encodeHiF {w : Word} (hh : fld w 28 4 = 15#4) : encode (decodeHiF w (fld w 24 4)) = some w := by
  have hlt := (fld w 24 4).isLt
  unfold decodeHiF
  generalize hk : (fld w 24 4).toNat = k at hlt
  have hl : fld w 24 4 = BitVec.ofNat 4 k := by rw [← hk]; simp
  have ho := op_eq hh hl
  obtain rfl | rfl | rfl | rfl | rfl | rfl | rfl | rfl | rfl | rfl | rfl | rfl | rfl | rfl | rfl | rfl := (show k = 0 ∨ k = 1 ∨ k = 2 ∨ k = 3 ∨ k = 4 ∨ k = 5 ∨ k = 6 ∨ k = 7 ∨ k = 8 ∨ k = 9 ∨ k = 10 ∨ k = 11 ∨ k = 12 ∨ k = 13 ∨ k = 14 ∨ k = 15 by omega)
  · try simp only
    exact congrArg some ((grow 0 (grow 1 (grow 4 (grow 8 (grow 12 (ho) rfl) rfl) rfl) rfl) rfl).trans (whole w))
  · rfl
  · rfl
  · rfl
  · try simp only
    exact congrArg some ((grow 0 (ho) rfl).trans (whole w))
  · try simp only
    exact congrArg some ((grow 0 (ho) rfl).trans (whole w))
  · rfl
  · rfl
  · rfl
  · rfl
  · rfl
  · rfl
  · rfl
  · rfl
  · rfl
  · rfl

/-! ## The constructors -/

end Sys2Proof.Laws.Words

open Sys2Proof Sys2Proof.Laws.Words

theorem Sys2Proof.Laws.Words.iaddI32 (f : FmtA) : Statement (.iaddI32 f) := by
  intro w _ hw
  obtain ⟨ho, h0, h1, h2, h3⟩ := shape4_6_7_7 0#8 f.g f.d f.a f.b w (Option.some.inj hw)
  rw [show decodeWord w = .iaddI32 ⟨fld w 20 4, fld w 14 6, fld w 7 7, fld w 0 7⟩ from by unfold decodeWord; rw [(op_of ho).1, (op_of ho).2]; rfl]
  rw [h0, h1, h2, h3]

theorem Sys2Proof.Laws.Words.isubI32 (f : FmtA) : Statement (.isubI32 f) := by
  intro w _ hw
  obtain ⟨ho, h0, h1, h2, h3⟩ := shape4_6_7_7 1#8 f.g f.d f.a f.b w (Option.some.inj hw)
  rw [show decodeWord w = .isubI32 ⟨fld w 20 4, fld w 14 6, fld w 7 7, fld w 0 7⟩ from by unfold decodeWord; rw [(op_of ho).1, (op_of ho).2]; rfl]
  rw [h0, h1, h2, h3]

theorem Sys2Proof.Laws.Words.imulI32 (f : FmtA) : Statement (.imulI32 f) := by
  intro w _ hw
  obtain ⟨ho, h0, h1, h2, h3⟩ := shape4_6_7_7 2#8 f.g f.d f.a f.b w (Option.some.inj hw)
  rw [show decodeWord w = .imulI32 ⟨fld w 20 4, fld w 14 6, fld w 7 7, fld w 0 7⟩ from by unfold decodeWord; rw [(op_of ho).1, (op_of ho).2]; rfl]
  rw [h0, h1, h2, h3]

theorem Sys2Proof.Laws.Words.imulhiI32 (f : FmtA) : Statement (.imulhiI32 f) := by
  intro w _ hw
  obtain ⟨ho, h0, h1, h2, h3⟩ := shape4_6_7_7 3#8 f.g f.d f.a f.b w (Option.some.inj hw)
  rw [show decodeWord w = .imulhiI32 ⟨fld w 20 4, fld w 14 6, fld w 7 7, fld w 0 7⟩ from by unfold decodeWord; rw [(op_of ho).1, (op_of ho).2]; rfl]
  rw [h0, h1, h2, h3]

theorem Sys2Proof.Laws.Words.imulhiN32 (f : FmtA) : Statement (.imulhiN32 f) := by
  intro w _ hw
  obtain ⟨ho, h0, h1, h2, h3⟩ := shape4_6_7_7 4#8 f.g f.d f.a f.b w (Option.some.inj hw)
  rw [show decodeWord w = .imulhiN32 ⟨fld w 20 4, fld w 14 6, fld w 7 7, fld w 0 7⟩ from by unfold decodeWord; rw [(op_of ho).1, (op_of ho).2]; rfl]
  rw [h0, h1, h2, h3]

theorem Sys2Proof.Laws.Words.imadI32 (f : FmtA) : Statement (.imadI32 f) := by
  intro w _ hw
  obtain ⟨ho, h0, h1, h2, h3⟩ := shape4_6_7_7 5#8 f.g f.d f.a f.b w (Option.some.inj hw)
  rw [show decodeWord w = .imadI32 ⟨fld w 20 4, fld w 14 6, fld w 7 7, fld w 0 7⟩ from by unfold decodeWord; rw [(op_of ho).1, (op_of ho).2]; rfl]
  rw [h0, h1, h2, h3]

theorem Sys2Proof.Laws.Words.iaddI64 (f : FmtA) : Statement (.iaddI64 f) := by
  intro w _ hw
  obtain ⟨ho, h0, h1, h2, h3⟩ := shape4_6_7_7 6#8 f.g f.d f.a f.b w (Option.some.inj hw)
  rw [show decodeWord w = .iaddI64 ⟨fld w 20 4, fld w 14 6, fld w 7 7, fld w 0 7⟩ from by unfold decodeWord; rw [(op_of ho).1, (op_of ho).2]; rfl]
  rw [h0, h1, h2, h3]

theorem Sys2Proof.Laws.Words.isubI64 (f : FmtA) : Statement (.isubI64 f) := by
  intro w _ hw
  obtain ⟨ho, h0, h1, h2, h3⟩ := shape4_6_7_7 7#8 f.g f.d f.a f.b w (Option.some.inj hw)
  rw [show decodeWord w = .isubI64 ⟨fld w 20 4, fld w 14 6, fld w 7 7, fld w 0 7⟩ from by unfold decodeWord; rw [(op_of ho).1, (op_of ho).2]; rfl]
  rw [h0, h1, h2, h3]

theorem Sys2Proof.Laws.Words.iminI32 (f : FmtA) : Statement (.iminI32 f) := by
  intro w _ hw
  obtain ⟨ho, h0, h1, h2, h3⟩ := shape4_6_7_7 8#8 f.g f.d f.a f.b w (Option.some.inj hw)
  rw [show decodeWord w = .iminI32 ⟨fld w 20 4, fld w 14 6, fld w 7 7, fld w 0 7⟩ from by unfold decodeWord; rw [(op_of ho).1, (op_of ho).2]; rfl]
  rw [h0, h1, h2, h3]

theorem Sys2Proof.Laws.Words.iminN32 (f : FmtA) : Statement (.iminN32 f) := by
  intro w _ hw
  obtain ⟨ho, h0, h1, h2, h3⟩ := shape4_6_7_7 9#8 f.g f.d f.a f.b w (Option.some.inj hw)
  rw [show decodeWord w = .iminN32 ⟨fld w 20 4, fld w 14 6, fld w 7 7, fld w 0 7⟩ from by unfold decodeWord; rw [(op_of ho).1, (op_of ho).2]; rfl]
  rw [h0, h1, h2, h3]

theorem Sys2Proof.Laws.Words.imaxI32 (f : FmtA) : Statement (.imaxI32 f) := by
  intro w _ hw
  obtain ⟨ho, h0, h1, h2, h3⟩ := shape4_6_7_7 10#8 f.g f.d f.a f.b w (Option.some.inj hw)
  rw [show decodeWord w = .imaxI32 ⟨fld w 20 4, fld w 14 6, fld w 7 7, fld w 0 7⟩ from by unfold decodeWord; rw [(op_of ho).1, (op_of ho).2]; rfl]
  rw [h0, h1, h2, h3]

theorem Sys2Proof.Laws.Words.imaxN32 (f : FmtA) : Statement (.imaxN32 f) := by
  intro w _ hw
  obtain ⟨ho, h0, h1, h2, h3⟩ := shape4_6_7_7 11#8 f.g f.d f.a f.b w (Option.some.inj hw)
  rw [show decodeWord w = .imaxN32 ⟨fld w 20 4, fld w 14 6, fld w 7 7, fld w 0 7⟩ from by unfold decodeWord; rw [(op_of ho).1, (op_of ho).2]; rfl]
  rw [h0, h1, h2, h3]

theorem Sys2Proof.Laws.Words.iabsI32 (f : FmtU) : Statement (.iabsI32 f) := by
  intro w _ hw
  obtain ⟨ho, h0, h1, h2, h3⟩ := shape4_6_7_7 12#8 f.g f.d f.a (112#7) w (Option.some.inj hw)
  rw [show decodeWord w = if fld w 0 7 = 112#7 then .iabsI32 ⟨fld w 20 4, fld w 14 6, fld w 7 7⟩ else .reservedOpcode w from by unfold decodeWord; rw [(op_of ho).1, (op_of ho).2]; rfl]
  rw [if_pos h3]
  rw [h0, h1, h2]

theorem Sys2Proof.Laws.Words.iaddsI32 (f : FmtA) : Statement (.iaddsI32 f) := by
  intro w _ hw
  obtain ⟨ho, h0, h1, h2, h3⟩ := shape4_6_7_7 13#8 f.g f.d f.a f.b w (Option.some.inj hw)
  rw [show decodeWord w = .iaddsI32 ⟨fld w 20 4, fld w 14 6, fld w 7 7, fld w 0 7⟩ from by unfold decodeWord; rw [(op_of ho).1, (op_of ho).2]; rfl]
  rw [h0, h1, h2, h3]

theorem Sys2Proof.Laws.Words.isubsI32 (f : FmtA) : Statement (.isubsI32 f) := by
  intro w _ hw
  obtain ⟨ho, h0, h1, h2, h3⟩ := shape4_6_7_7 14#8 f.g f.d f.a f.b w (Option.some.inj hw)
  rw [show decodeWord w = .isubsI32 ⟨fld w 20 4, fld w 14 6, fld w 7 7, fld w 0 7⟩ from by unfold decodeWord; rw [(op_of ho).1, (op_of ho).2]; rfl]
  rw [h0, h1, h2, h3]

theorem Sys2Proof.Laws.Words.idivN32 (f : FmtA) : Statement (.idivN32 f) := by
  intro w _ hw
  obtain ⟨ho, h0, h1, h2, h3⟩ := shape4_6_7_7 15#8 f.g f.d f.a f.b w (Option.some.inj hw)
  rw [show decodeWord w = .idivN32 ⟨fld w 20 4, fld w 14 6, fld w 7 7, fld w 0 7⟩ from by unfold decodeWord; rw [(op_of ho).1, (op_of ho).2]; rfl]
  rw [h0, h1, h2, h3]

theorem Sys2Proof.Laws.Words.and (f : FmtA) : Statement (.and f) := by
  intro w _ hw
  obtain ⟨ho, h0, h1, h2, h3⟩ := shape4_6_7_7 16#8 f.g f.d f.a f.b w (Option.some.inj hw)
  rw [show decodeWord w = .and ⟨fld w 20 4, fld w 14 6, fld w 7 7, fld w 0 7⟩ from by unfold decodeWord; rw [(op_of ho).1, (op_of ho).2]; rfl]
  rw [h0, h1, h2, h3]

theorem Sys2Proof.Laws.Words.or (f : FmtA) : Statement (.or f) := by
  intro w _ hw
  obtain ⟨ho, h0, h1, h2, h3⟩ := shape4_6_7_7 17#8 f.g f.d f.a f.b w (Option.some.inj hw)
  rw [show decodeWord w = .or ⟨fld w 20 4, fld w 14 6, fld w 7 7, fld w 0 7⟩ from by unfold decodeWord; rw [(op_of ho).1, (op_of ho).2]; rfl]
  rw [h0, h1, h2, h3]

theorem Sys2Proof.Laws.Words.xor (f : FmtA) : Statement (.xor f) := by
  intro w _ hw
  obtain ⟨ho, h0, h1, h2, h3⟩ := shape4_6_7_7 18#8 f.g f.d f.a f.b w (Option.some.inj hw)
  rw [show decodeWord w = .xor ⟨fld w 20 4, fld w 14 6, fld w 7 7, fld w 0 7⟩ from by unfold decodeWord; rw [(op_of ho).1, (op_of ho).2]; rfl]
  rw [h0, h1, h2, h3]

theorem Sys2Proof.Laws.Words.andn (f : FmtA) : Statement (.andn f) := by
  intro w _ hw
  obtain ⟨ho, h0, h1, h2, h3⟩ := shape4_6_7_7 19#8 f.g f.d f.a f.b w (Option.some.inj hw)
  rw [show decodeWord w = .andn ⟨fld w 20 4, fld w 14 6, fld w 7 7, fld w 0 7⟩ from by unfold decodeWord; rw [(op_of ho).1, (op_of ho).2]; rfl]
  rw [h0, h1, h2, h3]

theorem Sys2Proof.Laws.Words.not (f : FmtU) : Statement (.not f) := by
  intro w _ hw
  obtain ⟨ho, h0, h1, h2, h3⟩ := shape4_6_7_7 20#8 f.g f.d f.a (112#7) w (Option.some.inj hw)
  rw [show decodeWord w = if fld w 0 7 = 112#7 then .not ⟨fld w 20 4, fld w 14 6, fld w 7 7⟩ else .reservedOpcode w from by unfold decodeWord; rw [(op_of ho).1, (op_of ho).2]; rfl]
  rw [if_pos h3]
  rw [h0, h1, h2]

theorem Sys2Proof.Laws.Words.shl (f : FmtA) : Statement (.shl f) := by
  intro w _ hw
  obtain ⟨ho, h0, h1, h2, h3⟩ := shape4_6_7_7 21#8 f.g f.d f.a f.b w (Option.some.inj hw)
  rw [show decodeWord w = .shl ⟨fld w 20 4, fld w 14 6, fld w 7 7, fld w 0 7⟩ from by unfold decodeWord; rw [(op_of ho).1, (op_of ho).2]; rfl]
  rw [h0, h1, h2, h3]

theorem Sys2Proof.Laws.Words.shrN32 (f : FmtA) : Statement (.shrN32 f) := by
  intro w _ hw
  obtain ⟨ho, h0, h1, h2, h3⟩ := shape4_6_7_7 22#8 f.g f.d f.a f.b w (Option.some.inj hw)
  rw [show decodeWord w = .shrN32 ⟨fld w 20 4, fld w 14 6, fld w 7 7, fld w 0 7⟩ from by unfold decodeWord; rw [(op_of ho).1, (op_of ho).2]; rfl]
  rw [h0, h1, h2, h3]

theorem Sys2Proof.Laws.Words.shrI32 (f : FmtA) : Statement (.shrI32 f) := by
  intro w _ hw
  obtain ⟨ho, h0, h1, h2, h3⟩ := shape4_6_7_7 23#8 f.g f.d f.a f.b w (Option.some.inj hw)
  rw [show decodeWord w = .shrI32 ⟨fld w 20 4, fld w 14 6, fld w 7 7, fld w 0 7⟩ from by unfold decodeWord; rw [(op_of ho).1, (op_of ho).2]; rfl]
  rw [h0, h1, h2, h3]

theorem Sys2Proof.Laws.Words.sel (f : FmtA) : Statement (.sel f) := by
  intro w _ hw
  obtain ⟨ho, h0, h1, h2, h3⟩ := shape4_6_7_7 24#8 f.g f.d f.a f.b w (Option.some.inj hw)
  rw [show decodeWord w = .sel ⟨fld w 20 4, fld w 14 6, fld w 7 7, fld w 0 7⟩ from by unfold decodeWord; rw [(op_of ho).1, (op_of ho).2]; rfl]
  rw [h0, h1, h2, h3]

theorem Sys2Proof.Laws.Words.popc (f : FmtU) : Statement (.popc f) := by
  intro w _ hw
  obtain ⟨ho, h0, h1, h2, h3⟩ := shape4_6_7_7 25#8 f.g f.d f.a (112#7) w (Option.some.inj hw)
  rw [show decodeWord w = if fld w 0 7 = 112#7 then .popc ⟨fld w 20 4, fld w 14 6, fld w 7 7⟩ else .reservedOpcode w from by unfold decodeWord; rw [(op_of ho).1, (op_of ho).2]; rfl]
  rw [if_pos h3]
  rw [h0, h1, h2]

theorem Sys2Proof.Laws.Words.clz (f : FmtU) : Statement (.clz f) := by
  intro w _ hw
  obtain ⟨ho, h0, h1, h2, h3⟩ := shape4_6_7_7 26#8 f.g f.d f.a (112#7) w (Option.some.inj hw)
  rw [show decodeWord w = if fld w 0 7 = 112#7 then .clz ⟨fld w 20 4, fld w 14 6, fld w 7 7⟩ else .reservedOpcode w from by unfold decodeWord; rw [(op_of ho).1, (op_of ho).2]; rfl]
  rw [if_pos h3]
  rw [h0, h1, h2]

theorem Sys2Proof.Laws.Words.brev (f : FmtU) : Statement (.brev f) := by
  intro w _ hw
  obtain ⟨ho, h0, h1, h2, h3⟩ := shape4_6_7_7 27#8 f.g f.d f.a (112#7) w (Option.some.inj hw)
  rw [show decodeWord w = if fld w 0 7 = 112#7 then .brev ⟨fld w 20 4, fld w 14 6, fld w 7 7⟩ else .reservedOpcode w from by unfold decodeWord; rw [(op_of ho).1, (op_of ho).2]; rfl]
  rw [if_pos h3]
  rw [h0, h1, h2]

theorem Sys2Proof.Laws.Words.bfx (f : FmtA) : Statement (.bfx f) := by
  intro w _ hw
  obtain ⟨ho, h0, h1, h2, h3⟩ := shape4_6_7_7 28#8 f.g f.d f.a f.b w (Option.some.inj hw)
  rw [show decodeWord w = .bfx ⟨fld w 20 4, fld w 14 6, fld w 7 7, fld w 0 7⟩ from by unfold decodeWord; rw [(op_of ho).1, (op_of ho).2]; rfl]
  rw [h0, h1, h2, h3]

theorem Sys2Proof.Laws.Words.bfi (f : FmtA) : Statement (.bfi f) := by
  intro w _ hw
  obtain ⟨ho, h0, h1, h2, h3⟩ := shape4_6_7_7 29#8 f.g f.d f.a f.b w (Option.some.inj hw)
  rw [show decodeWord w = .bfi ⟨fld w 20 4, fld w 14 6, fld w 7 7, fld w 0 7⟩ from by unfold decodeWord; rw [(op_of ho).1, (op_of ho).2]; rfl]
  rw [h0, h1, h2, h3]

theorem Sys2Proof.Laws.Words.lea (f : FmtA) : Statement (.lea f) := by
  intro w _ hw
  obtain ⟨ho, h0, h1, h2, h3⟩ := shape4_6_7_7 30#8 f.g f.d f.a f.b w (Option.some.inj hw)
  rw [show decodeWord w = .lea ⟨fld w 20 4, fld w 14 6, fld w 7 7, fld w 0 7⟩ from by unfold decodeWord; rw [(op_of ho).1, (op_of ho).2]; rfl]
  rw [h0, h1, h2, h3]

theorem Sys2Proof.Laws.Words.leas (g : BitVec 4) (d : BitVec 6) (a : BitVec 7) (s : BitVec 3) : Statement (.leas g d a s) := by
  intro w _ hw
  obtain ⟨ho, h0, h1, h2, h3, h4⟩ := shape4_6_7_4_3 31#8 g d a (0#4) s w (Option.some.inj hw)
  rw [show decodeWord w = if fld w 3 4 = 0#4 then .leas (fld w 20 4) (fld w 14 6) (fld w 7 7) (fld w 0 3) else .reservedOpcode w from by unfold decodeWord; rw [(op_of ho).1, (op_of ho).2]; rfl]
  rw [if_pos h3]
  rw [h0, h1, h2, h4]

theorem Sys2Proof.Laws.Words.faddF32 (f : FmtA) : Statement (.faddF32 f) := by
  intro w _ hw
  obtain ⟨ho, h0, h1, h2, h3⟩ := shape4_6_7_7 32#8 f.g f.d f.a f.b w (Option.some.inj hw)
  rw [show decodeWord w = .faddF32 ⟨fld w 20 4, fld w 14 6, fld w 7 7, fld w 0 7⟩ from by unfold decodeWord; rw [(op_of ho).1, (op_of ho).2]; rfl]
  rw [h0, h1, h2, h3]

theorem Sys2Proof.Laws.Words.fsubF32 (f : FmtA) : Statement (.fsubF32 f) := by
  intro w _ hw
  obtain ⟨ho, h0, h1, h2, h3⟩ := shape4_6_7_7 33#8 f.g f.d f.a f.b w (Option.some.inj hw)
  rw [show decodeWord w = .fsubF32 ⟨fld w 20 4, fld w 14 6, fld w 7 7, fld w 0 7⟩ from by unfold decodeWord; rw [(op_of ho).1, (op_of ho).2]; rfl]
  rw [h0, h1, h2, h3]

theorem Sys2Proof.Laws.Words.fmulF32 (f : FmtA) : Statement (.fmulF32 f) := by
  intro w _ hw
  obtain ⟨ho, h0, h1, h2, h3⟩ := shape4_6_7_7 34#8 f.g f.d f.a f.b w (Option.some.inj hw)
  rw [show decodeWord w = .fmulF32 ⟨fld w 20 4, fld w 14 6, fld w 7 7, fld w 0 7⟩ from by unfold decodeWord; rw [(op_of ho).1, (op_of ho).2]; rfl]
  rw [h0, h1, h2, h3]

theorem Sys2Proof.Laws.Words.ffmaF32 (f : FmtA) : Statement (.ffmaF32 f) := by
  intro w _ hw
  obtain ⟨ho, h0, h1, h2, h3⟩ := shape4_6_7_7 35#8 f.g f.d f.a f.b w (Option.some.inj hw)
  rw [show decodeWord w = .ffmaF32 ⟨fld w 20 4, fld w 14 6, fld w 7 7, fld w 0 7⟩ from by unfold decodeWord; rw [(op_of ho).1, (op_of ho).2]; rfl]
  rw [h0, h1, h2, h3]

theorem Sys2Proof.Laws.Words.fminF32 (f : FmtA) : Statement (.fminF32 f) := by
  intro w _ hw
  obtain ⟨ho, h0, h1, h2, h3⟩ := shape4_6_7_7 36#8 f.g f.d f.a f.b w (Option.some.inj hw)
  rw [show decodeWord w = .fminF32 ⟨fld w 20 4, fld w 14 6, fld w 7 7, fld w 0 7⟩ from by unfold decodeWord; rw [(op_of ho).1, (op_of ho).2]; rfl]
  rw [h0, h1, h2, h3]

theorem Sys2Proof.Laws.Words.fmaxF32 (f : FmtA) : Statement (.fmaxF32 f) := by
  intro w _ hw
  obtain ⟨ho, h0, h1, h2, h3⟩ := shape4_6_7_7 37#8 f.g f.d f.a f.b w (Option.some.inj hw)
  rw [show decodeWord w = .fmaxF32 ⟨fld w 20 4, fld w 14 6, fld w 7 7, fld w 0 7⟩ from by unfold decodeWord; rw [(op_of ho).1, (op_of ho).2]; rfl]
  rw [h0, h1, h2, h3]

theorem Sys2Proof.Laws.Words.fabsF32 (f : FmtU) : Statement (.fabsF32 f) := by
  intro w _ hw
  obtain ⟨ho, h0, h1, h2, h3⟩ := shape4_6_7_7 38#8 f.g f.d f.a (112#7) w (Option.some.inj hw)
  rw [show decodeWord w = if fld w 0 7 = 112#7 then .fabsF32 ⟨fld w 20 4, fld w 14 6, fld w 7 7⟩ else .reservedOpcode w from by unfold decodeWord; rw [(op_of ho).1, (op_of ho).2]; rfl]
  rw [if_pos h3]
  rw [h0, h1, h2]

theorem Sys2Proof.Laws.Words.fnegF32 (f : FmtU) : Statement (.fnegF32 f) := by
  intro w _ hw
  obtain ⟨ho, h0, h1, h2, h3⟩ := shape4_6_7_7 39#8 f.g f.d f.a (112#7) w (Option.some.inj hw)
  rw [show decodeWord w = if fld w 0 7 = 112#7 then .fnegF32 ⟨fld w 20 4, fld w 14 6, fld w 7 7⟩ else .reservedOpcode w from by unfold decodeWord; rw [(op_of ho).1, (op_of ho).2]; rfl]
  rw [if_pos h3]
  rw [h0, h1, h2]

theorem Sys2Proof.Laws.Words.faddH2 (f : FmtA) : Statement (.faddH2 f) := by
  intro w _ hw
  obtain ⟨ho, h0, h1, h2, h3⟩ := shape4_6_7_7 40#8 f.g f.d f.a f.b w (Option.some.inj hw)
  rw [show decodeWord w = .faddH2 ⟨fld w 20 4, fld w 14 6, fld w 7 7, fld w 0 7⟩ from by unfold decodeWord; rw [(op_of ho).1, (op_of ho).2]; rfl]
  rw [h0, h1, h2, h3]

theorem Sys2Proof.Laws.Words.fmulH2 (f : FmtA) : Statement (.fmulH2 f) := by
  intro w _ hw
  obtain ⟨ho, h0, h1, h2, h3⟩ := shape4_6_7_7 41#8 f.g f.d f.a f.b w (Option.some.inj hw)
  rw [show decodeWord w = .fmulH2 ⟨fld w 20 4, fld w 14 6, fld w 7 7, fld w 0 7⟩ from by unfold decodeWord; rw [(op_of ho).1, (op_of ho).2]; rfl]
  rw [h0, h1, h2, h3]

theorem Sys2Proof.Laws.Words.ffmaH2 (f : FmtA) : Statement (.ffmaH2 f) := by
  intro w _ hw
  obtain ⟨ho, h0, h1, h2, h3⟩ := shape4_6_7_7 42#8 f.g f.d f.a f.b w (Option.some.inj hw)
  rw [show decodeWord w = .ffmaH2 ⟨fld w 20 4, fld w 14 6, fld w 7 7, fld w 0 7⟩ from by unfold decodeWord; rw [(op_of ho).1, (op_of ho).2]; rfl]
  rw [h0, h1, h2, h3]

theorem Sys2Proof.Laws.Words.fminH2 (f : FmtA) : Statement (.fminH2 f) := by
  intro w _ hw
  obtain ⟨ho, h0, h1, h2, h3⟩ := shape4_6_7_7 43#8 f.g f.d f.a f.b w (Option.some.inj hw)
  rw [show decodeWord w = .fminH2 ⟨fld w 20 4, fld w 14 6, fld w 7 7, fld w 0 7⟩ from by unfold decodeWord; rw [(op_of ho).1, (op_of ho).2]; rfl]
  rw [h0, h1, h2, h3]

theorem Sys2Proof.Laws.Words.fmaxH2 (f : FmtA) : Statement (.fmaxH2 f) := by
  intro w _ hw
  obtain ⟨ho, h0, h1, h2, h3⟩ := shape4_6_7_7 44#8 f.g f.d f.a f.b w (Option.some.inj hw)
  rw [show decodeWord w = .fmaxH2 ⟨fld w 20 4, fld w 14 6, fld w 7 7, fld w 0 7⟩ from by unfold decodeWord; rw [(op_of ho).1, (op_of ho).2]; rfl]
  rw [h0, h1, h2, h3]

theorem Sys2Proof.Laws.Words.faddB2 (f : FmtA) : Statement (.faddB2 f) := by
  intro w _ hw
  obtain ⟨ho, h0, h1, h2, h3⟩ := shape4_6_7_7 45#8 f.g f.d f.a f.b w (Option.some.inj hw)
  rw [show decodeWord w = .faddB2 ⟨fld w 20 4, fld w 14 6, fld w 7 7, fld w 0 7⟩ from by unfold decodeWord; rw [(op_of ho).1, (op_of ho).2]; rfl]
  rw [h0, h1, h2, h3]

theorem Sys2Proof.Laws.Words.fmulB2 (f : FmtA) : Statement (.fmulB2 f) := by
  intro w _ hw
  obtain ⟨ho, h0, h1, h2, h3⟩ := shape4_6_7_7 46#8 f.g f.d f.a f.b w (Option.some.inj hw)
  rw [show decodeWord w = .fmulB2 ⟨fld w 20 4, fld w 14 6, fld w 7 7, fld w 0 7⟩ from by unfold decodeWord; rw [(op_of ho).1, (op_of ho).2]; rfl]
  rw [h0, h1, h2, h3]

theorem Sys2Proof.Laws.Words.ffmaB2 (f : FmtA) : Statement (.ffmaB2 f) := by
  intro w _ hw
  obtain ⟨ho, h0, h1, h2, h3⟩ := shape4_6_7_7 47#8 f.g f.d f.a f.b w (Option.some.inj hw)
  rw [show decodeWord w = .ffmaB2 ⟨fld w 20 4, fld w 14 6, fld w 7 7, fld w 0 7⟩ from by unfold decodeWord; rw [(op_of ho).1, (op_of ho).2]; rfl]
  rw [h0, h1, h2, h3]

theorem Sys2Proof.Laws.Words.frcp (f : FmtU) : Statement (.frcp f) := by
  intro w _ hw
  obtain ⟨ho, h0, h1, h2, h3⟩ := shape4_6_7_7 48#8 f.g f.d f.a (112#7) w (Option.some.inj hw)
  rw [show decodeWord w = if fld w 0 7 = 112#7 then .frcp ⟨fld w 20 4, fld w 14 6, fld w 7 7⟩ else .reservedOpcode w from by unfold decodeWord; rw [(op_of ho).1, (op_of ho).2]; rfl]
  rw [if_pos h3]
  rw [h0, h1, h2]

theorem Sys2Proof.Laws.Words.frsq (f : FmtU) : Statement (.frsq f) := by
  intro w _ hw
  obtain ⟨ho, h0, h1, h2, h3⟩ := shape4_6_7_7 49#8 f.g f.d f.a (112#7) w (Option.some.inj hw)
  rw [show decodeWord w = if fld w 0 7 = 112#7 then .frsq ⟨fld w 20 4, fld w 14 6, fld w 7 7⟩ else .reservedOpcode w from by unfold decodeWord; rw [(op_of ho).1, (op_of ho).2]; rfl]
  rw [if_pos h3]
  rw [h0, h1, h2]

theorem Sys2Proof.Laws.Words.fsqrt (f : FmtU) : Statement (.fsqrt f) := by
  intro w _ hw
  obtain ⟨ho, h0, h1, h2, h3⟩ := shape4_6_7_7 50#8 f.g f.d f.a (112#7) w (Option.some.inj hw)
  rw [show decodeWord w = if fld w 0 7 = 112#7 then .fsqrt ⟨fld w 20 4, fld w 14 6, fld w 7 7⟩ else .reservedOpcode w from by unfold decodeWord; rw [(op_of ho).1, (op_of ho).2]; rfl]
  rw [if_pos h3]
  rw [h0, h1, h2]

theorem Sys2Proof.Laws.Words.fdiv (f : FmtA) : Statement (.fdiv f) := by
  intro w _ hw
  obtain ⟨ho, h0, h1, h2, h3⟩ := shape4_6_7_7 51#8 f.g f.d f.a f.b w (Option.some.inj hw)
  rw [show decodeWord w = .fdiv ⟨fld w 20 4, fld w 14 6, fld w 7 7, fld w 0 7⟩ from by unfold decodeWord; rw [(op_of ho).1, (op_of ho).2]; rfl]
  rw [h0, h1, h2, h3]

theorem Sys2Proof.Laws.Words.fexp2 (f : FmtU) : Statement (.fexp2 f) := by
  intro w _ hw
  obtain ⟨ho, h0, h1, h2, h3⟩ := shape4_6_7_7 52#8 f.g f.d f.a (112#7) w (Option.some.inj hw)
  rw [show decodeWord w = if fld w 0 7 = 112#7 then .fexp2 ⟨fld w 20 4, fld w 14 6, fld w 7 7⟩ else .reservedOpcode w from by unfold decodeWord; rw [(op_of ho).1, (op_of ho).2]; rfl]
  rw [if_pos h3]
  rw [h0, h1, h2]

theorem Sys2Proof.Laws.Words.flog2 (f : FmtU) : Statement (.flog2 f) := by
  intro w _ hw
  obtain ⟨ho, h0, h1, h2, h3⟩ := shape4_6_7_7 53#8 f.g f.d f.a (112#7) w (Option.some.inj hw)
  rw [show decodeWord w = if fld w 0 7 = 112#7 then .flog2 ⟨fld w 20 4, fld w 14 6, fld w 7 7⟩ else .reservedOpcode w from by unfold decodeWord; rw [(op_of ho).1, (op_of ho).2]; rfl]
  rw [if_pos h3]
  rw [h0, h1, h2]

theorem Sys2Proof.Laws.Words.fsinpi (f : FmtU) : Statement (.fsinpi f) := by
  intro w _ hw
  obtain ⟨ho, h0, h1, h2, h3⟩ := shape4_6_7_7 54#8 f.g f.d f.a (112#7) w (Option.some.inj hw)
  rw [show decodeWord w = if fld w 0 7 = 112#7 then .fsinpi ⟨fld w 20 4, fld w 14 6, fld w 7 7⟩ else .reservedOpcode w from by unfold decodeWord; rw [(op_of ho).1, (op_of ho).2]; rfl]
  rw [if_pos h3]
  rw [h0, h1, h2]

theorem Sys2Proof.Laws.Words.fcospi (f : FmtU) : Statement (.fcospi f) := by
  intro w _ hw
  obtain ⟨ho, h0, h1, h2, h3⟩ := shape4_6_7_7 55#8 f.g f.d f.a (112#7) w (Option.some.inj hw)
  rw [show decodeWord w = if fld w 0 7 = 112#7 then .fcospi ⟨fld w 20 4, fld w 14 6, fld w 7 7⟩ else .reservedOpcode w from by unfold decodeWord; rw [(op_of ho).1, (op_of ho).2]; rfl]
  rw [if_pos h3]
  rw [h0, h1, h2]

theorem Sys2Proof.Laws.Words.ftanh (f : FmtU) : Statement (.ftanh f) := by
  intro w _ hw
  obtain ⟨ho, h0, h1, h2, h3⟩ := shape4_6_7_7 56#8 f.g f.d f.a (112#7) w (Option.some.inj hw)
  rw [show decodeWord w = if fld w 0 7 = 112#7 then .ftanh ⟨fld w 20 4, fld w 14 6, fld w 7 7⟩ else .reservedOpcode w from by unfold decodeWord; rw [(op_of ho).1, (op_of ho).2]; rfl]
  rw [if_pos h3]
  rw [h0, h1, h2]

theorem Sys2Proof.Laws.Words.fscale (f : FmtA) : Statement (.fscale f) := by
  intro w _ hw
  obtain ⟨ho, h0, h1, h2, h3⟩ := shape4_6_7_7 57#8 f.g f.d f.a f.b w (Option.some.inj hw)
  rw [show decodeWord w = .fscale ⟨fld w 20 4, fld w 14 6, fld w 7 7, fld w 0 7⟩ from by unfold decodeWord; rw [(op_of ho).1, (op_of ho).2]; rfl]
  rw [h0, h1, h2, h3]

theorem Sys2Proof.Laws.Words.frnd (g : BitVec 4) (d : BitVec 6) (a : BitVec 7) (m : BitVec 2) : Statement (.frnd g d a m) := by
  intro w _ hw
  obtain ⟨ho, h0, h1, h2, h3, h4⟩ := shape4_6_7_5_2 58#8 g d a (0#5) m w (Option.some.inj hw)
  rw [show decodeWord w = if fld w 2 5 = 0#5 then .frnd (fld w 20 4) (fld w 14 6) (fld w 7 7) (fld w 0 2) else .reservedOpcode w from by unfold decodeWord; rw [(op_of ho).1, (op_of ho).2]; rfl]
  rw [if_pos h3]
  rw [h0, h1, h2, h4]

theorem Sys2Proof.Laws.Words.fclass (g : BitVec 4) (p : BitVec 3) (a : BitVec 7) (m : BitVec 7) : Statement (.fclass g p a m) := by
  intro w _ hw
  obtain ⟨ho, h0, h1, h2, h3, h4⟩ := shape4_3_3_7_7 59#8 g (0#3) p a m w (Option.some.inj hw)
  rw [show decodeWord w = if fld w 17 3 = 0#3 then .fclass (fld w 20 4) (fld w 14 3) (fld w 7 7) (fld w 0 7) else .reservedOpcode w from by unfold decodeWord; rw [(op_of ho).1, (op_of ho).2]; rfl]
  rw [if_pos h1]
  rw [h0, h2, h3, h4]

theorem Sys2Proof.Laws.Words.fdot2H (f : FmtA) : Statement (.fdot2H f) := by
  intro w _ hw
  obtain ⟨ho, h0, h1, h2, h3⟩ := shape4_6_7_7 60#8 f.g f.d f.a f.b w (Option.some.inj hw)
  rw [show decodeWord w = .fdot2H ⟨fld w 20 4, fld w 14 6, fld w 7 7, fld w 0 7⟩ from by unfold decodeWord; rw [(op_of ho).1, (op_of ho).2]; rfl]
  rw [h0, h1, h2, h3]

theorem Sys2Proof.Laws.Words.fdot4E4 (f : FmtA) : Statement (.fdot4E4 f) := by
  intro w _ hw
  obtain ⟨ho, h0, h1, h2, h3⟩ := shape4_6_7_7 61#8 f.g f.d f.a f.b w (Option.some.inj hw)
  rw [show decodeWord w = .fdot4E4 ⟨fld w 20 4, fld w 14 6, fld w 7 7, fld w 0 7⟩ from by unfold decodeWord; rw [(op_of ho).1, (op_of ho).2]; rfl]
  rw [h0, h1, h2, h3]

theorem Sys2Proof.Laws.Words.fdot4E5 (f : FmtA) : Statement (.fdot4E5 f) := by
  intro w _ hw
  obtain ⟨ho, h0, h1, h2, h3⟩ := shape4_6_7_7 62#8 f.g f.d f.a f.b w (Option.some.inj hw)
  rw [show decodeWord w = .fdot4E5 ⟨fld w 20 4, fld w 14 6, fld w 7 7, fld w 0 7⟩ from by unfold decodeWord; rw [(op_of ho).1, (op_of ho).2]; rfl]
  rw [h0, h1, h2, h3]

theorem Sys2Proof.Laws.Words.keyf (f : FmtU) : Statement (.keyf f) := by
  intro w _ hw
  obtain ⟨ho, h0, h1, h2, h3⟩ := shape4_6_7_7 63#8 f.g f.d f.a (112#7) w (Option.some.inj hw)
  rw [show decodeWord w = if fld w 0 7 = 112#7 then .keyf ⟨fld w 20 4, fld w 14 6, fld w 7 7⟩ else .reservedOpcode w from by unfold decodeWord; rw [(op_of ho).1, (op_of ho).2]; rfl]
  rw [if_pos h3]
  rw [h0, h1, h2]

theorem Sys2Proof.Laws.Words.icmpI32 (f : FmtCmp) : Statement (.icmpI32 f) := by
  intro w _ hw
  obtain ⟨ho, h0, h1, h2, h3, h4, h5⟩ := shape4_6_7_1_3_3 64#8 f.g f.src f.a (0#1) f.cond f.pd w (Option.some.inj hw)
  rw [show decodeWord w = if fld w 6 1 = 0#1 then .icmpI32 ⟨fld w 20 4, fld w 14 6, fld w 7 7, fld w 3 3, fld w 0 3⟩ else .reservedOpcode w from by unfold decodeWord; rw [(op_of ho).1, (op_of ho).2]; rfl]
  rw [if_pos h3]
  rw [h0, h1, h2, h4, h5]

theorem Sys2Proof.Laws.Words.icmpN32 (f : FmtCmp) : Statement (.icmpN32 f) := by
  intro w _ hw
  obtain ⟨ho, h0, h1, h2, h3, h4, h5⟩ := shape4_6_7_1_3_3 65#8 f.g f.src f.a (0#1) f.cond f.pd w (Option.some.inj hw)
  rw [show decodeWord w = if fld w 6 1 = 0#1 then .icmpN32 ⟨fld w 20 4, fld w 14 6, fld w 7 7, fld w 3 3, fld w 0 3⟩ else .reservedOpcode w from by unfold decodeWord; rw [(op_of ho).1, (op_of ho).2]; rfl]
  rw [if_pos h3]
  rw [h0, h1, h2, h4, h5]

theorem Sys2Proof.Laws.Words.icmpI64 (f : FmtCmp) : Statement (.icmpI64 f) := by
  intro w _ hw
  obtain ⟨ho, h0, h1, h2, h3, h4, h5⟩ := shape4_6_7_1_3_3 66#8 f.g f.src f.a (0#1) f.cond f.pd w (Option.some.inj hw)
  rw [show decodeWord w = if fld w 6 1 = 0#1 then .icmpI64 ⟨fld w 20 4, fld w 14 6, fld w 7 7, fld w 3 3, fld w 0 3⟩ else .reservedOpcode w from by unfold decodeWord; rw [(op_of ho).1, (op_of ho).2]; rfl]
  rw [if_pos h3]
  rw [h0, h1, h2, h4, h5]

theorem Sys2Proof.Laws.Words.fcmpF32 (f : FmtCmp) : Statement (.fcmpF32 f) := by
  intro w _ hw
  obtain ⟨ho, h0, h1, h2, h3, h4, h5⟩ := shape4_6_7_1_3_3 67#8 f.g f.src f.a (0#1) f.cond f.pd w (Option.some.inj hw)
  rw [show decodeWord w = if fld w 6 1 = 0#1 then .fcmpF32 ⟨fld w 20 4, fld w 14 6, fld w 7 7, fld w 3 3, fld w 0 3⟩ else .reservedOpcode w from by unfold decodeWord; rw [(op_of ho).1, (op_of ho).2]; rfl]
  rw [if_pos h3]
  rw [h0, h1, h2, h4, h5]

theorem Sys2Proof.Laws.Words.fcmpH (g : BitVec 4) (s : BitVec 6) (a : BitVec 7) (h : BitVec 1) (c : BitVec 3) (p : BitVec 3) : Statement (.fcmpH g s a h c p) := by
  intro w _ hw
  obtain ⟨ho, h0, h1, h2, h3, h4, h5⟩ := shape4_6_7_1_3_3 68#8 g s a h c p w (Option.some.inj hw)
  rw [show decodeWord w = .fcmpH (fld w 20 4) (fld w 14 6) (fld w 7 7) (fld w 6 1) (fld w 3 3) (fld w 0 3) from by unfold decodeWord; rw [(op_of ho).1, (op_of ho).2]; rfl]
  rw [h0, h1, h2, h3, h4, h5]

theorem Sys2Proof.Laws.Words.plop (g : BitVec 4) (d : BitVec 3) (a : BitVec 3) (b : BitVec 3) (t : BitVec 4) : Statement (.plop g d a b t) := by
  intro w _ hw
  obtain ⟨ho, h0, h1, h2, h3, h4, h5, h6⟩ := shape4_3_3_4_3_3_4 69#8 g (0#3) d (0#4) a b t w (Option.some.inj hw)
  rw [show decodeWord w = if fld w 17 3 = 0#3 ∧ fld w 10 4 = 0#4 then .plop (fld w 20 4) (fld w 14 3) (fld w 7 3) (fld w 4 3) (fld w 0 4) else .reservedOpcode w from by unfold decodeWord; rw [(op_of ho).1, (op_of ho).2]; rfl]
  rw [if_pos ⟨h1, h3⟩]
  rw [h0, h2, h4, h5, h6]

theorem Sys2Proof.Laws.Words.ballot (f : FmtA) : Statement (.ballot f) := by
  intro w _ hw
  obtain ⟨ho, h0, h1, h2, h3⟩ := shape4_6_7_7 70#8 f.g f.d f.a f.b w (Option.some.inj hw)
  rw [show decodeWord w = .ballot ⟨fld w 20 4, fld w 14 6, fld w 7 7, fld w 0 7⟩ from by unfold decodeWord; rw [(op_of ho).1, (op_of ho).2]; rfl]
  rw [h0, h1, h2, h3]

theorem Sys2Proof.Laws.Words.vote (g : BitVec 4) (p : BitVec 3) (a : BitVec 7) (k : BitVec 2) : Statement (.vote g p a k) := by
  intro w _ hw
  obtain ⟨ho, h0, h1, h2, h3, h4, h5⟩ := shape4_3_3_7_5_2 71#8 g (0#3) p a (0#5) k w (Option.some.inj hw)
  rw [show decodeWord w = if fld w 17 3 = 0#3 ∧ fld w 2 5 = 0#5 then .vote (fld w 20 4) (fld w 14 3) (fld w 7 7) (fld w 0 2) else .reservedOpcode w from by unfold decodeWord; rw [(op_of ho).1, (op_of ho).2]; rfl]
  rw [if_pos ⟨h1, h4⟩]
  rw [h0, h2, h3, h5]

theorem Sys2Proof.Laws.Words.lpick (f : FmtA) : Statement (.lpick f) := by
  intro w _ hw
  obtain ⟨ho, h0, h1, h2, h3⟩ := shape4_6_7_7 72#8 f.g f.d f.a f.b w (Option.some.inj hw)
  rw [show decodeWord w = .lpick ⟨fld w 20 4, fld w 14 6, fld w 7 7, fld w 0 7⟩ from by unfold decodeWord; rw [(op_of ho).1, (op_of ho).2]; rfl]
  rw [h0, h1, h2, h3]

theorem Sys2Proof.Laws.Words.lmirr (f : FmtA) : Statement (.lmirr f) := by
  intro w _ hw
  obtain ⟨ho, h0, h1, h2, h3⟩ := shape4_6_7_7 73#8 f.g f.d f.a f.b w (Option.some.inj hw)
  rw [show decodeWord w = .lmirr ⟨fld w 20 4, fld w 14 6, fld w 7 7, fld w 0 7⟩ from by unfold decodeWord; rw [(op_of ho).1, (op_of ho).2]; rfl]
  rw [h0, h1, h2, h3]

theorem Sys2Proof.Laws.Words.lrot (f : FmtA) : Statement (.lrot f) := by
  intro w _ hw
  obtain ⟨ho, h0, h1, h2, h3⟩ := shape4_6_7_7 74#8 f.g f.d f.a f.b w (Option.some.inj hw)
  rw [show decodeWord w = .lrot ⟨fld w 20 4, fld w 14 6, fld w 7 7, fld w 0 7⟩ from by unfold decodeWord; rw [(op_of ho).1, (op_of ho).2]; rfl]
  rw [h0, h1, h2, h3]

theorem Sys2Proof.Laws.Words.lshift (f : FmtA) : Statement (.lshift f) := by
  intro w _ hw
  obtain ⟨ho, h0, h1, h2, h3⟩ := shape4_6_7_7 75#8 f.g f.d f.a f.b w (Option.some.inj hw)
  rw [show decodeWord w = .lshift ⟨fld w 20 4, fld w 14 6, fld w 7 7, fld w 0 7⟩ from by unfold decodeWord; rw [(op_of ho).1, (op_of ho).2]; rfl]
  rw [h0, h1, h2, h3]

theorem Sys2Proof.Laws.Words.lfold (g : BitVec 4) (d : BitVec 6) (a : BitVec 7) (o : BitVec 4) : Statement (.lfold g d a o) := by
  intro w _ hw
  obtain ⟨ho, h0, h1, h2, h3, h4⟩ := shape4_6_7_3_4 76#8 g d a (0#3) o w (Option.some.inj hw)
  rw [show decodeWord w = if fld w 4 3 = 0#3 then .lfold (fld w 20 4) (fld w 14 6) (fld w 7 7) (fld w 0 4) else .reservedOpcode w from by unfold decodeWord; rw [(op_of ho).1, (op_of ho).2]; rfl]
  rw [if_pos h3]
  rw [h0, h1, h2, h4]

theorem Sys2Proof.Laws.Words.lpeer (f : FmtA) : Statement (.lpeer f) := by
  intro w _ hw
  obtain ⟨ho, h0, h1, h2, h3⟩ := shape4_6_7_7 77#8 f.g f.d f.a f.b w (Option.some.inj hw)
  rw [show decodeWord w = .lpeer ⟨fld w 20 4, fld w 14 6, fld w 7 7, fld w 0 7⟩ from by unfold decodeWord; rw [(op_of ho).1, (op_of ho).2]; rfl]
  rw [h0, h1, h2, h3]

theorem Sys2Proof.Laws.Words.swr (g : BitVec 4) (s : BitVec 5) (a : BitVec 7) : Statement (.swr g s a) := by
  intro w _ hw
  obtain ⟨ho, h0, h1, h2, h3, h4⟩ := shape4_1_5_7_7 78#8 g (0#1) s a (112#7) w (Option.some.inj hw)
  rw [show decodeWord w = if fld w 19 1 = 0#1 ∧ fld w 0 7 = 112#7 then .swr (fld w 20 4) (fld w 14 5) (fld w 7 7) else .reservedOpcode w from by unfold decodeWord; rw [(op_of ho).1, (op_of ho).2]; rfl]
  rw [if_pos ⟨h1, h4⟩]
  rw [h0, h2, h3]

theorem Sys2Proof.Laws.Words.mov (f : FmtU) : Statement (.mov f) := by
  intro w _ hw
  obtain ⟨ho, h0, h1, h2, h3⟩ := shape4_6_7_7 80#8 f.g f.d f.a (112#7) w (Option.some.inj hw)
  rw [show decodeWord w = if fld w 0 7 = 112#7 then .mov ⟨fld w 20 4, fld w 14 6, fld w 7 7⟩ else .reservedOpcode w from by unfold decodeWord; rw [(op_of ho).1, (op_of ho).2]; rfl]
  rw [if_pos h3]
  rw [h0, h1, h2]

theorem Sys2Proof.Laws.Words.mov64 (f : FmtU) : Statement (.mov64 f) := by
  intro w _ hw
  obtain ⟨ho, h0, h1, h2, h3⟩ := shape4_6_7_7 81#8 f.g f.d f.a (112#7) w (Option.some.inj hw)
  rw [show decodeWord w = if fld w 0 7 = 112#7 then .mov64 ⟨fld w 20 4, fld w 14 6, fld w 7 7⟩ else .reservedOpcode w from by unfold decodeWord; rw [(op_of ho).1, (op_of ho).2]; rfl]
  rw [if_pos h3]
  rw [h0, h1, h2]

theorem Sys2Proof.Laws.Words.rdlane (g : BitVec 4) (s : BitVec 5) (a : BitVec 7) (b : BitVec 7) : Statement (.rdlane g s a b) := by
  intro w _ hw
  obtain ⟨ho, h0, h1, h2, h3, h4⟩ := shape4_1_5_7_7 82#8 g (0#1) s a b w (Option.some.inj hw)
  rw [show decodeWord w = if fld w 19 1 = 0#1 then .rdlane (fld w 20 4) (fld w 14 5) (fld w 7 7) (fld w 0 7) else .reservedOpcode w from by unfold decodeWord; rw [(op_of ho).1, (op_of ho).2]; rfl]
  rw [if_pos h1]
  rw [h0, h2, h3, h4]

theorem Sys2Proof.Laws.Words.cvt (g : BitVec 4) (d : BitVec 6) (a : BitVec 7) (s : BitVec 1) (m : BitVec 2) (c : BitVec 4) : Statement (.cvt g d a s m c) := by
  intro w _ hw
  obtain ⟨ho, h0, h1, h2, h3, h4, h5⟩ := shape4_6_7_1_2_4 83#8 g d a s m c w (Option.some.inj hw)
  rw [show decodeWord w = .cvt (fld w 20 4) (fld w 14 6) (fld w 7 7) (fld w 6 1) (fld w 4 2) (fld w 0 4) from by unfold decodeWord; rw [(op_of ho).1, (op_of ho).2]; rfl]
  rw [h0, h1, h2, h3, h4, h5]

theorem Sys2Proof.Laws.Words.cvtpkH2 (f : FmtA) : Statement (.cvtpkH2 f) := by
  intro w _ hw
  obtain ⟨ho, h0, h1, h2, h3⟩ := shape4_6_7_7 84#8 f.g f.d f.a f.b w (Option.some.inj hw)
  rw [show decodeWord w = .cvtpkH2 ⟨fld w 20 4, fld w 14 6, fld w 7 7, fld w 0 7⟩ from by unfold decodeWord; rw [(op_of ho).1, (op_of ho).2]; rfl]
  rw [h0, h1, h2, h3]

theorem Sys2Proof.Laws.Words.cvtpkB2 (f : FmtA) : Statement (.cvtpkB2 f) := by
  intro w _ hw
  obtain ⟨ho, h0, h1, h2, h3⟩ := shape4_6_7_7 85#8 f.g f.d f.a f.b w (Option.some.inj hw)
  rw [show decodeWord w = .cvtpkB2 ⟨fld w 20 4, fld w 14 6, fld w 7 7, fld w 0 7⟩ from by unfold decodeWord; rw [(op_of ho).1, (op_of ho).2]; rfl]
  rw [h0, h1, h2, h3]

theorem Sys2Proof.Laws.Words.cvtpkE4 (f : FmtA) : Statement (.cvtpkE4 f) := by
  intro w _ hw
  obtain ⟨ho, h0, h1, h2, h3⟩ := shape4_6_7_7 86#8 f.g f.d f.a f.b w (Option.some.inj hw)
  rw [show decodeWord w = .cvtpkE4 ⟨fld w 20 4, fld w 14 6, fld w 7 7, fld w 0 7⟩ from by unfold decodeWord; rw [(op_of ho).1, (op_of ho).2]; rfl]
  rw [h0, h1, h2, h3]

theorem Sys2Proof.Laws.Words.cvtpkE5 (f : FmtA) : Statement (.cvtpkE5 f) := by
  intro w _ hw
  obtain ⟨ho, h0, h1, h2, h3⟩ := shape4_6_7_7 87#8 f.g f.d f.a f.b w (Option.some.inj hw)
  rw [show decodeWord w = .cvtpkE5 ⟨fld w 20 4, fld w 14 6, fld w 7 7, fld w 0 7⟩ from by unfold decodeWord; rw [(op_of ho).1, (op_of ho).2]; rfl]
  rw [h0, h1, h2, h3]

theorem Sys2Proof.Laws.Words.qpk4 (f : FmtA) : Statement (.qpk4 f) := by
  intro w _ hw
  obtain ⟨ho, h0, h1, h2, h3⟩ := shape4_6_7_7 88#8 f.g f.d f.a f.b w (Option.some.inj hw)
  rw [show decodeWord w = .qpk4 ⟨fld w 20 4, fld w 14 6, fld w 7 7, fld w 0 7⟩ from by unfold decodeWord; rw [(op_of ho).1, (op_of ho).2]; rfl]
  rw [h0, h1, h2, h3]

theorem Sys2Proof.Laws.Words.qupk4 (g : BitVec 4) (d : BitVec 6) (a : BitVec 7) (i : BitVec 3) : Statement (.qupk4 g d a i) := by
  intro w _ hw
  obtain ⟨ho, h0, h1, h2, h3, h4⟩ := shape4_6_7_4_3 89#8 g d a (0#4) i w (Option.some.inj hw)
  rw [show decodeWord w = if fld w 3 4 = 0#4 then .qupk4 (fld w 20 4) (fld w 14 6) (fld w 7 7) (fld w 0 3) else .reservedOpcode w from by unfold decodeWord; rw [(op_of ho).1, (op_of ho).2]; rfl]
  rw [if_pos h3]
  rw [h0, h1, h2, h4]

theorem Sys2Proof.Laws.Words.qscale (f : FmtA) : Statement (.qscale f) := by
  intro w _ hw
  obtain ⟨ho, h0, h1, h2, h3⟩ := shape4_6_7_7 90#8 f.g f.d f.a f.b w (Option.some.inj hw)
  rw [show decodeWord w = .qscale ⟨fld w 20 4, fld w 14 6, fld w 7 7, fld w 0 7⟩ from by unfold decodeWord; rw [(op_of ho).1, (op_of ho).2]; rfl]
  rw [h0, h1, h2, h3]

theorem Sys2Proof.Laws.Words.requant (f : FmtA) : Statement (.requant f) := by
  intro w _ hw
  obtain ⟨ho, h0, h1, h2, h3⟩ := shape4_6_7_7 91#8 f.g f.d f.a f.b w (Option.some.inj hw)
  rw [show decodeWord w = .requant ⟨fld w 20 4, fld w 14 6, fld w 7 7, fld w 0 7⟩ from by unfold decodeWord; rw [(op_of ho).1, (op_of ho).2]; rfl]
  rw [h0, h1, h2, h3]

theorem Sys2Proof.Laws.Words.qpush (g : BitVec 4) (q : BitVec 4) (a : BitVec 7) : Statement (.qpush g q a) := by
  intro w _ hw
  obtain ⟨ho, h0, h1, h2, h3, h4⟩ := shape4_2_4_7_7 96#8 g (0#2) q a (0#7) w (Option.some.inj hw)
  rw [show decodeWord w = if fld w 18 2 = 0#2 ∧ fld w 0 7 = 0#7 then .qpush (fld w 20 4) (fld w 14 4) (fld w 7 7) else .reservedOpcode w from by unfold decodeWord; rw [(op_of ho).1, (op_of ho).2]; rfl]
  rw [if_pos ⟨h1, h4⟩]
  rw [h0, h2, h3]

theorem Sys2Proof.Laws.Words.qpop (g : BitVec 4) (d : BitVec 6) (q : BitVec 4) (e : BitVec 1) (p : BitVec 3) : Statement (.qpop g d q e p) := by
  intro w _ hw
  obtain ⟨ho, h0, h1, h2, h3, h4, h5, h6⟩ := shape4_6_3_4_3_1_3 97#8 g d (0#3) q (0#3) e p w (Option.some.inj hw)
  rw [show decodeWord w = if fld w 11 3 = 0#3 ∧ fld w 4 3 = 0#3 then .qpop (fld w 20 4) (fld w 14 6) (fld w 7 4) (fld w 3 1) (fld w 0 3) else .reservedOpcode w from by unfold decodeWord; rw [(op_of ho).1, (op_of ho).2]; rfl]
  rw [if_pos ⟨h2, h4⟩]
  rw [h0, h1, h3, h5, h6]

theorem Sys2Proof.Laws.Words.qtry (g : BitVec 4) (d : BitVec 6) (q : BitVec 4) (p : BitVec 3) : Statement (.qtry g d q p) := by
  intro w _ hw
  obtain ⟨ho, h0, h1, h2, h3, h4, h5⟩ := shape4_6_3_4_4_3 98#8 g d (0#3) q (0#4) p w (Option.some.inj hw)
  rw [show decodeWord w = if fld w 11 3 = 0#3 ∧ fld w 3 4 = 0#4 then .qtry (fld w 20 4) (fld w 14 6) (fld w 7 4) (fld w 0 3) else .reservedOpcode w from by unfold decodeWord; rw [(op_of ho).1, (op_of ho).2]; rfl]
  rw [if_pos ⟨h2, h4⟩]
  rw [h0, h1, h3, h5]

theorem Sys2Proof.Laws.Words.qpeek (g : BitVec 4) (d : BitVec 6) (q : BitVec 4) (s : BitVec 1) : Statement (.qpeek g d q s) := by
  intro w _ hw
  obtain ⟨ho, h0, h1, h2, h3, h4, h5⟩ := shape4_6_3_4_6_1 99#8 g d (0#3) q (0#6) s w (Option.some.inj hw)
  rw [show decodeWord w = if fld w 11 3 = 0#3 ∧ fld w 1 6 = 0#6 then .qpeek (fld w 20 4) (fld w 14 6) (fld w 7 4) (fld w 0 1) else .reservedOpcode w from by unfold decodeWord; rw [(op_of ho).1, (op_of ho).2]; rfl]
  rw [if_pos ⟨h2, h4⟩]
  rw [h0, h1, h3, h5]

theorem Sys2Proof.Laws.Words.qskip (g : BitVec 4) (q : BitVec 4) (n : BitVec 7) : Statement (.qskip g q n) := by
  intro w _ hw
  obtain ⟨ho, h0, h1, h2, h3, h4⟩ := shape4_2_4_7_7 100#8 g (0#2) q (0#7) n w (Option.some.inj hw)
  rw [show decodeWord w = if fld w 18 2 = 0#2 ∧ fld w 7 7 = 0#7 then .qskip (fld w 20 4) (fld w 14 4) (fld w 0 7) else .reservedOpcode w from by unfold decodeWord; rw [(op_of ho).1, (op_of ho).2]; rfl]
  rw [if_pos ⟨h1, h3⟩]
  rw [h0, h2, h4]

theorem Sys2Proof.Laws.Words.qflush (g : BitVec 4) (q : BitVec 4) (e : BitVec 1) : Statement (.qflush g q e) := by
  intro w _ hw
  obtain ⟨ho, h0, h1, h2, h3, h4⟩ := shape4_2_4_13_1 101#8 g (0#2) q (0#13) e w (Option.some.inj hw)
  rw [show decodeWord w = if fld w 18 2 = 0#2 ∧ fld w 1 13 = 0#13 then .qflush (fld w 20 4) (fld w 14 4) (fld w 0 1) else .reservedOpcode w from by unfold decodeWord; rw [(op_of ho).1, (op_of ho).2]; rfl]
  rw [if_pos ⟨h1, h3⟩]
  rw [h0, h2, h4]

theorem Sys2Proof.Laws.Words.qstat (g : BitVec 4) (d : BitVec 6) (q : BitVec 4) (s : BitVec 3) : Statement (.qstat g d q s) := by
  intro w _ hw
  obtain ⟨ho, h0, h1, h2, h3, h4, h5⟩ := shape4_6_3_4_4_3 102#8 g d (0#3) q (0#4) s w (Option.some.inj hw)
  rw [show decodeWord w = if fld w 11 3 = 0#3 ∧ fld w 3 4 = 0#4 then .qstat (fld w 20 4) (fld w 14 6) (fld w 7 4) (fld w 0 3) else .reservedOpcode w from by unfold decodeWord; rw [(op_of ho).1, (op_of ho).2]; rfl]
  rw [if_pos ⟨h2, h4⟩]
  rw [h0, h1, h3, h5]

theorem Sys2Proof.Laws.Words.qeos (g : BitVec 4) (q : BitVec 4) : Statement (.qeos g q) := by
  intro w _ hw
  obtain ⟨ho, h0, h1, h2, h3⟩ := shape4_2_4_14 103#8 g (0#2) q (0#14) w (Option.some.inj hw)
  rw [show decodeWord w = if fld w 18 2 = 0#2 ∧ fld w 0 14 = 0#14 then .qeos (fld w 20 4) (fld w 14 4) else if fld w 18 2 = 0#2 ∧ fld w 4 10 = 0#10 ∧ fld w 0 1 = 1#1 then .qeosTest (fld w 20 4) (fld w 14 4) (fld w 1 3) else .reservedOpcode w from by unfold decodeWord; rw [(op_of ho).1, (op_of ho).2]; rfl]
  rw [if_pos ⟨h1, h3⟩]
  rw [h0, h2]

theorem Sys2Proof.Laws.Words.qeosTest (g : BitVec 4) (q : BitVec 4) (p : BitVec 3) : Statement (.qeosTest g q p) := by
  intro w _ hw
  obtain ⟨ho, h0, h1, h2, h3, h4, h5⟩ := shape4_2_4_10_3_1 103#8 g (0#2) q (0#10) p (1#1) w (Option.some.inj hw)
  rw [show decodeWord w = if fld w 18 2 = 0#2 ∧ fld w 0 14 = 0#14 then .qeos (fld w 20 4) (fld w 14 4) else if fld w 18 2 = 0#2 ∧ fld w 4 10 = 0#10 ∧ fld w 0 1 = 1#1 then .qeosTest (fld w 20 4) (fld w 14 4) (fld w 1 3) else .reservedOpcode w from by unfold decodeWord; rw [(op_of ho).1, (op_of ho).2]; rfl]
  rw [if_neg (by rintro ⟨_, hc⟩; rw [low_bit w 14 (by decide) hc] at h5; exact absurd h5 (by decide)), if_pos ⟨h1, h3, h5⟩, h0, h2, h4]

theorem Sys2Proof.Laws.Words.rwait (f : FmtAB) : Statement (.rwait f) := by
  intro w _ hw
  obtain ⟨ho, h0, h1, h2, h3⟩ := shape4_6_7_7 104#8 f.g (0#6) f.a f.b w (Option.some.inj hw)
  rw [show decodeWord w = if fld w 14 6 = 0#6 then .rwait ⟨fld w 20 4, fld w 7 7, fld w 0 7⟩ else .reservedOpcode w from by unfold decodeWord; rw [(op_of ho).1, (op_of ho).2]; rfl]
  rw [if_pos h1]
  rw [h0, h2, h3]

theorem Sys2Proof.Laws.Words.rrel (f : FmtAB) : Statement (.rrel f) := by
  intro w _ hw
  obtain ⟨ho, h0, h1, h2, h3⟩ := shape4_6_7_7 105#8 f.g (0#6) f.a f.b w (Option.some.inj hw)
  rw [show decodeWord w = if fld w 14 6 = 0#6 then .rrel ⟨fld w 20 4, fld w 7 7, fld w 0 7⟩ else .reservedOpcode w from by unfold decodeWord; rw [(op_of ho).1, (op_of ho).2]; rfl]
  rw [if_pos h1]
  rw [h0, h2, h3]

theorem Sys2Proof.Laws.Words.ldr (f : FmtA) : Statement (.ldr f) := by
  intro w _ hw
  obtain ⟨ho, h0, h1, h2, h3⟩ := shape4_6_7_7 106#8 f.g f.d f.a f.b w (Option.some.inj hw)
  rw [show decodeWord w = .ldr ⟨fld w 20 4, fld w 14 6, fld w 7 7, fld w 0 7⟩ from by unfold decodeWord; rw [(op_of ho).1, (op_of ho).2]; rfl]
  rw [h0, h1, h2, h3]

theorem Sys2Proof.Laws.Words.str (f : FmtA) : Statement (.str f) := by
  intro w _ hw
  obtain ⟨ho, h0, h1, h2, h3⟩ := shape4_6_7_7 107#8 f.g f.d f.a f.b w (Option.some.inj hw)
  rw [show decodeWord w = .str ⟨fld w 20 4, fld w 14 6, fld w 7 7, fld w 0 7⟩ from by unfold decodeWord; rw [(op_of ho).1, (op_of ho).2]; rfl]
  rw [h0, h1, h2, h3]

theorem Sys2Proof.Laws.Words.rset (f : FmtAB) : Statement (.rset f) := by
  intro w _ hw
  obtain ⟨ho, h0, h1, h2, h3⟩ := shape4_6_7_7 108#8 f.g (0#6) f.a f.b w (Option.some.inj hw)
  rw [show decodeWord w = if fld w 14 6 = 0#6 then .rset ⟨fld w 20 4, fld w 7 7, fld w 0 7⟩ else .reservedOpcode w from by unfold decodeWord; rw [(op_of ho).1, (op_of ho).2]; rfl]
  rw [if_pos h1]
  rw [h0, h2, h3]

theorem Sys2Proof.Laws.Words.ldB8n (f : FmtM) : Statement (.ldB8n f) := by
  intro w _ hw
  obtain ⟨ho, h0, h1, h2, h3, h4, h5⟩ := shape4_6_7_2_3_2 112#8 f.g f.d f.a f.order f.scope f.cache w (Option.some.inj hw)
  rw [show decodeWord w = .ldB8n ⟨fld w 20 4, fld w 14 6, fld w 7 7, fld w 5 2, fld w 2 3, fld w 0 2⟩ from by unfold decodeWord; rw [(op_of ho).1, (op_of ho).2]; rfl]
  rw [h0, h1, h2, h3, h4, h5]

theorem Sys2Proof.Laws.Words.ldB8i (f : FmtM) : Statement (.ldB8i f) := by
  intro w _ hw
  obtain ⟨ho, h0, h1, h2, h3, h4, h5⟩ := shape4_6_7_2_3_2 113#8 f.g f.d f.a f.order f.scope f.cache w (Option.some.inj hw)
  rw [show decodeWord w = .ldB8i ⟨fld w 20 4, fld w 14 6, fld w 7 7, fld w 5 2, fld w 2 3, fld w 0 2⟩ from by unfold decodeWord; rw [(op_of ho).1, (op_of ho).2]; rfl]
  rw [h0, h1, h2, h3, h4, h5]

theorem Sys2Proof.Laws.Words.ldB16n (f : FmtM) : Statement (.ldB16n f) := by
  intro w _ hw
  obtain ⟨ho, h0, h1, h2, h3, h4, h5⟩ := shape4_6_7_2_3_2 114#8 f.g f.d f.a f.order f.scope f.cache w (Option.some.inj hw)
  rw [show decodeWord w = .ldB16n ⟨fld w 20 4, fld w 14 6, fld w 7 7, fld w 5 2, fld w 2 3, fld w 0 2⟩ from by unfold decodeWord; rw [(op_of ho).1, (op_of ho).2]; rfl]
  rw [h0, h1, h2, h3, h4, h5]

theorem Sys2Proof.Laws.Words.ldB16i (f : FmtM) : Statement (.ldB16i f) := by
  intro w _ hw
  obtain ⟨ho, h0, h1, h2, h3, h4, h5⟩ := shape4_6_7_2_3_2 115#8 f.g f.d f.a f.order f.scope f.cache w (Option.some.inj hw)
  rw [show decodeWord w = .ldB16i ⟨fld w 20 4, fld w 14 6, fld w 7 7, fld w 5 2, fld w 2 3, fld w 0 2⟩ from by unfold decodeWord; rw [(op_of ho).1, (op_of ho).2]; rfl]
  rw [h0, h1, h2, h3, h4, h5]

theorem Sys2Proof.Laws.Words.ldB32 (f : FmtM) : Statement (.ldB32 f) := by
  intro w _ hw
  obtain ⟨ho, h0, h1, h2, h3, h4, h5⟩ := shape4_6_7_2_3_2 116#8 f.g f.d f.a f.order f.scope f.cache w (Option.some.inj hw)
  rw [show decodeWord w = .ldB32 ⟨fld w 20 4, fld w 14 6, fld w 7 7, fld w 5 2, fld w 2 3, fld w 0 2⟩ from by unfold decodeWord; rw [(op_of ho).1, (op_of ho).2]; rfl]
  rw [h0, h1, h2, h3, h4, h5]

theorem Sys2Proof.Laws.Words.ldB64 (f : FmtM) : Statement (.ldB64 f) := by
  intro w _ hw
  obtain ⟨ho, h0, h1, h2, h3, h4, h5⟩ := shape4_6_7_2_3_2 117#8 f.g f.d f.a f.order f.scope f.cache w (Option.some.inj hw)
  rw [show decodeWord w = .ldB64 ⟨fld w 20 4, fld w 14 6, fld w 7 7, fld w 5 2, fld w 2 3, fld w 0 2⟩ from by unfold decodeWord; rw [(op_of ho).1, (op_of ho).2]; rfl]
  rw [h0, h1, h2, h3, h4, h5]

theorem Sys2Proof.Laws.Words.ldB128 (f : FmtM) : Statement (.ldB128 f) := by
  intro w _ hw
  obtain ⟨ho, h0, h1, h2, h3, h4, h5⟩ := shape4_6_7_2_3_2 118#8 f.g f.d f.a f.order f.scope f.cache w (Option.some.inj hw)
  rw [show decodeWord w = .ldB128 ⟨fld w 20 4, fld w 14 6, fld w 7 7, fld w 5 2, fld w 2 3, fld w 0 2⟩ from by unfold decodeWord; rw [(op_of ho).1, (op_of ho).2]; rfl]
  rw [h0, h1, h2, h3, h4, h5]

theorem Sys2Proof.Laws.Words.stB8 (f : FmtM) : Statement (.stB8 f) := by
  intro w _ hw
  obtain ⟨ho, h0, h1, h2, h3, h4, h5⟩ := shape4_6_7_2_3_2 119#8 f.g f.d f.a f.order f.scope f.cache w (Option.some.inj hw)
  rw [show decodeWord w = .stB8 ⟨fld w 20 4, fld w 14 6, fld w 7 7, fld w 5 2, fld w 2 3, fld w 0 2⟩ from by unfold decodeWord; rw [(op_of ho).1, (op_of ho).2]; rfl]
  rw [h0, h1, h2, h3, h4, h5]

theorem Sys2Proof.Laws.Words.stB16 (f : FmtM) : Statement (.stB16 f) := by
  intro w _ hw
  obtain ⟨ho, h0, h1, h2, h3, h4, h5⟩ := shape4_6_7_2_3_2 120#8 f.g f.d f.a f.order f.scope f.cache w (Option.some.inj hw)
  rw [show decodeWord w = .stB16 ⟨fld w 20 4, fld w 14 6, fld w 7 7, fld w 5 2, fld w 2 3, fld w 0 2⟩ from by unfold decodeWord; rw [(op_of ho).1, (op_of ho).2]; rfl]
  rw [h0, h1, h2, h3, h4, h5]

theorem Sys2Proof.Laws.Words.stB32 (f : FmtM) : Statement (.stB32 f) := by
  intro w _ hw
  obtain ⟨ho, h0, h1, h2, h3, h4, h5⟩ := shape4_6_7_2_3_2 121#8 f.g f.d f.a f.order f.scope f.cache w (Option.some.inj hw)
  rw [show decodeWord w = .stB32 ⟨fld w 20 4, fld w 14 6, fld w 7 7, fld w 5 2, fld w 2 3, fld w 0 2⟩ from by unfold decodeWord; rw [(op_of ho).1, (op_of ho).2]; rfl]
  rw [h0, h1, h2, h3, h4, h5]

theorem Sys2Proof.Laws.Words.stB64 (f : FmtM) : Statement (.stB64 f) := by
  intro w _ hw
  obtain ⟨ho, h0, h1, h2, h3, h4, h5⟩ := shape4_6_7_2_3_2 122#8 f.g f.d f.a f.order f.scope f.cache w (Option.some.inj hw)
  rw [show decodeWord w = .stB64 ⟨fld w 20 4, fld w 14 6, fld w 7 7, fld w 5 2, fld w 2 3, fld w 0 2⟩ from by unfold decodeWord; rw [(op_of ho).1, (op_of ho).2]; rfl]
  rw [h0, h1, h2, h3, h4, h5]

theorem Sys2Proof.Laws.Words.stB128 (f : FmtM) : Statement (.stB128 f) := by
  intro w _ hw
  obtain ⟨ho, h0, h1, h2, h3, h4, h5⟩ := shape4_6_7_2_3_2 123#8 f.g f.d f.a f.order f.scope f.cache w (Option.some.inj hw)
  rw [show decodeWord w = .stB128 ⟨fld w 20 4, fld w 14 6, fld w 7 7, fld w 5 2, fld w 2 3, fld w 0 2⟩ from by unfold decodeWord; rw [(op_of ho).1, (op_of ho).2]; rfl]
  rw [h0, h1, h2, h3, h4, h5]

theorem Sys2Proof.Laws.Words.ldqB32 (f : FmtLdq) : Statement (.ldqB32 f) := by
  intro w _ hw
  obtain ⟨ho, h0, h1, h2, h3, h4, h5⟩ := shape4_2_4_7_5_2 124#8 f.g (0#2) f.q f.a (0#5) f.cache w (Option.some.inj hw)
  rw [show decodeWord w = if fld w 18 2 = 0#2 ∧ fld w 2 5 = 0#5 then .ldqB32 ⟨fld w 20 4, fld w 14 4, fld w 7 7, fld w 0 2⟩ else .reservedOpcode w from by unfold decodeWord; rw [(op_of ho).1, (op_of ho).2]; rfl]
  rw [if_pos ⟨h1, h4⟩]
  rw [h0, h2, h3, h5]

theorem Sys2Proof.Laws.Words.ldqB64 (f : FmtLdq) : Statement (.ldqB64 f) := by
  intro w _ hw
  obtain ⟨ho, h0, h1, h2, h3, h4, h5⟩ := shape4_2_4_7_5_2 125#8 f.g (0#2) f.q f.a (0#5) f.cache w (Option.some.inj hw)
  rw [show decodeWord w = if fld w 18 2 = 0#2 ∧ fld w 2 5 = 0#5 then .ldqB64 ⟨fld w 20 4, fld w 14 4, fld w 7 7, fld w 0 2⟩ else .reservedOpcode w from by unfold decodeWord; rw [(op_of ho).1, (op_of ho).2]; rfl]
  rw [if_pos ⟨h1, h4⟩]
  rw [h0, h2, h3, h5]

theorem Sys2Proof.Laws.Words.ldqB16 (f : FmtLdq) : Statement (.ldqB16 f) := by
  intro w _ hw
  obtain ⟨ho, h0, h1, h2, h3, h4, h5⟩ := shape4_2_4_7_5_2 126#8 f.g (0#2) f.q f.a (0#5) f.cache w (Option.some.inj hw)
  rw [show decodeWord w = if fld w 18 2 = 0#2 ∧ fld w 2 5 = 0#5 then .ldqB16 ⟨fld w 20 4, fld w 14 4, fld w 7 7, fld w 0 2⟩ else .reservedOpcode w from by unfold decodeWord; rw [(op_of ho).1, (op_of ho).2]; rfl]
  rw [if_pos ⟨h1, h4⟩]
  rw [h0, h2, h3, h5]

theorem Sys2Proof.Laws.Words.stqB32 (f : FmtStq) : Statement (.stqB32 f) := by
  intro w _ hw
  obtain ⟨ho, h0, h1, h2, h3, h4, h5, h6⟩ := shape4_2_4_7_2_3_2 127#8 f.g (0#2) f.q f.a f.order f.scope f.cache w (Option.some.inj hw)
  rw [show decodeWord w = if fld w 18 2 = 0#2 then .stqB32 ⟨fld w 20 4, fld w 14 4, fld w 7 7, fld w 5 2, fld w 2 3, fld w 0 2⟩ else .reservedOpcode w from by unfold decodeWord; rw [(op_of ho).1, (op_of ho).2]; rfl]
  rw [if_pos h1]
  rw [h0, h2, h3, h4, h5, h6]

theorem Sys2Proof.Laws.Words.stqB64 (f : FmtStq) : Statement (.stqB64 f) := by
  intro w _ hw
  obtain ⟨ho, h0, h1, h2, h3, h4, h5, h6⟩ := shape4_2_4_7_2_3_2 128#8 f.g (0#2) f.q f.a f.order f.scope f.cache w (Option.some.inj hw)
  rw [show decodeWord w = if fld w 18 2 = 0#2 then .stqB64 ⟨fld w 20 4, fld w 14 4, fld w 7 7, fld w 5 2, fld w 2 3, fld w 0 2⟩ else .reservedOpcode w from by unfold decodeWord; rw [(op_of ho).1, (op_of ho).2]; rfl]
  rw [if_pos h1]
  rw [h0, h2, h3, h4, h5, h6]

theorem Sys2Proof.Laws.Words.stqB16 (f : FmtStq) : Statement (.stqB16 f) := by
  intro w _ hw
  obtain ⟨ho, h0, h1, h2, h3, h4, h5, h6⟩ := shape4_2_4_7_2_3_2 129#8 f.g (0#2) f.q f.a f.order f.scope f.cache w (Option.some.inj hw)
  rw [show decodeWord w = if fld w 18 2 = 0#2 then .stqB16 ⟨fld w 20 4, fld w 14 4, fld w 7 7, fld w 5 2, fld w 2 3, fld w 0 2⟩ else .reservedOpcode w from by unfold decodeWord; rw [(op_of ho).1, (op_of ho).2]; rfl]
  rw [if_pos h1]
  rw [h0, h2, h3, h4, h5, h6]

theorem Sys2Proof.Laws.Words.ldfe (g : BitVec 4) (d : BitVec 6) (a : BitVec 7) (x : BitVec 2) : Statement (.ldfe g d a x) := by
  intro w _ hw
  obtain ⟨ho, h0, h1, h2, h3, h4⟩ := shape4_6_7_5_2 130#8 g d a (0#5) x w (Option.some.inj hw)
  rw [show decodeWord w = if fld w 2 5 = 0#5 then .ldfe (fld w 20 4) (fld w 14 6) (fld w 7 7) (fld w 0 2) else .reservedOpcode w from by unfold decodeWord; rw [(op_of ho).1, (op_of ho).2]; rfl]
  rw [if_pos h3]
  rw [h0, h1, h2, h4]

theorem Sys2Proof.Laws.Words.stfe (g : BitVec 4) (d : BitVec 6) (a : BitVec 7) (x : BitVec 2) : Statement (.stfe g d a x) := by
  intro w _ hw
  obtain ⟨ho, h0, h1, h2, h3, h4⟩ := shape4_6_7_5_2 131#8 g d a (0#5) x w (Option.some.inj hw)
  rw [show decodeWord w = if fld w 2 5 = 0#5 then .stfe (fld w 20 4) (fld w 14 6) (fld w 7 7) (fld w 0 2) else .reservedOpcode w from by unfold decodeWord; rw [(op_of ho).1, (op_of ho).2]; rfl]
  rw [if_pos h3]
  rw [h0, h1, h2, h4]

theorem Sys2Proof.Laws.Words.pref (g : BitVec 4) (a : BitVec 7) (c : BitVec 2) : Statement (.pref g a c) := by
  intro w _ hw
  obtain ⟨ho, h0, h1, h2, h3, h4⟩ := shape4_6_7_5_2 132#8 g (0#6) a (0#5) c w (Option.some.inj hw)
  rw [show decodeWord w = if fld w 14 6 = 0#6 ∧ fld w 2 5 = 0#5 then .pref (fld w 20 4) (fld w 7 7) (fld w 0 2) else .reservedOpcode w from by unfold decodeWord; rw [(op_of ho).1, (op_of ho).2]; rfl]
  rw [if_pos ⟨h1, h3⟩]
  rw [h0, h2, h4]

theorem Sys2Proof.Laws.Words.discard (g : BitVec 4) (d : BitVec 6) (a : BitVec 7) (s : BitVec 3) : Statement (.discard g d a s) := by
  intro w _ hw
  obtain ⟨ho, h0, h1, h2, h3, h4, h5⟩ := shape4_6_7_2_3_2 133#8 g d a (0#2) s (0#2) w (Option.some.inj hw)
  rw [show decodeWord w = if fld w 5 2 = 0#2 ∧ fld w 0 2 = 0#2 then .discard (fld w 20 4) (fld w 14 6) (fld w 7 7) (fld w 2 3) else .reservedOpcode w from by unfold decodeWord; rw [(op_of ho).1, (op_of ho).2]; rfl]
  rw [if_pos ⟨h3, h5⟩]
  rw [h0, h1, h2, h4]

theorem Sys2Proof.Laws.Words.wback (g : BitVec 4) (d : BitVec 6) (a : BitVec 7) (s : BitVec 3) (c : BitVec 2) : Statement (.wback g d a s c) := by
  intro w _ hw
  obtain ⟨ho, h0, h1, h2, h3, h4, h5⟩ := shape4_6_7_2_3_2 134#8 g d a (0#2) s c w (Option.some.inj hw)
  rw [show decodeWord w = if fld w 5 2 = 0#2 then .wback (fld w 20 4) (fld w 14 6) (fld w 7 7) (fld w 2 3) (fld w 0 2) else .reservedOpcode w from by unfold decodeWord; rw [(op_of ho).1, (op_of ho).2]; rfl]
  rw [if_pos h3]
  rw [h0, h1, h2, h4, h5]

theorem Sys2Proof.Laws.Words.fence (g : BitVec 4) (o : BitVec 2) (s : BitVec 3) : Statement (.fence g o s) := by
  intro w _ hw
  obtain ⟨ho, h0, h1, h2, h3, h4⟩ := shape4_13_2_3_2 135#8 g (0#13) o s (0#2) w (Option.some.inj hw)
  rw [show decodeWord w = if fld w 7 13 = 0#13 ∧ fld w 0 2 = 0#2 then .fence (fld w 20 4) (fld w 5 2) (fld w 2 3) else .reservedOpcode w from by unfold decodeWord; rw [(op_of ho).1, (op_of ho).2]; rfl]
  rw [if_pos ⟨h1, h4⟩]
  rw [h0, h2, h3]

theorem Sys2Proof.Laws.Words.stream (g : BitVec 4) (i : BitVec 4) : Statement (.stream g i) := by
  intro w _ hw
  obtain ⟨ho, h0, h1, h2, h3⟩ := shape4_2_4_14 136#8 g (0#2) i (0#14) w (Option.some.inj hw)
  rw [show decodeWord w = if fld w 18 2 = 0#2 ∧ fld w 0 14 = 0#14 then .stream (fld w 20 4) (fld w 14 4) else .reservedOpcode w from by unfold decodeWord; rw [(op_of ho).1, (op_of ho).2]; rfl]
  rw [if_pos ⟨h1, h3⟩]
  rw [h0, h2]

theorem Sys2Proof.Laws.Words.aaddI32 (f : FmtAt) : Statement (.aaddI32 f) := by
  intro w _ hw
  obtain ⟨ho, h0, h1, h2, h3, h4, h5⟩ := shape4_6_7_2_3_2 144#8 f.g f.d f.a f.order f.scope (0#2) w (Option.some.inj hw)
  rw [show decodeWord w = if fld w 0 2 = 0#2 then .aaddI32 ⟨fld w 20 4, fld w 14 6, fld w 7 7, fld w 5 2, fld w 2 3⟩ else .reservedOpcode w from by unfold decodeWord; rw [(op_of ho).1, (op_of ho).2]; rfl]
  rw [if_pos h5]
  rw [h0, h1, h2, h3, h4]

theorem Sys2Proof.Laws.Words.aaddI64 (f : FmtAt) : Statement (.aaddI64 f) := by
  intro w _ hw
  obtain ⟨ho, h0, h1, h2, h3, h4, h5⟩ := shape4_6_7_2_3_2 145#8 f.g f.d f.a f.order f.scope (0#2) w (Option.some.inj hw)
  rw [show decodeWord w = if fld w 0 2 = 0#2 then .aaddI64 ⟨fld w 20 4, fld w 14 6, fld w 7 7, fld w 5 2, fld w 2 3⟩ else .reservedOpcode w from by unfold decodeWord; rw [(op_of ho).1, (op_of ho).2]; rfl]
  rw [if_pos h5]
  rw [h0, h1, h2, h3, h4]

theorem Sys2Proof.Laws.Words.aaddF32 (f : FmtAt) : Statement (.aaddF32 f) := by
  intro w _ hw
  obtain ⟨ho, h0, h1, h2, h3, h4, h5⟩ := shape4_6_7_2_3_2 146#8 f.g f.d f.a f.order f.scope (0#2) w (Option.some.inj hw)
  rw [show decodeWord w = if fld w 0 2 = 0#2 then .aaddF32 ⟨fld w 20 4, fld w 14 6, fld w 7 7, fld w 5 2, fld w 2 3⟩ else .reservedOpcode w from by unfold decodeWord; rw [(op_of ho).1, (op_of ho).2]; rfl]
  rw [if_pos h5]
  rw [h0, h1, h2, h3, h4]

theorem Sys2Proof.Laws.Words.aaddB2 (f : FmtAt) : Statement (.aaddB2 f) := by
  intro w _ hw
  obtain ⟨ho, h0, h1, h2, h3, h4, h5⟩ := shape4_6_7_2_3_2 147#8 f.g f.d f.a f.order f.scope (0#2) w (Option.some.inj hw)
  rw [show decodeWord w = if fld w 0 2 = 0#2 then .aaddB2 ⟨fld w 20 4, fld w 14 6, fld w 7 7, fld w 5 2, fld w 2 3⟩ else .reservedOpcode w from by unfold decodeWord; rw [(op_of ho).1, (op_of ho).2]; rfl]
  rw [if_pos h5]
  rw [h0, h1, h2, h3, h4]

theorem Sys2Proof.Laws.Words.aminI32 (f : FmtAt) : Statement (.aminI32 f) := by
  intro w _ hw
  obtain ⟨ho, h0, h1, h2, h3, h4, h5⟩ := shape4_6_7_2_3_2 148#8 f.g f.d f.a f.order f.scope (0#2) w (Option.some.inj hw)
  rw [show decodeWord w = if fld w 0 2 = 0#2 then .aminI32 ⟨fld w 20 4, fld w 14 6, fld w 7 7, fld w 5 2, fld w 2 3⟩ else .reservedOpcode w from by unfold decodeWord; rw [(op_of ho).1, (op_of ho).2]; rfl]
  rw [if_pos h5]
  rw [h0, h1, h2, h3, h4]

theorem Sys2Proof.Laws.Words.aminN32 (f : FmtAt) : Statement (.aminN32 f) := by
  intro w _ hw
  obtain ⟨ho, h0, h1, h2, h3, h4, h5⟩ := shape4_6_7_2_3_2 149#8 f.g f.d f.a f.order f.scope (0#2) w (Option.some.inj hw)
  rw [show decodeWord w = if fld w 0 2 = 0#2 then .aminN32 ⟨fld w 20 4, fld w 14 6, fld w 7 7, fld w 5 2, fld w 2 3⟩ else .reservedOpcode w from by unfold decodeWord; rw [(op_of ho).1, (op_of ho).2]; rfl]
  rw [if_pos h5]
  rw [h0, h1, h2, h3, h4]

theorem Sys2Proof.Laws.Words.amaxI32 (f : FmtAt) : Statement (.amaxI32 f) := by
  intro w _ hw
  obtain ⟨ho, h0, h1, h2, h3, h4, h5⟩ := shape4_6_7_2_3_2 150#8 f.g f.d f.a f.order f.scope (0#2) w (Option.some.inj hw)
  rw [show decodeWord w = if fld w 0 2 = 0#2 then .amaxI32 ⟨fld w 20 4, fld w 14 6, fld w 7 7, fld w 5 2, fld w 2 3⟩ else .reservedOpcode w from by unfold decodeWord; rw [(op_of ho).1, (op_of ho).2]; rfl]
  rw [if_pos h5]
  rw [h0, h1, h2, h3, h4]

theorem Sys2Proof.Laws.Words.amaxN32 (f : FmtAt) : Statement (.amaxN32 f) := by
  intro w _ hw
  obtain ⟨ho, h0, h1, h2, h3, h4, h5⟩ := shape4_6_7_2_3_2 151#8 f.g f.d f.a f.order f.scope (0#2) w (Option.some.inj hw)
  rw [show decodeWord w = if fld w 0 2 = 0#2 then .amaxN32 ⟨fld w 20 4, fld w 14 6, fld w 7 7, fld w 5 2, fld w 2 3⟩ else .reservedOpcode w from by unfold decodeWord; rw [(op_of ho).1, (op_of ho).2]; rfl]
  rw [if_pos h5]
  rw [h0, h1, h2, h3, h4]

theorem Sys2Proof.Laws.Words.aand (f : FmtAt) : Statement (.aand f) := by
  intro w _ hw
  obtain ⟨ho, h0, h1, h2, h3, h4, h5⟩ := shape4_6_7_2_3_2 152#8 f.g f.d f.a f.order f.scope (0#2) w (Option.some.inj hw)
  rw [show decodeWord w = if fld w 0 2 = 0#2 then .aand ⟨fld w 20 4, fld w 14 6, fld w 7 7, fld w 5 2, fld w 2 3⟩ else .reservedOpcode w from by unfold decodeWord; rw [(op_of ho).1, (op_of ho).2]; rfl]
  rw [if_pos h5]
  rw [h0, h1, h2, h3, h4]

theorem Sys2Proof.Laws.Words.aor (f : FmtAt) : Statement (.aor f) := by
  intro w _ hw
  obtain ⟨ho, h0, h1, h2, h3, h4, h5⟩ := shape4_6_7_2_3_2 153#8 f.g f.d f.a f.order f.scope (0#2) w (Option.some.inj hw)
  rw [show decodeWord w = if fld w 0 2 = 0#2 then .aor ⟨fld w 20 4, fld w 14 6, fld w 7 7, fld w 5 2, fld w 2 3⟩ else .reservedOpcode w from by unfold decodeWord; rw [(op_of ho).1, (op_of ho).2]; rfl]
  rw [if_pos h5]
  rw [h0, h1, h2, h3, h4]

theorem Sys2Proof.Laws.Words.axor (f : FmtAt) : Statement (.axor f) := by
  intro w _ hw
  obtain ⟨ho, h0, h1, h2, h3, h4, h5⟩ := shape4_6_7_2_3_2 154#8 f.g f.d f.a f.order f.scope (0#2) w (Option.some.inj hw)
  rw [show decodeWord w = if fld w 0 2 = 0#2 then .axor ⟨fld w 20 4, fld w 14 6, fld w 7 7, fld w 5 2, fld w 2 3⟩ else .reservedOpcode w from by unfold decodeWord; rw [(op_of ho).1, (op_of ho).2]; rfl]
  rw [if_pos h5]
  rw [h0, h1, h2, h3, h4]

theorem Sys2Proof.Laws.Words.axchB32 (f : FmtAt) : Statement (.axchB32 f) := by
  intro w _ hw
  obtain ⟨ho, h0, h1, h2, h3, h4, h5⟩ := shape4_6_7_2_3_2 155#8 f.g f.d f.a f.order f.scope (0#2) w (Option.some.inj hw)
  rw [show decodeWord w = if fld w 0 2 = 0#2 then .axchB32 ⟨fld w 20 4, fld w 14 6, fld w 7 7, fld w 5 2, fld w 2 3⟩ else .reservedOpcode w from by unfold decodeWord; rw [(op_of ho).1, (op_of ho).2]; rfl]
  rw [if_pos h5]
  rw [h0, h1, h2, h3, h4]

theorem Sys2Proof.Laws.Words.axchB64 (f : FmtAt) : Statement (.axchB64 f) := by
  intro w _ hw
  obtain ⟨ho, h0, h1, h2, h3, h4, h5⟩ := shape4_6_7_2_3_2 156#8 f.g f.d f.a f.order f.scope (0#2) w (Option.some.inj hw)
  rw [show decodeWord w = if fld w 0 2 = 0#2 then .axchB64 ⟨fld w 20 4, fld w 14 6, fld w 7 7, fld w 5 2, fld w 2 3⟩ else .reservedOpcode w from by unfold decodeWord; rw [(op_of ho).1, (op_of ho).2]; rfl]
  rw [if_pos h5]
  rw [h0, h1, h2, h3, h4]

theorem Sys2Proof.Laws.Words.acasB32 (f : FmtAt) : Statement (.acasB32 f) := by
  intro w _ hw
  obtain ⟨ho, h0, h1, h2, h3, h4, h5⟩ := shape4_6_7_2_3_2 157#8 f.g f.d f.a f.order f.scope (0#2) w (Option.some.inj hw)
  rw [show decodeWord w = if fld w 0 2 = 0#2 then .acasB32 ⟨fld w 20 4, fld w 14 6, fld w 7 7, fld w 5 2, fld w 2 3⟩ else .reservedOpcode w from by unfold decodeWord; rw [(op_of ho).1, (op_of ho).2]; rfl]
  rw [if_pos h5]
  rw [h0, h1, h2, h3, h4]

theorem Sys2Proof.Laws.Words.acasB64 (f : FmtAt) : Statement (.acasB64 f) := by
  intro w _ hw
  obtain ⟨ho, h0, h1, h2, h3, h4, h5⟩ := shape4_6_7_2_3_2 158#8 f.g f.d f.a f.order f.scope (0#2) w (Option.some.inj hw)
  rw [show decodeWord w = if fld w 0 2 = 0#2 then .acasB64 ⟨fld w 20 4, fld w 14 6, fld w 7 7, fld w 5 2, fld w 2 3⟩ else .reservedOpcode w from by unfold decodeWord; rw [(op_of ho).1, (op_of ho).2]; rfl]
  rw [if_pos h5]
  rw [h0, h1, h2, h3, h4]

theorem Sys2Proof.Laws.Words.aincb (f : FmtAt) : Statement (.aincb f) := by
  intro w _ hw
  obtain ⟨ho, h0, h1, h2, h3, h4, h5⟩ := shape4_6_7_2_3_2 159#8 f.g f.d f.a f.order f.scope (0#2) w (Option.some.inj hw)
  rw [show decodeWord w = if fld w 0 2 = 0#2 then .aincb ⟨fld w 20 4, fld w 14 6, fld w 7 7, fld w 5 2, fld w 2 3⟩ else .reservedOpcode w from by unfold decodeWord; rw [(op_of ho).1, (op_of ho).2]; rfl]
  rw [if_pos h5]
  rw [h0, h1, h2, h3, h4]

theorem Sys2Proof.Laws.Words.bra (f : FmtC) : Statement (.bra f) := by
  intro w _ hw
  obtain ⟨ho, h0, h1⟩ := shape4_20 160#8 f.g f.off w (Option.some.inj hw)
  rw [show decodeWord w = .bra ⟨fld w 20 4, fld w 0 20⟩ from by unfold decodeWord; rw [(op_of ho).1, (op_of ho).2]; rfl]
  rw [h0, h1]

theorem Sys2Proof.Laws.Words.bru (f : FmtC) : Statement (.bru f) := by
  intro w _ hw
  obtain ⟨ho, h0, h1⟩ := shape4_20 161#8 f.g f.off w (Option.some.inj hw)
  rw [show decodeWord w = .bru ⟨fld w 20 4, fld w 0 20⟩ from by unfold decodeWord; rw [(op_of ho).1, (op_of ho).2]; rfl]
  rw [h0, h1]

theorem Sys2Proof.Laws.Words.call (f : FmtC) : Statement (.call f) := by
  intro w _ hw
  obtain ⟨ho, h0, h1⟩ := shape4_20 162#8 f.g f.off w (Option.some.inj hw)
  rw [show decodeWord w = .call ⟨fld w 20 4, fld w 0 20⟩ from by unfold decodeWord; rw [(op_of ho).1, (op_of ho).2]; rfl]
  rw [h0, h1]

theorem Sys2Proof.Laws.Words.ret (g : BitVec 4) : Statement (.ret g) := by
  intro w _ hw
  obtain ⟨ho, h0, h1⟩ := shape4_20 163#8 g (0#20) w (Option.some.inj hw)
  rw [show decodeWord w = if fld w 0 20 = 0#20 then .ret (fld w 20 4) else .reservedOpcode w from by unfold decodeWord; rw [(op_of ho).1, (op_of ho).2]; rfl]
  rw [if_pos h1]
  rw [h0]

theorem Sys2Proof.Laws.Words.jmpi (g : BitVec 4) (a : BitVec 7) : Statement (.jmpi g a) := by
  intro w _ hw
  obtain ⟨ho, h0, h1, h2, h3⟩ := shape4_6_7_7 164#8 g (0#6) a (0#7) w (Option.some.inj hw)
  rw [show decodeWord w = if fld w 14 6 = 0#6 ∧ fld w 0 7 = 0#7 then .jmpi (fld w 20 4) (fld w 7 7) else .reservedOpcode w from by unfold decodeWord; rw [(op_of ho).1, (op_of ho).2]; rfl]
  rw [if_pos ⟨h1, h3⟩]
  rw [h0, h2]

theorem Sys2Proof.Laws.Words.mergeat (f : FmtC) : Statement (.mergeat f) := by
  intro w _ hw
  obtain ⟨ho, h0, h1⟩ := shape4_20 165#8 f.g f.off w (Option.some.inj hw)
  rw [show decodeWord w = .mergeat ⟨fld w 20 4, fld w 0 20⟩ from by unfold decodeWord; rw [(op_of ho).1, (op_of ho).2]; rfl]
  rw [h0, h1]

theorem Sys2Proof.Laws.Words.merge (g : BitVec 4) : Statement (.merge g) := by
  intro w _ hw
  obtain ⟨ho, h0, h1⟩ := shape4_20 166#8 g (0#20) w (Option.some.inj hw)
  rw [show decodeWord w = if fld w 0 20 = 0#20 then .merge (fld w 20 4) else .reservedOpcode w from by unfold decodeWord; rw [(op_of ho).1, (op_of ho).2]; rfl]
  rw [if_pos h1]
  rw [h0]

theorem Sys2Proof.Laws.Words.yield (g : BitVec 4) : Statement (.yield g) := by
  intro w _ hw
  obtain ⟨ho, h0, h1⟩ := shape4_20 167#8 g (0#20) w (Option.some.inj hw)
  rw [show decodeWord w = if fld w 0 20 = 0#20 then .yield (fld w 20 4) else .reservedOpcode w from by unfold decodeWord; rw [(op_of ho).1, (op_of ho).2]; rfl]
  rw [if_pos h1]
  rw [h0]

theorem Sys2Proof.Laws.Words.exit (g : BitVec 4) : Statement (.exit g) := by
  intro w _ hw
  obtain ⟨ho, h0, h1⟩ := shape4_20 168#8 g (0#20) w (Option.some.inj hw)
  rw [show decodeWord w = if fld w 0 20 = 0#20 then .exit (fld w 20 4) else .reservedOpcode w from by unfold decodeWord; rw [(op_of ho).1, (op_of ho).2]; rfl]
  rw [if_pos h1]
  rw [h0]

theorem Sys2Proof.Laws.Words.bar (g : BitVec 4) (s : BitVec 2) (i : BitVec 4) : Statement (.bar g s i) := by
  intro w _ hw
  obtain ⟨ho, h0, h1, h2, h3⟩ := shape4_14_2_4 169#8 g (0#14) s i w (Option.some.inj hw)
  rw [show decodeWord w = if fld w 6 14 = 0#14 then .bar (fld w 20 4) (fld w 4 2) (fld w 0 4) else .reservedOpcode w from by unfold decodeWord; rw [(op_of ho).1, (op_of ho).2]; rfl]
  rw [if_pos h1]
  rw [h0, h2, h3]

theorem Sys2Proof.Laws.Words.bara (g : BitVec 4) (s : BitVec 2) (i : BitVec 4) : Statement (.bara g s i) := by
  intro w _ hw
  obtain ⟨ho, h0, h1, h2, h3⟩ := shape4_14_2_4 170#8 g (0#14) s i w (Option.some.inj hw)
  rw [show decodeWord w = if fld w 6 14 = 0#14 then .bara (fld w 20 4) (fld w 4 2) (fld w 0 4) else .reservedOpcode w from by unfold decodeWord; rw [(op_of ho).1, (op_of ho).2]; rfl]
  rw [if_pos h1]
  rw [h0, h2, h3]

theorem Sys2Proof.Laws.Words.cbar (g : BitVec 4) : Statement (.cbar g) := by
  intro w _ hw
  obtain ⟨ho, h0, h1⟩ := shape4_20 171#8 g (0#20) w (Option.some.inj hw)
  rw [show decodeWord w = if fld w 0 20 = 0#20 then .cbar (fld w 20 4) else .reservedOpcode w from by unfold decodeWord; rw [(op_of ho).1, (op_of ho).2]; rfl]
  rw [if_pos h1]
  rw [h0]

theorem Sys2Proof.Laws.Words.sleep (g : BitVec 4) (a : BitVec 7) : Statement (.sleep g a) := by
  intro w _ hw
  obtain ⟨ho, h0, h1, h2, h3⟩ := shape4_6_7_7 172#8 g (0#6) a (112#7) w (Option.some.inj hw)
  rw [show decodeWord w = if fld w 14 6 = 0#6 ∧ fld w 0 7 = 112#7 then .sleep (fld w 20 4) (fld w 7 7) else .reservedOpcode w from by unfold decodeWord; rw [(op_of ho).1, (op_of ho).2]; rfl]
  rw [if_pos ⟨h1, h3⟩]
  rw [h0, h2]

theorem Sys2Proof.Laws.Words.nop (g : BitVec 4) : Statement (.nop g) := by
  intro w _ hw
  obtain ⟨ho, h0, h1⟩ := shape4_20 173#8 g (0#20) w (Option.some.inj hw)
  rw [show decodeWord w = if fld w 0 20 = 0#20 then .nop (fld w 20 4) else .reservedOpcode w from by unfold decodeWord; rw [(op_of ho).1, (op_of ho).2]; rfl]
  rw [if_pos h1]
  rw [h0]

theorem Sys2Proof.Laws.Words.splitq (g : BitVec 4) (d : BitVec 6) : Statement (.splitq g d) := by
  intro w _ hw
  obtain ⟨ho, h0, h1, h2⟩ := shape4_6_14 174#8 g d (14448#14) w (Option.some.inj hw)
  rw [show decodeWord w = if fld w 0 14 = 14448#14 then .splitq (fld w 20 4) (fld w 14 6) else .reservedOpcode w from by unfold decodeWord; rw [(op_of ho).1, (op_of ho).2]; rfl]
  rw [if_pos h2]
  rw [h0, h1]

theorem Sys2Proof.Laws.Words.gang (f : FmtAB) : Statement (.gang f) := by
  intro w _ hw
  obtain ⟨ho, h0, h1, h2, h3⟩ := shape4_6_7_7 176#8 f.g (0#6) f.a f.b w (Option.some.inj hw)
  rw [show decodeWord w = if fld w 14 6 = 0#6 then .gang ⟨fld w 20 4, fld w 7 7, fld w 0 7⟩ else .reservedOpcode w from by unfold decodeWord; rw [(op_of ho).1, (op_of ho).2]; rfl]
  rw [if_pos h1]
  rw [h0, h2, h3]

theorem Sys2Proof.Laws.Words.mma (f : FmtT) : Statement (.mma f) := by
  intro w _ hw
  obtain ⟨ho, h0, h1, h2, h3, h4, h5⟩ := shape4_1_1_4_7_7 177#8 f.g (0#1) f.full f.c f.a f.b w (Option.some.inj hw)
  rw [show decodeWord w = if fld w 19 1 = 0#1 then .mma ⟨fld w 20 4, fld w 18 1, fld w 14 4, fld w 7 7, fld w 0 7⟩ else .reservedOpcode w from by unfold decodeWord; rw [(op_of ho).1, (op_of ho).2]; rfl]
  rw [if_pos h1]
  rw [h0, h2, h3, h4, h5]

theorem Sys2Proof.Laws.Words.mmax (f : FmtT) : Statement (.mmax f) := by
  intro w _ hw
  obtain ⟨ho, h0, h1, h2, h3, h4, h5⟩ := shape4_1_1_4_7_7 178#8 f.g (0#1) f.full f.c f.a f.b w (Option.some.inj hw)
  rw [show decodeWord w = if fld w 19 1 = 0#1 then .mmax ⟨fld w 20 4, fld w 18 1, fld w 14 4, fld w 7 7, fld w 0 7⟩ else .reservedOpcode w from by unfold decodeWord; rw [(op_of ho).1, (op_of ho).2]; rfl]
  rw [if_pos h1]
  rw [h0, h2, h3, h4, h5]

theorem Sys2Proof.Laws.Words.mxt (f : FmtT) : Statement (.mxt f) := by
  intro w _ hw
  obtain ⟨ho, h0, h1, h2, h3, h4, h5⟩ := shape4_1_1_4_7_7 179#8 f.g (0#1) f.full f.c f.a f.b w (Option.some.inj hw)
  rw [show decodeWord w = if fld w 19 1 = 0#1 then .mxt ⟨fld w 20 4, fld w 18 1, fld w 14 4, fld w 7 7, fld w 0 7⟩ else .reservedOpcode w from by unfold decodeWord; rw [(op_of ho).1, (op_of ho).2]; rfl]
  rw [if_pos h1]
  rw [h0, h2, h3, h4, h5]

theorem Sys2Proof.Laws.Words.mxp (f : FmtT) : Statement (.mxp f) := by
  intro w _ hw
  obtain ⟨ho, h0, h1, h2, h3, h4, h5⟩ := shape4_1_1_4_7_7 180#8 f.g (0#1) f.full f.c f.a f.b w (Option.some.inj hw)
  rw [show decodeWord w = if fld w 19 1 = 0#1 then .mxp ⟨fld w 20 4, fld w 18 1, fld w 14 4, fld w 7 7, fld w 0 7⟩ else .reservedOpcode w from by unfold decodeWord; rw [(op_of ho).1, (op_of ho).2]; rfl]
  rw [if_pos h1]
  rw [h0, h2, h3, h4, h5]

theorem Sys2Proof.Laws.Words.mxs (f : FmtT) : Statement (.mxs f) := by
  intro w _ hw
  obtain ⟨ho, h0, h1, h2, h3, h4, h5⟩ := shape4_1_1_4_7_7 181#8 f.g (0#1) f.full f.c f.a f.b w (Option.some.inj hw)
  rw [show decodeWord w = if fld w 19 1 = 0#1 then .mxs ⟨fld w 20 4, fld w 18 1, fld w 14 4, fld w 7 7, fld w 0 7⟩ else .reservedOpcode w from by unfold decodeWord; rw [(op_of ho).1, (op_of ho).2]; rfl]
  rw [if_pos h1]
  rw [h0, h2, h3, h4, h5]

theorem Sys2Proof.Laws.Words.czero (g : BitVec 4) (f : BitVec 1) (c : BitVec 4) : Statement (.czero g f c) := by
  intro w _ hw
  obtain ⟨ho, h0, h1, h2, h3, h4⟩ := shape4_1_1_4_14 182#8 g (0#1) f c (0#14) w (Option.some.inj hw)
  rw [show decodeWord w = if fld w 19 1 = 0#1 ∧ fld w 0 14 = 0#14 then .czero (fld w 20 4) (fld w 18 1) (fld w 14 4) else .reservedOpcode w from by unfold decodeWord; rw [(op_of ho).1, (op_of ho).2]; rfl]
  rw [if_pos ⟨h1, h4⟩]
  rw [h0, h2, h3]

theorem Sys2Proof.Laws.Words.cread (f : FmtA) : Statement (.cread f) := by
  intro w _ hw
  obtain ⟨ho, h0, h1, h2, h3⟩ := shape4_6_7_7 183#8 f.g f.d f.a f.b w (Option.some.inj hw)
  rw [show decodeWord w = .cread ⟨fld w 20 4, fld w 14 6, fld w 7 7, fld w 0 7⟩ from by unfold decodeWord; rw [(op_of ho).1, (op_of ho).2]; rfl]
  rw [h0, h1, h2, h3]

theorem Sys2Proof.Laws.Words.cwrite (f : FmtA) : Statement (.cwrite f) := by
  intro w _ hw
  obtain ⟨ho, h0, h1, h2, h3⟩ := shape4_6_7_7 184#8 f.g f.d f.a f.b w (Option.some.inj hw)
  rw [show decodeWord w = .cwrite ⟨fld w 20 4, fld w 14 6, fld w 7 7, fld w 0 7⟩ from by unfold decodeWord; rw [(op_of ho).1, (op_of ho).2]; rfl]
  rw [h0, h1, h2, h3]

theorem Sys2Proof.Laws.Words.cdrain (f : FmtT) : Statement (.cdrain f) := by
  intro w _ hw
  obtain ⟨ho, h0, h1, h2, h3, h4, h5⟩ := shape4_1_1_4_7_7 185#8 f.g (0#1) f.full f.c f.a f.b w (Option.some.inj hw)
  rw [show decodeWord w = if fld w 19 1 = 0#1 then .cdrain ⟨fld w 20 4, fld w 18 1, fld w 14 4, fld w 7 7, fld w 0 7⟩ else .reservedOpcode w from by unfold decodeWord; rw [(op_of ho).1, (op_of ho).2]; rfl]
  rw [if_pos h1]
  rw [h0, h2, h3, h4, h5]

theorem Sys2Proof.Laws.Words.mwait (g : BitVec 4) (l : BitVec 1) (f : BitVec 1) (c : BitVec 4) : Statement (.mwait g l f c) := by
  intro w _ hw
  obtain ⟨ho, h0, h1, h2, h3, h4⟩ := shape4_1_1_4_14 186#8 g l f c (0#14) w (Option.some.inj hw)
  rw [show decodeWord w = if fld w 0 14 = 0#14 then .mwait (fld w 20 4) (fld w 19 1) (fld w 18 1) (fld w 14 4) else .reservedOpcode w from by unfold decodeWord; rw [(op_of ho).1, (op_of ho).2]; rfl]
  rw [if_pos h4]
  rw [h0, h1, h2, h3]

theorem Sys2Proof.Laws.Words.ofence (g : BitVec 4) : Statement (.ofence g) := by
  intro w _ hw
  obtain ⟨ho, h0, h1⟩ := shape4_20 187#8 g (0#20) w (Option.some.inj hw)
  rw [show decodeWord w = if fld w 0 20 = 0#20 then .ofence (fld w 20 4) else .reservedOpcode w from by unfold decodeWord; rw [(op_of ho).1, (op_of ho).2]; rfl]
  rw [if_pos h1]
  rw [h0]

theorem Sys2Proof.Laws.Words.tkpass (g : BitVec 4) : Statement (.tkpass g) := by
  intro w _ hw
  obtain ⟨ho, h0, h1⟩ := shape4_20 188#8 g (0#20) w (Option.some.inj hw)
  rw [show decodeWord w = if fld w 0 20 = 0#20 then .tkpass (fld w 20 4) else .reservedOpcode w from by unfold decodeWord; rw [(op_of ho).1, (op_of ho).2]; rfl]
  rw [if_pos h1]
  rw [h0]

theorem Sys2Proof.Laws.Words.tkwait (g : BitVec 4) : Statement (.tkwait g) := by
  intro w _ hw
  obtain ⟨ho, h0, h1⟩ := shape4_20 189#8 g (0#20) w (Option.some.inj hw)
  rw [show decodeWord w = if fld w 0 20 = 0#20 then .tkwait (fld w 20 4) else .reservedOpcode w from by unfold decodeWord; rw [(op_of ho).1, (op_of ho).2]; rfl]
  rw [if_pos h1]
  rw [h0]

theorem Sys2Proof.Laws.Words.planes (f : FmtA) : Statement (.planes f) := by
  intro w _ hw
  obtain ⟨ho, h0, h1, h2, h3⟩ := shape4_6_7_7 190#8 f.g f.d f.a f.b w (Option.some.inj hw)
  rw [show decodeWord w = .planes ⟨fld w 20 4, fld w 14 6, fld w 7 7, fld w 0 7⟩ from by unfold decodeWord; rw [(op_of ho).1, (op_of ho).2]; rfl]
  rw [h0, h1, h2, h3]

theorem Sys2Proof.Laws.Words.slay (g : BitVec 4) (l : BitVec 2) (a : BitVec 7) : Statement (.slay g l a) := by
  intro w _ hw
  obtain ⟨ho, h0, h1, h2, h3, h4⟩ := shape4_4_2_7_7 192#8 g (0#4) l a (0#7) w (Option.some.inj hw)
  rw [show decodeWord w = if fld w 16 4 = 0#4 ∧ fld w 0 7 = 0#7 then .slay (fld w 20 4) (fld w 14 2) (fld w 7 7) else .reservedOpcode w from by unfold decodeWord; rw [(op_of ho).1, (op_of ho).2]; rfl]
  rw [if_pos ⟨h1, h4⟩]
  rw [h0, h2, h3]

theorem Sys2Proof.Laws.Words.sfill (g : BitVec 4) (e : BitVec 2) (l : BitVec 2) (a : BitVec 7) : Statement (.sfill g e l a) := by
  intro w _ hw
  obtain ⟨ho, h0, h1, h2, h3, h4, h5⟩ := shape4_2_2_2_7_7 193#8 g (0#2) e l a (0#7) w (Option.some.inj hw)
  rw [show decodeWord w = if fld w 18 2 = 0#2 ∧ fld w 0 7 = 0#7 then .sfill (fld w 20 4) (fld w 16 2) (fld w 14 2) (fld w 7 7) else .reservedOpcode w from by unfold decodeWord; rw [(op_of ho).1, (op_of ho).2]; rfl]
  rw [if_pos ⟨h1, h5⟩]
  rw [h0, h2, h3, h4]

theorem Sys2Proof.Laws.Words.sdrain (g : BitVec 4) (e : BitVec 2) (l : BitVec 2) (a : BitVec 7) : Statement (.sdrain g e l a) := by
  intro w _ hw
  obtain ⟨ho, h0, h1, h2, h3, h4, h5⟩ := shape4_2_2_2_7_7 194#8 g (0#2) e l a (0#7) w (Option.some.inj hw)
  rw [show decodeWord w = if fld w 18 2 = 0#2 ∧ fld w 0 7 = 0#7 then .sdrain (fld w 20 4) (fld w 16 2) (fld w 14 2) (fld w 7 7) else .reservedOpcode w from by unfold decodeWord; rw [(op_of ho).1, (op_of ho).2]; rfl]
  rw [if_pos ⟨h1, h5⟩]
  rw [h0, h2, h3, h4]

theorem Sys2Proof.Laws.Words.swait (g : BitVec 4) (m : BitVec 4) : Statement (.swait g m) := by
  intro w _ hw
  obtain ⟨ho, h0, h1, h2, h3⟩ := shape4_2_4_14 195#8 g (0#2) m (0#14) w (Option.some.inj hw)
  rw [show decodeWord w = if fld w 18 2 = 0#2 ∧ fld w 0 14 = 0#14 then .swait (fld w 20 4) (fld w 14 4) else .reservedOpcode w from by unfold decodeWord; rw [(op_of ho).1, (op_of ho).2]; rfl]
  rw [if_pos ⟨h1, h3⟩]
  rw [h0, h2]

theorem Sys2Proof.Laws.Words.regroup (f : FmtA) : Statement (.regroup f) := by
  intro w _ hw
  obtain ⟨ho, h0, h1, h2, h3⟩ := shape4_6_7_7 196#8 f.g f.d f.a f.b w (Option.some.inj hw)
  rw [show decodeWord w = .regroup ⟨fld w 20 4, fld w 14 6, fld w 7 7, fld w 0 7⟩ from by unfold decodeWord; rw [(op_of ho).1, (op_of ho).2]; rfl]
  rw [h0, h1, h2, h3]

theorem Sys2Proof.Laws.Words.ungroup (f : FmtA) : Statement (.ungroup f) := by
  intro w _ hw
  obtain ⟨ho, h0, h1, h2, h3⟩ := shape4_6_7_7 197#8 f.g f.d f.a f.b w (Option.some.inj hw)
  rw [show decodeWord w = .ungroup ⟨fld w 20 4, fld w 14 6, fld w 7 7, fld w 0 7⟩ from by unfold decodeWord; rw [(op_of ho).1, (op_of ho).2]; rfl]
  rw [h0, h1, h2, h3]

theorem Sys2Proof.Laws.Words.spawn (g : BitVec 4) (a : BitVec 7) : Statement (.spawn g a) := by
  intro w _ hw
  obtain ⟨ho, h0, h1, h2, h3⟩ := shape4_6_7_7 198#8 g (0#6) a (112#7) w (Option.some.inj hw)
  rw [show decodeWord w = if fld w 14 6 = 0#6 ∧ fld w 0 7 = 112#7 then .spawn (fld w 20 4) (fld w 7 7) else .reservedOpcode w from by unfold decodeWord; rw [(op_of ho).1, (op_of ho).2]; rfl]
  rw [if_pos ⟨h1, h3⟩]
  rw [h0, h2]

theorem Sys2Proof.Laws.Words.tsig (f : FmtAB) : Statement (.tsig f) := by
  intro w _ hw
  obtain ⟨ho, h0, h1, h2, h3⟩ := shape4_6_7_7 199#8 f.g (0#6) f.a f.b w (Option.some.inj hw)
  rw [show decodeWord w = if fld w 14 6 = 0#6 then .tsig ⟨fld w 20 4, fld w 7 7, fld w 0 7⟩ else .reservedOpcode w from by unfold decodeWord; rw [(op_of ho).1, (op_of ho).2]; rfl]
  rw [if_pos h1]
  rw [h0, h2, h3]

theorem Sys2Proof.Laws.Words.twaitFull (f : FmtU) : Statement (.twaitFull f) := by
  intro w _ hw
  obtain ⟨ho, h0, h1, h2, h3⟩ := shape4_6_7_7 200#8 f.g f.d f.a (112#7) w (Option.some.inj hw)
  rw [show decodeWord w = if fld w 0 7 = 112#7 then .twaitFull ⟨fld w 20 4, fld w 14 6, fld w 7 7⟩ else if fld w 0 7 = 113#7 then .twaitEmpty ⟨fld w 20 4, fld w 14 6, fld w 7 7⟩ else .reservedOpcode w from by unfold decodeWord; rw [(op_of ho).1, (op_of ho).2]; rfl]
  rw [if_pos h3]
  rw [h0, h1, h2]

theorem Sys2Proof.Laws.Words.twaitEmpty (f : FmtU) : Statement (.twaitEmpty f) := by
  intro w _ hw
  obtain ⟨ho, h0, h1, h2, h3⟩ := shape4_6_7_7 200#8 f.g f.d f.a (113#7) w (Option.some.inj hw)
  rw [show decodeWord w = if fld w 0 7 = 112#7 then .twaitFull ⟨fld w 20 4, fld w 14 6, fld w 7 7⟩ else if fld w 0 7 = 113#7 then .twaitEmpty ⟨fld w 20 4, fld w 14 6, fld w 7 7⟩ else .reservedOpcode w from by unfold decodeWord; rw [(op_of ho).1, (op_of ho).2]; rfl]
  rw [if_neg (by rw [h3]; decide), if_pos h3, h0, h1, h2]

theorem Sys2Proof.Laws.Words.preempt (g : BitVec 4) (i : BitVec 20) : Statement (.preempt g i) := by
  intro w _ hw
  obtain ⟨ho, h0, h1⟩ := shape4_20 201#8 g i w (Option.some.inj hw)
  rw [show decodeWord w = .preempt (fld w 20 4) (fld w 0 20) from by unfold decodeWord; rw [(op_of ho).1, (op_of ho).2]; rfl]
  rw [h0, h1]

theorem Sys2Proof.Laws.Words.rldB32 (f : FmtF) : Statement (.rldB32 f) := by
  intro w _ hw
  obtain ⟨ho, h0, h1, h2, h3⟩ := shape4_6_7_7 208#8 f.g f.d f.a f.peer w (Option.some.inj hw)
  rw [show decodeWord w = .rldB32 ⟨fld w 20 4, fld w 14 6, fld w 7 7, fld w 0 7⟩ from by unfold decodeWord; rw [(op_of ho).1, (op_of ho).2]; rfl]
  rw [h0, h1, h2, h3]

theorem Sys2Proof.Laws.Words.rldB64 (f : FmtF) : Statement (.rldB64 f) := by
  intro w _ hw
  obtain ⟨ho, h0, h1, h2, h3⟩ := shape4_6_7_7 209#8 f.g f.d f.a f.peer w (Option.some.inj hw)
  rw [show decodeWord w = .rldB64 ⟨fld w 20 4, fld w 14 6, fld w 7 7, fld w 0 7⟩ from by unfold decodeWord; rw [(op_of ho).1, (op_of ho).2]; rfl]
  rw [h0, h1, h2, h3]

theorem Sys2Proof.Laws.Words.rstB32 (f : FmtF) : Statement (.rstB32 f) := by
  intro w _ hw
  obtain ⟨ho, h0, h1, h2, h3⟩ := shape4_6_7_7 210#8 f.g f.d f.a f.peer w (Option.some.inj hw)
  rw [show decodeWord w = .rstB32 ⟨fld w 20 4, fld w 14 6, fld w 7 7, fld w 0 7⟩ from by unfold decodeWord; rw [(op_of ho).1, (op_of ho).2]; rfl]
  rw [h0, h1, h2, h3]

theorem Sys2Proof.Laws.Words.rstB64 (f : FmtF) : Statement (.rstB64 f) := by
  intro w _ hw
  obtain ⟨ho, h0, h1, h2, h3⟩ := shape4_6_7_7 211#8 f.g f.d f.a f.peer w (Option.some.inj hw)
  rw [show decodeWord w = .rstB64 ⟨fld w 20 4, fld w 14 6, fld w 7 7, fld w 0 7⟩ from by unfold decodeWord; rw [(op_of ho).1, (op_of ho).2]; rfl]
  rw [h0, h1, h2, h3]

theorem Sys2Proof.Laws.Words.raaddI64 (f : FmtF) : Statement (.raaddI64 f) := by
  intro w _ hw
  obtain ⟨ho, h0, h1, h2, h3⟩ := shape4_6_7_7 212#8 f.g f.d f.a f.peer w (Option.some.inj hw)
  rw [show decodeWord w = .raaddI64 ⟨fld w 20 4, fld w 14 6, fld w 7 7, fld w 0 7⟩ from by unfold decodeWord; rw [(op_of ho).1, (op_of ho).2]; rfl]
  rw [h0, h1, h2, h3]

theorem Sys2Proof.Laws.Words.racasB64 (f : FmtF) : Statement (.racasB64 f) := by
  intro w _ hw
  obtain ⟨ho, h0, h1, h2, h3⟩ := shape4_6_7_7 213#8 f.g f.d f.a f.peer w (Option.some.inj hw)
  rw [show decodeWord w = .racasB64 ⟨fld w 20 4, fld w 14 6, fld w 7 7, fld w 0 7⟩ from by unfold decodeWord; rw [(op_of ho).1, (op_of ho).2]; rfl]
  rw [h0, h1, h2, h3]

theorem Sys2Proof.Laws.Words.rldqB32 (g : BitVec 4) (q : BitVec 4) (a : BitVec 7) (p : BitVec 7) : Statement (.rldqB32 g q a p) := by
  intro w _ hw
  obtain ⟨ho, h0, h1, h2, h3, h4⟩ := shape4_2_4_7_7 214#8 g (0#2) q a p w (Option.some.inj hw)
  rw [show decodeWord w = if fld w 18 2 = 0#2 then .rldqB32 (fld w 20 4) (fld w 14 4) (fld w 7 7) (fld w 0 7) else .reservedOpcode w from by unfold decodeWord; rw [(op_of ho).1, (op_of ho).2]; rfl]
  rw [if_pos h1]
  rw [h0, h2, h3, h4]

theorem Sys2Proof.Laws.Words.rldqB64 (g : BitVec 4) (q : BitVec 4) (a : BitVec 7) (p : BitVec 7) : Statement (.rldqB64 g q a p) := by
  intro w _ hw
  obtain ⟨ho, h0, h1, h2, h3, h4⟩ := shape4_2_4_7_7 215#8 g (0#2) q a p w (Option.some.inj hw)
  rw [show decodeWord w = if fld w 18 2 = 0#2 then .rldqB64 (fld w 20 4) (fld w 14 4) (fld w 7 7) (fld w 0 7) else .reservedOpcode w from by unfold decodeWord; rw [(op_of ho).1, (op_of ho).2]; rfl]
  rw [if_pos h1]
  rw [h0, h2, h3, h4]

theorem Sys2Proof.Laws.Words.xldq (g : BitVec 4) (q : BitVec 4) (a : BitVec 7) (h : BitVec 4) : Statement (.xldq g q a h) := by
  intro w _ hw
  obtain ⟨ho, h0, h1, h2, h3, h4, h5, h6⟩ := shape4_2_4_7_2_4_1 216#8 g (0#2) q a (2#2) h (0#1) w (Option.some.inj hw)
  rw [show decodeWord w = if fld w 18 2 = 0#2 ∧ fld w 5 2 = 2#2 ∧ fld w 0 1 = 0#1 then .xldq (fld w 20 4) (fld w 14 4) (fld w 7 7) (fld w 1 4) else .reservedOpcode w from by unfold decodeWord; rw [(op_of ho).1, (op_of ho).2]; rfl]
  rw [if_pos ⟨h1, h4, h6⟩]
  rw [h0, h2, h3, h5]

theorem Sys2Proof.Laws.Words.mcst (f : FmtF) : Statement (.mcst f) := by
  intro w _ hw
  obtain ⟨ho, h0, h1, h2, h3⟩ := shape4_6_7_7 217#8 f.g f.d f.a f.peer w (Option.some.inj hw)
  rw [show decodeWord w = .mcst ⟨fld w 20 4, fld w 14 6, fld w 7 7, fld w 0 7⟩ from by unfold decodeWord; rw [(op_of ho).1, (op_of ho).2]; rfl]
  rw [h0, h1, h2, h3]

theorem Sys2Proof.Laws.Words.coll (f : FmtAB) : Statement (.coll f) := by
  intro w _ hw
  obtain ⟨ho, h0, h1, h2, h3⟩ := shape4_6_7_7 218#8 f.g (0#6) f.a f.b w (Option.some.inj hw)
  rw [show decodeWord w = if fld w 14 6 = 0#6 then .coll ⟨fld w 20 4, fld w 7 7, fld w 0 7⟩ else .reservedOpcode w from by unfold decodeWord; rw [(op_of ho).1, (op_of ho).2]; rfl]
  rw [if_pos h1]
  rw [h0, h2, h3]

theorem Sys2Proof.Laws.Words.cwait (f : FmtU) : Statement (.cwait f) := by
  intro w _ hw
  obtain ⟨ho, h0, h1, h2, h3⟩ := shape4_6_7_7 219#8 f.g f.d f.a (112#7) w (Option.some.inj hw)
  rw [show decodeWord w = if fld w 0 7 = 112#7 then .cwait ⟨fld w 20 4, fld w 14 6, fld w 7 7⟩ else .reservedOpcode w from by unfold decodeWord; rw [(op_of ho).1, (op_of ho).2]; rfl]
  rw [if_pos h3]
  rw [h0, h1, h2]

theorem Sys2Proof.Laws.Words.viewq (f : FmtA) : Statement (.viewq f) := by
  intro w _ hw
  obtain ⟨ho, h0, h1, h2, h3⟩ := shape4_6_7_7 220#8 f.g f.d f.a f.b w (Option.some.inj hw)
  rw [show decodeWord w = .viewq ⟨fld w 20 4, fld w 14 6, fld w 7 7, fld w 0 7⟩ from by unfold decodeWord; rw [(op_of ho).1, (op_of ho).2]; rfl]
  rw [h0, h1, h2, h3]

theorem Sys2Proof.Laws.Words.rfence (g : BitVec 4) : Statement (.rfence g) := by
  intro w _ hw
  obtain ⟨ho, h0, h1⟩ := shape4_20 221#8 g (0#20) w (Option.some.inj hw)
  rw [show decodeWord w = if fld w 0 20 = 0#20 then .rfence (fld w 20 4) else .reservedOpcode w from by unfold decodeWord; rw [(op_of ho).1, (op_of ho).2]; rfl]
  rw [if_pos h1]
  rw [h0]

theorem Sys2Proof.Laws.Words.viewctlJoin (f : FmtU) : Statement (.viewctlJoin f) := by
  intro w _ hw
  obtain ⟨ho, h0, h1, h2, h3⟩ := shape4_6_7_7 222#8 f.g f.d f.a (112#7) w (Option.some.inj hw)
  rw [show decodeWord w = if fld w 0 7 = 112#7 then .viewctlJoin ⟨fld w 20 4, fld w 14 6, fld w 7 7⟩ else if fld w 0 7 = 113#7 then .viewctlLeave ⟨fld w 20 4, fld w 14 6, fld w 7 7⟩ else if fld w 5 2 = 2#2 ∧ fld w 0 1 = 0#1 then .viewctlInit (fld w 20 4) (fld w 14 6) (fld w 7 7) (fld w 1 4) else .reservedOpcode w from by unfold decodeWord; rw [(op_of ho).1, (op_of ho).2]; rfl]
  rw [if_pos h3]
  rw [h0, h1, h2]

theorem Sys2Proof.Laws.Words.viewctlLeave (f : FmtU) : Statement (.viewctlLeave f) := by
  intro w _ hw
  obtain ⟨ho, h0, h1, h2, h3⟩ := shape4_6_7_7 222#8 f.g f.d f.a (113#7) w (Option.some.inj hw)
  rw [show decodeWord w = if fld w 0 7 = 112#7 then .viewctlJoin ⟨fld w 20 4, fld w 14 6, fld w 7 7⟩ else if fld w 0 7 = 113#7 then .viewctlLeave ⟨fld w 20 4, fld w 14 6, fld w 7 7⟩ else if fld w 5 2 = 2#2 ∧ fld w 0 1 = 0#1 then .viewctlInit (fld w 20 4) (fld w 14 6) (fld w 7 7) (fld w 1 4) else .reservedOpcode w from by unfold decodeWord; rw [(op_of ho).1, (op_of ho).2]; rfl]
  rw [if_neg (by rw [h3]; decide), if_pos h3, h0, h1, h2]

theorem Sys2Proof.Laws.Words.viewctlInit (g : BitVec 4) (d : BitVec 6) (a : BitVec 7) (b : BitVec 4) : Statement (.viewctlInit g d a b) := by
  intro w _ hw
  obtain ⟨ho, h0, h1, h2, h3, h4, h5⟩ := shape4_6_7_2_4_1 222#8 g d a (2#2) b (0#1) w (Option.some.inj hw)
  rw [show decodeWord w = if fld w 0 7 = 112#7 then .viewctlJoin ⟨fld w 20 4, fld w 14 6, fld w 7 7⟩ else if fld w 0 7 = 113#7 then .viewctlLeave ⟨fld w 20 4, fld w 14 6, fld w 7 7⟩ else if fld w 5 2 = 2#2 ∧ fld w 0 1 = 0#1 then .viewctlInit (fld w 20 4) (fld w 14 6) (fld w 7 7) (fld w 1 4) else .reservedOpcode w from by unfold decodeWord; rw [(op_of ho).1, (op_of ho).2]; rfl]
  have n : ∀ k : BitVec 7, fld (k.setWidth 32) 5 2 ≠ 2#2 → fld w 0 7 ≠ k := by
    intro k hk hc
    subst hc
    exact hk ((sub_fld w 0 7 5 2 (by decide)).trans h3)
  rw [if_neg (n _ (by decide)), if_neg (n _ (by decide)), if_pos ⟨h3, h5⟩, h0, h1, h2, h4]

theorem Sys2Proof.Laws.Words.trap (g : BitVec 4) (a : BitVec 7) : Statement (.trap g a) := by
  intro w _ hw
  obtain ⟨ho, h0, h1, h2, h3⟩ := shape4_6_7_7 224#8 g (0#6) a (0#7) w (Option.some.inj hw)
  rw [show decodeWord w = if fld w 14 6 = 0#6 ∧ fld w 0 7 = 0#7 then .trap (fld w 20 4) (fld w 7 7) else .reservedOpcode w from by unfold decodeWord; rw [(op_of ho).1, (op_of ho).2]; rfl]
  rw [if_pos ⟨h1, h3⟩]
  rw [h0, h2]

theorem Sys2Proof.Laws.Words.bkpt (g : BitVec 4) : Statement (.bkpt g) := by
  intro w _ hw
  obtain ⟨ho, h0, h1⟩ := shape4_20 225#8 g (0#20) w (Option.some.inj hw)
  rw [show decodeWord w = if fld w 0 20 = 0#20 then .bkpt (fld w 20 4) else .reservedOpcode w from by unfold decodeWord; rw [(op_of ho).1, (op_of ho).2]; rfl]
  rw [if_pos h1]
  rw [h0]

theorem Sys2Proof.Laws.Words.rdsr (g : BitVec 4) (d : BitVec 6) (m : BitVec 7) : Statement (.rdsr g d m) := by
  intro w _ hw
  obtain ⟨ho, h0, h1, h2, h3⟩ := shape4_6_7_7 226#8 g d (0#7) m w (Option.some.inj hw)
  rw [show decodeWord w = if fld w 7 7 = 0#7 then .rdsr (fld w 20 4) (fld w 14 6) (fld w 0 7) else .reservedOpcode w from by unfold decodeWord; rw [(op_of ho).1, (op_of ho).2]; rfl]
  rw [if_pos h2]
  rw [h0, h1, h3]

theorem Sys2Proof.Laws.Words.wrsr (g : BitVec 4) (a : BitVec 7) (m : BitVec 7) : Statement (.wrsr g a m) := by
  intro w _ hw
  obtain ⟨ho, h0, h1, h2, h3⟩ := shape4_6_7_7 227#8 g (0#6) a m w (Option.some.inj hw)
  rw [show decodeWord w = if fld w 14 6 = 0#6 then .wrsr (fld w 20 4) (fld w 7 7) (fld w 0 7) else .reservedOpcode w from by unfold decodeWord; rw [(op_of ho).1, (op_of ho).2]; rfl]
  rw [if_pos h1]
  rw [h0, h2, h3]

theorem Sys2Proof.Laws.Words.rett (g : BitVec 4) : Statement (.rett g) := by
  intro w _ hw
  obtain ⟨ho, h0, h1⟩ := shape4_20 228#8 g (0#20) w (Option.some.inj hw)
  rw [show decodeWord w = if fld w 0 20 = 0#20 then .rett (fld w 20 4) else .reservedOpcode w from by unfold decodeWord; rw [(op_of ho).1, (op_of ho).2]; rfl]
  rw [if_pos h1]
  rw [h0]

theorem Sys2Proof.Laws.Words.clock (g : BitVec 4) (d : BitVec 6) : Statement (.clock g d) := by
  intro w _ hw
  obtain ⟨ho, h0, h1, h2⟩ := shape4_6_14 229#8 g d (0#14) w (Option.some.inj hw)
  rw [show decodeWord w = if fld w 0 14 = 0#14 then .clock (fld w 20 4) (fld w 14 6) else .reservedOpcode w from by unfold decodeWord; rw [(op_of ho).1, (op_of ho).2]; rfl]
  rw [if_pos h2]
  rw [h0, h1]

theorem Sys2Proof.Laws.Words.egrel (f : FmtA) : Statement (.egrel f) := by
  intro w _ hw
  obtain ⟨ho, h0, h1, h2, h3⟩ := shape4_6_7_7 230#8 f.g f.d f.a f.b w (Option.some.inj hw)
  rw [show decodeWord w = .egrel ⟨fld w 20 4, fld w 14 6, fld w 7 7, fld w 0 7⟩ from by unfold decodeWord; rw [(op_of ho).1, (op_of ho).2]; rfl]
  rw [h0, h1, h2, h3]

theorem Sys2Proof.Laws.Words.tlbinvJob (g : BitVec 4) : Statement (.tlbinvJob g) := by
  intro w _ hw
  obtain ⟨ho, h0, h1⟩ := shape4_20 231#8 g (0#20) w (Option.some.inj hw)
  rw [show decodeWord w = if fld w 0 20 = 0#20 then .tlbinvJob (fld w 20 4) else if fld w 12 8 = 2#8 ∧ fld w 0 8 = 1#8 then .tlbinvPage (fld w 20 4) (fld w 8 4) else if fld w 0 20 = 2#20 then .tlbinvAll (fld w 20 4) else .reservedOpcode w from by unfold decodeWord; rw [(op_of ho).1, (op_of ho).2]; rfl]
  rw [if_pos h1]
  rw [h0]

theorem Sys2Proof.Laws.Words.tlbinvPage (g : BitVec 4) (a : BitVec 4) : Statement (.tlbinvPage g a) := by
  intro w _ hw
  obtain ⟨ho, h0, h1, h2, h3⟩ := shape4_8_4_8 231#8 g (2#8) a (1#8) w (Option.some.inj hw)
  rw [show decodeWord w = if fld w 0 20 = 0#20 then .tlbinvJob (fld w 20 4) else if fld w 12 8 = 2#8 ∧ fld w 0 8 = 1#8 then .tlbinvPage (fld w 20 4) (fld w 8 4) else if fld w 0 20 = 2#20 then .tlbinvAll (fld w 20 4) else .reservedOpcode w from by unfold decodeWord; rw [(op_of ho).1, (op_of ho).2]; rfl]
  have n : fld w 0 20 ≠ 0#20 := by
    intro hc
    have := (sub_fld w 0 20 0 8 (by decide)).trans h3
    rw [hc] at this
    exact absurd this (by decide)
  rw [if_neg n, if_pos ⟨h1, h3⟩, h0, h2]

theorem Sys2Proof.Laws.Words.tlbinvAll (g : BitVec 4) : Statement (.tlbinvAll g) := by
  intro w _ hw
  obtain ⟨ho, h0, h1⟩ := shape4_20 231#8 g (2#20) w (Option.some.inj hw)
  rw [show decodeWord w = if fld w 0 20 = 0#20 then .tlbinvJob (fld w 20 4) else if fld w 12 8 = 2#8 ∧ fld w 0 8 = 1#8 then .tlbinvPage (fld w 20 4) (fld w 8 4) else if fld w 0 20 = 2#20 then .tlbinvAll (fld w 20 4) else .reservedOpcode w from by unfold decodeWord; rw [(op_of ho).1, (op_of ho).2]; rfl]
  have n : ¬(fld w 12 8 = 2#8 ∧ fld w 0 8 = 1#8) := by
    intro hc
    have := (sub_fld w 0 20 0 8 (by decide)).trans hc.2
    rw [h1] at this
    exact absurd this (by decide)
  rw [if_neg (by rw [h1]; decide), if_neg n, if_pos h1, h0]

theorem Sys2Proof.Laws.Words.icinvCore (g : BitVec 4) : Statement (.icinvCore g) := by
  intro w _ hw
  obtain ⟨ho, h0, h1⟩ := shape4_20 232#8 g (0#20) w (Option.some.inj hw)
  rw [show decodeWord w = if fld w 0 20 = 0#20 then .icinvCore (fld w 20 4) else if fld w 0 20 = 1#20 then .icinvDevice (fld w 20 4) else .reservedOpcode w from by unfold decodeWord; rw [(op_of ho).1, (op_of ho).2]; rfl]
  rw [if_pos h1]
  rw [h0]

theorem Sys2Proof.Laws.Words.icinvDevice (g : BitVec 4) : Statement (.icinvDevice g) := by
  intro w _ hw
  obtain ⟨ho, h0, h1⟩ := shape4_20 232#8 g (1#20) w (Option.some.inj hw)
  rw [show decodeWord w = if fld w 0 20 = 0#20 then .icinvCore (fld w 20 4) else if fld w 0 20 = 1#20 then .icinvDevice (fld w 20 4) else .reservedOpcode w from by unfold decodeWord; rw [(op_of ho).1, (op_of ho).2]; rfl]
  rw [if_neg (by rw [h1]; decide), if_pos h1, h0]

theorem Sys2Proof.Laws.Words.haltt (g : BitVec 4) : Statement (.haltt g) := by
  intro w _ hw
  obtain ⟨ho, h0, h1⟩ := shape4_20 233#8 g (0#20) w (Option.some.inj hw)
  rw [show decodeWord w = if fld w 0 20 = 0#20 then .haltt (fld w 20 4) else .reservedOpcode w from by unfold decodeWord; rw [(op_of ho).1, (op_of ho).2]; rfl]
  rw [if_pos h1]
  rw [h0]

theorem Sys2Proof.Laws.Words.clause (ws : BitVec 12) (a : BitVec 4) (b : BitVec 4) (p : BitVec 3) (v : BitVec 1) : Statement (.clause ws a b p v) := by
  intro w _ hw
  obtain ⟨ho, h0, h1, h2, h3, h4⟩ := shape12_4_4_3_1 240#8 ws a b p v w (Option.some.inj hw)
  rw [show decodeWord w = .clause (fld w 12 12) (fld w 8 4) (fld w 4 4) (fld w 1 3) (fld w 0 1) from by unfold decodeWord; rw [(op_of ho).1, (op_of ho).2]; rfl]
  rw [h0, h1, h2, h3, h4]

theorem Sys2Proof.Laws.Words.immL (p : BitVec 24) : Statement (.immL p) := by
  intro w _ hw
  obtain ⟨ho, h0⟩ := shape24 244#8 p w (Option.some.inj hw)
  rw [show decodeWord w = .immL (fld w 0 24) from by unfold decodeWord; rw [(op_of ho).1, (op_of ho).2]; rfl]
  rw [h0]

theorem Sys2Proof.Laws.Words.immH (p : BitVec 24) : Statement (.immH p) := by
  intro w _ hw
  obtain ⟨ho, h0⟩ := shape24 245#8 p w (Option.some.inj hw)
  rw [show decodeWord w = .immH (fld w 0 24) from by unfold decodeWord; rw [(op_of ho).1, (op_of ho).2]; rfl]
  rw [h0]

theorem Sys2Proof.Laws.Words.splitRotation (x0 : Nat) (x1 : Nat) (x2 : Nat) : Statement (.splitRotation x0 x1 x2) :=
  fun _ _ h => nomatch (show none = some _ from h)

theorem Sys2Proof.Laws.Words.sleepWake (x0 : Nat) (x1 : Nat) (x2 : Nat) : Statement (.sleepWake x0 x1 x2) :=
  fun _ _ h => nomatch (show none = some _ from h)

theorem Sys2Proof.Laws.Words.loadComplete (x0 : Nat) : Statement (.loadComplete x0) :=
  fun _ _ h => nomatch (show none = some _ from h)

theorem Sys2Proof.Laws.Words.storePerformed (x0 : Nat) : Statement (.storePerformed x0) :=
  fun _ _ h => nomatch (show none = some _ from h)

theorem Sys2Proof.Laws.Words.ldqLanding (x0 : Nat) (x1 : Nat) (x2 : Nat) (x3 : Nat) : Statement (.ldqLanding x0 x1 x2 x3) :=
  fun _ _ h => nomatch (show none = some _ from h)

theorem Sys2Proof.Laws.Words.qdeadTimeout (x0 : Nat) : Statement (.qdeadTimeout x0) :=
  fun _ _ h => nomatch (show none = some _ from h)

theorem Sys2Proof.Laws.Words.pageRequestEnter (x0 : Nat) : Statement (.pageRequestEnter x0) :=
  fun _ _ h => nomatch (show none = some _ from h)

theorem Sys2Proof.Laws.Words.pageAnswer (x0 : PageAnswer) : Statement (.pageAnswer x0) :=
  fun _ _ h => nomatch (show none = some _ from h)

theorem Sys2Proof.Laws.Words.boundaryMove (x0 : Nat) : Statement (.boundaryMove x0) :=
  fun _ _ h => nomatch (show none = some _ from h)

theorem Sys2Proof.Laws.Words.eccUncorrectable (x0 : EccSite) : Statement (.eccUncorrectable x0) :=
  fun _ _ h => nomatch (show none = some _ from h)

theorem Sys2Proof.Laws.Words.streamStoreRelease (x0 : Nat) : Statement (.streamStoreRelease x0) :=
  fun _ _ h => nomatch (show none = some _ from h)

theorem Sys2Proof.Laws.Words.matrixGrant (x0 : Nat) : Statement (.matrixGrant x0) :=
  fun _ _ h => nomatch (show none = some _ from h)

theorem Sys2Proof.Laws.Words.passComplete (x0 : Nat) (x1 : Nat) : Statement (.passComplete x0 x1) :=
  fun _ _ h => nomatch (show none = some _ from h)

theorem Sys2Proof.Laws.Words.runnelCommandStart (x0 : Nat) (x1 : Nat) : Statement (.runnelCommandStart x0 x1) :=
  fun _ _ h => nomatch (show none = some _ from h)

theorem Sys2Proof.Laws.Words.fillGranuleLand (x0 : Nat) (x1 : Nat) (x2 : Nat) : Statement (.fillGranuleLand x0 x1 x2) :=
  fun _ _ h => nomatch (show none = some _ from h)

theorem Sys2Proof.Laws.Words.sdrainWritesDone (x0 : Nat) (x1 : Nat) : Statement (.sdrainWritesDone x0 x1) :=
  fun _ _ h => nomatch (show none = some _ from h)

theorem Sys2Proof.Laws.Words.cdrainGranuleWrite (x0 : Nat) (x1 : Nat) : Statement (.cdrainGranuleWrite x0 x1) :=
  fun _ _ h => nomatch (show none = some _ from h)

theorem Sys2Proof.Laws.Words.cbarSwap (x0 : Nat) : Statement (.cbarSwap x0) :=
  fun _ _ h => nomatch (show none = some _ from h)

theorem Sys2Proof.Laws.Words.exchangeStoreLand (x0 : Nat) : Statement (.exchangeStoreLand x0) :=
  fun _ _ h => nomatch (show none = some _ from h)

theorem Sys2Proof.Laws.Words.columnGroupRepair (x0 : Nat) (x1 : Nat) : Statement (.columnGroupRepair x0 x1) :=
  fun _ _ h => nomatch (show none = some _ from h)

theorem Sys2Proof.Laws.Words.taskPublish (x0 : Nat) : Statement (.taskPublish x0) :=
  fun _ _ h => nomatch (show none = some _ from h)

theorem Sys2Proof.Laws.Words.sluiceWriteReport (x0 : Nat) : Statement (.sluiceWriteReport x0) :=
  fun _ _ h => nomatch (show none = some _ from h)

theorem Sys2Proof.Laws.Words.taskDispatch (x0 : Nat) : Statement (.taskDispatch x0) :=
  fun _ _ h => nomatch (show none = some _ from h)

theorem Sys2Proof.Laws.Words.placementWindow (x0 : Nat) : Statement (.placementWindow x0) :=
  fun _ _ h => nomatch (show none = some _ from h)

theorem Sys2Proof.Laws.Words.taskComplete (x0 : Nat) : Statement (.taskComplete x0) :=
  fun _ _ h => nomatch (show none = some _ from h)

theorem Sys2Proof.Laws.Words.forcedSaveBound (x0 : Nat) : Statement (.forcedSaveBound x0) :=
  fun _ _ h => nomatch (show none = some _ from h)

theorem Sys2Proof.Laws.Words.saveStart (x0 : Nat) : Statement (.saveStart x0) :=
  fun _ _ h => nomatch (show none = some _ from h)

theorem Sys2Proof.Laws.Words.frameComplete (x0 : Nat) : Statement (.frameComplete x0) :=
  fun _ _ h => nomatch (show none = some _ from h)

theorem Sys2Proof.Laws.Words.teamRestore (x0 : Nat) : Statement (.teamRestore x0) :=
  fun _ _ h => nomatch (show none = some _ from h)

theorem Sys2Proof.Laws.Words.jobStop (x0 : Nat) : Statement (.jobStop x0) :=
  fun _ _ h => nomatch (show none = some _ from h)

theorem Sys2Proof.Laws.Words.trapDelivery (x0 : Nat) : Statement (.trapDelivery x0) :=
  fun _ _ h => nomatch (show none = some _ from h)

theorem Sys2Proof.Laws.Words.remoteFaultDelivery (x0 : Nat) (x1 : Nat) : Statement (.remoteFaultDelivery x0 x1) :=
  fun _ _ h => nomatch (show none = some _ from h)

theorem Sys2Proof.Laws.Words.mcastpartDelivery (x0 : Nat) (x1 : Nat) : Statement (.mcastpartDelivery x0 x1) :=
  fun _ _ h => nomatch (show none = some _ from h)

theorem Sys2Proof.Laws.Words.instructionFetch (x0 : Nat) (x1 : Nat) (x2 : Nat) : Statement (.instructionFetch x0 x1 x2) :=
  fun _ _ h => nomatch (show none = some _ from h)

theorem Sys2Proof.Laws.Words.coreRetire (x0 : Nat) (x1 : Bool) : Statement (.coreRetire x0 x1) :=
  fun _ _ h => nomatch (show none = some _ from h)

theorem Sys2Proof.Laws.Words.hbmChannelSpare (x0 : Nat) (x1 : Nat) : Statement (.hbmChannelSpare x0 x1) :=
  fun _ _ h => nomatch (show none = some _ from h)

theorem Sys2Proof.Laws.Words.hostMemoryAccess (x0 : HostAccess) : Statement (.hostMemoryAccess x0) :=
  fun _ _ h => nomatch (show none = some _ from h)

theorem Sys2Proof.Laws.Words.egressWindowRead (x0 : Nat) (x1 : Nat) : Statement (.egressWindowRead x0 x1) :=
  fun _ _ h => nomatch (show none = some _ from h)

theorem Sys2Proof.Laws.Words.bar0RegisterWrite (x0 : Nat) (x1 : BitVec 64) : Statement (.bar0RegisterWrite x0 x1) :=
  fun _ _ h => nomatch (show none = some _ from h)

theorem Sys2Proof.Laws.Words.pwrstateWrite (x0 : BitVec 64) : Statement (.pwrstateWrite x0) :=
  fun _ _ h => nomatch (show none = some _ from h)

theorem Sys2Proof.Laws.Words.tlbcmdDropJob (x0 : Nat) : Statement (.tlbcmdDropJob x0) :=
  fun _ _ h => nomatch (show none = some _ from h)

theorem Sys2Proof.Laws.Words.tlbcmdDropAll : Statement (.tlbcmdDropAll) :=
  fun _ _ h => nomatch (show none = some _ from h)

theorem Sys2Proof.Laws.Words.jobslotValidate (x0 : Nat) (x1 : BitVec 64) : Statement (.jobslotValidate x0 x1) :=
  fun _ _ h => nomatch (show none = some _ from h)

theorem Sys2Proof.Laws.Words.jobslotInvalidate (x0 : Nat) : Statement (.jobslotInvalidate x0) :=
  fun _ _ h => nomatch (show none = some _ from h)

theorem Sys2Proof.Laws.Words.cmdqStart (x0 : Nat) : Statement (.cmdqStart x0) :=
  fun _ _ h => nomatch (show none = some _ from h)

theorem Sys2Proof.Laws.Words.cmdqResume (x0 : Nat) : Statement (.cmdqResume x0) :=
  fun _ _ h => nomatch (show none = some _ from h)

theorem Sys2Proof.Laws.Words.cmdqStop (x0 : Nat) : Statement (.cmdqStop x0) :=
  fun _ _ h => nomatch (show none = some _ from h)

theorem Sys2Proof.Laws.Words.cmdqNotify (x0 : Nat) (x1 : Nat) (x2 : Bool) : Statement (.cmdqNotify x0 x1 x2) :=
  fun _ _ h => nomatch (show none = some _ from h)

theorem Sys2Proof.Laws.Words.phaseReread (x0 : Nat) : Statement (.phaseReread x0) :=
  fun _ _ h => nomatch (show none = some _ from h)

theorem Sys2Proof.Laws.Words.cmdPublish (x0 : Nat) : Statement (.cmdPublish x0) :=
  fun _ _ h => nomatch (show none = some _ from h)

theorem Sys2Proof.Laws.Words.cmdStopJob (x0 : Nat) : Statement (.cmdStopJob x0) :=
  fun _ _ h => nomatch (show none = some _ from h)

theorem Sys2Proof.Laws.Words.cmdResumeJob (x0 : Nat) : Statement (.cmdResumeJob x0) :=
  fun _ _ h => nomatch (show none = some _ from h)

theorem Sys2Proof.Laws.Words.cmdDiscardJob (x0 : Nat) : Statement (.cmdDiscardJob x0) :=
  fun _ _ h => nomatch (show none = some _ from h)

theorem Sys2Proof.Laws.Words.keyInstall (x0 : Nat) : Statement (.keyInstall x0) :=
  fun _ _ h => nomatch (show none = some _ from h)

theorem Sys2Proof.Laws.Words.keyEmpty (x0 : Nat) : Statement (.keyEmpty x0) :=
  fun _ _ h => nomatch (show none = some _ from h)

theorem Sys2Proof.Laws.Words.egringOpen (x0 : Nat) : Statement (.egringOpen x0) :=
  fun _ _ h => nomatch (show none = some _ from h)

theorem Sys2Proof.Laws.Words.egringClose (x0 : Nat) : Statement (.egringClose x0) :=
  fun _ _ h => nomatch (show none = some _ from h)

theorem Sys2Proof.Laws.Words.egringHcurWrite (x0 : Nat) (x1 : BitVec 64) : Statement (.egringHcurWrite x0 x1) :=
  fun _ _ h => nomatch (show none = some _ from h)

theorem Sys2Proof.Laws.Words.dbgReqOff : Statement (.dbgReqOff) :=
  fun _ _ h => nomatch (show none = some _ from h)

theorem Sys2Proof.Laws.Words.dbgReqObserve : Statement (.dbgReqObserve) :=
  fun _ _ h => nomatch (show none = some _ from h)

theorem Sys2Proof.Laws.Words.dbgReqHalt : Statement (.dbgReqHalt) :=
  fun _ _ h => nomatch (show none = some _ from h)

theorem Sys2Proof.Laws.Words.dbghalt (x0 : Nat) : Statement (.dbghalt x0) :=
  fun _ _ h => nomatch (show none = some _ from h)

theorem Sys2Proof.Laws.Words.dbgresume (x0 : Nat) : Statement (.dbgresume x0) :=
  fun _ _ h => nomatch (show none = some _ from h)

theorem Sys2Proof.Laws.Words.lifecycleOwn (x0 : BitVec 512) : Statement (.lifecycleOwn x0) :=
  fun _ _ h => nomatch (show none = some _ from h)

theorem Sys2Proof.Laws.Words.lifecycleLock (x0 : BitVec 512) : Statement (.lifecycleLock x0) :=
  fun _ _ h => nomatch (show none = some _ from h)

theorem Sys2Proof.Laws.Words.lifecycleUnlock (x0 : BitVec 512) : Statement (.lifecycleUnlock x0) :=
  fun _ _ h => nomatch (show none = some _ from h)

theorem Sys2Proof.Laws.Words.attestationReport (x0 : BitVec 256) : Statement (.attestationReport x0) :=
  fun _ _ h => nomatch (show none = some _ from h)

theorem Sys2Proof.Laws.Words.boot (x0 : BootImage) : Statement (.boot x0) :=
  fun _ _ h => nomatch (show none = some _ from h)

theorem Sys2Proof.Laws.Words.moduleReset : Statement (.moduleReset) :=
  fun _ _ h => nomatch (show none = some _ from h)

theorem Sys2Proof.Laws.Words.selfTestDone (x0 : Nat) (x1 : Bool) : Statement (.selfTestDone x0 x1) :=
  fun _ _ h => nomatch (show none = some _ from h)

theorem Sys2Proof.Laws.Words.idleEntry : Statement (.idleEntry) :=
  fun _ _ h => nomatch (show none = some _ from h)

theorem Sys2Proof.Laws.Words.idleWake : Statement (.idleWake) :=
  fun _ _ h => nomatch (show none = some _ from h)

theorem Sys2Proof.Laws.Words.powerOff : Statement (.powerOff) :=
  fun _ _ h => nomatch (show none = some _ from h)

theorem Sys2Proof.Laws.Words.thermalGate (x0 : Nat) : Statement (.thermalGate x0) :=
  fun _ _ h => nomatch (show none = some _ from h)

theorem Sys2Proof.Laws.Words.thermalTrip (x0 : Nat) : Statement (.thermalTrip x0) :=
  fun _ _ h => nomatch (show none = some _ from h)

theorem Sys2Proof.Laws.Words.portTraining (x0 : Nat) (x1 : Option Nat) : Statement (.portTraining x0 x1) :=
  fun _ _ h => nomatch (show none = some _ from h)

theorem Sys2Proof.Laws.Words.linkRekey (x0 : Nat) : Statement (.linkRekey x0) :=
  fun _ _ h => nomatch (show none = some _ from h)

theorem Sys2Proof.Laws.Words.windowReceive (x0 : Nat) (x1 : Window) : Statement (.windowReceive x0 x1) :=
  fun _ _ h => nomatch (show none = some _ from h)

theorem Sys2Proof.Laws.Words.windowPadTimeout (x0 : Nat) : Statement (.windowPadTimeout x0) :=
  fun _ _ h => nomatch (show none = some _ from h)

theorem Sys2Proof.Laws.Words.wavelengthSpare (x0 : Nat) (x1 : Bool) : Statement (.wavelengthSpare x0 x1) :=
  fun _ _ h => nomatch (show none = some _ from h)

theorem Sys2Proof.Laws.Words.rankDownNotice (x0 : Nat) : Statement (.rankDownNotice x0) :=
  fun _ _ h => nomatch (show none = some _ from h)

theorem Sys2Proof.Laws.Words.cgroupWrite (x0 : Nat) (x1 : BitVec 64) : Statement (.cgroupWrite x0 x1) :=
  fun _ _ h => nomatch (show none = some _ from h)

theorem Sys2Proof.Laws.Words.remoteRequest (x0 : Packet) : Statement (.remoteRequest x0) :=
  fun _ _ h => nomatch (show none = some _ from h)

theorem Sys2Proof.Laws.Words.remoteResponse (x0 : Response) : Statement (.remoteResponse x0) :=
  fun _ _ h => nomatch (show none = some _ from h)

theorem Sys2Proof.Laws.Words.remoteRequestLost (x0 : Nat) : Statement (.remoteRequestLost x0) :=
  fun _ _ h => nomatch (show none = some _ from h)

theorem Sys2Proof.Laws.Words.multicastComplete (x0 : Nat) : Statement (.multicastComplete x0) :=
  fun _ _ h => nomatch (show none = some _ from h)

theorem Sys2Proof.Laws.Words.ueRmaRequest (x0 : UeRequest) : Statement (.ueRmaRequest x0) :=
  fun _ _ h => nomatch (show none = some _ from h)

theorem Sys2Proof.Laws.Words.uewinOpen (x0 : Nat) : Statement (.uewinOpen x0) :=
  fun _ _ h => nomatch (show none = some _ from h)

theorem Sys2Proof.Laws.Words.uewinClose (x0 : Nat) : Statement (.uewinClose x0) :=
  fun _ _ h => nomatch (show none = some _ from h)

theorem Sys2Proof.Laws.Words.ueReadResponse (x0 : Nat) (x1 : Option (List (BitVec 64))) : Statement (.ueReadResponse x0 x1) :=
  fun _ _ h => nomatch (show none = some _ from h)

theorem Sys2Proof.Laws.Words.collectivePacket (x0 : CollPacket) : Statement (.collectivePacket x0) :=
  fun _ _ h => nomatch (show none = some _ from h)

theorem Sys2Proof.Laws.Words.cstepTimeout (x0 : Nat) (x1 : Nat) : Statement (.cstepTimeout x0 x1) :=
  fun _ _ h => nomatch (show none = some _ from h)

theorem Sys2Proof.Laws.Words.suspect (x0 : ViewMsg) : Statement (.suspect x0) :=
  fun _ _ h => nomatch (show none = some _ from h)

theorem Sys2Proof.Laws.Words.propose (x0 : ViewMsg) : Statement (.propose x0) :=
  fun _ _ h => nomatch (show none = some _ from h)

theorem Sys2Proof.Laws.Words.accept (x0 : ViewMsg) : Statement (.accept x0) :=
  fun _ _ h => nomatch (show none = some _ from h)

theorem Sys2Proof.Laws.Words.commit (x0 : ViewMsg) : Statement (.commit x0) :=
  fun _ _ h => nomatch (show none = some _ from h)

theorem Sys2Proof.Laws.Words.agreeTimeout (x0 : Nat) : Statement (.agreeTimeout x0) :=
  fun _ _ h => nomatch (show none = some _ from h)

theorem Sys2Proof.Laws.Words.joinRequest (x0 : ViewMsg) : Statement (.joinRequest x0) :=
  fun _ _ h => nomatch (show none = some _ from h)

theorem Sys2Proof.Laws.Words.collectiveComplete (x0 : Nat) : Statement (.collectiveComplete x0) :=
  fun _ _ h => nomatch (show none = some _ from h)

theorem Sys2Proof.Laws.Words.initAgreement (x0 : Nat) (x1 : List (Nat × BitVec 32)) : Statement (.initAgreement x0 x1) :=
  fun _ _ h => nomatch (show none = some _ from h)

theorem Sys2Proof.Laws.Words.darkLink (x0 : Nat) : Statement (.darkLink x0) :=
  fun _ _ h => nomatch (show none = some _ from h)

theorem Sys2Proof.Laws.Words.packetDeliveryContextFail (x0 : Nat) : Statement (.packetDeliveryContextFail x0) :=
  fun _ _ h => nomatch (show none = some _ from h)
end

