-- ==== Sys2Proof/Certificates/Slice0/Obligations.lean ====
section
/-! DEFINITION. The statements for the provers. Each docstring names the rules of spec/ the statement rests on. Tables of instructions stand under Sys2Proof.Claims. -/

namespace Sys2Proof.Claims
open Sys2Proof.Machine

/-! ## Lane instructions (spec/04 R103-R128) -/

/-- R103, format A without D as a source: each instruction with its function of the two operand words. -/
def intAB (f : FmtA) : List (Instr × (Word → Word → Word)) :=
  [(.iaddI32 f, fun a b => a + b), (.isubI32 f, fun a b => a - b), (.imulI32 f, fun a b => a * b),
   (.imulhiI32 f, fun a b => hiWord (a.signExtend 64 * b.signExtend 64)),
   (.imulhiN32 f, fun a b => hiWord (a.setWidth 64 * b.setWidth 64)),
   (.iminI32 f, fun a b => if a.toInt ≤ b.toInt then a else b), (.iminN32 f, fun a b => if a ≤ b then a else b),
   (.imaxI32 f, fun a b => if a.toInt ≥ b.toInt then a else b), (.imaxN32 f, fun a b => if a ≥ b then a else b),
   (.iaddsI32 f, fun a b => clamp32 (a.toInt + b.toInt)), (.isubsI32 f, fun a b => clamp32 (a.toInt - b.toInt)),
   (.idivN32 f, fun a b => if b = 0 then 0xFFFFFFFF else a / b),
   (.and f, fun a b => a &&& b), (.or f, fun a b => a ||| b), (.xor f, fun a b => a ^^^ b), (.andn f, fun a b => a &&& ~~~b),
   (.shl f, fun a b => if b.toNat < 32 then a <<< b.toNat else 0),
   (.shrN32 f, fun a b => if b.toNat < 32 then a >>> b.toNat else 0),
   (.shrI32 f, fun a b => if b.toNat < 32 then a.sshiftRight b.toNat else if bitOf a 31 then 0xFFFFFFFF else 0),
   (.bfx f, bitExtract)]

/-- R103, R105: the two that read D in the same lane. -/
def intABD (f : FmtA) : List (Instr × (Word → Word → Word → Word)) :=
  [(.imadI32 f, fun a b d => a * b + d), (.bfi f, bitInsert)]

/-- R103: the unary ones. -/
def intA (f : FmtU) : List (Instr × (Word → Word)) :=
  [(.iabsI32 f, fun a => if bitOf a 31 then -a else a), (.not f, fun a => ~~~a),
   (.popc f, fun a => BitVec.ofNat 32 (laneList.filter (inMask a)).length),
   (.clz f, fun a => BitVec.ofNat 32 (leadZeros a)), (.brev f, fun a => maskOf (fun i => inMask a (31 - i)))]

/-- R107, R108, R112, R124, R127, R128: format A, each with its role, the class of its operands and its function. -/
def floatAB (f : FmtA) : List (Instr × Roles × OpClass × (Word → Word → Word)) :=
  [(.faddF32 f, .executeOnly, .f32, f32Add), (.fsubF32 f, .executeOnly, .f32, f32Sub), (.fmulF32 f, .executeOnly, .f32, f32Mul),
   (.fminF32 f, .executeOnly, .f32, f32Min), (.fmaxF32 f, .executeOnly, .f32, f32Max),
   (.fdiv f, .executeOnly, .f32, f32Div),
   (.faddH2 f, .executeOnly, .h2, halves (addCode fp16)), (.fmulH2 f, .executeOnly, .h2, halves (mulCode fp16)),
   (.fminH2 f, .executeOnly, .h2, halves (minCode fp16)), (.fmaxH2 f, .executeOnly, .h2, halves (maxCodeOf fp16)),
   (.faddB2 f, .executeOnly, .b2, halves (addCode bf16)), (.fmulB2 f, .executeOnly, .b2, halves (mulCode bf16)),
   (.cvtpkH2 f, .both, .f32, pack2 fp16), (.cvtpkB2 f, .both, .f32, pack2 bf16),
   (.qscale f, .both, .f32, fun a b => BitVec.ofNat 32 (qscaleCode (fp32.decode a.toNat) (fp32.decode b.toNat))),
   (.requant f, .both, .int, fun a b => BitVec.ofNat 32 ((List.range 8).foldl (fun n i =>
      n + requantCode (bitsOf a (4 * i) 4) (bitsOf b 0 8) (bitsOf b 8 8) * 2 ^ (4 * i)) 0))]

/-- R107, R108, R112, R124, R125: format A that also reads D in the same lane. -/
def floatABD (f : FmtA) : List (Instr × Roles × OpClass × (Word → Word → Word → Word)) :=
  [(.ffmaF32 f, .executeOnly, .f32, f32Fma), (.ffmaH2 f, .executeOnly, .h2, halves3 (fmaCode fp16)),
   (.ffmaB2 f, .executeOnly, .b2, halves3 (fmaCode bf16)), (.fdot2H f, .executeOnly, .h2, dotWord fp16 2 16),
   (.fdot4E4 f, .executeOnly, .int, dotWord e4m3 4 8), (.fdot4E5 f, .executeOnly, .int, dotWord e5m2 4 8),
   (.cvtpkE4 f, .both, .f32, pack4 e4m3 true), (.cvtpkE5 f, .both, .f32, pack4 e5m2 false),
   (.qpk4 f, .both, .int, fun a b d => (d >>> 4) ||| (BitVec.ofNat 32 (qpk4Code (fp32.decode a.toNat) (bitsOf b 0 8)) <<< 28))]

/-- R107, R110, R113, R122, R123, R126: one operand. The fields m, sat, mode and k are those of FRND, CVT and QUPK4. -/
def floatA (f : FmtU) (m mode : BitVec 2) (sat : BitVec 1) (cv : BitVec 4) (k : BitVec 3) : List (Instr × Roles × OpClass × (Word → Word)) :=
  [(.fabsF32 f, .executeOnly, .f32, fun a => a &&& 0x7FFFFFFF), (.fnegF32 f, .executeOnly, .f32, fun a => a ^^^ 0x80000000),
   (.frcp f, .executeOnly, .f32, f32Div 0x3F800000), (.frsq f, .executeOnly, .f32, fUn (rsqrtV fp32)),
   (.fsqrt f, .executeOnly, .f32, fUn (sqrtV fp32)), (.fexp2 f, .executeOnly, .f32, fexp2), (.flog2 f, .executeOnly, .f32, flog2),
   (.fsinpi f, .executeOnly, .f32, fsinpi), (.fcospi f, .executeOnly, .f32, fcospi), (.ftanh f, .executeOnly, .f32, ftanh),
   (.frnd f.g f.d f.a m, .executeOnly, .f32, f32Round (modeOf m.toNat)),
   (.keyf f, .executeOnly, .f32, fun a => if bitOf a 31 then ~~~a else a ||| 0x80000000),
   (.mov f, .both, .int, fun a => a),
   (.cvt f.g f.d f.a sat mode cv, .both, cvtClass cv.toNat, cvtWord cv.toNat (modeOf mode.toNat) (sat == 1)),
   (.qupk4 f.g f.d f.a k, .both, .int, fun a => BitVec.ofNat 32 (convert e2m1 fp32 .rne false (bitsOf a (4 * k.toNat) 4)))]

/-- R309: the special registers, each with its number, whether it is 64 bits wide, and its value in a lane. -/
def specials (c : Ctx) : List (Nat × Bool × (Nat → Nat)) :=
  let i := c.t.ident
  let r := c.t.trap.regs
  [(0x00, false, fun L => L), (0x01, false, fun _ => c.w.index), (0x02, false, fun _ => if c.w.role = .execute then 1 else 0),
   (0x03, false, fun _ => i.x), (0x04, false, fun _ => i.y), (0x05, false, fun _ => i.z), (0x06, false, fun _ => i.gx),
   (0x07, false, fun _ => i.gy), (0x08, false, fun _ => i.gz), (0x09, false, fun _ => c.t.core), (0x0A, false, fun _ => c.t.core / 4),
   (0x0B, false, fun _ => bitsOf c.s.fab.fabcfg 0 16), (0x0C, false, fun _ => c.p.seq.toNat), (0x0D, false, fun _ => c.p.mask.toNat),
   (0x0E, false, fun _ => i.prio), (0x0F, false, fun _ => c.w.streamId.toNat), (0x10, false, fun _ => r.cause.toNat),
   (0x11, false, fun _ => r.addrLo.toNat), (0x12, false, fun _ => r.addrHi.toNat), (0x13, true, fun _ => r.pc.toNat),
   (0x14, false, fun _ => r.skid.toNat), (0x15, false, fun _ => r.split.toNat), (0x16, false, fun _ => r.cause2.toNat),
   (0x18, true, fun _ => scratchBase + c.t.scr.base), (0x19, true, fun _ => clusterBase), (0x1A, true, fun _ => privateBase)] ++
  [(0x40, true, fun _ => ((jobSlot c.s i.job).map (fun j => (slotTvecA j).toNat)).getD 0),
   (0x41, true, fun _ => ((jobSlot c.s i.job).map (fun j => (slotTvecE j).toNat)).getD 0),
   (0x42, true, fun _ => r.pc2.toNat), (0x43, false, fun _ => c.s.pkg.fsBound), (0x44, false, fun _ => c.t.trap.keyovr.toNat),
   (0x45, false, fun _ => if c.s.pkg.debug = .off then 0 else if c.s.pkg.debug = .observe then 1 else 2), (0x46, true, fun _ => readyWord c.s c.t.core),
   (0x47, true, fun _ => c.t.save.frame), (0x48, false, fun _ => (c.t.trap.hsave.getD 0 0).toNat),
   (0x49, false, fun _ => (c.t.trap.hsave.getD 1 0).toNat), (0x4A, false, fun _ => (c.t.trap.hsave.getD 2 0).toNat),
   (0x4B, false, fun _ => (c.t.trap.hsave.getD 3 0).toNat)]

/-- R359 to R361, R366: the remote instructions with a destination or data register, each with its opcode, the bytes it moves, the rule of D, whether it is of the read class with the registers it loads, and the data of a lane. -/
def remotes (f : FmtF) : List (Instr × Nat × Nat × (Ctx → Nat → Bool) × Option Nat × (Warp → Nat → Nat → List DWord)) :=
  [(.rldB32 f, 0xD0, 4, fun c d => regOk c d, some 1, fun _ _ _ => []), (.rldB64 f, 0xD1, 8, fun c d => pairOk c d, some 2, fun _ _ _ => []),
   (.rstB32 f, 0xD2, 4, fun c d => regOk c d, none, fun w d L => [(w.v d L).setWidth 64]),
   (.rstB64 f, 0xD3, 8, fun c d => pairOk c d, none, fun w d L => [w.v64 d L]),
   (.raaddI64 f, 0xD4, 8, fun c d => pairOk c d, some 2, fun w d L => [w.v64 d L]),
   (.racasB64 f, 0xD5, 8, fun c d => dataOk c d 16, some 2, fun w d L => [w.v64 d L, w.v64 (d + 2) L])]

/-! ## Words, operands, storage, reset -/

/-- Worked encodings of the spec and the instruction each stands for (spec/01, spec/04, spec/06, spec/09, spec/13 R390). -/
def worked : List (Word × Instr) :=
  [(0x23720262, .ffmaF32 ⟨7, 8, 4, 0x62⟩), (0x22A244F3, .fmulF32 ⟨10, 9, 9, 0x73⟩), (0x307081F0, .frcp ⟨7, 2, 3⟩),
   (0xF4345678, .immL 0x345678), (0xF5123456, .immH 0x123456), (0x007142FF, .iaddI32 ⟨7, 5, 5, 0x7F⟩),
   (0x7473012C, .ldB32 ⟨7, 12, 2, 1, 3, 0⟩), (0x7C708300, .ldqB32 ⟨7, 2, 6, 0⟩), (0xF00091F5, .clause 9 1 15 2 1),
   (0xA01FFFF0, .bra ⟨1, -16⟩), (0xAD700000, .nop 7), (0x4F700000, .reservedOpcode 0x4F700000), (0x7C788300, .reservedOpcode 0x7C788300),
   (0x1F710483, .leas 7 4 9 3), (0x3A708181, .frnd 7 2 3 1), (0x4070E211, .icmpI32 ⟨7, 3, 0x44, 2, 1⟩), (0x45704138, .plop 7 1 2 3 8),
   (0x4E70C4F0, .swr 7 3 9), (0x5371C3C8, .cvt 7 7 7 1 0 8), (0xA9700003, .bar 7 0 3), (0x6070C280, .qpush 7 3 5),
   (0x61720109, .qpop 7 8 2 1 1), (0x67704005, .qeosTest 7 1 2), (0x68702270, .rwait ⟨7, 0x44, 0x70⟩),
   (0x7971624C, .stB32 ⟨7, 5, 0x44, 2, 3, 0⟩), (0x82718503, .ldfe 7 6 10 3), (0x9E71216C, .acasB64 ⟨7, 4, 0x42, 3, 3⟩),
   (0xC47500C8, .regroup ⟨7, 20, 1, 0x48⟩), (0xB1752246, .mma ⟨7, 1, 4, 0x44, 0x46⟩), (0xBA780000, .mwait 7 1 0 0),
   (0xC1726800, .sfill 7 2 1 0x50), (0xD0720144, .rldB32 ⟨7, 8, 2, 0x44⟩), (0xD8708146, .xldq 7 2 2 3), (0xDE70A44A, .viewctlInit 7 2 0x48 5)]

/-- R13: inline constant 0x70 + k of a class; the packed classes hold one value in both halves. -/
def constant (cls : OpClass) (k : Nat) : Word :=
  let both (h : BitVec 16) : Word := h ++ h
  match cls with
  | .int => match k with | 0 => 0 | 1 => 1 | 2 => 2 | 3 => 3 | 4 => 4 | 5 => 8 | 6 => 16 | _ => -1
  | .f32 => match k with | 0 => 0 | 1 => 0x3F800000 | 2 => 0x40000000 | 3 => 0x3F000000 | 4 => 0x40800000 | 5 => 0xBF800000 | 6 => 0xBF000000 | _ => 0x7F800000
  | .h2 => both (match k with | 0 => 0 | 1 => 0x3C00 | 2 => 0x4000 | 3 => 0x3800 | 4 => 0x4400 | 5 => 0xBC00 | 6 => 0xB800 | _ => 0x7C00)
  | .b2 => both (match k with | 0 => 0 | 1 => 0x3F80 | 2 => 0x4000 | 3 => 0x3F00 | 4 => 0x4080 | 5 => 0xBF80 | 6 => 0xBF00 | _ => 0x7F80)

/-- R332, R347, R351, R345: registers of BAR0 with the value the spec gives them at module reset. -/
def resetWords : List (Nat × DWord) :=
  [(0x00, 0), (0x10, 0), (0x18, 3600), (0x20, 0x100000), (0x28, 0), (0x30, 0), (0x40, 0), (0x48, 0), (0x50, 0), (0x58, 0), (0x60, 0),
   (0x68, 0), (0x60000, 0), (0x60008, 0x800000), (0x60010, 0x400000), (0x60018, 0x1000000), (0x60020, 0), (0x70008, 0), (0x70010, 0)]

/-- HBM is in the canonical form of notes/assumptions/4.md, and the device has its 24 cores and 6 clusters (R2). -/
def canonical (s : State) : Prop := Memory.wf s.pkg.hbm = true ∧ s.cores.length = 24 ∧ s.clusters.length = 6

end Sys2Proof.Claims

open Sys2Proof Sys2Proof.Machine Sys2Proof.Claims

/-- R103, R105 with R10, R17, R18, R34, R101: every 32-bit integer instruction completes wherever its operands are read, D taking the rule's function of them in the active lanes. -/
def Obligations.IntegerWordsComplete : Prop :=
  (∀ (f : FmtA) (s : State) (c c' : Ctx) (vs : List (Nat → DWord)), ∀ r ∈ intAB f,
    Reads s .both c f.g [op32 .int f.a, op32 .int f.b] c' vs → destOk c f.d.toNat false = true →
    Completes r.1 s (c'.setD f.d.toNat false (c.act f.g)
      (fun L => (r.2 (loWord (val vs 0 L)) (loWord (val vs 1 L))).setWidth 64)) (c.p.pc + 4)) ∧
  (∀ (f : FmtA) (s : State) (c c' : Ctx) (vs : List (Nat → DWord)), ∀ r ∈ intABD f,
    Reads s .both c f.g [op32 .int f.a, op32 .int f.b] c' vs → destOk c f.d.toNat false = true →
    Completes r.1 s (c'.setD f.d.toNat false (c.act f.g)
      (fun L => (r.2 (loWord (val vs 0 L)) (loWord (val vs 1 L)) (c.w.v f.d.toNat L)).setWidth 64)) (c.p.pc + 4)) ∧
  (∀ (f : FmtU) (s : State) (c c' : Ctx) (vs : List (Nat → DWord)), ∀ r ∈ intA f,
    Reads s .both c f.g [op32 .int f.a] c' vs → destOk c f.d.toNat false = true →
    Completes r.1 s (c'.setD f.d.toNat false (c.act f.g) (fun L => (r.2 (loWord (val vs 0 L))).setWidth 64)) (c.p.pc + 4))

/-- R103, R104, R106 with R17: the 64-bit integer instructions, SEL, LEA and LEAS complete wherever their operands are read. SEL writes every lane of the split, the guard choosing between a and b; LEA needs a register pair in a, which is the model's reading (notes/assumptions/13.md). -/
def Obligations.PairsAndSelectComplete : Prop :=
  (∀ (f : FmtA) (s : State) (c c' : Ctx) (vs : List (Nat → DWord)),
    Reads s .both c f.g [op64 f.a, op64 f.b] c' vs → destOk c f.d.toNat true = true →
    Completes (.iaddI64 f) s (c'.setD f.d.toNat true (c.act f.g) (fun L => val vs 0 L + val vs 1 L)) (c.p.pc + 4) ∧
    Completes (.isubI64 f) s (c'.setD f.d.toNat true (c.act f.g) (fun L => val vs 0 L - val vs 1 L)) (c.p.pc + 4)) ∧
  (∀ (f : FmtA) (s : State) (c c' : Ctx) (vs : List (Nat → DWord)), Issues s .both c → destOk c f.d.toNat false = true →
    (op32 .int f.a).ok c = true → (op32 .int f.b).ok c = true → readOps c c.p.mask [op32 .int f.a, op32 .int f.b] = .got c' vs →
    Completes (.sel f) s (c'.setD f.d.toNat false c.p.mask
      (fun L => if inMask (c.act f.g) L then val vs 0 L else val vs 1 L)) (c.p.pc + 4)) ∧
  (∀ (f : FmtA) (s : State) (c c' : Ctx) (vs : List (Nat → DWord)), f.a.toNat < 0x60 →
    Reads s .accessOnly c f.g [op64 f.a, op32 .int f.b] c' vs → destOk c f.d.toNat true = true →
    Completes (.lea f) s (c'.setD f.d.toNat true (c.act f.g)
      (fun L => val vs 0 L + (loWord (val vs 1 L)).signExtend 64)) (c.p.pc + 4)) ∧
  (∀ (g : BitVec 4) (d : BitVec 6) (a : BitVec 7) (k : BitVec 3) (s : State) (c c' : Ctx) (vs : List (Nat → DWord)),
    Reads s .accessOnly c g [op32 .int a] c' vs → destOk c d.toNat true = true →
    Completes (.leas g d a k) s (c'.setD d.toNat true (c.act g)
      (fun L => c.w.v64 d.toNat L + ((loWord (val vs 0 L)).signExtend 64 <<< k.toNat))) (c.p.pc + 4))

/-- R107 to R113 and R122 to R128 with R34, R35: every floating point, conversion and quantization instruction completes wherever its operands are read, D taking the rule's function of them in the active lanes. FMIN.f32 and FMAX.f32 of a signalling NaN follow R107 where R88 says otherwise, which is the model's reading (notes/assumptions/47.md). -/
def Obligations.FloatAndConvertComplete : Prop :=
  (∀ (f : FmtA) (s : State) (c c' : Ctx) (vs : List (Nat → DWord)), ∀ r ∈ floatAB f,
    Reads s r.2.1 c f.g [op32 r.2.2.1 f.a, op32 r.2.2.1 f.b] c' vs → destOk c f.d.toNat false = true →
    Completes r.1 s (c'.setD f.d.toNat false (c.act f.g)
      (fun L => (r.2.2.2 (loWord (val vs 0 L)) (loWord (val vs 1 L))).setWidth 64)) (c.p.pc + 4)) ∧
  (∀ (f : FmtA) (s : State) (c c' : Ctx) (vs : List (Nat → DWord)), ∀ r ∈ floatABD f,
    Reads s r.2.1 c f.g [op32 r.2.2.1 f.a, op32 r.2.2.1 f.b] c' vs → destOk c f.d.toNat false = true →
    Completes r.1 s (c'.setD f.d.toNat false (c.act f.g)
      (fun L => (r.2.2.2 (loWord (val vs 0 L)) (loWord (val vs 1 L)) (c.w.v f.d.toNat L)).setWidth 64)) (c.p.pc + 4)) ∧
  (∀ (f : FmtU) (m mode : BitVec 2) (sat : BitVec 1) (cv : BitVec 4) (k : BitVec 3) (s : State) (c c' : Ctx)
    (vs : List (Nat → DWord)), ∀ r ∈ floatA f m mode sat cv k,
    Reads s r.2.1 c f.g [op32 r.2.2.1 f.a] c' vs → destOk c f.d.toNat false = true →
    Completes r.1 s (c'.setD f.d.toNat false (c.act f.g) (fun L => (r.2.2.2 (loWord (val vs 0 L))).setWidth 64)) (c.p.pc + 4)) ∧
  (∀ (f : FmtA) (s : State) (c c' : Ctx) (vs : List (Nat → DWord)),
    Reads s .executeOnly c f.g [op32 .f32 f.a, op32 .int f.b] c' vs → destOk c f.d.toNat false = true →
    Completes (.fscale f) s (c'.setD f.d.toNat false (c.act f.g)
      (fun L => (f32Scale (loWord (val vs 0 L)) (loWord (val vs 1 L))).setWidth 64)) (c.p.pc + 4)) ∧
  (∀ (f : FmtU) (s : State) (c c' : Ctx) (vs : List (Nat → DWord)),
    Reads s .both c f.g [op64 f.a] c' vs → destOk c f.d.toNat true = true →
    Completes (.mov64 f) s (c'.setD f.d.toNat true (c.act f.g) (fun L => val vs 0 L)) (c.p.pc + 4))

/-- R111, R114, R115, R117 with R19: the instructions that write a predicate complete wherever their operands are read, writing it in the active lanes. An integer condition is one of 0 to 5. -/
def Obligations.PredicateWritesComplete : Prop :=
  (∀ (f : FmtCmp) (s : State) (c c' : Ctx) (vs : List (Nat → DWord)), f.cond.toNat < 6 →
    Reads s .both c f.g [op32 .int f.a] c' vs → destOk c f.src.toNat false = true →
    Completes (.icmpI32 f) s (c'.withW (c'.w.setP f.pd.toNat (c.act f.g) (fun L =>
      condInt f.cond.toNat (c.w.v f.src.toNat L).toInt (loWord (val vs 0 L)).toInt))) (c.p.pc + 4) ∧
    Completes (.icmpN32 f) s (c'.withW (c'.w.setP f.pd.toNat (c.act f.g) (fun L =>
      condInt f.cond.toNat (c.w.v f.src.toNat L).toNat (loWord (val vs 0 L)).toNat))) (c.p.pc + 4)) ∧
  (∀ (f : FmtCmp) (s : State) (c c' : Ctx) (vs : List (Nat → DWord)), f.cond.toNat < 6 →
    Reads s .both c f.g [op64 f.a] c' vs → destOk c f.src.toNat true = true →
    Completes (.icmpI64 f) s (c'.withW (c'.w.setP f.pd.toNat (c.act f.g) (fun L =>
      condInt f.cond.toNat (c.w.v64 f.src.toNat L).toInt (val vs 0 L).toInt))) (c.p.pc + 4)) ∧
  (∀ (f : FmtCmp) (s : State) (c c' : Ctx) (vs : List (Nat → DWord)),
    Reads s .executeOnly c f.g [op32 .f32 f.a] c' vs → destOk c f.src.toNat false = true →
    Completes (.fcmpF32 f) s (c'.withW (c'.w.setP f.pd.toNat (c.act f.g) (fun L =>
      condFloat fp32 f.cond.toNat (c.w.v f.src.toNat L).toNat (loWord (val vs 0 L)).toNat))) (c.p.pc + 4)) ∧
  (∀ (g : BitVec 4) (src : BitVec 6) (a : BitVec 7) (h : BitVec 1) (k p : BitVec 3) (s : State) (c c' : Ctx) (vs : List (Nat → DWord)),
    Reads s .executeOnly c g [op32 .h2 a] c' vs → destOk c src.toNat false = true →
    Completes (.fcmpH g src a h k p) s (c'.withW (c'.w.setP p.toNat (c.act g) (fun L =>
      condFloat fp16 k.toNat (bitsOf (c.w.v src.toNat L) (16 * h.toNat) 16) (bitsOf (loWord (val vs 0 L)) (16 * h.toNat) 16))))
      (c.p.pc + 4)) ∧
  (∀ (g : BitVec 4) (p : BitVec 3) (a m : BitVec 7) (s : State) (c c' : Ctx) (vs : List (Nat → DWord)),
    Reads s .executeOnly c g [op32 .f32 a] c' vs →
    Completes (.fclass g p a m) s (c'.withW (c'.w.setP p.toNat (c.act g) (fun L => bitOf m (f32Class (loWord (val vs 0 L)))))) (c.p.pc + 4)) ∧
  (∀ (g : BitVec 4) (d a b : BitVec 3) (t : BitVec 4) (s : State) (c : Ctx), Issues s .both c →
    Completes (.plop g d a b t) s (c.withW (c.w.setP d.toNat (c.act g) (fun L =>
      bitOf t ((if inMask (c.w.p a.toNat) L then 2 else 0) + (if inMask (c.w.p b.toNat) L then 1 else 0))))) (c.p.pc + 4)) ∧
  (∀ (g : BitVec 4) (p : BitVec 3) (a : BitVec 7) (k : BitVec 2) (s : State) (c c' : Ctx) (vs : List (Nat → DWord)), k ≠ 3 →
    Reads s .both c g [op32 .int a] c' vs →
    Completes (.vote g p a k) s (c'.withW (c'.w.setP p.toNat (c.act g) (fun _ =>
      match k.toNat with
      | 0 => (lanesOf (c.act g)).all (fun L => val vs 0 L != 0)
      | 1 => (lanesOf (c.act g)).any (fun L => val vs 0 L != 0)
      | _ => (lanesOf (c.act g)).all (fun L => val vs 0 L == val vs 0 (lane0 (c.act g)))))) (c.p.pc + 4))

/-- R116, R118 to R122 with R140, R312: the cross-lane instructions, the moves to scalar registers, SPLITQ and CLOCK complete wherever their operands are read. A lane move whose source lane lies outside 0 to 31 keeps d; with no active lane a scalar register keeps its value. -/
def Obligations.LaneExchangesComplete : Prop :=
  (∀ (f : FmtA) (s : State) (c c' : Ctx) (vs : List (Nat → DWord)),
    Reads s .both c f.g [op32 .int f.a, op32 .int f.b] c' vs → destOk c f.d.toNat false = true →
    Completes (.ballot f) s (c'.setD f.d.toNat false (c.act f.g) (fun _ => (maskOf (fun J =>
      inMask (c.act f.g) J && (val vs 0 J &&& val vs 1 J) != 0)).setWidth 64)) (c.p.pc + 4) ∧
    Completes (.lpeer f) s (c'.setD f.d.toNat false (c.act f.g) (fun L => (maskOf (fun J =>
      inMask (c.act f.g) J && val vs 0 J == val vs 0 L && val vs 1 J == val vs 1 L)).setWidth 64)) (c.p.pc + 4)) ∧
  (∀ (f : FmtA) (s : State) (c c' : Ctx) (vs : List (Nat → DWord)), f.a.toNat < 0x40 →
    Reads s .both c f.g [op32 .int f.a, op32 .int f.b] c' vs → destOk c f.d.toNat false = true →
    Completes (.lpick f) s (c'.setD f.d.toNat false (c.act f.g)
      (fun L => (c.w.v f.a.toNat ((loWord (val vs 1 L)).toNat % 32)).setWidth 64)) (c.p.pc + 4) ∧
    Completes (.lmirr f) s (c'.setD f.d.toNat false (c.act f.g)
      (fun L => (c.w.v f.a.toNat (L ^^^ ((loWord (val vs 1 L)).toNat % 32))).setWidth 64)) (c.p.pc + 4) ∧
    Completes (.lrot f) s (c'.setD f.d.toNat false (c.act f.g)
      (fun L => (c.w.v f.a.toNat ((L + 32 - (loWord (val vs 1 L)).toNat % 32) % 32)).setWidth 64)) (c.p.pc + 4) ∧
    Completes (.lshift f) s (c'.setD f.d.toNat false (c.act f.g) (fun L =>
      (if 0 ≤ (L : Int) - (loWord (val vs 1 L)).toInt ∧ (L : Int) - (loWord (val vs 1 L)).toInt ≤ 31
        then c.w.v f.a.toNat ((L : Int) - (loWord (val vs 1 L)).toInt).toNat else c.w.v f.d.toNat L).setWidth 64)) (c.p.pc + 4)) ∧
  (∀ (g : BitVec 4) (d : BitVec 6) (a : BitVec 7) (o : BitVec 4) (s : State) (c c' : Ctx) (vs : List (Nat → DWord)), o.toNat ≤ 10 →
    (o.toNat < 8 ∨ c.w.role = .execute) → Reads s .both c g [op32 (if o.toNat < 8 then .int else .f32) a] c' vs →
    destOk c d.toNat false = true →
    Completes (.lfold g d a o) s (c'.withW (c'.w.setV d.toNat (c.act g) (fun _ =>
      let r := laneFold (foldOp o.toNat) (c.act g) (fun L => loWord (val vs 0 L))
      if o.toNat < 8 then r else quiet32 r))) (c.p.pc + 4)) ∧
  (∀ (g : BitVec 4) (r : BitVec 5) (a : BitVec 7) (s : State) (c c' : Ctx) (vs : List (Nat → DWord)),
    Reads s .both c g [op32 .int a] c' vs →
    Completes (.swr g r a) s (if c.act g = 0 then c' else
      c'.withW (c'.w.setS r.toNat (loWord (val vs 0 (lane0 (c.act g)))))) (c.p.pc + 4)) ∧
  (∀ (g : BitVec 4) (r : BitVec 5) (a b : BitVec 7) (s : State) (c c' : Ctx) (vs : List (Nat → DWord)), a.toNat < 0x40 →
    (op32 .int a).ok c = true → Reads s .both c g [op32 .int b] c' vs →
    Completes (.rdlane g r a b) s (if c.act g = 0 then c' else
      c'.withW (c'.w.setS r.toNat (c.w.v a.toNat ((val vs 0 (lane0 (c.act g))).toNat % 32)))) (c.p.pc + 4)) ∧
  (∀ (g : BitVec 4) (d : BitVec 6) (s : State) (c : Ctx), Issues s .both c → destOk c d.toNat false = true →
    Completes (.splitq g d) s (c.setD d.toNat false (c.act g) (fun _ => (splitWord c.w c.p).setWidth 64)) (c.p.pc + 4)) ∧
  (∀ (g : BitVec 4) (d : BitVec 6) (s : State) (c : Ctx), Issues s .both c → destOk c d.toNat true = true →
    Completes (.clock g d) s (c.setD d.toNat true (c.act g) (fun _ => BitVec.ofNat 64 c.s.clock)) (c.p.pc + 4))

namespace Sys2Proof.Claims
open Sys2Proof.Machine

/-- R148, R160: a pop of entry e by the lanes of act finds it complete and released, no considered lane waiting, and a POISON lane: i is the trap of the lowest such lane, with the VA of its record, or zero. -/
def popPoisoned (s : State) (t : Team) (e : QEntry) (act : LaneMask) (i : TrapInfo) : Prop :=
  e.held s t = false ∧
  (∀ L, L < 32 → inMask act L = true → (e.lane L).st ≠ .inflight ∧ (e.lane L).st ≠ .refetch ∧ (e.lane L).st ≠ .tent) ∧
  ∃ L, L < 32 ∧ inMask act L = true ∧ (e.lane L).st = .poison ∧ (∀ J, J < L → inMask act J = true → (e.lane J).st ≠ .poison) ∧
    let id := bitsOf (e.lane L).data 0 7
    (id = 0x7F → i = trapAddr causePOISON 0 L) ∧
    (∀ r, id ≠ 0x7F → (s.core t.core).poison[id]? = some (some r) → i = trapAddr causePOISON (r.va.toNat % 2 ^ 57) L) ∧
    (id ≠ 0x7F → ¬(∃ r, (s.core t.core).poison[id]? = some (some r)) → i = trapAddr causePOISON 0 L)

/-- R179: the value of each selector of QSTAT. The head is the entry at HEAD, and without entries what is derived from it is 0. -/
def queueStatus (x : Queue) : Prop :=
  let h := x.entryAt 0
  let waits (L : Nat) : Bool := (h.lane L).st == .pending || (h.lane L).st == .refetch
  let some_ (p : Nat → Bool) : Bool := x.count != 0 && laneList.any p
  let mask (p : Nat → Bool) : Word := if x.count = 0 then 0 else maskOf p
  let ready (i : Nat) : Prop := ∀ l ∈ (x.entryAt i).lanes, l.st = .free ∨ l.st = .valid ∨ l.st = .invalid
  qstatValue 0 x = BitVec.ofNat 32 x.count ∧
  (∃ n, qstatValue 1 x = BitVec.ofNat 32 n ∧ n ≤ x.count ∧ (∀ i, i < n → ready i) ∧ (n < x.count → ¬ready n)) ∧
  qstatValue 2 x = BitVec.ofNat 32 (x.cap - x.count - x.drainingCount) ∧
  bitOf (qstatValue 3 x) 0 = x.eos ∧ bitOf (qstatValue 3 x) 1 = some_ waits ∧
  bitOf (qstatValue 3 x) 2 = some_ (fun L => (h.lane L).st == .poison) ∧ bitOf (qstatValue 3 x) 3 = some_ (fun L => (h.lane L).st == .tent) ∧
  bitOf (qstatValue 3 x) 4 = some_ (fun L => (h.lane L).st == .inflight) ∧ bitsOf (qstatValue 3 x) 5 27 = 0 ∧
  qstatValue 4 x = mask (fun L => (h.lane L).st == .valid) ∧ qstatValue 5 x = mask waits ∧
  qstatValue 6 x = mask (fun L => (h.lane L).st == .poison) ∧ qstatValue 7 x = x.lastinv

end Sys2Proof.Claims

/-- R172 to R177 with R16, R146, R148, R149, R160, R161: the queue instructions complete in their declared role. QPUSH reserves the tail entry, active lanes VALID and the others INVALID; QPOP and QTRY remove the head entry that the table of R148 delivers, and raise POISON at a poisoned one; QTRY answers false where a pop would wait; QSKIP and QFLUSH drop entries undelivered; QPEEK removes nothing. Which entries a release still holds back, so that a pop waits and QTRY answers false, and that a pop waits at issue for reads its lanes still owe, is the model's reading of R215 (notes/assumptions/46.md). R179, R180: QSTAT, QEOS and QEOS.test complete in their declared role, whatever the guard; QSTAT reads the count, the ready entries, the free entries, the status bits, the masks of the head entry or LASTINV. -/
def Obligations.QueuesComplete : Prop :=
  ((∀ (g q : BitVec 4) (a : BitVec 7) (s : State) (c c' : Ctx) (x x' : Queue) (vs : List (Nat → DWord)), c.act g ≠ 0 →
    c.t.queue? q.toNat = some x → isProducer x c.w = true → x.canReserve = true → c'.t.queue? q.toNat = some x' →
    Reads s .both c g [{ spec := a, wide := x.width == 2, cls := .int }] c' vs →
    let op := c'.s.nextId
    Completes (.qpush g q a) s { c' with
      s := c'.s.fresh.2
      t := (c'.t.setQueue (x'.reserve { flag := none, by_ := c'.wi, op := op, keyovr := none, lanes := laneList.map (fun L =>
        if inMask (c.act g) L then { QLane.empty with st := .valid, data := BitVec.ofNat 64 ((val vs 0 L).toNat % 2 ^ x.bits) }
        else { QLane.empty with st := .invalid }) })).signals (.entry op) c'.wi (c.act g) } (c.p.pc + 4)) ∧
  (∀ (g q : BitVec 4) (d : BitVec 6) (e : BitVec 1) (p : BitVec 3) (s : State) (c : Ctx) (x : Queue), Issues s .both c → c.act g ≠ 0 →
    c.t.queue? q.toNat = some x → isConsumer x c.w = true → destOk c d.toNat (x.width == 2) = true → x.count ≠ 0 →
    popFate c.s c.t [x.entryAt 0] (c.act g) = .ok → readsOwed c.s c.t c.wi (c.act g) = false →
    Completes (.qpop g d q e p) s (let c' := (c.popHead x.num (c.act g)).setD d.toNat (x.width == 2) (c.act g) (x.entryAt 0).deliver
      if e = 1 then c'.withW (c'.w.setP p.toNat (c.act g) (fun L => ((x.entryAt 0).lane L).st == .valid)) else c') (c.p.pc + 4) ∧
    Completes (.qtry g d q p) s (let c' := (c.popHead x.num (c.act g)).setD d.toNat (x.width == 2) (c.act g) (x.entryAt 0).deliver
      c'.withW (c'.w.setP p.toNat (c.act g) (fun _ => true))) (c.p.pc + 4)) ∧
  (∀ (g q : BitVec 4) (d : BitVec 6) (e : BitVec 1) (p : BitVec 3) (s : State) (c : Ctx) (x : Queue) (i : TrapInfo), Issues s .both c →
    c.t.queue? q.toNat = some x → isConsumer x c.w = true → destOk c d.toNat (x.width == 2) = true → x.count ≠ 0 →
    popPoisoned c.s c.t (x.entryAt 0) (c.act g) i → Traps (.qpop g d q e p) s c i ∧ Traps (.qtry g d q p) s c i) ∧
  (∀ (g q : BitVec 4) (d : BitVec 6) (p : BitVec 3) (s : State) (c : Ctx) (x : Queue), Issues s .both c → c.act g ≠ 0 →
    c.t.queue? q.toNat = some x → isConsumer x c.w = true → destOk c d.toNat (x.width == 2) = true →
    (x.count = 0 ∨ (x.entryAt 0).held c.s c.t = true ∨ ∃ L, L < 32 ∧ inMask (c.act g) L = true ∧
      (((x.entryAt 0).lane L).st = .inflight ∨ ((x.entryAt 0).lane L).st = .refetch ∨ ((x.entryAt 0).lane L).st = .tent)) →
    Completes (.qtry g d q p) s (c.withW (c.w.setP p.toNat (c.act g) (fun _ => false))) (c.p.pc + 4)) ∧
  (∀ (g q : BitVec 4) (d : BitVec 6) (k : BitVec 1) (s : State) (c : Ctx) (x : Queue), Issues s .both c →
    c.t.queue? q.toNat = some x → isConsumer x c.w = true → destOk c d.toNat (x.width == 2 && k == 0) = true →
    Completes (.qpeek g d q k) s (c.setD d.toNat (x.width == 2 && k == 0) (c.act g) (fun L =>
      if x.count = 0 then 0
      else if k = 1 then BitVec.ofNat 64 (stateCode ((x.entryAt 0).lane L).st)
      else if ((x.entryAt 0).lane L).st = .valid ∨ ((x.entryAt 0).lane L).st = .poison then ((x.entryAt 0).lane L).data
      else 0)) (c.p.pc + 4)) ∧
  (∀ (g q : BitVec 4) (n : BitVec 7) (s : State) (c : Ctx) (x : Queue), Issues s .both c → c.act g ≠ 0 →
    c.t.queue? q.toNat = some x → isConsumer x c.w = true → n.toNat + 1 ≤ x.count →
    Completes (.qskip g q n) s (c.dropHead x.num (n.toNat + 1)) (c.p.pc + 4)) ∧
  (∀ (g q : BitVec 4) (e : BitVec 1) (s : State) (c : Ctx) (x y : Queue), Issues s .both c → c.act g ≠ 0 →
    c.t.queue? q.toNat = some x → (isConsumer x c.w || isProducer x c.w) = true → (c.dropHead x.num x.count).t.queue? x.num = some y →
    Completes (.qflush g q e) s (let c' := c.dropHead x.num x.count
      if e = 1 then { c' with t := c'.t.setQueue { y with eos := false } } else c') (c.p.pc + 4))) ∧
  ((∀ (g q : BitVec 4) (d : BitVec 6) (k : BitVec 3) (s : State) (c : Ctx) (x : Queue), Issues s .both c →
    c.t.queue? q.toNat = some x → (isConsumer x c.w || isProducer x c.w) = true → destOk c d.toNat false = true →
    Completes (.qstat g d q k) s (c.withW (c.w.setV d.toNat (c.act g) (fun _ => qstatValue k.toNat x))) (c.p.pc + 4) ∧ queueStatus x) ∧
  (∀ (g q : BitVec 4) (s : State) (c : Ctx) (x : Queue), Issues s .both c →
    c.t.queue? q.toNat = some x → isProducer x c.w = true →
    Completes (.qeos g q) s (if c.act g = 0 ∨ x.eos = true then c else { c with t := c.t.setQueue { x with eos := true } }) (c.p.pc + 4)) ∧
  (∀ (g q : BitVec 4) (p : BitVec 3) (s : State) (c : Ctx) (x : Queue), Issues s .both c →
    c.t.queue? q.toNat = some x → isConsumer x c.w = true →
    Completes (.qeosTest g q p) s (c.withW (c.w.setP p.toNat (c.act g) (fun _ => x.eos && x.count == 0))) (c.p.pc + 4)))

namespace Sys2Proof.Claims
open Sys2Proof.Machine

/-- The granule ranges that the active lanes of RWAIT, RREL and RSET name: lane, handle, first and one past the last granule (R182). -/
def ranges (c : Ctx) (act : LaneMask) (vs : List (Nat → DWord)) : List (Nat × Word × Nat × Nat) :=
  (lanesOf act).filterMap (fun L => (granuleRange c.t (loWord (val vs 0 L)) (loWord (val vs 1 L))).map
    (fun r => (L, loWord (val vs 0 L), r.1, r.2)))

/-- The words that the active lanes of LDR and STR name: lane, handle, team offset (R183). -/
def words (c : Ctx) (act : LaneMask) (vs : List (Nat → DWord)) : List (Nat × Word × Nat) :=
  (passedLanes ((lanesOf act).map (fun L => (L, wordCheck c.t (loWord (val vs 0 L)) (loWord (val vs 1 L)))))).map
    (fun x => (x.1, loWord (val vs 0 x.1), x.2))

end Sys2Proof.Claims

namespace Sys2Proof.Claims
open Sys2Proof.Machine

/-- R167: the handle of a slot access names no declared ring, a slot at or beyond the ring's count, or has bits 15:0 set. -/
def handleFault (t : Team) (h : Word) : Prop :=
  t.ring? (handleRing h) = none ∨ ∃ r, t.ring? (handleRing h) = some r ∧ (r.count ≤ handleSlot h ∨ bitsOf h 0 16 ≠ 0)

/-- R182: the range of b runs past the last granule of the slot of h. -/
def rangeFault (t : Team) (h b : Word) : Prop :=
  ∃ r, t.ring? (handleRing h) = some r ∧ ¬handleFault t h ∧
    r.slotSize / 16 < bitsOf b 16 16 + (if bitsOf b 0 16 = 0 then r.slotSize / 16 - bitsOf b 16 16 else bitsOf b 0 16)

/-- R183: the cause of the first check that the word at offset b of slot h fails: the handle, the alignment of b, the slot size. -/
def wordFault (t : Team) (h b : Word) (cause : BitVec 8) : Prop :=
  handleFault t h ∧ cause = causeRINGBND ∨
  ¬handleFault t h ∧ bitsOf b 0 2 ≠ 0 ∧ cause = causeALIGN ∨
  ∃ r, t.ring? (handleRing h) = some r ∧ ¬handleFault t h ∧ bitsOf b 0 2 = 0 ∧ r.slotSize < b.toNat + 4 ∧ cause = causeRINGBND

/-- L is the lowest of the lanes for which a property holds. -/
def lowest (lanes : List Nat) (p : Nat → Prop) (L : Nat) : Prop := L ∈ lanes ∧ p L ∧ ∀ J ∈ lanes, J < L → ¬p J

end Sys2Proof.Claims

/-- R182 with R166, R167, R238: RWAIT completes once every granule its active lanes name is full and no slot of them is poisoned; RREL and RSET complete whatever the bits were, setting them empty or full, and end the poison of slots they name whole. R183 with R52, R167: LDR completes once the granule of every word it names is full, D taking the words; STR completes at once, each active lane's D going to its word, lanes ascending, no full/empty bit changing. RINGBND, ALIGN and SLOTPOISON are raised for the lowest lane that meets them, with its handle and offset, or with the VA of the slot's poison; the offset of a refused range is that of its first granule, which is the model's choice (notes/assumptions/14.md). RWAIT and LDR acquire, and LDR and STR keep the order of their lanes: they also wait for reads those lanes still owe and for words they have still to write (R214, R215, read as in notes/assumptions/8.md and 46.md). -/
def Obligations.SlotsComplete : Prop :=
  (∀ (f : FmtAB) (s : State) (c c' : Ctx) (vs : List (Nat → DWord)), c.act f.g ≠ 0 →
    Reads s .both c f.g [op32 .int f.a, op32 .int f.b] c' vs →
    (∀ L ∈ lanesOf (c.act f.g), (granuleRange c.t (loWord (val vs 0 L)) (loWord (val vs 1 L))).isSome = true) →
    ((∀ x ∈ ranges c (c.act f.g) vs, slotPoisonOf c'.s c'.t x.2.1 = none ∧ rangeFull c'.t x.2.2.1 x.2.2.2 = true) →
      readsOwed c.s c.t c.wi (c.act f.g) = false →
      Completes (.rwait f) s { c' with
        t := c'.t.observesGranules (dedup ((ranges c (c.act f.g) vs).flatMap (fun x => rangeList x.2.2.1 x.2.2.2))) c'.wi (c.act f.g) } (c.p.pc + 4)) ∧
    (∀ r ∈ [(Instr.rrel f, false), (Instr.rset f, true)], Completes r.1 s
      (let rs := ranges c (c.act f.g) vs
       let e := (clearSlotPoison c' rs).scrFence (c.act f.g) (fun g => rs.any (fun x => decide (x.2.2.1 ≤ g ∧ g < x.2.2.2)))
       e.changeBits (c.act f.g) false (dedup (rs.flatMap (fun x => rangeList x.2.2.1 x.2.2.2))) r.2 []) (c.p.pc + 4)) ∧
    (∀ L p, lowest (lanesOf (c.act f.g)) (fun J => (slotPoisonOf c'.s c'.t (loWord (val vs 0 J))).isSome) L →
      slotPoisonOf c'.s c'.t (loWord (val vs 0 L)) = some p → Traps (.rwait f) s c (trapAddr causeSLOTPOISON p.va.toNat L))) ∧
  (∀ (f : FmtAB) (s : State) (c c' : Ctx) (vs : List (Nat → DWord)) (L : Nat), Reads s .both c f.g [op32 .int f.a, op32 .int f.b] c' vs →
    lowest (lanesOf (c.act f.g)) (fun J => handleFault c.t (loWord (val vs 0 J)) ∨ rangeFault c.t (loWord (val vs 0 J)) (loWord (val vs 1 J))) L →
    ∀ i ∈ [Instr.rwait f, .rrel f, .rset f], Traps i s c { cause := causeRINGBND, lane := L, lo := loWord (val vs 0 L)
                                                           hi := BitVec.ofNat 32 (16 * bitsOf (loWord (val vs 1 L)) 16 16) }) ∧
  (∀ (f : FmtA) (s : State) (c c' : Ctx) (vs : List (Nat → DWord)) (L : Nat) (cause : BitVec 8), destOk c f.d.toNat false = true →
    Reads s .both c f.g [op32 .int f.a, op32 .int f.b] c' vs →
    lowest (lanesOf (c.act f.g)) (fun J => ∃ k, wordFault c.t (loWord (val vs 0 J)) (loWord (val vs 1 J)) k) L →
    wordFault c.t (loWord (val vs 0 L)) (loWord (val vs 1 L)) cause →
    ∀ i ∈ [Instr.ldr f, .str f], Traps i s c { cause := cause, lane := L, lo := loWord (val vs 0 L), hi := loWord (val vs 1 L) }) ∧
  (∀ (f : FmtA) (s : State) (c c' : Ctx) (vs : List (Nat → DWord)), c.act f.g ≠ 0 → destOk c f.d.toNat false = true →
    Reads s .both c f.g [op32 .int f.a, op32 .int f.b] c' vs →
    (∀ L ∈ lanesOf (c.act f.g), ∃ off, wordCheck c.t (loWord (val vs 0 L)) (loWord (val vs 1 L)) = .inr off) →
    (∀ x ∈ words c (c.act f.g) vs, c.wordsHeld (x.2.2 / 16) = false) →
    (∀ L p, lowest (lanesOf (c.act f.g)) (fun J => (slotPoisonOf c'.s c'.t (loWord (val vs 0 J))).isSome) L →
      slotPoisonOf c'.s c'.t (loWord (val vs 0 L)) = some p → Traps (.ldr f) s c (trapAddr causeSLOTPOISON p.va.toNat L)) ∧
    ((∀ x ∈ words c (c.act f.g) vs, slotPoisonOf c'.s c'.t x.2.1 = none ∧ granuleFull c'.t (x.2.2 / 16) = true) →
      readsOwed c.s c.t c.wi (c.act f.g) = false →
      ∃ w', Completes (.ldr f) s { c' with
          w := w'
          t := c'.t.observesGranules (dedup ((words c (c.act f.g) vs).map (fun x => x.2.2 / 16))) c'.wi (c.act f.g) } (c.p.pc + 4) ∧ w'.contents = { c'.w.contents with vregs := w'.vregs } ∧
        (∀ r, r ≠ f.d.toNat → w'.vregs[r]? = c'.w.vregs[r]?) ∧
        ∀ L, L < 32 → w'.v f.d.toNat L = match (words c (c.act f.g) vs).find? (fun x => x.1 == L) with
          | some x => BitVec.ofNat 32 (leNat (c'.t.scr.bytes.read x.2.2 4))
          | none => c'.w.v f.d.toNat L) ∧
    Completes (.str f) s ((words c (c.act f.g) vs).foldl (fun c x =>
      c.scrStore x.1 (wholeBytes x.2.2 (leBytes 4 (c.w.v f.d.toNat x.1).toNat))) c') (c.p.pc + 4))

namespace Sys2Proof.Claims
open Sys2Proof.Machine

/-- R165, R187, R189, R240, R316, R317, R330: the aperture refuses an element of width bytes at va for a group of instructions. -/
def apertureFault (c : Ctx) (g : AccGroup) (width va : Nat) : Prop :=
  apertureOf va = .outside ∨
  (∃ off, apertureOf va = .scratch off ∧ (off < c.t.scr.base ∨
    c.t.scr.base + c.t.scr.size + (if g = .fullEmpty then 0 else c.t.scr.exch) < off + width)) ∨
  (∃ off, apertureOf va = .cluster off ∧ (g ≠ .data ∨
    ∀ m, gangMember c.s c.t (4 * (off % 0x100000 / 0x40000) + off / 0x100000) = some m → m.placed = false ∨ m.scr.exch < off % 0x40000 + width)) ∨
  (∃ off, apertureOf va = .priv off ∧ (g = .fullEmpty ∨
    ∀ j, jobSlot c.s c.t.ident.job = some j → slotPsize j < off + width ∨ keyIn c.s (slotPkey j) = none)) ∨
  (apertureOf va = .global ∧ (g = .fullEmpty ∨ globalTop < va + width))

/-- R189, R320: a page of GLOBAL refuses an access: no mapping or a mapping past the top of HBM is NOMAP, a need the entry does not permit or an empty key slot PROT. -/
def pageFault (c : Ctx) (need : Need) (va : Nat) (cause : BitVec 8) : Prop :=
  walkCached c.s c.agent va = .nomap ∧ cause = causeNOMAP ∨
  ∃ level e, walkCached c.s c.agent va = .leaf level e ∧
    ((permitted e need = false ∨ keyIn c.s (c.agent.keyovr.getD (pteKey e)) = none) ∧ cause = causePROT ∨
     permitted e need = true ∧ (keyIn c.s (c.agent.keyovr.getD (pteKey e))).isSome ∧
      Config.hbmBytes ≤ pteAddr e + va % 2 ^ levelShift level ∧ cause = causeNOMAP)

/-- R189: a fault of one lane's element, in the rule's order: alignment, the aperture, the translation, and of a read a poisoned line of L1 (R169). Of an element on two pages, here only one faults. -/
def laneFault (c : Ctx) (g : AccGroup) (need : Need) (align width va L : Nat) (cause : BitVec 8) : Prop :=
  va % align ≠ 0 ∧ cause = causeALIGN ∨
  va % align = 0 ∧
    (apertureFault c g width va ∧ cause = causePROT ∨
     (apertureOf va = .global ∧ ¬apertureFault c g width va ∧
       (pageFault c need va cause ∧ pageOf va = pageOf (va + width - 1) ∨
        pageFault c need (pageOf (va + width - 1) * 0x10000) cause ∧ pageOf va ≠ pageOf (va + width - 1) ∧ ∃ m, translate c.s c.agent va need = .ok m)) ∨
     (∃ ps es, laneAccess c.s c.t c.w c.agent g need L va width = .ok ps es ∧ need ≠ .w ∧ elemPoisoned c.s c.t.core ps = true ∧ cause = causeECCU))

/-- R189: lane L is active, its element meets a fault, and the check of no lower active lane answers one. -/
def lowestFault (c : Ctx) (act : LaneMask) (a : BitVec 7) (g : AccGroup) (need : Need) (align width L : Nat) (cause : BitVec 8) : Prop :=
  L ∈ lanesOf act ∧ laneFault c g need align width (c.ea a L) L cause ∧
  ∀ J ∈ lanesOf act, J < L → ∀ k, laneCheck c g need align width (c.ea a J) J ≠ .fault k

/-- R191: the loads with their width in bytes and what they make of the value. -/
def loads (f : FmtM) : List (Instr × Nat × (Nat → Nat)) :=
  [(.ldB8n f, 1, fun v => v), (.ldB8i f, 1, signFrom 8), (.ldB16n f, 2, fun v => v), (.ldB16i f, 2, signFrom 16),
   (.ldB32 f, 4, fun v => v), (.ldB64 f, 8, fun v => v), (.ldB128 f, 16, fun v => v)]

/-- R191: the stores with their width in bytes. -/
def stores (f : FmtM) : List (Instr × Nat) :=
  [(.stB8 f, 1), (.stB16 f, 2), (.stB32 f, 4), (.stB64 f, 8), (.stB128 f, 16)]

/-- R199: the atomics with the width of the operand, whether they compare and swap, and the new value from the old one and the operands. -/
def atomics (f : FmtAt) : List (Instr × AtomicKind × (Nat → Nat → Nat → Nat)) :=
  [(.aaddI32 f, k32, on32 (fun a b => a + b)), (.aaddI64 f, k64, fun old v _ => (old + v) % 2 ^ 64), (.aaddF32 f, k32, on32 f32Add),
   (.aaddB2 f, k32, on32 (halves (addCode bf16))),
   (.aminI32 f, k32, on32 (fun a b => if a.toInt ≤ b.toInt then a else b)), (.aminN32 f, k32, fun old v _ => min old v),
   (.amaxI32 f, k32, on32 (fun a b => if a.toInt ≥ b.toInt then a else b)), (.amaxN32 f, k32, fun old v _ => max old v),
   (.aand f, k32, on32 (fun a b => a &&& b)), (.aor f, k32, on32 (fun a b => a ||| b)), (.axor f, k32, on32 (fun a b => a ^^^ b)),
   (.axchB32 f, k32, fun _ v _ => v), (.axchB64 f, k64, fun _ v _ => v),
   (.acasB32 f, ⟨4, true⟩, fun old v n => if old = v then n else old), (.acasB64 f, ⟨8, true⟩, fun old v n => if old = v then n else old),
   (.aincb f, k32, fun old v _ => if old < v then (old + 1) % 2 ^ 32 else old)]

end Sys2Proof.Claims

/-- R184, R186 to R191, R208: a load completes once every active lane's element passes the checks, its values taken now and bound to the read-class flag; a store without release, or with release once the earlier accesses of its lanes have completed (R212), completes the same way, its bytes accepted in lane order. That a load takes its values at issue, those its lane sees then, and writes them later is the model's choice (notes/assumptions/8.md), as is which earlier accesses hold it back (mayAccess). R188, R189: the lowest active lane with a fault traps with its cause and address: ALIGN, PROT, NOMAP, or of a load ECCU. -/
def Obligations.LoadsAndStoresComplete : Prop :=
  (∀ (f : FmtM) (s : State) (c : Ctx) (L : Nat) (cause : BitVec 8), Issues s .accessOnly c → f.scope.toNat ≤ 5 → baseOk c f.a = true →
    (∀ r ∈ loads f, f.order.toNat ≤ 1 → dataOk c f.d.toNat r.2.1 = true →
      lowestFault c (c.act f.g) f.a .data .r (if f.order = 0 then 1 else r.2.1) r.2.1 L cause → Traps r.1 s c (trapAddr cause (c.ea f.a L) L)) ∧
    (∀ r ∈ stores f, f.order = 0 ∨ f.order = 2 → dataOk c f.d.toNat r.2 = true →
      lowestFault c (c.act f.g) f.a .data .w (if f.order = 0 then 1 else r.2) r.2 L cause → Traps r.1 s c (trapAddr cause (c.ea f.a L) L))) ∧
  ∀ (f : FmtM) (s : State) (c : Ctx) (ls : List (Nat × List Place)) (es : List TlbEntry), Issues s .accessOnly c → c.act f.g ≠ 0 →
    f.scope.toNat ≤ 5 → baseOk c f.a = true →
    (∀ r ∈ loads f, f.order.toNat ≤ 1 → dataOk c f.d.toNat r.2.1 = true →
      checkLanes c (c.act f.g) f.a .data .r (if f.order = 0 then 1 else r.2.1) r.2.1 = .ok ls es →
      (∀ x ∈ ls, elemL2Poisoned c.s x.2 = false) → mayAccess c ls = true → unverified c f.order f.scope ls = false →
      Completes r.1 s ((((c.noteTlb es).copyLines f.cache.toNat ls).acceptLoad (sectorsOf ls) (ls.flatMap (fun x =>
        regWrites f.d.toNat (max 4 r.2.1) x.1 (r.2.2 (readElem (laneView c.s c.t.core c.t.id c.wi x.1) c.t x.2))))).ordered f.order (c.act f.g))
        (c.p.pc + 4)) ∧
    (∀ r ∈ stores f, f.order = 0 ∨ (f.order = 2 ∧ releaseReady c (c.act f.g) f.scope.toNat = true) → dataOk c f.d.toNat r.2 = true →
      checkLanes c (c.act f.g) f.a .data .w (if f.order = 0 then 1 else r.2) r.2 = .ok ls es → mayAccess c ls = true →
      Completes r.1 s (((c.noteTlb es).acceptStores (c.ea f.a) f.cache.toNat f.scope.toNat
        (ls.map (fun x => { lane := x.1, bytes := placeBytes x.2 (dataOf c.w f.d.toNat r.2 x.1) }))).ordered f.order (c.act f.g)) (c.p.pc + 4))

/-- R190, R199, R208: an atomic completes once its lanes pass the checks, no earlier store of the core to its bytes is pending, and with release order its release is ready; the lanes act in ascending order, each finding what the ones before left, and the old values are bound to the read-class flag. That the atomic is performed and its old values are taken at issue, and which earlier accesses hold it back (mayAccess, releaseReady, the core's pending stores), is the model's choice (notes/assumptions/8.md). R188, R189: the lowest active lane with a fault traps with its cause and address: ALIGN, PROT, NOMAP or ECCU. -/
def Obligations.AtomicsComplete : Prop :=
  (∀ (f : FmtAt) (s : State) (c : Ctx) (L : Nat) (cause : BitVec 8), Issues s .accessOnly c → f.scope.toNat ≤ 5 → baseOk c f.a = true →
    ∀ r ∈ atomics f, atomicOk c f.d.toNat r.2.1 = true →
      lowestFault c (c.act f.g) f.a .atomic .rw r.2.1.width r.2.1.width L cause → Traps r.1 s c (trapAddr cause (c.ea f.a L) L)) ∧
  ∀ (f : FmtAt) (s : State) (c : Ctx) (ls : List (Nat × List Place)) (es : List TlbEntry), Issues s .accessOnly c → c.act f.g ≠ 0 →
    f.scope.toNat ≤ 5 → baseOk c f.a = true →
    ∀ r ∈ atomics f, atomicOk c f.d.toNat r.2.1 = true →
      checkLanes c (c.act f.g) f.a .atomic .rw r.2.1.width r.2.1.width = .ok ls es → (∀ x ∈ ls, elemL2Poisoned c.s x.2 = false) →
      (∀ st ∈ (c.s.core c.t.core).stores, sharesByte st.bytes (placeAddrs ls) = false) →
      (bitOf f.order 1 = true → releaseReady c (c.act f.g) f.scope.toNat = true) →
      mayAccess c ls = true → unverified c f.order f.scope ls = false →
      Completes r.1 s (let x := atomicLanes r.2.1 f.d.toNat r.2.2 (c.noteTlb es) ls []
        (x.1.acceptLoad (sectorsOf ls) x.2).ordered f.order (c.act f.g)) (c.p.pc + 4)

/-- R146, R148, R153, R192: an LDQ whose lanes meet no trap reserves the tail entry of its queue, each lane INFLIGHT, PENDING, POISON or INVALID, and completes; an STQ whose head entry delivers and whose lanes pass the checks pops it and accepts its stores. That an INFLIGHT lane holds the data it will land from the issue on is the model's choice (notes/assumptions/8.md; R217 lets the read happen any time before the lane lands). R153, R189: of the faults only the aperture's PROT and ECCU trap an LDQ, in its lowest such lane; an STQ traps as a store does, once its entry delivers. R160: an STQ whose head entry is poisoned in an active lane raises POISON. -/
def Obligations.QueueMemoryComplete : Prop :=
  (∀ (f : FmtLdq) (s : State) (c : Ctx) (q : Queue) (L : Nat) (cause : BitVec 8), ∀ r ∈ [(Instr.ldqB16 f, 0), (Instr.ldqB32 f, 1), (Instr.ldqB64 f, 2)],
    Issues s .accessOnly c → c.t.queue? f.q.toNat = some q → isProducer q c.w = true → q.dir = false → q.width = BitVec.ofNat 2 r.2 →
    baseOk c f.a = true → L ∈ lanesOf (c.act f.g) →
    (apertureFault c .data (2 * 2 ^ r.2) (c.ea f.a L) ∧ cause = causePROT ∨
     ∃ ps es, laneAccess c.s c.t c.w c.agent .data .r L (c.ea f.a L) (2 * 2 ^ r.2) = .ok ps es ∧ elemPoisoned c.s c.t.core ps = true ∧ cause = causeECCU) →
    (∀ J ∈ lanesOf (c.act f.g), J < L → ∀ k, ldqLane c (2 * 2 ^ r.2) (c.ea f.a J) J ≠ .inl k) →
    Traps r.1 s c (trapAddr cause (c.ea f.a L) L)) ∧
  (∀ (f : FmtStq) (s : State) (c : Ctx) (q : Queue) (e : QEntry), ∀ r ∈ [(Instr.stqB16 f, 0), (Instr.stqB32 f, 1), (Instr.stqB64 f, 2)],
    Issues s .accessOnly c → (f.order = 0 ∨ f.order = 2) → f.scope.toNat ≤ 5 → c.t.queue? f.q.toNat = some q → isConsumer q c.w = true →
    q.dir = true → q.width = BitVec.ofNat 2 r.2 → baseOk c f.a = true → popEntries c.t [f.q.toNat] = some [e] →
    (∀ i, popPoisoned c.s c.t e (c.act f.g) i → Traps r.1 s c i) ∧
    (∀ L cause, popFate c.s c.t [e] (c.act f.g) = .ok → readsOwed c.s c.t c.wi (c.act f.g) = false →
      lowestFault c (c.act f.g) f.a .data .w (if f.order = 0 then 1 else 2 * 2 ^ r.2) (2 * 2 ^ r.2) L cause →
      Traps r.1 s c (trapAddr cause (c.ea f.a L) L))) ∧
  (∀ (f : FmtLdq) (s : State) (c : Ctx) (q : Queue) (ok : List (Nat × LdqLane × List TlbEntry × List Place)),
    ∀ r ∈ [(Instr.ldqB16 f, 0), (Instr.ldqB32 f, 1), (Instr.ldqB64 f, 2)],
    Issues s .accessOnly c → c.act f.g ≠ 0 → c.t.queue? f.q.toNat = some q → isProducer q c.w = true → q.dir = false →
    q.width = BitVec.ofNat 2 r.2 → baseOk c f.a = true → q.canReserve = true →
    (lanesOf (c.act f.g)).map (fun L => (L, ldqLane c (2 * 2 ^ r.2) (c.ea f.a L) L)) = ok.map (fun x => (x.1, Sum.inr x.2)) →
    (∀ x ∈ ok, elemL2Poisoned c.s x.2.2.2 = false) →
    pagesFit c.s c.t.core c.t.ident.job (missedPages ok) = true → mayAccess c (ldqHits ok) = true →
    ∃ c', Completes r.1 s c' (c.p.pc + 4) ∧
      let x := ldqLanes c f.q.toNat (ok.map (fun x => (x.1, x.2.1))) (c.ea f.a)
      let u := requestPages x.1 c.t.core c.t.ident.job (missedPages ok)
      let flag := if x.2.any (fun l => l.st == .inflight) then flagOf c.p.setA else none
      c'.t = (c.t.setQueue (q.reserve { lanes := x.2, flag := flag.map (fun n => (c.wi, n)), by_ := c.wi, op := u.nextId, keyovr := c.agent.keyovr })).signals
        (.entry u.nextId) c.wi (c.act f.g) ∧
      c'.w = c.w.bind flag ∧ c'.p = c.p ∧ c'.s = Machine.noteTlb u.fresh.2 c.agent (ok.flatMap (fun x => x.2.2.1))) ∧
  (∀ (f : FmtStq) (s : State) (c : Ctx) (q : Queue) (e : QEntry) (ls : List (Nat × List Place)) (tl : List TlbEntry),
    ∀ r ∈ [(Instr.stqB16 f, 0), (Instr.stqB32 f, 1), (Instr.stqB64 f, 2)],
    Issues s .accessOnly c → c.act f.g ≠ 0 → (f.order = 0 ∨ (f.order = 2 ∧ releaseReady c (c.act f.g) f.scope.toNat = true)) →
    f.scope.toNat ≤ 5 → c.t.queue? f.q.toNat = some q → isConsumer q c.w = true → q.dir = true → q.width = BitVec.ofNat 2 r.2 →
    baseOk c f.a = true → popEntries c.t [f.q.toNat] = some [e] → popFate c.s c.t [e] (c.act f.g) = .ok →
    readsOwed c.s c.t c.wi (c.act f.g) = false →
    checkLanes c (c.act f.g) f.a .data .w (if f.order = 0 then 1 else 2 * 2 ^ r.2) (2 * 2 ^ r.2) = .ok ls tl → mayAccess c ls = true →
    Completes r.1 s ((((c.popHead f.q.toNat (c.act f.g)).noteTlb tl).acceptStores (c.ea f.a) f.cache.toNat f.scope.toNat
      (ls.map (fun x => { lane := x.1, bytes := placeBytes x.2 (e.deliver x.1).toNat }))).ordered f.order (c.act f.g)) (c.p.pc + 4))

/-- R193 with R166: LDFE takes its words once the granules it asks to be full are, emptying them when X bit 1 asks it; STFE writes its words once its granules are empty when X asks it, setting them full for X = 1 and 3, and for X = 3 p6 says whether it did. A word written with its bit set full is one with that change (R205): both take effect once the accesses its lanes made before have completed. R188, R189: the lowest active lane with a fault traps with its cause and address. Before its own change takes effect a warp's next access to the granule waits (notes/assumptions/8.md), and a test of an STFE waits at issue for a set of the granule that another warp's held change is still to make (notes/assumptions/48.md). -/
def Obligations.FullEmptyComplete : Prop :=
  ∀ (g : BitVec 4) (d : BitVec 6) (a : BitVec 7) (x : BitVec 2) (s : State) (c : Ctx) (ls : List (Nat × List Place)) (es : List TlbEntry),
    Issues s .accessOnly c → c.act g ≠ 0 → destOk c d.toNat false = true → baseOk c a = true →
    (∀ L cause, (lowestFault c (c.act g) a .fullEmpty .r 4 4 L cause → Traps (.ldfe g d a x) s c (trapAddr cause (c.ea a L) L)) ∧
      (lowestFault c (c.act g) a .fullEmpty .w 4 4 L cause → Traps (.stfe g d a x) s c (trapAddr cause (c.ea a L) L))) ∧
    (checkLanes c (c.act g) a .fullEmpty .r 4 4 = .ok ls es → c.heldHere (granulesOf ls) = false →
      (bitOf x 0 = true → readsOwed c.s c.t c.wi (c.act g) = false ∧ ∀ k ∈ granulesOf ls, granuleFull c.t k = true) →
      Completes (.ldfe g d a x) s (let e := c.acceptLoad 0 (ls.flatMap (fun y => regWrites d.toNat 4 y.1 (readElem c.s c.t y.2)))
        let c' := if bitOf x 0 then { e with t := e.t.observesGranules (granulesOf ls) e.wi (c.act g) } else e
        if bitOf x 1 then { c' with t := c'.t.setGranules (granulesOf ls) false } else c') (c.p.pc + 4)) ∧
    (checkLanes c (c.act g) a .fullEmpty .w 4 4 = .ok ls es → c.heldHere (granulesOf ls) = false →
      let set : Ctx := (c.changeBits (c.act g) true (granulesOf ls) true (ls.flatMap (stfeWord c d.toNat))).scrFence (c.act g) (granulesOf ls).contains
      let put := stfeWrite c d.toNat ls
      (x = 0 → Completes (.stfe g d a x) s put (c.p.pc + 4)) ∧
      ((∀ k ∈ granulesOf ls, granuleFull c.t k = false ∧ c.t.filling k = false) →
        (x = 1 → Completes (.stfe g d a x) s set (c.p.pc + 4)) ∧ (x = 2 → Completes (.stfe g d a x) s put (c.p.pc + 4)) ∧
        (x = 3 → Completes (.stfe g d a x) s (set.withW (set.w.setP 6 (c.act g) (fun _ => true))) (c.p.pc + 4))) ∧
      (x ≠ 0 → (∀ k ∈ granulesOf ls, granuleFull c.t k = false) → (∃ k ∈ granulesOf ls, c.t.filling k = true) →
        exec (.stfe g d a x) s = .next (finishRes c .stall)) ∧
      ((x = 1 ∨ x = 2) → (∃ k ∈ granulesOf ls, granuleFull c.t k = true) →
        exec (.stfe g d a x) s = .next (finishRes c (.block c 3))) ∧
      (x = 3 → (∃ k ∈ granulesOf ls, granuleFull c.t k = true) →
        Completes (.stfe g d a x) s (c.withW (c.w.setP 6 (c.act g) (fun _ => false))) (c.p.pc + 4)))

/-- R194 to R198, R212: PREF changes nothing; DISCARD drops the ranges at L1, at scope 3 at L2 too; WBACK performs the core's stores to its ranges and at scopes 4 and 5 writes L2's bytes back; FENCE completes once its release is ready, an acquire fence once every read its lanes made before has read its value, and `.sc` and `.acqrel` both release and acquire; STREAM sets STREAMID. DISCARD and WBACK end with the issuing split past the word. Which bytes queued for a dropped line are lost is a free choice of the model (notes/assumptions/18.md), and a dropped line keeps its poison mark (notes/assumptions/48.md); what a fence waits for (releaseReady, rereads, readsOwed) and hands on is the model's reading (notes/assumptions/8.md and 46.md). R188, R189: the lowest active lane whose address or length is not a multiple of 32, or longer than 1 MiB, raises ALIGN, one outside every aperture PROT, one whose page refuses it PROT or NOMAP. -/
def Obligations.CacheAndOrderComplete : Prop :=
  (∀ (g : BitVec 4) (a : BitVec 7) (k : BitVec 2) (s : State) (c : Ctx), Issues s .accessOnly c → baseOk c a = true →
    Completes (.pref g a k) s c (c.p.pc + 4)) ∧
  (∀ (g : BitVec 4) (o : BitVec 2) (k : BitVec 3) (s : State) (c : Ctx), Issues s .accessOnly c → k.toNat ≤ 5 →
    (o = 1 → (c.act g = 0 ∨ rereads c.t c.wi (c.act g) c.s.nextId = false ∧ readsOwed c.s c.t c.wi (c.act g) = false) →
      Completes (.fence g o k) s (c.acquires (c.act g)) (c.p.pc + 4)) ∧
    (o ≠ 1 → releaseReady c (c.act g) k.toNat = true →
      Completes (.fence g o k) s (if o = 2 then c.releases (c.act g) else (c.releases (c.act g)).acquires (c.act g)) (c.p.pc + 4))) ∧
  (∀ (g i : BitVec 4) (s : State) (c : Ctx), Issues s .accessOnly c →
    Completes (.stream g i) s (if c.act g = 0 then c else c.withW { c.w with streamId := i }) (c.p.pc + 4)) ∧
  (∀ (g : BitVec 4) (d : BitVec 6) (a : BitVec 7) (k : BitVec 3) (s : State) (c : Ctx) (l : List PRange), Issues s .accessOnly c →
    c.act g ≠ 0 → destOk c d.toNat false = true → baseOk c a = true → (k = 1 ∨ k = 3) →
    checkRanges c (c.act g) a d.toNat .w = .inr l →
    exec (.discard g d a k) s = .next (finishRes c (.gone (if k = 3 then discardL2 (discardL1 c.advance.commit c.t.core l) l
      else discardL1 c.advance.commit c.t.core l)))) ∧
  (∀ (g : BitVec 4) (d : BitVec 6) (a : BitVec 7) (k : BitVec 3) (p : BitVec 2) (s : State) (c : Ctx) (l : List PRange),
    Issues s .accessOnly c → c.act g ≠ 0 → destOk c d.toNat false = true → baseOk c a = true → (p = 0 ∨ p = 3) →
    checkRanges c (c.act g) a d.toNat .r = .inr l →
    (k = 1 → Completes (.wback g d a k p) s c (c.p.pc + 4)) ∧
    (2 ≤ k.toNat → k.toNat ≤ 5 → (∀ st ∈ rangeStores c.s c.t.core l, st.stream = none) →
      let done := (rangeStores c.s c.t.core l).foldl (fun s st => performStore s c.t.core st) c.advance.commit
      exec (.wback g d a k p) s = .next (finishRes c (.gone (if k.toNat ≤ 3 then done
        else (done.die.l2.filter (fun x => inRanges l (x.1 / 2 ^ 40) (x.1 % 2 ^ 40))).foldl
          (fun s x => writeBackByte s (x.1 / 2 ^ 40) (x.1 % 2 ^ 40)) done))))) ∧
  (∀ (g : BitVec 4) (d : BitVec 6) (a : BitVec 7) (k : BitVec 3) (p : BitVec 2) (s : State) (c : Ctx) (L : Nat) (cause : BitVec 8),
    Issues s .accessOnly c → destOk c d.toNat false = true → baseOk c a = true → L ∈ lanesOf (c.act g) →
    let len (J : Nat) : Nat := (c.w.v d.toNat J).toNat
    let faults (need : Need) (J : Nat) (k : BitVec 8) : Prop :=
      let va := c.ea a J
      len J ≠ 0 ∧
        ((va % 32 ≠ 0 ∨ len J % 32 ≠ 0 ∨ 0x100000 < len J) ∧ k = causeALIGN ∨
         va % 32 = 0 ∧ len J % 32 = 0 ∧ len J ≤ 0x100000 ∧
          ((apertureOf va = .outside ∨ apertureOf va = .global ∧ globalTop < va + len J) ∧ k = causePROT ∨
           apertureOf va = .global ∧ va + len J ≤ globalTop ∧ va % 0x10000 + len J ≤ 0x10000 ∧ pageFault c need va k))
    ((k = 1 ∨ k = 3) → faults .w L cause → (∀ J ∈ lanesOf (c.act g), J < L → ∀ x, rangeCheck c .w (c.ea a J) (len J) ≠ .fault x) →
      Traps (.discard g d a k) s c (trapAddr cause (c.ea a L) L)) ∧
    (1 ≤ k.toNat → k.toNat ≤ 5 → (p = 0 ∨ p = 3) → faults .r L cause →
      (∀ J ∈ lanesOf (c.act g), J < L → ∀ x, rangeCheck c .r (c.ea a J) (len J) ≠ .fault x) →
      Traps (.wback g d a k p) s c (trapAddr cause (c.ea a L) L)))

namespace Sys2Proof.Claims
open Sys2Proof.Machine

/-- The PC at which lane L of the issuing split continues after a transfer: its target where the guard holds, else the next word (R62). -/
def nextPc (c : Ctx) (g : BitVec 4) (tgt : Nat → DWord) (L : Nat) : DWord := if inMask (c.act g) L then tgt L else c.p.pc + 4

/-- Every lane of the split continues at one PC. -/
def oneTarget (c : Ctx) (g : BitVec 4) (tgt : Nat → DWord) (pc : DWord) : Prop :=
  c.p.mask ≠ 0 ∧ ∀ L, L < 32 → inMask c.p.mask L = true → nextPc c g tgt L = pc

/-- The target of every active lane is aligned (R132). -/
def aligned (c : Ctx) (g : BitVec 4) (tgt : Nat → DWord) : Prop := ∀ L, L < 32 → inMask (c.act g) L = true → bitsOf (tgt L) 0 2 = 0

/-- CALL's link: the next word in v6:v7 of the active lanes (R131). -/
def linked (c : Ctx) (g : BitVec 4) : Ctx := c.withW (c.w.setV64 6 (c.act g) (fun _ => c.p.pc + 4))

end Sys2Proof.Claims

/-- R129 to R132 with R6, R22, R62: BRA, CALL, RET and JMPI whose lanes all continue at one address, the next word for a lane the guard leaves out, go there whole; BRU goes to its target when the guard holds in every lane of the split and to the next word when it holds in none. CALL links the next word in v6:v7 of the active lanes. RET and JMPI take the targets of the lanes, which must be aligned. R130, R132: BRU whose guard holds in some but not all lanes of the split takes DIVERGE; RET and JMPI with a misaligned target in an active lane take ALIGN in the lowest such lane, and change nothing. -/
def Obligations.BranchesComplete : Prop :=
  ((∀ (f : FmtC) (s : State) (c : Ctx) (pc : DWord), Issues s .both c → oneTarget c f.g (fun _ => target c f.off) pc →
    Completes (.bra f) s (goes c pc) pc ∧ Completes (.call f) s (goes (linked c f.g) pc) pc) ∧
  (∀ (f : FmtC) (s : State) (c : Ctx), Issues s .both c → c.p.mask ≠ 0 →
    (c.act f.g = c.p.mask → Completes (.bru f) s (goes c (target c f.off)) (target c f.off)) ∧
    (c.act f.g = 0 → Completes (.bru f) s c (c.p.pc + 4))) ∧
  (∀ (g : BitVec 4) (s : State) (c : Ctx) (pc : DWord), Issues s .both c → aligned c g (c.w.v64 6) → oneTarget c g (c.w.v64 6) pc →
    Completes (.ret g) s (goes c pc) pc) ∧
  (∀ (g : BitVec 4) (a : BitVec 7) (s : State) (c : Ctx) (pc : DWord), Issues s .both c → a.toNat < 0x60 → (op64 a).ok c = true →
    aligned c g ((op64 a).value c) → oneTarget c g ((op64 a).value c) pc → Completes (.jmpi g a) s (goes c pc) pc)) ∧
  ((∀ (f : FmtC) (s : State) (c : Ctx), Issues s .both c → c.act f.g ≠ 0 → c.act f.g ≠ c.p.mask → Traps (.bru f) s c (plain causeDIVERGE)) ∧
  (∀ (g : BitVec 4) (s : State) (c : Ctx) (L : Nat), Issues s .both c →
    laneList.find? (fun L => inMask (c.act g) L && bitsOf (c.w.v64 6 L) 0 2 != 0) = some L →
    Traps (.ret g) s c (trapAddr causeALIGN (c.w.v64 6 L).toNat L)) ∧
  (∀ (g : BitVec 4) (a : BitVec 7) (s : State) (c : Ctx) (L : Nat), Issues s .both c → a.toNat < 0x60 → (op64 a).ok c = true →
    laneList.find? (fun L => inMask (c.act g) L && bitsOf ((op64 a).value c L) 0 2 != 0) = some L →
    Traps (.jmpi g a) s c (trapAddr causeALIGN ((op64 a).value c L).toNat L)))

namespace Sys2Proof.Claims
open Sys2Proof.Machine

/-- R64: the split of a list that gives up its entry: a parked one before a blocked one before one that waits for a merge, the oldest of its kind; never a live one. -/
def spillsFirst (l : List Split) (v : Split) : Prop :=
  let rank (p : Split) : Nat := match p.st with | .parked => 0 | .blocked => 1 | .waitingMerge => 2 | .live => 3
  v ∈ l ∧ v.st ≠ .live ∧ ∀ x ∈ l, x ≠ v → rank v < rank x ∨ rank v = rank x ∧ olderSeq v.seq x.seq = true

/-- R62: the targets of a transfer, ascending by address, each with exactly the lanes of the split that continue there. -/
def targetsAre (mask : LaneMask) (next : Nat → DWord) (ts : List Target) : Prop :=
  ts.Pairwise (fun x y => x.pc.toNat < y.pc.toNat) ∧
  (∀ t ∈ ts, t.mask ≠ 0 ∧ ∀ L, L < 32 → (inMask t.mask L = true ↔ inMask mask L = true ∧ next L = t.pc)) ∧
  ∀ L, L < 32 → inMask mask L = true → ∃ t ∈ ts, t.pc = next L

/-- R63: a new split at a target, before its SEQ: parked, not armed, with the header R22 gives and the latch of the split it comes from. -/
def newSplit (p : Split) (now : Nat) (parent : Option (BitVec 16)) (t : Target) : Split :=
  { seq := 0, parent := parent, pc := t.pc, mpc := 0, mask := t.mask, arrived := 0, arm := false, st := .parked
    setA := if t.pc = p.pc + 4 then p.setA else 15, setB := if t.pc = p.pc + 4 then p.setB else 15
    blk := 0, latch := p.latch, immRun := 0, wake := none, arrival := none, since := now }

/-- R63 to R66: w takes the new splits one after another, each with the next SEQ: in a free entry, else in that of the split R64 names among those that stood in the table before (old) apart from own, which goes to the spill area as it stands, else, every such split being live, straight in the spill area of cap entries. r is the warp after the last; none when a full spill area is met. -/
def records (cap : Nat) (own : BitVec 16) (old : List (BitVec 16)) : Warp → List Split → Option Warp → Prop
  | w, [], r => r = some w
  | w, x :: rest, r =>
    let kid : Split := { x with seq := w.seqCtr }
    let others := w.table.filter (fun p => p.seq != own && old.contains p.seq)
    let full := 8 ≤ w.table.length
    (¬full ∧ records cap own old { w with seqCtr := w.seqCtr + 1, table := w.table ++ [kid] } rest r) ∨
    (full ∧ cap ≤ w.spilled.length ∧ r = none) ∨
    (full ∧ w.spilled.length < cap ∧ ∃ v, spillsFirst others v ∧
      records cap own old { w with seqCtr := w.seqCtr + 1, table := dropSplit w.table v.seq ++ [kid], spilled := w.spilled ++ [v.asSpilled] } rest r) ∨
    (full ∧ w.spilled.length < cap ∧ (∀ x ∈ others, x.st = .live) ∧
      records cap own old { w with seqCtr := w.seqCtr + 1, spilled := w.spilled ++ [kid] } rest r)

/-- R59: the context with every SEQ by which the machine names a split of the issuing warp renumbered by re: the splits and their parents, the live slots, the record of a remote fault, multicasts still to be reported and under way, the halt record, announcements for a regroup, TRAPSPLIT and the SEQ of TRAPCAUSE2 of a trap of this warp, the handler, the splits in skid, remote requests; the counter continues from n. -/
def renumbered (re : BitVec 16 → BitVec 16) (n : Nat) (c : Ctx) : Ctx :=
  let split (p : Split) : Split := { p with seq := re p.seq, parent := p.parent.map re }
  let own (k : Nat) (q : BitVec 16) : BitVec 16 := if k = c.wi then re q else q
  let r := c.t.trap.regs
  { c with
    p := split c.p
    w := { c.w with
      table := c.w.table.map split, spilled := c.w.spilled.map split, seqCtr := BitVec.ofNat 16 n
      slots := c.w.slots.map (fun l => { l with seq := l.seq.map re })
      rfault := c.w.rfault.map (fun f => { f with seq := re f.seq })
      mcast := { c.w.mcast with pending := c.w.mcast.pending.map (fun x => (re x.1, x.2)) }
      halt := { c.w.halt with slots := c.w.halt.slots.map (fun (l : Option HaltSlot) => l.map (fun h => { h with seq := re h.seq })) } }
    t := { c.t with
      regroup := c.t.regroup.map (fun a => { a with seq := own a.warp a.seq })
      trap := { c.t.trap with
        regs := if c.t.trap.warp = some c.wi then { r with
            split := (re (r.split.setWidth 16)).setWidth 32
            cause2 := setBits r.cause2 16 16 (re (BitVec.ofNat 16 (bitsOf r.cause2 16 16))).toNat } else r
        handler := c.t.trap.handler.map (fun h => { h with seq := own h.warp h.seq })
        skid := c.t.trap.skid.map (fun l => l.map (fun k => { k with seq := own k.warp k.seq })) } }
    s := { c.s with
      cores := c.s.cores.map (fun k => { k with remote := k.remote.map (fun x =>
        if x.team = c.t.id ∧ x.warp = c.wi then { x with seq := re x.seq } else x) })
      fab := { c.s.fab with mcasts := c.s.fab.mcasts.map (fun x =>
        if x.team = c.t.id ∧ x.warp = c.wi then { x with seq := re x.seq } else x) } } }

/-- R59: c1 is the context in which a transfer that takes n SEQ values takes them: c itself while the last of them lies less than 0x7F00 ahead of the oldest living split, else c with the splits, which stand in an order of age, renumbered by their ranks. -/
def rebases (n : Nat) (c c1 : Ctx) : Prop :=
  (c1 = c ∧ ∀ o, oldestOf c.w.splits = some o → (c.w.seqCtr - o.seq).toNat + n ≤ 0x7F00) ∨
  ∃ o l, (o :: l).Perm c.w.splits ∧ (o :: l).Pairwise (fun x y => olderSeq x.seq y.seq = true) ∧
    0x7F00 < (c.w.seqCtr - o.seq).toNat + n ∧
    c1 = renumbered (fun q => match (o :: l).findIdx? (fun p => p.seq == q) with
      | some i => BitVec.ofNat 16 i
      | none => q) (l.length + 1) c

/-- R62 to R66: instruction i, issued in the context c0 and with c the context its transfer starts from, diverges: its lanes continue at two or more targets. -/
def diverges (i : Instr) (s : State) (c0 c : Ctx) (next : Nat → DWord) : Prop :=
  ∀ (t0 : Target) (rest : List Target) (c1 : Ctx), targetsAre c.p.mask next (t0 :: rest) → rest ≠ [] →
    rebases (if c.p.arm then rest.length + 1 else rest.length) c c1 →
    let cap := c1.t.ident.kern.spill
    let old := c1.w.table.map (·.seq)
    let now := c1.s.clock
    (c.p.arm = false → ∀ r, records cap c1.p.seq old c1.w (rest.map (newSplit c1.p now c1.p.parent)) r →
      (r = none → Traps i s c0 (plain causeSPILL)) ∧
      (∀ w, r = some w → exec i s = .next (finishRes c0 (.at_ { (goes c1 t0.pc) with
        w := w, p := { (goes c1 t0.pc).p with mask := t0.mask } })))) ∧
    (c.p.arm = true →
      let parent : Split := { c1.p with st := .waitingMerge, pc := c1.p.mpc, arrived := 0, arm := false, immRun := 0, blk := 0, arrival := none }
      let first := c1.w.seqCtr
      ∀ r, records cap c1.p.seq old { c1.w with table := putSplit c1.w.table parent }
          ((t0 :: rest).map (newSplit c1.p now (some c1.p.seq))) r →
        (r = none → Traps i s c0 (plain causeSPILL)) ∧
        (∀ w, r = some w → exec i s = .next (finishRes c0 (.left ({ c1 with
          t := if c1.inHandler then c1.passHandler first else c1.t
          p := parent
          w := { w with
            table := w.table.map (fun x => if x.seq = first then { x with st := .live } else x)
            slots := w.slots.map (fun l => if l.seq = some c1.p.seq then { seq := some first, issued := 0 } else l) } } : Ctx).commit c1.p.seq))))

end Sys2Proof.Claims

/-- R59, R62 to R66, R129, R131, R132: BRA, CALL, RET and JMPI whose lanes part. Unarmed, the split keeps the lowest target with the lanes that go there, and one new split for each other target, PARKED and with the split's parent, takes the next SEQ. Armed, the split waits for the merge at its MPC, and a new split, its child, takes each target, the lowest the live slot. The new splits take free entries, then those of the splits R64 names, then the spill area; a full spill area is a SPILL trap. A transfer that would take a SEQ 0x7F00 or more ahead of the oldest living split first renumbers every split by its rank of age. CALL has linked by then. In a handler the first child of an armed split then is the handler's split, which is the model's choice (notes/assumptions/11.md). -/
def Obligations.DivergingSplits : Prop :=
  (∀ (f : FmtC) (s : State) (c : Ctx), Issues s .both c →
    diverges (.bra f) s c c (nextPc c f.g (fun _ => target c f.off)) ∧
    diverges (.call f) s c (linked c f.g) (nextPc c f.g (fun _ => target c f.off))) ∧
  (∀ (g : BitVec 4) (s : State) (c : Ctx), Issues s .both c → aligned c g (c.w.v64 6) →
    diverges (.ret g) s c c (nextPc c g (c.w.v64 6))) ∧
  (∀ (g : BitVec 4) (a : BitVec 7) (s : State) (c : Ctx), Issues s .both c → a.toNat < 0x60 → (op64 a).ok c = true →
    aligned c g ((op64 a).value c) → diverges (.jmpi g a) s c c (nextPc c g ((op64 a).value c)))

/-- R67, R69, R70, R133, R134: with the guard that always holds, MERGEAT sets MPC and ARM; a MERGE at which no parent of the split waits does nothing, and clears ARM at the armed split's own MPC. YIELD does nothing while no split waits; else, outside a handler, the live split goes on at the next word PARKED, and the split that has waited longest takes its slot. In a handler YIELD does nothing, which is the model's reading (notes/assumptions/11.md). With the guard that never holds each does nothing, and under any other guard each is ILLOP. R138: SLEEP with no active lane or a time of 0 does nothing; otherwise it completes at issue with the split blocked after it, BLK 8, until that many cycles have passed, at most 0xFFFFFF. -/
def Obligations.MergeYieldSleepComplete : Prop :=
  (∀ (s : State) (c : Ctx), Issues s .both c →
    (∀ off : BitVec 20, Completes (.mergeat { g := 7, off := off }) s
      { c with p := { c.p with mpc := target c off, arm := true } } (c.p.pc + 4)) ∧
    (∀ off : BitVec 20, Completes (.mergeat { g := 15, off := off }) s c (c.p.pc + 4)) ∧
    Completes (.merge 15) s c (c.p.pc + 4) ∧ Completes (.yield 15) s c (c.p.pc + 4) ∧
    (∀ (g : BitVec 4) (off : BitVec 20), g ≠ 7 → g ≠ 15 →
      ∀ i ∈ [Instr.mergeat { g := g, off := off }, .merge g, .yield g], Traps i s c (plain causeILLOP)) ∧
    ((∀ q x, c.p.parent = some q → c.w.split? q = some x → ¬(x.st = .waitingMerge ∧ x.mpc = c.p.pc)) → Completes (.merge 7) s
      (if c.p.arm = true ∧ c.p.mpc = c.p.pc then { c with p := { c.p with arm := false } } else c) (c.p.pc + 4)) ∧
    (c.w.waiting = [] ∨ c.inHandler = true → Completes (.yield 7) s c (c.p.pc + 4)) ∧
    (∀ i n, c.inHandler = false → c.p.st = .live → c.w.slots.findIdx? (fun l => l.seq == some c.p.seq) = some i →
      c.w.chosen = some n → findSplit c.w.table n.seq = some n → n.seq ≠ c.p.seq →
      exec (.yield 7) s = .next (finishRes c (.gone ({ c with
        p := { c.advance.p with st := .parked, since := c.s.clock }
        w := { c.w with
          table := putSplit c.w.table { n with st := .live, blk := 0 }
          slots := updAt c.w.slots i (fun _ => { seq := some n.seq, issued := 0 }) } } : Ctx).commit)))) ∧
  (∀ (g : BitVec 4) (a : BitVec 7) (s : State) (c c' : Ctx) (vs : List (Nat → DWord)), Reads s .both c g [op32 .int a] c' vs →
    let n := min (val vs 0 (lane0 (c.act g))).toNat 0xFFFFFF
    ((c.act g = 0 ∨ n = 0) → Completes (.sleep g a) s c' (c.p.pc + 4)) ∧
    (c.act g ≠ 0 → n ≠ 0 → exec (.sleep g a) s = .next (finishRes c (.gone
      ({ c'.advance with p := { c'.advance.p with wake := some (c'.s.clock + n), blk := 8 } } : Ctx).commit))))

namespace Sys2Proof.Claims
open Sys2Proof.Machine

/-- The split in which a handler goes on after a MERGE below the split with SEQ q: that split once it is fused, else the oldest below it that does not itself wait for a merge (notes/assumptions/11.md). -/
def handlerGoesOn (w : Warp) (q : BitVec 16) (h : Split) : Prop :=
  ∃ x, w.split? q = some x ∧
    (x.st ≠ .waitingMerge ∧ h = x ∨
     x.st = .waitingMerge ∧ h ∈ w.splits ∧ h.st ≠ .waitingMerge ∧ w.below q 64 h = true ∧
      ∀ y ∈ w.splits, y ≠ h → y.st ≠ .waitingMerge → w.below q 64 y = true → olderSeq h.seq y.seq = true)

end Sys2Proof.Claims

/-- R67, R68, R215: MERGE at the MPC of the parent, in the table or the spill area, frees the split and adds its lanes to ARRIVED; when every lane of the parent that has not exited has then arrived, and the accesses of those lanes have completed, the parent goes on at the word after its MPC with those lanes, PARKED, without header and without ARM; otherwise it waits on. In a handler the MERGE waits for the earlier accesses of its lanes, and the privilege and the live slot then pass to the fused parent, else to the oldest split below the parent that waits for no merge; with none the warp has no live split left. That is the model's choice (notes/assumptions/11.md). -/
def Obligations.MergeArrives : Prop :=
  ∀ (s : State) (c : Ctx) (q : Split), Issues s .both c →
    c.p.parent = some q.seq → q.seq ≠ c.p.seq → c.w.split? q.seq = some q → q.st = .waitingMerge → q.mpc = c.p.pc →
    let left := q.mask &&& ~~~c.w.exited
    left ≠ 0 →
    let arrived (x : Split) : Split := { x with arrived := x.arrived ||| c.p.mask }
    let parent (x : Split) : Split :=
      if left &&& ~~~(q.arrived ||| c.p.mask) ≠ 0 ∨ lanesDone c.s c.t c.wi left c.s.nextId = false then arrived x
      else { x with arrived := 0, mask := left, pc := x.mpc + 4, arm := false, st := .parked, setA := 15
                    setB := 15, since := c.s.clock, immRun := 0, blk := 0, arrival := none }
    let put (x : Split) : Split := if x.seq = q.seq then parent x else x
    let w : Warp := { c.w with table := (dropSplit c.w.table c.p.seq).map put, spilled := c.w.spilled.map put }
    let gone (t : Team) (w : Warp) : State := finishRes c (.gone (c.s.setTeam
      { (t.shares c.wi c.w w) with warps := updAt t.warps c.wi (fun _ => w) }))
    (c.inHandler = false → exec (.merge 7) s = .next (gone c.t w)) ∧
    (c.inHandler = true → releaseReady c c.p.mask 0 = false → exec (.merge 7) s = .next (finishRes c .stall)) ∧
    (c.inHandler = true → releaseReady c c.p.mask 0 = true →
      (∀ h i, handlerGoesOn w q.seq h → w.slots.findIdx? (fun l => l.seq == some c.p.seq) = some i →
        let live : Split := { h with st := .live, blk := if h.wake = none then 0 else 8 }
        let slots := updAt w.slots i (fun _ => { seq := some h.seq, issued := 0 })
        ((findSplit w.table h.seq).isSome → exec (.merge 7) s = .next (gone (c.passHandler h.seq)
          { w with slots := slots, table := putSplit w.table live })) ∧
        (findSplit w.table h.seq = none → w.table.length < 8 → exec (.merge 7) s = .next (gone (c.passHandler h.seq)
          { w with slots := slots, table := w.table ++ [live], spilled := dropSplit w.spilled h.seq }))) ∧
      ((∃ x, w.split? q.seq = some x ∧ x.st = .waitingMerge ∧ ∀ y ∈ w.splits, y.st ≠ .waitingMerge → w.below q.seq 64 y = false) →
        exec (.merge 7) s = .next (gone c.t w)))

/-- R68, R135, R203, R242, R279, R305, R307: EXIT adds its active lanes to EXITED. A split that keeps a lane goes on at the next word; one that keeps none is freed and its nearest ancestor is checked for fusion. The last exit of a team finishes it, one that frees the handler's split ends the handler once its release is ready, releasing and acquiring as a fence of its lanes does, and a team with an exchange area whose XPASS is clear takes EXCHEXIT at its last exit. -/
def Obligations.ExitCompletes : Prop :=
  (∀ (g : BitVec 4) (s : State) (c : Ctx), Issues s .both c → c.act g ≠ 0 → c.p.mask &&& ~~~(c.act g) ≠ 0 →
    (lastExit c (c.act g) = false ∨ c.t.scr.exch = 0 ∨ c.t.scr.xpass = true) →
    Completes (.exit g) s { c with w := { c.w with exited := c.w.exited ||| c.act g }, p := { c.p with mask := c.p.mask &&& ~~~(c.act g) } }
      (c.p.pc + 4)) ∧
  (∀ (g : BitVec 4) (s : State) (c : Ctx), Issues s .both c → c.act g ≠ 0 → c.p.mask &&& ~~~(c.act g) = 0 →
    (lastExit c (c.act g) = false ∨ c.t.scr.exch = 0 ∨ c.t.scr.xpass = true) →
    let e := if c.inHandler then (c.releases (c.act g)).acquires (c.act g) else c
    let left : Warp := { c.w with exited := c.w.exited ||| c.act g, table := dropSplit c.w.table c.p.seq }
    let w := match c.p.parent with | some q => fuseWarp c.s e.t c.wi left q | none => left
    let t := c.s.setTeam (regroupDue c.s.freeTag { (e.t.shares c.wi c.w w) with warps := updAt e.t.warps c.wi (fun _ => w) })
    (c.inHandler = false → exec (.exit g) s = .next (finishRes c (.gone (if lastExit c (c.act g) then finishTeam t c.t.id else t)))) ∧
    (c.inHandler = true → releaseReady c (c.act g) 3 = true →
      (lastExit c (c.act g) = true → exec (.exit g) s = .next (finishRes c (.gone (finishTeam t c.t.id)))) ∧
      (lastExit c (c.act g) = false → exec (.exit g) s = .next (finishRes c (.ended (endHandler t c.t.id)))))) ∧
  (∀ (g : BitVec 4) (s : State) (c : Ctx), Issues s .both c → c.act g ≠ 0 → lastExit c (c.act g) = true → 0 < c.t.scr.exch →
    c.t.scr.xpass = false → Traps (.exit g) s c (plain causeEXCHEXIT)) ∧
  (∀ (g : BitVec 4) (s : State) (c : Ctx), Issues s .both c → c.act g = 0 → Completes (.exit g) s c (c.p.pc + 4))

namespace Sys2Proof.Claims
open Sys2Proof.Machine

/-- R136: the barrier instances with ID id that still wait; those complete have gone. -/
def pendingBars (c : Ctx) (id : Nat) : List BarInstance := (c.t.bar id).pending.filter (fun x => !x.complete c.s c.team)

/-- The context with the instances of barrier id replaced. -/
def withBars (c : Ctx) (id next : Nat) (l : List BarInstance) : Ctx := { c with t := c.t.setBar id { next := next, pending := l } }

/-- R76, R136: an arrival with the set named that counts nowhere: the warp lies outside the set of the instance that governs, the oldest one's first, then that of the oldest that has not counted it, then the one named. -/
def arrivesNowhere (c : Ctx) (id : Nat) (set : BitVec 2) : Prop :=
  let l := pendingBars c id
  (∃ o, l.head? = some o ∧ inSet o.set c.w = false) ∨
  (∃ x, l.find? (fun x => !x.has c.wi) = some x ∧ inSet x.set c.w = false) ∨
  (l.find? (fun x => !x.has c.wi) = none ∧ inSet set c.w = false)

/-- R76, R136: an arrival that counts in instance num and leaves the instances l, the complete ones among them included: in the oldest that has not counted the warp, else in one that it opens with the set it names. -/
def arrivesAt (c : Ctx) (id : Nat) (set : BitVec 2) (act : LaneMask) (num next : Nat) (l : List BarInstance) : Prop :=
  let a : BarArrival := { warp := c.wi, lanes := act, mark := c.s.nextId }
  (∀ o, (pendingBars c id).head? = some o → inSet o.set c.w = true) ∧
  ((∃ x, (pendingBars c id).find? (fun x => !x.has c.wi) = some x ∧ inSet x.set c.w = true ∧ num = x.num ∧ next = (c.t.bar id).next ∧
      l = (pendingBars c id).map (fun y => if y.num = x.num then { y with arrived := y.arrived ++ [a] } else y)) ∨
   ((pendingBars c id).find? (fun x => !x.has c.wi) = none ∧ inSet set c.w = true ∧ num = (c.t.bar id).next ∧
      next = (c.t.bar id).next + 1 ∧ l = pendingBars c id ++ [{ num := num, set := set, arrived := [a] }]))

/-- R241, R267: an arrival at CBAR that counts in instance num and leaves the record b: in the oldest that has not counted the warp, else in one that it opens. -/
def arrivesAtCbar (c : Ctx) (num : Nat) (b : Cbar) : Prop :=
  let old := launchCbar c.s c.t.ident.launch
  let a : CbarArrival := { team := c.t.id, warp := c.wi, lanes := c.p.mask, mark := c.s.nextId }
  (∃ x, old.pending.find? (fun x => !x.has c.t.id c.wi) = some x ∧ num = x.num ∧ b = { old with
    pending := old.pending.map (fun y => if y.num = x.num then { y with arrived := y.arrived ++ [a] } else y) }) ∨
  (old.pending.find? (fun x => !x.has c.t.id c.wi) = none ∧ num = old.next ∧
    b = { next := num + 1, pending := old.pending ++ [{ num := num, arrived := [a] }] })

end Sys2Proof.Claims

/-- R76, R136, R139, R215: a warp's arrival at a barrier counts in the oldest pending instance that has not counted it, else in one that it opens with the set it names; an arrival from outside the set that governs counts nowhere and completes. BARA completes whether or not the instance does; BAR completes once no warp of the set is missing and the accesses of the arriving lanes have completed, and blocks with BLK 7 until then; issued again, it does not arrive again. That an arrival opens the instance and fixes its set at issue although R215 still holds it (notes/assumptions/48.md), and which instance governs among several (notes/assumptions/42.md), is the model's choice. The set 3, and by R304 either in a handler, is ILLOP: under every guard, which is the model's reading (notes/assumptions/17.md). NOP does nothing. R241, R267, R304: CBAR is not for a handler; without an active lane it completes; its first issue records the arrival and blocks with BLK 7, and it completes once the instance it was counted in is over. That CBAR's arrival counts the lanes of the split's mask is the model's reading (notes/assumptions/24.md). -/
def Obligations.BarriersComplete : Prop :=
  ((∀ (g : BitVec 4) (s : State) (c : Ctx), Issues s .both c → Completes (.nop g) s c (c.p.pc + 4)) ∧
  (∀ (g : BitVec 4) (set : BitVec 2) (i : BitVec 4) (s : State) (c : Ctx), Issues s .both c → (set = 3 ∨ c.inHandler = true) →
    Traps (.bar g set i) s c (plain causeILLOP) ∧ Traps (.bara g set i) s c (plain causeILLOP)) ∧
  (∀ (g : BitVec 4) (set : BitVec 2) (i : BitVec 4) (s : State) (c : Ctx), Issues s .both c → set ≠ 3 → c.inHandler = false →
    let b := i.toNat
    let idle := withBars c b (c.t.bar b).next (pendingBars c b)
    (c.act g = 0 → Completes (.bar g set i) s c (c.p.pc + 4) ∧ Completes (.bara g set i) s c (c.p.pc + 4)) ∧
    (c.act g ≠ 0 → c.p.arrival = none → arrivesNowhere c b set →
      Completes (.bar g set i) s idle (c.p.pc + 4) ∧ Completes (.bara g set i) s idle (c.p.pc + 4)) ∧
    (∀ num next l, c.act g ≠ 0 → c.p.arrival = none → arrivesAt c b set (c.act g) num next l →
      let waits := l.filter (fun x => !x.complete c.s c.team)
      let c' := withBars { c with t := c.t.addSignals (.bar b num) c.wi (c.act g) } b next waits
      Completes (.bara g set i) s c' (c.p.pc + 4) ∧
      (b < c.t.bars.length →
        ((∀ x ∈ waits, x.num ≠ num) → Completes (.bar g set i) s { c' with t := c'.t.observes (.bar b num) c.wi (c.act g) } (c.p.pc + 4)) ∧
        ((∃ x ∈ waits, x.num = num) →
          exec (.bar g set i) s = .next (finishRes c (.block { c' with p := { c'.p with arrival := some (.bar b num) } } 7))))) ∧
    (∀ num, c.act g ≠ 0 → c.p.arrival = some (.bar b num) → b < c.t.bars.length →
      ((∀ x ∈ pendingBars c b, x.num ≠ num) →
        Completes (.bar g set i) s { idle with t := idle.t.observes (.bar b num) c.wi (c.act g) } (c.p.pc + 4)) ∧
      ((∃ x ∈ pendingBars c b, x.num = num) → exec (.bar g set i) s = .next (finishRes c (.block idle 7)))))) ∧
  (∀ (g : BitVec 4) (s : State) (c : Ctx), Issues s .both c →
    (c.inHandler = true → Traps (.cbar g) s c (plain causeILLOP)) ∧
    (c.inHandler = false → c.act g = 0 → Completes (.cbar g) s c (c.p.pc + 4)) ∧
    (∀ n, c.inHandler = false → c.act g ≠ 0 → c.p.arrival = some (.cbar n) →
      ((∀ i ∈ (launchCbar c.s c.t.ident.launch).pending, i.num ≠ n) →
        Completes (.cbar g) s { c with t := c.t.observes (.cbar n) c.wi (c.act g) } (c.p.pc + 4)) ∧
      ((∃ i ∈ (launchCbar c.s c.t.ident.launch).pending, i.num = n) → exec (.cbar g) s = .next (finishRes c (.block c 7)))) ∧
    (∀ n b, c.inHandler = false → c.act g ≠ 0 → c.p.arrival = none → arrivesAtCbar c n b →
      exec (.cbar g) s = .next (finishRes c (.block { c with
        s := setCbar c.s c.t.ident.launch b
        t := c.t.addSignals (.cbar n) c.wi c.p.mask
        p := { c.p with arrival := some (.cbar n) } } 7))))

/-- R21 to R23, R28 to R30: CLAUSE completes once every flag that WAIT names is clear, setting SETA and SETB, and blocks with BLK 1 until then; a name of 12 to 14 is ILLOP. IMM.L and IMM.H set the latch and go on in the same unit, and a third IMM word in a row is ILLOP. -/
def Obligations.SideWordsComplete : Prop :=
  (∀ (wait : BitVec 12) (a b : BitVec 4) (gap : BitVec 3) (give : BitVec 1) (s : State) (c : Ctx), Issues s .both c →
    ((flagNameOk a = true ∧ flagNameOk b = true ∧ c.p.immRun = 0) →
      ((∀ i, i < 12 → bitOf wait i = true → c.w.flags.getD i 0 = 0) →
        Completes (.clause wait a b gap give) s { c with p := { c.p with setA := a, setB := b } } (c.p.pc + 4)) ∧
      ((∃ i, i < 12 ∧ bitOf wait i = true ∧ c.w.flags.getD i 0 ≠ 0) →
        exec (.clause wait a b gap give) s = .next (finishRes c (.block c 1)))) ∧
    (¬(flagNameOk a = true ∧ flagNameOk b = true ∧ c.p.immRun = 0) → Traps (.clause wait a b gap give) s c (plain causeILLOP))) ∧
  (∀ (x : BitVec 24) (s : State) (c : Ctx), Issues s .both c →
    (c.p.immRun < 2 →
      exec (.immL x) s = .next ({ c with p := { c.p with pc := c.p.pc + 4, immRun := c.p.immRun + 1, latch := x.signExtend 32, blk := 0 } } : Ctx).commit ∧
      exec (.immH x) s = .next ({ c with p := { c.p with pc := c.p.pc + 4, immRun := c.p.immRun + 1, blk := 0
                                                         latch := (x.setWidth 32 <<< 8) ||| (if c.p.immRun > 0 then c.p.latch &&& 0xFF else 0) } } : Ctx).commit) ∧
    (2 ≤ c.p.immRun → Traps (.immL x) s c (plain causeILLOP) ∧ Traps (.immH x) s c (plain causeILLOP)))

/-- R34, R36, R39, R322, R373: a word of an unassigned opcode takes ILLOP in any role; one of an assigned opcode that matches no row takes ILLROLE in a role that may not issue it, PRIV without handler privilege where the opcode needs it, and otherwise ILLOP, or ILLOPND for TLBINV.page and XLDQ words whose only fault is a specifier. -/
def Obligations.ReservedWordsTrap : Prop :=
  ∀ (w : Word) (s : State) (c : Ctx), Issuing s c →
    (opcodeAssigned (bitsOf w 24 8) = false → Traps (.reservedOpcode w) s c (plain causeILLOP)) ∧
    (opcodeAssigned (bitsOf w 24 8) = true →
      ((opcodeRoles (bitsOf w 24 8)).allows c.w.role = false → Traps (.reservedOpcode w) s c (plain causeILLROLE)) ∧
      ((opcodeRoles (bitsOf w 24 8)).allows c.w.role = true →
        (wordPrivileged w = true → c.inHandler = false → Traps (.reservedOpcode w) s c (plain causePRIV)) ∧
        ((wordPrivileged w = false ∨ c.inHandler = true) →
          Traps (.reservedOpcode w) s c (plain (if operandOnly w then causeILLOPND else causeILLOP)))))

/-- R246, R247, R249, R229: MMA, MMAX, MXT, MXP and MXS of a warp in no gang, with every region in its slot, full and not poisoned and room in the reservation table, post one request bound to the split's read-class flag and complete. A region outside its slot is RINGBND, a granule not yet full blocks with BLK 5, a full table with BLK 4. -/
def Obligations.MatrixRequestsComplete : Prop :=
  ∀ (f : FmtT) (s : State) (c : Ctx), ∀ i ∈ [Instr.mma f, .mmax f, .mxt f, .mxp f, .mxs f],
    Issues s .executeOnly c → gangOf c.t c.w = none → tilesOk c f.full f.c = true → isSPair f.a = true → isSReg f.b = true →
    let word := (encode i).getD 0
    let vals := [c.w.sr (sNum f.a), c.w.sr (sNum f.a + 1), c.w.sr (sNum f.b)]
    let o := mtxOp (bitsOf word 24 8) (f.full == 1) vals
    o.ok (c.w.sr (sNum f.b)) = true →
    (c.act f.g = 0 → Completes i s c (c.p.pc + 4)) ∧
    (c.act f.g ≠ 0 →
      (∀ r, o.regions.find? (fun r => (r.place c.t).isNone) = some r → Traps i s c r.trap) ∧
      ((∀ r ∈ o.regions, (r.place c.t).isSome ∧ slotPoisonOf c.s c.t r.handle = none) →
        let full := ∀ r ∈ o.regions, ∀ off, r.place c.t = some off → ∀ k ∈ regionGranules off r.bytes, granuleFull c.t k = true
        (¬full → exec i s = .next (finishRes c (.block c 5))) ∧
        (full → 32 ≤ (c.s.cluster c.cluster).table.length → exec i s = .next (finishRes c (.block c 4))) ∧
        (full → (c.s.cluster c.cluster).table.length < 32 →
          Completes i s (post c o word vals (namedTiles c f.full f.c) [(c.wi, flagOf c.p.setA)]) (c.p.pc + 4))))

/-- R254, R255, R218: CZERO zeroes its tiles; CREAD reads, and CWRITE writes, one element of a tile in each active lane, at the row and column of the lane's coordinate. A tile no posted request is outstanding on is read as it stands. -/
def Obligations.TileElementsComplete : Prop :=
  (∀ (g : BitVec 4) (full : BitVec 1) (n : BitVec 4) (s : State) (c : Ctx), Issues s .executeOnly c → tilesOk c full n = true →
    (c.act g = 0 → Completes (.czero g full n) s c (c.p.pc + 4)) ∧
    (c.act g ≠ 0 → Completes (.czero g full n) s
      { c with s := (namedTiles c full n).foldl (fun s i => writeTile s c.cluster i (fun _ => { cells := [], fill := .zero })) c.s } (c.p.pc + 4))) ∧
  (∀ (f : FmtA) (s : State) (c c' : Ctx) (vs : List (Nat → DWord)) (n : Nat), Reads s .executeOnly c f.g [op32 .int f.a] c' vs →
    regOk c f.d.toNat = true → tileSpecOk f.b = true → (op32 .int f.b).ok c = true → c.act f.g ≠ 0 →
    n = bitsOf ((op32 .int f.b).value c (lane0 (c.act f.g))) 0 4 → n < c.t.mtx.tiles.length →
    let k := c'.cluster
    let i := c'.t.mtx.tiles.getD n 0
    (((c'.s.tile k i).unwaited = []) → Completes (.cread f) s
      { c' with s := c'.s.spendTags
                w := c'.w.setV f.d.toNat (c.act f.g) (fun L => (c'.s.tile k i).words.get (elemKey (val vs 0 L))) } (c.p.pc + 4)) ∧
    Completes (.cwrite f) s { c' with s := writeTile c'.s k i (fun m =>
      (lanesOf (c.act f.g)).foldl (fun m L => m.put (elemKey (val vs 0 L)) (c'.w.v f.d.toNat L)) m) } (c.p.pc + 4))

/-- R256, R257, R259, R260, R262: CDRAIN takes its snapshot at issue and completes; MWAIT completes once no request or drain on its tiles is outstanding and blocks with BLK 4 until then, and with ALL set any other bit of D set is ILLOP; OFENCE completes; PLANES writes the bits of its lanes' codes. -/
def Obligations.DrainsAndWaitsComplete : Prop :=
  (∀ (f : FmtT) (s : State) (c : Ctx) (o1 o2 : Nat), Issues s .executeOnly c → tilesOk c f.full f.c = true → isSReg f.a = true →
    isSReg f.b = true → c.act f.g ≠ 0 →
    let ctl := c.w.sr (sNum f.b)
    let fmt := bitsOf ctl 0 4
    let R := if f.full = 1 then 128 else 64
    bitsOf ctl 5 27 = 0 → drainFmtOk fmt = true →
    ({ h := c.w.sr (sNum f.a), next := false, bytes := drainBytes fmt R } : Region).place c.t = some o1 →
    (if fmt = 1 then ({ h := c.w.sr (sNum f.a), next := true, bytes := scaleBytes R R } : Region).place c.t else some 0) = some o2 →
    let tiles := namedTiles c f.full f.c
    let words := (tiles.map (tileWords c.s c.cluster)).toArray
    let img := drainImage fmt R (bitOf ctl 4) (fun r k =>
      (words.getD (2 * (r / 64) + k / 64) { cells := [], fill := .zero }).get (64 * (r % 64) + k % 64))
    Completes (.cdrain f) s { c with s := c.s.spendTags.fresh.2.updDie (fun d => { d with drains := d.drains ++
      [{ op := c.s.spendTags.fresh.1, team := c.t.id, tiles := tiles
         granules := cutGranules img.1.length o1 img.1 ++ cutGranules img.2.length o2 img.2 }] }) } (c.p.pc + 4)) ∧
  (∀ (g : BitVec 4) (all full : BitVec 1) (n : BitVec 4) (s : State) (c : Ctx), Issues s .executeOnly c →
    (all = 1 ∧ full = 0 ∧ n = 0 ∨ all = 0 ∧ tilesOk c full n = true) → c.act g ≠ 0 → c.p.arrival = none →
    let tiles := mwaitTiles c all full n
    let marks := dedup (tiles.flatMap (fun i => (c.s.tile c.cluster i).unwaited))
    let drains := (c.s.die.drains.filter (fun d => d.team == c.t.id && d.tiles.any tiles.contains)).map (·.op)
    let k := c.s.cluster c.cluster
    let busy := (∃ q ∈ k.table ++ k.passes, q.team = c.t.id ∧ q.id ∈ marks) ∨ drains ≠ []
    (busy → exec (.mwait g all full n) s = .next (finishRes c (.block { c with p := { c.p with arrival := some (.mwait marks drains) } } 4))) ∧
    (¬busy → Completes (.mwait g all full n) s { c with s := (tiles.foldl (fun s i =>
      s.updTile c.cluster i (coverTile (s.freeTag + 1 + i) marks)) c.s).spendTags } (c.p.pc + 4))) ∧
  (∀ (g : BitVec 4) (full : BitVec 1) (n : BitVec 4) (s : State) (c : Ctx), Issues s .executeOnly c → (full ≠ 0 ∨ n ≠ 0) →
    Traps (.mwait g 1 full n) s c (plain causeILLOP)) ∧
  (∀ (g : BitVec 4) (s : State) (c : Ctx), Issues s .executeOnly c →
    Completes (.ofence g) s (c.scrFence (c.act g) (fun _ => true)) (c.p.pc + 4)) ∧
  (∀ (f : FmtA) (s : State) (c : Ctx) (off : Nat), Issues s .executeOnly c → regOk c f.d.toNat = true → isSReg f.a = true →
    isSReg f.b = true → c.act f.g ≠ 0 →
    let ctl := c.w.sr (sNum f.b)
    let b := fmtBits (ctlFmt ctl)
    let R := if bitOf ctl 8 then 128 else 64
    bitsOf ctl 20 12 = 0 → 1 ≤ ctlFmt ctl → ctlFmt ctl ≤ 7 → bitsOf ctl 9 7 < R → 32 * bitsOf ctl 16 4 < ctlK ctl →
    ({ h := c.w.sr (sNum f.a), next := false, bytes := codeBytes b R (ctlK ctl) } : Region).place c.t = some off →
    Completes (.planes f) s ((lanesOf (c.act f.g)).foldl (fun x L =>
      x.scrStore L (planeWrites off b R (ctlK ctl) (bitsOf ctl 9 7) (32 * bitsOf ctl 16 4 + L) (x.w.v f.d.toNat L))) c) (c.p.pc + 4))

namespace Sys2Proof.Claims
open Sys2Proof.Machine

/-- R231, R247: the instructions that a gang's members issue together, each with the scalar operands that must agree and whether its operands may be named. -/
def jointOps (f : FmtT) (c : Ctx) : List (Instr × List Word × Bool) :=
  let vals := [c.w.sr (sNum f.a), c.w.sr (sNum f.a + 1), c.w.sr (sNum f.b)]
  [Instr.mma f, .mmax f, .mxt f, .mxp f, .mxs f].map (fun i => (i, vals, tilesOk c f.full f.c && isSPair f.a && isSReg f.b &&
    (mtxOp (bitsOf ((encode i).getD 0) 24 8) (f.full == 1) vals).ok (c.w.sr (sNum f.b)))) ++ [(.tkpass f.g, [], true)]

/-- The context after the arrival of its warp at gang n's latch with an instruction. -/
def arrives (c : Ctx) (n : Nat) (i : Instr) (vals : List Word) : Ctx :=
  { c with
    t := c.t.updGang n (fun x => { x with word := some ((encode i).getD 0), vals := vals, arrived := x.arrived ++ [(c.wi, flagOf c.p.setA, c.p.pc + 4)] })
    p := { c.p with arrival := some (.gang n (c.t.gang n).num) } }

end Sys2Proof.Claims

/-- R230 to R232, R248, R249, R261, R304: GANG, a TKPASS with an active lane and a matrix instruction of a gang member are ILLOP in a handler, GANG and the matrix instruction under every guard in the model's reading (notes/assumptions/17.md). GANG sets a gang's members while its latch is empty. TKWAIT completes in a member of the gang that holds the token and blocks with BLK 4 in one of the other; it and TKPASS raise TOKEN in a warp of no gang. A matrix instruction or TKPASS of a member raises TOKEN at an empty latch when the other gang holds the token, and GANG, clearing the latch, when the latch holds another word or other operands; else its warp arrives, and blocks with BLK 4 while a member is missing. The last arrival of TKPASS hands the token over; the last of a matrix instruction whose regions are ready posts one request bound to every member's flag; the latch is then empty and the other members go on after the instruction. -/
def Obligations.GangsAndTokenComplete : Prop :=
  (∀ (f : FmtAB) (t : FmtT) (g : BitVec 4) (s : State) (c : Ctx), Issues s .executeOnly c → c.inHandler = true →
    Traps (.gang f) s c (plain causeILLOP) ∧ (c.act g ≠ 0 → Traps (.tkpass g) s c (plain causeILLOP)) ∧
    (∀ n, gangOf c.t c.w = some n → ∀ i ∈ [Instr.mma t, .mmax t, .mxt t, .mxp t, .mxs t], Traps i s c (plain causeILLOP))) ∧
  (∀ (f : FmtAB) (s : State) (c c' : Ctx) (vs : List (Nat → DWord)), Reads s .executeOnly c f.g [op32 .int f.a, op32 .int f.b] c' vs →
    c.inHandler = false → c.act f.g ≠ 0 →
    let a := loWord (val vs 0 (lane0 (c.act f.g)))
    let b := loWord (val vs 1 (lane0 (c.act f.g)))
    bitsOf a 24 8 = 0 → bitsOf b 1 31 = 0 → gangMaskOk c.team (a.setWidth 24) (bitsOf b 0 1) = true →
    (c.t.gang (bitsOf b 0 1)).word = none →
    Completes (.gang f) s { c' with t := c'.t.updGang (bitsOf b 0 1) (fun x => { x with members := a.setWidth 24 }) } (c.p.pc + 4)) ∧
  (∀ (g : BitVec 4) (s : State) (c : Ctx), Issues s .executeOnly c → c.act g ≠ 0 →
    (gangOf c.t c.w = none → Traps (.tkwait g) s c (plain causeTOKEN) ∧ (c.inHandler = false → Traps (.tkpass g) s c (plain causeTOKEN))) ∧
    (∀ n, gangOf c.t c.w = some n →
      (c.t.mtx.token = n → Completes (.tkwait g) s c (c.p.pc + 4)) ∧
      (c.t.mtx.token ≠ n → exec (.tkwait g) s = .next (finishRes c (.block c 4))))) ∧
  (∀ (f : FmtT) (s : State) (c : Ctx) (n : Nat), ∀ r ∈ jointOps f c, Issues s .executeOnly c → c.act f.g ≠ 0 → c.inHandler = false →
    r.2.2 = true → gangOf c.t c.w = some n → c.p.arrival = none →
    (∀ i ∈ gangWarps c.t n, ∃ w, c.t.warps[i]? = some w ∧ w.done = false) →
    let gang := c.t.gang n
    let same : Prop := gang.word = some ((encode r.1).getD 0) ∧ gang.vals = r.2.1
    (gang.word = none → c.t.mtx.token ≠ n → Traps r.1 s c (plain causeTOKEN)) ∧
    (gang.word.isSome → (∀ x ∈ gang.arrived, x.1 ≠ c.wi) → ¬same → exec r.1 s = .next (finishRes c (latchTrap c n (plain causeGANG)))) ∧
    ((gang.word = none ∧ gang.arrived = [] ∧ c.t.mtx.token = n ∨ same ∧ ∀ x ∈ gang.arrived, x.1 ≠ c.wi) →
      (∃ i ∈ gangWarps c.t n, i ≠ c.wi ∧ ∀ x ∈ gang.arrived, x.1 ≠ i) →
      exec r.1 s = .next (finishRes c (.block (arrives c n r.1 r.2.1) 4)))) ∧
  (∀ (g : BitVec 4) (s : State) (c : Ctx) (n : Nat), Issues s .executeOnly c → c.act g ≠ 0 → c.inHandler = false →
    gangOf c.t c.w = some n → c.p.arrival = none → (c.t.gang n).word = some ((encode (.tkpass g)).getD 0) → (c.t.gang n).vals = [] →
    (∀ x ∈ (c.t.gang n).arrived, x.1 ≠ c.wi) →
    (∀ i ∈ gangWarps c.t n, i = c.wi ∨ ∃ x ∈ (c.t.gang n).arrived, x.1 = i) →
    (∀ i ∈ gangWarps c.t n, ∃ w, c.t.warps[i]? = some w ∧ w.done = false) →
    ∃ c', Completes (.tkpass g) s c' (c.p.pc + 4) ∧ c'.s = c.s ∧ c'.t.contents = { c.t with mtx := c'.t.mtx }.contents ∧
      c'.w.contents = c.w.contents ∧ c'.t.mtx.token = 1 - n ∧ (c'.t.gang n).word = none ∧ (c'.t.gang n).arrived = []) ∧
  (∀ (f : FmtT) (s : State) (c : Ctx) (n : Nat), ∀ r ∈ jointOps f c, r.1 ≠ .tkpass f.g → Issues s .executeOnly c → c.act f.g ≠ 0 →
    c.inHandler = false → r.2.2 = true → gangOf c.t c.w = some n → c.p.arrival = none →
    let gang := c.t.gang n
    let word := (encode r.1).getD 0
    let o := mtxOp (bitsOf word 24 8) (f.full == 1) r.2.1
    gang.word = some word → gang.vals = r.2.1 → (∀ x ∈ gang.arrived, x.1 ≠ c.wi) →
    (∀ i ∈ gangWarps c.t n, i = c.wi ∨ ∃ x ∈ gang.arrived, x.1 = i) →
    (∀ i ∈ gangWarps c.t n, ∃ w, c.t.warps[i]? = some w ∧ w.done = false) →
    (∀ r ∈ o.regions, (r.place c.t).isSome ∧ slotPoisonOf c.s c.t r.handle = none) →
    (∀ r ∈ o.regions, ∀ off, r.place c.t = some off → ∀ k ∈ regionGranules off r.bytes, granuleFull c.t k = true) →
    (c.s.cluster c.cluster).table.length < 32 →
    let u := post (arrives c n r.1 r.2.1) o word r.2.1 (namedTiles c f.full f.c)
      (gang.arrived.map (fun x => (x.1, x.2.1)) ++ [(c.wi, flagOf c.p.setA)])
    ∃ c', Completes r.1 s c' (c.p.pc + 4) ∧ c'.s = u.s ∧ (c'.t.gang n).word = none ∧ (c'.t.gang n).arrived = [] ∧
      c'.t.contents = { u.t with mtx := c'.t.mtx }.contents ∧
      ∀ k x v, k ≠ c.wi → gang.arrived.find? (fun y => y.1 == k) = some x → u.t.warps[k]? = some v →
        ∃ w, c'.t.warps[k]? = some w ∧ w.contents = v.contents ∧ ∀ p ∈ v.splits, ∀ m, p.arrival = some (.gang n m) →
          ∃ q ∈ w.splits, q.seq = p.seq ∧ q.pc = x.2.2 ∧ q.arrival = none ∧ q.blk = 0)

/-- R200 to R202: REGROUP and UNGROUP move nothing under the guard that never holds; with every other participant arrived and one mask among them, the last arrival moves every lane as R201 and R202 place them and completes; before that it blocks with BLK 7 and its keys are recorded. Where the masks differ the lowest participant whose mask does raises ILLOPND and the others wait on. A split without all its warp's lanes raises DIVERGE. R304: both are ILLOP in a handler, under every guard in the model's reading (notes/assumptions/17.md). -/
def Obligations.RegroupCompletes : Prop :=
  (∀ (f : FmtA) (s : State) (c : Ctx), Issues s .executeOnly c → c.inHandler = true →
    Traps (.regroup f) s c (plain causeILLOP) ∧ Traps (.ungroup f) s c (plain causeILLOP)) ∧
  ∀ (f : FmtA) (un : Bool) (s : State) (c : Ctx), Issues s .executeOnly c → c.inHandler = false → regOk c f.d.toNat = true →
    isQueueSpec f.a = false → (op32 .int f.a).ok c = true → isSPair f.b = true → movOk c.w (c.w.s64 (sNum f.b)) = true →
    let i : Instr := if un then .ungroup f else .regroup f
    (f.g = 15 → Completes i s c (c.p.pc + 4)) ∧
    (f.g ≠ 15 → c.p.mask ≠ ~~~c.w.exited → Traps i s c (plain causeDIVERGE)) ∧
    (f.g ≠ 15 → c.p.mask = ~~~c.w.exited → c.p.arrival = none →
      let keys := laneList.map (fun L => if inMask (c.act f.g) L then loWord ((op32 .int f.a).value c L) else 0xFFFFFFFF)
      let a : RegroupArrival := { warp := c.wi, seq := c.p.seq, un := un, d := f.d.toNat, keys := keys, mov := c.w.s64 (sNum f.b) }
      let c1 : Ctx := { c with t := { c.t with regroup := c.t.regroup ++ [a] }, p := { c.p with arrival := some (.regroup c.t.regroups) } }
      (regroupReady c1.team un = false → exec i s = .next (finishRes c (.block c1 7))) ∧
      (∀ k, regroupReady c1.team un = true → regroupOdd c1.team un = some k →
        (k ≠ c.wi → exec i s = .next (finishRes c (.block c1 7))) ∧
        (k = c.wi → exec i s = .next (finishRes c (.trapWith
          { c1 with t := { c.t with regroup := (c.t.regroup ++ [a]).filter (fun x => x.warp != c.wi) }, p := { c.p with arrival := none } }
          (plain causeILLOPND) c.p.unitPc)))) ∧
      (regroupReady c1.team un = true → regroupOdd c1.team un = none →
        let moved := regroupMove c.s.freeTag un c1.team (c1.t.regroup.filter (fun a => a.un == un))
        Completes i s { c1 with t := { moved with regroup := c1.t.regroup.filter (fun a => a.un != un), regroups := c.t.regroups + 1 }
                                w := moved.warps.getD c.wi c.w } (c.p.pc + 4)))

/-- R201: every lane whose key is not negative is a source, and REGROUP places each source unless the position due to it is past the end: no lane is left after the last one filled, or, for another key, none in another warp. The destination positions that REGROUP fills are strictly rising, the sources come in the order of their keys, the lower origin first among equal keys. Lanes of one key fill one lane after another; where the key changes, the next lane filled is the first of its warp, and it stands in the warp being filled, when none of that one's lanes is filled yet, or in the next. -/
def Obligations.RegroupPlacesInOrder : Prop :=
  ∀ (dest : List PartLane), dest.Pairwise (fun x y => x.origin < y.origin) → dest.Pairwise (fun x y => x.pos ≤ y.pos) →
    (regroupMap dest).Pairwise (fun x y => x.1 < y.1 ∧
      (x.2.key.toNat < y.2.key.toNat ∨ x.2.key = y.2.key ∧ x.2.origin < y.2.origin)) ∧
    (∀ x ∈ regroupMap dest, x.1 < dest.length ∧ x.2 ∈ dest ∧ bitOf x.2.key 31 = false) ∧
    (∀ x ∈ (regroupMap dest).head?, x.1 = 0) ∧
    (∀ (i : Nat) (x y : Nat × PartLane), (regroupMap dest)[i]? = some x → (regroupMap dest)[i + 1]? = some y →
      (x.2.key = y.2.key → y.1 = x.1 + 1) ∧
      (x.2.key ≠ y.2.key →
        (dest[y.1 - 1]?).map PartLane.pos ≠ (dest[y.1]?).map PartLane.pos ∧
        ∀ k, x.1 ≤ k → k < y.1 → (dest[k]?).map PartLane.pos = (dest[x.1]?).map PartLane.pos)) ∧
    -- every source is placed, unless the positions have run out before it
    (∀ L ∈ dest, bitOf L.key 31 = false → (∃ x ∈ regroupMap dest, x.2 = L) ∨
      (∃ x ∈ regroupMap dest, (x.2.key.toNat < L.key.toNat ∨ x.2.key = L.key ∧ x.2.origin < L.origin) ∧
        (∀ y ∈ regroupMap dest, y.1 ≤ x.1) ∧
        (x.2.key = L.key → x.1 + 1 = dest.length) ∧
        (x.2.key ≠ L.key → ∀ k, x.1 < k → k < dest.length → (dest[k]?).map PartLane.pos = (dest[x.1]?).map PartLane.pos))) ∧
    ((∃ L ∈ dest, bitOf L.key 31 = false) → regroupMap dest ≠ [])

/-- R264 to R266: SLAY takes the layout record at its address, and blocks with BLK 5 while its reads wait for an earlier access of its lanes or of their team (the read at issue and that wait are the model's choice, notes/assumptions/8.md); SFILL and SDRAIN append a command with the handle, the origin and the layout to the engine's FIFO, bound to the split's flag of their class, and block with BLK 5 while the FIFO holds 16 that have not started: that a started command takes no entry of it is the model's choice (notes/assumptions/42.md); SWAIT completes once no command of the warp stands at its engines and no read of its lanes is owed (R215, notes/assumptions/46.md), and raises ILLOP with an empty mask; a drain of the warp that has stopped is reported, once, as SLOTPOISON, and its flag is released then (R238). -/
def Obligations.StreamCommandsComplete : Prop :=
  (∀ (g : BitVec 4) (n : BitVec 2) (a : BitVec 7) (s : State) (c : Ctx) (ps : List Place) (es : List TlbEntry), Issues s .both c →
    isSPair a = true → c.act g ≠ 0 →
    let va := (c.w.s64 (sNum a)).toNat
    va % 64 = 0 → va < globalTop → globalPlaces c.s c.agent va 64 .r = .ok ps es → elemPoisoned c.s c.t.core ps = false →
    elemL2Poisoned c.s ps = false →
    let waits := overtakesAny c ((lanesOf (c.act g)).map (fun L => (L, ps)))
    let r : BitVec 512 := BitVec.ofNat 512 (readElem c.s c.t ps)
    (waits = true → exec (.slay g n a) s = .next (finishRes c (.block c 5))) ∧
    (waits = false → layoutOk r = true → Completes (.slay g n a) s { c.noteTlb es with
      t := { c.t with mtx := { c.t.mtx with layouts := updAt c.t.mtx.layouts n.toNat (fun _ => some r) } } } (c.p.pc + 4)) ∧
    (waits = false → layoutOk r = false → Traps (.slay g n a) s c (plain causeILLOPND))) ∧
  (∀ (g : BitVec 4) (e n : BitVec 2) (a : BitVec 7) (drain : Bool) (s : State) (c : Ctx) (l : BitVec 512), Issues s .both c →
    0x40 ≤ a.toNat → a.toNat ≤ 0x5A → c.act g ≠ 0 → c.t.mtx.layouts.getD n.toNat none = some l →
    (drain && layPlanes l) = false → (hasScales l = false ∨ (c.w.sr (sNum a + 1)).toInt % 8 = 0 ∧ (c.w.sr (sNum a + 2)).toInt % 64 = 0) →
    let h := c.w.sr (sNum a)
    (slotPlace c.t h false (boxBytes l)).isSome → (hasScales l = false ∨ (slotPlace c.t h true (scaleBytes (layBox l 1) (layBox l 0))).isSome) →
    let i : Instr := if drain then .sdrain g e n a else .sfill g e n a
    let flag := flagOf (if drain then c.p.setB else c.p.setA)
    let k := (c.s.core c.t.core).runnels.getD e.toNat Runnel.reset
    (16 ≤ fifoUsed k → exec i s = .next (finishRes c (.block c 5))) ∧
    (fifoUsed k < 16 → Completes i s { c with
      s := c.s.fresh.2.updCore c.t.core (fun x => { x with runnels := updAt x.runnels e.toNat (fun r => { r with fifo := r.fifo ++
        [{ id := c.s.fresh.1, team := c.t.id, warp := c.wi, lanes := c.act g, drain := drain, flag := flag, layout := l, handle := h
           origin := (List.range 5).map (fun i => (c.w.sr (sNum a + 1 + i)).toInt), started := false, granules := [], writes := []
           missing := [], poison := none, wrote := [] }] }) })
      t := c.t.signals (.cmd c.s.nextId) c.wi (c.act g)
      w := c.w.bind flag } (c.p.pc + 4))) ∧
  (∀ (g m : BitVec 4) (s : State) (c : Ctx), Issues s .both c →
    (m = 0 → Traps (.swait g m) s c (plain causeILLOP)) ∧
    (m ≠ 0 → c.act g ≠ 0 → c.p.arrival = none → (∀ d ∈ c.t.stopped, d.warp ≠ c.wi ∨ bitOf m d.engine = false) →
      (pendingCmds c (maskEngines m) = [] → readsOwed c.s c.t c.wi (c.act g) = false → Completes (.swait g m) s c (c.p.pc + 4)) ∧
      (pendingCmds c (maskEngines m) ≠ [] → exec (.swait g m) s = .next (finishRes c (.block
        { c with p := { c.p with arrival := some (.swait (pendingCmds c (maskEngines m))) } } 5)))) ∧
    (∀ d, m ≠ 0 → c.act g ≠ 0 → c.p.arrival = none → c.t.stopped.filter (fun x => x.warp == c.wi && (maskEngines m).contains x.engine) = [d] →
      exec (.swait g m) s = .next (finishRes c (.trapWith { c with
        t := { c.t with stopped := c.t.stopped.filter (fun x => x.id != d.id) }
        w := c.w.unbind d.flag
        p := { c.p with arrival := some (.swait (pendingCmds c (maskEngines m) ++ [d.id])) } } (trapAddr causeSLOTPOISON d.va.toNat 0) c.p.unitPc))))

/-- R292 to R295: SPAWN publishes the record at its address; TSIG rewrites the sluice word as a signal does; TWAIT completes on a word that is as full as it waits for, which D takes, and blocks with BLK 10 on another, TWAIT.full acquiring, TWAIT.empty ordering nothing; PREEMPT is the warp's point of preemption when a save is asked for. That SPAWNDEPTH reports lane 0 is the model's choice (notes/assumptions/21.md), as is that SPAWN, TSIG and TWAIT read at issue and which earlier accesses they wait for (notes/assumptions/8.md and 46.md). -/
def Obligations.TasksComplete : Prop :=
  (∀ (g : BitVec 4) (a : BitVec 7) (s : State) (c : Ctx) (ps : List Place) (es : List TlbEntry), Issues s .both c → isSPair a = true →
    c.act g ≠ 0 →
    let va := (c.w.s64 (sNum a)).toNat
    (4 ≤ c.t.ident.depth → Traps (.spawn g a) s c (trapAddr causeSPAWNDEPTH va 0)) ∧
    (c.t.ident.depth < 4 → va % 128 = 0 → va + 128 ≤ globalTop → globalPlaces c.s c.agent va 128 .r = .ok ps es →
      elemPoisoned c.s c.t.core ps = false → elemL2Poisoned c.s ps = false →
      overtakesAny c ((lanesOf c.p.mask).map (fun L => (L, ps))) = false → recordsHeld c.s < Config.maxRecords →
      releaseReady c (c.act g) 3 = true →
      let r : BitVec 1024 := BitVec.ofNat 1024 (readElem c.s c.t ps)
      let prio := min (recPrio r) c.t.ident.prio
      let e := (c.noteTlb es).releases (c.act g)
      Completes (.spawn g a) s { e with s := publish e.s false va r c.t.ident.job (c.t.ident.depth + 1) prio } (c.p.pc + 4))) ∧
  (∀ (f : FmtAB) (s : State) (c c' : Ctx) (vs : List (Nat → DWord)) (ps : List Place) (es : List TlbEntry),
    Reads s .both c f.g [op32 .int f.b] c' vs → isSPair f.a = true → c.act f.g ≠ 0 →
    let va := (c.w.s64 (sNum f.a)).toNat
    va % 8 = 0 → va + 8 ≤ globalTop → globalPlaces c.s c.agent va 8 .rw = .ok ps es →
    elemPoisoned c.s c.t.core ps = false → elemL2Poisoned c.s ps = false → overtakesAny c ((lanesOf c.p.mask).map (fun L => (L, ps))) = false →
    releaseReady c (c.act f.g) 3 = true →
    Completes (.tsig f) s (((c'.noteTlb es).putNow 0 (placeBytes ps (sluiceSignal (BitVec.ofNat 64 (readElem c.s c.t ps))
      (bitsOf (val vs 0 (lane0 (c.act f.g))) 0 32)).toNat)).releases (c.act f.g)) (c.p.pc + 4)) ∧
  (∀ (f : FmtU) (s : State) (c : Ctx) (ps : List Place) (es : List TlbEntry), Issues s .both c → isSPair f.a = true →
    pairOk c f.d.toNat = true → c.act f.g ≠ 0 →
    let va := (c.w.s64 (sNum f.a)).toNat
    va % 8 = 0 → va + 8 ≤ globalTop → globalPlaces c.s c.agent va 8 .r = .ok ps es →
    elemPoisoned c.s c.t.core ps = false → elemL2Poisoned c.s ps = false → overtakesAny c ((lanesOf c.p.mask).map (fun L => (L, ps))) = false →
    let v : DWord := BitVec.ofNat 64 (readElem c.s c.t ps)
    let took (c : Ctx) : Ctx := (c.noteTlb es).setD f.d.toNat true (c.act f.g) (fun _ => v)
    (sluiceFull v = true → readsOwed c.s c.t c.wi (c.act f.g) = false → Completes (.twaitFull f) s (took (c.acquires (c.act f.g))) (c.p.pc + 4)) ∧
    (sluiceFull v = false → Completes (.twaitEmpty f) s (took c) (c.p.pc + 4)) ∧
    (sluiceFull v = true → exec (.twaitEmpty f) s = .next (finishRes c (.block c 10))) ∧
    (sluiceFull v = false → exec (.twaitFull f) s = .next (finishRes c (.block c 10)))) ∧
  (∀ (g : BitVec 4) (i : BitVec 20) (s : State) (c : Ctx), Issues s .both c →
    (c.t.ident.kern.nlive ≤ i.toNat → Traps (.preempt g i) s c (plain causeILLOPND)) ∧
    (i.toNat < c.t.ident.kern.nlive →
      ((c.act g = 0 ∨ c.t.save.request = none ∨ c.p.mask ≠ ~~~c.w.exited) → Completes (.preempt g i) s c (c.p.pc + 4)) ∧
      (c.act g ≠ 0 → c.t.save.request.isSome → c.p.mask = ~~~c.w.exited →
        Completes (.preempt g i) s (c.withW { c.w with atPoint := some i.toNat }) (c.p.pc + 4))))

/-- R308, R302, R304, R344: TRAP and, while debug Halt is not in force, BKPT take their trap with the next word as resumption address when a lane is active; TRAP reports the operand of the lowest active lane. With Halt in force BKPT completes and holds the team for the debugger. With no active lane neither has an effect. -/
def Obligations.SoftwareTrapsTaken : Prop :=
  (∀ (g : BitVec 4) (a : BitVec 7) (s : State) (c c' : Ctx) (vs : List (Nat → DWord)), Reads s .both c g [op32 .int a] c' vs →
    (c.act g = 0 → Completes (.trap g a) s c (c.p.pc + 4)) ∧
    (c.act g ≠ 0 → c.t.trap.handler = none → exec (.trap g a) s = .next (takeTrap { c' with p := { c'.p with arrival := none } }
      { cause := causeSWTRAP, lo := loWord (val vs 0 (lane0 (c.act g))), hi := 0, lane := lane0 (c.act g) } (c.p.pc + 4)))) ∧
  (∀ (g : BitVec 4) (s : State) (c : Ctx), Issues s .both c →
    let halts := c.s.pkg.debug = .halt ∧ (c.s.pkg.lifecycle = .owned → c.s.pkg.tokenValid = true)
    (c.act g = 0 → Completes (.bkpt g) s c (c.p.pc + 4)) ∧
    (c.act g ≠ 0 → ¬halts → c.t.trap.handler = none →
      exec (.bkpt g) s = .next (takeTrap { c with p := { c.p with arrival := none } } (plain causeBKPT) (c.p.pc + 4))) ∧
    (c.act g ≠ 0 → halts → exec (.bkpt g) s = .next (finishRes c (.gone (holdTeam c.advance.commit c.t.id)))))

/-- R77, R297 to R304: a trap in a split of a team without a handler, whose job gives its role a handler, halts the team. The trap registers hold the cause, the lane, the address, the SEQ, the resumption address and whether the warp has a second live split; TRAPCAUSE2 is clear. The split goes on at its role's vector with its own mask, without a clause header, and holds handler privilege. The halt record of its warp keeps its header, ARM and MPC, and that of every warp the PC and skid count of each live split, the faulting one's being the resumption address; the records go to the context frame. Registers, predicates, flags and queues are as they were, no other team changes, and of the rest only the frame's bytes do. -/
def Obligations.TrapEntry : Prop :=
  ∀ (s : State) (c : Ctx) (x : TrapInfo) (pc : DWord), Issuing s c → c.t.trap.handler = none →
    handlerEntry c.s c.t.ident.job c.w.role ≠ 0 →
    let standing (u : Warp) (at_ : Split → DWord) : List (Option HaltSlot) := u.slots.map (fun l => match l.seq with
      | none => none
      | some q => (findSplit u.table q).map (fun p => { seq := q, pc := at_ p, count := 0 }))
    ∃ t w, (takeTrap c x pc).team? c.t.id = some t ∧ t.status = .halted ∧
      t.trap.regs = { cause := BitVec.ofNat 32 (x.lane % 32 * 256 + x.cause.toNat), addrLo := x.lo, addrHi := x.hi, split := c.p.seq.setWidth 32
                      skid := if c.w.slots.any (fun l => l.seq.isSome && l.seq != some c.p.seq) then 0x20 else 0
                      cause2 := 0, pc := pc, pc2 := 0 } ∧
      t.trap.handler = some { warp := c.wi, seq := c.p.seq, stood := pc, arrival := c.p.arrival } ∧
      t.trap.hsave = c.t.trap.hsave ∧ t.trap.keyovr = c.t.trap.keyovr ∧ t.queues = c.t.queues ∧ t.scr = c.t.scr ∧ t.mtx = c.t.mtx ∧
      t.warps[c.wi]? = some w ∧ w.vregs = c.w.vregs ∧ w.sregs = c.w.sregs ∧ w.preds = c.w.preds ∧ w.flags = c.w.flags ∧
      w.exited = c.w.exited ∧
      w.halt = { slots := standing c.w (fun p => if p.seq = c.p.seq then pc else p.unitPc), setA := c.p.setA, setB := c.p.setB
                 arm := c.p.arm, mpc := c.p.mpc } ∧
      findSplit w.table c.p.seq = some { c.p with
        pc := handlerEntry c.s c.t.ident.job c.w.role, immRun := 0, setA := 15, setB := 15, blk := 0, wake := none, arrival := none } ∧
      (∀ k u, k ≠ c.wi → c.t.warps[k]? = some u → ∃ v, t.warps[k]? = some v ∧ v.vregs = u.vregs ∧ v.sregs = u.sregs ∧
        v.preds = u.preds ∧ v.flags = u.flags ∧ v.halt.slots = standing u Split.unitPc) ∧
      (∀ id, id ≠ c.t.id → (takeTrap c x pc).team? id = c.s.team? id) ∧
      takeTrap c x pc = writeHalts { c.s with teams := (takeTrap c x pc).teams } t ∧
      ∀ a, (a < t.save.frame ∨ t.save.frame + frameBytes ≤ a) → (∀ w ∈ t.warps, w.index < 24 ∧ w.slots.length = 2) →
        readPhys (takeTrap c x pc) 0 a = readPhys c.s 0 a

/-- R304, R306, R297: a trap of the handler's own split, and one in a split whose role has no handler, end the team, and its task fails with the trap's cause as CODE. -/
def Obligations.TrapEndsTeam : Prop :=
  ∀ (s : State) (c : Ctx) (x : TrapInfo) (pc : DWord), Issuing s c →
    (c.inHandler = true ∨ c.t.trap.handler = none ∧ handlerEntry c.s c.t.ident.job c.w.role = 0) →
    takeTrap c x pc = failTask (endTeam c.commit c.t.id .finished) c.t.ident.task x.cause.toNat c.t.ident.linear

/-- R78, R266, R305, R386: RETT of the handler's split, the release of its lanes ready, releases and acquires as their fence, sets PC to TRAPPC with bits 1:0 clear and gives the split back the header, ARM and MPC of its halt record; the handler then ends for the team. A recorded secondary whose split still stands at its PC is then delivered as a fresh trap, VIEWCHG with the view its group holds then, the SLOTPOISON of a stopped drain marking it reported. Without one and outside a job stop the team is resident again, no split holds handler privilege and KEYOVR is 0. Outside a handler, in the halted team's other splits too, RETT and HALTT raise PRIV. -/
def Obligations.HandlersEnd : Prop :=
  (∀ (g : BitVec 4) (s : State) (c : Ctx) (h : Handler), Issues s .both c → c.inHandler = true → c.t.trap.handler = some h →
    (c.act g = 0 → Completes (.rett g) s c (c.p.pc + 4) ∧ Completes (.haltt g) s c (c.p.pc + 4)) ∧
    (c.act g ≠ 0 →
      let pc := c.t.trap.regs.pc &&& ~~~3
      let e := (c.releases c.p.mask).acquires c.p.mask
      (releaseReady c c.p.mask 3 = true → exec (.rett g) s = .next (finishRes c (.ended (endHandler
        { e with p := { c.p with pc := pc, immRun := 0, setA := c.w.halt.setA, setB := c.w.halt.setB, arm := c.w.halt.arm, mpc := c.w.halt.mpc
                                 blk := 0
                                 arrival := if pc = h.stood then h.arrival else none } }.commit c.t.id)))) ∧
      exec (.haltt g) s = .next (finishRes c (.gone (failTask (endTeam c.commit c.t.id .finished) c.t.ident.task
        (c.t.trap.regs.cause.setWidth 8).toNat c.t.ident.linear))))) ∧
  (∀ (g : BitVec 4) (s : State) (c : Ctx), Issues s .both c → c.inHandler = false →
    Traps (.rett g) s c (plain causePRIV) ∧ Traps (.haltt g) s c (plain causePRIV)) ∧
  (∀ (s : State) (t : Team), s.team? t.id = some t → t.trap.handler.isSome → bitOf t.trap.regs.cause2 8 = false →
    ¬s.die.stoppedJobs.contains t.ident.job →
    ∃ u, (endHandler s t.id).team? t.id = some u ∧ u.status = .resident ∧ u.trap.handler = none ∧ u.trap.keyovr = 0 ∧
      u.warps = t.warps.map Warp.vacate ∧ u.trap.hsave = t.trap.hsave ∧ u.trap.regs.pc = t.trap.regs.pc ∧
      (∀ id, id ≠ t.id → (endHandler s t.id).team? id = s.team? id)) ∧
  (∀ (s : State) (t : Team) (h : Handler) (w : Warp) (p : Split), s.team? t.id = some t → t.trap.handler = some h →
    bitOf t.trap.regs.cause2 8 = true → t.warps[h.warp]? = some w →
    findSplit w.table (BitVec.ofNat 16 (bitsOf t.trap.regs.cause2 16 16)) = some p → p.unitPc = t.trap.regs.pc2 →
    let u : Team := { t with
      status := .resident, warps := t.warps.map Warp.vacate
      trap := { t.trap with handler := none, skid := none, keyovr := 0
                            regs := { t.trap.regs with cause2 := setBits t.trap.regs.cause2 8 1 0 } } }
    let cause := BitVec.ofNat 8 (bitsOf t.trap.regs.cause2 0 8)
    let view := match s.group? t.trap.second.lo.toNat with | some x => x.view | none => 0
    let i : TrapInfo := { cause := cause, lo := t.trap.second.lo, lane := t.trap.second.lane
                          hi := if cause = causeVIEWCHG then view else t.trap.second.hi }
    let drain := u.stopped.find? (fun d => t.trap.second.drain == some d.id)
    ((cause ≠ causeSLOTPOISON ∨ drain = none) →
      endHandler s t.id = takeTrap { s := s.setTeam u, t := u, w := w.vacate, p := p, wi := h.warp } i t.trap.second.pc) ∧
    (∀ d, cause = causeSLOTPOISON → drain = some d → endHandler s t.id = takeTrap
      { s := s.setTeam u, t := { u with stopped := u.stopped.filter (fun x => x.id != d.id) }, w := w.vacate.unbind d.flag, p := p, wi := h.warp }
      i t.trap.second.pc))

/-- R36, R309, R310: RDSR writes the value R309 gives the register to D in the active lanes; a register from 0x40 up is PRIV outside the handler, one R309 does not list is ILLOP, and an odd D for a wide one is ILLOPND. R36, R301, R309, R311: WRSR in the handler writes TRAPPC with bits 1:0 clear, TRAPCAUSE2 without bits 15:9, KEYOVR with bits 31 and 10:0, and HSAVE0 to HSAVE3 whole, from the lowest active lane; any other register is ILLOP, and outside the handler WRSR is PRIV. -/
def Obligations.SpecialRegisters : Prop :=
  (∀ (g : BitVec 4) (d : BitVec 6) (m : BitVec 7) (s : State) (c : Ctx), Issues s .both c →
    (0x40 ≤ m.toNat → c.inHandler = false → Traps (.rdsr g d m) s c (plain causePRIV)) ∧
    ((m.toNat < 0x40 ∨ c.inHandler = true) →
      ((∀ r ∈ specials c, r.1 ≠ m.toNat) → Traps (.rdsr g d m) s c (plain causeILLOP)) ∧
      (∀ r ∈ specials c, r.1 = m.toNat →
        (destOk c d.toNat r.2.1 = false → Traps (.rdsr g d m) s c (plain causeILLOPND)) ∧
        (destOk c d.toNat r.2.1 = true →
          Completes (.rdsr g d m) s (c.setD d.toNat r.2.1 (c.act g) (fun L => BitVec.ofNat 64 (r.2.2 L))) (c.p.pc + 4))))) ∧
  ((∀ (g : BitVec 4) (a m : BitVec 7) (s : State) (c : Ctx), Issues s .both c →
    (c.inHandler = false → Traps (.wrsr g a m) s c (plain causePRIV)) ∧
    (c.inHandler = true → m ≠ 0x13 → m ≠ 0x16 → m ≠ 0x44 → (m.toNat < 0x48 ∨ 0x4B < m.toNat) → Traps (.wrsr g a m) s c (plain causeILLOP))) ∧
  (∀ (g : BitVec 4) (a m : BitVec 7) (s : State) (c c' : Ctx) (vs : List (Nat → DWord)), c.inHandler = true → c.act g ≠ 0 →
    let v := val vs 0 (lane0 (c.act g))
    let goal (f : TrapSide → TrapSide) : Prop := Completes (.wrsr g a m) s { c' with t := { c'.t with trap := f c'.t.trap } } (c.p.pc + 4)
    (m = 0x13 → Reads s .both c g [op64 a] c' vs → goal (fun t => { t with regs := { t.regs with pc := v &&& ~~~3 } })) ∧
    (Reads s .both c g [op32 .int a] c' vs →
      (m = 0x16 → goal (fun t => { t with regs := { t.regs with cause2 := loWord v &&& 0xFFFF01FF } })) ∧
      (m = 0x44 → goal (fun t => { t with keyovr := loWord v &&& 0x800007FF })) ∧
      (0x48 ≤ m.toNat → m.toNat ≤ 0x4B → goal (fun t => { t with hsave := updAt t.hsave (m.toNat - 0x48) (fun _ => loWord v) })))))

/-- R322, R323: TLBINV of the handler drops, on the whole die, the job's translations, those of the job that hold the page of a VA, or all, once the stores made under them are performed; outside the handler it is PRIV. ICINV drops the fetched lines of the core, or of every core. -/
def Obligations.InvalidationsComplete : Prop :=
  (∀ (g : BitVec 4) (a : BitVec 4) (s : State) (c : Ctx), Issues s .both c →
    (c.inHandler = false → Traps (.tlbinvJob g) s c (plain causePRIV) ∧ Traps (.tlbinvPage g a) s c (plain causePRIV) ∧
      Traps (.tlbinvAll g) s c (plain causePRIV)) ∧
    (c.inHandler = true → c.act g = 0 → Completes (.tlbinvJob g) s c (c.p.pc + 4) ∧ Completes (.tlbinvPage g a) s c (c.p.pc + 4) ∧
      Completes (.tlbinvAll g) s c (c.p.pc + 4)) ∧
    (c.inHandler = true → c.act g ≠ 0 →
      let left (p : TlbEntry → Bool) : Ctx := { c with s := { c.s with
        cores := c.s.cores.map (fun k => { k with tlb := k.tlb.filter (fun e => !p e) })
        clusters := c.s.clusters.map (fun k => { k with tlb := k.tlb.filter (fun e => !p e) }) } }
      (storesInFlight c.s (some c.t.ident.job) = false →
        Completes (.tlbinvJob g) s (left (fun e => e.job == c.t.ident.job)) (c.p.pc + 4) ∧
        Completes (.tlbinvPage g a) s (left (fun e => tlbHits c.t.ident.job (c.w.s64 (2 * a.toNat)).toNat e)) (c.p.pc + 4)) ∧
      (storesInFlight c.s none = false → Completes (.tlbinvAll g) s (left (fun _ => true)) (c.p.pc + 4)))) ∧
  (∀ (g : BitVec 4) (s : State) (c : Ctx), Issues s .both c →
    (c.act g = 0 → Completes (.icinvCore g) s c (c.p.pc + 4) ∧ Completes (.icinvDevice g) s c (c.p.pc + 4)) ∧
    (c.act g ≠ 0 →
      Completes (.icinvCore g) s { c with s := c.s.updCore c.t.core (fun k => { k with icache := [] }) } (c.p.pc + 4) ∧
      Completes (.icinvDevice g) s { c with s := { c.s with cores := c.s.cores.map (fun k => { k with icache := [] }) } } (c.p.pc + 4)))

/-- R340: EGREL reads the ring's WCUR, acquiring, then releases: it moves RCUR forward by at most the entries written and not yet released, and returns its low word; a ring that is not valid or not the job's is PROT, and a misaligned WADDR is ALIGN: for the lowest active lane, which is the model's reading (notes/assumptions/21.md). -/
def Obligations.RingReleaseCompletes : Prop :=
  ∀ (f : FmtA) (s : State) (c : Ctx), Issues s .both c → regOk c f.d.toNat = true → isQueueSpec f.a = false → isQueueSpec f.b = false →
    (op32 .int f.a).ok c = true → (op32 .int f.b).ok c = true → c.act f.g ≠ 0 → releaseReady c (c.act f.g) 5 = true →
    let L0 := lane0 (c.act f.g)
    let e := bitsOf ((op32 .int f.a).value c L0) 0 8
    let n := bitsOf ((op32 .int f.b).value c L0) 0 32
    let r := egRing c.s e
    ((egValid r = false ∨ egJob r ≠ c.t.ident.job) → Traps (.egrel f) s c (trapAddr causePROT e L0)) ∧
    (egValid r = true → egJob r = c.t.ident.job → egWaddr r % 8 ≠ 0 → Traps (.egrel f) s c (trapAddr causeALIGN (egWaddr r) L0)) ∧
    (∀ m, egValid r = true → egJob r = c.t.ident.job → egWaddr r % 8 = 0 → egWaddr r < globalTop →
      translate c.s c.agent (egWaddr r) .r = .ok m →
      let w := readPhysNat c.s m.slot m.pa 8
      let rcur := max (egRcur r) (min (egRcur r + n) (min w (egHcur r + egCount r)))
      Completes (.egrel f) s ((({ (({ c with s := setEgRing c.s e (setBits r 192 64 rcur) } : Ctx).noteTlb [m.entry]) with
        w := c.w.setV f.d.toNat (c.act f.g) (fun _ => BitVec.ofNat 32 rcur) } : Ctx).acquires (c.act f.g)).releases (c.act f.g)) (c.p.pc + 4))

/-- R359 to R361, R366: a remote access whose lanes are aligned, in GLOBAL and of connected peers, with room in the core's table, sends one packet for each page of each peer, ranks and then pages ascending, each bound to the split's flag of its class, and completes. The first lane that fails a check traps. -/
def Obligations.RemoteAccessesComplete : Prop :=
  ∀ (f : FmtF) (s : State) (c : Ctx), ∀ r ∈ remotes f, Issues s .accessOnly c → r.2.2.2.1 c f.d.toNat = true →
    isQueueSpec f.a = false → isQueueSpec f.peer = false → (op64 f.a).ok c = true → (op32 .int f.peer).ok c = true →
    (c.act f.g = 0 → Completes r.1 s c (c.p.pc + 4)) ∧
    (c.act f.g ≠ 0 →
      let xs := remoteLanes c f.a f.peer (c.act f.g)
      let kind : RemoteKind := match r.2.2.2.2.1 with | some n => .load f.d.toNat n | none => .store
      let flag := flagOf (if r.2.2.2.2.1.isSome then c.p.setA else c.p.setB)
      (∀ x i, xs.find? (fun x => (remoteCheck c.s r.2.2.1 true x).isSome) = some x → remoteCheck c.s r.2.2.1 true x = some i → Traps r.1 s c i) ∧
      ((∀ x ∈ xs, x.2.2 % r.2.2.1 = 0 ∧ x.2.2 < globalTop ∧ x.2.1 < domainOf c.s ∧ inCgroup c.s x.2.1 = true) →
        remoteRoom c.s c.t.core (packetsOf xs).length = true →
        Completes r.1 s ((packetsOf xs).foldl (fun c p =>
          let c' := c.sendPacket r.2.1 kind flag (r.2.2.2.2.2 c.w f.d.toNat) p
          c'.withW (c'.w.bind flag)) c) (c.p.pc + 4)))

/-- R367, R373: RLDQ and XLDQ of the queue's producer, with room in the queue, reserve an entry whose active lanes are INFLIGHT, send the packets or, for XLDQ, one read for each block of 256 bytes, and complete bound to the SETA flag. A full queue blocks them with BLK 2. RLDQ takes no queue operand (R359); XLDQ may pop its offsets from one. That XLDQ's reads take no entry of the core's table of remote requests is the model's reading (notes/assumptions/33.md). -/
def Obligations.RemoteQueueReadsComplete : Prop :=
  (∀ (g q : BitVec 4) (a peer : BitVec 7) (wide : Bool) (s : State) (c : Ctx) (x : Queue), Issues s .accessOnly c → c.t.queue? q.toNat = some x →
    isProducer x c.w = true → x.dir = false → x.width = (if wide then 2 else 1) → isQueueSpec a = false → isQueueSpec peer = false →
    (op64 a).ok c = true → (op32 .int peer).ok c = true → c.act g ≠ 0 →
    let i : Instr := if wide then .rldqB64 g q a peer else .rldqB32 g q a peer
    let xs := remoteLanes c a peer (c.act g)
    (∀ y ∈ xs, y.2.2 % (x.bits / 8) = 0 ∧ y.2.2 < globalTop ∧ y.2.1 < domainOf c.s ∧ inCgroup c.s y.2.1 = true) →
    (x.canReserve = false → exec i s = .next (finishRes c (.block c 2))) ∧
    (x.canReserve = true → remoteRoom c.s c.t.core (packetsOf xs).length = true →
      let sent := (packetsOf xs).foldl (fun c p => c.sendPacket (if wide then 0xD7 else 0xD6) (.queue q.toNat x.tail) none (fun _ => []) p) c
      let flag := flagOf c.p.setA
      Completes i s { sent with
        t := (sent.t.setQueue (x.reserve (inflightEntry c.wi c.s.nextId (c.act g) (flag.map (fun n => (c.wi, n))) (fun L => (op64 a).value c L)
          (reqOfLane sent.s c.t.core c.s.nextId)))).signals (.entry c.s.nextId) c.wi (c.act g)
        w := sent.w.bind flag } (c.p.pc + 4))) ∧
  (∀ (g q : BitVec 4) (a : BitVec 7) (hr : BitVec 4) (s : State) (c c' : Ctx) (x : Queue) (vs : List (Nat → DWord)),
    Reads s .accessOnly c g [op64 a] c' vs → c.t.queue? q.toNat = some x →
    isProducer x c.w = true → x.dir = false → x.width = 2 → c.act g ≠ 0 →
    let h := c.w.s64 (2 * hr.toNat)
    let xs := (lanesOf (c.act g)).map (fun L => (L, (val vs 0 L).toNat))
    stackReady c.s (ueEntry c.s (bitsOf h 32 16)) = true → ueHandleOk c.s c.t.ident.job h = true → (∀ y ∈ xs, y.2 % 8 = 0) →
    (x.canReserve = false → exec (.xldq g q a hr) s = .next (finishRes c (.block c 2))) ∧
    (x.canReserve = true →
      let blocks := sortBy (fun a b => decide (a ≤ b)) (dedup (xs.map (fun y => y.2 / 256)))
      let sent := blocks.foldl (fun c b => c.sendRead q.toNat x.tail h b (xs.filter (fun y => y.2 / 256 == b))) c'
      let flag := flagOf c.p.setA
      Completes (.xldq g q a hr) s { sent with
        t := (sent.t.setQueue (x.reserve (inflightEntry c.wi c.s.nextId (c.act g) (flag.map (fun n => (c.wi, n))) (val vs 0)
          (reqOfLane sent.s c.t.core c.s.nextId)))).signals (.entry c.s.nextId) c.wi (c.act g)
        w := sent.w.bind flag } (c.p.pc + 4)))

/-- R360, R361, R368, R369: MCST to an active group, its lanes aligned and in GLOBAL, is recorded with the members of the view and replayed for each member, ranks ascending, each replay as soon as its packets find entries in the table; a table with room for all takes every packet at once. The group and the part bit come from the lowest active lane. That MCST is recorded as soon as the packets of one member fit, the other replays taking entries later, member by member, is the model's reading (notes/assumptions/33.md). A group that is not active is FABRIC. R388: RFENCE completes once no store of the core and no exchange store, remote request, word of an STFE or read of the split's lanes is outstanding, and no LDQ read of their team; that it waits for other lanes' stores and reads too is the model's choice (notes/assumptions/8.md and 46.md). -/
def Obligations.MulticastCompletes : Prop :=
  (∀ (f : FmtF) (s : State) (c c' : Ctx) (vs : List (Nat → DWord)), Reads s .accessOnly c f.g [op64 f.a, op32 .int f.peer] c' vs →
    regOk c f.d.toNat = true → c.act f.g ≠ 0 →
    let grp := val vs 1 (lane0 (c.act f.g))
    let xs : List RLane := (lanesOf (c.act f.g)).map (fun L => (L, 0, (val vs 0 L).toNat))
    (∀ x ∈ xs, x.2.2 % 4 = 0 ∧ x.2.2 < globalTop) →
    ((∀ g, c.s.group? (bitsOf grp 0 6) = some g → g.active = false) → Traps (.mcst f) s c
      { cause := causeFABRIC, lo := BitVec.ofNat 32 (ownRank c.s), hi := 0, lane := lane0 (c.act f.g) }) ∧
    (∀ g, c.s.group? (bitsOf grp 0 6) = some g → g.active = true →
      let ps : List ReplayPacket := (packetsOf xs).map (fun p =>
        { lanes := p.2.map (fun x => (x.1, BitVec.ofNat 64 x.2.2, [(c.w.v f.d.toNat x.1).setWidth 64])) })
      let flag := flagOf c.p.setB
      let m : Mcast := { op := c'.s.nextId, team := c.t.id, warp := c.wi, seq := c.p.seq, flag := flag, stream := c.w.streamId.toNat
                         job := c.t.ident.job, part := bitOf grp 8, members := g.bitmap, failed := []
                         todo := (membersOf g.bitmap).map (fun r => { rank := r, packets := ps }) }
      let begun := ({ c' with s := c'.s.fresh.2.updFab (fun b => { b with mcasts := b.mcasts ++ [m] }), w := c'.w.bind flag } : Ctx).advance.commit
      (remoteRoom c.s c.t.core ps.length = true →
        exec (.mcst f) s = .next (finishRes c (.gone (replayMcast c.t.core m m.todo begun)))) ∧
      (remoteUsed c.s c.t.core + (membersOf g.bitmap).length * ps.length ≤ 256 →
        replayMcast c.t.core m m.todo begun = ((membersOf g.bitmap).foldl (fun s r => ps.foldl (sendMcast · c.t.core m r) s) begun).updFab (fun b =>
          { b with mcasts := b.mcasts.map (fun x => if x.op = m.op then { x with todo := [] } else x) })))) ∧
  (∀ (g : BitVec 4) (s : State) (c : Ctx), Issues s .accessOnly c →
    (c.act g = 0 ∨ (c.s.core c.t.core).stores = [] ∧ exchangePending c.s c.t.id c.wi (c.act g) = false ∧ fenceRemote c (c.act g) = false ∧
      lanesDone c.s c.t c.wi (c.act g) c.s.nextId = true ∧ teamRereading c.t = false) →
    Completes (.rfence g) s (if c.act g = 0 then c else c.releases (c.act g)) (c.p.pc + 4))

/-- R381 to R386: COLL takes a free slot and the next sequence number of its group, and the collective engine takes it over; on a group that is not active the slot is aborted at once. CWAIT waits with BLK 6 for a running slot, frees one that is done and gives its result to D, and takes VIEWCHG, going on at the next word, on an aborted one; the lane it reports is the lowest active one, which is the model's choice (notes/assumptions/48.md). -/
def Obligations.CollectivesComplete : Prop :=
  (∀ (f : FmtAB) (s : State) (c c' : Ctx) (vs : List (Nat → DWord)) (ps : List Place) (es : List TlbEntry),
    Reads s .accessOnly c f.g [op32 .int f.b] c' vs → isSPair f.a = true → c.act f.g ≠ 0 →
    let slot := bitsOf (val vs 0 (lane0 (c.act f.g))) 0 32
    let va := (c.w.s64 (sNum f.a)).toNat
    slot ≤ 7 → slotOf c.t slot = .free → va % 64 = 0 → va + 64 ≤ globalTop → globalPlaces c.s c.agent va 64 .r = .ok ps es →
    elemPoisoned c.s c.t.core ps = false → elemL2Poisoned c.s ps = false → overtakesAny c ((lanesOf c.p.mask).map (fun L => (L, ps))) = false →
    c.s.fab.colls.length < 256 → releaseReady c (c.act f.g) 4 = true →
    let d : CDesc := BitVec.ofNat 512 (readElem c.s c.t ps)
    let k := (c'.noteTlb es).releases (c.act f.g)
    descOk c.s d = true →
    ((∀ g, k.s.group? (cdGroup d) = some g → g.active = false) →
      Completes (.coll f) s (k.setSlot slot (.aborted (cdGroup d))) (c.p.pc + 4)) ∧
    (∀ g, k.s.group? (cdGroup d) = some g → g.active = true →
      let flag := flagOf c.p.setA
      let x : Coll :=
        { id := k.s.fresh.1, team := c.t.id, slot := slot, flag := flag.map (fun n => (c.wi, n)), job := c.t.ident.job, desc := d
          seq := g.seq, digest := cdDigest d, started := false, inputs := [], digests := [], faults := [], ownFault := 0
          since := k.s.fresh.2.clock, result := none, status := 0, view := g.view, members := g.bitmap, holder := none, wait := [] }
      exec (.coll f) s = .next (finishRes c (.gone (passColl
        (({ k with s := k.s.fresh.2, w := k.w.bind flag } : Ctx).setSlot slot (.running x.id)).advance.commit g x))))) ∧
  (∀ (f : FmtU) (s : State) (c c' : Ctx) (vs : List (Nat → DWord)), Reads s .accessOnly c f.g [op32 .int f.a] c' vs →
    pairOk c f.d.toNat = true → c.act f.g ≠ 0 →
    let slot := bitsOf (val vs 0 (lane0 (c.act f.g))) 0 32
    slot ≤ 7 →
    (slotOf c.t slot = .free → Traps (.cwait f) s c (plain causeILLOPND)) ∧
    (∀ id, slotOf c.t slot = .running id → exec (.cwait f) s = .next (finishRes c (.block c 6))) ∧
    (∀ v, slotOf c.t slot = .done v → readsOwed c.s c.t c.wi (c.act f.g) = false →
      Completes (.cwait f) s (((c'.setSlot slot .free).acquires (c.act f.g)).setD f.d.toNat true (c.act f.g) (fun _ => v)) (c.p.pc + 4)) ∧
    (∀ g, slotOf c.t slot = .aborted g → c.t.trap.handler = none →
      let e := c'.setSlot slot .free
      exec (.cwait f) s = .next (takeTrap { e with p := { e.p with arrival := none } }
        { cause := causeVIEWCHG, lo := BitVec.ofNat 32 g, lane := lane0 (c.act f.g)
          hi := match c.s.group? g with | some x => x.view | none => 0 } (c.p.pc + 4))))

namespace Sys2Proof.Claims
open Sys2Proof.Machine

/-- R387: v is the word that VIEWQ writes in lane L for a selector and a group. -/
def viewWord (c : Ctx) (grp sel L : Nat) (v : Word) : Prop :=
  let first := 1024 * (sel / 16 % 4) + 32 * L
  let part (b : BitVec 4096) : Prop := ∀ i, i < 32 → bitOf v i = bitOf b (first + i)
  let members (b : BitVec 4096) (n : Nat) : Nat := ((List.range n).filter (fun r => bitOf b r)).length
  (sel % 16 ≤ 4 → (∀ g, c.s.group? (grp % 64) = some g → g.st = .uninstalled) → v = 0) ∧
  (∀ g, c.s.group? (grp % 64) = some g → g.st ≠ .uninstalled →
    (sel % 16 = 0 → v = g.view) ∧
    (sel % 16 = 1 → v = BitVec.ofNat 32 (members g.bitmap 4096)) ∧
    (sel % 16 = 2 → (g.st = .excluded ∨ bitOf g.bitmap (ownRank c.s) = false) → v = 0xFFFFFFFF) ∧
    (sel % 16 = 2 → g.st ≠ .excluded → bitOf g.bitmap (ownRank c.s) = true → v = BitVec.ofNat 32 (members g.bitmap (ownRank c.s))) ∧
    (sel % 16 = 3 → v = match g.st with | .uninstalled => 0 | .stable => 1 | .agreeing => 2 | .excluded => 3 | .joining => 4) ∧
    (sel % 16 = 4 → part g.bitmap)) ∧
  (sel % 16 = 5 → part c.w.mcast.bits) ∧
  (sel % 16 = 7 → v = BitVec.ofNat 32 c.w.mcast.fails) ∧
  (sel % 16 = 6 → (c.w.rfault = none ∨ 5 ≤ L) → v = 0) ∧
  (∀ x, sel % 16 = 6 → c.w.rfault = some x →
    (L = 0 → v = BitVec.ofNat 32 (x.cause.toNat + x.lane * 256 + x.opc.toNat * 65536)) ∧
    (L = 1 → v = x.rank.setWidth 32) ∧
    (L = 2 → v = BitVec.ofNat 32 (x.addr.toNat % 2 ^ 32)) ∧
    (L = 3 → v = BitVec.ofNat 32 (x.addr.toNat / 2 ^ 32 % 2 ^ 25)) ∧
    (L = 4 → v = BitVec.ofNat 32 x.count))

end Sys2Proof.Claims

/-- R387, R389: VIEWQ gives the selected word: the view number, count, own place, state or bitmap of the group, 0 of one not installed, the warp's multicast status or count of failures, or its remote fault record, which selector 6 empties; a selector whose low four bits are above 7 is ILLOP. VIEWCTL is the handler's: join answers 1 in a stable member and else asks the members, answering 0; a device without a last view asks the connected group, which is the model's choice (notes/assumptions/35.md). Leave asks to leave a group the device is in, answering 0, and else answers 1; a request that finds another under way waits for its commit, which is the model's choice too (notes/assumptions/35.md). Init announces the CRC of the bitmap of a new group and waits; one with the CRC of an attempt under way joins its wait, and one with another ends the attempt and answers 2. It answers 0 when its attempt has installed the group, 2 when the attempt has failed, 3 for a bitmap without the device and 4 for an installed group. -/
def Obligations.ViewsAnswer : Prop :=
  (∀ (f : FmtA) (s : State) (c c' : Ctx) (vs : List (Nat → DWord)), Reads s .accessOnly c f.g [op32 .int f.a, op32 .int f.b] c' vs →
    regOk c f.d.toNat = true → c.act f.g ≠ 0 →
    let grp := (val vs 0 (lane0 (c.act f.g))).toNat
    let sel := (val vs 1 (lane0 (c.act f.g))).toNat
    (7 < sel % 16 → Traps (.viewq f) s c (plain causeILLOP)) ∧
    (sel % 16 ≤ 7 →
      ∃ v : Nat → Word, (∀ L, L < 32 → viewWord c' grp sel L (v L)) ∧
        let w := c'.w.setV f.d.toNat (c.act f.g) v
        Completes (.viewq f) s (c'.withW (if sel % 16 = 6 then { w with rfault := none } else w)) (c.p.pc + 4))) ∧
  (∀ (f : FmtU) (s : State) (c c' : Ctx) (vs : List (Nat → DWord)), Reads s .accessOnly c f.g [op32 .int f.a] c' vs →
    regOk c f.d.toNat = true →
    (c.inHandler = false → Traps (.viewctlJoin f) s c (plain causePRIV) ∧ Traps (.viewctlLeave f) s c (plain causePRIV)) ∧
    (c.inHandler = true → c.act f.g ≠ 0 →
      let gn := bitsOf (val vs 0 (lane0 (c.act f.g))) 0 6
      let me := ownRank c'.s
      (c'.s.group? gn = none →
        (let x := Group.pending gn c'.t.ident.job 0 none 0 c'.s.clock
         let u := c'.s.updFab (fun b => { b with groups := b.groups ++ [x] })
         Completes (.viewctlJoin f) s (({ c' with s := sendJoin u x (askable u) false } : Ctx).answer f.g f.d 0) (c.p.pc + 4)) ∧
        Completes (.viewctlLeave f) s (c'.answer f.g f.d 1) (c.p.pc + 4)) ∧
      (∀ x, c'.s.group? gn = some x →
        (x.st = .stable → bitOf x.bitmap me = true → Completes (.viewctlJoin f) s (c'.answer f.g f.d 1) (c.p.pc + 4)) ∧
        ((x.st ≠ .stable ∨ bitOf x.bitmap me = false) →
          let dests := if x.st = .uninstalled then askable c'.s else otherMembers c'.s x.bitmap
          Completes (.viewctlJoin f) s (({ c' with s := sendJoin c'.s x dests false } : Ctx).answer f.g f.d 0) (c.p.pc + 4)) ∧
        ((x.active = false ∨ bitOf x.bitmap me = false) → Completes (.viewctlLeave f) s (c'.answer f.g f.d 1) (c.p.pc + 4)) ∧
        (x.active = true → bitOf x.bitmap me = true →
          let u := c'.s.updGroup gn (fun x =>
            if x.joiner.isSome ∨ x.proposal.isSome ∨ x.seen ≠ [] then { x with asks := x.asks ++ [(me, true)] }
            else { x with joiner := some (me, true), st := if x.st = .stable then .joining else x.st })
          Completes (.viewctlLeave f) s (({ c' with s := sendJoin u x (otherMembers u x.bitmap) true } : Ctx).answer f.g f.d 0) (c.p.pc + 4))))) ∧
  (∀ (g : BitVec 4) (d : BitVec 6) (a : BitVec 7) (b : BitVec 4) (s : State) (c c' : Ctx) (vs : List (Nat → DWord)),
    Reads s .accessOnly c g [op32 .int a] c' vs → regOk c d.toNat = true →
    (c.inHandler = false → Traps (.viewctlInit g d a b) s c (plain causePRIV)) ∧
    (c.inHandler = true → c.act g ≠ 0 →
      let gn := bitsOf (val vs 0 (lane0 (c.act g))) 0 6
      (∀ n id, c.p.arrival = some (.init n id) →
        (c.s.group? n = none → Completes (.viewctlInit g d a b) s (c'.answer g d 2) (c.p.pc + 4)) ∧
        (∀ x, c.s.group? n = some x →
          (x.initId ≠ id → Completes (.viewctlInit g d a b) s (c'.answer g d 2) (c.p.pc + 4)) ∧
          (x.initId = id → x.st ≠ .uninstalled → Completes (.viewctlInit g d a b) s (c'.answer g d 0) (c.p.pc + 4)) ∧
          (x.initId = id → x.st = .uninstalled → exec (.viewctlInit g d a b) s = .next (finishRes c (.block c 6))))) ∧
      (∀ ps es, c.p.arrival = none →
        let va := (c.w.s64 (2 * b.toNat)).toNat
        va % 64 = 0 → va + 512 ≤ globalTop → globalPlaces c.s c.agent va 512 .r = .ok ps es →
        elemPoisoned c.s c.t.core ps = false → elemL2Poisoned c.s ps = false → overtakesAny c ((lanesOf c.p.mask).map (fun L => (L, ps))) = false →
        let bm : BitVec 4096 := BitVec.ofNat 4096 (readElem c.s c.t ps)
        let digest := crc32c (leBytes 512 bm.toNat)
        let job := c.t.ident.job
        let announce (u : State) (members : BitVec 4096) : State := (otherMembers u members).foldl (fun u r =>
          send u 36 (.initReady (controlHead u r job 6 gn 0) digest)) u
        let waits (u : State) (id : Nat) : Prop := exec (.viewctlInit g d a b) s = .next (finishRes c (.block
          { c with s := u, p := { c.p with arrival := some (.init gn id) } } 6))
        let begins (u : State) : Prop :=
          waits (announce (u.updFab (fun f => { f with groups := f.groups ++ [Group.pending gn job bm (some digest) c.s.nextId c.s.clock] })) bm) c.s.nextId
        (bitOf bm (ownRank c.s) = false → Completes (.viewctlInit g d a b) s ((c'.noteTlb es).answer g d 3) (c.p.pc + 4)) ∧
        (bitOf bm (ownRank c.s) = true →
          (c.s.group? gn = none → begins c.s.fresh.2) ∧
          (∀ x, c.s.group? gn = some x →
            (x.st ≠ .uninstalled → Completes (.viewctlInit g d a b) s ((c'.noteTlb es).answer g d 4) (c.p.pc + 4)) ∧
            (x.st = .uninstalled → x.initDigest = none → begins (dropGroup c.s.fresh.2 gn)) ∧
            (x.st = .uninstalled → x.initDigest = some digest → waits c.s x.initId) ∧
            (∀ e, x.st = .uninstalled → x.initDigest = some e → e ≠ digest → Completes (.viewctlInit g d a b) s
              (({ c'.noteTlb es with s := dropGroup (announce c.s x.bitmap) gn } : Ctx).answer g d 2) (c.p.pc + 4)))))))

/-- R25, R69, R138, R143, R147, R155, R208, R219, R323, R326: the events of splits and of accesses in flight. A completed load writes its registers and releases its flag; a store is performed after the older ones of its core to the same bytes, a stream store in its turn at the slice; an exchange store lands in the receiver's shadow bank; a local queue lane becomes VALID, and one whose page has come is read again, once the outstanding request table has room (R143) and the lane's earlier accesses to its bytes are over (R214, R217); a blocked or long-running live split gives its slot to a waiting one; a sleeping split wakes; a fetched word is held in its core's instruction cache. -/
def Obligations.AccessEvents : Prop :=
  (∀ (op : Nat) (l : PLoad) (s : State), clockRuns s = true → s.die.loads.find? (fun x => x.op == op) = some l →
    exec (.loadComplete op) s = .next (opEnded (updWarp (s.updDie (fun d => { d with loads := d.loads.filter (fun x => x.op != op) })) l.team l.warp
      (fun w => l.writes.foldl (fun w x => w.put1 x.1 x.2.1 x.2.2) (w.unbind l.flag))) l.team)) ∧
  (∀ (op c : Nat) (st : PStore) (s : State), clockRuns s = true → findStore s op = some (c, st) → olderFirst (s.core c).stores st = true →
    let performed := ((touchPools (writeBytes (s.updCore c (fun k => { k with stores := k.stores.filter (fun x => x.op != st.op) }))
      st.key st.uncached st.bytes) (st.bytes.map (·.1))).unbind st.team st.warp st.flag)
    (st.stream = none → exec (.storePerformed op) s = .next (opEnded performed st.team)) ∧
    (st.stream.isSome → streamTurn (s.core c).stores st = true → exec (.streamStoreRelease op) s = .next (opEnded performed st.team))) ∧
  (∀ (op : Nat) (x : ExStore) (s : State), clockRuns s = true → s.die.exStores.find? (fun x => x.op == op) = some x → exBehind s x = false →
    exec (.exchangeStoreLand op) s = .next (opEnded ((((s.updTeam x.target (fun t => { t with scr := { t.scr with
      bytes := t.scr.bytes.write (shadowOffset t.scr x.off) x.bytes } })).updDie (fun d => { d with
        exStores := d.exStores.filter (fun y => y.op != op) })).unbind x.team x.warp x.flag)) x.team)) ∧
  (∀ (id n slot L : Nat) (t : Team) (q : Queue) (s : State), clockRuns s = true → s.team? id = some t → t.placed = true → t.status ≠ .restoring →
    t.queue? n = some q →
    let l := (q.entries.getD slot QEntry.empty).lane L
    (l.st = .inflight → l.req = none → exec (.ldqLanding id n slot L) s = .next (landLane s id n slot L { l with st := .valid })) ∧
    (l.st = .refetch → refetchWaits s t q slot L l = false → exec (.ldqLanding id n slot L) s = .next (refetchLane s t q slot L l)) ∧
    (l.st = .refetch → Config.requestEntries ≤ requestsUsed s t.core → exec (.ldqLanding id n slot L) s = .next s)) ∧
  (∀ (id wi slot : Nat) (t : Team) (w : Warp) (l : LiveSlot) (p : Split) (s : State), s.team? id = some t → t.status = .resident →
    t.warps[wi]? = some w → w.slots[slot]? = some l → slotSplit w slot = some p → (p.blk ≠ 0 ∨ 256 ≤ l.issued) → w.waiting ≠ [] →
    (∀ u ∈ s.teams, u.id = id → u = t) → exec (.splitRotation id wi slot) s = .next (updWarp s id wi (fun _ => w.rotate s.clock slot))) ∧
  (∀ (id wi q : Nat) (t : Team) (s : State), s.team? id = some t → t.status = .resident →
    exec (.sleepWake id wi q) s = .next ((updWarp s id wi (fun w => w.updSplit (BitVec.ofNat 16 q) (Split.wakeAt s.clock))).updTeam id
      (fun x => x.refill s.clock))) ∧
  (∀ (id wi slot : Nat) (t : Team) (w : Warp) (p : Split) (x : Word) (e : TlbEntry) (s : State), s.team? id = some t → t.placed = true →
    t.warps[wi]? = some w → slotSplit w slot = some p → fetchWord s t p = .word x e →
    exec (.instructionFetch id wi slot) s = .next (noteFetch s t p.pc.toNat x e))

/-- Split p stands unblocked in a live slot of warp wi of team t and may issue (R69, R299). -/
def Sys2Proof.Claims.mayTake (s : State) (id wi slot : Nat) (t : Team) (w : Warp) (p : Split) : Prop :=
  s.team? id = some t ∧ t.warps[wi]? = some w ∧ slotSplit w slot = some p ∧ mayIssue t wi w p = true ∧ p.blk = 0

/-- R151 to R155, R163, R303, R363, R369: QDEAD, a recorded remote failure and a multicast failure are delivered as traps in a live split that their rules name; the delivery of a trap ends the team's skid, each of its splits at the unit it stands in (R33); a waiting page takes a freed entry of the core's table; an answer to an outstanding request marks the page in the teams that wait for it and lets the core's, the dispatcher's or the fabric unit's work go on: that the dispatcher's and the fabric unit's requests stand in tables of their own, numbered 24 and 25, is the model's choice (notes/assumptions/37.md); a pending boundary move is made once the dirty lines of the core fit what it leaves of L1, which lines lie in its range being the model's choice (notes/assumptions/48.md). -/
def Obligations.DeliveryEvents : Prop :=
  (∀ (id wi : Nat) (t : Team) (p : Split) (s : State), clockRuns s = true → s.team? id = some t → 4096 ≤ t.save.qdead → queueStalled t = true →
    qdeadSplit t = some (wi, p) →
    let on := t.warps.flatMap (fun w => (w.table.filter (fun x => x.blk == 2)).flatMap (blockedOn s t))
    exec (.qdeadTimeout id) s = .next (eventTrap s id wi p.seq (fun c => takeTrap c
      { cause := causeQDEAD, lo := BitVec.ofNat 32 ((dedup on).foldl (fun n q => n + 2 ^ q) 0), hi := 0, lane := 0 } c.p.unitPc))) ∧
  (∀ (id : Nat) (t : Team) (s : State), s.team? id = some t → t.trap.handler.isSome →
    exec (.trapDelivery id) s = .next (s.updTeam id (fun t => if t.trap.handler.isSome then { t with
      trap := { t.trap with skid := none }
      warps := t.warps.map (fun w => { w with table := w.table.map (fun p => { p with pc := p.unitPc, immRun := 0 }) }) } else t))) ∧
  (∀ (id k wi slot : Nat) (t : Team) (w : Warp) (p : Split) (r : FaultRecord) (s : State), Claims.mayTake s id wi slot t w p →
    faultDue t wi w p = some (k, r) →
    ∃ (wi slot : Nat) (w : Warp) (p : Split) (r : FaultRecord) (c : Ctx), Claims.mayTake s id wi slot t w p ∧ faultDue t wi w p = some (k, r) ∧
      ctxAt s t wi p.seq = some c ∧ exec (.remoteFaultDelivery id k) s = .next (deliverFault c k r)) ∧
  (∀ (id k wi slot : Nat) (m : BitVec 16 × Nat) (t : Team) (w : Warp) (p : Split) (s : State), Claims.mayTake s id wi slot t w p →
    mcastDue t wi w p = some (k, m) →
    ∃ (wi slot : Nat) (m : BitVec 16 × Nat) (w : Warp) (p : Split) (c : Ctx), Claims.mayTake s id wi slot t w p ∧ mcastDue t wi w p = some (k, m) ∧
      ctxAt s t wi p.seq = some c ∧ exec (.mcastpartDelivery id k) s = .next (deliverMcast c k m)) ∧
  (∀ (wi k : Nat) (m : BitVec 16 × Nat) (t : Team) (w : Warp) (p : Split), mcastDue t wi w p = some (k, m) →
    ∃ x, t.warps[k]? = some x ∧ m ∈ x.mcast.pending ∧ deliversTo t wi w p k m.1 = true) ∧
  (∀ (core : Nat) (x : Nat × Nat) (r : List (Nat × Nat)) (s : State), clockRuns s = true → core < s.cores.length → (s.core core).waiters = x :: r →
    (s.core core).pages.length < 64 →
    exec (.pageRequestEnter core) s = .next (s.updCore core (fun _ => { s.core core with waiters := r, pages := (s.core core).pages ++ [x] }))) ∧
  (∀ (a : PageAnswer) (s : State), clockRuns s = true → requested s a = true →
    let u := noteAnswers s a.job a.page a.present
    (a.core < 24 → exec (.pageAnswer a) s = .next (answerCore u a.core a.job a.page a.present)) ∧
    (a.core = 24 → exec (.pageAnswer a) s = .next (answerDispatcher u a.job a.page a.present)) ∧
    (24 < a.core → exec (.pageAnswer a) s = .next (answerFabric u a.job a.page a.present))) ∧
  (∀ (core n : Nat) (s : State), clockRuns s = true → core < s.cores.length → (s.core core).raising = some n →
    let dirty := ((s.core core).stores.filter (fun st => st.l1)).length
    let kept := Config.arrayLines - max (s.core core).boundary n / 128
    (dirty ≤ kept → exec (.boundaryMove core) s = .next (s.updCore core (fun _ => { s.core core with
      boundary := max (s.core core).boundary n, raising := none }))) ∧
    (kept < dirty → exec (.boundaryMove core) s = .next s))

/-- R168, R169, R227, R244, R327, R329, R346 to R348, R352, R357: an uncorrectable error is counted for the core its storage lies in, the second within 2^24 cycles making the core unfit. In a team's storage, an owned tile or a team's frame it kills the team; in storage or a tile no team owns it is logged, and does nothing else; in a clean line of L2 it costs the line's frame, in a read-only copy the copy's, which is dropped; in a dirty one it marks the line poisoned too; in a clean line of L1 nothing is lost, and in a dirty one the stores that L1 holds there are. A column group that is mapped out kills the teams of the passes that run on its unit, whose residue check failed. A column group, an HBM channel and a wavelength are spared, a port of a spared wavelength training again. An unfit core is retired. A failed self-test leaves a function not ready for good; a stack that becomes ready takes the device's own writes that were owed to it, that they wait for it being the model's choice (notes/assumptions/49.md). -/
def Obligations.RepairEvents : Prop :=
  (∀ (site : EccSite) (core : Nat) (s : State), siteCore s site = some core →
    let u := s.updCore core (fun c => { c with
      lastUe := some s.clock, unfit := c.unfit || (match c.lastUe with | some t => decide (s.clock - t ≤ 2 ^ 24) | none => false) })
    (∀ id, site = .teamStorage id → exec (.eccUncorrectable site) s = .next (killTeam u id)) ∧
    (∀ line, site = .cleanL1 core line → exec (.eccUncorrectable site) s = .next u) ∧
    (∀ line, site = .dirtyL1 core line →
      -- the stores that L1 holds in the line: neither passed by L1 nor in a stream (R186)
      let held := (u.core core).stores.filter (fun st => st.l1 && st.stream.isNone && st.bytes.any (fun b => b.1 / 128 == line))
      (held = [] → exec (.eccUncorrectable site) s = .next u) ∧
      (∀ st rest, held = st :: rest →
        let lost := held.filter (fun x => x.key == st.key)
        exec (.eccUncorrectable site) s = .next (lost.foldl (fun s x => opEnded (s.unbind x.team x.warp x.flag) x.team)
          (u.updCore core (fun c => { c with
            poisonL1 := (line, st.team) :: c.poisonL1.filter (fun x => x.1 != line)
            stores := c.stores.filter (fun x => !lost.any (fun y => y.op == x.op)) })))))) ∧
  (∀ (core : Nat) (s : State), exec (.eccUncorrectable (.unowned core)) s = .next (s.updCore core (fun c => { c with logged := c.logged + 1 }))) ∧
  (∀ (k i : Nat) (s : State), (∀ id, (s.tile k i).owner = some id → exec (.eccUncorrectable (.tile k i)) s = .next (killTeam s id)) ∧
    ((s.tile k i).owner = none → exec (.eccUncorrectable (.tile k i)) s = .next (s.updCluster k (fun c => { c with logged := c.logged + 1 })))) ∧
  (∀ (line : Nat) (s : State), exec (.eccUncorrectable (.cleanL2 line)) s = .next (retireFrame s (homeSlice line)) ∧
    (∀ sector, s.die.copies.contains (line, sector) = true → exec (.eccUncorrectable (.copyL2 line sector)) s =
      .next ((retireFrame s (homeSlice line % 24 + 24 * sector)).updDie (fun d => { d with copies := d.copies.filter (· != (line, sector)) }))) ∧
    (s.die.l2.any (fun x => x.1 % 2 ^ 40 / 128 == line) = true → s.die.l2Poison.contains line = false →
      exec (.eccUncorrectable (.dirtyL2 line)) s = .next ((retireFrame s (homeSlice line)).updDie (fun d => { d with l2Poison := line :: d.l2Poison })))) ∧
  (∀ (pa : Nat) (t : Team) (s : State), s.teams.find? (fun t => (t.placed || t.status == .saved) && (ownsByte t pa || ownsPrivate s t pa)) = some t →
    exec (.eccUncorrectable (.pool pa)) s = .next (killTeam s t.id)) ∧
  (∀ (k unit : Nat) (s : State), exec (.columnGroupRepair k unit) s = .next (((s.cluster k).passes.filter (fun p => p.units.contains unit)).foldl
    (fun s p => killTeam s p.team) (s.updCluster k (fun x => { x with units := updAt x.units unit (· + 1) })))) ∧
  (∀ (stack channel : Nat) (s : State), s.pkg.spareHbm.contains (stack, channel) = false → (s.pkg.spareHbm.filter (fun x => x.1 == stack)).length < 2 →
    exec (.hbmChannelSpare stack channel) s = .next (s.updPkg (fun p => { p with spareHbm := p.spareHbm ++ [(stack, channel)] }))) ∧
  (∀ (port : Nat) (tx : Bool) (p : Port) (s : State), s.port? port = some p →
    let lo := if tx then 24 else 26
    (bitsOf p.reg lo 2 < 2 → exec (.wavelengthSpare port tx) s = .next (s.updPort port (fun x =>
      let y := { x with reg := setBits x.reg lo 2 (bitsOf p.reg lo 2 + 1) }
      if portState x = 2 then { y with reg := setBits y.reg 16 2 1, retrain := true } else y))) ∧
    (2 ≤ bitsOf p.reg lo 2 → exec (.wavelengthSpare port tx) s = .next (failPort s port))) ∧
  (∀ (core : Nat) (savable : Bool) (s : State), core < 24 → (s.core core).retired = false →
    ((s.core core).unfit = true ∨ bitOf s.pkg.failed core = true →
      let u := (s.updCore core (fun c => { c with ready := false, retired := true })).updPkg (fun p => { p with
        ready := p.ready &&& ~~~BitVec.ofNat 64 (2 ^ core), failed := p.failed ||| BitVec.ofNat 64 (2 ^ core) })
      exec (.coreRetire core savable) s = .next ((s.teams.filter (fun t => t.core == core && t.placed)).foldl (fun s t => evictTeam s savable t.id) u)) ∧
    ((s.core core).unfit = false → bitOf s.pkg.failed core = false → exec (.coreRetire core savable) s = .next s)) ∧
  (∀ (fn : Nat) (pass : Bool) (s : State), s.pkg.firmware.isSome →
    let was := bitOf s.pkg.failed fn
    let u := s.updPkg (fun p => if was then p else if pass then { p with ready := p.ready ||| BitVec.ofNat 64 (2 ^ fn) }
      else { p with failed := p.failed ||| BitVec.ofNat 64 (2 ^ fn) })
    (fn < 24 → exec (.selfTestDone fn pass) s = .next (u.updCore fn (fun c => { c with ready := pass && !was }))) ∧
    (24 ≤ fn → fn < 30 → exec (.selfTestDone fn pass) s = .next (u.updCluster (fn - 24) (fun c => { c with
      ready := pass && !c.failed, failed := c.failed || !pass }))) ∧
    ((30 ≤ fn ∧ fn < 33 ∨ fn = 41) → exec (.selfTestDone fn pass) s = .next u) ∧
    (33 ≤ fn → fn < 41 → exec (.selfTestDone fn pass) s = .next (if pass && !was then stackAnswers (writeOwed u) else u)) ∧
    (42 ≤ fn → fn < 138 → exec (.selfTestDone fn pass) s = .next (s.updCore ((fn - 42) / 4) (fun c => { c with
      runnels := updAt c.runnels ((fn - 42) % 4) (fun r => { r with ready := pass && !r.failed, failed := r.failed || !pass }) }))) ∧
    (138 ≤ fn → exec (.selfTestDone fn pass) s = .next (s.updPort (fn - 138) (fun p => { p with
      tested := pass, reg := setBits p.reg 15 1 (if pass && p.trained then 1 else 0) }))))

/-- R229, R233, R237, R238, R241, R250, R257, R265: a ready, ungated cluster grants the request of the highest priority among those eligible; it takes a step unit for each of its tiles, or those that are left when units are fenced, and with tiles left over goes on with them on the units that free (R244; the lowest of those that free together, notes/assumptions/48.md); a completed pass writes its tiles and releases its flags; a drained or filled granule is written and full, and ends its operation when it is the last; the oldest CBAR instance, all arrived and its stores landed, swaps the banks of every team of the launch; the head command of a ready engine starts, a fill once what its lanes released is performed (R215), and a started drain performs its writes in order, a line it has covered whole losing its poison mark, also where it ends in a miss (R327), and stops where the request of a page it waits for was refused (notes/assumptions/48.md). -/
def Obligations.EngineEvents : Prop :=
  (∀ (k i : Nat) (s : State), clockRuns s = true → (s.cluster k).ready = true → s.pkg.gated = false → arbiter (s.cluster k) = some i →
    exec (.matrixGrant k) s = .next (s.updCluster k (fun x => grantAt x i))) ∧
  (∀ (k : Cluster) (i : Nat) (q : MtxReq), k.table[i]? = some q →
    let works (u : Nat) : Bool := decide (u < k.units.length ∧ k.units.getD u 0 < 2)
    let need := min (if q.full then 4 else 1) ((List.range k.units.length).filter works).length
    ∃ p, (grantAt k i).passes = k.passes ++ [p] ∧ p.id = q.id ∧ p.tiles = q.tiles ∧ p.more = (if q.full then 4 else 1) - need ∧
      p.units.length = min need ((List.range k.units.length).filter (fun u => works u && !k.passes.any (fun p => p.units.contains u))).length ∧
      ∀ u ∈ p.units, works u = true ∧ ∀ x ∈ k.passes, u ∉ x.units) ∧
  (∀ (k req : Nat) (q : MtxReq) (s : State), clockRuns s = true → (s.cluster k).passes.find? (fun q => q.id == req) = some q → 0 < q.more → q.units ≠ [] →
    exec (.passComplete k req) s = .next (s.updCluster k (fun x => { x with passes := x.passes.map (fun p => if p.id = req
      then { p with units := p.units.take p.more, more := p.more - p.units.length } else p) }))) ∧
  (∀ (k req : Nat) (q : MtxReq) (t : Team) (s : State), clockRuns s = true → (s.cluster k).passes.find? (fun q => q.id == req) = some q → s.team? q.team = some t →
    (q.more = 0 ∨ q.units = []) → exec (.passComplete k req) s = .next (opEnded (q.members.foldl (fun s m => s.unbind q.team m.1 m.2)
      ((performPass s k q t).updCluster k (fun x => { x with passes := x.passes.filter (fun p => p.id != req) }))) q.team)) ∧
  (∀ (op g : Nat) (d : Drain) (x : Nat × List Byte) (s : State), clockRuns s = true → s.die.drains.find? (fun d => d.op == op) = some d →
    d.granules.find? (fun x => x.1 == g) = some x →
    let u := s.updTeam d.team (fun t => { t with scr := t.scr.land op g (wholeBytes (16 * g) x.2) })
    let left := d.granules.filter (fun y => y.1 != g)
    (left = [] → exec (.cdrainGranuleWrite op g) s =
      .next (opEnded (u.updDie (fun y => { y with drains := y.drains.filter (fun z => z.op != op) })) d.team)) ∧
    (left ≠ [] → exec (.cdrainGranuleWrite op g) s =
      .next (u.updDie (fun y => { y with drains := y.drains.map (fun z => if z.op = op then { z with granules := left } else z) })))) ∧
  (∀ (id : Nat) (t : Team) (i : CbarInstance) (rest : List CbarInstance) (s : State), clockRuns s = true → s.team? id = some t →
    (launchCbar s t.ident.launch).pending = i :: rest →
    (∀ x ∈ launchTeams s t.ident.launch, x.status = .resident ∨ x.status = .halted ∨ x.status = .finished ∨ x.status = .killed) →
    cbarComplete s t.ident.launch i = true → cbarLanded s i = true →
    let u := setCbar s t.ident.launch { next := (launchCbar s t.ident.launch).next, pending := rest }
    exec (.cbarSwap id) s = .next { u with teams := u.teams.map (fun x => if x.ident.launch = t.ident.launch then x.swapBanks else x) }) ∧
  (∀ (core eng : Nat) (c : RunCmd) (t : Team) (s : State), clockRuns s = true → ((s.core core).runnels.getD eng Runnel.reset).ready = true →
    headCmd s core eng = some (c, t) → c.started = false →
    ((t.status = .finished ∨ t.status = .killed) → exec (.runnelCommandStart core eng) s = .next (endCmd s core eng c)) ∧
    (t.status ≠ .finished → t.status ≠ .killed → c.missing = [] →
      (∀ x, c.poison = some x → exec (.runnelCommandStart core eng) s = .next (stopCmd s core eng c x.1 x.2)) ∧
      (c.poison = none → c.drain = true → exec (.runnelCommandStart core eng) s = .next (startDrain s t core eng c)) ∧
      (c.poison = none → c.drain = false → lanesDone s t c.warp c.lanes c.id = true →
        exec (.runnelCommandStart core eng) s = .next (startFill s t core eng c)))) ∧
  (∀ (core eng g : Nat) (c : RunCmd) (t : Team) (x : Nat × List Byte) (s : State), clockRuns s = true → headCmd s core eng = some (c, t) →
    (∀ h ∈ t.scr.held, h.mark ≤ c.id → g ∉ h.granules) → c.granules.find? (fun x => x.1 == g) = some x →
    let u := s.updTeam c.team (fun t => { t with scr := t.scr.land c.id g (wholeBytes (16 * g) x.2) })
    let left := c.granules.filter (fun y => y.1 != g)
    (left = [] → exec (.fillGranuleLand core eng g) s = .next (endCmd u core eng c)) ∧
    (left ≠ [] → exec (.fillGranuleLand core eng g) s = .next (updCmd u core eng c.id (fun y => { y with granules := left })))) ∧
  (∀ (core eng : Nat) (c : RunCmd) (t : Team) (s u : State) (left : List (Nat × Byte × Byte)), clockRuns s = true →
    headCmd s core eng = some (c, t) → c.drain = true → c.started = true → c.missing = [] →
    (∀ x, c.poison = some x → exec (.sdrainWritesDone core eng) s = .next (stopCmd s core eng c x.1 x.2)) ∧
    (c.poison = none → storesAhead s core t.ident.job c.writes = true → exec (.sdrainWritesDone core eng) s = .next s) ∧
    (c.poison = none → storesAhead s core t.ident.job c.writes = false →
      -- what the drain has written so far, and its lines that are whole
      let wrote := c.wrote ++ c.writes.take (c.writes.length - left.length)
      let v := if u.die.l2Poison = [] then u else clearCovered u (coveredBytes u core t.ident.job wrote)
      (performWrites core t.ident.job s c.writes = (u, .done, left) → exec (.sdrainWritesDone core eng) s = .next (endCmd v core eng c)) ∧
      (∀ va, performWrites core t.ident.job s c.writes = (u, .miss va, left) → exec (.sdrainWritesDone core eng) s =
        .next (updCmd (waitPages v core t.ident.job eng c [va]) core eng c.id (fun x => { x with writes := left, wrote := wrote }))) ∧
      (∀ cause va, performWrites core t.ident.job s c.writes = (u, .fault cause va, left) →
        exec (.sdrainWritesDone core eng) s = .next (stopCmd v core eng c cause va))))

/-- R271 to R282, R284, R287: a held record that passes its checks is published as WAITING, judged on its sluices, and one that fails them is refused with its code; a report judges a waiting record again; the first dispatchable task whose consumed sluices still hold what it was judged on is dispatched with its grid, waiting for the page of a size word that is missing; the window of the first task whose next unit fits places it, when the boundary needs no raise; a task whose teams are all done signals its sluices and is COMPLETE. -/
def Obligations.TaskEvents : Prop :=
  (∀ (task : Nat) (t : Task) (s : State), clockRuns s = true → s.task? task = some t → t.st = .held → jobRuns s t.job = true → t.wait = [] →
    (∀ code, firstItem (recordItems s t) = .bad code → exec (.taskPublish task) s = .next (writeStatus s t .refused code 0)) ∧
    (∀ page, firstItem (recordItems s t) = .wait page → exec (.taskPublish task) s = .next (taskWaits s t page)) ∧
    (firstItem (recordItems s t) = .good →
      let k := withScratch (kernelOf (recKdesc t.record) ((readDescriptor s t).getD 0)) t.record
      let u := writeStatus s t .waiting 0 0
      exec (.taskPublish task) s = .next (u.updTask task (fun x => { x with kern := some k, refused := [], judged := judge u t })))) ∧
  (∀ (task : Nat) (t : Task) (s : State), clockRuns s = true → s.task? task = some t → t.st = .waiting →
    exec (.sluiceWriteReport task) s = .next (s.updTask task (fun x => { x with judged := judge s t }))) ∧
  (∀ (t : Task) (s : State), clockRuns s = true → firstBy servedBefore (dispatchable s) = some t →
    (consumable s t = false → exec (.taskDispatch t.id) s = .next (s.updTask t.id (fun x => { x with judged := judge s t }))) ∧
    (∀ page, consumable s t = true → gridMiss s t = some page → exec (.taskDispatch t.id) s = .next (taskWaits s t page)) ∧
    (consumable s t = true → gridMiss s t = none →
      let c := consume s t
      let u := writeStatus (c.updTask t.id (fun x => { x with judged := none, dispatched := true })) t .dispatched 0 0
      (∀ code, dispatchGrid u t = .inl code → exec (.taskDispatch t.id) s = .next (writeStatus u t .refused code 0)) ∧
      (∀ g, dispatchGrid u t = .inr g →
        let t' : Task := { t with st := .dispatched, judged := none, dispatched := true, gx := bitsOf (BitVec.ofNat 64 g) 0 32
                                  gy := bitsOf (BitVec.ofNat 64 g) 32 16, gz := bitsOf (BitVec.ofNat 64 g) 48 16 }
        exec (.taskDispatch t.id) s = .next (if gridTeams g = 0 then completeTask (u.updTask t.id (fun _ => t')) t' else u.updTask t.id (fun _ => t'))))) ∧
  (∀ (t : Task) (u : PlaceUnit) (k : Kernel) (sregs : List Word) (s : State), clockRuns s = true → s.task? t.id = some t → t.dispatched = true → jobRuns s t.job = true →
    nextUnit s t = some u → t.kern = some k → (if u.fresh then argScalars s t else .inr []) = .inr sregs →
    (placeOf s t k u = none → exec (.placementWindow t.id) s = .next (preemptFor s t k u)) ∧
    (∀ sites, placeOf s t k u = some sites → ((placedTasks s).find? (fun x => (placeable s x).isSome)).map (·.id) = some t.id →
      (raiseNeeded s k sites = none → exec (.placementWindow t.id) s = .next (placeSites s t k u sites sregs)) ∧
      (∀ c n, raiseNeeded s k sites = some (c, n) → exec (.placementWindow t.id) s = .next (s.updCore c (fun x => { x with raising := some n }))))) ∧
  (∀ (task : Nat) (t : Task) (s : State), clockRuns s = true → s.task? task = some t → taskDone s t = true →
    exec (.taskComplete task) s = .next (completeTask s t))

namespace Sys2Proof.Claims
open Sys2Proof.Machine

/-- R313: the pieces of a context frame, each an offset and bytes: what a save of t that takes v writes, but for the header. -/
def framed (s : State) (t : Team) (v : Saved) (ps : List (Nat × List Byte)) : Prop :=
  let cl := s.cluster (clusterOf t.core)
  -- the missing-page list
  (0x40, (t.save.missing.take 64).flatMap (fun p => leBytes 8 (p * 0x10000))) ∈ ps ∧
  (∀ i w, t.warps[i]? = some w →
    let f := frameWarp w
    let live := v.live.getD i (BitVec.allOnes 64, BitVec.allOnes 32, BitVec.allOnes 8)
    -- the warp's record: splits, counter, EXITED, live slots, flags, stream, point and condition, halt record
    (0x400 + 512 * f,
      (List.range 8).flatMap (fun n => leBytes 32 (match w.table[n]? with | some p => splitRecord p | none => 0)) ++
      leBytes 4 w.seqCtr.toNat ++ leBytes 4 w.exited.toNat ++
      w.slots.flatMap (fun l => leBytes 4 (match l.seq with | some q => 65536 + q.toNat | none => 0)) ++
      leBytes 4 ((List.range 12).foldl (fun n i => n + (if w.flags.getD i 0 = 0 then 0 else 2 ^ i)) 0) ++ leBytes 4 w.streamId.toNat ++
      leBytes 8 (packBits [(0, 32, w.atPoint.getD 0), (32, 2, condCode w.cond)]) ++ haltBytes w.halt) ∈ ps ∧
    -- its live registers
    (∀ r, r < 32 → bitOf live.2.1 r = true → (0x8000 + 256 * f + 4 * r, leBytes 4 (w.sr r).toNat) ∈ ps) ∧
    (∀ r, r < 8 → bitOf live.2.2 r = true → (0x8000 + 256 * f + 128 + 4 * r, leBytes 4 (w.p r).toNat) ∈ ps) ∧
    (∀ r, r < w.vregs.length → bitOf live.1 r = true →
      (0x18000 + 8192 * f + 128 * r, (w.vregs.getD r []).flatMap (fun x => leBytes 4 x.toNat)) ∈ ps)) ∧
  (∀ q ∈ t.queues, (0x4400 + 16 * q.num, leBytes 8 (queueDescriptor q) ++ leBytes 8 q.lastinv.toNat) ∈ ps) ∧
  (∀ r ∈ t.ident.kern.rings, (0x4500 + 8 * r.1, leBytes 8 r.2.toNat) ∈ ps) ∧
  (∀ n, n < 4 → (0x4600 + 64 * n, leBytes 64 ((t.mtx.layouts.getD n none).getD 0).toNat) ∈ ps) ∧
  (0x4700, t.mtx.gangs.flatMap (fun g => leBytes 4 g.members.toNat) ++ leBytes 4 t.mtx.token ++
    leBytes 4 (match t.mtx.gangs.findSome? (fun g => g.word) with | some w => w.toNat | none => 0)) ∈ ps ∧
  (0x4E00, t.bars.flatMap (fun b => leBytes 2 (match b.pending with | i :: _ => i.arrived.length | [] => 0)) ++
    leBytes 2 (match (launchCbar s t.ident.launch).pending with | i :: _ => i.arrived.length | [] => 0)) ∈ ps ∧
  (0x4800, v.requests.flatMap (fun r => leBytes 4 r.word.toNat ++ leBytes 12 r.id)) ∈ ps ∧
  (∀ n p, n < 64 → (s.core t.core).poison[n]? = some (some p) → p.team = t.id → (0x4A00 + 16 * n, leBytes 16 (poisonRecord p)) ∈ ps) ∧
  -- of each entry that a queue holds, the lane states and the data
  (∀ x ∈ queueOffsets t.queues, ∀ n e, n < x.1.cap → x.1.entries[n]? = some e → x.1.holds n = true →
    (0xC000 + 12 * (x.2.2 + n), leBytes 12 (entryStates e)) ∈ ps ∧
    (0x98000 + x.2.1 + 4 * x.1.bits * n, laneList.flatMap (fun L => leBytes (x.1.bits / 8) (e.lane L).data.toNat)) ∈ ps) ∧
  -- the granules and tiles saved, and the granules' full/empty bits
  (∀ r ∈ v.ranges, ∀ n, n < r.2 → ∃ b : Byte, (0xA000 + (r.1 + n) / 8, [b]) ∈ ps ∧
    bitOf b ((r.1 + n) % 8) = decide (t.scr.full.get (storageOffset t.scr (16 * (r.1 + n)) / 16) = 1)) ∧
  (∀ r ∈ v.ranges, ∀ n, n < r.2 →
    (0x58000 + 16 * (r.1 + n), (List.range 16).map (fun k => t.scr.bytes.get (storageOffset t.scr (16 * (r.1 + n) + k)))) ∈ ps) ∧
  (∀ n ∈ v.tiles, (0xD8000 + 16384 * n,
    ((cl.tiles.getD (t.mtx.tiles.getD n 0) (Tile.reset 0)).words.read 0 4096).flatMap (fun x => leBytes 4 x.toNat)) ∈ ps)

/-- R79, R290, R313: x is warp i of a team, w as it was saved, as the frame of the team holds it. What the save omitted is free. -/
def unframed (s : State) (t : Team) (v : Saved) (i : Nat) (w x : Warp) : Prop :=
  let num (off n : Nat) : Nat := readPhysNat s 0 (t.save.frame + off) n
  let own := 0x400 + 512 * frameWarp w
  let live := v.live.getD i (BitVec.allOnes 64, BitVec.allOnes 32, BitVec.allOnes 8)
  x.seqCtr = BitVec.ofNat 16 (num (own + 0x100) 4) ∧ x.exited = BitVec.ofNat 32 (num (own + 0x104) 4) ∧
  (∀ k, k < w.slots.length →
    let word := num (own + 0x108 + 4 * k) 4
    x.slots[k]? = some { issued := 0, seq := (if word / 65536 % 2 = 1 then some (BitVec.ofNat 16 word) else none) }) ∧
  x.streamId = BitVec.ofNat 4 (num (own + 0x114) 4) ∧ x.halt = haltOfBytes (num (own + 0x120) 48) ∧ x.atPoint = none ∧
  x.table = (((List.range 8).map (fun n => num (own + 32 * n) 32)).filter (fun n => bitsOf (BitVec.ofNat 256 n) 128 32 != 0)).map
    (splitOfRecord w.table s.clock) ∧
  (∀ r L, r < w.vregs.length → L < 32 → bitOf live.1 r = true →
    x.v r L = BitVec.ofNat 32 (num (0x18000 + 8192 * frameWarp w + 128 * r + 4 * L) 4)) ∧
  (∀ r, r < 32 → bitOf live.2.1 r = true → x.sr r = BitVec.ofNat 32 (num (0x8000 + 256 * frameWarp w + 4 * r) 4)) ∧
  (∀ r, r < 7 → bitOf live.2.2 r = true → x.p r = BitVec.ofNat 32 (num (0x8000 + 256 * frameWarp w + 128 + 4 * r) 4)) ∧
  x.role = w.role ∧ x.index = w.index ∧ x.vregs.length = w.vregs.length ∧ x.spilled = w.spilled ∧ x.flags = w.flags

end Sys2Proof.Claims

/-- R79, R155, R157, R243, R286 to R291, R300, R313 to R315, R346: a save whose whole launch meets its conditions begins, and at the forced-save bound without them: every resident member stops, each warp marked with how the save finds it, and its frame's header says so. The frame is completed once nothing of the team is in flight and its stacks are ready, its header last, and the team's place is free. A restoring team comes back with its gang launch when the reservation and slot-poison tables and the engines' FIFOs have room (R233): its warps, queues and scratchpad are as its frame holds them, no lane is PENDING, and its requests and commands stand again. A stopped job's teams are asked to be saved when their producers' teams are. -/
def Obligations.SaveEvents : Prop :=
  (∀ (id : Nat) (t : Team) (s : State), clockRuns s = true → s.team? id = some t → t.status = .resident → t.save.request.isSome →
    unitReady s t (fun x => x.warps.all saveCondition) = true → exec (.saveStart id) s = .next (beginUnit s t)) ∧
  (∀ (id start : Nat) (why : SaveWhy) (t : Team) (s : State), clockRuns s = true → s.team? id = some t → t.status = .resident →
    t.save.request = some (start, why) → s.pkg.fsBound ≤ s.clock - start → unitReady s t (fun _ => true) = true →
    exec (.forcedSaveBound id) s = .next (beginUnit s t)) ∧
  (∀ (t : Team) (s : State), (s.teams.map Team.id).Nodup →
    let why := (((liveLaunch s t).findSome? (fun x => x.save.request)).map (·.2)).getD .preempt
    -- what each resident member of the launch becomes, and every other team stays
    (∀ x ∈ liveLaunch s t, x.status = .resident → (beginUnit s t).team? x.id = some { x with
      status := .saving
      warps := x.warps.map (fun w => { w.stopAll with cond :=
        if w.done then .none else if w.atPoint.isSome then .point else if quiescent w then .quiescent else .forced })
      save := { x.save with request := none, why := some why, missing := [], answered := [], refused := [] } }) ∧
    (∀ x ∈ s.teams, (x ∉ liveLaunch s t ∨ x.status ≠ .resident) → (beginUnit s t).team? x.id = some x)) ∧
  (∀ (s : State) (id : Nat) (why : SaveWhy) (t : Team), s.team? id = some t →
    ∃ u, (beginSave s id why []).team? id = some u ∧ u.status = .saving ∧
      beginSave s id why [] = writeHeader { s with teams := (beginSave s id why []).teams } u 1) ∧
  (∀ (id : Nat) (t : Team) (s : State), clockRuns s = true → s.team? id = some t → saveReady s t = true →
    let v := savedOf s t
    let t' : Team := { t with save := { t.save with
      missing := missingPages s t, parts := BitVec.ofNat 4 ((if v.2 then 3 else 4) + (if t.trap.handler.isSome then 8 else 0)), saved := some v.1 } }
    (frameReady s t' v.1 = false → exec (.frameComplete id) s = .next s) ∧
    (frameReady s t' v.1 = true → ∃ ps, Claims.framed (s.setTeam t') t' v.1 ps ∧
      let w := ps.foldl (fun s x => writeBytes s 0 false (bytesAt (t'.save.frame + x.1) x.2)) (s.setTeam t')
      exec (.frameComplete id) s = .next (leaveCore (withdrawWork ((writeHeader w t' 2).setTeam { t' with status := .saved }) t') id))) ∧
  (∀ (id : Nat) (t : Team) (s : State), clockRuns s = true → s.team? id = some t → t.status = .restoring →
    let unit := (liveLaunch s t).filter (fun x => x.status == .restoring)
    (tableRoom s unit && poisonRoom s unit && fifoRoom s unit) = true →
    exec (.teamRestore id) s = .next (unit.foldl (fun s x => restoreTeam s x.id) s)) ∧
  (∀ (id : Nat) (t : Team) (v : Saved) (s : State), s.team? id = some t → t.save.saved = some v →
    ∃ x : Team, (restoreTeam s id).team? id = some (x.refill s.clock) ∧
      x = { t with
        warps := x.warps, queues := x.queues, scr := restoreScratch s t v, status := if t.trap.handler.isSome then .halted else .resident
        save := { t.save with request := none, why := none, missing := [], answered := [], refused := [], qdead := 0, saved := none } } ∧
      x.warps.length = t.warps.length ∧
      (∀ i w, t.warps[i]? = some w → ∃ y z, x.warps[i]? = some y ∧ Claims.unframed s t v i w z ∧
        y = if w.done = true ∧ z.done = true then w else z) ∧
      (x.queues.map Queue.num = t.queues.map Queue.num) ∧
      (∀ q ∈ x.queues, ∀ e ∈ q.entries, ∀ l ∈ e.lanes, l.st ≠ .pending) ∧
      (∀ y, y.id ≠ id → (s.team? y.id = some y → (restoreTeam s id).team? y.id = some y)) ∧
      ((restoreTeam s id).core t.core).slotPoison = (s.core t.core).slotPoison ++ (if t.core < s.cores.length then v.slots else []) ∧
      (∀ k, t.core / 4 = k → k < s.clusters.length → ((restoreTeam s id).cluster k).table.map MtxReq.id = (s.cluster k).table.map MtxReq.id ++ v.requests.map MtxReq.id)) ∧
  (∀ (job : Nat) (s : State), clockRuns s = true → s.die.stoppedJobs.contains job = true →
    -- the tasks the stop found with teams to order
    let l := s.die.tasks.filter (fun k => s.die.stopOrder.any (fun x => x.1 == job && x.2.contains k.id))
    let go := l.filter (fun c => l.all (fun p => !stopsBefore l p c || !taskOn s p))
    exec (.jobStop job) s = .next ((s.teams.filter (fun t => t.status == .resident && t.save.request.isNone &&
      go.any (fun k => k.id == t.ident.task))).foldl (fun s t => requestSave s t.id .jobStop) s))

namespace Sys2Proof.Claims
open Sys2Proof.Machine

/-- R332: what writes to the package block of BAR0 do; u is the machine after the access has woken it. -/
def packageWrites (s u : State) : Prop :=
  ∀ (v : DWord),
    let wr (off : Nat) (t : State) : Prop := exec (.bar0RegisterWrite off v) s = .next t
    let poolOk : Prop := bitsOf v 40 24 = 0 ∧ bitsOf v 16 24 * 0x10000 + bitsOf v 0 16 * 0x10000 ≤ Config.hbmBytes ∧ teamsPresent u = false
    exec (.bar0RegisterWrite 0x10 v) s = exec (.pwrstateWrite v) s ∧
    (1800 ≤ v.toNat ∧ v.toNat ≤ 3600 → wr 0x18 (u.updPkg (fun p => { p with pwrLimit := v.toNat }))) ∧
    (v.toNat < 1800 ∨ 3600 < v.toNat → wr 0x18 u) ∧
    (v.toNat < 2 ^ 32 → wr 0x20 (u.updPkg (fun p => { p with fsBound := v.toNat }))) ∧ (2 ^ 32 ≤ v.toNat → wr 0x20 u) ∧
    (poolOk → wr 0x28 (u.updPkg (fun p => { p with spillPool := v })) ∧ wr 0x30 (u.updPkg (fun p => { p with framePool := v }))) ∧
    (¬poolOk → wr 0x28 u ∧ wr 0x30 u) ∧
    (bitsOf v 0 16 = 1 → bitsOf v 32 32 = 0 → exec (.bar0RegisterWrite 0x38 v) s = exec (.tlbcmdDropJob (bitsOf v 16 16)) s) ∧
    (v = 2 → exec (.bar0RegisterWrite 0x38 v) s = exec .tlbcmdDropAll s) ∧
    (¬(bitsOf v 0 16 = 1 ∧ bitsOf v 32 32 = 0) → v ≠ 2 → wr 0x38 u) ∧
    (∀ off, off < 0x1000 → off ∉ [0x10, 0x18, 0x20, 0x28, 0x30, 0x38] → wr off u) ∧
    (∀ off, off % 8 ≠ 0 → wr off u)

/-- R333, R335, R338: what writes to a word of a job slot, a command queue or an egress ring do. -/
def slotWrites (s u : State) : Prop :=
  ∀ (k i : Nat) (v : DWord), i < 8 →
    (k < 256 → let wr (t : State) : Prop := exec (.bar0RegisterWrite (0x1000 + 64 * k + 8 * i) v) s = .next t
      let old := setJobReg u k (setBits (jobReg u k) 0 64 v.toNat)
      (i ≠ 0 → wr (setJobReg u k (setBits (jobReg u k) (64 * i) 64 v.toNat))) ∧
      (i = 0 → bitOf v 63 = true → exec (.bar0RegisterWrite (0x1000 + 64 * k) v) s = exec (.jobslotValidate k v) s) ∧
      (i = 0 → bitOf v 63 = false → cellsGet u.pkg.jobs k = none → wr old) ∧
      (∀ r, i = 0 → bitOf v 63 = false → cellsGet u.pkg.jobs k = some r →
        wr (uninstallGroups (dropTlb ((setJobReg old k (setBits (jobReg old k) 63 1 0)).updPkg (fun p => { p with
          jobs := cellsErase p.jobs k })) (fun e => e.job == bitsOf r 32 16)) (bitsOf r 32 16)))) ∧
    (k < 64 → let wr (t : State) : Prop := exec (.bar0RegisterWrite (0x10000 + 64 * k + 8 * i) v) s = .next t
      let x := cmdQueue u k
      let conf (lo : Nat) (mask : DWord) : State := setCmdQueue u { x with reg := maskField x.reg lo mask v }
      (i = 3 → exec (.bar0RegisterWrite (0x10000 + 64 * k + 24) v) s = exec (.cmdqNotify k (bitsOf v 0 16) false) s) ∧
      (cqState x.reg = 0 → (i = 0 → wr (conf 0 0x000000FFFFFFFF00)) ∧ (i = 1 → wr (conf 64 0xFFFF00F7)) ∧
        (i = 4 → bitsOf v 0 2 = 0 → wr (stopQueue k (conf 256 0xFF00))) ∧
        (i = 4 → bitsOf v 0 2 = 1 → wr (startQueue k (conf 256 0xFF00))) ∧ (i = 4 → 1 < bitsOf v 0 2 → wr (conf 256 0xFF00))) ∧
      (cqState x.reg ≠ 0 → (i = 4 → 1 < bitsOf v 0 2 → wr u) ∧ (i = 0 ∨ i = 1 → wr u) ∧
        (i = 4 → bitsOf v 0 2 = 0 → exec (.bar0RegisterWrite (0x10000 + 64 * k + 32) v) s = exec (.cmdqStop k) s) ∧
        (i = 4 → bitsOf v 0 2 = 1 → exec (.bar0RegisterWrite (0x10000 + 64 * k + 32) v) s = exec (.cmdqResume k) s)) ∧
      (i = 2 ∨ 5 ≤ i → wr u)) ∧
    (k < 256 → let wr (t : State) : Prop := exec (.bar0RegisterWrite (0x20000 + 64 * k + 8 * i) v) s = .next t
      let r := egRing u k
      let conf (lo : Nat) (mask : DWord) : State := setEgRing u k (maskField r lo mask v)
      (egValid r = false → (i = 0 → wr (conf 0 0x000000FFFFFFFFC0)) ∧ (i = 2 → wr (conf 128 0x01FFFFFFFFFFFFFF)) ∧
        (i = 1 → bitOf v 0 = false → wr (conf 64 0xFFFF03FFFFFF0000)) ∧
        (i = 1 → bitOf v 0 = true → wr (openRing k (conf 64 0xFFFF03FFFFFF0000)))) ∧
      (egValid r = true → (i = 0 ∨ i = 2 → wr u) ∧ (i = 1 → bitOf v 0 = true → wr u) ∧
        (i = 1 → bitOf v 0 = false → exec (.bar0RegisterWrite (0x20000 + 64 * k + 8) v) s = exec (.egringClose k) s)) ∧
      (i = 4 → exec (.bar0RegisterWrite (0x20000 + 64 * k + 32) v) s = exec (.egringHcurWrite k v) s) ∧
      (i = 5 → wr (conf 320 0x0000FFFF1FFFFFFF)) ∧ (i = 3 ∨ 6 ≤ i → wr u))

/-- R351, R352, R372: what writes to the fabric block do. -/
def fabricWrites (s u : State) : Prop :=
  ∀ (v : DWord),
    let wr (off : Nat) (t : State) : Prop := exec (.bar0RegisterWrite off v) s = .next t
    let good : Prop := teamsPresent u = false ∧ bitsOf v 16 16 = 0 ∧ bitsOf v 48 16 = 0 ∧ bitsOf v 32 16 ≤ 4096 ∧
      (bitsOf v 32 16 = 0 ∨ bitsOf v 0 16 < bitsOf v 32 16)
    (good → wr 0x60000 (u.updFab (fun b => { b with fabcfg := v }))) ∧ (¬good → wr 0x60000 u) ∧
    wr 0x60008 (u.updFab (fun b => { b with cstep := v })) ∧ wr 0x60010 (u.updFab (fun b => { b with agree := v })) ∧
    wr 0x60018 (u.updFab (fun b => { b with rtime := v })) ∧
    (teamsPresent u = false → wr 0x60020 (u.updFab (fun b => { b with uetab := v &&& 0x01FFFFFFFFFFFFFF }))) ∧
    (teamsPresent u = true → wr 0x60020 u) ∧
    (∀ k, k < 64 → exec (.bar0RegisterWrite (0x60200 + 8 * k) v) s = exec (.cgroupWrite k v) s) ∧
    -- of a port register only bit 18 is written
    (∀ p, p < 96 → wr (0x61000 + 64 * p) (u.updPort p (fun x => { x with reg := setBits x.reg 18 1 (bitsOf v 18 1) }))) ∧
    (∀ k, k < 256 → let r := ueWin u k
      let conf (lo : Nat) (mask : DWord) : State := setUeWin u k (maskField r lo mask v)
      (ueValid r = false →
        (bitOf v 63 = true → wr (0x64000 + 64 * k) (openUe k (conf 0 0x6000FFFFFFFFFFFF))) ∧
        (bitOf v 63 = false → wr (0x64000 + 64 * k) (closeUe k (conf 0 0x6000FFFFFFFFFFFF))) ∧
        wr (0x64000 + 64 * k + 8) (conf 64 0xFFFFFFFF00000000) ∧ wr (0x64000 + 64 * k + 16) (conf 128 0x01FFFFFFFFFFF000) ∧
        wr (0x64000 + 64 * k + 24) (conf 192 0xFFFFFFFFFFFFFFFF)) ∧
      (ueValid r = true →
        (bitOf v 63 = true → exec (.bar0RegisterWrite (0x64000 + 64 * k) v) s = exec (.uewinOpen k) s) ∧
        (bitOf v 63 = false → exec (.bar0RegisterWrite (0x64000 + 64 * k) v) s = exec (.uewinClose k) s) ∧
        (∀ i, 1 ≤ i → i < 4 → wr (0x64000 + 64 * k + 8 * i) u)) ∧
      (∀ i, 4 ≤ i → i < 8 → wr (0x64000 + 64 * k + 8 * i) u))

/-- R344, R345: what writes to the debug block do; none does anything outside Run. -/
def debugWrites (s u : State) : Prop :=
  ∀ (v : DWord),
    let wr (off : Nat) (t : State) : Prop := exec (.bar0RegisterWrite off v) s = .next t
    exec (.bar0RegisterWrite 0x70000 0) s = exec .dbgReqOff s ∧ exec (.bar0RegisterWrite 0x70000 1) s = exec .dbgReqObserve s ∧
    exec (.bar0RegisterWrite 0x70000 2) s = exec .dbgReqHalt s ∧ (2 < v.toNat → wr 0x70000 u) ∧
    (u.pkg.power = .run → ∀ k, k < 24 → wr (0x70040 + 8 * k) (u.updPkg (fun p => { p with dbgToken := setBits p.dbgToken (64 * k) 64 v.toNat }))) ∧
    exec (.bar0RegisterWrite 0x70200 v) s = exec (.dbghalt (v.toNat % 65536)) s ∧
    exec (.bar0RegisterWrite 0x70208 v) s = exec (.dbgresume (v.toNat % 65536)) s ∧
    (u.pkg.power ≠ .run → ∀ off, 0x70000 ≤ off → off < 0x70300 → wr off u)

end Sys2Proof.Claims

/-- R331 to R333, R335, R337 to R339, R344, R351, R352, R372: with the module powered, a host access returns Idle to Run and then has its register's effect: what a write to each register of BAR0 does stands in Claims.packageWrites, slotWrites, fabricWrites and debugWrites, most of them by naming the event with the same effect, which follows here or in other statements. A job slot with VALID set is taken in unless refused, and one with VALID clear drops the job's translations and groups; an egress ring opens, closes and moves HCUR; TLBCMD drops translations; a UE window opens and closes; a rank removed from the connected group is down. An access to HBM in Run reads or writes through slot 0 without held rings; the BAR4 window shows entries released and not consumed, and no data where a stack is not ready or a line poisoned (R327, R346). -/
def Obligations.HostRegisterEvents : Prop :=
  ∀ (s : State), s.pkg.power ≠ .off →
    let u := s.updPkg (fun p => { p with idleFor := 0, power := if p.power = .idle then .run else p.power })
    Claims.packageWrites s u ∧ Claims.slotWrites s u ∧ Claims.fabricWrites s u ∧ Claims.debugWrites s u ∧
    (∀ (v : DWord), (v = 0 → exec (.pwrstateWrite v) s = .next (u.updPkg (fun p => { p with power := .run }))) ∧
      (v = 2 → u.pkg.power = .run → teamsPresent u = false → exec (.pwrstateWrite v) s = .next (goRetain u)) ∧
      (v = 3 → exec (.pwrstateWrite v) s = .next (clearDevice u [] .off))) ∧
    (∀ (job : Nat), exec (.tlbcmdDropJob job) s = .next (dropTlb u (fun e => e.job == job)) ∧
      exec .tlbcmdDropAll s = .next (dropTlb u (fun _ => true))) ∧
    (∀ (j : Nat) (v : DWord), bitOf v 63 = true →
      let r := setBits (jobReg u j) 0 64 v.toNat
      (jobRefused u j r = true → exec (.jobslotValidate j v) s = .next u) ∧
      (jobRefused u j r = false → exec (.jobslotValidate j v) s = .next ((setJobReg u j r).updPkg (fun p => { p with jobs := cellsSet p.jobs j r })))) ∧
    (∀ (j : Nat) (r : BitVec 512), cellsGet u.pkg.jobs j = some r →
      exec (.jobslotInvalidate j) s = .next (uninstallGroups (dropTlb ((setJobReg u j (setBits (jobReg u j) 63 1 0)).updPkg (fun p => { p with
        jobs := cellsErase p.jobs j })) (fun e => e.job == bitsOf r 32 16)) (bitsOf r 32 16))) ∧
    (∀ (e : Nat) (v : DWord),
      let r := egRing u e
      (egValid r = false → (jobSlot u (egJob r)).isSome →
        exec (.egringOpen e) s = .next (setEgRing u e (setBits (setBits r 192 64 (egHcur r)) 64 1 1))) ∧
      (egValid r = true → exec (.egringClose e) s = .next (setEgRing u e (setBits r 64 1 0))) ∧
      (egValid r = false → exec (.egringHcurWrite e v) s = .next (setEgRing u e (setBits r 256 64 v.toNat))) ∧
      (egValid r = true → egHcur r < min v.toNat (egRcur r) →
        exec (.egringHcurWrite e v) s = .next (setEgRing u e (setBits r 256 64 (min v.toNat (egRcur r)))))) ∧
    (∀ (w : Nat), exec (.uewinOpen w) s = .next (setUeWin u w (setBits (ueWin u w) 63 1 1)) ∧
      exec (.uewinClose w) s = .next (setUeWin u w (setBits (ueWin u w) 63 1 0))) ∧
    (∀ (index : Nat) (v : DWord), teamsPresent u = false → index < 64 →
      let new := setBits u.fab.cgroup (64 * index) 64 v.toNat
      let gone := ((List.range 64).map (fun i => 64 * index + i)).filter (fun r => bitOf u.fab.cgroup r && !bitOf new r && r != ownRank u)
      exec (.cgroupWrite index v) s = .next (gone.foldl rankDown (u.updFab (fun b => { b with cgroup := new })))) ∧
    (∀ (a : HostAccess), u.pkg.power = .run → hostReady u a.pa a.len = true →
      (∀ bs, a.write = some bs →
        let cells := (bytesAt a.pa (bs.take a.len)).filter (fun b => !ringHidden u b.1)
        exec (.hostMemoryAccess a) s = .next ((touchPools (writeBytes u 0 false cells) (cells.map (·.1))).updPkg (fun p => { p with hostRead := [] }))) ∧
      (a.write = none → (∀ i, i < a.len → l2Poisoned u (a.pa + i) = false) →
        let bs : List Byte := (List.range a.len).map (fun i => if ringHidden u (a.pa + i) then 0 else readPhys u 0 (a.pa + i))
        exec (.hostMemoryAccess a) s = .next (u.updPkg (fun p => { p with hostRead := bs })))) ∧
    (∀ (off len : Nat),
      ((u.pkg.power = .run ∧ ∀ i pa, i < len → bar4Pa u (off + i) = some pa → stackReady u pa = true ∧ l2Poisoned u pa = false) →
        exec (.egressWindowRead off len) s = .next (u.updPkg (fun p => { p with hostRead := (List.range len).map (fun i => bar4Byte u (off + i)) }))) ∧
      (u.pkg.power ≠ .run ∨ (∃ i pa, i < len ∧ bar4Pa u (off + i) = some pa ∧ (stackReady u pa = false ∨ l2Poisoned u pa = true)) →
        exec (.egressWindowRead off len) s = .next (u.updPkg (fun p => { p with hostRead := [] }))))

/-- R283, R291, R334 to R336: a command queue starts from off when its job and its size are good, resumes from error, stops, and takes the notify of a tail below its size. An entry that waits, with the expected PHASE where PHASE is checked, is read: HEAD moves on and its command is performed; a command that does not exist is refused with code 0x86. A header with another PHASE is read again every 256 cycles and not before, and after the sixteenth the queue is in error and its vector is sent. -/
def Obligations.CommandQueueEvents : Prop :=
  (∀ (q : Nat) (s : State), s.pkg.power ≠ .off →
    let u := s.updPkg (fun p => { p with idleFor := 0, power := if p.power = .idle then .run else p.power })
    let x := cmdQueue u q
    (cqState x.reg = 0 → (jobSlot u (cqJob x.reg)).isSome → 4 ≤ cqLog x.reg → cqLog x.reg ≤ 12 →
      exec (.cmdqStart q) s = .next (setCmdQueue u { x with
        reg := setBits (setBits (setBits x.reg 128 16 0) 192 16 0) 256 2 1, phase := 1, ro := false, reads := 0, due := u.clock })) ∧
    (cqState x.reg = 2 → exec (.cmdqResume q) s = .next (setCmdQueue u { x with reg := setBits x.reg 256 2 1, reads := 0, due := u.clock })) ∧
    exec (.cmdqStop q) s = .next (setCmdQueue u { x with reg := setBits x.reg 256 2 0, reads := 0 }) ∧
    (∀ tail ro, tail < 2 ^ cqLog x.reg → exec (.cmdqNotify q tail ro) s = .next (setCmdQueue u { x with
      reg := setBits x.reg 192 16 tail, ro := ro, due := if x.reads = 0 then u.clock else x.due }))) ∧
  (∀ (q : Nat) (s : State),
    let x := cmdQueue s q
    let r := x.reg
    let u := setCmdQueue s (nextEntry x)
    entryWaits s r = true →
    (x.ro = true → s.clock < x.due → exec (.cmdPublish q) s = .next s ∧ exec (.cmdStopJob q) s = .next s ∧ exec (.cmdResumeJob q) s = .next s ∧
      exec (.cmdDiscardJob q) s = .next s ∧ exec (.phaseReread q) s = .next s) ∧
    (phaseOk s x = true → (x.ro = true → x.due ≤ s.clock) →
      (entryCmd s r = 0 →
        let record : BitVec 1024 := BitVec.ofNat 1024 (readPhysNat u 0 (entryAddr r) 128)
        exec (.cmdPublish q) s = .next (publish u true (entryAddr r) record (cqJob r) 0 (min (recPrio record) (cqPrio r)))) ∧
      (4 ≤ entryCmd s r →
        exec (.cmdPublish q) s = .next (writeAgent u 0 (entryAddr r + 104) 8 (statusWord .refused 0x86 0).toNat)) ∧
      (entryCmd s r = 1 → exec (.cmdStopJob q) s = .next (stopJob u (entryJob u r))) ∧
      (entryCmd s r = 2 → exec (.cmdResumeJob q) s = .next (resumeJob u (entryJob u r))) ∧
      (entryCmd s r = 3 → exec (.cmdDiscardJob q) s = .next (discardJob u (entryJob u r)))) ∧
    (phaseOk s x = false → x.due ≤ s.clock →
      (x.reads + 1 < 16 → exec (.phaseReread q) s = .next (setCmdQueue s { x with reads := x.reads + 1, due := s.clock + 256 })) ∧
      (16 ≤ x.reads + 1 → exec (.phaseReread q) s = .next ((setCmdQueue s { x with reg := setBits r 256 2 2, reads := 0 }).updPkg (fun p => { p with
        msix := p.msix ++ [cqVec r] })))))

/-- R330, R332, R341 to R345: with the module powered, a KEYSLOT write installs the staged key or reports why not, and a KEYSLOT clear empties the slot; the lifecycle goes from Provisioning to Owned with an owner key, and between Owned and TenantLocked on the owner's signature, an unlock erasing keys and memory; a report is signed over its digest. In Run a debug request is answered by the lifecycle's rule, and the Halt state, in Owned only under a valid token, holds and releases the teams of a job. -/
def Obligations.SecurityEvents : Prop :=
  ∀ (s : State), s.pkg.power ≠ .off →
    let u := s.updPkg (fun p => { p with idleFor := 0, power := if p.power = .idle then .run else p.power })
    (∀ (k : Nat),
      ((k = 0 ∨ Config.nKeySlots ≤ k) → exec (.keyInstall k) s = .next (keyDone u 3 true) ∧ exec (.keyEmpty k) s = .next (keyDone u 3 false)) ∧
      (k ≠ 0 → k < Config.nKeySlots →
        exec (.keyEmpty k) s = .next (keyDone (u.updPkg (fun p => { p with keySlots := cellsErase p.keySlots k })) 0 false) ∧
        (let cipher := bitsOf u.pkg.keyStage 0 8
         exec (.keyInstall k) s = .next (match Config.gcmOpen (Config.transportKey u.pkg.keyEph u.pkg.keyHost) u.pkg.keyStage with
           | none => keyDone u 1 true
           | some m => if cipher = 1 ∨ cipher = 2 then keyDone (putKey u k { cipher := cipher, material := m }) 0 true else keyDone u 2 true)))) ∧
    (u.pkg.power = .run →
      ((u.pkg.lifecycle = .tenantLocked → exec .dbgReqObserve s = .next (dbgResult u 1 u.pkg.debug) ∧ exec .dbgReqHalt s = .next (dbgResult u 1 u.pkg.debug)) ∧
       (holdPending u = true → exec .dbgReqOff s = .next (dbgResult u 4 u.pkg.debug) ∧ (u.pkg.lifecycle ≠ .tenantLocked →
         exec .dbgReqObserve s = .next (dbgResult u 4 u.pkg.debug) ∧ exec .dbgReqHalt s = .next (dbgResult u 4 u.pkg.debug))) ∧
       (holdPending u = false → exec .dbgReqOff s = .next (dbgResult (debugOff u) 0 .off) ∧
         (u.pkg.lifecycle ≠ .tenantLocked → exec .dbgReqObserve s = .next (dbgResult u 0 .observe)) ∧
         (u.pkg.lifecycle = .provisioning → exec .dbgReqHalt s = .next (dbgResult u 0 .halt)) ∧
         (u.pkg.lifecycle = .owned →
           (u.pkg.tokenValid = true → exec .dbgReqHalt s = .next (dbgResult u 0 .halt)) ∧
           (u.pkg.tokenValid = false → u.pkg.dbgToken = 0 → exec .dbgReqHalt s = .next (dbgResult u 2 u.pkg.debug)) ∧
           (u.pkg.tokenValid = false → u.pkg.dbgToken ≠ 0 → exec .dbgReqHalt s = .next (if tokenGood u = true
             then dbgResult (u.updPkg (fun p => { p with tokenValid := true })) 0 .halt else dbgResult u 3 u.pkg.debug))))) ∧
      (u.pkg.debug = .halt → (u.pkg.lifecycle = .owned → u.pkg.tokenValid = true) → ∀ job : Nat,
        exec (.dbghalt job) s = .next ((u.teams.filter (fun t => t.ident.job == job && t.status == .resident)).foldl (fun s t =>
          match s.team? t.id with
          | some x => if x.status = .resident then holdTeam s t.id else s.updTeam t.id (fun x => { x with trap := { x.trap with held := true } })
          | none => s) u) ∧
        exec (.dbgresume job) s = .next (releaseTeams u (some job))) ∧
      (u.pkg.debug ≠ .halt ∨ (u.pkg.lifecycle = .owned ∧ u.pkg.tokenValid = false) → ∀ job : Nat,
        exec (.dbghalt job) s = .next u ∧ exec (.dbgresume job) s = .next u)) ∧
    (∀ (key : BitVec 512), u.pkg.lifecycle = .provisioning →
      exec (.lifecycleOwn key) s = .next (u.updPkg (fun p => { p with lifecycle := .owned, ownerKey := some key, tokenValid := false }))) ∧
    (∀ (sig : BitVec 512),
      (u.pkg.lifecycle = .owned → exec (.lifecycleLock sig) s = .next (if ownerSigned u 2 sig = true
        then debugOff (u.updPkg (fun p => { p with lifecycle := .tenantLocked })) else u)) ∧
      (u.pkg.lifecycle = .tenantLocked → exec (.lifecycleUnlock sig) s = .next (if ownerSigned u 1 sig = true
        then ((eraseKeys u).updDie (fun d => { d with l2 := [], copies := [], l2Poison := [] })).updPkg (fun p => { p with
          hbm := { cells := [], fill := .zero }, keyOf := [], lifecycle := .owned, tokenValid := false })
        else u))) ∧
    (∀ (nonce : BitVec 256),
      let b := reportBytes u nonce
      exec (.attestationReport nonce) s = .next (u.updPkg (fun p => { p with reports := p.reports ++ [(b, Config.sm2Sign (Config.sm3 b))] })))

/-- Packets of the links arrive: the domain is enabled (R351), and the module is in Run or Idle (R343). -/
def Sys2Proof.Claims.lit (s : State) : Prop := domainOf s ≠ 0 ∧ (s.pkg.power = .run ∨ s.pkg.power = .idle)

/-- R3, R341, R343, R349 to R358: a verified image runs after power-up and leaves every port in its configured mode and cipher; reset and power-off clear what they clear; the module goes Idle after 2^20 quiet cycles and wakes; in Retain, whose SRAM is only held, and in Off no event of its own work does anything; grants are gated from 105 degrees, and 115 turns the module off. A port trains with its peer, ready once its self-test has passed, under a new key with its counters at 0, except that after a spare it sends its windows again; it agrees a new key after 2^47 windows and switches to it when no window waits for an acknowledgement; any port that is up sends a window padded after 64 cycles, with packets on the port they leave by and idle flits alone on another; it fails when it goes dark. While the domain is enabled a window that verifies is released, and one that does not is counted and NACKed, the fourth failure of one window failing the port. -/
def Obligations.PowerAndPortEvents : Prop :=
  (∀ (b : BootImage) (s : State), s.pkg.firmware = none →
    let u := (if (keyIn s 0).isSome then s else putKey s 0 { cipher := 0, material := 0 }).updPkg (fun p => { p with power := .run })
    exec (.boot b) s = .next (if imageGood b = true
      then (u.updPkg (fun p => { p with firmware := some (Config.sm3 b.image) })).updFab (fun f => { f with
        ports := ((List.range 96).zip (b.portModes ++ List.replicate 96 0)).map (fun x => (x.1, Port.boot x.2 (b.portCiphers.getD x.1 false))) })
      else u)) ∧
  (∀ (s : State), s.pkg.power ≠ .off →
    exec .moduleReset s = .next (clearDevice s (s.pkg.keySlots.filter (fun x => x.1 == 0)) .run) ∧
    exec .powerOff s = .next (clearDevice s [] .off) ∧
    (∀ celsius, 115 ≤ celsius → exec (.thermalTrip celsius) s = .next (clearDevice (s.updPkg (fun p => { p with msix := p.msix ++ [0] })) [] .off))) ∧
  (∀ (s : State), s.pkg.power = .run → quiet s = true → 2 ^ 20 ≤ s.pkg.idleFor →
    exec .idleEntry s = .next (s.updPkg (fun p => { p with power := .idle }))) ∧
  -- nothing of the module's own work happens in Retain or Off
  (∀ (s : State) (a b n k : Nat) (p : Packet) (r : UeRequest) (x : PageAnswer) (l : List (Nat × BitVec 32)),
    s.pkg.power = .retain ∨ s.pkg.power = .off →
    ∀ i ∈ [Instr.loadComplete a, .storePerformed a, .streamStoreRelease a, .exchangeStoreLand a, .ldqLanding a b n k, .qdeadTimeout a,
      .pageRequestEnter a, .pageAnswer x, .matrixGrant a, .passComplete a b, .cdrainGranuleWrite a b, .runnelCommandStart a b,
      .fillGranuleLand a b n, .sdrainWritesDone a b, .saveStart a, .forcedSaveBound a, .frameComplete a, .teamRestore a, .jobStop a,
      .taskPublish a, .sluiceWriteReport a, .taskDispatch a, .taskComplete a, .placementWindow a, .boundaryMove a, .cbarSwap a,
      .remoteRequest p, .remoteRequestLost a, .multicastComplete a, .ueRmaRequest r, .packetDeliveryContextFail a, .cstepTimeout a b,
      .agreeTimeout a, .collectiveComplete a, .initAgreement a l], exec i s = .next s) ∧
  (∀ (s : State), s.pkg.power = .idle → exec .idleWake s = .next (s.updPkg (fun p => { p with power := .run, idleFor := 0 }))) ∧
  (∀ (celsius : Nat) (s : State), exec (.thermalGate celsius) s = .next (s.updPkg (fun p => { p with gated := decide (105 ≤ celsius) }))) ∧
  (∀ (port : Nat) (p : Port) (s : State), s.port? port = some p →
    (portMode p ≠ 0 → (s.pkg.power = .run ∨ s.pkg.power = .idle) →
      exec (.portTraining port none) s = .next (s.updPort port (fun p => p.setState 1)) ∧
      (∀ n,
        let up (p : Port) : Port := { p with
          reg := setBits (setBits (setBits p.reg 16 2 2) 0 10 n) 15 1 (if p.tested then 1 else 0)
          trained := true, retrain := false, padSince := s.clock, skidOn := bitOf p.reg 18 }
        (p.retrain = true →
          let t := resend (s.updPort port up) port
          exec (.portTraining port (some n)) s = .next (pump t t)) ∧
        (p.retrain = false →
          let t := requeue (s.updPort port (fun p => { up p with
            key := s.fab.keys, txCtr := 0, rxCtr := 0, txPhase := false, rxPhase := false, txNext := none, rxNext := false
            replay := [], peerWm := 0, fails := [], nack := false, skidLines := [], toldCtr := 0, toldWm := 0 })) p
          exec (.portTraining port (some n)) s = .next (pump t (t.updFab (fun b => { b with keys := b.keys + 1 })))))) ∧
    (portState p = 2 → (2 ^ 47 ≤ p.txCtr ∨ 2 ^ 47 ≤ p.rxCtr) → p.txNext = none → p.rxNext = false →
      let t := s.updPort port (fun p => if p.replay.isEmpty
        then { p with key := s.fab.keys, txPhase := !p.txPhase, txCtr := 0, txNext := none, rxNext := true }
        else { p with txNext := some s.fab.keys, rxNext := true })
      exec (.linkRekey port) s = .next (pump t (t.updFab (fun b => { b with keys := b.keys + 1 })))) ∧
    (domainOf s ≠ 0 → portMode p = 1 → portState p = 2 → 64 ≤ s.clock - p.padSince → p.maySend = true →
      let x := if outPort s = some port then takeFlits p.peerWm 5 s.fab.txq else (s.fab.txq, [])
      exec (.windowPadTimeout port) s = .next ((s.updFab (fun b => { b with
        txq := x.1, outbox := b.outbox ++ (((x.2.filter (fun y => y.left == 0)).map (·.msg)) ++ [.window port (trailerOf s p p.txCtr x.2)]) })).updPort port
        (fun p => { p with txCtr := p.txCtr + 1, replay := p.replay ++ [{ ctr := p.txCtr, parts := x.2 }], nack := false, padSince := s.clock, toldCtr := p.rxCtr, toldWm := fillLevels s }))) ∧
    (portMode p ≠ 0 → exec (.darkLink port) s = .next (failPort s port)) ∧
    (∀ (w : Window), portMode p = 1 → portState p = 2 → Claims.lit s →
      let u := wakeIdle s
      let released := u.updPort port (fun p => { p with
        rxCtr := w.ctr + 1, rxPhase := w.kph, rxNext := p.rxNext && w.kph == p.rxPhase, fails := [], skidLines := [] })
      (w.tagGood = true → (w.kph = p.rxPhase ∧ w.ctr = p.rxCtr ∨ w.kph ≠ p.rxPhase ∧ p.rxNext = true ∧ w.ctr = 0) →
        exec (.windowReceive port w) s = .next (w.items.foldl takeItem (takeTrailer released port w))) ∧
      ((w.tagGood = false ∨ (w.kph = p.rxPhase ∧ w.ctr ≠ p.rxCtr) ∨ (w.kph ≠ p.rxPhase ∧ (p.rxNext = false ∨ w.ctr ≠ 0))) → p.skidOn = false →
        let n := (cellsGet p.fails w.ctr).getD 0 + 1
        let counted := u.updPort port (fun x => { x with
          fails := cellsSet x.fails w.ctr n, nack := true, reg := setBits x.reg 32 32 (min (bitsOf x.reg 32 32 + 1) (2 ^ 32 - 1)) })
        exec (.windowReceive port w) s = .next (if 4 ≤ n then failPort counted port else sendWindow counted port)))) ∧
  (∀ (rank : Nat) (s : State), Claims.lit s → rank ≠ ownRank s → exec (.rankDownNotice rank) s = .next (rankDown (wakeIdle s) rank))

/-- R351, R358, R362 to R365, R369, R372, R373: while the domain is enabled and the links are lit, a request of a peer for this rank is performed in its turn, one of the device itself once nothing it is to follow is outstanding, and a response answers the request it names; a request without response for RTIME cycles is lost and its rank suspected; a multicast none of whose packets is outstanding sets its warp's status; a remote endpoint's request is refused without a window that serves it; the end of an XLDQ read answers it with its data or as failed. -/
def Obligations.RemoteEvents : Prop :=
  (∀ (p : Packet) (s : State), Claims.lit s → p.dest = ownRank s →
    (p.src ≠ ownRank s → exec (.remoteRequest p) s = .next (takeRequest p (wakeIdle s))) ∧
    (∀ core r t, p.src = ownRank s → findReq s p.req = some (core, r) → packetFor s r = p → s.team? r.team = some t →
      remoteWaits (wakeIdle s) t core r = false → exec (.remoteRequest p) s = .next (takeRequest p (wakeIdle s)))) ∧
  (∀ (r : Response) (core : Nat) (q : RemoteReq) (s : State), Claims.lit s → findReq s r.req = some (core, q) →
    (∀ n slot, q.kind ≠ .ue n slot) → exec (.remoteResponse r) s = .next (answerReq (wakeIdle s) core q r.lanes)) ∧
  (∀ (id core : Nat) (r : RemoteReq) (s : State), clockRuns s = true → findReq s id = some (core, r) → (∀ n slot, r.kind ≠ .ue n slot) →
    s.fab.rtime.toNat ≤ s.clock - r.sent → exec (.remoteRequestLost id) s = .next (suspectEverywhere (answerReq s core r []) r.peer)) ∧
  (∀ (op : Nat) (m : Mcast) (s : State), clockRuns s = true → s.fab.mcasts.find? (fun m => m.op == op) = some m → m.todo = [] →
    (∀ c ∈ s.cores, ∀ r ∈ c.remote, r.kind ≠ .mcast op) →
    let u := updWarp (s.updFab (fun b => { b with mcasts := b.mcasts.filter (fun x => x.op != op) })) m.team m.warp
      (fun w => { w.unbind m.flag with mcast :=
                    { bits := m.members &&& ~~~bitmapOf m.failed, fails := m.failed.length
                      pending := if m.part = true ∧ (!m.failed.isEmpty) = true then w.mcast.pending ++ [(m.seq, m.failed.length)] else w.mcast.pending } })
    exec (.multicastComplete op) s = .next (opEnded (mcastFails u m.team) m.team)) ∧
  (∀ (s : State) (id : Nat) (t : Team), s.team? id = some t →
    (t.status ≠ .killed → t.warps.all Warp.done = true → (∃ w ∈ t.warps, w.mcast.pending ≠ []) →
      mcastFails s id = failTask s t.ident.task causeMCASTPART.toNat t.ident.linear) ∧
    (t.warps.all Warp.done = false → mcastFails s id = s)) ∧
  (∀ (r : UeRequest) (s : State), s.pkg.power = .run →
    (ueMatch (wakeIdle s) r = none → exec (.ueRmaRequest r) s = .next (ueAnswer (wakeIdle s) none)) ∧
    (∀ w bs, ueMatch (wakeIdle s) r = some w → r.offset + r.len ≤ ueLen w →
      (r.write = none → ueRd w = true → exec (.ueRmaRequest r) s = .next (serveUe (wakeIdle s) (ueJob w) (ueBase w + r.offset) r)) ∧
      (r.write = some bs → bs.length = r.len → ueWr w = true →
        exec (.ueRmaRequest r) s = .next (serveUe (wakeIdle s) (ueJob w) (ueBase w + r.offset) r)))) ∧
  (∀ (req core n slot : Nat) (r : RemoteReq) (s : State), findReq s req = some (core, r) → r.kind = .ue n slot →
    (s.pkg.power = .run → ∀ l, exec (.ueReadResponse req (some l)) s = .next (answerReq (wakeIdle s) core r
      (((r.lanes.map (·.1)).zip l).map (fun x => (x.1, 0, x.2))))) ∧
    (clockRuns s = true → exec (.packetDeliveryContextFail req) s = .next (answerReq s core r [])))

/-- The members of a group that the device has newly come to suspect, when the ranks ys are named (R376). -/
def Sys2Proof.Claims.newSuspects (s : State) (g : Group) (ys : List Nat) : List Nat :=
  (dedup ys).filter (fun y => bitOf g.bitmap y && y != ownRank s && !g.suspects.contains y)

/-- t is s after the coordinator of group g has proposed the next view (R377, R380): the bitmap it would have, when that holds more than half of the present view's members, goes to its other members as the next attempt, and the device has accepted it itself if it stays a member. Without a quorum nothing is sent. Where the device is the bitmap's only member its own acceptance is the last: it commits at once, the COMMIT going to the ranks removed, and a join that has waited is proposed after it; a join or leave waits for the collectives in flight instead. -/
def Sys2Proof.Claims.proposes (s : State) (g : Group) (t : State) : Prop :=
  let b := proposalOf g
  let me := ownRank s
  let h : Group := { g with attempt := g.attempt + 1, proposal := some b, accepts := if bitOf b me then [(me, holdsOf s g.num)] else [], since := s.clock }
  (quorum g b = false → t = s.updGroup g.num (fun x => { x with proposal := none, accepts := [] })) ∧
  (quorum g b = true → otherMembers s b ≠ [] →
    t = (otherMembers s b).foldl (fun u r => sendView u g msgPropose r
      { group := g.num, view := g.view, src := me, attempt := g.attempt + 1, bitmap := b
        names := match g.joiner with | some (r, _) => [r] | none => []
        holds := [], decisions := [], seq := g.seq, leave := false }) (s.updGroup g.num (fun _ => h))) ∧
  (quorum g b = true → otherMembers s b = [] →
    let u := s.updGroup g.num (fun _ => h)
    let ds := decide379 h
    let m : ViewMsg := { group := g.num, view := g.view, src := me, attempt := g.attempt + 1, bitmap := b, holds := []
                         names := g.suspects.filter (fun r => bitOf g.bitmap r = false)
                         decisions := ds, seq := g.seq - BitVec.ofNat 32 (heldColls s g.num ds), leave := false }
    t = if g.joiner.isSome = true ∧ g.suspects = [] ∧ holdsOf s g.num ≠ [] then u
        else joinWith (proposeWith (fun v _ => v))
          (applyCommit ((otherMembers s (b ||| g.bitmap)).foldl (fun v r => sendView v h msgCommit r m) u) m) g.num)

/-- t is s after the device has come to suspect the ranks new of group g, an installed one (R376, R377): they are suspects, the group is agreeing, its wait counted afresh when it enters agreeing or loses its quorum (R378), and the device proposes when it is its own coordinator, else tells its coordinator. -/
def Sys2Proof.Claims.suspects (s : State) (g : Group) (new : List Nat) (t : State) : Prop :=
  let f (x : Group) : Group := { x with suspects := x.suspects ++ new, st := .agreeing, since := if x.st = .agreeing ∧ (quorum x (proposalOf x) = false ∨ quorum x (proposalOf { x with suspects := x.suspects ++ new }) = true)
      then x.since else s.clock }
  let u := s.updGroup g.num f
  let h := f g
  (coordinatorOf h = none → t = u) ∧ (coordinatorOf h = some (ownRank s) → Claims.proposes u h t) ∧
  (∀ c, coordinatorOf h = some c → c ≠ ownRank s →
    t = sendView (u.updGroup g.num (fun x => { x with proposal := none, accepts := [], since := s.clock })) h msgSuspect c
      { group := g.num, view := g.view, src := ownRank s, attempt := g.attempt, bitmap := g.bitmap, names := new
        holds := [], decisions := [], seq := g.seq, leave := false })

/-- R376 to R380: messages of agreement in an enabled domain with its links lit, for an installed group of the device. A SUSPECT that names a member the device did not suspect makes it a suspect and the group agreeing, and the device proposes or passes it on. A PROPOSE is accepted from the device's coordinator at a new attempt, what it omits adopted as suspicions; one that is not accepted and brings suspicions makes the device propose or tell its coordinator. An ACCEPT that names a suspect of the bitmap makes it one here; the last acceptance of the bitmap sends the COMMIT, numbered before the collectives held for the next view, and commits, but for a join or leave with a collective still in flight at a member, which is proposed again when that is over (R380). A join or leave that has waited is proposed after a commit. A COMMIT that names the device installs the next view, stable and without suspicions; one that does not leaves the device excluded. A join or leave is marked, and proposed by the coordinator once no collective runs; one that finds another under way waits for its commit, which is the model's choice (notes/assumptions/35.md), and one that asks for what is known already changes nothing. Stale messages change nothing. -/
def Sys2Proof.Claims.agreementMessages : Prop :=
  ∀ (m : ViewMsg) (g : Group) (s : State), Claims.lit s → s.group? m.group = some g →
    let u := wakeIdle s
    let me := ownRank s
    let cls := tagClass g.view (m.view.setWidth 16)
    (g.active = true → cls = .stale → exec (.suspect m) s = .next u ∧ exec (.accept m) s = .next u ∧ exec (.commit m) s = .next u ∧
      exec (.propose m) s = .next u) ∧
    (g.active = true → cls ≠ .stale → Claims.newSuspects s g m.names ≠ [] →
      ∃ t, exec (.suspect m) s = .next t ∧ Claims.suspects u g (Claims.newSuspects s g m.names) t) ∧
    (g.active = true → cls ≠ .stale → bitOf m.bitmap me = true →
      let new := (membersOf (g.bitmap &&& ~~~m.bitmap)).filter (fun r => r != me && !g.suspects.contains r)
      let h : Group := { g with suspects := g.suspects ++ new, st := if new = [] then g.st else .agreeing }
      let v := u.updGroup g.num (fun _ => h)
      -- its coordinator is the lowest member it does not suspect (R377)
      let trusted := (membersOf h.bitmap).find? (fun r => !h.suspects.contains r)
      (trusted = some m.src → (cellsGet g.seen m.src).getD 0 < m.view.toNat * 2 ^ 32 + m.attempt →
        exec (.propose m) s = .next (sendView (v.updGroup g.num (fun x => { x with
            seen := cellsSet x.seen m.src (m.view.toNat * 2 ^ 32 + m.attempt), proposal := none, accepts := [], since := s.clock
            st := if x.suspects.isEmpty then .joining else .agreeing })) h msgAccept m.src
          { group := g.num, view := m.view, src := me, attempt := m.attempt, bitmap := m.bitmap, names := h.suspects, holds := holdsOf v g.num
            decisions := [], seq := g.seq, leave := false })) ∧
      (trusted ≠ some m.src ∨ m.view.toNat * 2 ^ 32 + m.attempt ≤ (cellsGet g.seen m.src).getD 0 →
        (new = [] ∨ coordinatorOf h = none → exec (.propose m) s = .next v) ∧
        (new ≠ [] → coordinatorOf h = some me → ∃ t, exec (.propose m) s = .next t ∧ Claims.proposes v h t) ∧
        (∀ c, new ≠ [] → coordinatorOf h = some c → c ≠ me → exec (.propose m) s = .next (sendView
          (v.updGroup g.num (fun x => { x with proposal := none, accepts := [], since := s.clock })) h msgSuspect c
          { group := g.num, view := g.view, src := me, attempt := g.attempt, bitmap := g.bitmap, names := new, holds := []
            decisions := [], seq := g.seq, leave := false })))) ∧
    (∀ b, g.active = true → cls = .current → g.proposal = some b → m.attempt = g.attempt → bitOf b m.src = true →
      ((∃ y ∈ m.names, bitOf b y = true ∧ y ≠ me) → Claims.newSuspects s g m.names ≠ [] →
        ∃ t, exec (.accept m) s = .next t ∧ Claims.suspects u g (Claims.newSuspects s g m.names) t) ∧
      ((∀ y ∈ m.names, bitOf b y = true → y = me) →
        let h : Group := { g with accepts := g.accepts.filter (fun a => a.1 != m.src) ++ [(m.src, m.holds)] }
        let v := u.updGroup g.num (fun _ => h)
        ((∃ r ∈ membersOf b, ∀ a ∈ h.accepts, a.1 ≠ r) → exec (.accept m) s = .next v) ∧
        ((∀ r ∈ membersOf b, ∃ a ∈ h.accepts, a.1 = r) →
          let waits := g.joiner.isSome = true ∧ g.suspects = [] ∧ ∃ a ∈ h.accepts, a.2 ≠ []
          (waits → exec (.accept m) s = .next (tryJoin (u.updGroup g.num (fun _ => { h with proposal := none, accepts := [] })) g.num)) ∧
          (¬waits → quorum g b = true →
            let n : ViewMsg := { group := g.num, view := g.view, src := me, attempt := g.attempt, bitmap := b, holds := []
                                 names := g.suspects.filter (fun r => bitOf g.bitmap r = false)
                                 decisions := decide379 h, seq := g.seq - BitVec.ofNat 32 (heldColls s g.num (decide379 h)), leave := false }
            exec (.accept m) s = .next (tryJoin
              (applyCommit ((otherMembers v (b ||| g.bitmap)).foldl (fun w r => sendView w h msgCommit r n) v) n) g.num))))) ∧
    (g.initDigest = none → (g.outside = true ∨ cls ≠ .stale) → g.joiner = none → g.asks = [] → s.fab.rx = [] →
      (∀ c ∈ s.fab.colls, cdGroup c.desc ≠ g.num) →
      (bitOf m.bitmap me = true → g.held = [] → g.results = [] →
        exec (.commit m) s = .next (u.updGroup g.num (fun _ => { g with
          view := m.view + 1, bitmap := m.bitmap, st := .stable, suspects := [], attempt := 0, proposal := none, accepts := [], seen := []
          since := s.clock, settled := m.decisions, oldView := m.view, oldBitmap := g.bitmap
          seq := if g.active && bitOf g.bitmap me then g.seq else m.seq }))) ∧
      (bitOf m.bitmap me = false → g.st ≠ .uninstalled →
        exec (.commit m) s = .next (u.updGroup g.num (fun x => { x with
          st := .excluded, suspects := [], proposal := none, accepts := [], seen := [], joiner := none, asks := [], held := [], settled := [], results := [] })))) ∧
    (∀ r l, m.names = r :: l → g.active = true →
      -- what the rank is once the requests known are served: the last of them about it decides
      let will := match g.requests.reverse.find? (fun q => q.1 == r) with | some q => !q.2 | none => bitOf g.bitmap r
      ((will ≠ m.leave ∨ m.leave = false ∧ inCgroup s r = false) → exec (.joinRequest m) s = .next u) ∧
      (will = m.leave → (m.leave = false → inCgroup s r = true) →
        let h : Group := if g.joiner.isSome ∨ g.proposal.isSome ∨ g.seen ≠ [] then { g with asks := g.asks ++ [(r, m.leave)] }
          else { g with joiner := some (r, m.leave), st := if g.st = .stable then .joining else g.st }
        let v := u.updGroup g.num (fun _ => h)
        (∀ c, coordinatorOf h = some c → c ≠ me → exec (.joinRequest m) s = .next (sendView v h msgJoin c
          { group := g.num, view := g.view, src := me, attempt := g.attempt, bitmap := g.bitmap, names := [r], holds := [], decisions := []
            seq := g.seq, leave := m.leave })) ∧
        (coordinatorOf h = some me → (groupQuiet s g.num = false ∨ h.st ≠ .joining ∨ h.joiner = none ∨ h.proposal.isSome) →
          exec (.joinRequest m) s = .next v) ∧
        (coordinatorOf h = some me → groupQuiet s g.num = true → h.st = .joining → h.joiner.isSome → h.proposal = none →
          ∃ t, exec (.joinRequest m) s = .next t ∧ Claims.proposes v h t)))

/-- R374 to R380, R382, R385, R389, R411: what the messages of agreement do to views, suspicions and stability (Claims.agreementMessages). In an enabled domain with its links lit, a collective packet of the present view is used by its collective or kept for it, and dropped by a device outside the view; one ahead is held, up to 256 flits a group, by a device outside too; a stale one is dropped. A step that has waited CSTEP cycles for a member makes it suspect. A device that is agreeing and waits AGREE cycles for its coordinator suspects it, a coordinator suspects those that have not accepted, a joiner too, and a device that has formed no quorum for the whole time is excluded. A collective heard of every member ends with its result word, and one whose result can be written writes it. An installation whose ranks have all announced the same digest makes the group stable as view 1 and offers it the packets held for it; one with a digest that differs, or AGREE cycles old, is dropped. -/
def Obligations.ViewEvents : Prop :=
  Claims.agreementMessages ∧
  (∀ (p : CollPacket) (g : Group) (s : State), Claims.lit s → s.group? p.group = some g →
    let u := wakeIdle s
    let kept := u.updGroup p.group (fun x => { x with held := x.held ++ [p] })
    (tagClass g.view p.vtag = .stale → exec (.collectivePacket p) s = .next u) ∧
    (tagClass g.view p.vtag = .current → g.active = false → exec (.collectivePacket p) s = .next u) ∧
    (tagClass g.view p.vtag = .current → g.active = true →
      (s.fab.colls.find? (wants s p) = none → exec (.collectivePacket p) s = .next kept) ∧
      (∀ c, s.fab.colls.find? (wants s p) = some c →
        let heard (c : Coll) : Coll := { c with digests := if c.digests.any (fun x => x.1 == p.src) then c.digests else c.digests ++ [(p.src, p.digest)] }
        (∀ l, p.body = .input l → exec (.collectivePacket p) s = .next (u.updColl c.id (fun c => { heard c with
          inputs := if c.inputs.any (fun x => x.1 == p.src) then c.inputs else c.inputs ++ [(p.src, l)] }))) ∧
        (p.body = .fault → exec (.collectivePacket p) s = .next (u.updColl c.id (fun c => { heard c with
          faults := if c.faults.contains p.src then c.faults else c.faults ++ [p.src] }))) ∧
        (∀ l, p.body = .result l → exec (.collectivePacket p) s = .next (u.updColl c.id (fun c => { heard c with
          result := if c.holder.isSome = true ∧ c.result.isNone = true then some l else c.result }))))) ∧
    (tagClass g.view p.vtag = .ahead →
      (aheadFlits g + p.flits ≤ 256 → exec (.collectivePacket p) s = .next kept) ∧
      (256 < aheadFlits g + p.flits → exec (.collectivePacket p) s = .next (u.updFab (fun b => { b with rx := b.rx ++ [.collective p] }))))) ∧
  (∀ (id rank : Nat) (c : Coll) (g : Group) (s : State), clockRuns s = true → s.coll? id = some c → s.group? (cdGroup c.desc) = some g → g.active = true →
    c.started = true → c.result = none → s.fab.cstep.toNat ≤ s.clock - c.since → rank ≠ ownRank s → bitOf g.bitmap rank = true →
    g.suspects.contains rank = false →
    (c.holder = some rank ∨ c.holder = none ∧ bitOf c.members rank = true ∧ (∀ x ∈ c.inputs, x.1 ≠ rank) ∧ c.faults.contains rank = false) →
    ∃ t, exec (.cstepTimeout id rank) s = .next t ∧ Claims.suspects s g [rank] t) ∧
  (∀ (gn : Nat) (g : Group) (s : State), clockRuns s = true → s.group? gn = some g → (g.st = .agreeing ∨ g.st = .joining) →
    s.fab.agree.toNat ≤ s.clock - g.since →
    (∀ r, g.st = .agreeing → g.proposal = none → coordinatorOf g = some r → r ≠ ownRank s →
      let v := s.updGroup gn (fun x => { x with since := s.clock })
      ∃ t, exec (.agreeTimeout gn) s = .next t ∧ Claims.suspects v { g with since := s.clock } [r] t) ∧
    (∀ b, g.proposal = some b →
      -- every rank of the bitmap that has not accepted, a joiner too
      let late := (membersOf b).filter (fun r => !g.accepts.any (fun a => a.1 == r))
      let new := (dedup late).filter (fun r => r != ownRank s && !g.suspects.contains r)
      (new = [] → exec (.agreeTimeout gn) s = .next s) ∧
      (new ≠ [] → ∃ t, exec (.agreeTimeout gn) s = .next t ∧ Claims.suspects s g new t)) ∧
    (g.st = .agreeing → g.proposal = none → (coordinatorOf g = none ∨ coordinatorOf g = some (ownRank s) ∧ quorum g (proposalOf g) = false) → (∀ c ∈ s.fab.colls, cdGroup c.desc ≠ gn) → s.fab.rx = [] →
      exec (.agreeTimeout gn) s = .next (s.updGroup gn (fun x => { x with
        st := .excluded, suspects := [], proposal := none, accepts := [], seen := [], joiner := none, asks := [], held := [], settled := [], results := [] })))) ∧
  (∀ (id : Nat) (c : Coll) (g : Group) (t : Team) (s : State), clockRuns s = true → s.coll? id = some c → s.group? (cdGroup c.desc) = some g → g.st = .stable →
    s.team? c.team = some t → t.status ≠ .finished → t.status ≠ .killed → c.started = true →
    let ends (u : State) (v : CollSlot) : State :=
      let w := (u.updFab (fun b => { b with colls := b.colls.filter (fun x => x.id != c.id) })).updTeam c.team (fun t => { t with
        colls := updAt t.colls c.slot (fun _ => v) })
      match c.flag with | some (wi, f) => opEnded (w.unbind c.team wi (some f)) c.team | none => w
    (c.result = none → c.holder = none → allHeard c = true → digestsDiffer c = true →
      exec (.collectiveComplete id) s = .next (ends s (.done (collWord c 3)))) ∧
    (c.result = none → c.holder = none → allHeard c = true → digestsDiffer c = false → c.faults ≠ [] →
      exec (.collectiveComplete id) s = .next (ends s (.done (collWord c 4)))) ∧
    (c.result = none → (c.holder.isSome ∨ allHeard c = false) → exec (.collectiveComplete id) s = .next s) ∧
    (∀ l ps, (c.result = some l ∨ c.result = none ∧ c.holder = none ∧ allHeard c = true ∧ digestsDiffer c = false ∧ c.faults = [] ∧ l = formResult c) →
      let bs := elemBytes (cdWidth c.desc) (ownPart s c l)
      let v := s.updColl c.id (fun _ => { c with result := some l })
      confRange s c.job (cdDst c.desc) bs.length .w = .ok ps →
      exec (.collectiveComplete id) s = .next (ends (writePlaces v ps bs)
        (.done (collWord c c.status))))) ∧
  (∀ (gn : Nat) (peers : List (Nat × BitVec 32)) (g : Group) (d : BitVec 32) (s : State), clockRuns s = true → s.group? gn = some g → g.st = .uninstalled →
    g.initDigest = some d →
    let dropped := s.updFab (fun b => { b with groups := b.groups.filter (fun x => x.num != gn) })
    ((∃ p ∈ peers, bitOf g.bitmap p.1 = true ∧ p.2 ≠ d) → exec (.initAgreement gn peers) s = .next dropped) ∧
    ((∀ p ∈ peers, bitOf g.bitmap p.1 = true → p.2 = d) →
      ((∀ r ∈ otherMembers s g.bitmap, ∃ p ∈ peers, p.1 = r) →
        exec (.initAgreement gn peers) s = .next (rehold (s.updGroup gn (fun x => { x with
          st := .stable, view := 1, seq := 0, initDigest := none, since := s.clock })) gn)) ∧
      ((∃ r ∈ otherMembers s g.bitmap, ∀ p ∈ peers, p.1 ≠ r) →
        exec (.initAgreement gn peers) s = .next (if s.fab.agree.toNat ≤ s.clock - g.since then dropped else s))))

/-- R4, R33: a step whose turn is an issue of a live slot fetches the word at the PC of the split the slot holds and runs exec of the instruction the word decodes to, that split being the one that issues. Around exec the step lets one cycle of the clock pass, notes the fetch in the core's instruction cache and TLB, and afterwards settles (notes/assumptions/2.md). While the cache holds no copy, the word is the four bytes at the translated address, little-endian. A turn that is an event runs exec of the event. -/
def Obligations.StepRunsDecoded : Prop :=
  (∀ (s : State) (id wi slot : Nat) (rest : List Turn) (t : Team) (w : Warp) (p : Split) (word : Word) (e : TlbEntry),
    s.agenda = .issue id wi slot :: rest →
    let u := { cycles { s with cur := none } 1 with agenda := rest }
    u.team? id = some t → t.warps[wi]? = some w → slotSplit w slot = some p → mayIssue t wi w p = true →
    replaying u id wi p.seq = false → faultDue t wi w p = none → mcastDue t wi w p = none → fetchWord u t p = .word word e →
    let o := exec (decodeWord word) { noteFetch u t p.pc.toNat word e with cur := some { team := id, warp := wi, seq := p.seq } }
    (∀ v, o = .next v → Sys2Proof.Machine.step s = .next (settle exec (cycles { s with cur := none } 1) v)) ∧
    ((∀ v, o ≠ .next v) → Sys2Proof.Machine.step s = o)) ∧
  (∀ (s : State) (t : Team) (p : Split) (m : Mapped), p.pc.toNat < globalTop →
    translate s { job := t.ident.job, core := some t.core, keyovr := none } p.pc.toNat .x = .ok m →
    (∀ e ∈ (s.core t.core).icache, ¬(e.job = t.ident.job ∧ e.va = p.pc.toNat)) →
    fetchWord s t p = .word (wordOfBytes (readPhys s m.slot m.pa) (readPhys s m.slot (m.pa + 1)) (readPhys s m.slot (m.pa + 2))
      (readPhys s m.slot (m.pa + 3))) m.entry) ∧
  (∀ (s : State) (i : Instr) (rest : List Turn), s.agenda = .event i :: rest →
    let o := exec i { cycles { s with cur := none } 1 with agenda := rest }
    (∀ v, o = .next v → Sys2Proof.Machine.step s = .next (settle exec (cycles { s with cur := none } 1) v)) ∧
    ((∀ v, o ≠ .next v) → Sys2Proof.Machine.step s = o))

/-- The worked encodings of spec/01, 04, 06, 09 and 13 (R390), and reserved words among them, decode to the instructions they stand for. -/
def Obligations.WordsDecode : Prop :=
  ∀ r ∈ worked, decodeWord r.1 = r.2

/-- R4 to R8, R20, R28, R38: encoding and decoding agree. For every well-formed instruction that has a word, the decoder reads the instruction back from its word, every operand at every value its field admits; and every one of the 2^32 words is the word of what it decodes to. -/
def Obligations.DecodeAndEncodeAgree : Prop :=
  (∀ i : Instr, Sys2Proof.Laws.Words.Statement i) ∧ ∀ w : Word, encode (decodeWord w) = some w

/-- R35: an instruction forbidden to the issuing role raises ILLROLE, and every instruction is its role's check and nothing else before its meaning: the roles its opcode permits, of the model's table, which forbids exactly what R35's does. R36: WRSR, TLBINV, VIEWCTL and RDSR from 0x40 up raise PRIV without handler privilege, before any check of their operands (R34). -/
def Obligations.RolesForbid : Prop :=
  (∀ (i : Instr) (w : Word) (s : State) (c : Ctx), encode i = some w → opcodeAssigned (bitsOf w 24 8) = true → Issuing s c →
    let o := bitsOf w 24 8
    let accessForbidden := (0x20 ≤ o ∧ o ≤ 0x3F) ∨ o = 0x43 ∨ o = 0x44 ∨ (0xB0 ≤ o ∧ o ≤ 0xBF) ∨ o = 0xC4 ∨ o = 0xC5
    let executeForbidden := o = 0x1E ∨ o = 0x1F ∨ (0x70 ≤ o ∧ o ≤ 0x9F) ∨ (0xD0 ≤ o ∧ o ≤ 0xDF)
    (c.w.role = .access ∧ accessForbidden ∨ c.w.role = .execute ∧ executeForbidden → Traps i s c (plain causeILLROLE)) ∧
    (opcodeRoles o = .executeOnly ↔ accessForbidden) ∧ (opcodeRoles o = .accessOnly ↔ executeForbidden)) ∧
  (∀ (i : Instr) (w : Word), encode i = some w → opcodeAssigned (bitsOf w 24 8) = true →
    ∃ body : Ctx → Res, ∀ s : State, exec i s = issue s (opcodeRoles (bitsOf w 24 8)) body) ∧
  (∀ (s : State) (c : Ctx) (i : Instr), Issuing s c → c.inHandler = false →
    (∀ g a n, i = .wrsr g a n → Traps i s c (plain causePRIV)) ∧
    (∀ g d n, i = .rdsr g d n → 0x40 ≤ n.toNat → Traps i s c (plain causePRIV)) ∧
    (∀ g a, i = .tlbinvJob g ∨ i = .tlbinvPage g a ∨ i = .tlbinvAll g → Traps i s c (plain causePRIV)) ∧
    (∀ f g d a n, i = .viewctlJoin f ∨ i = .viewctlLeave f ∨ i = .viewctlInit g d a n → c.w.role = .access → Traps i s c (plain causePRIV)))

/-- R12, R13, R15, R17, R31: what an operand that is no queue delivers, by its specifier and class; R12, R17, R18, R30: which specifiers may be named. R16: a queue operand waits while its queue is empty and takes the head entry, the lanes without valid data reading zero; a queue named twice gives a its head and b the entry behind it, both popped. R10: with no active lane nothing is popped. That a pop also waits while an entry it would take is held (popFate) or a read of its lanes is still owed (readsOwed) is the model's reading of R215 (notes/assumptions/46.md). -/
def Obligations.OperandsRead : Prop :=
  (∀ (c : Ctx) (x : BitVec 7) (cls : OpClass) (L : Nat),
    (x.toNat < 0x40 → (op32 cls x).value c L = (c.w.v x.toNat L).setWidth 64 ∧ (op64 x).value c L = c.w.v (x.toNat + 1) L ++ c.w.v x.toNat L) ∧
    (0x40 ≤ x.toNat ∧ x.toNat < 0x60 → (op32 cls x).value c L = (c.w.sr (x.toNat - 0x40)).setWidth 64 ∧
      (op64 x).value c L = c.w.sr (x.toNat - 0x40 + 1) ++ c.w.sr (x.toNat - 0x40)) ∧
    (0x70 ≤ x.toNat ∧ x.toNat < 0x78 → ((op32 cls x).value c L).setWidth 32 = constant cls (x.toNat - 0x70) ∧
      (op64 x).value c L = (constant .int (x.toNat - 0x70)).signExtend 64) ∧
    (x = 0x78 → (op32 cls x).value c L = BitVec.ofNat 64 L ∧ (op64 x).value c L = BitVec.ofNat 64 L) ∧
    (x = 0x79 → (op32 cls x).value c L = BitVec.ofNat 64 c.w.index ∧ (op64 x).value c L = BitVec.ofNat 64 c.w.index) ∧
    (x = 0x7F → (op32 cls x).value c L = c.p.latch.setWidth 64 ∧ (op64 x).value c L = c.p.latch.signExtend 64) ∧
    (0x7A ≤ x.toNat ∧ x.toNat < 0x7F → (op32 cls x).ok c = false ∧ (op64 x).ok c = false) ∧
    (x = 0x7F → (op32 cls x).ok c = decide (0 < c.p.immRun)) ∧
    (x.toNat < 0x40 → (op32 cls x).ok c = decide (x.toNat < c.w.nregs) ∧
      (op64 x).ok c = decide (x.toNat % 2 = 0 ∧ x.toNat + 1 < c.w.nregs)) ∧
    (0x40 ≤ x.toNat ∧ x.toNat < 0x60 → (op32 cls x).ok c = true ∧ (op64 x).ok c = decide (x.toNat % 2 = 0))) ∧
  (∀ (c : Ctx) (n : BitVec 4) (q : Queue) (cls : OpClass) (act : LaneMask), c.t.queue? n.toNat = some q → act ≠ 0 →
    let x : BitVec 7 := 0x60 + n.setWidth 7
    (q.count = 0 → readOps c act [op32 cls x] = .stop (.block c 2)) ∧
    (0 < q.count → popFate c.s c.t [q.entryAt 0] act = .ok → readsOwed c.s c.t c.wi act = false →
      readOps c act [op32 cls x] = .got (c.popHead n.toNat act) [(q.entryAt 0).deliver]) ∧
    (q.count = 1 → readOps c act [op32 cls x, op32 cls x] = .stop (.block c 2)) ∧
    (1 < q.count → popFate c.s c.t [q.entryAt 0, q.entryAt 1] act = .ok → readsOwed c.s c.t c.wi act = false →
      readOps c act [op32 cls x, op32 cls x] =
        .got ((c.popHead n.toNat act).popHead n.toNat act) [(q.entryAt 0).deliver, (q.entryAt 1).deliver])) ∧
  (∀ (c : Ctx) (ops : List Opnd), ∃ vs, readOps c 0 ops = .got c vs)

/-- The storage of the machine (R3, and notes/assumptions/4.md for its form): a write keeps the canonical form, the cell reads the value written, every other cell reads as before, and canonical memories that read alike are equal. A byte written to L2 under a key slot reads back, and one written to HBM under a slot that holds a key reads back under it (R325, R330). -/
def Obligations.MemoryReadsBack : Prop :=
  (∀ (w : Nat) (m : Store w) (k : Nat) (v : BitVec w), m.wf = true →
    (m.put k v).wf = true ∧ (m.put k v).get k = v ∧ ∀ j, j ≠ k → (m.put k v).get j = m.get j) ∧
  (∀ (w : Nat) (m : Store w) (k : Nat) (vs : List (BitVec w)), m.wf = true →
    (m.write k vs).wf = true ∧ (m.write k vs).read k vs.length = vs ∧
    ∀ j, j < k ∨ k + vs.length ≤ j → (m.write k vs).get j = m.get j) ∧
  (∀ (m n : Memory), m.wf = true → n.wf = true → m.fill = .zero → n.fill = .zero → (∀ k, m.get k = n.get k) → m = n) ∧
  (∀ (s : State) (slot pa slot' pa' : Nat) (b : Byte), pa < 2 ^ 40 → pa' < 2 ^ 40 →
    readPhys (writePhys s slot pa b) slot' pa' = if slot' = slot ∧ pa' = pa then b else readPhys s slot' pa') ∧
  (∀ (s : State) (slot pa k : Nat) (b : Byte), s.pkg.hbm.wf = true → cellsRising s.pkg.keyOf = true → cellsRising s.die.l2 = true →
    keyIn s slot = some k → readPhys (writeUncached s slot pa b) slot pa = b)

/-- R2, R330 and notes/assumptions/4.md: every step, from every state, keeps the device's 24 cores and 6 clusters and leaves HBM in its canonical form. -/
def Obligations.StepKeepsCanonical : Prop :=
  ∀ s s' : State, canonical s → Sys2Proof.Machine.step s = .next s' → canonical s'

/-- R332, R347, R351, R345: what the registers of BAR0 read after module reset, wherever the spec gives the value; no team is resident, no record is published, and the state is canonical. -/
def Obligations.ResetValues : Prop :=
  (∀ r ∈ resetWords, readBar0 State.reset r.1 = r.2) ∧
  (∀ off, 0x71000 ≤ off ∧ off < 0x72600 → readBar0 State.reset off = 0) ∧
  (∀ off, 0x1000 ≤ off ∧ off < 0x5000 ∨ 0x10000 ≤ off ∧ off < 0x11000 ∨ 0x20000 ≤ off ∧ off < 0x24000 ∨ 0x60200 ≤ off ∧ off < 0x60400 ∨
    0x64000 ≤ off ∧ off < 0x68000 → readBar0 State.reset off = 0) ∧
  State.reset.teams = [] ∧ State.reset.die.tasks = [] ∧ canonical State.reset
end

