-- ==== Sys2Proof/Laws/Issue.lean ====
section
/-! SUPPORT. What issuing an instruction can do: the context, the end of a unit, and the forms the meanings are written over. -/

namespace Sys2Proof.Machine

/-! ## Lists and teams -/

theorem updAt_length {α : Type} (l : List α) (i : Nat) (f : α → α) : (updAt l i f).length = l.length := by
  induction l generalizing i with
  | nil => simp [updAt]
  | cons x r ih => cases i <;> simp [updAt, ih]

theorem updAt_get {α : Type} (l : List α) (i j : Nat) (f : α → α) :
    (updAt l i f)[j]? = if j = i then (l[j]?).map f else l[j]? := by
  induction l generalizing i j with
  | nil => simp [updAt]
  | cons x r ih =>
    cases i <;> cases j <;> simp [updAt, ih]

/-- A change of a team that keeps its number is read back by that number, and by no other. -/
theorem team?_map (l : List Team) (g : Team → Team) (hg : ∀ t, (g t).id = t.id) (id : Nat) :
    (l.map g).find? (fun t => t.id == id) = (l.find? (fun t => t.id == id)).map g := by
  induction l with
  | nil => rfl
  | cons x r ih =>
    by_cases h : x.id = id <;> simp [hg, h, ih]

theorem team?_updTeam (s : State) (a id : Nat) (f : Team → Team) (hf : ∀ t, (f t).id = t.id) :
    (s.updTeam a f).team? id = if id = a then (s.team? id).map f else s.team? id := by
  simp only [State.updTeam, State.team?]
  rw [team?_map s.teams _ (by intro t; split <;> simp [*])]
  cases h : s.teams.find? (fun t => t.id == id) with
  | none => simp
  | some t =>
    have ht : t.id = id := by simpa using List.find?_some h
    by_cases ha : id = a <;> simp [ht, ha]

theorem team?_id {s : State} {id : Nat} {t : Team} (h : s.team? id = some t) : t.id = id := by
  simpa using List.find?_some h

theorem team?_setTeam (s : State) (t : Team) (id : Nat) :
    (s.setTeam t).team? id = if id = t.id then (s.team? id).map (fun _ => t) else s.team? id := by
  have h := team?_updTeam s t.id id (fun x => { t with id := x.id }) (by intro; rfl)
  have e : s.setTeam t = s.updTeam t.id (fun x => { t with id := x.id }) := by
    simp only [State.setTeam, State.updTeam, State.mk.injEq, true_and, and_true]
    apply List.map_congr_left
    intro x _
    by_cases hx : x.id = t.id <;> simp [hx]
  rw [e, h]
  by_cases hid : id = t.id
  · subst hid
    cases hs : s.team? t.id with
    | none => simp
    | some u => have := team?_id hs; simp [this]
  · simp [hid]

/-! ## The context -/

/-- What getCtx answers: the team, the warp and the split that State.cur names. -/
theorem getCtx_spec {s : State} {c : Ctx} (h : getCtx s = some c) :
    ∃ k, s.cur = some k ∧ c.s = s ∧ s.team? k.team = some c.t ∧ c.wi = k.warp ∧ c.t.warps[c.wi]? = some c.w ∧
      findSplit c.w.table k.seq = some c.p := by
  unfold getCtx at h
  split at h
  · cases h
  · rename_i k hk
    split at h
    · cases h
    · rename_i t ht
      split at h
      · cases h
      · rename_i w hw
        split at h
        · cases h
        · rename_i p hp
          cases h
          exact ⟨k, hk, rfl, ht, rfl, hw, hp⟩

/-- The context's team is found under its own number, its split under its own SEQ. -/
theorem getCtx_team {s : State} {c : Ctx} (h : getCtx s = some c) :
    c.s = s ∧ s.team? c.t.id = some c.t ∧ c.t.warps[c.wi]? = some c.w ∧ findSplit c.w.table c.p.seq = some c.p := by
  obtain ⟨k, _, hs, ht, _, hw, hp⟩ := getCtx_spec h
  refine ⟨hs, ?_, hw, ?_⟩
  · rw [team?_id ht]; exact ht
  · have : c.p.seq = k.seq := by simpa using List.find?_some hp
    rw [this]; exact hp

/-! ## Live slots keep everything else -/

theorem Warp.contents_takeSlot (w : Warp) (i : Nat) (p : Split) (l : Option Split) :
    (w.takeSlot i p l).contents = w.contents := by
  unfold Warp.takeSlot
  simp only
  split
  · rfl
  · split
    · rfl
    · split
      · rfl
      · split <;> rfl

theorem Warp.contents_rotate (now : Nat) (w : Warp) (i : Nat) : (w.rotate now i).contents = w.contents := by
  unfold Warp.rotate
  split
  · split
    · exact Warp.contents_takeSlot ..
    · rfl
  · rfl

theorem Warp.contents_fillSlot (now : Nat) (w : Warp) (i : Nat) : (w.fillSlot now i).contents = w.contents := by
  unfold Warp.fillSlot
  split
  · rfl
  · split
    · split
      · exact Warp.contents_takeSlot ..
      · rfl
    · split
      · split
        · rfl
        · exact Warp.contents_rotate ..
      · rfl

theorem Warp.contents_unspill (n : Nat) (w : Warp) : (w.unspill n).contents = w.contents := by
  induction n generalizing w with
  | zero => rfl
  | succ n ih =>
    unfold Warp.unspill
    split
    · split
      · rw [ih]; rfl
      · rfl
    · rfl

theorem Warp.contents_vacate (w : Warp) : w.vacate.contents = w.contents := rfl

theorem Warp.contents_refill (now : Nat) (w : Warp) : (w.refill now).contents = w.contents := by
  simp [Warp.refill, Warp.contents_unspill, Warp.contents_fillSlot, Warp.contents_vacate]

/-- Refilling live slots changes no warp's contents. -/
theorem Team.refill_warp (now : Nat) (t : Team) (k : Nat) :
    ((t.refill now).warps[k]?).map Warp.contents = (t.warps[k]?).map Warp.contents := by
  unfold Team.refill
  split
  · simp only [List.getElem?_map, Option.map_map]
    congr 1
    funext w
    simp only [Function.comp]
    split
    · rfl
    · exact Warp.contents_refill now w
  · rfl

theorem Team.refill_contents (now : Nat) (t : Team) : (t.refill now).contents = t.contents := by
  unfold Team.refill
  split <;> rfl

/-! ## Live slots keep every split's record -/

theorem firstBy_mem {α : Type} (r : α → α → Bool) {l : List α} {x : α} (h : firstBy r l = some x) : x ∈ l := by
  induction l generalizing x with
  | nil => simp [firstBy] at h
  | cons a l ih =>
    unfold firstBy at h
    split at h
    · cases h; exact List.mem_cons_self
    · rename_i b hb
      split at h <;> cases h
      · exact List.mem_cons_self
      · exact List.mem_cons_of_mem _ (ih hb)

theorem victimOf_mem {l : List Split} {p : Split} (h : victimOf l = some p) : p ∈ l := by
  unfold victimOf at h
  split at h
  · rename_i hp; cases h; exact (List.mem_filter.mp (firstBy_mem _ hp)).1
  · split at h
    · rename_i hp; cases h; exact (List.mem_filter.mp (firstBy_mem _ hp)).1
    · exact (List.mem_filter.mp (firstBy_mem _ h)).1

theorem chosen_mem {w : Warp} {p : Split} (h : w.chosen = some p) : p ∈ w.splits :=
  (List.mem_filter.mp (firstBy_mem _ h)).1

theorem Split.record_seq {p q : Split} (h : p.record = q.record) : p.seq = q.seq := by
  have : p.record.seq = q.record.seq := by rw [h]
  exact this

/-- Of a list of distinct SEQs, two with one SEQ are one. -/
theorem eq_of_seq {l : List Split} (hn : (l.map Split.seq).Nodup) {x y : Split} (hx : x ∈ l) (hy : y ∈ l) (h : x.seq = y.seq) : x = y := by
  induction l with
  | nil => cases hx
  | cons a l ih =>
    simp only [List.map_cons, List.nodup_cons] at hn
    rcases List.mem_cons.mp hx with rfl | hx <;> rcases List.mem_cons.mp hy with rfl | hy
    · rfl
    · exact absurd (h ▸ List.mem_map_of_mem hy) hn.1
    · exact absurd (h ▸ List.mem_map_of_mem ‹x ∈ l›) hn.1
    · exact ih hn.2 hx hy

/-- The SEQs of records are those of the splits. -/
theorem seqs_of_records {l m : List Split} (h : (l.map Split.record).Perm (m.map Split.record)) : (l.map Split.seq).Perm (m.map Split.seq) := by
  have := h.map Split.seq
  simpa [List.map_map, Function.comp_def, Split.record] using this

/-- One of a list of distinct SEQs taken out: what remains, and its record. -/
theorem dropSplit_perm {l : List Split} (hn : (l.map Split.seq).Nodup) {x : Split} (hx : x ∈ l) :
    (x.record :: (dropSplit l x.seq).map Split.record).Perm (l.map Split.record) := by
  induction l with
  | nil => cases hx
  | cons a l ih =>
    simp only [List.map_cons, List.nodup_cons] at hn
    rcases List.mem_cons.mp hx with rfl | hx
    · have : dropSplit (x :: l) x.seq = l := by
        simp only [dropSplit, List.filter_cons, bne_self_eq_false, Bool.false_eq_true, if_false]
        rw [List.filter_eq_self]
        intro y hy
        have : y.seq ≠ x.seq := fun e => hn.1 (e ▸ List.mem_map_of_mem hy)
        simpa using this
      rw [this]; rfl
    · have ha : a.seq ≠ x.seq := fun e => hn.1 (e ▸ List.mem_map_of_mem hx)
      have : dropSplit (a :: l) x.seq = a :: dropSplit l x.seq := by simp [dropSplit, ha]
      rw [this]
      exact (List.Perm.swap ..).trans ((ih hn.2 hx).cons _)

/-- A split written back with its record. -/
theorem putSplit_record {l : List Split} (hn : (l.map Split.seq).Nodup) {x p : Split} (hx : x ∈ l) (h : x.record = p.record) :
    (putSplit l p).map Split.record = l.map Split.record := by
  simp only [putSplit, List.map_map]
  apply List.map_congr_left
  intro y hy
  simp only [Function.comp]
  split
  · rename_i e
    have : y = x := eq_of_seq hn hy hx (e.trans (Split.record_seq h).symm)
    rw [this, h]
  · rfl

@[simp] theorem Split.record_asSpilled (p : Split) : p.asSpilled.record = p.record := by
  simp [Split.asSpilled, Split.rewind, Split.record, Split.unitPc]
@[simp] theorem Split.record_asExchanged (p : Split) : p.asExchanged.record = p.record := by
  simp [Split.asExchanged, Split.rewind, Split.record, Split.unitPc]

theorem findSplit_none {l : List Split} {q : BitVec 16} (h : ¬(findSplit l q).isSome = true) {x : Split} (hx : x ∈ l) : x.seq ≠ q := by
  intro e
  apply h
  rw [findSplit, List.find?_isSome]
  exact ⟨x, hx, by simpa using e⟩

/-- A warp's splits hold the same records. -/
def Warp.sameRecords (w v : Warp) : Prop := (w.splits.map Split.record).Perm (v.splits.map Split.record)

theorem Warp.sameRecords.nodup {w v : Warp} (h : w.sameRecords v) (hn : (v.splits.map Split.seq).Nodup) : (w.splits.map Split.seq).Nodup :=
  (seqs_of_records h).nodup_iff.mpr hn

/-- A split already among the splits takes a live slot (R70): every record stays. -/
theorem Warp.takeSlot_records {w : Warp} (hn : (w.splits.map Split.seq).Nodup) (i : Nat) {p x : Split} (hx : x ∈ w.splits) (hp : x.record = p.record)
    (leaving : Option Split) (hl : ∀ q, leaving = some q → ∃ y ∈ w.table, y.record = q.record) : (w.takeSlot i p leaving).sameRecords w := by
  have hseq : x.seq = p.seq := Split.record_seq hp
  have hnt : (w.table.map Split.seq).Nodup := by
    simp only [Warp.splits, List.map_append] at hn; exact (List.nodup_append.mp hn).1
  have hns : (w.spilled.map Split.seq).Nodup := by
    simp only [Warp.splits, List.map_append] at hn; exact (List.nodup_append.mp hn).2.1
  have hp' : Split.record { p with st := .live, blk := if p.wake.isSome then 8 else 0 } = x.record := by rw [hp]; rfl
  unfold Warp.takeSlot Warp.sameRecords
  simp only
  split
  · rename_i h
    simp only [Warp.splits, List.map_append]
    rw [findSplit, List.find?_isSome] at h
    obtain ⟨z, hz, hzs⟩ := h
    have hzx : z = x := eq_of_seq hn (List.mem_append_left _ hz) hx (by simpa [hseq] using hzs)
    rw [putSplit_record hnt hz (by rw [hzx, hp'])]
  · rename_i h
    have hxs : x ∈ w.spilled := by
      rcases List.mem_append.mp hx with hx | hx
      · exact absurd hseq (findSplit_none h hx)
      · exact hx
    have hdrop := dropSplit_perm hns hxs
    rw [hseq] at hdrop
    split
    · rw [List.perm_iff_count]
      intro a
      have := hdrop.count_eq a
      simp only [Warp.splits, List.map_append, List.count_append, List.map_cons, List.map_nil, hp', List.count_cons, List.count_nil] at this ⊢
      omega
    · have swap : ∀ (q' q y : Split), y ∈ w.table → y.record = q.record → q'.record = q.record →
          ((dropSplit w.table q.seq ++ [{ p with st := .live, blk := if p.wake.isSome then 8 else 0 }] ++ (dropSplit w.spilled p.seq ++ [q'])).map Split.record).Perm
            ((w.table ++ w.spilled).map Split.record) := by
        intro q' q y hy hq hq'
        have ht := dropSplit_perm hnt hy
        rw [Split.record_seq hq] at ht
        rw [List.perm_iff_count]
        intro a
        have h1 := hdrop.count_eq a
        have h2 := ht.count_eq a
        simp only [List.map_append, List.count_append, List.map_cons, List.map_nil, hp', hq', ← hq, List.count_cons, List.count_nil] at h1 h2 ⊢
        omega
      split
      · rename_i q
        obtain ⟨y, hy, hq⟩ := hl q rfl
        exact swap _ q y hy hq (by simp)
      · split
        · rename_i q hq
          exact swap _ q q (victimOf_mem hq) rfl (by simp)
        · exact .refl _

theorem Warp.rotate_records {w : Warp} (hn : (w.splits.map Split.seq).Nodup) (now i : Nat) : (w.rotate now i).sameRecords w := by
  unfold Warp.rotate
  split
  · rename_i q _ _
    split
    · rename_i p n hp hc
      have hpt : p ∈ w.table := List.mem_of_find?_eq_some hp
      have hps : p.seq = q := by simpa using List.find?_some hp
      have hnt : (w.table.map Split.seq).Nodup := by
        simp only [Warp.splits, List.map_append] at hn; exact (List.nodup_append.mp hn).1
      have hrec : ∀ p', p'.record = p.record →
          ({ w with table := putSplit w.table p', slots := updAt w.slots i (fun _ => ⟨none, 0⟩) } : Warp).splits.map Split.record = w.splits.map Split.record := by
        intro p' h
        simp only [Warp.splits, List.map_append, putSplit_record hnt hpt h.symm]
      have hr := hrec { p with st := if p.blk = 0 then .parked else .blocked, since := now } rfl
      obtain ⟨x, hx, hxn⟩ := List.mem_map.mp (hr ▸ List.mem_map_of_mem (f := Split.record) (chosen_mem hc))
      have hn' := (seqs_of_records (List.Perm.of_eq hr)).nodup_iff.mpr hn
      refine (Warp.takeSlot_records hn' i hx hxn _ ?_).trans (List.Perm.of_eq hr)
      rintro _ ⟨⟩
      refine ⟨{ p with st := if p.blk = 0 then .parked else .blocked, since := now }, ?_, rfl⟩
      simp only [putSplit, List.mem_map]
      exact ⟨p, hpt, by simp⟩
    · exact .refl _
  · exact .refl _

theorem Warp.fillSlot_records {w : Warp} (hn : (w.splits.map Split.seq).Nodup) (now i : Nat) : (w.fillSlot now i).sameRecords w := by
  unfold Warp.fillSlot
  split
  · exact .refl _
  · split
    · split
      · rename_i h
        exact Warp.takeSlot_records hn i (chosen_mem h) rfl none (by simp)
      · exact .refl _
    · split
      · split
        · exact .refl _
        · exact Warp.rotate_records hn now i
      · exact .refl _

theorem Warp.unspill_records (n : Nat) {w : Warp} (hn : (w.splits.map Split.seq).Nodup) : (w.unspill n).sameRecords w := by
  induction n generalizing w with
  | zero => exact .refl _
  | succ n ih =>
    unfold Warp.unspill
    split
    · split
      · rename_i p h
        have hp : p ∈ w.spilled := (List.mem_filter.mp (firstBy_mem _ h)).1
        have hns : (w.spilled.map Split.seq).Nodup := by
          simp only [Warp.splits, List.map_append] at hn; exact (List.nodup_append.mp hn).2.1
        have hs : ({ w with table := w.table ++ [p], spilled := dropSplit w.spilled p.seq } : Warp).sameRecords w := by
          unfold Warp.sameRecords
          rw [List.perm_iff_count]
          intro a
          have := (dropSplit_perm hns hp).count_eq a
          simp only [Warp.splits, List.map_append, List.count_append, List.map_cons, List.map_nil, List.count_cons, List.count_nil] at this ⊢
          omega
        exact (ih (hs.nodup hn)).trans hs
      · exact .refl _
    · exact .refl _

/-- Refilling live slots changes no split's record (R69, R70). -/
theorem Warp.refill_records {w : Warp} (hn : (w.splits.map Split.seq).Nodup) (now : Nat) : (w.refill now).sameRecords w := by
  have h0 : w.vacate.sameRecords w := .refl _
  have h1 := (Warp.fillSlot_records (h0.nodup hn) now 0).trans h0
  have h2 := (Warp.fillSlot_records (Warp.sameRecords.nodup h1 hn) now 1).trans h1
  exact (Warp.unspill_records 8 (Warp.sameRecords.nodup h2 hn)).trans h2

theorem Team.refill_records (now : Nat) (t : Team) (k : Nat) {v : Warp} (hv : t.warps[k]? = some v) (hn : (v.splits.map Split.seq).Nodup) :
    ∃ w, (t.refill now).warps[k]? = some w ∧ w.sameRecords v := by
  unfold Team.refill
  split
  · refine ⟨if v.done then v.vacate else v.refill now, by simp [hv], ?_⟩
    split
    · exact .refl _
    · exact Warp.refill_records hn now
  · exact ⟨v, hv, .refl _⟩

theorem Warp.takeSlot_halt (w : Warp) (i : Nat) (p : Split) (l : Option Split) : (w.takeSlot i p l).halt = w.halt := by
  unfold Warp.takeSlot
  simp only
  split
  · rfl
  · split
    · rfl
    · split
      · rfl
      · split <;> rfl

theorem Warp.rotate_halt (now : Nat) (w : Warp) (i : Nat) : (w.rotate now i).halt = w.halt := by
  unfold Warp.rotate
  split
  · split
    · exact Warp.takeSlot_halt ..
    · rfl
  · rfl

theorem Warp.fillSlot_halt (now : Nat) (w : Warp) (i : Nat) : (w.fillSlot now i).halt = w.halt := by
  unfold Warp.fillSlot
  split
  · rfl
  · split
    · split
      · exact Warp.takeSlot_halt ..
      · rfl
    · split
      · split
        · rfl
        · exact Warp.rotate_halt ..
      · rfl

theorem Warp.unspill_halt (n : Nat) (w : Warp) : (w.unspill n).halt = w.halt := by
  induction n generalizing w with
  | zero => rfl
  | succ n ih =>
    unfold Warp.unspill
    split
    · split
      · rw [ih]
      · rfl
    · rfl

theorem Team.refill_halt (now : Nat) (t : Team) (k : Nat) : ((t.refill now).warps[k]?).map Warp.halt = (t.warps[k]?).map Warp.halt := by
  unfold Team.refill
  split
  · simp only [List.getElem?_map, Option.map_map]
    congr 1
    funext w
    simp only [Function.comp]
    split
    · rfl
    · simp [Warp.refill, Warp.unspill_halt, Warp.fillSlot_halt, Warp.vacate]
  · rfl

theorem findSplit_append {l r : List Split} {q : BitVec 16} {p : Split} (h : findSplit l q = some p) : findSplit (l ++ r) q = some p := by
  simp only [findSplit] at h ⊢
  rw [List.find?_append, h]; rfl

theorem Warp.unspill_find (n : Nat) {w : Warp} {q : BitVec 16} {p : Split} (h : findSplit w.table q = some p) :
    findSplit (w.unspill n).table q = some p := by
  induction n generalizing w with
  | zero => exact h
  | succ n ih =>
    unfold Warp.unspill
    split
    · split
      · exact ih (findSplit_append h)
      · exact h
    · exact h

/-- While no split waits, refilling leaves a split of the table as it is. -/
theorem Warp.refill_find (now : Nat) (w : Warp) (h : w.waiting = []) {q : BitVec 16} {p : Split} (hq : findSplit w.table q = some p) :
    findSplit (w.refill now).table q = some p := by
  have hn : w.vacate.chosen = none := by
    have : w.vacate.waiting = [] := h
    simp [Warp.chosen, this, firstBy]
  have hf : ∀ i : Nat, w.vacate.fillSlot now i = w.vacate := by
    intro i
    unfold Warp.fillSlot Warp.rotate
    simp only [hn]
    split
    · rfl
    · split
      · rfl
      · split
        · split
          · rfl
          · split
            · split
              · simp_all
              · rfl
            · rfl
        · rfl
  unfold Warp.refill
  rw [hf 0, hf 1]
  exact Warp.unspill_find 8 hq

/-! ## The end of a unit -/

theorem Split.rewind_record (p : Split) : p.rewind.record = p.record := by simp [Split.rewind, Split.record, Split.unitPc]

theorem Split.rewind_of (p : Split) (h : p.immRun = 0) : p.rewind = p := by
  cases p; simp only at h; subst h; simp [Split.rewind]

/-- The splits of a warp rewound to their units (R33): every record stays, and which of them wait. -/
theorem Warp.rewind_records (w : Warp) : ({ w with table := w.table.map Split.rewind } : Warp).sameRecords w := by
  simp only [Warp.sameRecords, Warp.splits, List.map_append, List.map_map]
  rw [show Split.record ∘ Split.rewind = Split.record from funext Split.rewind_record]

theorem Warp.rewind_waiting (w : Warp) (h : w.waiting = []) : ({ w with table := w.table.map Split.rewind } : Warp).waiting = [] := by
  simp only [Warp.waiting, Warp.splits, List.filter_append, List.append_eq_nil_iff, List.filter_map, List.map_eq_nil_iff] at h ⊢
  exact ⟨h.1, h.2⟩

theorem findSplit_rewind {l : List Split} {q : BitVec 16} {p : Split} (h : findSplit l q = some p) :
    findSplit (l.map Split.rewind) q = some p.rewind := by
  simp only [findSplit, List.find?_map] at h ⊢
  rw [show (fun p : Split => p.seq == q) ∘ Split.rewind = (fun p => p.seq == q) from rfl, h]; rfl

/-- What the end of a skid leaves of a team (R33, R299): everything but the skid, each split at the unit it stands in. -/
theorem Team.endSkid_warp (t : Team) (k : Nat) :
    t.endSkid.warps[k]? = (t.warps[k]?).map (fun w => { w with table := w.table.map Split.rewind }) := by
  simp [Team.endSkid]

theorem countUnit_id (s : State) (id wi : Nat) (q : BitVec 16) : ∃ f : Team → Team, countUnit s id wi q = s.updTeam id f ∧
    (∀ t, (f t).id = t.id) ∧ (∀ t, (f t).contents = t.contents) ∧
    (∀ (t : Team) (k : Nat), ((f t).warps[k]?).map Warp.contents = (t.warps[k]?).map Warp.contents) ∧
    (∀ (t : Team) (k : Nat), t.trap.handler = none → ((f t).warps[k]?).map Warp.halt = (t.warps[k]?).map Warp.halt) ∧
    (∀ (t : Team) (k : Nat) (v : Warp), t.warps[k]? = some v → (v.splits.map Split.seq).Nodup → ∃ w, (f t).warps[k]? = some w ∧ w.sameRecords v) ∧
    (∀ (t : Team) (w : Warp) (r : BitVec 16) (p : Split), t.warps[wi]? = some w → w.waiting = [] → findSplit w.table r = some p → p.immRun = 0 →
      ∃ w', (f t).warps[wi]? = some w' ∧ w'.waiting = [] ∧ findSplit w'.table r = some p) := by
  refine ⟨_, rfl, ?_, ?_, ?_, ?_, ?_, ?_⟩
  · intro t; simp only; split
    · split <;> rfl
    · rfl
  · intro t; simp only [Team.contents]; split
    · split
      · rfl
      · split <;> rfl
    · rfl
  · intro t k; simp only; split
    · split
      · rw [Team.endSkid_warp]; cases t.warps[k]? <;> rfl
      · simp only [updAt_get]
        split
        · cases t.warps[k]? <;> rfl
        · rfl
    · rw [updAt_get]
      split
      · cases t.warps[k]? with
        | none => rfl
        | some w =>
          simp only [Option.map_some, Option.some.injEq]
          split
          · rfl
          · split
            · rfl
            · split
              · rfl
              · rw [Warp.contents_rotate]; rfl
      · rfl
  · intro t k hh; simp only [hh]
    rw [updAt_get]
    split
    · cases t.warps[k]? with
      | none => rfl
      | some w =>
        simp only [Option.map_some, Option.some.injEq]
        split
        · rfl
        · split
          · rfl
          · split
            · rfl
            · rw [Warp.rotate_halt]
    · rfl
  · intro t k v hv hn; simp only; split
    · split
      · exact ⟨_, by rw [Team.endSkid_warp, hv]; rfl, Warp.rewind_records v⟩
      · simp only [updAt_get]
        split
        · exact ⟨v.countSkid q, by rw [hv]; rfl, .refl _⟩
        · exact ⟨v, hv, .refl _⟩
    · simp only [updAt_get, hv, Option.map_some]
      split
      · refine ⟨_, rfl, ?_⟩
        split
        · exact .refl _
        · split
          · exact .refl _
          · split
            · exact .refl _
            · exact Warp.rotate_records (w := { v with slots := v.slots.map (fun l => if l.seq = some q then { l with issued := l.issued + 1 } else l) }) hn _ _
      · exact ⟨v, rfl, .refl _⟩
  · intro t w r p hw hn hp hi; simp only; split
    · split
      · exact ⟨_, by rw [Team.endSkid_warp, hw]; rfl, Warp.rewind_waiting w hn, by rw [findSplit_rewind hp, Split.rewind_of p hi]⟩
      · exact ⟨w.countSkid q, by simp only [updAt_get, if_true, hw]; rfl, hn, hp⟩
    · refine ⟨_, by rw [updAt_get]; simp only [if_true, hw, Option.map_some]; rfl, ?_⟩
      split
      · exact ⟨hn, hp⟩
      · split
        · exact ⟨hn, hp⟩
        · split
          · exact ⟨hn, hp⟩
          · rename_i h
            exact absurd (by simpa [Warp.waiting, Warp.splits] using hn) h

/-- Writing a split back into a table where its SEQ stands: it is found there. -/
theorem findSplit_putSplit (l : List Split) (p : Split) (h : (findSplit l p.seq).isSome) :
    findSplit (putSplit l p) p.seq = some p := by
  induction l with
  | nil => simp [findSplit] at h
  | cons x r ih =>
    unfold findSplit putSplit at *
    by_cases hx : x.seq = p.seq
    · simp [hx]
    · simp only [List.map_cons, hx, if_false, List.find?_cons]
      simp only [List.find?_cons] at h
      have hb : (x.seq == p.seq) = false := by simpa using hx
      rw [hb] at h ⊢
      exact ih h

theorem waiting_put (w : Warp) (p : Split) (h : w.waiting = []) (hp : p.st ≠ .parked) :
    ({ w with table := putSplit w.table p } : Warp).waiting = [] := by
  simp only [Warp.waiting, Warp.splits, List.filter_append, List.append_eq_nil_iff] at h ⊢
  refine ⟨?_, h.2⟩
  rw [List.filter_eq_nil_iff] at h ⊢
  intro x hx
  simp only [putSplit, List.mem_map] at hx
  obtain ⟨y, hy, rfl⟩ := hx
  split
  · simp [hp]
  · exact h.1 y hy

/-- A unit that has ended: the team put back, the unit counted, the live slots refilled. npc is where the split stands. -/
theorem after_end (c : Ctx) (npc : DWord) (now : Nat) (ht : (c.s.team? c.t.id).isSome) (hw : c.wi < c.t.warps.length)
    (hp : (findSplit c.w.table c.p.seq).isSome) :
    After c npc ((countUnit (c.landed npc).commit c.t.id c.wi c.p.seq).updTeam c.t.id (fun t => t.refill now)) := by
  obtain ⟨f, hf, hid, hcon, hwarp, hhalt, hrec, htab⟩ := countUnit_id (c.landed npc).commit c.t.id c.wi c.p.seq
  have hteam1 : (c.landed npc).team.id = c.t.id := rfl
  have hrid : ∀ t : Team, (t.refill now).id = t.id := by intro t; unfold Team.refill; split <;> rfl
  rw [hf]
  obtain ⟨t0, ht0⟩ := Option.isSome_iff_exists.mp ht
  have hfind : ∀ id, (((c.landed npc).commit.updTeam c.t.id f).updTeam c.t.id (fun t => t.refill now)).team? id =
      if id = c.t.id then some ((f (c.landed npc).team).refill now) else c.s.team? id := by
    intro id
    rw [team?_updTeam _ _ _ _ hrid, team?_updTeam _ _ _ _ hid]
    simp only [Ctx.commit, team?_setTeam, hteam1]
    by_cases h : id = c.t.id
    · subst h; simp only [if_true]
      have : (c.landed npc).s.team? c.t.id = some t0 := ht0
      rw [this]; rfl
    · simp [h]; rfl
  refine ⟨rfl, fun id h => by rw [hfind id, if_neg h], _, by rw [hfind, if_pos rfl], ?_, ?_, ?_, ?_, ?_⟩
  · rw [Team.refill_contents, hcon]; rfl
  · intro k; rw [Team.refill_warp, hwarp]
  · intro hn k; rw [Team.refill_halt]; exact hhalt (c.landed npc).team k hn
  · intro k v hv hn
    obtain ⟨w1, hw1, hr1⟩ := hrec _ k v hv hn
    obtain ⟨w2, hw2, hr2⟩ := Team.refill_records now _ k hw1 (hr1.nodup hn)
    exact ⟨w2, hw2, hr2.trans hr1⟩
  · intro hwait hst
    have hget : (c.landed npc).team.warps[c.wi]? = some { c.w with table := putSplit c.w.table (c.landed npc).p } := by
      simp only [Ctx.team, Ctx.landed]
      rw [updAt_get, if_pos rfl, List.getElem?_eq_getElem hw]; rfl
    have hwait1 : ({ c.w with table := putSplit c.w.table (c.landed npc).p } : Warp).waiting = [] :=
      waiting_put c.w (c.landed npc).p hwait hst
    obtain ⟨w2, hw2, hwait2, hseen⟩ := htab (c.landed npc).team _ c.p.seq (c.landed npc).p hget hwait1 (findSplit_putSplit _ _ hp) rfl
    unfold Team.refill
    split
    · refine ⟨if w2.done then w2.vacate else w2.refill now, by simp [hw2], ?_⟩
      split
      · exact hseen
      · exact Warp.refill_find now w2 hwait2 hseen
    · exact ⟨w2, hw2, hseen⟩

/-- A completed instruction goes on at the next word. -/
theorem after_done (c0 c : Ctx) (ht : (c.s.team? c.t.id).isSome) (hw : c.wi < c.t.warps.length)
    (hp : (findSplit c.w.table c.p.seq).isSome) : After c (c.p.pc + 4) (finishRes c0 (.done c)) :=
  after_end c (c.p.pc + 4) c.s.clock ht hw hp

/-- A completed transfer goes on at the PC its context holds. -/
theorem after_at (c0 c : Ctx) (ht : (c.s.team? c.t.id).isSome) (hw : c.wi < c.t.warps.length)
    (hp : (findSplit c.w.table c.p.seq).isSome) : After c c.p.pc (finishRes c0 (.at_ c)) :=
  after_end c c.p.pc c.s.clock ht hw hp

/-- issue in a split that may issue is the end of the body. -/
theorem issue_of {s : State} {roles : Roles} {c : Ctx} (h : Issues s roles c) (body : Ctx → Res) :
    issue s roles body = .next (finishRes c (body c)) := by
  obtain ⟨⟨hc, hcor⟩, hr⟩ := h
  simp [issue, hc, hcor, hr]

/-- issue in a role that may not issue the word takes ILLROLE (spec/01 R34, R35). -/
theorem issue_role {s : State} {roles : Roles} {c : Ctx} (h : Issuing s c) (hr : roles.allows c.w.role = false) (body : Ctx → Res) :
    issue s roles body = .next (takeTrap c { cause := causeILLROLE, lo := 0, hi := 0, lane := 0 } c.p.unitPc) := by
  obtain ⟨hc, hcor⟩ := h
  simp [issue, hc, hcor, hr, finishRes, Res.trapC]

/-- What a context that may issue gives after_done and after_at. -/
theorem Issuing.facts {s : State} {c : Ctx} (h : Issuing s c) :
    (c.s.team? c.t.id).isSome ∧ c.wi < c.t.warps.length ∧ (findSplit c.w.table c.p.seq).isSome := by
  obtain ⟨hs, ht, hw, hp⟩ := getCtx_team h.1
  refine ⟨by rw [hs, ht]; rfl, ?_, by rw [hp]; rfl⟩
  exact (List.getElem?_eq_some_iff.mp hw).1

/-- A body that ends in done with its own context but for a changed warp completes. -/
theorem completes_done {s : State} {roles : Roles} {c c' : Ctx} (h : Issues s roles c) (i : Instr) (body : Ctx → Res)
    (he : exec i s = issue s roles body) (hb : body c = .done c')
    (ht : (c'.s.team? c'.t.id).isSome) (hw : c'.wi < c'.t.warps.length) (hp : (findSplit c'.w.table c'.p.seq).isSome) :
    Completes i s c' (c'.p.pc + 4) :=
  ⟨_, by rw [he, issue_of h, hb], after_done c c' ht hw hp⟩

end Sys2Proof.Machine
end

