-- ==== Sys2Proof/Laws/Forms.lean ====
section
/-! SUPPORT. What the shared forms do when their checks pass, and that the operations on a context keep the issuing split in its place. -/

namespace Sys2Proof.Machine

/-- c' stands where c stands: the same split of the same warp of the same team, which the machine still holds. -/
structure Follows (c c' : Ctx) : Prop where
  id : c'.t.id = c.t.id
  wi : c'.wi = c.wi
  seq : c'.p.seq = c.p.seq
  pc : c'.p.pc = c.p.pc
  table : (findSplit c.w.table c.p.seq).isSome → (findSplit c'.w.table c.p.seq).isSome
  warps : c'.t.warps.length = c.t.warps.length
  team : ∀ id, (c.s.team? id).isSome → (c'.s.team? id).isSome

theorem Follows.refl (c : Ctx) : Follows c c := ⟨rfl, rfl, rfl, rfl, fun x => x, rfl, fun _ x => x⟩

theorem Follows.trans {a b c : Ctx} (h : Follows a b) (k : Follows b c) : Follows a c :=
  ⟨k.id.trans h.id, k.wi.trans h.wi, k.seq.trans h.seq, k.pc.trans h.pc,
   fun x => by have := k.table (by rw [h.seq]; exact h.table x); rwa [h.seq] at this,
   k.warps.trans h.warps, fun id x => k.team id (h.team id x)⟩

/-- A fold of steps that each keep the split in its place. -/
theorem Follows.foldl {α : Type} (f : Ctx → α → Ctx) (hf : ∀ c a, Follows c (f c a)) (l : List α) (c : Ctx) :
    Follows c (l.foldl f c) := by
  induction l generalizing c with
  | nil => exact .refl c
  | cons a r ih => exact (hf c a).trans (ih (f c a))

theorem Follows.facts {s : State} {c c' : Ctx} (h : Issuing s c) (k : Follows c c') :
    (c'.s.team? c'.t.id).isSome ∧ c'.wi < c'.t.warps.length ∧ (findSplit c'.w.table c'.p.seq).isSome := by
  obtain ⟨h1, h2, h3⟩ := h.facts
  exact ⟨by rw [k.id]; exact k.team _ h1, by rw [k.wi, k.warps]; exact h2, by rw [k.seq]; exact k.table h3⟩

/-- An instruction whose meaning is issue over a body that ends in done. -/
theorem completes_of {s : State} {roles : Roles} {c c' : Ctx} {i : Instr} {body : Ctx → Res} (h : Issues s roles c)
    (he : exec i s = issue s roles body) (hb : body c = .done c') (k : Follows c c') : Completes i s c' (c.p.pc + 4) := by
  obtain ⟨h1, h2, h3⟩ := k.facts h.1
  rw [← k.pc]
  exact completes_done h i body he hb h1 h2 h3

/-- An instruction whose meaning is issue over a body that ends in at_. -/
theorem completes_at {s : State} {roles : Roles} {c c' : Ctx} {i : Instr} {body : Ctx → Res} {npc : DWord} (h : Issues s roles c)
    (he : exec i s = issue s roles body) (hb : body c = .at_ { c' with p := { c'.p with pc := npc } }) (k : Follows c c') :
    Completes i s { c' with p := { c'.p with pc := npc } } npc := by
  obtain ⟨h1, h2, h3⟩ := k.facts h.1
  exact ⟨_, by rw [he, issue_of h, hb], after_at c { c' with p := { c'.p with pc := npc } } h1 h2 h3⟩

/-- An instruction whose meaning is issue over a body that ends in a trap. -/
theorem traps_of {s : State} {roles : Roles} {c : Ctx} {i : Instr} {body : Ctx → Res} {x : TrapInfo} (h : Issues s roles c)
    (he : exec i s = issue s roles body) (hb : body c = .trap x) : Traps i s c x := by
  rw [Traps, he, issue_of h, hb]; rfl

/-! ## Operations on a context -/

@[simp] theorem updCore_team? (s : State) (k : Nat) (f : Core → Core) (id : Nat) : (s.updCore k f).team? id = s.team? id := rfl
@[simp] theorem updCluster_team? (s : State) (k : Nat) (f : Cluster → Cluster) (id : Nat) : (s.updCluster k f).team? id = s.team? id := rfl
@[simp] theorem updDie_team? (s : State) (f : Die → Die) (id : Nat) : (s.updDie f).team? id = s.team? id := rfl
@[simp] theorem updPkg_team? (s : State) (f : Package → Package) (id : Nat) : (s.updPkg f).team? id = s.team? id := rfl
@[simp] theorem updFab_team? (s : State) (f : Fabric → Fabric) (id : Nat) : (s.updFab f).team? id = s.team? id := rfl

theorem foldl_team? {α : Type} (f : State → α → State) (hf : ∀ s a id, (f s a).team? id = s.team? id) (l : List α) (s : State) (id : Nat) :
    (l.foldl f s).team? id = s.team? id := by
  induction l generalizing s with
  | nil => rfl
  | cons a r ih => rw [List.foldl_cons, ih, hf]

@[simp] theorem freePoison_team? (s : State) (k : Nat) (l : QLane) (id : Nat) : (freePoison s k l).team? id = s.team? id := by
  unfold freePoison; split <;> rfl

@[simp] theorem freeEntryPoison_team? (s : State) (k : Nat) (e : QEntry) (id : Nat) : (freeEntryPoison s k e).team? id = s.team? id :=
  foldl_team? (fun s l => freePoison s k l) (fun s l id => freePoison_team? s k l id) _ _ _

@[simp] theorem passes_warps (t : Team) (e : QEntry) : (t.passes e).warps = t.warps := by unfold Team.passes; split <;> rfl

@[simp] theorem passes_id (t : Team) (e : QEntry) : (t.passes e).id = t.id := by unfold Team.passes; split <;> rfl

/-- A pop keeps the split in its place and its warp as it is. -/
theorem popHead_follows (c : Ctx) (n : Nat) (act : LaneMask) : Follows c (c.popHead n act) := by
  unfold Ctx.popHead
  split
  · exact .refl c
  · exact ⟨by simp; rfl, rfl, rfl, rfl, fun h => h, by simp; rfl, fun id h => by simpa using h⟩

theorem popHead_same (c : Ctx) (n : Nat) (act : LaneMask) : (c.popHead n act).w = c.w ∧ (c.popHead n act).p = c.p := by
  unfold Ctx.popHead
  split <;> exact ⟨rfl, rfl⟩

theorem popHeads_same (act : LaneMask) (qs : List Nat) (c : Ctx) :
    (qs.foldl (fun c q => c.popHead q act) c).w = c.w ∧ (qs.foldl (fun c q => c.popHead q act) c).p = c.p := by
  induction qs generalizing c with
  | nil => exact ⟨rfl, rfl⟩
  | cons q r ih =>
    have := ih (c.popHead q act)
    rwa [(popHead_same c q act).1, (popHead_same c q act).2] at this

/-- Reading operands keeps the split in its place, and its warp and the split's record as they are. -/
theorem readOps_follows {c c' : Ctx} {act : LaneMask} {ops : List Opnd} {vs : List (Nat → DWord)}
    (h : readOps c act ops = .got c' vs) : Follows c c' ∧ c'.w = c.w ∧ c'.p = c.p := by
  unfold readOps at h
  simp only at h
  split at h
  · cases h; exact ⟨.refl c, rfl, rfl⟩
  · split at h
    · cases h
    · split at h
      · cases h
      · cases h
      · cases h
      · split at h
        · cases h
        cases h
        refine ⟨Follows.foldl _ (fun c q => popHead_follows c q act) _ _, ?_⟩
        exact popHeads_same act _ c

/-- A change of the warp that keeps its split table keeps the split in its place. -/
theorem Follows.warp {c c' : Ctx} (h : Follows c c') (w : Warp) (hw : w.table = c'.w.table) : Follows c { c' with w := w } :=
  h.trans ⟨rfl, rfl, rfl, rfl, fun x => by rw [hw]; exact x, rfl, fun _ x => x⟩

theorem setV_table (w : Warp) (r : Nat) (m : LaneMask) (f : Nat → Word) : (w.setV r m f).table = w.table := rfl
theorem setV64_table (w : Warp) (r : Nat) (m : LaneMask) (f : Nat → DWord) : (w.setV64 r m f).table = w.table := rfl
theorem setP_table (w : Warp) (r : Nat) (m : LaneMask) (f : Nat → Bool) : (w.setP r m f).table = w.table := by
  unfold Warp.setP; split <;> rfl
theorem bind_table (w : Warp) (f : Option Nat) : (w.bind f).table = w.table := by unfold Warp.bind; split <;> rfl

theorem setD_follows (c : Ctx) (d : Nat) (wide : Bool) (m : LaneMask) (f : Nat → DWord) : Follows c (c.setD d wide m f) := by
  unfold Ctx.setD
  exact (Follows.refl c).warp _ (by split <;> rfl)

/-- A change of the team that keeps its number and its warps, and of the machine that keeps its teams. -/
theorem Follows.team' {c c' : Ctx} (h : Follows c c') (t : Team) (hid : t.id = c'.t.id) (hw : t.warps.length = c'.t.warps.length) :
    Follows c { c' with t := t } :=
  h.trans ⟨hid, rfl, rfl, rfl, fun x => x, hw, fun _ x => x⟩

theorem Follows.state {c c' : Ctx} (h : Follows c c') (s : State) (hs : ∀ id, (c'.s.team? id).isSome → (s.team? id).isSome) :
    Follows c { c' with s := s } :=
  h.trans ⟨rfl, rfl, rfl, rfl, fun x => x, rfl, hs⟩

/-! ## The forms -/

theorem opsAll {c : Ctx} {ops : List Opnd} (h : ∀ o ∈ ops, o.ok c = true) : ops.all (Opnd.ok c) = true := List.all_eq_true.mpr h

/-- The lane instructions: when D and the operands may be named and the operands have been read, D takes the results. -/
theorem laneForm_completes {s : State} {roles : Roles} {c c' : Ctx} {i : Instr} {g : BitVec 4} {d : BitVec 6} {wide : Bool}
    {ops : List Opnd} {vs : List (Nat → DWord)} (f : Ctx → Nat → List (Nat → DWord) → DWord)
    (he : exec i s = laneForm s roles g d wide ops f) (h : Reads s roles c g ops c' vs) (hd : destOk c d.toNat wide = true) :
    Completes i s (c'.setD d.toNat wide (c.act g) (fun L => f c L vs)) (c.p.pc + 4) := by
  obtain ⟨h, ho, hr⟩ := h
  refine completes_of h he ?_ ((readOps_follows hr).1.trans (setD_follows ..))
  simp [orIllopnd, hd, opsAll ho, hr]

/-- The lane instructions whose D or operands may not be named take ILLOPND. -/
theorem laneForm_traps {s : State} {roles : Roles} {c : Ctx} {i : Instr} {g : BitVec 4} {d : BitVec 6} {wide : Bool}
    {ops : List Opnd} (f : Ctx → Nat → List (Nat → DWord) → DWord)
    (he : exec i s = laneForm s roles g d wide ops f) (h : Issues s roles c)
    (hbad : destOk c d.toNat wide = false ∨ ∃ o ∈ ops, o.ok c = false) : Traps i s c (plain causeILLOPND) := by
  refine traps_of h he ?_
  have : (destOk c d.toNat wide && ops.all (Opnd.ok c)) = false := by
    rcases hbad with h | ⟨o, ho, hf⟩
    · simp [h]
    · rw [Bool.and_eq_false_iff]; right
      rw [List.all_eq_false]
      exact ⟨o, ho, by simp [hf]⟩
  simp only [orIllopnd, this]
  rfl

/-- Format A over two operands of one class. -/
theorem laneAB_completes {s : State} {roles : Roles} {c c' : Ctx} {i : Instr} {f : FmtA} {cls : OpClass} {vs : List (Nat → DWord)}
    {op : Word → Word → Word} (he : exec i s = laneAB s roles cls f op)
    (h : Reads s roles c f.g [op32 cls f.a, op32 cls f.b] c' vs) (hd : destOk c f.d.toNat false = true) :
    Completes i s (c'.setD f.d.toNat false (c.act f.g)
      (fun L => (op (loWord (val vs 0 L)) (loWord (val vs 1 L))).setWidth 64)) (c.p.pc + 4) :=
  laneForm_completes (fun _ L vs => (op (loWord (val vs 0 L)) (loWord (val vs 1 L))).setWidth 64) he h hd

/-- Format A that also reads D. -/
theorem laneABD_completes {s : State} {roles : Roles} {c c' : Ctx} {i : Instr} {f : FmtA} {cls : OpClass} {vs : List (Nat → DWord)}
    {op : Word → Word → Word → Word} (he : exec i s = laneABD s roles cls f op)
    (h : Reads s roles c f.g [op32 cls f.a, op32 cls f.b] c' vs) (hd : destOk c f.d.toNat false = true) :
    Completes i s (c'.setD f.d.toNat false (c.act f.g)
      (fun L => (op (loWord (val vs 0 L)) (loWord (val vs 1 L)) (c.w.v f.d.toNat L)).setWidth 64)) (c.p.pc + 4) :=
  laneForm_completes (fun c L vs => (op (loWord (val vs 0 L)) (loWord (val vs 1 L)) (c.w.v f.d.toNat L)).setWidth 64) he h hd

/-- The unary form. -/
theorem laneA_completes {s : State} {roles : Roles} {c c' : Ctx} {i : Instr} {f : FmtU} {cls : OpClass} {vs : List (Nat → DWord)}
    {op : Word → Word} (he : exec i s = laneA s roles cls f op)
    (h : Reads s roles c f.g [op32 cls f.a] c' vs) (hd : destOk c f.d.toNat false = true) :
    Completes i s (c'.setD f.d.toNat false (c.act f.g) (fun L => (op (loWord (val vs 0 L))).setWidth 64)) (c.p.pc + 4) :=
  laneForm_completes (fun _ L vs => (op (loWord (val vs 0 L))).setWidth 64) he h hd

/-- The instructions that write a predicate. -/
theorem predForm_completes {s : State} {roles : Roles} {c c' : Ctx} {i : Instr} {g : BitVec 4} {pd : BitVec 3}
    {ops : List Opnd} {vs : List (Nat → DWord)} (f : Ctx → Nat → List (Nat → DWord) → Bool)
    (he : exec i s = predForm s roles g pd ops f) (h : Reads s roles c g ops c' vs) :
    Completes i s (c'.withW (c'.w.setP pd.toNat (c.act g) (fun L => f c L vs))) (c.p.pc + 4) := by
  obtain ⟨h, ho, hr⟩ := h
  refine completes_of h he ?_ ((readOps_follows hr).1.warp _ (setP_table ..))
  simp [orIllopnd, opsAll ho, hr, Ctx.withW]

/-- The compares. -/
theorem compareForm_completes {s : State} {roles : Roles} {c c' : Ctx} {i : Instr} {f : FmtCmp} {wide condOk : Bool} {cls : OpClass}
    {vs : List (Nat → DWord)} (rel : DWord → DWord → Bool) (he : exec i s = compareForm s roles f wide cls condOk rel)
    (hk : condOk = true) (h : Reads s roles c f.g [{ spec := f.a, wide := wide, cls := cls }] c' vs)
    (hd : destOk c f.src.toNat wide = true) :
    Completes i s (c'.withW (c'.w.setP f.pd.toNat (c.act f.g) (fun L =>
      rel (if wide then c.w.v64 f.src.toNat L else (c.w.v f.src.toNat L).setWidth 64) (val vs 0 L)))) (c.p.pc + 4) := by
  obtain ⟨h, ho, hr⟩ := h
  refine completes_of h he ?_ ((readOps_follows hr).1.warp _ (setP_table ..))
  have := ho _ (List.mem_singleton.mpr rfl)
  simp [orIllop, orIllopnd, hk, hd, this, hr, Ctx.withW]

/-- An instruction that reads its operands for the active lanes and then completes with some changed context. -/
theorem reads_completes {s : State} {roles : Roles} {c c' c'' : Ctx} {i : Instr} {g : BitVec 4} {ops : List Opnd}
    {vs : List (Nat → DWord)} {body : Ctx → Res} (he : exec i s = issue s roles body) (h : Reads s roles c g ops c' vs)
    (hb : body c = .done c'') (k : Follows c' c'') : Completes i s c'' (c.p.pc + 4) :=
  completes_of h.1 he hb ((readOps_follows h.2.2).1.trans k)

end Sys2Proof.Machine
end

