-- ==== Sys2Proof/Laws/Lanes.lean ====
section
/-! SUPPORT. Lane masks, lists without repeats, and the targets of a transfer (spec/02 R62). -/

namespace Sys2Proof.Machine

theorem maskFold_bit (p : Nat → Bool) (l : List Nat) (m : LaneMask) (i : Nat) (hl : ∀ L ∈ l, L < 32) :
    (l.foldl (fun m L => if p L then m ||| BitVec.ofNat 32 (2 ^ L) else m) m).getLsbD i = (m.getLsbD i || (l.contains i && p i)) := by
  induction l generalizing m with
  | nil => simp
  | cons a r ih =>
    have ha : a < 32 := hl a (by simp)
    rw [List.foldl_cons, ih _ (fun L hL => hl L (by simp [hL]))]
    have hbit : (BitVec.ofNat 32 (2 ^ a)).getLsbD i = decide (i = a) := by
      rw [BitVec.getLsbD_ofNat, Nat.testBit_two_pow]
      by_cases h : a = i
      · subst h; simp [ha]
      · have : ¬ i = a := fun x => h x.symm
        simp [h, this]
    by_cases hp : p a = true
    · rw [if_pos hp, BitVec.getLsbD_or, hbit]
      by_cases h : i = a
      · subst h; simp [hp]
      · simp [h]
    · rw [if_neg hp]
      by_cases h : i = a
      · subst h; simp [hp]
      · simp [h]

/-- Bit i of a mask built from a function of the lane. -/
theorem maskOf_bit (p : Nat → Bool) (i : Nat) : inMask (maskOf p) i = (decide (i < 32) && p i) := by
  unfold inMask maskOf
  rw [maskFold_bit p laneList 0 i (by intro L h; simpa [laneList] using h)]
  have h0 : (0 : LaneMask).getLsbD i = false := by simp
  rw [h0, Bool.false_or]
  congr 1
  rw [Bool.eq_iff_iff]
  simp [laneList]

/-- Two masks with the same bits in lanes 0 to 31 are the same. -/
theorem mask_ext {a b : LaneMask} (h : ∀ i, i < 32 → inMask a i = inMask b i) : a = b :=
  BitVec.eq_of_getLsbD_eq h

theorem maskOf_inMask (m : LaneMask) : maskOf (fun L => inMask m L) = m := by
  apply mask_ext
  intro i hi
  rw [maskOf_bit]; simp [hi]

/-- A mask that is not empty has a lane. -/
theorem exists_lane {m : LaneMask} (h : m ≠ 0) : ∃ L, L < 32 ∧ inMask m L = true := by
  apply Classical.byContradiction
  intro hc
  apply h
  apply mask_ext
  intro i hi
  have : ¬ (inMask m i = true) := fun x => hc ⟨i, hi, x⟩
  have h0 : inMask (0 : LaneMask) i = false := by simp [inMask]
  rw [h0]; simpa using this

theorem mem_lanes {m : LaneMask} {L : Nat} : L ∈ laneList.filter (inMask m) ↔ L < 32 ∧ inMask m L = true := by
  simp [laneList]

theorem dedup_fold (l acc : List Nat) (x : Nat) :
    x ∈ l.foldl (fun acc x => if acc.contains x then acc else acc ++ [x]) acc ↔ x ∈ acc ∨ x ∈ l := by
  induction l generalizing acc with
  | nil => simp
  | cons a r ih =>
    rw [List.foldl_cons, ih]
    by_cases h : acc.contains a = true
    · have ha : a ∈ acc := by simpa using h
      rw [if_pos h]
      constructor
      · rintro (h' | h') <;> simp [h']
      · rintro (h' | h')
        · exact .inl h'
        · rcases List.mem_cons.mp h' with rfl | h'
          · exact .inl ha
          · exact .inr h'
    · rw [if_neg h]; simp [or_assoc]

theorem mem_dedup (l : List Nat) (x : Nat) : x ∈ dedup l ↔ x ∈ l := by
  unfold dedup; rw [dedup_fold]; simp

theorem nodup_dedup (l : List Nat) : (dedup l).Nodup := by
  unfold dedup
  suffices h : ∀ acc : List Nat, acc.Nodup → (l.foldl (fun acc x => if acc.contains x then acc else acc ++ [x]) acc).Nodup from h [] (by simp)
  induction l with
  | nil => intro acc h; exact h
  | cons a r ih =>
    intro acc h
    rw [List.foldl_cons]
    apply ih
    split
    · exact h
    · rename_i hc
      rw [List.nodup_append]
      refine ⟨h, by simp, ?_⟩
      intro x hx y hy
      simp only [List.mem_singleton] at hy
      subst hy
      rintro rfl
      exact hc (by simpa using hx)

/-- Insertion puts an element where the order has it. -/
theorem insertSorted_at {α : Type} {le : α → α → Bool} {x : α} {p q : List α} (hp : ∀ a ∈ p, le x a = false) (hq : ∀ b ∈ q, le x b = true) :
    insertSorted le x (p ++ q) = p ++ x :: q := by
  induction p with
  | nil =>
    cases q with
    | nil => rfl
    | cons y r => simp [insertSorted, hq y]
  | cons a r ih =>
    have ha : le x a = false := hp a (by simp)
    simp [insertSorted, ha, ih (fun b hb => hp b (by simp [hb]))]

/-- A list in strict order is what sorting any rearrangement of it gives. -/
theorem sortBy_eq {α : Type} {le : α → α → Bool} {l m : List α} (h : l.Perm m)
    (hm : m.Pairwise (fun x y => le x y = true ∧ le y x = false)) : sortBy le l = m := by
  induction l generalizing m with
  | nil => rw [List.nil_perm.mp h]; rfl
  | cons x r ih =>
    obtain ⟨p, q, rfl⟩ := List.append_of_mem (h.subset (List.mem_cons_self))
    have hr : r.Perm (p ++ q) := (h.trans List.perm_middle).cons_inv
    obtain ⟨h1, h2, h3⟩ := List.pairwise_append.mp hm
    obtain ⟨h4, h5⟩ := List.pairwise_cons.mp h2
    have hs : (p ++ q).Pairwise (fun x y => le x y = true ∧ le y x = false) :=
      List.pairwise_append.mpr ⟨h1, h5, fun a ha b hb => h3 a ha b (by simp [hb])⟩
    show insertSorted le x (sortBy le r) = _
    rw [ih hr hs]
    exact insertSorted_at (fun a ha => (h3 a ha x (by simp)).2) (fun b hb => (h4 b hb).1)

/-- The targets of a transfer are the list that rises by address and gives each address the lanes that continue there. -/
theorem targetsOf_eq {mask : LaneMask} {next : Nat → DWord} {ts : List Target} (hs : ts.Pairwise (fun x y => x.pc.toNat < y.pc.toNat))
    (hm : ∀ t ∈ ts, t.mask ≠ 0 ∧ ∀ L, L < 32 → (inMask t.mask L = true ↔ inMask mask L = true ∧ next L = t.pc))
    (hall : ∀ L, L < 32 → inMask mask L = true → ∃ t ∈ ts, t.pc = next L) : targetsOf mask next = ts := by
  have hp : (ts.map (fun t => t.pc.toNat)).Pairwise (fun x y => x < y) := by
    rw [List.pairwise_map]; exact hs
  have hperm : (dedup ((laneList.filter (inMask mask)).map (fun L => (next L).toNat))).Perm (ts.map (fun t => t.pc.toNat)) := by
    rw [List.perm_ext_iff_of_nodup (nodup_dedup _) (hp.imp (fun h => Nat.ne_of_lt h))]
    intro a
    rw [mem_dedup]
    simp only [List.mem_map]
    constructor
    · rintro ⟨L, hL, rfl⟩
      obtain ⟨h1, h2⟩ := mem_lanes.mp hL
      obtain ⟨t, ht, e⟩ := hall L h1 h2
      exact ⟨t, ht, by rw [e]⟩
    · rintro ⟨t, ht, rfl⟩
      obtain ⟨hne, hb⟩ := hm t ht
      obtain ⟨L, h1, h2⟩ := exists_lane hne
      obtain ⟨h3, h4⟩ := (hb L h1).mp h2
      exact ⟨L, mem_lanes.mpr ⟨h1, h3⟩, by rw [h4]⟩
  have hsort := sortBy_eq (le := fun a b : Nat => decide (a ≤ b)) hperm (hp.imp (fun h => ⟨by simpa using Nat.le_of_lt h, by simpa using h⟩))
  simp only [targetsOf, hsort, List.map_map]
  conv => rhs; rw [← List.map_id ts]
  apply List.map_congr_left
  intro t ht
  obtain ⟨-, hb⟩ := hm t ht
  have hmask : maskOf (fun L => inMask mask L && (next L).toNat == t.pc.toNat) = t.mask := by
    apply mask_ext
    intro i hi
    rw [maskOf_bit, Bool.eq_iff_iff]
    simp only [hi, decide_true, Bool.true_and, Bool.and_eq_true, beq_iff_eq]
    rw [hb i hi]
    exact ⟨fun ⟨a, b⟩ => ⟨a, BitVec.eq_of_toNat_eq b⟩, fun ⟨a, b⟩ => ⟨a, by rw [b]⟩⟩
  simp only [Function.comp, hmask, BitVec.ofNat_toNat, BitVec.setWidth_eq, id]

/-- A split whose lanes all continue at one PC has one target. -/
theorem targetsOf_one {m : LaneMask} {next : Nat → DWord} {pc : DWord} (hm : m ≠ 0)
    (h : ∀ L, L < 32 → inMask m L = true → next L = pc) : targetsOf m next = [{ pc := pc, mask := m }] :=
  targetsOf_eq (List.pairwise_singleton ..)
    (fun t ht => by rw [List.mem_singleton.mp ht]; exact ⟨hm, fun L hL => ⟨fun hb => ⟨hb, h L hL hb⟩, fun hb => hb.1⟩⟩)
    (fun L hL hb => ⟨_, List.mem_singleton.mpr rfl, (h L hL hb).symm⟩)

end Sys2Proof.Machine
end

