-- ==== Sys2Proof/Laws/Transfer.lean ====
section
/-! SUPPORT. What transfer does when every lane continues at one PC (spec/02 R62). -/

namespace Sys2Proof.Machine

/-- A split whose lanes all continue at pc goes there whole. -/
theorem transfer_one {c : Ctx} {next : Nat → DWord} {pc : DWord} (hm : c.p.mask ≠ 0)
    (h : ∀ L, L < 32 → inMask c.p.mask L = true → next L = pc) : transfer c next = .at_ (goes c pc) := by
  unfold transfer
  rw [targetsOf_one hm h]
  simp only [headerAt, goes]
  by_cases h : pc = c.p.pc + 4
  · simp only [h, if_true]
  · simp only [h, if_false]

/-- An instruction that sends its split whole to pc, with c1 the context that holds its other effects. -/
theorem goes_completes {s : State} {roles : Roles} {c c1 : Ctx} {i : Instr} {body : Ctx → Res} {pc : DWord} (h : Issues s roles c)
    (he : exec i s = issue s roles body) (k : Follows c c1) (hb : body c = .at_ (goes c1 pc)) : Completes i s (goes c1 pc) pc := by
  obtain ⟨h1, h2, h3⟩ := k.facts h.1
  exact ⟨_, by rw [he, issue_of h, hb], after_at c (goes c1 pc) h1 h2 h3⟩

/-- A split that goes to the next word stands as one that completes. -/
theorem goes_next (c : Ctx) : goes c (c.p.pc + 4) = { c with p := { c.p with pc := c.p.pc + 4 } } := by
  simp [goes]

/-- Where the split of the context stands does not matter to After, which says it. -/
theorem after_pc (c : Ctx) (npc : DWord) (t : State) : After { c with p := { c.p with pc := npc } } npc t ↔ After c npc t :=
  ⟨fun ⟨a, b, h⟩ => ⟨a, b, h⟩, fun ⟨a, b, h⟩ => ⟨a, b, h⟩⟩

/-- The active lanes are lanes of the split (spec/01 R9). -/
theorem act_sub (c : Ctx) (g : BitVec 4) (L : Nat) (h : inMask (c.act g) L = true) : inMask c.p.mask L = true := by
  unfold Ctx.act inMask at *
  simp at h
  exact h.2

end Sys2Proof.Machine
end

