-- ==== Sys2Proof/Laws/Diverge.lean ====
section
/-! SUPPORT. The split that R64 spills in a divergent transfer, and the ranks of age of a rebase (spec/02 R59, R64). -/

namespace Sys2Proof.Machine

/-! ## Choosing -/

/-- The element that comes before every other one is the first. -/
theorem firstBy_eq {α : Type} {le : α → α → Bool} {l : List α} {v : α} (hv : v ∈ l)
    (h : ∀ x ∈ l, x ≠ v → le v x = true ∧ le x v = false) : firstBy le l = some v := by
  have mem : ∀ {l : List α} {y : α}, firstBy le l = some y → y ∈ l := by
    intro l
    induction l with
    | nil => intro y h; cases h
    | cons a r ih =>
      intro y h
      simp only [firstBy] at h
      split at h
      · cases h; simp
      · rename_i z hz
        cases h
        split
        · simp
        · exact List.mem_cons_of_mem _ (ih hz)
  have some_of : ∀ {l : List α}, l ≠ [] → ∃ y, firstBy le l = some y := by
    intro l hl
    cases l with
    | nil => exact absurd rfl hl
    | cons a r =>
      simp only [firstBy]
      split <;> exact ⟨_, rfl⟩
  induction l with
  | nil => cases hv
  | cons a r ih =>
    simp only [firstBy]
    by_cases hr : v ∈ r
    · rw [ih hr (fun x hx => h x (List.mem_cons_of_mem _ hx))]
      by_cases ha : a = v
      · simp [ha]
      · simp [(h a (by simp) ha).2]
    · have ha : v = a := by rcases List.mem_cons.mp hv with h | h; exact h; exact absurd h hr
      subst ha
      cases hf : firstBy le r with
      | none => rfl
      | some y =>
        have hy := mem hf
        have : y ≠ v := by rintro rfl; exact hr hy
        simp [(h y (List.mem_cons_of_mem _ hy) this).1]

/-- No split is older than one that is older than it (R59). -/
theorem olderSeq_asymm {a b : BitVec 16} (h : olderSeq a b = true) : olderSeq b a = false := by
  simp only [olderSeq, decide_eq_true_eq, decide_eq_false_iff_not] at *
  have h1 := (b - a).isLt
  have : (a - b).toNat = (2 ^ 16 - (b - a).toNat) % 2 ^ 16 := by
    have : a - b = -(b - a) := by rw [BitVec.neg_sub, BitVec.sub_eq_add_neg, BitVec.add_comm]
    rw [this, BitVec.toNat_neg]
  omega

/-- The oldest split of a list. -/
theorem oldestOf_eq {l : List Split} {v : Split} (hv : v ∈ l) (h : ∀ x ∈ l, x ≠ v → olderSeq v.seq x.seq = true) : oldestOf l = some v :=
  firstBy_eq hv (fun x hx hne => ⟨h x hx hne, olderSeq_asymm (h x hx hne)⟩)

/-! ## The split that is spilled (R64) -/

/-- A list without a split in one of the three states has no victim in it. -/
theorem victimOf_none {l : List Split} (h : ∀ x ∈ l, x.st = .live) : victimOf l = none := by
  have hf : ∀ st : SplitState, st ≠ .live → l.filter (fun p => p.st == st) = [] := by
    intro st hst
    rw [List.filter_eq_nil_iff]
    intro x hx
    rw [h x hx]
    simpa using fun e => hst e.symm
  unfold victimOf
  rw [hf .parked (by decide), hf .blocked (by decide), hf .waitingMerge (by decide)]
  rfl

/-- The order in which R64 takes states, a live split never. -/
def spillRank : SplitState → Nat
  | .parked => 0
  | .blocked => 1
  | .waitingMerge => 2
  | .live => 3

/-- The split that comes before the others by state and then by age is the victim. -/
theorem victimOf_eq {l : List Split} {v : Split} (hv : v ∈ l) (hl : v.st ≠ .live)
    (h : ∀ x ∈ l, x ≠ v → spillRank v.st < spillRank x.st ∨ spillRank v.st = spillRank x.st ∧ olderSeq v.seq x.seq = true) :
    victimOf l = some v := by
  have hnone : ∀ st : SplitState, spillRank st < spillRank v.st → oldestOf (l.filter (fun p => p.st == st)) = none := by
    intro st hst
    have : l.filter (fun p => p.st == st) = [] := by
      rw [List.filter_eq_nil_iff]
      intro x hx he
      have hx' : x.st = st := by simpa using he
      by_cases e : x = v
      · rw [e] at hx'; rw [hx'] at hst; exact absurd hst (Nat.lt_irrefl _)
      · rcases h x hx e with h | h <;> rw [hx'] at h <;> omega
    rw [this]; rfl
  have hsome : oldestOf (l.filter (fun p => p.st == v.st)) = some v := by
    refine oldestOf_eq (List.mem_filter.mpr ⟨hv, by simp⟩) ?_
    intro x hx hne
    obtain ⟨hx, he⟩ := List.mem_filter.mp hx
    have he : x.st = v.st := by simpa using he
    rcases h x hx hne with h | h
    · rw [he] at h; omega
    · exact h.2
  unfold victimOf
  cases hs : v.st with
  | parked => rw [hs] at hsome; rw [hsome]
  | blocked =>
    rw [hs] at hsome hnone
    rw [hnone .parked (by decide), hsome]
  | waitingMerge =>
    rw [hs] at hsome hnone
    rw [hnone .parked (by decide), hnone .blocked (by decide), hsome]
  | live => exact absurd hs hl

/-! ## Rebase (R59) -/

/-- The splits of a warp in order of age are numbered by their places in it. -/
theorem rebaseMap_eq {l m : List Split} (h : l.Perm m) (hm : m.Pairwise (fun x y => olderSeq x.seq y.seq = true)) (q : BitVec 16) :
    mapSeq (rebaseMap l) q = match m.findIdx? (fun p => p.seq == q) with
      | some i => BitVec.ofNat 16 i
      | none => q := by
  have hs : sortBy (fun a b : Split => a.seq == b.seq || olderSeq a.seq b.seq) l = m := by
    refine sortBy_eq h (hm.imp ?_)
    intro a b hab
    have hba := olderSeq_asymm hab
    have hne : b.seq ≠ a.seq := by intro e; rw [e] at hab hba; rw [hab] at hba; cases hba
    exact ⟨by simp [hab], by simp [hba, hne]⟩
  unfold mapSeq rebaseMap
  rw [hs]
  have gen : ∀ (m : List Split) (k : Nat), (((List.range' k m.length).zip m).map (fun x => (x.2.seq, BitVec.ofNat 16 x.1))).find? (fun x => x.1 == q)
      = (m.findIdx? (fun p => p.seq == q)).map (fun i => (q, BitVec.ofNat 16 (k + i))) := by
    intro m
    induction m with
    | nil => intro k; simp
    | cons a r ih =>
      intro k
      simp only [List.length_cons, List.range'_succ, List.zip_cons_cons, List.map_cons, List.find?_cons, List.findIdx?_cons]
      by_cases e : a.seq = q
      · simp [e]
      · have : (a.seq == q) = false := by simpa using e
        simp only [this]
        rw [ih (k + 1)]
        cases r.findIdx? (fun p => p.seq == q) with
        | none => rfl
        | some i => simp [Nat.add_comm, Nat.add_left_comm]
  have := gen m 0
  rw [← List.range_eq_range'] at this
  rw [this]
  cases m.findIdx? (fun p => p.seq == q) with
  | none => rfl
  | some i => simp

end Sys2Proof.Machine
end

