-- ==== Sys2Proof/Laws/Follows.lean ====
section
/-! SUPPORT. That the operations of Machine/Access.lean, Mem.lean, QueueOps.lean and RingOps.lean keep the issuing split in its place. -/

namespace Sys2Proof.Machine

/-- The same place, said of the parts. -/
theorem Follows.of {c c' : Ctx} (ht : c'.t = c.t) (hwi : c'.wi = c.wi) (hp : c'.p = c.p) (hw : c'.w.table = c.w.table)
    (hs : ∀ id, c'.s.team? id = c.s.team? id) : Follows c c' :=
  ⟨by rw [ht], hwi, by rw [hp], by rw [hp], fun h => by rw [hw]; exact h, by rw [ht], fun id h => by rw [hs]; exact h⟩

theorem Follows.folds {α : Type} {a c : Ctx} (f : Ctx → α → Ctx) (hf : ∀ c x, Follows c (f c x)) (l : List α) (h : Follows a c) :
    Follows a (l.foldl f c) := h.trans (Follows.foldl f hf l c)

theorem dropHead_follows (c : Ctx) (n k : Nat) : Follows c (c.dropHead n k) := by
  induction k generalizing c with
  | zero => exact .refl c
  | succ k ih =>
    unfold Ctx.dropHead
    split
    · exact .refl c
    · refine Follows.trans ?_ (ih _)
      exact ⟨rfl, rfl, rfl, rfl, fun h => h, rfl, fun id h => by simpa using h⟩

theorem setQueue_follows (c : Ctx) (q : Queue) : Follows c { c with t := c.t.setQueue q } :=
  (Follows.refl c).team' _ rfl rfl

theorem scrStore_follows (c : Ctx) (lane : Nat) (ws : List (Nat × Byte × Byte)) : Follows c (c.scrStore lane ws) :=
  (Follows.refl c).team' _ rfl rfl

theorem scrFence_follows (c : Ctx) (act : LaneMask) (g : Nat → Bool) : Follows c (c.scrFence act g) :=
  (Follows.refl c).team' _ rfl rfl

theorem clearSlotPoison_follows (c : Ctx) (rs : List (Nat × Word × Nat × Nat)) : Follows c (clearSlotPoison c rs) :=
  (Follows.refl c).state _ (fun _ h => h)

theorem setGranules_follows (c : Ctx) (gs : List Nat) (full : Bool) : Follows c { c with t := c.t.setGranules gs full } :=
  (Follows.refl c).team' _ rfl rfl

theorem noteTlb_team? (s : State) (a : Agent) (es : List TlbEntry) (id : Nat) : (Machine.noteTlb s a es).team? id = s.team? id := by
  unfold Machine.noteTlb
  split
  · rfl
  · rename_i c _
    exact foldl_team? (fun s e => (s.updCore c (fun k => { k with tlb := tlbAdd 128 k.tlb e })).updCluster (clusterOf c)
        (fun k => { k with tlb := tlbAdd 2048 k.tlb e })) (fun _ _ _ => rfl) _ _ _

theorem noteTlb_follows (c : Ctx) (es : List TlbEntry) : Follows c (c.noteTlb es) :=
  (Follows.refl c).state _ (fun id h => by rw [noteTlb_team?]; exact h)

theorem bind_follows (c : Ctx) (f : Option Nat) : Follows c { c with w := c.w.bind f } :=
  (Follows.refl c).warp _ (bind_table ..)

theorem acceptLoad_follows (c : Ctx) (n : Nat) (ws : List (Nat × Nat × Word)) : Follows c (c.acceptLoad n ws) :=
  .of rfl rfl rfl (bind_table ..) (fun _ => rfl)

theorem copyLines_follows (c : Ctx) (cache : Nat) (ls : List (Nat × List Place)) : Follows c (c.copyLines cache ls) := by
  unfold Ctx.copyLines
  refine (Follows.refl c).state _ (fun id h => ?_)
  rw [foldl_team?]
  · exact h
  · intro s x id
    refine foldl_team? _ ?_ _ _ _
    intro s p id
    split
    · split <;> rfl
    · rfl

theorem scrPut_follows (c : Ctx) (lane : Nat) (bs : List (Place × Byte)) : Follows c (c.scrPut lane bs) := by
  unfold Ctx.scrPut
  split
  · exact .refl c
  · exact scrStore_follows ..

theorem binds_table (l : List PStore) (flag : Option Nat) (w : Warp) : (l.foldl (fun w _ => w.bind flag) w).table = w.table := by
  induction l generalizing w with
  | nil => rfl
  | cons a r ih => rw [List.foldl_cons, ih, bind_table]

theorem addStores_follows (c : Ctx) (l : List PStore) (flag : Option Nat) : Follows c (c.addStores l flag) :=
  .of rfl rfl rfl (binds_table ..) (fun _ => rfl)

theorem addExchange_follows (c : Ctx) (first : Nat) (x : LaneStore) (flag : Option Nat) : Follows c (c.addExchange first x flag) := by
  unfold Ctx.addExchange
  split
  · exact .refl c
  · exact .of rfl rfl rfl (bind_table ..) (fun _ => rfl)

theorem acceptStores_follows (c : Ctx) (va : Nat → Nat) (cache scope : Nat) (xs : List LaneStore) :
    Follows c (c.acceptStores va cache scope xs) := by
  unfold Ctx.acceptStores
  simp only
  refine Follows.folds _ ?_ _ ?_
  rotate_left
  · exact ((Follows.folds _ (fun c x => addExchange_follows c _ x _) _
      (Follows.folds _ (fun c x => scrPut_follows c _ _) _ (.refl c))).trans (addStores_follows ..))
  · intro c x
    exact (addStores_follows c _ _).trans (.of rfl rfl rfl rfl (fun _ => rfl))

end Sys2Proof.Machine
end

