-- ==== Sys2Proof/Laws/Memory.lean ====
section
/-! SUPPORT. Sparse storage: what a write leaves, what a read after it gives, and that every write keeps the canonical form. -/

namespace Sys2Proof.Machine

/-! ## Cells -/

/-- Every address of the list is above k. -/
def above {α : Type} (k : Nat) (l : List (Nat × α)) : Prop := ∀ c ∈ l, k < c.1

theorem rising_cons {α : Type} {k : Nat} {v : α} {l : List (Nat × α)} : cellsRising ((k, v) :: l) = true ↔ above k l ∧ cellsRising l = true := by
  induction l generalizing k v with
  | nil => simp [cellsRising, above]
  | cons x r ih =>
    obtain ⟨b, y⟩ := x
    rw [show cellsRising ((k, v) :: (b, y) :: r) = (decide (k < b) && cellsRising ((b, y) :: r)) from rfl, Bool.and_eq_true, ih]
    constructor
    · rintro ⟨h, ha, hr⟩
      refine ⟨fun c hc => ?_, ha, hr⟩
      have h := of_decide_eq_true h
      rcases List.mem_cons.mp hc with rfl | hc
      · exact h
      · have := ha c hc; omega
    · rintro ⟨h, ha, hr⟩
      exact ⟨decide_eq_true (h _ List.mem_cons_self), ha, hr⟩

theorem cellsGet_above {α : Type} {k : Nat} {l : List (Nat × α)} (h : above k l) : cellsGet l k = none := by
  induction l with
  | nil => rfl
  | cons x r ih =>
    obtain ⟨b, y⟩ := x
    have hb : k < b := h _ List.mem_cons_self
    simp only [cellsGet, show b ≠ k by omega, if_false]
    exact ih (fun c hc => h c (List.mem_cons_of_mem _ hc))

@[simp] theorem cellsGet_set {α : Type} (l : List (Nat × α)) (k : Nat) (v : α) (j : Nat) :
    cellsGet (cellsSet l k v) j = if j = k then some v else cellsGet l j := by
  induction l with
  | nil =>
    by_cases h : j = k
    · simp [cellsSet, cellsGet, h]
    · simp [cellsSet, cellsGet, h, Ne.symm h]
  | cons x r ih =>
    obtain ⟨a, y⟩ := x
    simp only [cellsSet]
    split
    · by_cases h : j = k
      · simp [cellsGet, h]
      · simp [cellsGet, h, Ne.symm h]
    · split
      · subst a
        by_cases h : j = k
        · simp [cellsGet, h]
        · simp [cellsGet, h, Ne.symm h]
      · simp only [cellsGet, ih]
        by_cases h : j = k
        · subst h; simp [show a ≠ j by omega]
        · simp [h]

theorem cellsSet_above {α : Type} {b k : Nat} {l : List (Nat × α)} {v : α} (h : above b l) (hb : b < k) : above b (cellsSet l k v) := by
  induction l with
  | nil => intro c hc; simp [cellsSet] at hc; subst hc; exact hb
  | cons x r ih =>
    obtain ⟨a, y⟩ := x
    have ha : b < a := h _ List.mem_cons_self
    have hr : above b r := fun c hc => h c (List.mem_cons_of_mem _ hc)
    unfold cellsSet
    intro c hc
    split at hc
    · rcases List.mem_cons.mp hc with rfl | hc
      · exact hb
      · exact h c hc
    · split at hc
      · rcases List.mem_cons.mp hc with rfl | hc
        · exact hb
        · exact hr c hc
      · rcases List.mem_cons.mp hc with rfl | hc
        · exact ha
        · exact ih hr c hc

theorem cellsSet_rising {α : Type} {l : List (Nat × α)} (h : cellsRising l = true) (k : Nat) (v : α) : cellsRising (cellsSet l k v) = true := by
  induction l with
  | nil => rfl
  | cons x r ih =>
    obtain ⟨a, y⟩ := x
    obtain ⟨ha, hr⟩ := rising_cons.mp h
    unfold cellsSet
    split
    · rename_i hk
      exact rising_cons.mpr ⟨fun c hc => by
        rcases List.mem_cons.mp hc with rfl | hc
        · exact hk
        · have := ha c hc; omega, h⟩
    · split
      · rename_i hk
        subst hk
        exact rising_cons.mpr ⟨ha, hr⟩
      · exact rising_cons.mpr ⟨cellsSet_above ha (by omega), ih hr⟩

theorem cellsErase_sub {α : Type} (l : List (Nat × α)) (k : Nat) : ∀ c ∈ cellsErase l k, c ∈ l := by
  induction l with
  | nil => simp [cellsErase]
  | cons x r ih =>
    obtain ⟨a, y⟩ := x
    unfold cellsErase
    intro c hc
    split at hc
    · exact List.mem_cons_of_mem _ hc
    · rcases List.mem_cons.mp hc with rfl | hc
      · exact List.mem_cons_self
      · exact List.mem_cons_of_mem _ (ih c hc)

theorem cellsErase_rising {α : Type} {l : List (Nat × α)} (h : cellsRising l = true) (k : Nat) : cellsRising (cellsErase l k) = true := by
  induction l with
  | nil => rfl
  | cons x r ih =>
    obtain ⟨a, y⟩ := x
    obtain ⟨ha, hr⟩ := rising_cons.mp h
    unfold cellsErase
    split
    · exact hr
    · exact rising_cons.mpr ⟨fun c hc => ha c (cellsErase_sub r k c hc), ih hr⟩

theorem cellsGet_erase {α : Type} {l : List (Nat × α)} (h : cellsRising l = true) (k j : Nat) :
    cellsGet (cellsErase l k) j = if j = k then none else cellsGet l j := by
  induction l with
  | nil => simp [cellsErase, cellsGet]
  | cons x r ih =>
    obtain ⟨a, y⟩ := x
    obtain ⟨ha, hr⟩ := rising_cons.mp h
    unfold cellsErase
    split
    · rename_i hk
      subst hk
      by_cases hj : j = a
      · subst hj; simp [cellsGet_above ha]
      · simp [hj, cellsGet, Ne.symm hj]
    · rename_i hk
      simp only [cellsGet, ih hr]
      by_cases hj : j = k
      · subst hj; simp [hk]
      · simp [hj]

/-! ## Stores -/

theorem Store.wf_rising {w : Nat} {m : Store w} (h : m.wf = true) : cellsRising m.cells = true := by
  simp only [Store.wf, Bool.and_eq_true] at h
  exact h.1

@[simp] theorem Store.put_fill {w : Nat} (m : Store w) (k : Nat) (v : BitVec w) : (m.put k v).fill = m.fill := by
  unfold Store.put; split <;> rfl

theorem cellsSet_mem {α : Type} {l : List (Nat × α)} {k : Nat} {v : α} {c : Nat × α} (h : c ∈ cellsSet l k v) : c = (k, v) ∨ c ∈ l := by
  induction l with
  | nil => simp [cellsSet] at h; exact .inl h
  | cons x r ih =>
    obtain ⟨a, y⟩ := x
    unfold cellsSet at h
    split at h
    · exact List.mem_cons.mp h
    · split at h
      · rcases List.mem_cons.mp h with h | h
        · exact .inl h
        · exact .inr (List.mem_cons_of_mem _ h)
      · rcases List.mem_cons.mp h with h | h
        · exact .inr (h ▸ List.mem_cons_self)
        · rcases ih h with h | h
          · exact .inl h
          · exact .inr (List.mem_cons_of_mem _ h)

/-- A write keeps the canonical form. -/
theorem Store.put_wf {w : Nat} {m : Store w} (h : m.wf = true) (k : Nat) (v : BitVec w) : (m.put k v).wf = true := by
  obtain ⟨cells, fill⟩ := m
  have hr := Store.wf_rising h
  cases fill with
  | free t =>
    simp only [Store.put, Store.wf, Bool.and_true]
    exact cellsSet_rising hr k v
  | zero =>
    simp only [Store.wf, Bool.and_eq_true, List.all_eq_true] at h
    simp only [Store.put, Store.wf, Bool.and_eq_true, List.all_eq_true]
    split
    · exact ⟨cellsErase_rising h.1 k, fun c hc => h.2 c (cellsErase_sub cells k c hc)⟩
    · rename_i hv
      refine ⟨cellsSet_rising h.1 k v, fun c hc => ?_⟩
      rcases cellsSet_mem hc with rfl | hc
      · simpa using hv
      · exact h.2 c hc

/-- What a write reads back as, at its address and at every other. -/
theorem Store.get_put {w : Nat} {m : Store w} (h : m.wf = true) (k : Nat) (v : BitVec w) (j : Nat) :
    (m.put k v).get j = if j = k then v else m.get j := by
  obtain ⟨cells, fill⟩ := m
  have hr := Store.wf_rising h
  cases fill with
  | free t =>
    simp only [Store.put, Store.get, cellsGet_set]
    by_cases hj : j = k <;> simp [hj]
  | zero =>
    simp only [Store.put, Store.get]
    by_cases hv : v = 0
    · simp only [hv, if_true, cellsGet_erase hr]
      by_cases hj : j = k <;> simp [hj, Fill.value]
    · simp only [hv, if_false, cellsGet_set]
      by_cases hj : j = k <;> simp [hj]

/-- The canonical form of a memory is kept by a run of bytes. -/
theorem Store.write_wf {w : Nat} {m : Store w} (h : m.wf = true) (k : Nat) (vs : List (BitVec w)) : (m.write k vs).wf = true := by
  induction vs generalizing m k with
  | nil => exact h
  | cons v vs ih => exact ih (Store.put_wf h k v) (k + 1)

/-! ## Where memory changes -/

/-- A list of writes keeps the canonical form. -/
theorem Store.puts_wf {w : Nat} {m : Store w} (h : m.wf = true) (l : List (Nat × BitVec w)) : (l.foldl (fun m x => m.put x.1 x.2) m).wf = true := by
  induction l generalizing m with
  | nil => exact h
  | cons x l ih => exact ih (Store.put_wf h x.1 x.2)

/-- A line taken under another key keeps the canonical form (R330). -/
theorem rekeyLine_wf {s : State} (h : Memory.wf s.pkg.hbm = true) (slot k pa : Nat) : Memory.wf (rekeyLine s slot k pa).pkg.hbm = true := by
  unfold rekeyLine
  split
  · exact h
  · dsimp only [State.updPkg]
    exact Store.puts_wf h _

/-- The keyed write of a byte of HBM keeps the canonical form (R330). -/
theorem writeHbm_wf {s : State} (h : Memory.wf s.pkg.hbm = true) (slot pa : Nat) (b : Byte) : Memory.wf (writeHbm s slot pa b).pkg.hbm = true := by
  unfold writeHbm
  split
  · exact h
  · exact Store.put_wf (rekeyLine_wf h slot _ pa) pa b

/-- The machine after reset: HBM lists nothing. -/
theorem reset_hbm_wf : Memory.wf State.reset.pkg.hbm = true := rfl

end Sys2Proof.Machine
end

