-- ==== Sys2Proof/Laws/Keeps.lean ====
section
/-! SUPPORT. That the shared operations keep HBM in its canonical form and the number of cores and clusters (R2, R330; notes/assumptions/4.md), and that the clock keeps the agenda. -/

namespace Sys2Proof.Machine

/-- s' has as many cores and clusters as s, and its HBM is canonical if that of s is. -/
structure Keeps (s s' : State) : Prop where
  hbm : Memory.wf s.pkg.hbm = true → Memory.wf s'.pkg.hbm = true
  cores : s'.cores.length = s.cores.length
  clusters : s'.clusters.length = s.clusters.length

theorem Keeps.refl (s : State) : Keeps s s := ⟨id, rfl, rfl⟩
theorem Keeps.trans {a b c : State} (h : Keeps a b) (g : Keeps b c) : Keeps a c :=
  ⟨g.hbm ∘ h.hbm, g.cores.trans h.cores, g.clusters.trans h.clusters⟩
/-- The same HBM, cores and clusters. -/
theorem Keeps.same {s s' : State} (h : s'.pkg.hbm = s.pkg.hbm) (hc : s'.cores.length = s.cores.length)
    (hk : s'.clusters.length = s.clusters.length) : Keeps s s' := ⟨fun w => h ▸ w, hc, hk⟩
theorem Keeps.foldl {α : Type} (f : State → α → State) (hf : ∀ s x, Keeps s (f s x)) (l : List α) (s : State) : Keeps s (l.foldl f s) := by
  induction l generalizing s with
  | nil => exact .refl s
  | cons x l ih => exact (hf s x).trans (ih _)
theorem Keeps.ite {p : Prop} [Decidable p] {s a b : State} (ha : Keeps s a) (hb : Keeps s b) : Keeps s (if p then a else b) := by
  split
  · exact ha
  · exact hb

/-! ## Updates of one part -/

theorem updPkg_keeps (s : State) (f : Package → Package) (h : ∀ p, (f p).hbm = p.hbm) : Keeps s (s.updPkg f) := .same (h _) rfl rfl
theorem updDie_keeps (s : State) (f : Die → Die) : Keeps s (s.updDie f) := .same rfl rfl rfl
theorem updFab_keeps (s : State) (f : Fabric → Fabric) : Keeps s (s.updFab f) := .same rfl rfl rfl
theorem updCore_keeps (s : State) (c : Nat) (f : Core → Core) : Keeps s (s.updCore c f) := .same rfl (updAt_length ..) rfl
theorem updCluster_keeps (s : State) (k : Nat) (f : Cluster → Cluster) : Keeps s (s.updCluster k f) := .same rfl rfl (updAt_length ..)
theorem setTeam_keeps (s : State) (t : Team) : Keeps s (s.setTeam t) := .same rfl rfl rfl
theorem updTeam_keeps (s : State) (id : Nat) (f : Team → Team) : Keeps s (s.updTeam id f) := .same rfl rfl rfl
theorem updTask_keeps (s : State) (id : Nat) (f : Task → Task) : Keeps s (s.updTask id f) := updDie_keeps s _
theorem fresh_keeps (s : State) : Keeps s s.fresh.2 := .same rfl rfl rfl
theorem updWarp_keeps (s : State) (id wi : Nat) (f : Warp → Warp) : Keeps s (updWarp s id wi f) := updTeam_keeps s id _
theorem updPort_keeps (s : State) (n : Nat) (f : Port → Port) : Keeps s (s.updPort n f) := updFab_keeps s _
theorem updGroup_keeps (s : State) (g : Nat) (f : Group → Group) : Keeps s (s.updGroup g f) := updFab_keeps s _
theorem updColl_keeps (s : State) (id : Nat) (f : Coll → Coll) : Keeps s (s.updColl id f) := updFab_keeps s _
theorem wakeIdle_keeps (s : State) : Keeps s (wakeIdle s) := updPkg_keeps s _ (fun _ => rfl)
theorem unbind_keeps (s : State) (id wi : Nat) (f : Option Nat) : Keeps s (s.unbind id wi f) := by
  unfold State.unbind
  split
  · exact .refl s
  · exact updTeam_keeps s id _

/-! ## Writes of memory -/

theorem rekeyLine_keeps (s : State) (slot k pa : Nat) : Keeps s (rekeyLine s slot k pa) := by
  refine ⟨fun h => rekeyLine_wf h slot k pa, ?_, ?_⟩ <;> (unfold rekeyLine; split; rfl; dsimp only [State.updPkg])
theorem writeHbm_keeps (s : State) (slot pa : Nat) (b : Byte) : Keeps s (writeHbm s slot pa b) := by
  refine ⟨fun h => writeHbm_wf h slot pa b, ?_, ?_⟩ <;> (unfold writeHbm; split)
  · rfl
  · exact (rekeyLine_keeps s slot _ pa).cores
  · rfl
  · exact (rekeyLine_keeps s slot _ pa).clusters
theorem keepAliases_keeps (s : State) (slot pa : Nat) : Keeps s (keepAliases s slot pa) :=
  .foldl _ (fun s _ => updDie_keeps s _) _ s
theorem writePhys_keeps (s : State) (slot pa : Nat) (b : Byte) : Keeps s (writePhys s slot pa b) := updDie_keeps s _
theorem writeUncached_keeps (s : State) (slot pa : Nat) (b : Byte) : Keeps s (writeUncached s slot pa b) :=
  ((keepAliases_keeps s slot pa).trans (updDie_keeps _ _)).trans (writeHbm_keeps _ slot pa b)
theorem writeBytes_keeps (s : State) (slot : Nat) (uncached : Bool) (bs : List (Nat × Byte)) : Keeps s (writeBytes s slot uncached bs) :=
  (Keeps.ite (.refl s) (updDie_keeps s _)).trans
    (.foldl (fun s (b : Nat × Byte) => if uncached then writeUncached s slot b.1 b.2 else writePhys s slot b.1 b.2)
      (fun s x => .ite (writeUncached_keeps s slot x.1 x.2) (writePhys_keeps s slot x.1 x.2)) bs _)
theorem writePhysNat_keeps (s : State) (slot pa n v : Nat) : Keeps s (writePhysNat s slot pa n v) := writeBytes_keeps s slot false _
theorem writeBackByte_keeps (s : State) (slot pa : Nat) : Keeps s (writeBackByte s slot pa) := by
  unfold writeBackByte
  split
  · exact .refl s
  · exact writeUncached_keeps s slot pa _
theorem writeBackLine_keeps (s : State) (tag : Nat) : Keeps s (writeBackLine s tag) :=
  .foldl (fun s (c : Nat × Byte) => writeUncached s (c.1 / 2 ^ 40) (c.1 % 2 ^ 40) c.2) (fun s c => writeUncached_keeps s _ _ c.2) _ s
theorem writeBackAll_keeps (s : State) : Keeps s (writeBackAll s) := .foldl writeBackLine writeBackLine_keeps _ s
theorem putHbm_keeps (s : State) (pa n v : Nat) : Keeps s (putHbm s pa n v) :=
  .foldl (fun s (b : Nat × Byte) => writeHbm s 0 b.1 b.2) (fun s b => writeHbm_keeps s 0 b.1 b.2) _ s
theorem touchPools_keeps (s : State) (pas : List Nat) : Keeps s (touchPools s pas) := .same rfl rfl rfl
theorem writeAgent_keeps (s : State) (slot pa n v : Nat) : Keeps s (writeAgent s slot pa n v) :=
  (writePhysNat_keeps s slot pa n v).trans (touchPools_keeps _ _)
theorem dispatcherPage_keeps (s : State) (job page : Nat) : Keeps s (dispatcherPage s job page) := .ite (.refl s) (updDie_keeps s _)
theorem writeVa64_keeps (s : State) (job va : Nat) (v : DWord) : Keeps s (writeVa64 s job va v) := by
  unfold writeVa64
  refine .ite (updDie_keeps s _) ?_
  split
  · exact writeAgent_keeps s _ _ 8 _
  · exact (dispatcherPage_keeps s job _).trans (updDie_keeps _ _)
  · exact .refl s
theorem rmw64_keeps (s : State) (slot pa : Nat) (f : DWord → DWord) : Keeps s (rmw64 s slot pa f) := writeAgent_keeps s slot pa 8 _
theorem signalVa_keeps (s : State) (job va n : Nat) : Keeps s (signalVa s job va n) := by
  unfold signalVa
  split
  · exact .refl s
  · split
    · exact rmw64_keeps s _ _ _
    · exact .refl s

/-! ## Translation and pages -/

theorem noteTlb_keeps (s : State) (a : Agent) (es : List TlbEntry) : Keeps s (Machine.noteTlb s a es) := by
  unfold Machine.noteTlb
  split
  · exact .refl s
  · exact .foldl _ (fun s e => (updCore_keeps s _ _).trans (updCluster_keeps _ _ _)) es s
theorem noteFetch_keeps (s : State) (t : Team) (va : Nat) (w : Word) (e : TlbEntry) : Keeps s (noteFetch s t va w e) :=
  (noteTlb_keeps s _ _).trans (updCore_keeps _ _ _)
theorem requestPages_keeps (s : State) (core job : Nat) (pages : List Nat) : Keeps s (requestPages s core job pages) :=
  .foldl _ (fun s _ => updCore_keeps s core _) pages s

/-! ## Tasks and teams -/

theorem writeStatus_keeps (s : State) (t : Task) (st : TaskState) (code failTeam : Nat) : Keeps s (writeStatus s t st code failTeam) :=
  (updTask_keeps s t.id _).trans (.ite (writeAgent_keeps _ 0 _ 8 _) (writeVa64_keeps _ t.job _ _))
theorem freeTiles_keeps (s : State) (t : Team) : Keeps s (freeTiles s t) := updCluster_keeps s _ _
theorem leaveCore_keeps (s : State) (id : Nat) : Keeps s (leaveCore s id) := by
  unfold leaveCore
  split
  · exact .refl s
  · exact (updCore_keeps s _ _).trans (.ite (.refl _) ((freeTiles_keeps _ _).trans (updCore_keeps _ _ _)))
theorem endTeam_keeps (s : State) (id : Nat) (st : TeamStatus) : Keeps s (endTeam s id st) :=
  (show Keeps s { s with cores := s.cores.map (dropPoisonLines id) } from .same rfl (List.length_map ..) rfl).trans
    ((updTeam_keeps _ id _).trans (leaveCore_keeps _ id))
theorem stopJob_keeps (s : State) (job : Nat) : Keeps s (stopJob s job) :=
  .ite (.refl s) ((updDie_keeps s _).trans (.foldl _ (fun s t => writeStatus_keeps s t .stopped 0 0) _ _))
theorem failTask_keeps (s : State) (id code failTeam : Nat) : Keeps s (failTask s id code failTeam) := by
  unfold failTask
  split
  · exact .refl s
  · exact .ite (.refl s) (.ite ((writeStatus_keeps s _ _ _ _).trans (stopJob_keeps _ _)) (writeStatus_keeps s _ _ _ _))
theorem terminateTeam_keeps (s : State) (t : Team) (code : BitVec 8) : Keeps s (terminateTeam s t code) :=
  (endTeam_keeps s _ _).trans (failTask_keeps _ _ _ _)
theorem killTeam_keeps (s : State) (id : Nat) : Keeps s (killTeam s id) := by
  unfold killTeam
  split
  · exact .refl s
  · exact .ite (.refl s) ((endTeam_keeps s id .killed).trans (.ite (updTask_keeps _ _ _) (failTask_keeps _ _ _ _)))
theorem opEnded_keeps (s : State) (id : Nat) : Keeps s (opEnded s id) := by
  unfold opEnded
  split
  · exact .refl s
  · exact .ite (leaveCore_keeps s id) (.refl s)
theorem finishTeam_keeps (s : State) (id : Nat) : Keeps s (finishTeam s id) := by
  unfold finishTeam
  split
  · exact .refl s
  · split
    · exact terminateTeam_keeps s _ _
    · exact (endTeam_keeps s id .finished).trans (updTask_keeps _ _ _)

/-! ## The end of an instruction -/

theorem writeHeader_keeps (s : State) (t : Team) (st : Nat) : Keeps s (writeHeader s t st) := writeBytes_keeps s 0 false _
theorem writeHalts_keeps (s : State) (t : Team) : Keeps s (writeHalts s t) :=
  .foldl (fun s w => writeHalt s t w) (fun s _ => writeBytes_keeps s 0 false _) _ s

theorem commit_keeps (c : Ctx) : Keeps c.s c.commit := setTeam_keeps _ _
theorem beginSave_keeps (s : State) (id : Nat) (why : SaveWhy) (pages : List Nat) : Keeps s (beginSave s id why pages) := by
  unfold beginSave
  dsimp only
  split
  · exact (updTeam_keeps s id _).trans (writeHeader_keeps _ _ 1)
  · exact updTeam_keeps s id _
theorem sendBack_keeps (s : State) (id : Nat) : Keeps s (sendBack s id) := by
  unfold sendBack
  split
  · exact .refl s
  · exact ((updTeam_keeps s id _).trans (writeHeader_keeps _ _ 2)).trans (leaveCore_keeps _ id)
theorem saveMates_keeps (s : State) (t : Team) (why : SaveWhy) : Keeps s (saveMates s t why) :=
  .foldl (fun s (m : Team) => if m.status = .restoring then sendBack s m.id else beginSave s m.id why [])
    (fun s m => .ite (sendBack_keeps s m.id) (beginSave_keeps s m.id _ _)) _ _
theorem switchOutTeam_keeps (s : State) (t : Team) (pages : List Nat) : Keeps s (switchOutTeam s t pages) :=
  ((requestPages_keeps s _ _ pages).trans (beginSave_keeps _ _ _ _)).trans (saveMates_keeps _ _ _)
theorem takeTrap_keeps (c : Ctx) (i : TrapInfo) (pc : DWord) : Keeps c.s (takeTrap c i pc) :=
  (commit_keeps c).trans (.ite (terminateTeam_keeps _ _ _) (.ite (setTeam_keeps _ _) (.ite (terminateTeam_keeps _ _ _) ((setTeam_keeps _ _).trans (writeHalts_keeps _ _)))))
theorem countUnit_keeps (s : State) (id wi : Nat) (q : BitVec 16) : Keeps s (countUnit s id wi q) := updTeam_keeps s id _
theorem blockUnit_keeps (c : Ctx) (blk : Nat) : Keeps c.s (blockUnit c blk) :=
  (setTeam_keeps c.s _).trans (updTeam_keeps _ _ _)

theorem finishGone_keeps (c0 : Ctx) (s : State) (q : BitVec 16) : Keeps s (finishGone c0 s q) :=
  Keeps.trans (.ite (updTeam_keeps _ _ _) (countUnit_keeps _ _ _ _)) (updTeam_keeps _ _ _)

/-- A meaning's end keeps what its parts keep: the state each outcome carries. -/
theorem finishRes_keeps (c0 : Ctx) (r : Res) (h : match r with
    | .done c | .at_ c | .trapWith c _ _ | .block c _ => Keeps c0.s c.s
    | .gone s | .left s _ | .ended s | .raw s => Keeps c0.s s
    | .trap _ | .stall | .switchOut _ => True) : Keeps c0.s (finishRes c0 r) := by
  cases r with
  | done c => exact (h.trans (commit_keeps c.advance)).trans ((countUnit_keeps _ _ _ _).trans (updTeam_keeps _ _ _))
  | at_ c => exact (h.trans (setTeam_keeps c.s _)).trans ((countUnit_keeps _ _ _ _).trans (updTeam_keeps _ _ _))
  | gone s => exact h.trans (finishGone_keeps c0 s _)
  | left s q => exact h.trans (finishGone_keeps c0 s q)
  | ended s => exact h.trans (updTeam_keeps _ _ _)
  | trap i => exact takeTrap_keeps c0 i _
  | raw s => exact h
  | trapWith c i pc =>
    show Keeps c0.s (takeTrap (if c0.t.trap.handler.isSome then c0 else c) i pc)
    split
    · exact takeTrap_keeps c0 i pc
    · exact Keeps.trans h (takeTrap_keeps c i pc)
  | block c blk => exact h.trans (blockUnit_keeps c blk)
  | stall => exact setTeam_keeps c0.s _
  | switchOut pages => exact (commit_keeps c0).trans (switchOutTeam_keeps _ _ pages)

/-! ## The clock -/

theorem countDcpl_keeps (s : State) (n core : Nat) : Keeps s (countDcpl s n core) := .ite (.refl s) (updCore_keeps s core _)
theorem cycles_keeps (s : State) (n : Nat) : Keeps s (cycles s n) :=
  .ite (.refl s) ((Keeps.foldl (fun s c => countDcpl s n c) (fun s c => countDcpl_keeps s n c) _ s).trans
    (.same rfl rfl rfl))

theorem countDcpl_agenda (s : State) (n core : Nat) : (countDcpl s n core).agenda = s.agenda := by
  unfold countDcpl
  simp only []
  split <;> rfl
theorem foldDcpl_agenda (l : List Nat) (s : State) (n : Nat) : (l.foldl (fun s c => countDcpl s n c) s).agenda = s.agenda := by
  induction l generalizing s with
  | nil => rfl
  | cons a l ih => rw [List.foldl_cons, ih, countDcpl_agenda]
/-- A cycle of the clock chooses no turn. -/
theorem cycles_agenda (s : State) (n : Nat) : (cycles s n).agenda = s.agenda := by
  unfold cycles
  split
  · rfl
  · exact foldDcpl_agenda _ _ _

end Sys2Proof.Machine
end

