-- ==== Sys2Proof/Laws/MemForms.lean ====
section
/-! SUPPORT. What the shared forms of Machine/Mem.lean, Atomics.lean and RingOps.lean do when their checks pass. -/

namespace Sys2Proof.Machine

/-- Release and acquire parts change only what happens before what (spec/07 R215). -/
theorem releases_follows (c : Ctx) (act : LaneMask) : Follows c (c.releases act) := (Follows.refl c).team' _ rfl rfl
theorem acquires_follows (c : Ctx) (act : LaneMask) : Follows c (c.acquires act) := (Follows.refl c).team' _ rfl rfl
theorem ordered_follows (c : Ctx) (order : BitVec 2) (act : LaneMask) : Follows c (c.ordered order act) := by
  unfold Ctx.ordered
  dsimp only
  split <;> split
  · exact (releases_follows c act).trans (acquires_follows ..)
  · exact acquires_follows c act
  · exact releases_follows c act
  · exact .refl c

/-- A load. -/
theorem loadForm_completes {s : State} {c : Ctx} {f : FmtM} {n : Nat} {ext : Nat → Nat} {i : Instr} {ls : List (Nat × List Place)} {es : List TlbEntry}
    (he : exec i s = loadForm s f n ext) (h : Issues s .accessOnly c) (ha : c.act f.g ≠ 0) (hs : f.scope.toNat ≤ 5) (hb : baseOk c f.a = true)
    (ho : f.order.toNat ≤ 1) (hd : dataOk c f.d.toNat n = true)
    (hc : checkLanes c (c.act f.g) f.a .data .r (if f.order = 0 then 1 else n) n = .ok ls es)
    (hp : ∀ x ∈ ls, elemL2Poisoned c.s x.2 = false) (hm : mayAccess c ls = true) (hu : unverified c f.order f.scope ls = false) :
    Completes i s ((((c.noteTlb es).copyLines f.cache.toNat ls).acceptLoad (sectorsOf ls) (ls.flatMap (fun x =>
        regWrites f.d.toNat (max 4 n) x.1 (ext (readElem (laneView c.s c.t.core c.t.id c.wi x.1) c.t x.2))))).ordered f.order (c.act f.g)) (c.p.pc + 4) := by
  refine completes_of h (he.trans rfl) (body := _) ?_
    ((((noteTlb_follows ..).trans (copyLines_follows ..)).trans (acceptLoad_follows ..)).trans (ordered_follows ..))
  have e : ls.any (fun x => elemL2Poisoned c.s x.2) = false := by
    rw [List.any_eq_false]; intro x hx; simp [hp x hx]
  simp only [orIllop, orIllopnd, ho, scopeOk, hs, decide_true, Bool.and_true, if_true, hd, hb, ha, if_false, hc, e, Bool.false_eq_true,
    hm, hu, Bool.not_true, Bool.or_self]

/-- A store. -/
theorem storeForm_completes {s : State} {c : Ctx} {f : FmtM} {n : Nat} {i : Instr} {ls : List (Nat × List Place)} {es : List TlbEntry}
    (he : exec i s = storeForm s f n) (h : Issues s .accessOnly c) (ha : c.act f.g ≠ 0) (hs : f.scope.toNat ≤ 5) (hb : baseOk c f.a = true)
    (ho : f.order = 0 ∨ (f.order = 2 ∧ releaseReady c (c.act f.g) f.scope.toNat = true)) (hd : dataOk c f.d.toNat n = true)
    (hc : checkLanes c (c.act f.g) f.a .data .w (if f.order = 0 then 1 else n) n = .ok ls es) (hm : mayAccess c ls = true) :
    Completes i s (((c.noteTlb es).acceptStores (c.ea f.a) f.cache.toNat f.scope.toNat
        (ls.map (fun x => { lane := x.1, bytes := placeBytes x.2 (dataOf c.w f.d.toNat n x.1) }))).ordered f.order (c.act f.g)) (c.p.pc + 4) := by
  refine completes_of h (he.trans rfl) (body := _) ?_ (((noteTlb_follows ..).trans (acceptStores_follows ..)).trans (ordered_follows ..))
  have e : (f.order == 0 || f.order == 2) = true := by rcases ho with h | h <;> simp [h]
  simp only [orIllop, orIllopnd, e, scopeOk, hs, decide_true, Bool.and_true, if_true, hd, hb, ha, if_false, hc, hm,
    Bool.not_true, Bool.false_eq_true]
  rcases ho with h | ⟨h, hr⟩
  · rw [if_pos h]
  · have : ¬ f.order = 0 := by rw [h]; decide
    rw [if_neg this, afterRelease, if_pos hr]

theorem touchPools_team? (s : State) (pas : List Nat) (id : Nat) (h : (s.team? id).isSome) : ((touchPools s pas).team? id).isSome := by
  unfold touchPools State.team?
  simp only
  rw [team?_map]
  · rw [Option.isSome_map]; exact h
  · intro t; split <;> rfl

theorem writePhys_team? (s : State) (k pa : Nat) (b : Byte) (id : Nat) : (writePhys s k pa b).team? id = s.team? id := rfl

theorem rekeyLine_team? (s : State) (slot k pa : Nat) (id : Nat) : (rekeyLine s slot k pa).team? id = s.team? id := by
  unfold rekeyLine
  split
  · rfl
  · dsimp only [State.updPkg, State.team?]

theorem writeHbm_team? (s : State) (k pa : Nat) (b : Byte) (id : Nat) : (writeHbm s k pa b).team? id = s.team? id := by
  unfold writeHbm
  split
  · rfl
  · exact rekeyLine_team? ..

theorem keepAliases_team? (s : State) (k pa : Nat) (id : Nat) : (keepAliases s k pa).team? id = s.team? id := by
  unfold keepAliases
  refine foldl_team? _ ?_ _ _ _
  intro s x id; rfl

theorem writeUncached_team? (s : State) (k pa : Nat) (b : Byte) (id : Nat) : (writeUncached s k pa b).team? id = s.team? id := by
  unfold writeUncached
  rw [writeHbm_team?]
  exact keepAliases_team? s k pa id

theorem clearCovered_team? (s : State) (bs : List (Nat × Byte)) (id : Nat) : (clearCovered s bs).team? id = s.team? id := by
  unfold clearCovered; split <;> rfl

theorem writeBytes_team? (s : State) (k : Nat) (u : Bool) (bs : List (Nat × Byte)) (id : Nat) : (writeBytes s k u bs).team? id = s.team? id := by
  unfold writeBytes
  simp only
  rw [foldl_team?]
  · exact clearCovered_team? ..
  · intro s b id; split
    · exact writeUncached_team? ..
    · rfl

theorem putNow_follows (c : Ctx) (lane : Nat) (bs : List (Place × Byte)) : Follows c (c.putNow lane bs) := by
  unfold Ctx.putNow
  refine Follows.folds _ ?_ _ (scrPut_follows ..)
  intro c b
  split
  · refine ⟨?_, rfl, rfl, rfl, fun h => h, ?_, ?_⟩
    · split <;> rfl
    · split <;> rfl
    · intro id h
      exact touchPools_team? _ _ _ (by rw [writeBytes_team?]; exact h)
  · exact .refl c

theorem atomicLanes_follows (k : AtomicKind) (d : Nat) (op : Nat → Nat → Nat → Nat) (l : List (Nat × List Place)) (c : Ctx)
    (acc : List (Nat × Nat × Word)) : Follows c (atomicLanes k d op c l acc).1 := by
  induction l generalizing c acc with
  | nil => exact .refl c
  | cons x r ih =>
    obtain ⟨L, ps⟩ := x
    unfold atomicLanes
    exact (putNow_follows ..).trans (ih ..)

/-- An atomic. -/
theorem atomicForm_completes {s : State} {c : Ctx} {f : FmtAt} {k : AtomicKind} {op : Nat → Nat → Nat → Nat} {i : Instr}
    {ls : List (Nat × List Place)} {es : List TlbEntry} (he : exec i s = atomicForm s f k op) (h : Issues s .accessOnly c)
    (ha : c.act f.g ≠ 0) (hs : f.scope.toNat ≤ 5) (hb : baseOk c f.a = true) (hd : atomicOk c f.d.toNat k = true)
    (hc : checkLanes c (c.act f.g) f.a .atomic .rw k.width k.width = .ok ls es) (hp : ∀ x ∈ ls, elemL2Poisoned c.s x.2 = false)
    (hw : ∀ st ∈ (c.s.core c.t.core).stores, sharesByte st.bytes (placeAddrs ls) = false)
    (hr : bitOf f.order 1 = true → releaseReady c (c.act f.g) f.scope.toNat = true)
    (hm : mayAccess c ls = true) (hu : unverified c f.order f.scope ls = false) :
    Completes i s (((atomicLanes k f.d.toNat op (c.noteTlb es) ls []).1.acceptLoad (sectorsOf ls)
      (atomicLanes k f.d.toNat op (c.noteTlb es) ls []).2).ordered f.order (c.act f.g)) (c.p.pc + 4) := by
  refine completes_of h (he.trans rfl) (body := _) ?_
    ((((noteTlb_follows ..).trans (atomicLanes_follows ..)).trans (acceptLoad_follows ..)).trans (ordered_follows ..))
  have e : ls.any (fun x => elemL2Poisoned c.s x.2) = false := by
    rw [List.any_eq_false]; intro x hx; simp [hp x hx]
  have e2 : (c.s.core c.t.core).stores.any (fun st => sharesByte st.bytes (placeAddrs ls)) = false := by
    rw [List.any_eq_false]; intro x hx; simp [hw x hx]
  simp only [orIllop, orIllopnd, scopeOk, hs, decide_true, Bool.and_true, if_true, hd, hb, ha, if_false, hc, e, e2, Bool.false_eq_true,
    hm, hu, Bool.not_true, Bool.or_self]
  by_cases ho : bitOf f.order 1 = true
  · rw [if_pos ho, afterRelease, if_pos (hr ho)]
  · rw [if_neg ho]

theorem requestPages_team? (s : State) (core job : Nat) (pages : List Nat) (id : Nat) :
    (requestPages s core job pages).team? id = s.team? id := by
  unfold requestPages
  refine foldl_team? _ ?_ _ _ _
  intro s p id; rfl

theorem addPoison_team? (s : State) (core t q l : Nat) (cause : BitVec 8) (va : DWord) (id : Nat) :
    (addPoison s core t q l cause va).1.team? id = s.team? id := by
  unfold addPoison; split <;> rfl

theorem ldqLanes_team? (c : Ctx) (q : Nat) (rs : List (Nat × LdqLane)) (ea : Nat → Nat) (id : Nat) :
    (ldqLanes c q rs ea).1.team? id = c.s.team? id := by
  unfold ldqLanes
  generalize laneList = l
  suffices h : ∀ (acc : State × List QLane), (l.foldl (fun acc L =>
      let va := BitVec.ofNat 64 (ea L)
      match rs.find? (fun x => x.1 == L) with
      | none => (acc.1, acc.2 ++ [{ QLane.empty with st := .invalid }])
      | some (_, .hit v secs) => (acc.1, acc.2 ++ [{ QLane.empty with st := .inflight, data := BitVec.ofNat 64 v, va := va, secs := secs }])
      | some (_, .miss _) => (acc.1, acc.2 ++ [{ QLane.empty with st := .pending, va := va }])
      | some (_, .poison cause) =>
        let (s, word) := addPoison acc.1 c.t.core c.t.id q L cause va
        (s, acc.2 ++ [{ QLane.empty with st := .poison, data := word, va := va }])) acc).1.team? id = acc.1.team? id from h (c.s, [])
  induction l with
  | nil => intro acc; rfl
  | cons L r ih =>
    intro acc
    rw [List.foldl_cons, ih]
    simp only
    split
    · rfl
    · rfl
    · rfl
    · exact addPoison_team? ..

/-- Lanes that all pass carry no cause, and what they carry is read back. -/
theorem passed_of {α : Type} (l : List (Nat × Sum (BitVec 8) α)) (m : List (Nat × α)) (h : l = m.map (fun x => (x.1, Sum.inr x.2))) :
    firstCause l = none ∧ passedLanes l = m := by
  subst h
  constructor
  · rw [firstCause, List.findSome?_eq_none_iff]
    intro x hx
    simp only [List.mem_map] at hx
    obtain ⟨y, _, rfl⟩ := hx
    rfl
  · induction m with
    | nil => rfl
    | cons a r ih =>
      unfold passedLanes at *
      simp [ih]

/-- An LDQ whose lanes meet no trap. -/
theorem ldqForm_completes {s : State} {f : FmtLdq} {k : Nat} {i : Instr} {c : Ctx} {q : Queue}
    {ok : List (Nat × LdqLane × List TlbEntry × List Place)} (hk : k ≤ 2) (he : exec i s = ldqForm s f (BitVec.ofNat 2 k))
    (h : Issues s .accessOnly c) (ha : c.act f.g ≠ 0) (hq : c.t.queue? f.q.toNat = some q) (hp : isProducer q c.w = true)
    (hdir : q.dir = false) (hw : q.width = BitVec.ofNat 2 k) (hb : baseOk c f.a = true) (hcan : q.canReserve = true)
    (hl : (lanesOf (c.act f.g)).map (fun L => (L, ldqLane c (2 * 2 ^ k) (c.ea f.a L) L)) = ok.map (fun x => (x.1, Sum.inr x.2)))
    (hpo : ∀ x ∈ ok, elemL2Poisoned c.s x.2.2.2 = false)
    (hfit : pagesFit c.s c.t.core c.t.ident.job (missedPages ok) = true)
    (hm : mayAccess c (ldqHits ok) = true) :
    ∃ c', Completes i s c' (c.p.pc + 4) ∧
      let r := ldqLanes c f.q.toNat (ok.map (fun x => (x.1, x.2.1))) (c.ea f.a)
      let s1 := requestPages r.1 c.t.core c.t.ident.job (missedPages ok)
      let flag := if r.2.any (fun l => l.st == .inflight) then flagOf c.p.setA else none
      c'.t = (c.t.setQueue (q.reserve { lanes := r.2, flag := flag.map (fun n => (c.wi, n)), by_ := c.wi, op := s1.nextId, keyovr := c.agent.keyovr })).signals
        (.entry s1.nextId) c.wi (c.act f.g) ∧
      c'.w = c.w.bind flag ∧ c'.p = c.p ∧ c'.s = Machine.noteTlb s1.fresh.2 c.agent (ok.flatMap (fun x => x.2.2.1)) := by
  have e := passed_of _ _ hl
  have e2 : ok.any (fun x => elemL2Poisoned c.s x.2.2.2) = false := by
    rw [List.any_eq_false]; intro x hx; simp [hpo x hx]
  have hw' : (q.width == BitVec.ofNat 2 k) = true := by simp [hw]
  have hkn : (BitVec.ofNat 2 k).toNat = k := by simp; omega
  let lanes := (ldqLanes c f.q.toNat (ok.map (fun x => (x.1, x.2.1))) (c.ea f.a)).2
  let flag := if lanes.any (fun l => l.st == .inflight) then flagOf c.p.setA else none
  let s' := requestPages (ldqLanes c f.q.toNat (ok.map (fun x => (x.1, x.2.1))) (c.ea f.a)).1 c.t.core c.t.ident.job
    (missedPages ok)
  let c' : Ctx := { (({ c with s := s'.fresh.2 } : Ctx).noteTlb (ok.flatMap (fun x => x.2.2.1))) with
    t := (c.t.setQueue (q.reserve { lanes := lanes, flag := flag.map (fun n => (c.wi, n)), by_ := c.wi, op := s'.nextId, keyovr := c.agent.keyovr })).signals
      (.entry s'.nextId) c.wi (c.act f.g)
    w := c.w.bind flag }
  refine ⟨c', completes_of h (he.trans rfl) (body := _) ?_ ?_, rfl, rfl, rfl, rfl⟩
  · simp only [hq, orIllopnd, hp, hdir, hw', hb, Bool.not_false, Bool.and_true, if_true, ha, if_false, hkn, e.1, hcan, Bool.not_true,
      Bool.false_eq_true, e.2, e2, hfit, hm]
    rfl
  · refine ⟨rfl, rfl, rfl, rfl, ?_, rfl, ?_⟩
    · intro x
      rw [show c'.w.table = c.w.table from bind_table ..]
      exact x
    · intro id x
      rw [show c'.s = Machine.noteTlb s'.fresh.2 c.agent (ok.flatMap (fun x => x.2.2.1)) from rfl, noteTlb_team?,
        show s'.fresh.2.team? id = s'.team? id from rfl, requestPages_team?, ldqLanes_team?]
      exact x

/-- An STQ whose head entry delivers and whose lanes pass the checks. -/
theorem stqForm_completes {s : State} {f : FmtStq} {k : Nat} {i : Instr} {c : Ctx} {q : Queue} {e : QEntry}
    {ls : List (Nat × List Place)} {tl : List TlbEntry} (hk : k ≤ 2) (he : exec i s = stqForm s f (BitVec.ofNat 2 k))
    (h : Issues s .accessOnly c) (ha : c.act f.g ≠ 0)
    (ho : f.order = 0 ∨ (f.order = 2 ∧ releaseReady c (c.act f.g) f.scope.toNat = true)) (hs : f.scope.toNat ≤ 5)
    (hq : c.t.queue? f.q.toNat = some q) (hp : isConsumer q c.w = true) (hdir : q.dir = true) (hw : q.width = BitVec.ofNat 2 k)
    (hb : baseOk c f.a = true) (hpop : popEntries c.t [f.q.toNat] = some [e]) (hf : popFate c.s c.t [e] (c.act f.g) = .ok)
    (hro : readsOwed c.s c.t c.wi (c.act f.g) = false)
    (hc : checkLanes c (c.act f.g) f.a .data .w (if f.order = 0 then 1 else 2 * 2 ^ k) (2 * 2 ^ k) = .ok ls tl)
    (hm : mayAccess c ls = true) :
    Completes i s ((((c.popHead f.q.toNat (c.act f.g)).noteTlb tl).acceptStores (c.ea f.a) f.cache.toNat f.scope.toNat
      (ls.map (fun x => { lane := x.1, bytes := placeBytes x.2 (e.deliver x.1).toNat }))).ordered f.order (c.act f.g)) (c.p.pc + 4) := by
  have hw' : (q.width == BitVec.ofNat 2 k) = true := by simp [hw]
  have hkn : (BitVec.ofNat 2 k).toNat = k := by simp; omega
  have ho' : (f.order == 0 || f.order == 2) = true := by rcases ho with h | h <;> simp [h]
  refine completes_of h (he.trans rfl) (body := _) ?_
    ((((popHead_follows ..).trans (noteTlb_follows ..)).trans (acceptStores_follows ..)).trans (ordered_follows ..))
  simp only [orIllop, ho', hro, scopeOk, hs, decide_true, hq, orIllopnd, hp, hdir, hw', hb, Bool.and_true, if_true, ha, if_false, hpop, hf, hkn, hc,
    hm, Bool.not_true, Bool.false_eq_true]
  rcases ho with h | ⟨h, hr⟩
  · rw [if_pos h]; rfl
  · have : ¬ f.order = 0 := by rw [h]; decide
    rw [if_neg this, afterRelease, if_pos hr]; rfl

/-! ## The lowest lane that a check stops (spec/06 R189) -/

theorem lanesOf_sorted (act : LaneMask) : (lanesOf act).Pairwise (· < ·) := by
  unfold lanesOf
  exact List.pairwise_lt_range.filter _

/-- A list of lanes has a lane: the mask is not empty. -/
theorem lanesOf_ne {act : LaneMask} {L : Nat} (h : L ∈ lanesOf act) : act ≠ 0 := by
  rintro rfl
  rw [lanesOf, List.mem_filter] at h
  simp [inMask] at h

/-- What the first of a rising list of lanes answers that answers at all. -/
theorem findSome_lowest {α β : Type} (l : List Nat) (f : Nat → α) (g : Nat × α → Option β) (L : Nat) (b : β) (hs : l.Pairwise (· < ·))
    (hL : L ∈ l) (h : g (L, f L) = some b) (hl : ∀ J ∈ l, J < L → g (J, f J) = none) :
    (l.map (fun L => (L, f L))).findSome? g = some b := by
  induction l with
  | nil => simp at hL
  | cons a t ih =>
    rw [List.pairwise_cons] at hs
    simp only [List.map_cons, List.findSome?_cons]
    by_cases e : a = L
    · subst e; rw [h]
    · have hm : L ∈ t := by simpa [Ne.symm e] using hL
      rw [hl a (by simp) (hs.1 _ hm)]
      exact ih hs.2 hm (fun J hJ => hl J (by simp [hJ]))

/-- The checks of an access stop at the lowest lane that meets a fault. -/
theorem checkLanes_lowest {c : Ctx} {act : LaneMask} {a : BitVec 7} {g : AccGroup} {need : Need} {align width L : Nat} {cause : BitVec 8}
    (hL : L ∈ lanesOf act) (hf : laneCheck c g need align width (c.ea a L) L = .fault cause)
    (hl : ∀ J ∈ lanesOf act, J < L → ∀ k, laneCheck c g need align width (c.ea a J) J ≠ .fault k) :
    checkLanes c act a g need align width = .stop (.trap (trapAddr cause (c.ea a L) L)) := by
  unfold checkLanes checkAll
  rw [findSome_lowest (lanesOf act) _ _ L (L, cause) (lanesOf_sorted act) hL]
  · rw [hf]
  · intro J hJ hlt
    split
    · rename_i k hk; exact absurd hk (hl J hJ hlt k)
    · rfl

/-- The checks of DISCARD and WBACK stop at the lowest lane that meets a fault. -/
theorem checkRanges_lowest {c : Ctx} {act : LaneMask} {a : BitVec 7} {d : Nat} {need : Need} {L : Nat} {k : BitVec 8} (hL : L ∈ lanesOf act)
    (hf : rangeCheck c need (c.ea a L) (c.w.v d L).toNat = .fault k)
    (hl : ∀ J ∈ lanesOf act, J < L → ∀ x, rangeCheck c need (c.ea a J) (c.w.v d J).toNat ≠ .fault x) :
    checkRanges c act a d need = .inl (.trap (trapAddr k (c.ea a L) L)) := by
  unfold checkRanges
  simp only
  rw [findSome_lowest (lanesOf act) _ _ L (L, k) (lanesOf_sorted act) hL]
  · rw [hf]
  · intro J hJ hlt
    split
    · rename_i x hx; exact absurd hx (hl J hJ hlt x)
    · rfl

/-- The first cause of a list of lanes is that of its lowest lane with one. -/
theorem firstCause_lowest {α : Type} {act : LaneMask} (f : Nat → Sum (BitVec 8) α) {L : Nat} {cause : BitVec 8} (hL : L ∈ lanesOf act)
    (hf : f L = .inl cause) (hl : ∀ J ∈ lanesOf act, J < L → ∀ k, f J ≠ .inl k) :
    firstCause ((lanesOf act).map (fun L => (L, f L))) = some (L, cause) := by
  unfold firstCause
  refine findSome_lowest _ _ _ L _ (lanesOf_sorted _) hL (by rw [hf]) ?_
  intro J hJ hlt
  split
  · rename_i k hk; exact absurd hk (hl J hJ hlt k)
  · rfl

end Sys2Proof.Machine
end

