-- ==== Sys2Proof/Laws/State.lean ====
section
/-! SUPPORT. What each update of the state leaves and what it sets, field by field, true by rfl, so that no proof unfolds a record update. -/

namespace Sys2Proof.Machine

/-! ## State.updPkg -/

@[simp] theorem State.updPkg_clock (s : State) (f : Package → Package) : (s.updPkg f).clock = s.clock := rfl
@[simp] theorem State.updPkg_agenda (s : State) (f : Package → Package) : (s.updPkg f).agenda = s.agenda := rfl
@[simp] theorem State.updPkg_cur (s : State) (f : Package → Package) : (s.updPkg f).cur = s.cur := rfl
@[simp] theorem State.updPkg_rr (s : State) (f : Package → Package) : (s.updPkg f).rr = s.rr := rfl
@[simp] theorem State.updPkg_nextId (s : State) (f : Package → Package) : (s.updPkg f).nextId = s.nextId := rfl
@[simp] theorem State.updPkg_freeTag (s : State) (f : Package → Package) : (s.updPkg f).freeTag = s.freeTag := rfl
@[simp] theorem State.updPkg_late (s : State) (f : Package → Package) : (s.updPkg f).late = s.late := rfl
@[simp] theorem State.updPkg_teams (s : State) (f : Package → Package) : (s.updPkg f).teams = s.teams := rfl
@[simp] theorem State.updPkg_cores (s : State) (f : Package → Package) : (s.updPkg f).cores = s.cores := rfl
@[simp] theorem State.updPkg_clusters (s : State) (f : Package → Package) : (s.updPkg f).clusters = s.clusters := rfl
@[simp] theorem State.updPkg_die (s : State) (f : Package → Package) : (s.updPkg f).die = s.die := rfl
@[simp] theorem State.updPkg_pkg (s : State) (f : Package → Package) : (s.updPkg f).pkg = f s.pkg := rfl
@[simp] theorem State.updPkg_fab (s : State) (f : Package → Package) : (s.updPkg f).fab = s.fab := rfl

/-! ## State.updDie -/

@[simp] theorem State.updDie_clock (s : State) (f : Die → Die) : (s.updDie f).clock = s.clock := rfl
@[simp] theorem State.updDie_agenda (s : State) (f : Die → Die) : (s.updDie f).agenda = s.agenda := rfl
@[simp] theorem State.updDie_cur (s : State) (f : Die → Die) : (s.updDie f).cur = s.cur := rfl
@[simp] theorem State.updDie_rr (s : State) (f : Die → Die) : (s.updDie f).rr = s.rr := rfl
@[simp] theorem State.updDie_nextId (s : State) (f : Die → Die) : (s.updDie f).nextId = s.nextId := rfl
@[simp] theorem State.updDie_freeTag (s : State) (f : Die → Die) : (s.updDie f).freeTag = s.freeTag := rfl
@[simp] theorem State.updDie_late (s : State) (f : Die → Die) : (s.updDie f).late = s.late := rfl
@[simp] theorem State.updDie_teams (s : State) (f : Die → Die) : (s.updDie f).teams = s.teams := rfl
@[simp] theorem State.updDie_cores (s : State) (f : Die → Die) : (s.updDie f).cores = s.cores := rfl
@[simp] theorem State.updDie_clusters (s : State) (f : Die → Die) : (s.updDie f).clusters = s.clusters := rfl
@[simp] theorem State.updDie_die (s : State) (f : Die → Die) : (s.updDie f).die = f s.die := rfl
@[simp] theorem State.updDie_pkg (s : State) (f : Die → Die) : (s.updDie f).pkg = s.pkg := rfl
@[simp] theorem State.updDie_fab (s : State) (f : Die → Die) : (s.updDie f).fab = s.fab := rfl

/-! ## State.updFab -/

@[simp] theorem State.updFab_clock (s : State) (f : Fabric → Fabric) : (s.updFab f).clock = s.clock := rfl
@[simp] theorem State.updFab_agenda (s : State) (f : Fabric → Fabric) : (s.updFab f).agenda = s.agenda := rfl
@[simp] theorem State.updFab_cur (s : State) (f : Fabric → Fabric) : (s.updFab f).cur = s.cur := rfl
@[simp] theorem State.updFab_rr (s : State) (f : Fabric → Fabric) : (s.updFab f).rr = s.rr := rfl
@[simp] theorem State.updFab_nextId (s : State) (f : Fabric → Fabric) : (s.updFab f).nextId = s.nextId := rfl
@[simp] theorem State.updFab_freeTag (s : State) (f : Fabric → Fabric) : (s.updFab f).freeTag = s.freeTag := rfl
@[simp] theorem State.updFab_late (s : State) (f : Fabric → Fabric) : (s.updFab f).late = s.late := rfl
@[simp] theorem State.updFab_teams (s : State) (f : Fabric → Fabric) : (s.updFab f).teams = s.teams := rfl
@[simp] theorem State.updFab_cores (s : State) (f : Fabric → Fabric) : (s.updFab f).cores = s.cores := rfl
@[simp] theorem State.updFab_clusters (s : State) (f : Fabric → Fabric) : (s.updFab f).clusters = s.clusters := rfl
@[simp] theorem State.updFab_die (s : State) (f : Fabric → Fabric) : (s.updFab f).die = s.die := rfl
@[simp] theorem State.updFab_pkg (s : State) (f : Fabric → Fabric) : (s.updFab f).pkg = s.pkg := rfl
@[simp] theorem State.updFab_fab (s : State) (f : Fabric → Fabric) : (s.updFab f).fab = f s.fab := rfl

/-! ## State.updCore -/

@[simp] theorem State.updCore_clock (s : State) (k : Nat) (f : Core → Core) : (s.updCore k f).clock = s.clock := rfl
@[simp] theorem State.updCore_agenda (s : State) (k : Nat) (f : Core → Core) : (s.updCore k f).agenda = s.agenda := rfl
@[simp] theorem State.updCore_cur (s : State) (k : Nat) (f : Core → Core) : (s.updCore k f).cur = s.cur := rfl
@[simp] theorem State.updCore_rr (s : State) (k : Nat) (f : Core → Core) : (s.updCore k f).rr = s.rr := rfl
@[simp] theorem State.updCore_nextId (s : State) (k : Nat) (f : Core → Core) : (s.updCore k f).nextId = s.nextId := rfl
@[simp] theorem State.updCore_freeTag (s : State) (k : Nat) (f : Core → Core) : (s.updCore k f).freeTag = s.freeTag := rfl
@[simp] theorem State.updCore_late (s : State) (k : Nat) (f : Core → Core) : (s.updCore k f).late = s.late := rfl
@[simp] theorem State.updCore_teams (s : State) (k : Nat) (f : Core → Core) : (s.updCore k f).teams = s.teams := rfl
@[simp] theorem State.updCore_cores (s : State) (k : Nat) (f : Core → Core) : (s.updCore k f).cores = updAt s.cores k f := rfl
@[simp] theorem State.updCore_clusters (s : State) (k : Nat) (f : Core → Core) : (s.updCore k f).clusters = s.clusters := rfl
@[simp] theorem State.updCore_die (s : State) (k : Nat) (f : Core → Core) : (s.updCore k f).die = s.die := rfl
@[simp] theorem State.updCore_pkg (s : State) (k : Nat) (f : Core → Core) : (s.updCore k f).pkg = s.pkg := rfl
@[simp] theorem State.updCore_fab (s : State) (k : Nat) (f : Core → Core) : (s.updCore k f).fab = s.fab := rfl

/-! ## State.updCluster -/

@[simp] theorem State.updCluster_clock (s : State) (k : Nat) (f : Cluster → Cluster) : (s.updCluster k f).clock = s.clock := rfl
@[simp] theorem State.updCluster_agenda (s : State) (k : Nat) (f : Cluster → Cluster) : (s.updCluster k f).agenda = s.agenda := rfl
@[simp] theorem State.updCluster_cur (s : State) (k : Nat) (f : Cluster → Cluster) : (s.updCluster k f).cur = s.cur := rfl
@[simp] theorem State.updCluster_rr (s : State) (k : Nat) (f : Cluster → Cluster) : (s.updCluster k f).rr = s.rr := rfl
@[simp] theorem State.updCluster_nextId (s : State) (k : Nat) (f : Cluster → Cluster) : (s.updCluster k f).nextId = s.nextId := rfl
@[simp] theorem State.updCluster_freeTag (s : State) (k : Nat) (f : Cluster → Cluster) : (s.updCluster k f).freeTag = s.freeTag := rfl
@[simp] theorem State.updCluster_late (s : State) (k : Nat) (f : Cluster → Cluster) : (s.updCluster k f).late = s.late := rfl
@[simp] theorem State.updCluster_teams (s : State) (k : Nat) (f : Cluster → Cluster) : (s.updCluster k f).teams = s.teams := rfl
@[simp] theorem State.updCluster_cores (s : State) (k : Nat) (f : Cluster → Cluster) : (s.updCluster k f).cores = s.cores := rfl
@[simp] theorem State.updCluster_clusters (s : State) (k : Nat) (f : Cluster → Cluster) : (s.updCluster k f).clusters = updAt s.clusters k f := rfl
@[simp] theorem State.updCluster_die (s : State) (k : Nat) (f : Cluster → Cluster) : (s.updCluster k f).die = s.die := rfl
@[simp] theorem State.updCluster_pkg (s : State) (k : Nat) (f : Cluster → Cluster) : (s.updCluster k f).pkg = s.pkg := rfl
@[simp] theorem State.updCluster_fab (s : State) (k : Nat) (f : Cluster → Cluster) : (s.updCluster k f).fab = s.fab := rfl

/-! ## State.updTeam -/

@[simp] theorem State.updTeam_clock (s : State) (k : Nat) (f : Team → Team) : (s.updTeam k f).clock = s.clock := rfl
@[simp] theorem State.updTeam_agenda (s : State) (k : Nat) (f : Team → Team) : (s.updTeam k f).agenda = s.agenda := rfl
@[simp] theorem State.updTeam_cur (s : State) (k : Nat) (f : Team → Team) : (s.updTeam k f).cur = s.cur := rfl
@[simp] theorem State.updTeam_rr (s : State) (k : Nat) (f : Team → Team) : (s.updTeam k f).rr = s.rr := rfl
@[simp] theorem State.updTeam_nextId (s : State) (k : Nat) (f : Team → Team) : (s.updTeam k f).nextId = s.nextId := rfl
@[simp] theorem State.updTeam_freeTag (s : State) (k : Nat) (f : Team → Team) : (s.updTeam k f).freeTag = s.freeTag := rfl
@[simp] theorem State.updTeam_late (s : State) (k : Nat) (f : Team → Team) : (s.updTeam k f).late = s.late := rfl
@[simp] theorem State.updTeam_teams (s : State) (k : Nat) (f : Team → Team) : (s.updTeam k f).teams = s.teams.map (fun t => if t.id = k then f t else t) := rfl
@[simp] theorem State.updTeam_cores (s : State) (k : Nat) (f : Team → Team) : (s.updTeam k f).cores = s.cores := rfl
@[simp] theorem State.updTeam_clusters (s : State) (k : Nat) (f : Team → Team) : (s.updTeam k f).clusters = s.clusters := rfl
@[simp] theorem State.updTeam_die (s : State) (k : Nat) (f : Team → Team) : (s.updTeam k f).die = s.die := rfl
@[simp] theorem State.updTeam_pkg (s : State) (k : Nat) (f : Team → Team) : (s.updTeam k f).pkg = s.pkg := rfl
@[simp] theorem State.updTeam_fab (s : State) (k : Nat) (f : Team → Team) : (s.updTeam k f).fab = s.fab := rfl

/-! ## State.setTeam -/

@[simp] theorem State.setTeam_clock (s : State) (t : Team) : (s.setTeam t).clock = s.clock := rfl
@[simp] theorem State.setTeam_agenda (s : State) (t : Team) : (s.setTeam t).agenda = s.agenda := rfl
@[simp] theorem State.setTeam_cur (s : State) (t : Team) : (s.setTeam t).cur = s.cur := rfl
@[simp] theorem State.setTeam_rr (s : State) (t : Team) : (s.setTeam t).rr = s.rr := rfl
@[simp] theorem State.setTeam_nextId (s : State) (t : Team) : (s.setTeam t).nextId = s.nextId := rfl
@[simp] theorem State.setTeam_freeTag (s : State) (t : Team) : (s.setTeam t).freeTag = s.freeTag := rfl
@[simp] theorem State.setTeam_late (s : State) (t : Team) : (s.setTeam t).late = s.late := rfl
@[simp] theorem State.setTeam_teams (s : State) (t : Team) : (s.setTeam t).teams = s.teams.map (fun x => if x.id = t.id then t else x) := rfl
@[simp] theorem State.setTeam_cores (s : State) (t : Team) : (s.setTeam t).cores = s.cores := rfl
@[simp] theorem State.setTeam_clusters (s : State) (t : Team) : (s.setTeam t).clusters = s.clusters := rfl
@[simp] theorem State.setTeam_die (s : State) (t : Team) : (s.setTeam t).die = s.die := rfl
@[simp] theorem State.setTeam_pkg (s : State) (t : Team) : (s.setTeam t).pkg = s.pkg := rfl
@[simp] theorem State.setTeam_fab (s : State) (t : Team) : (s.setTeam t).fab = s.fab := rfl

/-! ## Registers of a warp -/

@[simp] theorem Warp.setV_role (w : Warp) (r : Nat) (m : LaneMask) (f : Nat → Word) : (w.setV r m f).role = w.role := rfl
@[simp] theorem Warp.setV_index (w : Warp) (r : Nat) (m : LaneMask) (f : Nat → Word) : (w.setV r m f).index = w.index := rfl
@[simp] theorem Warp.setV_vregs (w : Warp) (r : Nat) (m : LaneMask) (f : Nat → Word) : (w.setV r m f).vregs = w.vregs.set r (mergeLanes m (w.vregs.getD r []) f) := rfl
@[simp] theorem Warp.setV_sregs (w : Warp) (r : Nat) (m : LaneMask) (f : Nat → Word) : (w.setV r m f).sregs = w.sregs := rfl
@[simp] theorem Warp.setV_preds (w : Warp) (r : Nat) (m : LaneMask) (f : Nat → Word) : (w.setV r m f).preds = w.preds := rfl
@[simp] theorem Warp.setV_flags (w : Warp) (r : Nat) (m : LaneMask) (f : Nat → Word) : (w.setV r m f).flags = w.flags := rfl
@[simp] theorem Warp.setV_exited (w : Warp) (r : Nat) (m : LaneMask) (f : Nat → Word) : (w.setV r m f).exited = w.exited := rfl
@[simp] theorem Warp.setV_seqCtr (w : Warp) (r : Nat) (m : LaneMask) (f : Nat → Word) : (w.setV r m f).seqCtr = w.seqCtr := rfl
@[simp] theorem Warp.setV_table (w : Warp) (r : Nat) (m : LaneMask) (f : Nat → Word) : (w.setV r m f).table = w.table := rfl
@[simp] theorem Warp.setV_spilled (w : Warp) (r : Nat) (m : LaneMask) (f : Nat → Word) : (w.setV r m f).spilled = w.spilled := rfl
@[simp] theorem Warp.setV_slots (w : Warp) (r : Nat) (m : LaneMask) (f : Nat → Word) : (w.setV r m f).slots = w.slots := rfl
@[simp] theorem Warp.setV_streamId (w : Warp) (r : Nat) (m : LaneMask) (f : Nat → Word) : (w.setV r m f).streamId = w.streamId := rfl
@[simp] theorem Warp.setV_streamCtr (w : Warp) (r : Nat) (m : LaneMask) (f : Nat → Word) : (w.setV r m f).streamCtr = w.streamCtr := rfl
@[simp] theorem Warp.setV_peerCtr (w : Warp) (r : Nat) (m : LaneMask) (f : Nat → Word) : (w.setV r m f).peerCtr = w.peerCtr := rfl
@[simp] theorem Warp.setV_quadrant (w : Warp) (r : Nat) (m : LaneMask) (f : Nat → Word) : (w.setV r m f).quadrant = w.quadrant := rfl
@[simp] theorem Warp.setV_privSlot (w : Warp) (r : Nat) (m : LaneMask) (f : Nat → Word) : (w.setV r m f).privSlot = w.privSlot := rfl
@[simp] theorem Warp.setV_spillBase (w : Warp) (r : Nat) (m : LaneMask) (f : Nat → Word) : (w.setV r m f).spillBase = w.spillBase := rfl
@[simp] theorem Warp.setV_atPoint (w : Warp) (r : Nat) (m : LaneMask) (f : Nat → Word) : (w.setV r m f).atPoint = w.atPoint := rfl
@[simp] theorem Warp.setV_rfault (w : Warp) (r : Nat) (m : LaneMask) (f : Nat → Word) : (w.setV r m f).rfault = w.rfault := rfl
@[simp] theorem Warp.setV_mcast (w : Warp) (r : Nat) (m : LaneMask) (f : Nat → Word) : (w.setV r m f).mcast = w.mcast := rfl
@[simp] theorem Warp.setV_halt (w : Warp) (r : Nat) (m : LaneMask) (f : Nat → Word) : (w.setV r m f).halt = w.halt := rfl
@[simp] theorem Warp.setV_cond (w : Warp) (r : Nat) (m : LaneMask) (f : Nat → Word) : (w.setV r m f).cond = w.cond := rfl

@[simp] theorem Warp.setS_role (w : Warp) (r : Nat) (v : Word) : (w.setS r v).role = w.role := rfl
@[simp] theorem Warp.setS_index (w : Warp) (r : Nat) (v : Word) : (w.setS r v).index = w.index := rfl
@[simp] theorem Warp.setS_vregs (w : Warp) (r : Nat) (v : Word) : (w.setS r v).vregs = w.vregs := rfl
@[simp] theorem Warp.setS_sregs (w : Warp) (r : Nat) (v : Word) : (w.setS r v).sregs = w.sregs.set r v := rfl
@[simp] theorem Warp.setS_preds (w : Warp) (r : Nat) (v : Word) : (w.setS r v).preds = w.preds := rfl
@[simp] theorem Warp.setS_flags (w : Warp) (r : Nat) (v : Word) : (w.setS r v).flags = w.flags := rfl
@[simp] theorem Warp.setS_exited (w : Warp) (r : Nat) (v : Word) : (w.setS r v).exited = w.exited := rfl
@[simp] theorem Warp.setS_seqCtr (w : Warp) (r : Nat) (v : Word) : (w.setS r v).seqCtr = w.seqCtr := rfl
@[simp] theorem Warp.setS_table (w : Warp) (r : Nat) (v : Word) : (w.setS r v).table = w.table := rfl
@[simp] theorem Warp.setS_spilled (w : Warp) (r : Nat) (v : Word) : (w.setS r v).spilled = w.spilled := rfl
@[simp] theorem Warp.setS_slots (w : Warp) (r : Nat) (v : Word) : (w.setS r v).slots = w.slots := rfl
@[simp] theorem Warp.setS_streamId (w : Warp) (r : Nat) (v : Word) : (w.setS r v).streamId = w.streamId := rfl
@[simp] theorem Warp.setS_streamCtr (w : Warp) (r : Nat) (v : Word) : (w.setS r v).streamCtr = w.streamCtr := rfl
@[simp] theorem Warp.setS_peerCtr (w : Warp) (r : Nat) (v : Word) : (w.setS r v).peerCtr = w.peerCtr := rfl
@[simp] theorem Warp.setS_quadrant (w : Warp) (r : Nat) (v : Word) : (w.setS r v).quadrant = w.quadrant := rfl
@[simp] theorem Warp.setS_privSlot (w : Warp) (r : Nat) (v : Word) : (w.setS r v).privSlot = w.privSlot := rfl
@[simp] theorem Warp.setS_spillBase (w : Warp) (r : Nat) (v : Word) : (w.setS r v).spillBase = w.spillBase := rfl
@[simp] theorem Warp.setS_atPoint (w : Warp) (r : Nat) (v : Word) : (w.setS r v).atPoint = w.atPoint := rfl
@[simp] theorem Warp.setS_rfault (w : Warp) (r : Nat) (v : Word) : (w.setS r v).rfault = w.rfault := rfl
@[simp] theorem Warp.setS_mcast (w : Warp) (r : Nat) (v : Word) : (w.setS r v).mcast = w.mcast := rfl
@[simp] theorem Warp.setS_halt (w : Warp) (r : Nat) (v : Word) : (w.setS r v).halt = w.halt := rfl
@[simp] theorem Warp.setS_cond (w : Warp) (r : Nat) (v : Word) : (w.setS r v).cond = w.cond := rfl

@[simp] theorem Warp.setV64_role (w : Warp) (r : Nat) (m : LaneMask) (f : Nat → DWord) : (w.setV64 r m f).role = w.role := rfl
@[simp] theorem Warp.setV64_index (w : Warp) (r : Nat) (m : LaneMask) (f : Nat → DWord) : (w.setV64 r m f).index = w.index := rfl
@[simp] theorem Warp.setV64_sregs (w : Warp) (r : Nat) (m : LaneMask) (f : Nat → DWord) : (w.setV64 r m f).sregs = w.sregs := rfl
@[simp] theorem Warp.setV64_preds (w : Warp) (r : Nat) (m : LaneMask) (f : Nat → DWord) : (w.setV64 r m f).preds = w.preds := rfl
@[simp] theorem Warp.setV64_flags (w : Warp) (r : Nat) (m : LaneMask) (f : Nat → DWord) : (w.setV64 r m f).flags = w.flags := rfl
@[simp] theorem Warp.setV64_exited (w : Warp) (r : Nat) (m : LaneMask) (f : Nat → DWord) : (w.setV64 r m f).exited = w.exited := rfl
@[simp] theorem Warp.setV64_seqCtr (w : Warp) (r : Nat) (m : LaneMask) (f : Nat → DWord) : (w.setV64 r m f).seqCtr = w.seqCtr := rfl
@[simp] theorem Warp.setV64_table (w : Warp) (r : Nat) (m : LaneMask) (f : Nat → DWord) : (w.setV64 r m f).table = w.table := rfl
@[simp] theorem Warp.setV64_spilled (w : Warp) (r : Nat) (m : LaneMask) (f : Nat → DWord) : (w.setV64 r m f).spilled = w.spilled := rfl
@[simp] theorem Warp.setV64_slots (w : Warp) (r : Nat) (m : LaneMask) (f : Nat → DWord) : (w.setV64 r m f).slots = w.slots := rfl
@[simp] theorem Warp.setV64_streamId (w : Warp) (r : Nat) (m : LaneMask) (f : Nat → DWord) : (w.setV64 r m f).streamId = w.streamId := rfl
@[simp] theorem Warp.setV64_streamCtr (w : Warp) (r : Nat) (m : LaneMask) (f : Nat → DWord) : (w.setV64 r m f).streamCtr = w.streamCtr := rfl
@[simp] theorem Warp.setV64_peerCtr (w : Warp) (r : Nat) (m : LaneMask) (f : Nat → DWord) : (w.setV64 r m f).peerCtr = w.peerCtr := rfl
@[simp] theorem Warp.setV64_quadrant (w : Warp) (r : Nat) (m : LaneMask) (f : Nat → DWord) : (w.setV64 r m f).quadrant = w.quadrant := rfl
@[simp] theorem Warp.setV64_privSlot (w : Warp) (r : Nat) (m : LaneMask) (f : Nat → DWord) : (w.setV64 r m f).privSlot = w.privSlot := rfl
@[simp] theorem Warp.setV64_spillBase (w : Warp) (r : Nat) (m : LaneMask) (f : Nat → DWord) : (w.setV64 r m f).spillBase = w.spillBase := rfl
@[simp] theorem Warp.setV64_atPoint (w : Warp) (r : Nat) (m : LaneMask) (f : Nat → DWord) : (w.setV64 r m f).atPoint = w.atPoint := rfl
@[simp] theorem Warp.setV64_rfault (w : Warp) (r : Nat) (m : LaneMask) (f : Nat → DWord) : (w.setV64 r m f).rfault = w.rfault := rfl
@[simp] theorem Warp.setV64_mcast (w : Warp) (r : Nat) (m : LaneMask) (f : Nat → DWord) : (w.setV64 r m f).mcast = w.mcast := rfl
@[simp] theorem Warp.setV64_halt (w : Warp) (r : Nat) (m : LaneMask) (f : Nat → DWord) : (w.setV64 r m f).halt = w.halt := rfl
@[simp] theorem Warp.setV64_cond (w : Warp) (r : Nat) (m : LaneMask) (f : Nat → DWord) : (w.setV64 r m f).cond = w.cond := rfl

@[simp] theorem Warp.setP_role (w : Warp) (r : Nat) (m : LaneMask) (f : Nat → Bool) : (w.setP r m f).role = w.role := by unfold Warp.setP; split <;> rfl
@[simp] theorem Warp.setP_index (w : Warp) (r : Nat) (m : LaneMask) (f : Nat → Bool) : (w.setP r m f).index = w.index := by unfold Warp.setP; split <;> rfl
@[simp] theorem Warp.setP_vregs (w : Warp) (r : Nat) (m : LaneMask) (f : Nat → Bool) : (w.setP r m f).vregs = w.vregs := by unfold Warp.setP; split <;> rfl
@[simp] theorem Warp.setP_sregs (w : Warp) (r : Nat) (m : LaneMask) (f : Nat → Bool) : (w.setP r m f).sregs = w.sregs := by unfold Warp.setP; split <;> rfl
@[simp] theorem Warp.setP_flags (w : Warp) (r : Nat) (m : LaneMask) (f : Nat → Bool) : (w.setP r m f).flags = w.flags := by unfold Warp.setP; split <;> rfl
@[simp] theorem Warp.setP_exited (w : Warp) (r : Nat) (m : LaneMask) (f : Nat → Bool) : (w.setP r m f).exited = w.exited := by unfold Warp.setP; split <;> rfl
@[simp] theorem Warp.setP_seqCtr (w : Warp) (r : Nat) (m : LaneMask) (f : Nat → Bool) : (w.setP r m f).seqCtr = w.seqCtr := by unfold Warp.setP; split <;> rfl
@[simp] theorem Warp.setP_table (w : Warp) (r : Nat) (m : LaneMask) (f : Nat → Bool) : (w.setP r m f).table = w.table := by unfold Warp.setP; split <;> rfl
@[simp] theorem Warp.setP_spilled (w : Warp) (r : Nat) (m : LaneMask) (f : Nat → Bool) : (w.setP r m f).spilled = w.spilled := by unfold Warp.setP; split <;> rfl
@[simp] theorem Warp.setP_slots (w : Warp) (r : Nat) (m : LaneMask) (f : Nat → Bool) : (w.setP r m f).slots = w.slots := by unfold Warp.setP; split <;> rfl
@[simp] theorem Warp.setP_streamId (w : Warp) (r : Nat) (m : LaneMask) (f : Nat → Bool) : (w.setP r m f).streamId = w.streamId := by unfold Warp.setP; split <;> rfl
@[simp] theorem Warp.setP_streamCtr (w : Warp) (r : Nat) (m : LaneMask) (f : Nat → Bool) : (w.setP r m f).streamCtr = w.streamCtr := by unfold Warp.setP; split <;> rfl
@[simp] theorem Warp.setP_peerCtr (w : Warp) (r : Nat) (m : LaneMask) (f : Nat → Bool) : (w.setP r m f).peerCtr = w.peerCtr := by unfold Warp.setP; split <;> rfl
@[simp] theorem Warp.setP_quadrant (w : Warp) (r : Nat) (m : LaneMask) (f : Nat → Bool) : (w.setP r m f).quadrant = w.quadrant := by unfold Warp.setP; split <;> rfl
@[simp] theorem Warp.setP_privSlot (w : Warp) (r : Nat) (m : LaneMask) (f : Nat → Bool) : (w.setP r m f).privSlot = w.privSlot := by unfold Warp.setP; split <;> rfl
@[simp] theorem Warp.setP_spillBase (w : Warp) (r : Nat) (m : LaneMask) (f : Nat → Bool) : (w.setP r m f).spillBase = w.spillBase := by unfold Warp.setP; split <;> rfl
@[simp] theorem Warp.setP_atPoint (w : Warp) (r : Nat) (m : LaneMask) (f : Nat → Bool) : (w.setP r m f).atPoint = w.atPoint := by unfold Warp.setP; split <;> rfl
@[simp] theorem Warp.setP_rfault (w : Warp) (r : Nat) (m : LaneMask) (f : Nat → Bool) : (w.setP r m f).rfault = w.rfault := by unfold Warp.setP; split <;> rfl
@[simp] theorem Warp.setP_mcast (w : Warp) (r : Nat) (m : LaneMask) (f : Nat → Bool) : (w.setP r m f).mcast = w.mcast := by unfold Warp.setP; split <;> rfl
@[simp] theorem Warp.setP_halt (w : Warp) (r : Nat) (m : LaneMask) (f : Nat → Bool) : (w.setP r m f).halt = w.halt := by unfold Warp.setP; split <;> rfl
@[simp] theorem Warp.setP_cond (w : Warp) (r : Nat) (m : LaneMask) (f : Nat → Bool) : (w.setP r m f).cond = w.cond := by unfold Warp.setP; split <;> rfl

@[simp] theorem Warp.bind_role (w : Warp) (f : Option Nat) : (w.bind f).role = w.role := by cases f <;> rfl
@[simp] theorem Warp.bind_index (w : Warp) (f : Option Nat) : (w.bind f).index = w.index := by cases f <;> rfl
@[simp] theorem Warp.bind_vregs (w : Warp) (f : Option Nat) : (w.bind f).vregs = w.vregs := by cases f <;> rfl
@[simp] theorem Warp.bind_sregs (w : Warp) (f : Option Nat) : (w.bind f).sregs = w.sregs := by cases f <;> rfl
@[simp] theorem Warp.bind_preds (w : Warp) (f : Option Nat) : (w.bind f).preds = w.preds := by cases f <;> rfl
@[simp] theorem Warp.bind_exited (w : Warp) (f : Option Nat) : (w.bind f).exited = w.exited := by cases f <;> rfl
@[simp] theorem Warp.bind_seqCtr (w : Warp) (f : Option Nat) : (w.bind f).seqCtr = w.seqCtr := by cases f <;> rfl
@[simp] theorem Warp.bind_table (w : Warp) (f : Option Nat) : (w.bind f).table = w.table := by cases f <;> rfl
@[simp] theorem Warp.bind_spilled (w : Warp) (f : Option Nat) : (w.bind f).spilled = w.spilled := by cases f <;> rfl
@[simp] theorem Warp.bind_slots (w : Warp) (f : Option Nat) : (w.bind f).slots = w.slots := by cases f <;> rfl
@[simp] theorem Warp.bind_streamId (w : Warp) (f : Option Nat) : (w.bind f).streamId = w.streamId := by cases f <;> rfl
@[simp] theorem Warp.bind_streamCtr (w : Warp) (f : Option Nat) : (w.bind f).streamCtr = w.streamCtr := by cases f <;> rfl
@[simp] theorem Warp.bind_peerCtr (w : Warp) (f : Option Nat) : (w.bind f).peerCtr = w.peerCtr := by cases f <;> rfl
@[simp] theorem Warp.bind_quadrant (w : Warp) (f : Option Nat) : (w.bind f).quadrant = w.quadrant := by cases f <;> rfl
@[simp] theorem Warp.bind_privSlot (w : Warp) (f : Option Nat) : (w.bind f).privSlot = w.privSlot := by cases f <;> rfl
@[simp] theorem Warp.bind_spillBase (w : Warp) (f : Option Nat) : (w.bind f).spillBase = w.spillBase := by cases f <;> rfl
@[simp] theorem Warp.bind_atPoint (w : Warp) (f : Option Nat) : (w.bind f).atPoint = w.atPoint := by cases f <;> rfl
@[simp] theorem Warp.bind_rfault (w : Warp) (f : Option Nat) : (w.bind f).rfault = w.rfault := by cases f <;> rfl
@[simp] theorem Warp.bind_mcast (w : Warp) (f : Option Nat) : (w.bind f).mcast = w.mcast := by cases f <;> rfl
@[simp] theorem Warp.bind_halt (w : Warp) (f : Option Nat) : (w.bind f).halt = w.halt := by cases f <;> rfl
@[simp] theorem Warp.bind_cond (w : Warp) (f : Option Nat) : (w.bind f).cond = w.cond := by cases f <;> rfl

@[simp] theorem Warp.unbind_role (w : Warp) (f : Option Nat) : (w.unbind f).role = w.role := by cases f <;> rfl
@[simp] theorem Warp.unbind_index (w : Warp) (f : Option Nat) : (w.unbind f).index = w.index := by cases f <;> rfl
@[simp] theorem Warp.unbind_vregs (w : Warp) (f : Option Nat) : (w.unbind f).vregs = w.vregs := by cases f <;> rfl
@[simp] theorem Warp.unbind_sregs (w : Warp) (f : Option Nat) : (w.unbind f).sregs = w.sregs := by cases f <;> rfl
@[simp] theorem Warp.unbind_preds (w : Warp) (f : Option Nat) : (w.unbind f).preds = w.preds := by cases f <;> rfl
@[simp] theorem Warp.unbind_exited (w : Warp) (f : Option Nat) : (w.unbind f).exited = w.exited := by cases f <;> rfl
@[simp] theorem Warp.unbind_seqCtr (w : Warp) (f : Option Nat) : (w.unbind f).seqCtr = w.seqCtr := by cases f <;> rfl
@[simp] theorem Warp.unbind_table (w : Warp) (f : Option Nat) : (w.unbind f).table = w.table := by cases f <;> rfl
@[simp] theorem Warp.unbind_spilled (w : Warp) (f : Option Nat) : (w.unbind f).spilled = w.spilled := by cases f <;> rfl
@[simp] theorem Warp.unbind_slots (w : Warp) (f : Option Nat) : (w.unbind f).slots = w.slots := by cases f <;> rfl
@[simp] theorem Warp.unbind_streamId (w : Warp) (f : Option Nat) : (w.unbind f).streamId = w.streamId := by cases f <;> rfl
@[simp] theorem Warp.unbind_streamCtr (w : Warp) (f : Option Nat) : (w.unbind f).streamCtr = w.streamCtr := by cases f <;> rfl
@[simp] theorem Warp.unbind_peerCtr (w : Warp) (f : Option Nat) : (w.unbind f).peerCtr = w.peerCtr := by cases f <;> rfl
@[simp] theorem Warp.unbind_quadrant (w : Warp) (f : Option Nat) : (w.unbind f).quadrant = w.quadrant := by cases f <;> rfl
@[simp] theorem Warp.unbind_privSlot (w : Warp) (f : Option Nat) : (w.unbind f).privSlot = w.privSlot := by cases f <;> rfl
@[simp] theorem Warp.unbind_spillBase (w : Warp) (f : Option Nat) : (w.unbind f).spillBase = w.spillBase := by cases f <;> rfl
@[simp] theorem Warp.unbind_atPoint (w : Warp) (f : Option Nat) : (w.unbind f).atPoint = w.atPoint := by cases f <;> rfl
@[simp] theorem Warp.unbind_rfault (w : Warp) (f : Option Nat) : (w.unbind f).rfault = w.rfault := by cases f <;> rfl
@[simp] theorem Warp.unbind_mcast (w : Warp) (f : Option Nat) : (w.unbind f).mcast = w.mcast := by cases f <;> rfl
@[simp] theorem Warp.unbind_halt (w : Warp) (f : Option Nat) : (w.unbind f).halt = w.halt := by cases f <;> rfl
@[simp] theorem Warp.unbind_cond (w : Warp) (f : Option Nat) : (w.unbind f).cond = w.cond := by cases f <;> rfl

/-! ## The context -/

@[simp] theorem Ctx.withW_s (c : Ctx) (w : Warp) : (c.withW w).s = c.s := rfl
@[simp] theorem Ctx.withW_t (c : Ctx) (w : Warp) : (c.withW w).t = c.t := rfl
@[simp] theorem Ctx.withW_p (c : Ctx) (w : Warp) : (c.withW w).p = c.p := rfl
@[simp] theorem Ctx.withW_wi (c : Ctx) (w : Warp) : (c.withW w).wi = c.wi := rfl
@[simp] theorem Ctx.freshen_t (c : Ctx) : (c.freshen).t = c.t := rfl
@[simp] theorem Ctx.freshen_w (c : Ctx) : (c.freshen).w = c.w := rfl
@[simp] theorem Ctx.freshen_p (c : Ctx) : (c.freshen).p = c.p := rfl
@[simp] theorem Ctx.freshen_wi (c : Ctx) : (c.freshen).wi = c.wi := rfl
@[simp] theorem Ctx.advance_s (c : Ctx) : (c.advance).s = c.s := rfl
@[simp] theorem Ctx.advance_t (c : Ctx) : (c.advance).t = c.t := rfl
@[simp] theorem Ctx.advance_w (c : Ctx) : (c.advance).w = c.w := rfl
@[simp] theorem Ctx.advance_wi (c : Ctx) : (c.advance).wi = c.wi := rfl
@[simp] theorem Ctx.setD_s (c : Ctx) (d : Nat) (wide : Bool) (m : LaneMask) (f : Nat → DWord) : (c.setD d wide m f).s = c.s := rfl
@[simp] theorem Ctx.setD_t (c : Ctx) (d : Nat) (wide : Bool) (m : LaneMask) (f : Nat → DWord) : (c.setD d wide m f).t = c.t := rfl
@[simp] theorem Ctx.setD_p (c : Ctx) (d : Nat) (wide : Bool) (m : LaneMask) (f : Nat → DWord) : (c.setD d wide m f).p = c.p := rfl
@[simp] theorem Ctx.setD_wi (c : Ctx) (d : Nat) (wide : Bool) (m : LaneMask) (f : Nat → DWord) : (c.setD d wide m f).wi = c.wi := rfl

/-! ## What a register reads after a write -/

theorem laneList_get (L : Nat) (h : L < 32) : laneList[L]? = some L := by simp [laneList, h]

/-- A lane of a merged register. -/
theorem mergeLanes_get (m : LaneMask) (old : List Word) (f : Nat → Word) (L : Nat) (h : L < 32) :
    (mergeLanes m old f).getD L 0 = if inMask m L then f L else old.getD L 0 := by
  simp [mergeLanes, laneList, h]

/-- v r after a write of v r: the written lanes hold what was written, the others what they held. -/
theorem Warp.v_setV (w : Warp) (r : Nat) (m : LaneMask) (f : Nat → Word) (L : Nat) (hr : r < w.nregs) (h : L < 32) :
    (w.setV r m f).v r L = if inMask m L then f L else w.v r L := by
  have hr' : r < w.vregs.length := hr
  simp only [Warp.v, Warp.setV_vregs]
  rw [show (w.vregs.set r (mergeLanes m (w.vregs.getD r []) f)).getD r [] = mergeLanes m (w.vregs.getD r []) f by
    rw [List.getD_eq_getElem?_getD, List.getElem?_set_self hr', Option.getD_some]]
  exact mergeLanes_get _ _ _ _ h

/-- v q after a write of another register. -/
theorem Warp.v_setV_ne (w : Warp) (r q : Nat) (m : LaneMask) (f : Nat → Word) (L : Nat) (h : q ≠ r) : (w.setV r m f).v q L = w.v q L := by
  simp only [Warp.v, Warp.setV_vregs, List.getD_eq_getElem?_getD]
  rw [List.getElem?_set_ne (Ne.symm h)]

/-- s r after a write of s r, and of another. -/
theorem Warp.sr_setS (w : Warp) (r : Nat) (v : Word) (h : r < w.sregs.length) : (w.setS r v).sr r = v := by
  simp [Warp.sr, h]
theorem Warp.sr_setS_ne (w : Warp) (r q : Nat) (v : Word) (h : q ≠ r) : (w.setS r v).sr q = w.sr q := by
  simp only [Warp.sr, Warp.setS_sregs, List.getD_eq_getElem?_getD]
  rw [List.getElem?_set_ne (Ne.symm h)]

/-- p7 reads true whatever is written (R19). -/
theorem Warp.p_seven (w : Warp) (m : LaneMask) (f : Nat → Bool) : (w.setP 7 m f).p 7 = BitVec.allOnes 32 ∧ w.setP 7 m f = w := ⟨rfl, rfl⟩

end Sys2Proof.Machine
end

