-- ==== Sys2Proof/Tests/Slice0.lean ====
section
/-! SUPPORT. Tests: words of the spec, ill-formed terms, single steps on small states, and for each statement a state and operands that meet its hypotheses. -/

namespace Sys2Proof.Tests
open Sys2Proof Sys2Proof.Machine Sys2Proof.Claims

/-! ## Small machines -/

/-- A kernel of one warp. -/
def kern (role : Role) : Kernel :=
  { kdesc := 0, livetab := 0, nlive := 0, entryA := 0x1000, entryE := 0x1000, teamA := if role = .access then 1 else 0
    teamE := if role = .access then 0 else 1, regsA := 8, regsE := 8, acc := 0, scratch := 4096, exch := 0, spill := 4, queues := [], rings := [] }

def ident (role : Role) : Ident :=
  { task := 2, linear := 0, x := 0, y := 0, z := 0, gx := 1, gy := 1, gz := 1, job := 1, prio := 0, depth := 0, launch := 3, member := 0
    kern := kern role }

def slots : Slots := { core := 0, scrBase := 0, queueBases := [], tiles := [], frame := 0, spillBases := [0], privSlots := [0], quadrants := [0] }

def warp (role : Role) : Warp := Warp.start role 0 8 0x1000 (List.replicate 32 0) 0 0 0 0 0
def team (role : Role) : Team := Team.start 1 (ident role) slots (List.replicate 32 0) 0 0 false
def split : Split := Split.first 0x1000 0 0

/-- The context of a team of one warp with one split, which issues. -/
def ctxOf (s : State) (t : Team) (w : Warp) (p : Split) : Ctx :=
  let w := { w with table := [p] }
  let t := { t with warps := [w] }
  { s := { s with teams := [t], cur := some { team := t.id, warp := 0, seq := p.seq } }, t := t, w := w, p := p, wi := 0 }

theorem issuing_ctxOf (s : State) (t : Team) (w : Warp) (p : Split) (h : t.save.corrupt = false) :
    Issuing (ctxOf s t w p).s (ctxOf s t w p) := by
  refine ⟨?_, h⟩
  simp [getCtx, ctxOf, State.team?, findSplit]

/-- The plain small machine of a role. -/
def plainCtx (role : Role) : Ctx := ctxOf State.reset (team role) (warp role) split

theorem issues_plain (role : Role) : Issuing (plainCtx role).s (plainCtx role) := issuing_ctxOf _ _ _ _ rfl

/-! ## Statements about lane instructions and queues -/

def cA : Ctx := plainCtx .access
def cE : Ctx := plainCtx .execute

theorem issA (r : Roles) (h : r.allows .access = true) : Issues cA.s r cA := ⟨issues_plain _, h⟩
theorem issE (r : Roles) (h : r.allows .execute = true) : Issues cE.s r cE := ⟨issues_plain _, h⟩

/-- The operands of an instruction in a small machine that may issue it. -/
theorem reads_of {s : State} {r : Roles} {c c' : Ctx} {g : BitVec 4} {ops : List Opnd} {vs : List (Nat → DWord)} (h : Issues s r c)
    (ho : ops.all (Opnd.ok c) = true) (hr : readOps c (c.act g) ops = .got c' vs) : Reads s r c g ops c' vs :=
  ⟨h, by simpa using ho, hr⟩

/-- Two 32-bit operands, v0 and LANE, into v7, the last register of the warp. -/
theorem witness_IntegerWordsComplete : ∃ c' vs, Reads cA.s .both cA 7 [op32 .int 0, op32 .int 0x78] c' vs ∧ destOk cA 7 false = true :=
  ⟨_, _, reads_of (issA _ rfl) rfl rfl, rfl⟩

theorem witness_PairsAndSelectComplete :
    (∃ c' vs, Reads cA.s .both cA 7 [op64 6, op64 0x77] c' vs ∧ destOk cA 6 true = true) ∧
    (∃ c' vs, Issues cA.s .both cA ∧ (op32 .int 0).ok cA = true ∧ (op32 .int 1).ok cA = true ∧
      readOps cA cA.p.mask [op32 .int 0, op32 .int 1] = .got c' vs) ∧
    (∃ c' vs, Reads cA.s .accessOnly cA 7 [op64 0x40, op32 .int 0] c' vs) ∧
    (∃ c' vs, Reads cA.s .accessOnly cA 7 [op32 .int 0] c' vs) :=
  ⟨⟨_, _, reads_of (issA _ rfl) rfl rfl, rfl⟩, ⟨_, _, issA _ rfl, rfl, rfl, rfl⟩, ⟨_, _, reads_of (issA _ rfl) rfl rfl⟩,
   ⟨_, _, reads_of (issA _ rfl) rfl rfl⟩⟩

theorem witness_FloatAndConvertComplete :
    (∃ c' vs, Reads cE.s .executeOnly cE 7 [op32 .f32 0, op32 .f32 0x71] c' vs ∧ destOk cE 0 false = true) ∧
    (∃ c' vs, Reads cE.s .both cE 7 [op32 .int 0] c' vs) ∧ (∃ c' vs, Reads cE.s .executeOnly cE 7 [op32 .f32 0, op32 .int 0x77] c' vs) ∧
    (∃ c' vs, Reads cE.s .both cE 7 [op64 2] c' vs ∧ destOk cE 4 true = true) :=
  ⟨⟨_, _, reads_of (issE _ rfl) rfl rfl, rfl⟩, ⟨_, _, reads_of (issE _ rfl) rfl rfl⟩, ⟨_, _, reads_of (issE _ rfl) rfl rfl⟩,
   ⟨_, _, reads_of (issE _ rfl) rfl rfl, rfl⟩⟩

/-- Condition 5 is the last one of integers; kind 2 the last of VOTE. -/
theorem witness_PredicateWritesComplete :
    ((5#3).toNat < 6 ∧ ∃ c' vs, Reads cE.s .both cE 7 [op32 .int 1] c' vs ∧ destOk cE 0 false = true) ∧
    (∃ c' vs, Reads cE.s .both cE 7 [op64 2] c' vs ∧ destOk cE 0 true = true) ∧
    (∃ c' vs, Reads cE.s .executeOnly cE 7 [op32 .f32 1] c' vs) ∧ (∃ c' vs, Reads cE.s .executeOnly cE 7 [op32 .h2 1] c' vs) ∧
    Issues cE.s .both cE ∧ (2#2 ≠ 3 ∧ ∃ c' vs, Reads cE.s .both cE 7 [op32 .int 1] c' vs) :=
  ⟨⟨by decide, _, _, reads_of (issE _ rfl) rfl rfl, rfl⟩, ⟨_, _, reads_of (issE _ rfl) rfl rfl, rfl⟩, ⟨_, _, reads_of (issE _ rfl) rfl rfl⟩,
   ⟨_, _, reads_of (issE _ rfl) rfl rfl⟩, issE _ rfl, by decide, _, _, reads_of (issE _ rfl) rfl rfl⟩

/-- LFOLD 7 is the last integer fold, 10 the last one. -/
theorem witness_LaneExchangesComplete :
    (∃ c' vs, Reads cE.s .both cE 7 [op32 .int 0, op32 .int 0x71] c' vs ∧ destOk cE 7 false = true ∧ (0#7).toNat < 0x40) ∧
    (∃ c' vs, (7#4).toNat < 8 ∧ Reads cA.s .both cA 7 [op32 .int 0] c' vs) ∧
    (∃ c' vs, (10#4).toNat ≤ 10 ∧ cE.w.role = .execute ∧ Reads cE.s .both cE 7 [op32 .f32 0] c' vs) ∧
    (∃ c' vs, cA.act 15 = 0 ∧ Reads cA.s .both cA 15 [op32 .int 0] c' vs) ∧
    (∃ c' vs, cA.act 7 ≠ 0 ∧ (op32 .int 7).ok cA = true ∧ Reads cA.s .both cA 7 [op32 .int 0x71] c' vs) ∧
    (Issues cA.s .both cA ∧ destOk cA 6 true = true) :=
  ⟨⟨_, _, reads_of (issE _ rfl) rfl rfl, rfl, by decide⟩, ⟨_, _, by decide, reads_of (issA _ rfl) rfl rfl⟩,
   ⟨_, _, by decide, rfl, reads_of (issE _ rfl) rfl rfl⟩, ⟨_, _, rfl, reads_of (issA _ rfl) rfl rfl⟩,
   ⟨_, _, by decide, rfl, reads_of (issA _ rfl) rfl rfl⟩, issA _ rfl, rfl⟩

/-- Queue 0, from access warp 0 to execute warp 0, of two 32-bit entries; one entry stands in it whose lanes are in a state. -/
def queueOf (st : LaneState) (count : Nat) : Queue :=
  { num := 0, width := 1, dir := false, prod := 0, cons := 0, base := 0, cap := 2, head := 0, count := count, eos := false, lastinv := 0
    entries := [{ lanes := List.replicate 32 { QLane.empty with st := st, data := 5 }, flag := none, by_ := 0, op := 0, keyovr := none }, QEntry.empty] }
def queueCtx (role : Role) (st : LaneState) (count : Nat) : Ctx :=
  ctxOf State.reset { team role with queues := [queueOf st count] } (warp role) split
theorem issQ (role : Role) (st : LaneState) (n : Nat) : Issues (queueCtx role st n).s .both (queueCtx role st n) :=
  ⟨issuing_ctxOf _ _ _ _ rfl, by cases role <;> rfl⟩

theorem witness_QueuesComplete :
    (let c := queueCtx .access .valid 1
     c.act 7 ≠ 0 ∧ c.t.queue? 0 = some (queueOf .valid 1) ∧ isProducer (queueOf .valid 1) c.w = true ∧ (queueOf .valid 1).canReserve = true ∧
     ∃ c' vs, c'.t.queue? 0 = some (queueOf .valid 1) ∧ Reads c.s .both c 7 [{ spec := 0, wide := false, cls := .int }] c' vs) ∧
    (let c := queueCtx .execute .valid 1
     c.act 7 ≠ 0 ∧ isConsumer (queueOf .valid 1) c.w = true ∧ destOk c 7 false = true ∧ (queueOf .valid 1).count ≠ 0 ∧
     popFate c.s c.t [(queueOf .valid 1).entryAt 0] (c.act 7) = .ok ∧ (0#7).toNat + 1 ≤ (queueOf .valid 1).count ∧
     (∃ y, (c.dropHead 0 1).t.queue? 0 = some y)) ∧
    (let c := queueCtx .execute .tent 1
     c.t.queue? 0 = some (queueOf .tent 1) ∧ inMask (c.act 7) 0 = true ∧ (((queueOf .tent 1).entryAt 0).lane 0).st = .tent ∧ (queueOf .valid 0).count = 0) :=
  ⟨⟨by decide, rfl, rfl, rfl, _, _, rfl, reads_of (issQ _ _ _) rfl rfl⟩,
   ⟨by decide, rfl, rfl, by decide, by decide, by decide, _, rfl⟩, rfl, by decide, rfl, rfl⟩

/-- The same with a poisoned entry that names record n, and with the record of VA 0x2000 at 63, the last entry. -/
def poisonQueue (n : DWord) : Queue := { queueOf .poison 1 with entries := (queueOf .poison 1).entries.map (fun e => { e with lanes := e.lanes.map (fun l => { l with data := n }) }) }
def poisonCtx (n : DWord) : Ctx :=
  ctxOf (State.reset.updCore 0 (fun k => { k with poison := updAt k.poison 63 (fun _ => some { cause := causeNOMAP, va := 0x2000, team := 1, queue := 0, lane := 0 }) }))
    { team .execute with queues := [poisonQueue n] } (warp .execute) split

/-- A poisoned head entry whose record is there, is not, and that names none (0x7F), popped by all lanes and by the last; an entry whose delivery waits, since a lane of queue 1's entry before it is read again. -/
theorem witness_QueuesHeld :
    (∀ n : DWord, n = 63 ∨ n = 0 ∨ n = 127 → let c := poisonCtx n
     Issues c.s .both c ∧ c.act 7 ≠ 0 ∧ c.t.queue? 0 = some (poisonQueue n) ∧ isConsumer (poisonQueue n) c.w = true ∧ destOk c 7 false = true ∧ (poisonQueue n).count ≠ 0 ∧
     popPoisoned c.s c.t ((poisonQueue n).entryAt 0) (c.act 7) (trapAddr causePOISON (if n = 63 then 0x2000 else 0) 0) ∧
     popPoisoned c.s c.t ((poisonQueue n).entryAt 0) 0x80000000 (trapAddr causePOISON (if n = 63 then 0x2000 else 0) 31)) ∧
    (let q : Queue := { queueOf .valid 1 with entries := (queueOf .valid 1).entries.map (fun e => { e with op := 5 }) }
     let c := ctxOf State.reset { team .execute with queues := [q, { queueOf .refetch 1 with num := 1, dir := true }] } (warp .execute) split
     Issues c.s .both c ∧ c.t.queue? 0 = some q ∧ isConsumer q c.w = true ∧ q.count ≠ 0 ∧ (q.entryAt 0).held c.s c.t = true) ∧
    readsOwed (queueCtx .execute .valid 1).s (queueCtx .execute .valid 1).t 0 ((queueCtx .execute .valid 1).act 7) = false := by
  refine ⟨?_, ⟨⟨issuing_ctxOf _ _ _ _ rfl, rfl⟩, rfl, rfl, by decide, by decide⟩, by decide⟩
  rintro n (rfl | rfl | rfl)
  · exact ⟨⟨issuing_ctxOf _ _ _ _ rfl, rfl⟩, by decide, rfl, rfl, by decide, by decide,
      ⟨by decide, by decide, 0, by decide, by decide, by decide, by decide, by decide, fun r _ h => by cases h; rfl, fun _ h => absurd ⟨_, rfl⟩ h⟩,
      ⟨by decide, by decide, 31, by decide, by decide, by decide, by decide, by decide, fun r _ h => by cases h; rfl, fun _ h => absurd ⟨_, rfl⟩ h⟩⟩
  · exact ⟨⟨issuing_ctxOf _ _ _ _ rfl, rfl⟩, by decide, rfl, rfl, by decide, by decide,
      ⟨by decide, by decide, 0, by decide, by decide, by decide, by decide, by decide, nofun, fun _ _ => rfl⟩,
      ⟨by decide, by decide, 31, by decide, by decide, by decide, by decide, by decide, nofun, fun _ _ => rfl⟩⟩
  · exact ⟨⟨issuing_ctxOf _ _ _ _ rfl, rfl⟩, by decide, rfl, rfl, by decide, by decide,
      ⟨by decide, by decide, 0, by decide, by decide, by decide, by decide, fun _ => rfl, fun _ h => absurd rfl h, fun h => absurd rfl h⟩,
      ⟨by decide, by decide, 31, by decide, by decide, by decide, by decide, fun _ => rfl, fun _ h => absurd rfl h, fun h => absurd rfl h⟩⟩

/-! ## Statements about scratchpad, memory and control flow -/

/-- One lane. -/
def lane1 : Split := { split with mask := 1 }
/-- A team with ring 0 of two slots of 64 bytes, its first granule full; v2:v3 hold the base of scratchpad. -/
def ringTeam (role : Role) : Team :=
  let t := team role
  { t with rings := [{ num := 0, off := 0, slotSize := 64, count := 2 }], scr := { t.scr with full := { cells := [(0, 1), (1, 1), (2, 1), (3, 1)], fill := .zero } } }
def ringWarp (role : Role) : Warp := (warp role).setV 3 1 (fun _ => BitVec.ofNat 32 (scratchBase / 2 ^ 32))
def ringCtx (role : Role) : Ctx := ctxOf State.reset (ringTeam role) (ringWarp role) lane1
theorem issR (role : Role) (r : Roles) (h : r.allows role = true) : Issues (ringCtx role).s r (ringCtx role) :=
  ⟨issuing_ctxOf _ _ _ _ rfl, h⟩

/-- Handle 0 is slot 0 of ring 0; the range 0 is the whole slot, and word 60 its last. -/
theorem witness_SlotsComplete :
    (∃ c' vs, (ringCtx .execute).act 7 ≠ 0 ∧ Reads (ringCtx .execute).s .both (ringCtx .execute) 7 [op32 .int 0x70, op32 .int 0x70] c' vs ∧
      (∀ L ∈ lanesOf ((ringCtx .execute).act 7), (granuleRange (ringCtx .execute).t (loWord (val vs 0 L)) (loWord (val vs 1 L))).isSome = true) ∧
      ∀ x ∈ ranges (ringCtx .execute) ((ringCtx .execute).act 7) vs, slotPoisonOf c'.s c'.t x.2.1 = none ∧ rangeFull c'.t x.2.2.1 x.2.2.2 = true) ∧
    (∃ c' vs, Reads (ringCtx .access).s .both (ringCtx .access) 7 [op32 .int 0x70, op32 .int 0x76] c' vs ∧
      (∀ L ∈ lanesOf ((ringCtx .access).act 7), ∃ off, wordCheck (ringCtx .access).t (loWord (val vs 0 L)) (loWord (val vs 1 L)) = .inr off) ∧
      ∀ x ∈ words (ringCtx .access) ((ringCtx .access).act 7) vs, slotPoisonOf c'.s c'.t x.2.1 = none ∧ granuleFull c'.t (x.2.2 / 16) = true) := by
  refine ⟨⟨_, _, by decide, reads_of (issR _ _ rfl) rfl rfl, by decide, by decide⟩, _, _, reads_of (issR _ _ rfl) rfl rfl, ?_, by decide⟩
  intro L hL
  have : L = 0 := by revert L; decide
  subst this
  exact ⟨16, rfl⟩

/-- Core 0 records the poison of slot 1 of ring 0. -/
def slotPoisoned : Ctx :=
  ctxOf (State.reset.updCore 0 (fun k => { k with slotPoison := [{ team := 1, ring := 0, slot := 1, cause := causeNOMAP, va := 0x2000 }] })) (ringTeam .access)
    ((ringWarp .access).setS 0 0x10000) lane1

theorem handleFault_ring {t : Team} {r : Ring} {h : Word} (hr : t.ring? (handleRing h) = some r) :
    handleFault t h ↔ r.count ≤ handleSlot h ∨ bitsOf h 0 16 ≠ 0 := by
  refine ⟨fun x => ?_, fun x => .inr ⟨r, hr, x⟩⟩
  rcases x with x | ⟨r', x, y⟩
  · rw [hr] at x; cases x
  · rw [hr] at x; cases x; exact y

/-- One lane is the lowest for what holds of it. -/
theorem lowest_one (p : Nat → Prop) (h : p 0) : lowest [0] p 0 := ⟨List.mem_cons_self, h, fun _ _ hlt => absurd hlt (Nat.not_lt_zero _)⟩

/-- Handles of no ring, of slot 2 of two, and with a low bit set; a range that ends one granule past the last, and one that ends with it; words 62 of a slot of 64 bytes, misaligned, and 64, the first past its end, beside 60, its last; slot 1 is poisoned. -/
theorem witness_SlotsTrap :
    (let t := ringTeam .access
     handleFault t 0x10000000 ∧ handleFault t 0x00020000 ∧ handleFault t 1 ∧ ¬handleFault t 0x00010000 ∧
     rangeFault t 0 (3 * 2 ^ 16 + 2) ∧ ¬rangeFault t 0 (3 * 2 ^ 16 + 1) ∧
     wordFault t 0 62 causeALIGN ∧ wordFault t 0 64 causeRINGBND ∧ wordFault t 0x00020000 62 causeRINGBND ∧ ¬wordFault t 0 60 causeRINGBND) ∧
    (let c := ringCtx .access
     lanesOf (c.act 7) = [0] ∧ ∃ c' vs, Reads c.s .both c 7 [op32 .int 0x71, op32 .int 0x70] c' vs ∧ loWord (val vs 0 0) = 1) ∧
    (let c := slotPoisoned
     lanesOf (c.act 7) = [0] ∧ destOk c 7 false = true ∧ (∃ c' vs, Reads c.s .both c 7 [op32 .int 0x40, op32 .int 0x70] c' vs ∧ loWord (val vs 0 0) = 0x10000 ∧
       c' = c ∧ (granuleRange c.t (loWord (val vs 0 0)) (loWord (val vs 1 0))).isSome = true ∧ ∃ off, wordCheck c.t (loWord (val vs 0 0)) (loWord (val vs 1 0)) = .inr off) ∧
     ∃ p, slotPoisonOf c.s c.t 0x10000 = some p ∧ p.va = 0x2000) ∧
    (let c := ringCtx .access
     readsOwed c.s c.t c.wi (c.act 7) = false ∧ c.wordsHeld 3 = false) := by
  have r0 : (ringTeam .access).ring? (handleRing 0) = some { num := 0, off := 0, slotSize := 64, count := 2 } := rfl
  have n0 : ¬handleFault (ringTeam .access) 0 := by rw [handleFault_ring r0]; decide
  refine ⟨⟨.inl rfl, .inr ⟨_, rfl, by decide⟩, .inr ⟨_, rfl, by decide⟩, by rw [handleFault_ring (r := { num := 0, off := 0, slotSize := 64, count := 2 }) rfl]; decide,
    ⟨_, r0, n0, by decide⟩, ?_, .inr (.inl ⟨n0, by decide, rfl⟩), .inr (.inr ⟨_, r0, n0, by decide, by decide, rfl⟩), .inl ⟨.inr ⟨_, rfl, by decide⟩, rfl⟩, ?_⟩,
    ⟨by decide, _, _, reads_of (issR _ _ rfl) rfl rfl, by decide⟩,
    ⟨by decide, by decide, ⟨_, _, reads_of ⟨issuing_ctxOf _ _ _ _ rfl, rfl⟩ rfl rfl, by decide, rfl, by decide, _, rfl⟩, _, rfl, by decide⟩, by decide, by decide⟩
  · rintro ⟨r, h, _, x⟩; rw [r0] at h; cases h; revert x; decide
  · rintro (⟨h, -⟩ | ⟨-, h, -⟩ | ⟨r, h, -, -, x, -⟩)
    · exact n0 h
    · revert h; decide
    · rw [r0] at h; cases h; revert x; decide

/-- Byte 0 of scratchpad in one lane: acquire and release forms are aligned there. -/
theorem witness_LoadsAndStoresComplete :
    let c := ringCtx .access
    Issues c.s .accessOnly c ∧ c.act 7 ≠ 0 ∧ (5#3).toNat ≤ 5 ∧ baseOk c 2 = true ∧ dataOk c 4 16 = true ∧
    (∃ ls es, checkLanes c (c.act 7) 2 .data .r 16 16 = .ok ls es ∧ (∀ x ∈ ls, elemL2Poisoned c.s x.2 = false) ∧ mayAccess c ls = true ∧
      unverified c 1 5 ls = false) ∧
    releaseReady c (c.act 7) 5 = true ∧ (∃ ls es, checkLanes c (c.act 7) 2 .data .w 16 16 = .ok ls es ∧ mayAccess c ls = true) :=
  ⟨issR _ _ rfl, by decide, by decide, rfl, rfl, ⟨_, _, rfl, by decide, by decide, by decide⟩, by decide, _, _, rfl, by decide⟩

theorem witness_AtomicsComplete :
    let c := ringCtx .access
    Issues c.s .accessOnly c ∧ c.act 7 ≠ 0 ∧ baseOk c 2 = true ∧ atomicOk c 4 ⟨8, true⟩ = true ∧
    (∃ ls es, checkLanes c (c.act 7) 2 .atomic .rw 8 8 = .ok ls es ∧ (∀ x ∈ ls, elemL2Poisoned c.s x.2 = false) ∧
      (∀ st ∈ (c.s.core c.t.core).stores, sharesByte st.bytes (placeAddrs ls) = false) ∧ mayAccess c ls = true ∧
      unverified c 3 3 ls = false) ∧ bitOf (3#2) 1 = true ∧ releaseReady c (c.act 7) 3 = true :=
  ⟨issR _ _ rfl, by decide, rfl, rfl, ⟨_, _, rfl, by decide, by decide, by decide, by decide⟩, by decide, by decide⟩

/-- The same with queue 0, produced here for LDQ and consumed here for STQ. -/
def ldqCtx : Ctx := ctxOf State.reset { ringTeam .access with queues := [queueOf .valid 1] } (ringWarp .access) lane1
def stqCtx : Ctx := ctxOf State.reset { ringTeam .access with queues := [{ queueOf .valid 1 with dir := true }] } (ringWarp .access) lane1

theorem witness_QueueMemoryComplete :
    (Issues ldqCtx.s .accessOnly ldqCtx ∧ ldqCtx.act 7 ≠ 0 ∧ ldqCtx.t.queue? 0 = some (queueOf .valid 1) ∧
      isProducer (queueOf .valid 1) ldqCtx.w = true ∧ (queueOf .valid 1).dir = false ∧ (queueOf .valid 1).width = 1 ∧ baseOk ldqCtx 2 = true ∧
      (queueOf .valid 1).canReserve = true ∧
      ∃ ok, (lanesOf (ldqCtx.act 7)).map (fun L => (L, ldqLane ldqCtx 4 (ldqCtx.ea 2 L) L)) = ok.map (fun x => (x.1, Sum.inr x.2)) ∧
        (∀ x ∈ ok, elemL2Poisoned ldqCtx.s x.2.2.2 = false) ∧ pagesFit ldqCtx.s ldqCtx.t.core ldqCtx.t.ident.job (missedPages ok) = true ∧
        mayAccess ldqCtx (ldqHits ok) = true) ∧
    (Issues stqCtx.s .accessOnly stqCtx ∧ isConsumer { queueOf .valid 1 with dir := true } stqCtx.w = true ∧
      ∃ e ls tl, popEntries stqCtx.t [0] = some [e] ∧ popFate stqCtx.s stqCtx.t [e] (stqCtx.act 7) = .ok ∧
        checkLanes stqCtx (stqCtx.act 7) 2 .data .w 4 4 = .ok ls tl ∧ mayAccess stqCtx ls = true ∧
        readsOwed stqCtx.s stqCtx.t stqCtx.wi (stqCtx.act 7) = false) := by
  refine ⟨⟨⟨issuing_ctxOf _ _ _ _ rfl, rfl⟩, by decide, rfl, rfl, rfl, rfl, rfl, rfl, ?_⟩, ⟨issuing_ctxOf _ _ _ _ rfl, rfl⟩, rfl, _, _, _, rfl, by decide, rfl, by decide⟩
  exact ⟨(lanesOf (ldqCtx.act 7)).map (fun L => (L, (ldqLane ldqCtx 4 (ldqCtx.ea 2 L) L).getRight?.getD (.miss [], [], []))), rfl, by decide, by decide, by decide⟩

theorem witness_FullEmptyComplete :
    let c := ringCtx .access
    Issues c.s .accessOnly c ∧ c.act 7 ≠ 0 ∧ destOk c 4 false = true ∧ baseOk c 2 = true ∧
    (∃ ls es, checkLanes c (c.act 7) 2 .fullEmpty .r 4 4 = .ok ls es ∧ (∀ k ∈ granulesOf ls, granuleFull c.t k = true) ∧ c.heldHere (granulesOf ls) = false ∧
      readsOwed c.s c.t c.wi (c.act 7) = false ∧ ∃ k ∈ granulesOf ls, granuleFull c.t k = true) ∧
    (let e := ctxOf State.reset (team .access) (ringWarp .access) lane1
     ∃ ls es, checkLanes e (e.act 7) 2 .fullEmpty .w 4 4 = .ok ls es ∧ ∀ k ∈ granulesOf ls, granuleFull e.t k = false ∧ e.t.filling k = false) :=
  ⟨issR _ _ rfl, by decide, rfl, rfl, ⟨_, _, rfl, by decide, by decide⟩, _, _, rfl, by decide⟩

/-- Ranges of no bytes, as v4 holds zero. -/
theorem witness_CacheAndOrderComplete :
    let c := ringCtx .access
    Issues c.s .accessOnly c ∧ baseOk c 2 = true ∧ (5#3).toNat ≤ 5 ∧ releaseReady c (c.act 7) 5 = true ∧ c.act 7 ≠ 0 ∧
    destOk c 4 false = true ∧ checkRanges c (c.act 7) 2 4 .w = .inr [] ∧ checkRanges c (c.act 7) 2 4 .r = .inr [] ∧
    (∀ st ∈ rangeStores c.s c.t.core [], st.stream = none) :=
  ⟨issR _ _ rfl, rfl, by decide, by decide, by decide, rfl, rfl, rfl, by decide⟩

/-- A split of two lanes, of which p0 holds lane 0. -/
def lanes2 : Split := { split with mask := 3 }
def forkCtx : Ctx := ctxOf State.reset (team .access) ((warp .access).setP 0 1 (fun _ => true)) lanes2
theorem issF : Issues forkCtx.s .both forkCtx := ⟨issuing_ctxOf _ _ _ _ rfl, rfl⟩

theorem witness_BranchesComplete :
    (cA.p.mask ≠ 0 ∧ cA.act 7 = cA.p.mask ∧ cA.act 15 = 0 ∧ bitsOf (0 : DWord) 0 2 = 0 ∧
      (∀ L, L < 32 → inMask cA.p.mask L = true → cA.w.v64 6 L = 0) ∧ (op64 0x40).ok cA = true ∧
      (∀ L, L < 32 → inMask cA.p.mask L = true → (op64 0x40).value cA L = 0)) ∧
    (Issues forkCtx.s .both forkCtx ∧ forkCtx.act 0 ≠ 0 ∧ forkCtx.act 0 ≠ forkCtx.p.mask) ∧
    (let c := ctxOf State.reset (team .access) ((warp .access).setV 6 2 (fun _ => 2)) lanes2
     Issues c.s .both c ∧ laneList.find? (fun L => inMask (c.act 7) L && bitsOf (c.w.v64 6 L) 0 2 != 0) = some 1 ∧ (op64 6).ok c = true ∧
     laneList.find? (fun L => inMask (c.act 7) L && bitsOf ((op64 6).value c L) 0 2 != 0) = some 1) :=
  ⟨⟨by decide, by decide, by decide, by decide, by decide, rfl, by decide⟩, ⟨issF, by decide, by decide⟩,
   ⟨issuing_ctxOf _ _ _ _ rfl, rfl⟩, by decide, rfl, by decide⟩

/-- The same with the table full of live or parked splits beside the issuing one, and a spill area of one entry. -/
def fullCtx (st : SplitState) (spilled : List Split) : Ctx :=
  let o (n : Nat) : Split := { split with seq := BitVec.ofNat 16 n, st := st }
  let w : Warp := { (warp .access).setP 0 1 (fun _ => true) with
    table := lanes2 :: (List.range 7).map (fun n => o (n + 1)), seqCtr := 8, spilled := spilled }
  let t := team .access
  let t : Team := { t with ident := { t.ident with kern := { t.ident.kern with spill := 1 } }, warps := [w] }
  { s := { State.reset with teams := [t], cur := some { team := 1, warp := 0, seq := 0 } }, t := t, w := w, p := lanes2, wi := 0 }

/-- SLEEP of one cycle and of none; YIELD alone and beside a parked split. -/
theorem witness_MergeYieldSleepComplete :
    cA.p.parent = none ∧ cA.w.waiting = [] ∧ (∃ c' vs, Reads cA.s .both cA 7 [op32 .int 0x71] c' vs ∧ cA.act 7 ≠ 0 ∧
      min (val vs 0 (lane0 (cA.act 7))).toNat 0xFFFFFF ≠ 0) ∧
    (∃ c' vs, Reads cA.s .both cA 7 [op32 .int 0x70] c' vs ∧ min (val vs 0 (lane0 (cA.act 7))).toNat 0xFFFFFF = 0) ∧
    (let p : Split := { split with st := .live }
     let n : Split := { split with seq := 1, st := .parked }
     let w : Warp := { warp .access with table := [p, n], slots := [{ seq := some 0, issued := 0 }, { seq := none, issued := 0 }], seqCtr := 2 }
     let t : Team := { team .access with warps := [w] }
     let c : Ctx := { s := { State.reset with teams := [t], cur := some { team := 1, warp := 0, seq := 0 } }, t := t, w := w, p := p, wi := 0 }
     Issues c.s .both c ∧ c.inHandler = false ∧ c.p.st = .live ∧ c.w.slots.findIdx? (fun l => l.seq == some c.p.seq) = some 0 ∧
     c.w.chosen = some n ∧ findSplit c.w.table n.seq = some n ∧ n.seq ≠ c.p.seq) :=
  ⟨rfl, rfl, ⟨_, _, reads_of (issA _ rfl) rfl rfl, by decide, by decide⟩, ⟨_, _, reads_of (issA _ rfl) rfl rfl, by decide⟩,
   ⟨⟨rfl, rfl⟩, rfl⟩, rfl, rfl, rfl, rfl, rfl, by decide⟩

/-- A child of two lanes at its parent's MPC, the parent waiting for them. -/
def childCtx : Ctx :=
  let q : Split := { split with seq := 0, mpc := 0x1000, st := .waitingMerge, mask := 3 }
  let p : Split := { split with seq := 1, parent := some 0, mask := 3 }
  let w : Warp := { warp .access with table := [q, p], exited := ~~~3 }
  let t : Team := { team .access with warps := [w] }
  { s := { State.reset with teams := [t], cur := some { team := 1, warp := 0, seq := 1 } }, t := t, w := w, p := p, wi := 0 }

theorem witness_MergeArrives :
    let q : Split := { split with seq := 0, mpc := 0x1000, st := .waitingMerge, mask := 3 }
    Issues childCtx.s .both childCtx ∧ childCtx.inHandler = false ∧ childCtx.w.spilled = [] ∧ childCtx.p.parent = some q.seq ∧
    q.seq ≠ childCtx.p.seq ∧ findSplit childCtx.w.table q.seq = some q ∧ q.st = .waitingMerge ∧ q.mpc = childCtx.p.pc ∧
    q.mask &&& ~~~childCtx.w.exited ≠ 0 ∧ lanesDone childCtx.s childCtx.t childCtx.wi (q.mask &&& ~~~childCtx.w.exited) childCtx.s.nextId = true :=
  ⟨⟨⟨rfl, rfl⟩, rfl⟩, rfl, rfl, rfl, by decide, rfl, rfl, rfl, by decide, by decide⟩

/-- A team with an exchange area and XPASS clear. -/
def exchCtx : Ctx := ctxOf State.reset { team .access with scr := { (team .access).scr with exch := 16 } } (warp .access) split

theorem witness_ExitCompletes :
    (forkCtx.act 0 ≠ 0 ∧ forkCtx.p.mask &&& ~~~(forkCtx.act 0) ≠ 0 ∧ lastExit forkCtx (forkCtx.act 0) = false) ∧
    (let c := ctxOf State.reset { team .access with trap := { (team .access).trap with handler := some { warp := 0, seq := 0, stood := 0x1000, arrival := none } } }
       (warp .access) split
     Issues c.s .both c ∧ c.act 7 ≠ 0 ∧ c.inHandler = true ∧ releaseReady c (c.act 7) 3 = true ∧ lastExit c (c.act 7) = true) ∧
    (Issues cA.s .both cA ∧ cA.act 7 ≠ 0 ∧ cA.p.mask &&& ~~~(cA.act 7) = 0 ∧ cA.inHandler = false ∧ cA.t.scr.exch = 0 ∧ cA.act 15 = 0) ∧
    (Issues exchCtx.s .both exchCtx ∧ exchCtx.act 7 ≠ 0 ∧ lastExit exchCtx (exchCtx.act 7) = true ∧ 0 < exchCtx.t.scr.exch ∧
      exchCtx.t.scr.xpass = false) :=
  ⟨⟨by decide, by decide, by decide⟩, ⟨⟨issuing_ctxOf _ _ _ _ rfl, rfl⟩, by decide, by decide, by decide, by decide⟩,
   ⟨issA _ rfl, by decide, by decide, rfl, rfl, by decide⟩, ⟨issuing_ctxOf _ _ _ _ rfl, rfl⟩, by decide, by decide, by decide, rfl⟩

/-- The small machine with its split in the handler. -/
def handlerTeam (role : Role) : Team :=
  let t := team role
  { t with status := .halted, trap := { t.trap with handler := some { warp := 0, seq := 0, stood := 0x1000, arrival := none } } }
def handlerCtx (role : Role) : Ctx := ctxOf State.reset (handlerTeam role) (warp role) split
theorem issH (role : Role) (r : Roles) (h : r.allows role = true) : Issues (handlerCtx role).s r (handlerCtx role) :=
  ⟨issuing_ctxOf _ _ _ _ rfl, h⟩

/-- Barrier 15, the last, in the set 0; set 2 is the last one that is no ILLOP. -/
theorem witness_BarriersComplete :
    ((handlerCtx .access).inHandler = true) ∧
    ((2#2) ≠ 3 ∧ cA.inHandler = false ∧ cA.act 7 ≠ 0 ∧ cA.p.arrival = none ∧ (cA.t.bar 15).pending = [] ∧ inSet 0 cA.w = true ∧
      ({ num := 0, set := 0, arrived := [{ warp := 0, lanes := cA.act 7, mark := cA.s.nextId }] } : BarInstance).complete cA.s cA.team = true ∧
      (15#4).toNat < cA.t.bars.length) ∧
    (let c := ctxOf State.reset { team .access with warps := [] } (warp .access) split
     let t : Team := { c.t with warps := [c.w, c.w] }
     let c : Ctx := { c with t := t, s := { c.s with teams := [t] } }
     Issues c.s .both c ∧ ({ num := 0, set := 0, arrived := [{ warp := 0, lanes := c.act 7, mark := c.s.nextId }] } : BarInstance).complete
       c.s c.team = false) ∧
    (launchCbar cA.s cA.t.ident.launch).pending = [] ∧
    (let c := ctxOf State.reset (team .execute) (warp .execute) { split with arrival := some (.cbar 0) }
     Issues c.s .both c ∧ c.p.arrival = some (.cbar 0) ∧ ∀ i ∈ (launchCbar c.s c.t.ident.launch).pending, i.num ≠ 0) ∧
    (let c := ctxOf (setCbar State.reset 3 { next := 1, pending := [{ num := 0, arrived := [] }] }) (team .execute) (warp .execute)
       { split with arrival := some (.cbar 0) }
     Issues c.s .both c ∧ ∃ i ∈ (launchCbar c.s c.t.ident.launch).pending, i.num = 0) :=
  ⟨by decide, ⟨by decide, rfl, by decide, rfl, rfl, by decide, by decide, by decide⟩, ⟨⟨⟨rfl, rfl⟩, rfl⟩, by decide⟩, rfl,
   ⟨⟨issuing_ctxOf _ _ _ _ rfl, rfl⟩, rfl, by decide⟩, ⟨issuing_ctxOf _ _ _ _ rfl, rfl⟩, by decide⟩

/-! ## Statements about matrix, streams, tasks, regroup and traps -/

theorem witness_SideWordsComplete :
    (flagNameOk 11 = true ∧ flagNameOk 15 = true ∧ cA.p.immRun = 0 ∧ (∀ i, i < 12 → bitOf (0xFFF : BitVec 12) i = true → cA.w.flags.getD i 0 = 0)) ∧
    (let c := ctxOf State.reset (team .access) { warp .access with flags := List.replicate 12 1 } split
     Issues c.s .both c ∧ ∃ i, i < 12 ∧ bitOf (0x800 : BitVec 12) i = true ∧ c.w.flags.getD i 0 ≠ 0) ∧
    ¬(flagNameOk 12 = true) ∧ cA.p.immRun < 2 ∧
    (let c := ctxOf State.reset (team .access) (warp .access) { split with immRun := 2 }
     Issues c.s .both c ∧ 2 ≤ c.p.immRun) :=
  ⟨⟨rfl, rfl, rfl, by decide⟩, ⟨⟨issuing_ctxOf _ _ _ _ rfl, rfl⟩, 11, by decide, by decide, by decide⟩, by decide, by decide,
   ⟨issuing_ctxOf _ _ _ _ rfl, rfl⟩, by decide⟩

/-- A reserved opcode; words of assigned opcodes that match no row: one of each role, and a privileged one outside and in a handler. -/
theorem witness_ReservedWordsTrap :
    opcodeAssigned (bitsOf (0x4F700000 : Word) 24 8) = false ∧
    (opcodeAssigned (bitsOf (0xB1782246 : Word) 24 8) = true ∧ (opcodeRoles (bitsOf (0xB1782246 : Word) 24 8)).allows cA.w.role = false) ∧
    ((opcodeRoles (bitsOf (0xE3704000 : Word) 24 8)).allows cA.w.role = true ∧ wordPrivileged 0xE3704000 = true ∧ cA.inHandler = false) ∧
    ((handlerCtx .access).inHandler = true ∧ wordPrivileged 0xC3740000 = false ∧ operandOnly 0xE7700081 = true) := by decide

/-- A team with one tile and ring 0 of one slot of 1024 bytes, full; s4 and s5 hold its handle, s6 INT4 with K = 32. -/
def mtxCtx : Ctx :=
  let t := team .execute
  ctxOf State.reset
    { t with mtx := { t.mtx with tiles := [0] }, rings := [{ num := 0, off := 0, slotSize := 1024, count := 1 }]
             scr := { t.scr with full := { cells := (List.range 64).map (fun i => (i, 1)), fill := .zero } } }
    ((warp .execute).setS 6 4) lane1
theorem issM : Issues mtxCtx.s .executeOnly mtxCtx := ⟨issuing_ctxOf _ _ _ _ rfl, rfl⟩

/-- A request of team 1 on tile 0, and the small machine with so many of them posted. -/
def request : MtxReq := { id := 7, team := 1, members := [], word := 0, vals := [], tiles := [0], full := false, prio := 0, allowance := 0, snap := [], units := [], more := 0 }
def busyCtx (n : Nat) (unwaited : List Nat) : Ctx :=
  ctxOf { State.reset with clusters := State.reset.clusters.map (fun k => { k with
      table := List.replicate n request, tiles := k.tiles.map (fun x => { x with unwaited := unwaited }) }) }
    mtxCtx.t ((warp .execute).setS 6 4) lane1

theorem witness_MatrixRequestsComplete :
    let o := mtxOp 0xB1 false [0, 0, 4]
    gangOf mtxCtx.t mtxCtx.w = none ∧ tilesOk mtxCtx 0 0 = true ∧ isSPair 0x44 = true ∧ isSReg 0x46 = true ∧
    bitsOf ((encode (.mma ⟨7, 0, 0, 0x44, 0x46⟩)).getD 0) 24 8 = 0xB1 ∧ mtxCtx.w.sr 6 = 4 ∧ o.ok 4 = true ∧ mtxCtx.act 7 ≠ 0 ∧ mtxCtx.act 15 = 0 ∧
    (∀ r ∈ o.regions, (r.place mtxCtx.t).isSome ∧ slotPoisonOf mtxCtx.s mtxCtx.t r.handle = none) ∧
    (∀ r ∈ o.regions, r.place mtxCtx.t = some 0 ∧ ∀ k ∈ regionGranules 0 r.bytes, granuleFull mtxCtx.t k = true) ∧
    (mtxCtx.s.cluster mtxCtx.cluster).table.length < 32 ∧
    (let c := ctxOf State.reset { mtxCtx.t with scr := (team .execute).scr } ((warp .execute).setS 6 4) lane1
     (∀ r ∈ o.regions, (r.place c.t).isSome ∧ slotPoisonOf c.s c.t r.handle = none) ∧
     ∃ r ∈ o.regions, r.place c.t = some 0 ∧ ∃ k ∈ regionGranules 0 r.bytes, granuleFull c.t k = false) ∧
    (let c := busyCtx 32 []
     (∀ r ∈ o.regions, (r.place c.t).isSome ∧ slotPoisonOf c.s c.t r.handle = none) ∧ 32 ≤ (c.s.cluster c.cluster).table.length) ∧
    ((mtxOp 0xB1 true [0, 0, 4]).regions.find? (fun r => (r.place mtxCtx.t).isNone)).isSome := by decide

theorem witness_TileElementsComplete :
    tilesOk mtxCtx 0 0 = true ∧ mtxCtx.act 7 ≠ 0 ∧ (∃ c' vs, Reads mtxCtx.s .executeOnly mtxCtx 7 [op32 .int 1] c' vs ∧
      (c'.s.tile c'.cluster (c'.t.mtx.tiles.getD 0 0)).unwaited = []) ∧ regOk mtxCtx 7 = true ∧ tileSpecOk 0x70 = true ∧
    (op32 .int 0x70).ok mtxCtx = true ∧ bitsOf ((op32 .int 0x70).value mtxCtx 0) 0 4 < mtxCtx.t.mtx.tiles.length :=
  ⟨by decide, by decide, ⟨_, _, reads_of issM rfl rfl, by decide⟩, by decide, by decide, by decide, by decide⟩

/-- INT8 codes (5) of 64 rows fill four slots of this ring's size, so the drain's ring is larger; row 63 is the last of 64. -/
def drainCtx : Ctx :=
  let t := team .execute
  ctxOf State.reset
    { t with mtx := { t.mtx with tiles := [0] }, rings := [{ num := 0, off := 0, slotSize := 0x8000, count := 2 }] }
    (((warp .execute).setS 6 9).setS 7 (4 + 126 * 256)) lane1

theorem witness_DrainsAndWaitsComplete :
    (tilesOk drainCtx 0 0 = true ∧ isSReg 0x44 = true ∧ drainCtx.act 7 ≠ 0 ∧ bitsOf (drainCtx.w.sr 6) 5 27 = 0 ∧
      drainFmtOk (bitsOf (drainCtx.w.sr 6) 0 4) = true ∧
      (({ h := 0, next := false, bytes := drainBytes 9 64 } : Region).place drainCtx.t).isSome) ∧
    (drainCtx.p.arrival = none ∧ drainCtx.s.die.drains = [] ∧ (drainCtx.s.cluster drainCtx.cluster).table = []) ∧
    (let c := busyCtx 1 [7]
     let k := c.s.cluster c.cluster
     ∃ q ∈ k.table ++ k.passes, q.team = c.t.id ∧ q.id ∈ dedup ((mwaitTiles c 1 0 0).flatMap (fun i => (c.s.tile c.cluster i).unwaited))) ∧
    (bitsOf (drainCtx.w.sr 7) 20 12 = 0 ∧ 1 ≤ ctlFmt (drainCtx.w.sr 7) ∧ ctlFmt (drainCtx.w.sr 7) ≤ 7 ∧ bitsOf (drainCtx.w.sr 7) 9 7 < 64 ∧
      32 * bitsOf (drainCtx.w.sr 7) 16 4 < ctlK (drainCtx.w.sr 7) ∧
      (({ h := 0, next := false, bytes := codeBytes 4 64 32 } : Region).place drainCtx.t).isSome) := by decide

/-- Two execute warps, both in gang 0, whose latch holds a word, its values and arrivals; tile 0 is theirs and slot 0 is full. -/
def gangsCtx (word : Option Word) (vals : List Word) (arrived : List (Nat × Option Nat × DWord)) (token : Nat) : Ctx :=
  let w := { (warp .execute).setS 6 4 with table := [split] }
  let t := { mtxCtx.t with warps := [w, { w with index := 1 }], mtx := { mtxCtx.t.mtx with
    token := token, gangs := [{ members := 3, word := word, vals := vals, arrived := arrived, num := 0 }, Gang.reset] } }
  { s := { State.reset with teams := [t], cur := some { team := 1, warp := 0, seq := 0 } }, t := t, w := w, p := split, wi := 0 }
/-- The second warp has passed the token. -/
def gangCtx : Ctx := gangsCtx (some 0xBC700000) [] [(1, none, 0)] 0

theorem members_stand (word : Option Word) (vals : List Word) (arrived : List (Nat × Option Nat × DWord)) (token : Nat) :
    ∀ i ∈ gangWarps (gangsCtx word vals arrived token).t 0, ∃ w, (gangsCtx word vals arrived token).t.warps[i]? = some w ∧ w.done = false := by
  intro i hi
  have h : i < 2 := List.mem_range.mp (List.mem_filter.mp hi).1
  rcases (show i = 0 ∨ i = 1 by omega) with rfl | rfl <;> exact ⟨_, rfl, by decide⟩

/-- An empty latch with the token here, and with the other gang; a latch that holds TKPASS at a matrix instruction; the last TKPASS; the last MMA. -/
theorem witness_GangsAndTokenComplete :
    (∃ c' vs, Reads mtxCtx.s .executeOnly mtxCtx 7 [op32 .int 0x70, op32 .int 0x70] c' vs ∧ mtxCtx.inHandler = false ∧ mtxCtx.act 7 ≠ 0 ∧
      gangMaskOk mtxCtx.team 0 0 = true ∧ (mtxCtx.t.gang 0).word = none) ∧
    gangOf mtxCtx.t mtxCtx.w = none ∧
    (let c := gangsCtx none [] [] 0
     Issues c.s .executeOnly c ∧ c.act 7 ≠ 0 ∧ gangOf c.t c.w = some 0 ∧ (c.t.gang 0).word = none ∧ (c.t.gang 0).arrived = [] ∧ c.t.mtx.token = 0 ∧
     (∃ r ∈ jointOps ⟨7, 0, 0, 0x44, 0x46⟩ c, r.1 = .mma ⟨7, 0, 0, 0x44, 0x46⟩ ∧ r.2.2 = true) ∧ 1 ∈ gangWarps c.t 0) ∧
    ((gangsCtx none [] [] 1).t.mtx.token ≠ 0 ∧ (gangsCtx none [] [] 1).p.arrival = none) ∧
    ((gangCtx.t.gang 0).word.isSome ∧ (gangCtx.t.gang 0).word ≠ some ((encode (.mma ⟨7, 0, 0, 0x44, 0x46⟩)).getD 0)) ∧
    (Issues gangCtx.s .executeOnly gangCtx ∧ gangCtx.act 7 ≠ 0 ∧ gangOf gangCtx.t gangCtx.w = some 0 ∧ gangCtx.t.mtx.token = 0 ∧
      gangCtx.p.arrival = none ∧ (gangCtx.t.gang 0).word = some ((encode (.tkpass 7)).getD 0) ∧ (gangCtx.t.gang 0).vals = [] ∧
      (∀ x ∈ (gangCtx.t.gang 0).arrived, x.1 ≠ gangCtx.wi) ∧
      (∀ i ∈ gangWarps gangCtx.t 0, i = gangCtx.wi ∨ ∃ x ∈ (gangCtx.t.gang 0).arrived, x.1 = i) ∧
      (∀ i ∈ gangWarps gangCtx.t 0, ∃ w, gangCtx.t.warps[i]? = some w ∧ w.done = false)) ∧
    (let c := gangsCtx (some 0xB1702246) [0, 0, 4] [(1, none, 0)] 0
     let o := mtxOp 0xB1 false [0, 0, 4]
     Issues c.s .executeOnly c ∧ gangOf c.t c.w = some 0 ∧ (c.t.gang 0).word = some ((encode (.mma ⟨7, 0, 0, 0x44, 0x46⟩)).getD 0) ∧
     (∃ r ∈ jointOps ⟨7, 0, 0, 0x44, 0x46⟩ c, r.1 = .mma ⟨7, 0, 0, 0x44, 0x46⟩ ∧ r.2.2 = true ∧ (c.t.gang 0).vals = r.2.1) ∧
     (∀ i ∈ gangWarps c.t 0, i = c.wi ∨ ∃ x ∈ (c.t.gang 0).arrived, x.1 = i) ∧
     (∀ i ∈ gangWarps c.t 0, ∃ w, c.t.warps[i]? = some w ∧ w.done = false) ∧
     (∀ r ∈ o.regions, (r.place c.t).isSome ∧ slotPoisonOf c.s c.t r.handle = none) ∧
     (∀ r ∈ o.regions, r.place c.t = some 0 ∧ ∀ k ∈ regionGranules 0 r.bytes, granuleFull c.t k = true) ∧
     (c.s.cluster c.cluster).table.length < 32) := by
  refine ⟨⟨_, _, reads_of issM rfl rfl, rfl, by decide, by decide, by decide⟩, by decide, ⟨⟨⟨rfl, rfl⟩, rfl⟩, by decide, by decide, rfl, rfl, rfl,
    ⟨_, List.mem_cons_self, rfl, by decide⟩, by decide⟩, by decide, by decide, ⟨⟨⟨rfl, rfl⟩, rfl⟩, by decide, by decide, by decide, rfl,
    by decide, rfl, by decide, by decide, members_stand _ _ _ _⟩, ⟨⟨rfl, rfl⟩, rfl⟩, by decide, by decide,
    ⟨_, List.mem_cons_self, rfl, by decide, by decide⟩, by decide, members_stand _ _ _ _, by decide, by decide, by decide⟩

/-- A team of one execute warp: its arrival is the last. -/
theorem witness_RegroupCompletes :
    Issues cE.s .executeOnly cE ∧ cE.inHandler = false ∧ regOk cE 7 = true ∧ isQueueSpec 0 = false ∧ (op32 .int 0).ok cE = true ∧
    isSPair 0x44 = true ∧ movOk cE.w (cE.w.s64 4) = true ∧ cE.p.mask = ~~~cE.w.exited ∧ cE.p.arrival = none ∧ mtxCtx.p.mask ≠ ~~~mtxCtx.w.exited ∧
    (let a : RegroupArrival := { warp := 0, seq := 0, un := false, d := 7, keys := List.replicate 32 0, mov := 0 }
     let c1 : Ctx := { cE with t := { cE.t with regroup := cE.t.regroup ++ [a] }, p := { cE.p with arrival := some (.regroup cE.t.regroups) } }
     regroupReady c1.team false = true ∧ regroupOdd c1.team false = none) ∧
    (regroupReady { gangCtx.t with regroup := [{ warp := 0, seq := 0, un := false, d := 7, keys := [], mov := 0 }] } false = false) ∧
    (let a (k : Nat) : RegroupArrival := { warp := k, seq := 0, un := false, d := 7, keys := [], mov := if k = 1 then 1 else 0 }
     regroupReady { gangCtx.t with regroup := [a 1, a 0] } false = true ∧ regroupOdd { gangCtx.t with regroup := [a 1, a 0] } false = some 1 ∧
     gangCtx.wi ≠ 1) ∧
    (let c : Ctx := { gangCtx with wi := 1, s := { gangCtx.s with cur := some { team := 1, warp := 1, seq := 0 } }, w := { gangCtx.w with index := 1 } }
     Issues c.s .executeOnly c) :=
  ⟨issE _ rfl, rfl, by decide, by decide, by decide, by decide, by decide, by decide, rfl, by decide, by decide, by decide, by decide,
   ⟨⟨rfl, rfl⟩, rfl⟩⟩

/-- Two lanes of two warps. -/
theorem witness_RegroupPlacesInOrder :
    let a : PartLane := { pos := 0, index := 0, lane := 31, key := 5 }
    let b : PartLane := { pos := 1, index := 1, lane := 0, key := 4 }
    [a, b].Pairwise (fun x y => x.origin < y.origin) ∧ [a, b].Pairwise (fun x y => x.pos ≤ y.pos) := by decide

/-- An execute warp in its handler, alone and in gang 0. -/
theorem witness_JointInHandler :
    (Issues (handlerCtx .execute).s .executeOnly (handlerCtx .execute) ∧ (handlerCtx .execute).inHandler = true ∧ (handlerCtx .execute).act 7 ≠ 0) ∧
    (let t := handlerTeam .execute
     let c := ctxOf State.reset { t with mtx := { t.mtx with gangs := [{ members := 1, word := none, vals := [], arrived := [], num := 0 }, Gang.reset] } } (warp .execute) split
     Issues c.s .executeOnly c ∧ c.inHandler = true ∧ gangOf c.t c.w = some 0) :=
  ⟨⟨issH _ _ rfl, by decide, by decide⟩, ⟨issuing_ctxOf _ _ _ _ rfl, rfl⟩, by decide⟩

/-- A lane of key 5, of the lowest origin, and one of key 4 in the next warp, both placed; a third source of key 5 for which no position is left. -/
theorem witness_RegroupPlacesAll :
    let a : PartLane := { pos := 0, index := 0, lane := 0, key := 4 }
    let b : PartLane := { pos := 0, index := 0, lane := 1, key := 5 }
    let d : PartLane := { pos := 1, index := 1, lane := 0, key := 6 }
    [a, b, d].Pairwise (fun x y => x.origin < y.origin) ∧ [a, b, d].Pairwise (fun x y => x.pos ≤ y.pos) ∧
    regroupMap [a, b, d] = [(0, a), (2, b)] ∧ bitOf d.key 31 = false ∧ (∀ x ∈ regroupMap [a, b, d], x.2 ≠ d) := by decide

/-- A machine in which VA 0x1000 upward of job 1 is HBM, with 64 bytes of a number at 0x2000. -/
def mapped (v : Nat) : State := putHbm (State.reset.withFetchWord 32 0) 0x2000 64 v
/-- Its context: s2:s3 hold 0x2000. -/
def mappedCtx (role : Role) (v : Nat) : Ctx := ctxOf (mapped v) (ringTeam role) ((warp role).setS 2 0x2000) lane1
theorem issV (role : Role) (v : Nat) (r : Roles) (h : r.allows role = true) : Issues (mappedCtx role v).s r (mappedCtx role v) :=
  ⟨issuing_ctxOf _ _ _ _ rfl, h⟩

/-- A layout of one dimension: 16 elements of E4M3, the box all of them. -/
def layout : Nat := 2 ^ 61 + 2 * 2 ^ 57 + 16 * 2 ^ 192 + 15 * 2 ^ 440
def command : RunCmd :=
  { id := 9, team := 1, warp := 0, lanes := 1, drain := false, flag := none, layout := 0, handle := 0, origin := [], started := false, granules := []
    writes := [], wrote := [], missing := [], poison := none }
def layCtx (n : Nat) : Ctx :=
  ctxOf { State.reset with cores := State.reset.cores.map (fun k => { k with runnels := k.runnels.map (fun r => { r with fifo := List.replicate n command }) }) }
    { ringTeam .access with mtx := { (ringTeam .access).mtx with layouts := [none, none, none, some (BitVec.ofNat 512 layout)] } } (warp .access) lane1

set_option exponentiation.threshold 600 in
set_option maxRecDepth 100000 in
/-- The last layout register and the last engine, with 16 commands standing and with none. -/
theorem witness_StreamCommandsComplete :
    (isSPair 0x42 = true ∧ (mappedCtx .access layout).act 7 ≠ 0 ∧ ((mappedCtx .access layout).w.s64 2).toNat = 0x2000 ∧
      (∃ ps es, globalPlaces (mappedCtx .access layout).s (mappedCtx .access layout).agent 0x2000 64 .r = .ok ps es ∧
        elemPoisoned (mappedCtx .access layout).s 0 ps = false ∧ elemL2Poisoned (mappedCtx .access layout).s ps = false ∧
        overtakesAny (mappedCtx .access layout) [(0, ps)] = false ∧ lanesOf ((mappedCtx .access layout).act 7) = [0] ∧
        layoutOk (BitVec.ofNat 512 (readElem (mappedCtx .access layout).s (mappedCtx .access layout).t ps)) = true)) ∧
    ((layCtx 0).act 7 ≠ 0 ∧ (layCtx 0).t.mtx.layouts.getD 3 none = some (BitVec.ofNat 512 layout) ∧ layPlanes (BitVec.ofNat 512 layout) = false ∧
      hasScales (BitVec.ofNat 512 layout) = false ∧ (slotPlace (layCtx 0).t 0 false (boxBytes (BitVec.ofNat 512 layout))).isSome ∧
      fifoUsed (((layCtx 0).s.core 0).runnels.getD 3 Runnel.reset) < 16 ∧ 16 ≤ fifoUsed (((layCtx 16).s.core 0).runnels.getD 3 Runnel.reset)) ∧
    ((layCtx 0).p.arrival = none ∧ (∀ d ∈ (layCtx 0).t.stopped, d.warp ≠ 0 ∨ bitOf (8#4) d.engine = false) ∧
      pendingCmds (layCtx 0) (maskEngines 8) = [] ∧ readsOwed (layCtx 0).s (layCtx 0).t (layCtx 0).wi ((layCtx 0).act 7) = false ∧ pendingCmds (layCtx 16) (maskEngines 8) ≠ []) ∧
    ([{ id := 9, warp := 0, flag := none, engine := 3, va := 0 : StoppedDrain }].filter (fun x => x.warp == (layCtx 0).wi &&
      (maskEngines 8).contains x.engine) = [{ id := 9, warp := 0, flag := none, engine := 3, va := 0 }]) :=
  ⟨⟨by decide, by decide, by decide, _, _, rfl, by decide, by decide, by decide, by decide, by decide⟩, by decide, by decide, by decide⟩

set_option exponentiation.threshold 600 in
set_option maxRecDepth 100000 in
/-- A full sluice word and one that is not; the last record of a kernel with one. -/
theorem witness_TasksComplete :
    (isSPair 0x42 = true ∧ (mappedCtx .access 0).act 7 ≠ 0 ∧ (mappedCtx .access 0).t.ident.depth < 4 ∧
      (∃ ps es, globalPlaces (mappedCtx .access 0).s (mappedCtx .access 0).agent 0x2000 128 .r = .ok ps es ∧
        elemPoisoned (mappedCtx .access 0).s 0 ps = false ∧ elemL2Poisoned (mappedCtx .access 0).s ps = false ∧
        overtakesAny (mappedCtx .access 0) ((lanesOf (mappedCtx .access 0).p.mask).map (fun L => (L, ps))) = false) ∧
      recordsHeld (mappedCtx .access 0).s < Config.maxRecords ∧ releaseReady (mappedCtx .access 0) ((mappedCtx .access 0).act 7) 3 = true) ∧
    (∃ c' vs, Reads (mappedCtx .access 0).s .both (mappedCtx .access 0) 7 [op32 .int 0x71] c' vs) ∧
    (∃ ps es, globalPlaces (mappedCtx .access 0).s (mappedCtx .access 0).agent 0x2000 8 .rw = .ok ps es) ∧
    (pairOk (mappedCtx .access 0) 6 = true ∧ readsOwed (mappedCtx .access 0).s (mappedCtx .access 0).t (mappedCtx .access 0).wi ((mappedCtx .access 0).act 7) = false ∧ ∃ ps es, globalPlaces (mappedCtx .access (2 ^ 63)).s (mappedCtx .access (2 ^ 63)).agent 0x2000 8 .r = .ok ps es ∧
      sluiceFull (BitVec.ofNat 64 (readElem (mappedCtx .access (2 ^ 63)).s (mappedCtx .access (2 ^ 63)).t ps)) = true ∧
      sluiceFull (BitVec.ofNat 64 (readElem (mappedCtx .access 0).s (mappedCtx .access 0).t ps)) = false) ∧
    (let t := { team .access with ident := { ident .access with depth := 4, kern := { kern .access with nlive := 1 } }
                                  save := { (team .access).save with request := some (0, .preempt) } }
     let c := ctxOf State.reset t (warp .access) split
     Issues c.s .both c ∧ 4 ≤ c.t.ident.depth ∧ (0#20).toNat < c.t.ident.kern.nlive ∧ c.t.ident.kern.nlive ≤ (1#20).toNat ∧ c.act 7 ≠ 0 ∧
       c.t.save.request.isSome ∧ c.p.mask = ~~~c.w.exited) :=
  ⟨⟨by decide, by decide, by decide, ⟨_, _, rfl, by decide, by decide, by decide⟩, by decide, by decide⟩, ⟨_, _, reads_of (issV _ _ _ rfl) rfl rfl⟩,
   ⟨_, _, rfl⟩, ⟨by decide, by decide, _, _, rfl, by decide, by decide⟩, ⟨issuing_ctxOf _ _ _ _ rfl, rfl⟩, by decide, by decide, by decide, by decide, by decide, by decide⟩

theorem witness_SoftwareTrapsTaken :
    (∃ c' vs, Reads cA.s .both cA 7 [op32 .int 0x71] c' vs) ∧ cA.act 7 ≠ 0 ∧ cA.act 15 = 0 ∧ cA.t.trap.handler = none ∧ cA.s.pkg.debug ≠ .halt ∧
    (let c := ctxOf { State.reset with pkg := { State.reset.pkg with debug := .halt } } (team .access) (warp .access) split
     Issues c.s .both c ∧ c.s.pkg.debug = .halt ∧ (c.s.pkg.lifecycle = .owned → c.s.pkg.tokenValid = true)) :=
  ⟨⟨_, _, reads_of (issA _ rfl) rfl rfl⟩, by decide, by decide, rfl, by decide, ⟨issuing_ctxOf _ _ _ _ rfl, rfl⟩, rfl, by decide⟩

/-- A job whose handlers stand at 0x8000 and 0x9000. -/
def jobState : State :=
  { State.reset with pkg := { State.reset.pkg with jobs := [(0, BitVec.ofNat 512 (2 ^ 63 + 2 ^ 32 + 0x8000 * 2 ^ 128 + 0x9000 * 2 ^ 192))] } }
def jobCtx (role : Role) : Ctx := ctxOf jobState (team role) (warp role) split

set_option exponentiation.threshold 600 in
set_option maxRecDepth 100000 in
theorem witness_TrapEntry :
    Issuing (jobCtx .access).s (jobCtx .access) ∧ (jobCtx .access).t.trap.handler = none ∧
    handlerEntry (jobCtx .access).s (jobCtx .access).t.ident.job (jobCtx .access).w.role ≠ 0 :=
  ⟨issuing_ctxOf _ _ _ _ rfl, rfl, by decide⟩

theorem witness_TrapEndsTeam :
    (Issuing (handlerCtx .access).s (handlerCtx .access) ∧ (handlerCtx .access).inHandler = true) ∧
    (Issuing cA.s cA ∧ cA.t.trap.handler = none ∧ handlerEntry cA.s cA.t.ident.job cA.w.role = 0) :=
  ⟨⟨issuing_ctxOf _ _ _ _ rfl, by decide⟩, issues_plain _, rfl, by decide⟩

theorem witness_HandlersEnd :
    (Issues (handlerCtx .access).s .both (handlerCtx .access) ∧ (handlerCtx .access).inHandler = true ∧ (handlerCtx .access).act 7 ≠ 0 ∧
      (handlerCtx .access).act 15 = 0 ∧ releaseReady (handlerCtx .access) ((handlerCtx .access).act 7) 3 = true) ∧
    cA.inHandler = false ∧
    (let c := handlerCtx .execute
     c.s.team? c.t.id = some c.t ∧ c.t.trap.handler.isSome ∧ bitOf c.t.trap.regs.cause2 8 = false ∧ ¬c.s.die.stoppedJobs.contains c.t.ident.job) ∧
    (let t := handlerTeam .execute
     let c := ctxOf State.reset { t with trap := { t.trap with regs := { t.trap.regs with cause2 := 0x106, pc2 := 0x1000 } } } (warp .execute) split
     c.s.team? c.t.id = some c.t ∧ bitOf c.t.trap.regs.cause2 8 = true ∧ c.t.warps[0]? = some c.w ∧
     findSplit c.w.table (BitVec.ofNat 16 (bitsOf c.t.trap.regs.cause2 16 16)) = some c.p ∧ c.p.unitPc = c.t.trap.regs.pc2) :=
  ⟨⟨issH _ _ rfl, by decide, by decide, by decide, by decide⟩, rfl, ⟨rfl, by decide, by decide, by decide⟩, rfl, by decide, rfl, rfl, by decide⟩

/-- Registers 0x1A and 0x4B, the last of each range, and 0x17, which R309 does not list. -/
theorem witness_SpecialRegisters :
    ((∃ r ∈ specials cA, r.1 = 0x1A) ∧ (∀ r ∈ specials cA, r.1 ≠ 0x17) ∧ destOk cA 6 true = true ∧ destOk cA 7 true = false) ∧
    ((∃ r ∈ specials (handlerCtx .access), r.1 = 0x4B) ∧ (handlerCtx .access).inHandler = true ∧ (handlerCtx .access).act 7 ≠ 0) ∧
    (∃ c' vs, Reads (handlerCtx .access).s .both (handlerCtx .access) 7 [op64 0x40] c' vs) ∧
    (∃ c' vs, Reads (handlerCtx .access).s .both (handlerCtx .access) 7 [op32 .int 0x40] c' vs) := by
  refine ⟨⟨?_, ?_, by decide, by decide⟩, ⟨?_, by decide, by decide⟩, ⟨_, _, reads_of (issH _ _ rfl) rfl rfl⟩, _, _, reads_of (issH _ _ rfl) rfl rfl⟩
  · simp [specials]
  · simp [specials]
  · simp [specials]

theorem witness_InvalidationsComplete :
    (handlerCtx .access).inHandler = true ∧ (handlerCtx .access).act 7 ≠ 0 ∧ (handlerCtx .access).act 15 = 0 ∧ cA.inHandler = false ∧
    storesInFlight (handlerCtx .access).s (some (handlerCtx .access).t.ident.job) = false ∧ storesInFlight (handlerCtx .access).s none = false := by
  decide

/-- Ring 255 of job 1, its WADDR at 0x2000; ring 0 is not valid. -/
def egCtx (waddr : Nat) : Ctx :=
  ctxOf (setEgRing (mapped 0) 255 (BitVec.ofNat 512 (2 ^ 64 + 2 ^ 112 + waddr * 2 ^ 128))) (team .access) ((warp .access).setS 0 255) lane1
set_option exponentiation.threshold 600 in
set_option maxRecDepth 100000 in
theorem witness_RingReleaseCompletes :
    let c := egCtx 0x2000
    Issues c.s .both c ∧ regOk c 7 = true ∧ isQueueSpec 0x40 = false ∧ (op32 .int 0x40).ok c = true ∧ c.act 7 ≠ 0 ∧
    releaseReady c (c.act 7) 5 = true ∧ bitsOf ((op32 .int 0x40).value c 0) 0 8 = 255 ∧ egValid (egRing c.s 255) = true ∧
    egJob (egRing c.s 255) = c.t.ident.job ∧ egWaddr (egRing c.s 255) % 8 = 0 ∧ egWaddr (egRing c.s 255) < globalTop ∧
    (∃ m, translate c.s c.agent 0x2000 .r = .ok m) ∧ egValid (egRing c.s 0) = false ∧ egWaddr (egRing (egCtx 0x2004).s 255) % 8 ≠ 0 :=
  ⟨⟨issuing_ctxOf _ _ _ _ rfl, rfl⟩, by decide, by decide, by decide, by decide, by decide, by decide, by decide, by decide, by decide, by decide,
   ⟨_, rfl⟩, by decide, by decide⟩

/-- The machine in which VA 0x1000 upward of job 1 is HBM, its third GiB read-only and its fourth under an empty key slot, the L1 line of 0x2000 poisoned; v2:v3 of its one lane hold an address and v4 a length. -/
def faultCtx (va len : Nat) : Ctx :=
  let s := putHbm (putHbm (mapped 0) (installRoot + 0x200010) 8 0x2F) (installRoot + 0x200018) 8 (0x3F + 5 * 2 ^ 53)
  ctxOf (s.updCore 0 (fun k => { k with poisonL1 := [(0x2000 / 128, 1)] })) { ringTeam .access with queues := [queueOf .valid 1] }
    ((((warp .access).setV 2 1 (fun _ => BitVec.ofNat 32 va)).setV 3 1 (fun _ => BitVec.ofNat 32 (va / 2 ^ 32))).setV 4 1 (fun _ => BitVec.ofNat 32 len)) lane1
theorem issFault (va len : Nat) (r : Roles) (h : r.allows .access = true) : Issues (faultCtx va len).s r (faultCtx va len) :=
  ⟨issuing_ctxOf _ _ _ _ rfl, h⟩

/-- In one lane every fault is the lowest. -/
theorem lowestFault_one {c : Ctx} {act : LaneMask} {a : BitVec 7} {g : AccGroup} {need : Need} {align width va : Nat} {cause : BitVec 8}
    (h : lanesOf act = [0]) (e : c.ea a 0 = va) (f : laneFault c g need align width va 0 cause) : lowestFault c act a g need align width 0 cause := by
  rw [← e] at f
  exact ⟨by rw [h]; exact List.mem_cons_self, f, fun J hJ hlt => absurd hlt (Nat.not_lt_zero J)⟩

theorem global_noApertureFault {c : Ctx} {g : AccGroup} {width va : Nat} (hg : g ≠ .fullEmpty) (h : va + width ≤ globalTop) (hw : 0 < width) :
    ¬apertureFault c g width va := by
  have ha : apertureOf va = .global := by unfold apertureOf; rw [if_pos (by omega)]
  unfold apertureFault
  rw [ha]
  rintro (x | ⟨_, x, -⟩ | ⟨_, x, -⟩ | ⟨_, x, -⟩ | ⟨-, x | x⟩)
  · cases x
  · cases x
  · cases x
  · cases x
  · exact hg x
  · omega

set_option exponentiation.threshold 5000 in
set_option maxRecDepth 1000000 in
/-- An unaligned word; past the last byte of the team's scratchpad and of GLOBAL; LDFE in private memory and in GLOBAL, an atomic in CLUSTER; in no aperture. -/
theorem witness_ApertureFaults :
    lanesOf ((faultCtx 0 0).act 7) = [0] ∧ baseOk (faultCtx 0 0) 2 = true ∧ dataOk (faultCtx 0 0) 4 4 = true ∧ atomicOk (faultCtx 0 0) 4 ⟨4, false⟩ = true ∧
    destOk (faultCtx 0 0) 4 false = true ∧
    lowestFault (faultCtx 0x2001 0) 1 2 .data .r 4 4 0 causeALIGN ∧
    lowestFault (faultCtx (scratchBase + 0xFFD) 0) 1 2 .data .w 1 4 0 causePROT ∧
    lowestFault (faultCtx (clusterBase + 0x3FFFFC) 0) 1 2 .atomic .rw 4 4 0 causePROT ∧
    lowestFault (faultCtx privateBase 0) 1 2 .fullEmpty .r 4 4 0 causePROT ∧
    lowestFault (faultCtx (globalTop - 1) 0) 1 2 .data .r 1 4 0 causePROT ∧
    lowestFault (faultCtx (scratchBase + 0x100000) 0) 1 2 .data .r 4 4 0 causePROT ∧
    lowestFault (faultCtx 0x2000 0) 1 2 .fullEmpty .w 4 4 0 causePROT := by
  refine ⟨by decide, by decide, by decide, by decide, by decide, ?_, ?_, ?_, ?_, ?_, ?_, ?_⟩
  all_goals refine lowestFault_one (by decide) rfl ?_
  · exact .inl ⟨by decide, rfl⟩
  · exact .inr ⟨by decide, .inl ⟨.inr (.inl ⟨_, rfl, by decide⟩), rfl⟩⟩
  · exact .inr ⟨by decide, .inl ⟨.inr (.inr (.inl ⟨_, rfl, .inl nofun⟩)), rfl⟩⟩
  · exact .inr ⟨by decide, .inl ⟨.inr (.inr (.inr (.inl ⟨_, rfl, .inl rfl⟩))), rfl⟩⟩
  · exact .inr ⟨by decide, .inl ⟨.inr (.inr (.inr (.inr ⟨rfl, .inr (by decide)⟩))), rfl⟩⟩
  · exact .inr ⟨by decide, .inl ⟨.inl rfl, rfl⟩⟩
  · exact .inr ⟨by decide, .inl ⟨.inr (.inr (.inr (.inr ⟨rfl, .inl rfl⟩))), rfl⟩⟩

set_option exponentiation.threshold 5000 in
set_option maxRecDepth 1000000 in
/-- A page that is not mapped, and one that refuses the store, in which the access begins. -/
theorem witness_PageFaults :
    lowestFault (faultCtx (2 ^ 38) 0) 1 2 .data .r 4 4 0 causeNOMAP ∧ lowestFault (faultCtx 0x80000000 0) 1 2 .data .w 4 4 0 causePROT := by
  refine ⟨?_, ?_⟩
  all_goals refine lowestFault_one (by decide) rfl ?_
  · exact .inr ⟨by decide, .inr (.inl ⟨rfl, global_noApertureFault nofun (by decide) (by decide), .inl ⟨.inl ⟨by decide, rfl⟩, by decide⟩⟩)⟩
  · exact .inr ⟨by decide, .inr (.inl ⟨rfl, global_noApertureFault nofun (by decide) (by decide), .inl ⟨.inr ⟨1, 0x2F, by decide, .inl ⟨by decide, rfl⟩⟩, by decide⟩⟩)⟩

set_option exponentiation.threshold 5000 in
set_option maxRecDepth 1000000 in
/-- A page under an empty key slot; a poisoned line. -/
theorem witness_PageFaultsOther :
    lowestFault (faultCtx 0xC0000000 0) 1 2 .atomic .rw 4 4 0 causePROT ∧ lowestFault (faultCtx 0x207C 0) 1 2 .data .r 4 4 0 causeECCU := by
  refine ⟨?_, ?_⟩
  all_goals refine lowestFault_one (by decide) rfl ?_
  · exact .inr ⟨by decide, .inr (.inl ⟨rfl, global_noApertureFault nofun (by decide) (by decide), .inl ⟨.inr ⟨1, 0x3F + 5 * 2 ^ 53, by decide, .inl ⟨by decide, rfl⟩⟩, by decide⟩⟩)⟩
  · exact .inr ⟨by decide, .inr (.inr ⟨_, _, rfl, by decide, by decide, rfl⟩)⟩

set_option exponentiation.threshold 5000 in
set_option maxRecDepth 1000000 in
/-- A word whose second page refuses the store. -/
theorem witness_PageFaultsSecond : lowestFault (faultCtx 0x3FFFFFFE 0) 1 2 .data .w 1 4 0 causeNOMAP := by
  refine lowestFault_one (by decide) rfl ?_
  exact .inr ⟨by decide, .inr (.inl ⟨rfl, global_noApertureFault nofun (by decide) (by decide), .inr ⟨.inl ⟨by decide, rfl⟩, by decide, _, rfl⟩⟩)⟩

/-- The machine of stqCtx with the base of v2:v3 at VA, and its entry's lanes in some state. -/
def stqAt (va : Nat) (st : LaneState) : Ctx :=
  let c := faultCtx va 0
  ctxOf c.s { c.t with queues := [{ queueOf st 1 with dir := true }] } c.w lane1

set_option exponentiation.threshold 5000 in
set_option maxRecDepth 1000000 in
/-- LDQ outside every aperture and of a poisoned line; STQ of a poisoned entry, and to an unaligned address with release. -/
theorem witness_QueueMemoryTraps :
    (let c := faultCtx (scratchBase + 0x100000) 0
     Issues c.s .accessOnly c ∧ c.t.queue? 0 = some (queueOf .valid 1) ∧ isProducer (queueOf .valid 1) c.w = true ∧ baseOk c 2 = true ∧
       lanesOf (c.act 7) = [0] ∧ apertureFault c .data 4 (c.ea 2 0)) ∧
    (let c := faultCtx 0x207C 0
     ∃ ps es, laneAccess c.s c.t c.w c.agent .data .r 0 (c.ea 2 0) 4 = .ok ps es ∧ elemPoisoned c.s c.t.core ps = true) ∧
    (let c := stqAt 0x2000 .poison
     let q := { queueOf .poison 1 with dir := true }
     Issues c.s .accessOnly c ∧ c.t.queue? 0 = some q ∧ isConsumer q c.w = true ∧ baseOk c 2 = true ∧
       ∃ e, popEntries c.t [0] = some [e] ∧ popPoisoned c.s c.t e (c.act 7) (trapAddr causePOISON 0 0)) ∧
    (let c := stqAt 0x2001 .valid
     Issues c.s .accessOnly c ∧ (∃ e, popEntries c.t [0] = some [e] ∧ popFate c.s c.t [e] (c.act 7) = .ok) ∧
       readsOwed c.s c.t c.wi (c.act 7) = false ∧ lowestFault c (c.act 7) 2 .data .w 4 4 0 causeALIGN) := by
  refine ⟨⟨issFault _ _ _ rfl, rfl, rfl, rfl, by decide, .inl rfl⟩, ⟨_, _, rfl, by decide⟩,
    ⟨⟨issuing_ctxOf _ _ _ _ rfl, rfl⟩, rfl, rfl, rfl, _, rfl, by decide, by decide, 0, by decide, by decide, by decide, by decide, by decide, nofun, fun _ _ => rfl⟩,
    ⟨issuing_ctxOf _ _ _ _ rfl, rfl⟩, ⟨_, rfl, by decide⟩, by decide, lowestFault_one (va := 0x2001) (by decide) rfl (.inl ⟨by decide, rfl⟩)⟩

set_option exponentiation.threshold 5000 in
set_option maxRecDepth 1000000 in
/-- Ranges of DISCARD and WBACK: an address off 32, a length just past 1 MiB, no aperture, past GLOBAL's end, a page that is not mapped; an acquire fence whose lanes owe nothing. -/
theorem witness_RangeFaults :
    (∀ x : Nat × Nat, x = (0x2001, 32) ∨ x = (0x2000, 0x100020) ∨ x = (0x2000, 31) →
      let c := faultCtx x.1 x.2
      Issues c.s .accessOnly c ∧ (c.w.v 4 0).toNat ≠ 0 ∧ (c.ea 2 0 % 32 ≠ 0 ∨ (c.w.v 4 0).toNat % 32 ≠ 0 ∨ 0x100000 < (c.w.v 4 0).toNat)) ∧
    (let c := faultCtx (scratchBase + 0x100000) 32
     (c.w.v 4 0).toNat ≠ 0 ∧ c.ea 2 0 % 32 = 0 ∧ (c.w.v 4 0).toNat % 32 = 0 ∧ (c.w.v 4 0).toNat ≤ 0x100000 ∧ apertureOf (c.ea 2 0) = .outside) ∧
    (let c := faultCtx (globalTop - 32) 64
     c.ea 2 0 % 32 = 0 ∧ (c.w.v 4 0).toNat % 32 = 0 ∧ apertureOf (c.ea 2 0) = .global ∧ globalTop < c.ea 2 0 + (c.w.v 4 0).toNat) ∧
    (let c := faultCtx (2 ^ 38) 0x10000
     c.ea 2 0 % 32 = 0 ∧ (c.w.v 4 0).toNat = 0x10000 ∧ apertureOf (c.ea 2 0) = .global ∧ c.ea 2 0 % 0x10000 + (c.w.v 4 0).toNat ≤ 0x10000 ∧
       pageFault c .w (c.ea 2 0) causeNOMAP) ∧
    (let c := faultCtx 0 0
     lanesOf (c.act 7) = [0] ∧ rereads c.t c.wi (c.act 7) c.s.nextId = false ∧ readsOwed c.s c.t c.wi (c.act 7) = false) := by
  refine ⟨?_, by decide, by decide, ⟨by decide, by decide, by decide, by decide, .inl ⟨by decide, rfl⟩⟩, by decide⟩
  rintro x (rfl | rfl | rfl) <;> exact ⟨issFault _ _ _ rfl, by decide, by decide⟩

/-! ## Statements about the fabric -/

/-- Rank 0 of a domain of two ranks, both connected, in a machine where VA 0x1000 upward of job 1 is HBM, with 64 bytes of a number at 0x2000. -/
def fabState (v : Nat) (gs : List Group) : State :=
  (mapped v).updFab (fun b => { b with fabcfg := 0x200000000, cgroup := 2, groups := gs })
/-- Its context, one lane; s2:s3 hold 0x2000. -/
def fabCtx (v : Nat) (gs : List Group) : Ctx := ctxOf (fabState v gs) (ringTeam .access) ((warp .access).setS 2 0x2000) lane1
theorem issFab (v : Nat) (gs : List Group) (r : Roles) (h : r.allows .access = true) : Issues (fabCtx v gs).s r (fabCtx v gs) :=
  ⟨issuing_ctxOf _ _ _ _ rfl, h⟩
/-- Group 1 of ranks 0 and 1, in the given state. -/
def group (st : GroupState) : Group :=
  { num := 1, job := 1, view := 1, bitmap := 3, st := st, seq := 0, suspects := [], attempt := 0, proposal := none, accepts := [], seen := []
    since := 0, joiner := none, held := [], settled := [], oldView := 0, oldBitmap := 0, initDigest := none
    initId := 0, results := [], asks := [] }

set_option exponentiation.threshold 5000 in
set_option maxRecDepth 100000 in
/-- Peer 1, the last rank of the domain, and the first address; peer 2 fails the check, and so does an address that is not aligned. -/
theorem witness_RemoteAccessesComplete :
    let c := fabCtx 0 []
    Issues c.s .accessOnly c ∧ (∀ r ∈ remotes { g := 7, d := 4, a := 0x42, peer := 0x71 }, r.2.2.2.1 c 4 = true) ∧
    isQueueSpec 0x42 = false ∧ isQueueSpec 0x71 = false ∧ (op64 0x42).ok c = true ∧ (op32 .int 0x71).ok c = true ∧ c.act 7 ≠ 0 ∧
    remoteLanes c 0x42 0x71 (c.act 7) = [(0, 1, 0x2000)] ∧ 0x2000 % 8 = 0 ∧ 0x2000 < globalTop ∧ 1 < domainOf c.s ∧ inCgroup c.s 1 = true ∧
    remoteRoom c.s c.t.core (packetsOf [(0, 1, 0x2000)]).length = true ∧
    (remoteLanes c 0x42 0x72 (c.act 7)).find? (fun x => (remoteCheck c.s 8 true x).isSome) = some (0, 2, 0x2000) ∧
    (remoteCheck c.s 8 true (0, 2, 0x2000)).isSome ∧ (remoteCheck c.s 8 true (0, 1, 0x2004)).isSome :=
  ⟨issFab _ _ _ rfl, by decide, by decide, by decide, by decide, by decide, by decide, by decide, by decide, by decide, by decide, by decide,
   by decide, by decide, by decide, by decide⟩

/-- Queue 0 with the width of an element, empty, and full; the endpoint table of two entries stands at 0x20000, its entry 1 of job 1. -/
def rldqCtx (width count : Nat) : Ctx :=
  let s := putHbm (fabState 0 []) 0x20030 2 1
  let s := { s with pkg := { s.pkg with ready := BitVec.ofNat 64 (2 ^ 33) }, fab := { s.fab with uetab := 0x20000 + 2 } }
  ctxOf s { ringTeam .access with queues := [{ queueOf .valid count with width := width }] } (((warp .access).setS 2 0x2000).setS 5 1) lane1

set_option exponentiation.threshold 5000 in
set_option maxRecDepth 100000 in
theorem witness_RemoteQueueReadsComplete :
    (let c := rldqCtx 1 0
     Issues c.s .accessOnly c ∧ (∃ x, c.t.queue? (0#4).toNat = some x ∧ isProducer x c.w = true ∧ x.dir = false ∧ x.width = 1 ∧ x.canReserve = true) ∧
     c.act 7 ≠ 0 ∧ (op64 0x42).ok c = true ∧ (op32 .int 0x71).ok c = true ∧ remoteLanes c 0x42 0x71 (c.act 7) = [(0, 1, 0x2000)] ∧
     inCgroup c.s 1 = true ∧ remoteRoom c.s c.t.core (packetsOf [(0, 1, 0x2000)]).length = true) ∧
    (let c := rldqCtx 2 0
     (∃ x, c.t.queue? (0#4).toNat = some x ∧ isProducer x c.w = true ∧ x.dir = false ∧ x.width = 2 ∧ x.canReserve = true) ∧
     stackReady c.s (ueEntry c.s (bitsOf (c.w.s64 4) 32 16)) = true ∧ ueHandleOk c.s c.t.ident.job (c.w.s64 4) = true ∧
     bitsOf (c.w.s64 4) 32 16 = 1 ∧ ((op64 0x42).value c 0).toNat = 0x2000) ∧
    (∃ x, (rldqCtx 1 2).t.queue? (0#4).toNat = some x ∧ x.canReserve = false) :=
  ⟨⟨⟨issuing_ctxOf _ _ _ _ rfl, rfl⟩, ⟨_, rfl, by decide⟩, by decide⟩, ⟨⟨_, rfl, by decide⟩, by decide⟩, _, rfl, by decide⟩

set_option exponentiation.threshold 5000 in
set_option maxRecDepth 100000 in
/-- Group 1, by the constant 1, is active in one machine and absent in the other. -/
theorem witness_MulticastCompletes :
    (let c := fabCtx 0 [group .stable]
     Issues c.s .accessOnly c ∧ regOk c 4 = true ∧ (op64 0x42).ok c = true ∧ (op32 .int 0x71).ok c = true ∧ c.act 7 ≠ 0 ∧
     remoteLanes c 0x42 0x71 (c.act 7) = [(0, 1, 0x2000)] ∧ 0x2000 % 4 = 0 ∧ 0x2000 < globalTop ∧
     c.s.group? 1 = some (group .stable) ∧ (group .stable).active = true ∧ (group .uninstalled).active = false ∧
     remoteRoom c.s c.t.core 1 = true ∧ remoteUsed c.s c.t.core + (membersOf (group .stable).bitmap).length * 1 ≤ 256) ∧
    (fabCtx 0 []).s.group? 1 = none ∧
    (let c := fabCtx 0 []
     c.act 15 = 0 ∧ (c.s.core c.t.core).stores = [] ∧ exchangePending c.s c.t.id c.wi (c.act 7) = false ∧ fenceRemote c (c.act 7) = false ∧
     rereads c.t c.wi (c.act 7) c.s.nextId = false) :=
  ⟨⟨issFab _ _ _ rfl, by decide⟩, by decide⟩

/-- A descriptor of a barrier in group 1. -/
def barrierDesc : Nat := 2 ^ 176 + 4 * 2 ^ 182
/-- The team with the states of slots 0 to 3. -/
def slotCtx : Ctx :=
  ctxOf (fabState barrierDesc [group .stable]) { ringTeam .access with colls := [.free, .running 9, .done 6, .aborted 1] }
    ((warp .access).setS 2 0x2000) lane1

set_option exponentiation.threshold 5000 in
set_option maxRecDepth 100000 in
/-- Slot 0 is free and takes the descriptor; slots 1 to 3 are running, done and aborted. -/
theorem witness_CollectivesComplete :
    (∃ c' vs, Reads slotCtx.s .accessOnly slotCtx 7 [op32 .int 0x70] c' vs ∧ val vs 0 (lane0 (slotCtx.act 7)) = 0) ∧
    (isSPair 0x42 = true ∧ slotCtx.act 7 ≠ 0 ∧ slotOf slotCtx.t 0 = .free ∧ (slotCtx.w.s64 2).toNat = 0x2000 ∧
      (∃ ps es, globalPlaces slotCtx.s slotCtx.agent 0x2000 64 .r = .ok ps es ∧ elemPoisoned slotCtx.s slotCtx.t.core ps = false ∧
        elemL2Poisoned slotCtx.s ps = false ∧
        overtakesAny slotCtx ((lanesOf slotCtx.p.mask).map (fun L => (L, ps))) = false ∧ descOk slotCtx.s (BitVec.ofNat 512 (readElem slotCtx.s slotCtx.t ps)) = true ∧
        cdGroup (BitVec.ofNat 512 (readElem slotCtx.s slotCtx.t ps)) = 1) ∧
      slotCtx.s.fab.colls.length < 256 ∧ releaseReady slotCtx (slotCtx.act 7) 4 = true ∧
      slotCtx.s.group? 1 = some (group .stable) ∧ (group .stable).active = true ∧ (group .excluded).active = false) ∧
    (pairOk slotCtx 6 = true ∧ slotOf slotCtx.t 1 = .running 9 ∧ slotOf slotCtx.t 2 = .done 6 ∧ slotOf slotCtx.t 3 = .aborted 1 ∧
      slotOf slotCtx.t 7 = .free ∧ slotCtx.t.trap.handler = none) :=
  ⟨⟨_, _, reads_of ⟨issuing_ctxOf _ _ _ _ rfl, rfl⟩ rfl rfl, by decide⟩,
   ⟨by decide, by decide, by decide, by decide, ⟨_, _, rfl, by decide⟩, by decide⟩, by decide⟩

/-- A machine in the handler, with group 1 in some state and a bitmap at 0x2000 that names ranks 0 and 1. -/
def viewCtx (bm : Nat) (gs : List Group) (a : Option Arrival) : Ctx :=
  ctxOf (fabState bm gs) (handlerTeam .access) ((warp .access).setS 2 0x2000) { lane1 with arrival := a }

set_option exponentiation.threshold 5000 in
set_option maxRecDepth 100000 in
theorem witness_ViewsAnswer :
    (∃ c' vs, Reads (fabCtx 0 []).s .accessOnly (fabCtx 0 []) 7 [op32 .int 0x71, op32 .int 0x73] c' vs) ∧
    (let c := viewCtx 3 [group .stable] none
     (∃ c' vs, Reads c.s .accessOnly c 7 [op32 .int 0x71] c' vs ∧ bitsOf (val vs 0 (lane0 (c.act 7))) 0 6 = 1) ∧ c.inHandler = true ∧
     c.act 7 ≠ 0 ∧ regOk c 7 = true ∧ c.s.group? 1 = some (group .stable) ∧ bitOf (group .stable).bitmap (ownRank c.s) = true ∧
     (group .excluded).st ≠ .stable ∧ (group .excluded).active = false ∧
     (∃ ps es, globalPlaces c.s c.agent 0x2000 512 .r = .ok ps es ∧ elemPoisoned c.s c.t.core ps = false ∧ elemL2Poisoned c.s ps = false ∧
       overtakesAny c ((lanesOf c.p.mask).map (fun L => (L, ps))) = false ∧ bitOf (BitVec.ofNat 4096 (readElem c.s c.t ps)) (ownRank c.s) = true)) ∧
    ((viewCtx 2 [] none).s.group? 1 = none ∧
      ∃ ps es, globalPlaces (viewCtx 2 [] none).s (viewCtx 2 [] none).agent 0x2000 512 .r = .ok ps es ∧
        bitOf (BitVec.ofNat 4096 (readElem (viewCtx 2 [] none).s (viewCtx 2 [] none).t ps)) (ownRank (viewCtx 2 [] none).s) = false) ∧
    ((viewCtx 3 [group .uninstalled] (some (.init 1 0))).p.arrival = some (.init 1 0) ∧ (group .uninstalled).initId = 0 ∧ (group .uninstalled).initId ≠ 5 ∧
      (viewCtx 3 [group .uninstalled] (some (.init 1 0))).s.group? 1 = some (group .uninstalled) ∧ (group .uninstalled).initDigest = none) ∧
    (viewCtx 3 [{ group .uninstalled with initDigest := some 5 }] none).s.group? 1 = some { group .uninstalled with initDigest := some 5 } ∧ (fabCtx 0 []).inHandler = false :=
  ⟨⟨_, _, reads_of (issFab _ _ _ rfl) rfl rfl⟩,
   ⟨⟨_, _, reads_of ⟨issuing_ctxOf _ _ _ _ rfl, rfl⟩ rfl rfl, by decide⟩, by decide, by decide, by decide, by decide, by decide, by decide,
    by decide, _, _, rfl, by decide⟩,
   ⟨by decide, _, _, rfl, by decide⟩, by decide, by decide, by decide⟩

/-- Queue 1, from which the access warp pops 64-bit offsets: it holds 0x2000 in every lane. -/
def offsets (width : BitVec 2) (v : DWord) : Queue :=
  { queueOf .valid 1 with num := 1, dir := true, width := width, entries := (queueOf .valid 1).entries.map (fun e => { e with lanes := e.lanes.map (fun l => { l with data := v }) }) }
def withOffsets (c : Ctx) (width : BitVec 2) (v : DWord) : Ctx := ctxOf c.s { c.t with queues := c.t.queues ++ [offsets width v] } c.w lane1

set_option exponentiation.threshold 5000 in
set_option maxRecDepth 100000 in
/-- XLDQ that pops its offsets, and MCST that pops its group. -/
theorem witness_RemoteQueueOperands :
    (let c := withOffsets (rldqCtx 2 0) 2 0x2000
     isQueueSpec 0x61 = true ∧ ∃ c' vs, Reads c.s .accessOnly c 7 [op64 0x61] c' vs ∧ (val vs 0 0).toNat = 0x2000 ∧ lanesOf (c.act 7) = [0] ∧
       (∃ x, c.t.queue? (0#4).toNat = some x ∧ isProducer x c.w = true ∧ x.dir = false ∧ x.width = 2 ∧ x.canReserve = true) ∧
       stackReady c.s (ueEntry c.s (bitsOf (c.w.s64 4) 32 16)) = true ∧ ueHandleOk c.s c.t.ident.job (c.w.s64 4) = true) ∧
    (let c := withOffsets (fabCtx 0 [group .stable]) 1 1
     ∃ c' vs, Reads c.s .accessOnly c 7 [op64 0x42, op32 .int 0x61] c' vs ∧ bitsOf (val vs 1 0) 0 6 = 1 ∧ (val vs 0 0).toNat = 0x2000 ∧
       lanesOf (c.act 7) = [0] ∧ regOk c 4 = true ∧ c.s.group? 1 = some (group .stable) ∧ remoteRoom c.s c.t.core 1 = true) ∧
    readsOwed slotCtx.s slotCtx.t slotCtx.wi (slotCtx.act 7) = false :=
  ⟨⟨by decide, _, _, reads_of ⟨issuing_ctxOf _ _ _ _ rfl, rfl⟩ rfl rfl, by decide, by decide, ⟨_, rfl, by decide⟩, by decide⟩,
   ⟨_, _, reads_of ⟨issuing_ctxOf _ _ _ _ rfl, rfl⟩ rfl rfl, by decide⟩, by decide⟩

/-! ## Statements about events -/

/-- The small machine with its team in some state, and what else the event needs. -/
def evState (f : Team → Team) (g : State → State) : State := g { State.reset with teams := [f (ctxOf State.reset (ringTeam .access) (warp .access) lane1).t] }
def load1 : PLoad := { op := 9, team := 1, warp := 0, flag := none, sectors := 1, writes := [(7, 31, 5)] }
def store1 (stream : Option (Nat × Nat × Nat)) : PStore :=
  { op := 9, team := 1, warp := 0, lanes := 1, flag := some 1, scope := 3, key := 0, bytes := [(0x1000, 5)], uncached := false, l1 := true, stream := stream, late := false, first := 9 }
def exStore1 : ExStore := { op := 9, team := 1, warp := 0, lane := 0, flag := none, target := 1, off := 8, bytes := [5], first := 9 }
/-- A team whose queue 0 holds a lane in some state. -/
def withLane (st : LaneState) (t : Team) : Team := { t with queues := [queueOf st 1] }
/-- A team of one warp that holds slot 0 for 256 units while split 1 waits. -/
def rotWarp : Warp := { warp .access with table := [split, { split with seq := 1, st := .parked }], slots := [⟨some 0, 256⟩, ⟨none, 0⟩] }

set_option exponentiation.threshold 5000 in
set_option maxRecDepth 100000 in
theorem witness_AccessEvents :
    (∃ l, (evState id (·.updDie (fun d => { d with loads := [load1] }))).die.loads.find? (fun x => x.op == 9) = some l) ∧
    (let s := evState id (·.updCore 23 (fun k => { k with stores := [store1 none] }))
     findStore s 9 = some (23, store1 none) ∧ olderFirst (s.core 23).stores (store1 none) = true) ∧
    (let s := evState id (·.updCore 23 (fun k => { k with stores := [store1 (some (1, 0, 7))] }))
     findStore s 9 = some (23, store1 (some (1, 0, 7))) ∧ olderFirst (s.core 23).stores (store1 (some (1, 0, 7))) = true ∧
     streamTurn (s.core 23).stores (store1 (some (1, 0, 7))) = true) ∧
    (let s := evState id (·.updDie (fun d => { d with exStores := [exStore1] }))
     s.die.exStores.find? (fun x => x.op == 9) = some exStore1 ∧ exBehind s exStore1 = false) ∧
    (∀ st, st = .inflight ∨ st = .refetch → ∃ t q, (evState (withLane st) id).team? 1 = some t ∧ t.placed = true ∧ t.status ≠ .restoring ∧
      t.queue? 0 = some q ∧ ((q.entries.getD 0 QEntry.empty).lane 31).st = st ∧ ((q.entries.getD 0 QEntry.empty).lane 31).req = none ∧
      refetchWaits (evState (withLane st) id) t q 0 31 ((q.entries.getD 0 QEntry.empty).lane 31) = false) ∧
    (let s := evState (withLane .refetch) (·.updDie (fun d => { d with loads := [{ load1 with sectors := 2048 }] }))
     Config.requestEntries ≤ requestsUsed s 0) ∧
    (let s := { State.reset with teams := [{ team .access with warps := [rotWarp] }] }
     ∃ t p, s.team? 1 = some t ∧ t.status = .resident ∧ t.warps[0]? = some rotWarp ∧ rotWarp.slots[0]? = some ⟨some 0, 256⟩ ∧
       slotSplit rotWarp 0 = some p ∧ rotWarp.waiting ≠ [] ∧ ∀ u ∈ s.teams, u.id = 1 → u = t) ∧
    (let s := State.reset.withFetchWord 32 0
     ∃ t w p x e, s.team? State.reset.nextId = some t ∧ t.placed = true ∧ t.status = .resident ∧ t.warps[0]? = some w ∧
       slotSplit w 0 = some p ∧ fetchWord s t p = .word x e) := by
  refine ⟨⟨_, rfl⟩, by decide, by decide, by decide, ?_, by decide, ⟨_, _, rfl, by decide, rfl, rfl, rfl, by decide, by decide⟩,
    ⟨_, _, _, _, _, rfl, by decide, by decide, rfl, rfl, rfl⟩⟩
  rintro st (rfl | rfl)
  · exact ⟨_, _, rfl, by decide, by decide, rfl, by decide⟩
  · exact ⟨_, _, rfl, by decide, by decide, rfl, by decide⟩

/-- A split blocked on a queue. -/
def stuckWarp : Warp := { warp .access with table := [{ split with blk := 2 }] }
def fault1 : FaultRecord := { cause := 0x30, lane := 0, opc := 0xD0, rank := 1, addr := 0, count := 1, seq := 0, delivered := false }

set_option exponentiation.threshold 5000 in
set_option maxRecDepth 100000 in
theorem witness_DeliveryEvents :
    (let s := evState (fun t => { t with warps := [stuckWarp], save := { t.save with qdead := 4096 } }) id
     ∃ t p, s.team? 1 = some t ∧ 4096 ≤ t.save.qdead ∧ queueStalled t = true ∧ qdeadSplit t = some (0, p)) ∧
    (∃ t, (evState (fun t => { t with trap := (handlerTeam .access).trap }) id).team? 1 = some t ∧ t.trap.handler.isSome) ∧
    (let s := evState (fun t => { t with warps := [{ warp .access with rfault := some fault1 }] }) id
     ∃ t w p, Claims.mayTake s 1 0 0 t w p ∧ faultDue t 0 w p = some (0, fault1)) ∧
    (let s := evState (fun t => { t with warps := [{ warp .access with mcast := { bits := 0, fails := 1, pending := [(0, 1)] } }] }) id
     ∃ t w p, Claims.mayTake s 1 0 0 t w p ∧ mcastDue t 0 w p = some (0, 0, 1)) ∧
    (let s := evState id (·.updCore 23 (fun k => { k with waiters := [(1, 5)], raising := some 8 }))
     23 < s.cores.length ∧ (s.core 23).waiters = [(1, 5)] ∧ (s.core 23).pages.length < 64 ∧ (s.core 23).raising = some 8 ∧ (s.core 23).stores = []) ∧
    requested (evState id (·.updCore 23 (fun k => { k with pages := [(1, 5)] }))) { core := 23, job := 1, page := 5, present := true } = true ∧
    requested (evState id (·.updDie (fun d => { d with pages := [(1, 5)] }))) { core := 24, job := 1, page := 5, present := true } = true ∧
    requested (evState id (·.updFab (fun d => { d with pages := [(1, 5)] }))) { core := 25, job := 1, page := 5, present := true } = true :=
  ⟨⟨_, _, rfl, by decide, by decide, rfl⟩, ⟨_, rfl, by decide⟩, ⟨_, _, _, ⟨rfl, rfl, rfl, by decide, by decide⟩, by decide⟩,
   ⟨_, _, _, ⟨rfl, rfl, rfl, by decide, by decide⟩, by decide⟩, by decide, by decide, by decide, by decide⟩

/-- A move from 0 to 128 bytes: with the 4,096 lines of the array but one dirty it is made, with all of them it waits. -/
theorem witness_BoundaryMoves :
    (let s := evState id (·.updCore 23 (fun k => { k with raising := some 128, stores := List.replicate 2 (store1 none) }))
     (s.core 23).raising = some 128 ∧ ((s.core 23).stores.filter (fun st => st.l1)).length ≤ Config.arrayLines - max (s.core 23).boundary 128 / 128) ∧
    (let s := evState id (·.updCore 23 (fun k => { k with raising := some (128 * (Config.arrayLines - 1)), stores := List.replicate 2 (store1 none) }))
     Config.arrayLines - max (s.core 23).boundary (128 * (Config.arrayLines - 1)) / 128 < ((s.core 23).stores.filter (fun st => st.l1)).length) := by decide

def port0 (mode : BitVec 2) : Port := Port.boot mode false
def withPort (f : Port → Port) : State := evState id (·.updFab (fun b => { b with ports := [(95, f (port0 1))] }))

set_option exponentiation.threshold 5000 in
set_option maxRecDepth 100000 in
theorem witness_RepairEvents :
    ((evState id (·.updCluster 5 (fun k => { k with tiles := updAt k.tiles 0 (fun t => { t with owner := some 1 }) }))).tile 5 0).owner = some 1 ∧
    ((evState id id).tile 5 0).owner = none ∧
    (let s := evState id (·.updDie (fun d => { d with l2 := [(0x1000, 5)] }))
     s.die.l2.any (fun x => x.1 % 2 ^ 40 / 128 == 0x20) = true ∧ s.die.l2Poison.contains 0x20 = false) ∧
    (∃ t, (evState id id).teams.find? (fun t => (t.placed || t.status == .saved) && (ownsByte t 0 || ownsPrivate (evState id id) t 0)) = some t) ∧
    ((evState id (·.updCore 0 (fun k => { k with stores := [store1 none] }))).core 0).stores.filter (fun st => st.bytes.any (fun b => b.1 / 128 == 0x20))
      = [store1 none] ∧
    (siteCore (evState id id) (.dirtyL1 0 0x20) = some 0 ∧ siteCore (evState id id) (.cleanL1 23 0x20) = some 23 ∧ siteCore (evState id id) (.teamStorage 1) = some 0) ∧
    ((evState id (·.updCore 23 (fun k => { k with unfit := true }))).core 23).unfit = true ∧ ((evState id id).core 23).retired = false ∧
    ((evState id id).core 23).unfit = false ∧ bitOf (evState id id).pkg.failed 23 = false ∧
    ((evState id id).pkg.spareHbm.contains (7, 31) = false ∧ ((evState id id).pkg.spareHbm.filter (fun x => x.1 == 7)).length < 2) ∧
    (∃ p, (withPort id).port? 95 = some p ∧ bitsOf p.reg 24 2 < 2 ∧ bitsOf p.reg 26 2 < 2) ∧
    (∃ p, (withPort (fun p => { p with reg := setBits p.reg 24 2 2 })).port? 95 = some p ∧ 2 ≤ bitsOf p.reg 24 2) ∧
    (∃ s : State, s.pkg.firmware.isSome) :=
  ⟨by decide, by decide, by decide, ⟨_, rfl⟩, by decide, by decide, by decide, by decide, by decide, by decide, by decide, ⟨_, rfl, by decide⟩, ⟨_, rfl, by decide⟩,
   { State.reset with pkg := { State.reset.pkg with firmware := some 1 } }, rfl⟩

def request1 : MtxReq := { id := 9, team := 1, members := [(0, some 1)], word := 0, vals := [], tiles := [0], full := false, prio := 0, allowance := 0, snap := [], units := [], more := 0 }
def drain1 (n : Nat) : Drain := { op := 9, team := 1, tiles := [0], granules := (List.range n).map (fun i => (i, [])) }
/-- The machine in which VA 0x1000 upward of job 1 is HBM, and the page of VA 2^30 is to be brought in. -/
def missing (v : Nat) : State := putHbm (mapped v) (installRoot + 0x200008) 8 0x41
/-- The last engine of the last core runs a command of team 1. -/
def withCmd (c : RunCmd) (f : Team → Team) : State :=
  evState f (·.updCore 23 (fun k => { k with runnels := k.runnels.map (fun r => { r with ready := true, fifo := [c] }) }))
def arrivedCbar : Cbar := { next := 1, pending := [{ num := 0, arrived := [{ team := 1, warp := 0, lanes := 1, mark := 0 }] }] }

set_option exponentiation.threshold 5000 in
set_option maxRecDepth 100000 in
theorem witness_EngineEvents :
    (let s := evState id (·.updCluster 5 (fun k => { k with ready := true, units := [0, 0, 0, 0], table := [request1] }))
     (s.cluster 5).ready = true ∧ s.pkg.gated = false ∧ arbiter (s.cluster 5) = some 0) ∧
    (let s := evState id (·.updCluster 5 (fun k => { k with passes := [request1] }))
     (s.cluster 5).passes.find? (fun q => q.id == 9) = some request1 ∧ (s.team? 1).isSome) ∧
    (let s := evState id (·.updDie (fun d => { d with drains := [drain1 2] }))
     s.die.drains.find? (fun d => d.op == 9) = some (drain1 2) ∧ (drain1 2).granules.find? (fun x => x.1 == 1) = some (1, []) ∧
     (drain1 2).granules.filter (fun y => y.1 != 1) ≠ [] ∧ (drain1 1).granules.filter (fun y => y.1 != 0) = []) ∧
    (let s := evState id (fun s => setCbar s 3 arrivedCbar)
     ∃ t, s.team? 1 = some t ∧ (launchCbar s t.ident.launch).pending = arrivedCbar.pending ∧
       (∀ x ∈ launchTeams s t.ident.launch, x.status = .resident ∨ x.status = .halted ∨ x.status = .finished ∨ x.status = .killed) ∧
       (∃ i, arrivedCbar.pending = [i] ∧ cbarComplete s t.ident.launch i = true ∧ cbarLanded s i = true)) ∧
    (let s := withCmd command id
     ((s.core 23).runnels.getD 3 Runnel.reset).ready = true ∧ (∃ t, headCmd s 23 3 = some (command, t) ∧ t.status = .resident) ∧ command.started = false ∧
     command.missing = [] ∧ command.poison = none ∧ command.drain = false ∧
     ∃ t, s.team? 1 = some t ∧ lanesDone s t command.warp command.lanes command.id = true) ∧
    (∃ t, headCmd (withCmd command (fun t => { t with status := .killed })) 23 3 = some (command, t) ∧ t.status = .killed) ∧
    (∃ t, headCmd (withCmd { command with drain := true } id) 23 3 = some ({ command with drain := true }, t)) ∧
    (∃ t, headCmd (withCmd { command with poison := some (5, 0) } id) 23 3 = some ({ command with poison := some (5, 0) }, t)) ∧
    (∃ t, headCmd (withCmd { command with granules := [(0, []), (1, [])] } id) 23 3 = some ({ command with granules := [(0, []), (1, [])] }, t)) ∧
    (let c := { command with drain := true, started := true }
     let s := withCmd c id
     ∃ t, headCmd s 23 3 = some (c, t) ∧ storesAhead s 23 t.ident.job c.writes = false ∧ performWrites 23 t.ident.job s c.writes = (s, .done, [])) ∧
    (let c := { command with drain := true, started := true, writes := [(0x1000, 255, 5)] }
     ∃ t u cause va left, headCmd (withCmd c id) 23 3 = some (c, t) ∧ performWrites 23 t.ident.job (withCmd c id) c.writes = (u, .fault cause va, left)) ∧
    (let c := { command with drain := true, started := true, writes := [(0x40000000, 255, 5)] }
     let s := { withCmd c id with pkg := (missing 0).pkg }
     ∃ t u va left, headCmd s 23 3 = some (c, t) ∧ performWrites 23 t.ident.job s c.writes = (u, .miss va, left)) :=
  ⟨by decide, ⟨rfl, by decide⟩, ⟨rfl, rfl, by decide, by decide⟩, ⟨_, rfl, rfl, by decide, _, rfl, by decide⟩,
   ⟨by decide, ⟨_, rfl, by decide⟩, by decide, by decide, by decide, by decide, _, rfl, by decide⟩, ⟨_, rfl, by decide⟩, ⟨_, rfl⟩, ⟨_, rfl⟩, ⟨_, rfl⟩,
   ⟨_, rfl, by decide, rfl⟩, ⟨_, _, _, _, _, rfl, rfl⟩, _, _, _, _, rfl, rfl⟩

set_option exponentiation.threshold 5000 in
set_option maxRecDepth 100000 in
/-- A pass of three tiles more, on the one unit that works; a drain that waits for a page whose request was refused; a granule that a held change of another time covers. -/
theorem witness_EngineEventsMore :
    (let q : MtxReq := { request1 with full := true, units := [3], more := 3 }
     let s := evState id (·.updCluster 5 (fun k => { k with units := [2, 2, 2, 1], passes := [q] }))
     (s.cluster 5).passes.find? (fun q => q.id == 9) = some q ∧ 0 < q.more ∧ q.units ≠ []) ∧
    (let k : Cluster := { (State.reset.cluster 5) with ready := true, units := [2, 2, 2, 1], table := [{ request1 with full := true }] }
     k.table[0]? = some { request1 with full := true } ∧ ((grantAt k 0).passes.map (fun p => (p.units, p.more))) = [([3], 3)]) ∧
    (let c := { command with drain := true, started := true, poison := some (causeNOMAP, 0x1000) }
     ∃ t, headCmd (withCmd c id) 23 3 = some (c, t) ∧ c.missing = []) ∧
    (let c := { command with granules := [(0, []), (1, [])] }
     ∃ t, headCmd (withCmd c (fun t => { t with scr := { t.scr with held := [{ warp := 0, lanes := 1, mark := 10, wide := false, granules := [0], full := false, writes := [] }] } })) 23 3
       = some (c, t) ∧ ∀ h ∈ t.scr.held, h.mark ≤ c.id → 0 ∉ h.granules) :=
  ⟨by decide, by decide, ⟨_, rfl, rfl⟩, _, rfl, by decide⟩

/-- A descriptor of a kernel of one access warp of 8 registers with 4 KiB of scratchpad. -/
def descriptor : Nat := 0x1000 + 2 ^ 212 + 4 * 2 ^ 256 + 4 * 2 ^ 275
/-- A record of a grid of n teams in state st, its descriptor at VA k. -/
def task1 (k n : Nat) (st : TaskState) : Task :=
  { Task.new 7 true 0x5000 (BitVec.ofNat 1024 (k + n * 2 ^ 64 + 2 ^ 96 + 2 ^ 112)) 1 0 0 with
    st := st, kern := some (kern .access), gx := n, gy := 1, gz := 1, dispatched := st == .dispatched, judged := some [0, 0, 0, 0] }
/-- A machine with the descriptor at 0x3000, a page of VA 2^30 that is to be brought in, and the task; the pools stand at 256 MiB, 512 MiB and 768 MiB. -/
def taskState (t : Task) : State :=
  let s := putHbm (putHbm (State.reset.withFetchWord 32 0) 0x3000 320 descriptor) (installRoot + 0x200008) 8 0x41
  let slot : BitVec 512 := BitVec.ofNat 512 (installRoot * 2 ^ 64 + 2 ^ 63 + 2 ^ 32 + 0x30000000 * 2 ^ 256 + 2 ^ 304)
  { s with teams := [], die := { s.die with tasks := [t] }
           pkg := { s.pkg with jobs := [(0, slot)], spillPool := 0x10000010, framePool := 0x20000100 } }
/-- The task in the machine, core 0's boundary at b. -/
def placing (b : Nat) (t : Task) : State := (taskState t).updCore 0 (fun c => { c with boundary := b })

set_option exponentiation.threshold 5000 in
set_option maxRecDepth 1000000 in
/-- A record that is good, one whose descriptor is not aligned, and one whose descriptor's page is to be brought in. -/
theorem witness_TasksPublished :
    (∀ k, k = 0x3000 ∨ k = 0x3001 ∨ k = 0x40000000 → let t := task1 k 1 .held
      (taskState t).task? 7 = some t ∧ t.st = .held ∧ jobRuns (taskState t) t.job = true ∧ t.wait = []) ∧
    firstItem (recordItems (taskState (task1 0x3000 1 .held)) (task1 0x3000 1 .held)) = .good ∧
    firstItem (recordItems (taskState (task1 0x3001 1 .held)) (task1 0x3001 1 .held)) = .bad 0x81 ∧
    firstItem (recordItems (taskState (task1 0x40000000 1 .held)) (task1 0x40000000 1 .held)) = .wait 0x4000 := by
  refine ⟨?_, by decide, by decide, by decide⟩
  rintro k (rfl | rfl | rfl) <;> decide

/-- A waiting task that consumes the sluice at 0x2000. -/
def consumer (v : DWord) : Task :=
  { task1 0x3000 1 .waiting with record := BitVec.ofNat 1024 (0x3000 + 2 ^ 64 + 2 ^ 96 + 2 ^ 112 + 0x2000 * 2 ^ 256 + 2 ^ 896), judged := some [v, 0, 0, 0] }
/-- A task whose grid comes from a page that is not mapped. -/
def lateGrid : Task := { task1 0x3000 1 .waiting with record := BitVec.ofNat 1024 (0x3000 + 2 ^ 38 * 2 ^ 64 + 2 ^ 132) }
/-- A task whose grid comes from a page that is to be brought in. -/
def missGrid : Task := { task1 0x3000 1 .waiting with record := BitVec.ofNat 1024 (0x3000 + 2 ^ 30 * 2 ^ 64 + 2 ^ 132) }

set_option exponentiation.threshold 5000 in
set_option maxRecDepth 1000000 in
theorem witness_TasksDispatched :
    (∀ t, t = task1 0x3000 1 .waiting ∨ t = consumer 1 ∨ t = lateGrid → firstBy servedBefore (dispatchable (taskState t)) = some t) ∧
    consumable (taskState (consumer 1)) (consumer 1) = false ∧ consumable (taskState (consumer 0)) (consumer 0) = true ∧
    consumable (taskState lateGrid) lateGrid = true ∧ gridMiss (taskState lateGrid) lateGrid = none ∧
    firstBy servedBefore (dispatchable (taskState missGrid)) = some missGrid ∧ consumable (taskState missGrid) missGrid = true ∧
    gridMiss (taskState missGrid) missGrid = some 0x4000 ∧ gridMiss (taskState (task1 0x3000 1 .waiting)) (task1 0x3000 1 .waiting) = none ∧
    (let t := task1 0x3000 1 .waiting
     let u := writeStatus (taskState t) t .dispatched 0 0
     dispatchGrid u t = .inr (1 + 2 ^ 32 + 2 ^ 48) ∧ gridTeams (1 + 2 ^ 32 + 2 ^ 48) = 1) ∧
    (let u := writeStatus (taskState lateGrid) lateGrid .dispatched 0 0
     ∃ code, dispatchGrid u lateGrid = .inl code) := by
  refine ⟨?_, by decide, by decide, by decide, by decide, by decide, by decide, by decide, by decide, by decide, _, rfl⟩
  rintro t (rfl | rfl | rfl) <;> decide

set_option exponentiation.threshold 5000 in
set_option maxRecDepth 1000000 in
/-- The boundary of core 0 needs a raise in one machine and none in the other; no core is ready in a third. -/
theorem witness_TasksPlaced :
    let t := task1 0x3000 1 .dispatched
    let u : PlaceUnit := { teams := [(.fresh 0 false, 0)], gang := false, pinned := none }
    ((placing 0 t).task? t.id = some t ∧ t.dispatched = true ∧ jobRuns (placing 0 t) t.job = true ∧ nextUnit (placing 0 t) t = some u ∧
      t.kern = some (kern .access) ∧ (∃ l, (if u.fresh then argScalars (placing 0 t) t else .inr []) = .inr l)) ∧
    (∃ l, placeOf (placing 0 t) t (kern .access) u = some l ∧ (raiseNeeded (placing 0 t) (kern .access) l).isSome) ∧
    (∃ l, placeOf (placing 0x40000 t) t (kern .access) u = some l ∧ raiseNeeded (placing 0x40000 t) (kern .access) l = none) ∧
    ((placedTasks (placing 0 t)).find? (fun x => (placeable (placing 0 t) x).isSome)).map (·.id) = some t.id ∧
    placeOf { placing 0 t with cores := State.reset.cores } t (kern .access) u = none ∧
    taskDone (taskState (task1 0x3000 0 .dispatched)) (task1 0x3000 0 .dispatched) = true :=
  ⟨⟨rfl, rfl, by decide, by decide, rfl, _, rfl⟩, ⟨_, rfl, by decide⟩, ⟨_, rfl, by decide⟩, by decide, by decide, by decide⟩

/-- A team whose save has been asked for at time 0, its warp at a save point. -/
def savingState (f : Team → Team) (g : State → State) : State :=
  evState (fun t => f { t with save := { t.save with request := some (0, .preempt) }, warps := [{ warp .access with atPoint := some 0 }] }) g

set_option exponentiation.threshold 5000 in
set_option maxRecDepth 1000000 in
theorem witness_SaveEvents :
    (let s := savingState id id
     ∃ t, s.team? 1 = some t ∧ t.status = .resident ∧ t.save.request.isSome ∧ unitReady s t (fun x => x.warps.all saveCondition) = true) ∧
    (let s := savingState id (fun s => { s with clock := s.pkg.fsBound })
     ∃ t, s.team? 1 = some t ∧ t.status = .resident ∧ t.save.request = some (0, .preempt) ∧ s.pkg.fsBound ≤ s.clock - 0 ∧
       unitReady s t (fun _ => true) = true) ∧
    (let s := savingState (fun t => { t with status := .saving }) id
     ∃ t, s.team? 1 = some t ∧ saveReady s t = true) ∧
    (let s := savingState (fun t => { t with status := .restoring }) id
     ∃ t, s.team? 1 = some t ∧ t.status = .restoring ∧ tableRoom s ((liveLaunch s t).filter (fun x => x.status == .restoring)) = true ∧
       poisonRoom s ((liveLaunch s t).filter (fun x => x.status == .restoring)) = true ∧ fifoRoom s ((liveLaunch s t).filter (fun x => x.status == .restoring)) = true) ∧
    (evState id (·.updDie (fun d => { d with stoppedJobs := [1] }))).die.stoppedJobs.contains 1 = true :=
  ⟨⟨_, rfl, by decide, by decide, by decide⟩, ⟨_, rfl, by decide, by decide, by decide, by decide⟩, ⟨_, rfl, by decide⟩, ⟨_, rfl, by decide, by decide, by decide⟩,
   by decide⟩

/-- State.reset with its package changed; it is powered. -/
def hostState (f : Package → Package) : State := { State.reset with pkg := f State.reset.pkg }
/-- Job 1 in slot 3, and rings 0 (closed) and 255 (open, with 16 entries released of which the host has taken none), both of job 1. -/
def hostSet : State := hostState (fun p => { p with
  power := .run, jobs := [(3, BitVec.ofNat 512 (2 ^ 63 + 2 ^ 32))], ready := 0x1FE00000000
  egrings := [(0, BitVec.ofNat 512 (2 ^ 112)), (255, BitVec.ofNat 512 (2 ^ 64 + 2 ^ 112 + 16 * 2 ^ 192))] })

set_option exponentiation.threshold 5000 in
set_option maxRecDepth 1000000 in
/-- Registers at the ends of their ranges; rings, windows and words at the ends of theirs. -/
theorem witness_HostRegisterEvents :
    hostSet.pkg.power ≠ .off ∧ (0x18 % 8 = 0 ∧ 1800 ≤ (3600#64).toNat ∧ (3600#64).toNat ≤ 3600 ∧ (0xFFFFFFFF#64).toNat < 2 ^ 32) ∧
    (0xFF8 % 8 = 0 ∧ 0x4FF8 % 8 = 0 ∧ 0x10FF8 % 8 = 0 ∧ 0x23FF8 % 8 = 0 ∧ 0x67FF8 % 8 = 0 ∧ 0x702F8 % 8 = 0) ∧
    teamsPresent hostSet = false ∧ bitOf (0x8000000000000000#64) 63 = true ∧
    jobRefused hostSet 7 (setBits (jobReg hostSet 7) 0 64 (2 ^ 63 + 2 ^ 32)) = true ∧
    jobRefused hostSet 7 (setBits (jobReg hostSet 7) 0 64 (2 ^ 63 + 2 * 2 ^ 32)) = false ∧ (∃ r, cellsGet hostSet.pkg.jobs 3 = some r) ∧
    (egValid (egRing hostSet 0) = false ∧ (jobSlot hostSet (egJob (egRing hostSet 0))).isSome ∧ egValid (egRing hostSet 255) = true ∧
      egHcur (egRing hostSet 255) < min (99#64).toNat (egRcur (egRing hostSet 255))) ∧
    hostReady hostSet 0x1000 4 = true ∧ (∀ i, i < 4 → l2Poisoned hostSet (0x1000 + i) = false) := by
  refine ⟨by decide, by decide, by decide, by decide, by decide, by decide, by decide, ⟨_, rfl⟩, by decide, by decide, by decide⟩

/-- A queue in state st, of 16 entries, job 1, its HEAD at 15 and TAIL at 0; its entry's command is at 0x1F82. -/
def queueState (st cmd : Nat) (ro : Bool) (reads : Nat) : State :=
  setCmdQueue (putHbm hostSet 0x1F82 2 cmd) { num := 63, reg := BitVec.ofNat 512 (0x1000 + 4 * 2 ^ 68 + 2 ^ 80 + 15 * 2 ^ 128 + st * 2 ^ 256), phase := 1, ro := ro
                                              reads := reads, due := 0 }

set_option exponentiation.threshold 5000 in
set_option maxRecDepth 1000000 in
theorem witness_CommandQueueEvents :
    (let s := queueState 0 0 false 0
     s.pkg.power ≠ .off ∧ cqState (cmdQueue s 63).reg = 0 ∧ (jobSlot s (cqJob (cmdQueue s 63).reg)).isSome ∧ cqLog (cmdQueue s 63).reg = 4 ∧
     15 < 2 ^ cqLog (cmdQueue s 63).reg) ∧
    cqState (cmdQueue (queueState 2 0 false 0) 63).reg = 2 ∧
    (∀ cmd, cmd < 5 → let s := queueState 1 cmd false 0
      entryWaits s (cmdQueue s 63).reg = true ∧ phaseOk s (cmdQueue s 63) = true ∧ entryCmd s (cmdQueue s 63).reg = cmd) ∧
    (∀ n, n = 14 ∨ n = 15 → let s := queueState 1 0 true n
      entryWaits s (cmdQueue s 63).reg = true ∧ phaseOk s (cmdQueue s 63) = false ∧ (cmdQueue s 63).due ≤ s.clock ∧ (cmdQueue s 63).reads = n) := by
  refine ⟨by decide, by decide, by decide, ?_⟩
  rintro n (rfl | rfl) <;> decide

/-- The package in a lifecycle and debug state. -/
def locked (l : Lifecycle) (d : DebugState) (valid : Bool) (token : Nat) : State :=
  hostState (fun p => { p with power := .run, lifecycle := l, debug := d, tokenValid := valid, dbgToken := BitVec.ofNat _ token })

set_option exponentiation.threshold 5000 in
set_option maxRecDepth 1000000 in
theorem witness_SecurityEvents :
    (∀ l d, ∃ s : State, s.pkg.power = .run ∧ s.pkg.lifecycle = l ∧ s.pkg.debug = d ∧ holdPending s = false ∧ s.pkg.dbgToken = 0 ∧ s.pkg.tokenValid = false) ∧
    ((locked .owned .off true 0).pkg.tokenValid = true ∧ (locked .owned .off false 1).pkg.dbgToken ≠ 0 ∧ (locked .owned .off false 1).pkg.tokenValid = false) ∧
    (let s := evState (fun t => { t with trap := { t.trap with held := true } }) (fun s => { s with pkg := { s.pkg with power := .run } })
     s.pkg.power = .run ∧ holdPending s = true) ∧
    (1 ≠ 0 ∧ Config.nKeySlots - 1 ≠ 0 ∧ Config.nKeySlots - 1 < Config.nKeySlots) :=
  ⟨fun l d => ⟨locked l d false 0, rfl, rfl, rfl, rfl, rfl, rfl⟩, by decide, by decide, by decide⟩

/-- A machine with port 95 in some state, in the given power state. -/
def portMachine (power : PowerState) (f : Port → Port) : State :=
  { withPort f with pkg := { State.reset.pkg with power := power } }
/-- A trained port whose key has gone through n windows, with failures of window 0. -/
def trained (n fails : Nat) (p : Port) : Port := { p.setState 2 with txCtr := n, fails := if fails = 0 then [] else [(0, fails)] }
def window (good : Bool) : Window := { ctr := 0, ack := 0, wm := 0, nack := false, kph := false, tagGood := good, items := [] }

set_option exponentiation.threshold 5000 in
set_option maxRecDepth 1000000 in
/-- Port 95, the last: untrained, after 2^47 windows, with 64 cycles of waiting, and after no and three failures of window 0; a retraining port, and one that awaits its peer's next key. -/
theorem witness_PowerAndPortEvents :
    State.reset.pkg.firmware = none ∧ State.reset.pkg.power ≠ .off ∧
    (let s := hostState (fun p => { p with power := .run, idleFor := 2 ^ 20 })
     s.pkg.power = .run ∧ quiet s = true ∧ 2 ^ 20 ≤ s.pkg.idleFor) ∧
    (hostState (fun p => { p with power := .idle })).pkg.power = .idle ∧
    (∃ p, (portMachine .run id).port? 95 = some p ∧ portMode p ≠ 0 ∧ p.retrain = false) ∧
    (∃ p, (portMachine .run (fun p => { p with retrain := true })).port? 95 = some p ∧ p.retrain = true) ∧
    (∃ p, (portMachine .run (trained (2 ^ 47) 0)).port? 95 = some p ∧ portState p = 2 ∧ 2 ^ 47 ≤ p.txCtr ∧ p.txNext = none ∧ p.rxNext = false) ∧
    (let s := ({ portMachine .run (trained 0 0) with clock := 64 }).updFab (fun b => { b with fabcfg := 0x200000000 })
     ∃ p, s.port? 95 = some p ∧ outPort s = some 95 ∧ 64 ≤ s.clock - p.padSince ∧ p.maySend = true) ∧
    (∀ n, n = 0 ∨ n = 3 → let s := (portMachine .idle (trained 0 n)).updFab (fun b => { b with fabcfg := 0x200000000 })
     ∃ p, s.port? 95 = some p ∧ portMode p = 1 ∧ portState p = 2 ∧ Claims.lit s ∧ (window true).tagGood = true ∧ (window true).kph = p.rxPhase ∧
       (window true).ctr = p.rxCtr ∧ (window false).tagGood = false ∧ p.skidOn = false ∧ (cellsGet p.fails 0).getD 0 + 1 = n + 1) ∧
    (∃ p, (portMachine .run (fun p => { trained 9 0 p with rxNext := true })).port? 95 = some p ∧ ({ window true with kph := true }).kph ≠ p.rxPhase ∧
      p.rxNext = true ∧ (window true).ctr = 0) ∧
    (let s := (portMachine .run id).updFab (fun b => { b with fabcfg := 0x200000000 })
     Claims.lit s ∧ 1 ≠ ownRank s) := by
  refine ⟨rfl, by decide, by decide, rfl, ⟨_, rfl, by decide⟩, ⟨_, rfl, by decide⟩, ⟨_, rfl, by decide⟩, ⟨_, rfl, by decide⟩, ?_, ⟨_, rfl, by decide⟩,
    ⟨by decide, .inl rfl⟩, by decide⟩
  rintro n (rfl | rfl) <;> exact ⟨_, rfl, by decide, by decide, ⟨by decide, .inr rfl⟩, by decide⟩

set_option exponentiation.threshold 5000 in
set_option maxRecDepth 1000000 in
/-- Ports 94 and 95 up: packets leave by 94, and 95 may send a window of idle flits. -/
theorem witness_PortsPad :
    let s := ({ portMachine .run (trained 0 0) with clock := 64 }).updFab (fun b => { b with
      fabcfg := 0x200000000, ports := [(94, trained 0 0 (port0 1)), (95, trained 0 0 (port0 1))] })
    ∃ p, s.port? 95 = some p ∧ outPort s = some 94 ∧ domainOf s ≠ 0 ∧ portMode p = 1 ∧ portState p = 2 ∧ 64 ≤ s.clock - p.padSince ∧ p.maySend = true :=
  ⟨_, rfl, by decide⟩

def remote1 (k : RemoteKind) : RemoteReq :=
  { id := 9, sent := 0, team := 1, warp := 0, seq := 0, flag := none, opc := 0xD0, kind := k, peer := 1, job := 1, stream := 0, num := 0, lanes := [(0, 0x2000, [])] }
def remoteState (k : RemoteKind) : State :=
  evState id (fun s => ({ s with clock := s.fab.rtime.toNat, pkg := { s.pkg with power := .run }, fab := { s.fab with fabcfg := 0x200000000 } }).updCore 23 (fun c => { c with remote := [remote1 k] }))
def packet1 (src dest : Nat) : Packet := { dest := dest, src := src, warp := 0, job := 1, opc := 0xD0, stream := 0, seq := 0, req := 9, lanes := [] }
def mcast1 (part : Bool) : Mcast := { op := 9, team := 1, warp := 0, seq := 0, flag := none, stream := 0, job := 1, part := part, members := 3, failed := [1], todo := [] }
def ueReq (write : Option (List Byte)) : UeRequest := { rkey := 7, uetJob := 3, offset := 12, len := 4, write := write }
/-- A window of 16 bytes that may be read and written. -/
def ueState : State :=
  { hostSet with fab := { State.reset.fab with uewins := [(0, BitVec.ofNat 512 (7 + 2 ^ 32 + 2 ^ 61 + 2 ^ 62 + 2 ^ 63 + 3 * 2 ^ 96 + 16 * 2 ^ 192))] } }

set_option exponentiation.threshold 5000 in
set_option maxRecDepth 1000000 in
theorem witness_RemoteEvents :
    (Claims.lit (remoteState .store) ∧ (packet1 1 0).dest = ownRank (remoteState .store) ∧ (packet1 1 0).src ≠ ownRank (remoteState .store)) ∧
    (let r : RemoteReq := { remote1 .store with peer := 0 }
     let s := (remoteState .store).updCore 23 (fun c => { c with remote := [r] })
     ∃ t, (packetFor s r).dest = ownRank s ∧ (packetFor s r).src = ownRank s ∧ findReq s (packetFor s r).req = some (23, r) ∧ s.team? r.team = some t ∧
       remoteWaits (wakeIdle s) t 23 r = false) ∧
    (findReq (remoteState .store) 9 = some (23, remote1 .store) ∧ (∀ n slot, (remote1 .store).kind ≠ .ue n slot) ∧
      (remoteState .store).fab.rtime.toNat ≤ (remoteState .store).clock - (remote1 .store).sent) ∧
    (let s := evState id (·.updFab (fun b => { b with mcasts := [mcast1 true] }))
     s.fab.mcasts.find? (fun m => m.op == 9) = some (mcast1 true) ∧ (mcast1 true).todo = [] ∧ ∀ c ∈ s.cores, ∀ r ∈ c.remote, r.kind ≠ .mcast 9) ∧
    (let s := evState (fun t => { t with warps := [{ warp .access with table := [], exited := BitVec.allOnes 32
                                                                       mcast := { bits := 0, fails := 1, pending := [(0, 1)] } }] }) id
     ∃ t, s.team? 1 = some t ∧ t.status ≠ .killed ∧ t.warps.all Warp.done = true ∧ t.warps.any (fun w => w.mcast.pending != []) = true) ∧
    (∃ t, (evState id id).team? 1 = some t ∧ t.warps.all Warp.done = false) ∧
    (ueMatch (wakeIdle hostSet) (ueReq none) = none ∧
      ∃ w, ueMatch (wakeIdle ueState) (ueReq none) = some w ∧ ueMatch (wakeIdle ueState) (ueReq (some [1, 2, 3, 4])) = some w ∧
        (ueReq none).offset + (ueReq none).len ≤ ueLen w ∧ ueRd w = true ∧ ueWr w = true) ∧
    (findReq (remoteState (.ue 0 1)) 9 = some (23, remote1 (.ue 0 1)) ∧ (remoteState (.ue 0 1)).pkg.power = .run) := by
  refine ⟨⟨⟨by decide, .inl rfl⟩, by decide⟩, ⟨_, by decide, by decide, rfl, rfl, by decide⟩, ⟨rfl, nofun, by decide⟩, ⟨rfl, rfl, by decide⟩,
    ⟨_, rfl, by decide⟩, ⟨_, rfl, by decide⟩, ⟨by decide, _, rfl, rfl, by decide⟩, by decide⟩

/-- A machine in Run with group 1 in some state, of ranks 0 and 1, its own rank 0. -/
def groupState (gs : List Group) (cs : List Coll) : State :=
  { State.reset with clock := 2 ^ 40, pkg := { State.reset.pkg with power := .run }
                     fab := { State.reset.fab with fabcfg := 0x200000000, cgroup := 2, groups := gs, colls := cs } }
def collPacket (tag : BitVec 16) : CollPacket := { group := 1, vtag := tag, src := 1, seq := 0, digest := 0, body := .fault, flits := 1 }
/-- A started barrier of group 1 that rank 1 has not joined. -/
def coll1 : Coll :=
  { id := 9, team := 1, slot := 0, flag := none, job := 1, desc := BitVec.ofNat 512 barrierDesc, seq := 0, digest := 0, started := true, inputs := []
    digests := [], faults := [], ownFault := 0, since := 0, result := none, status := 0, view := 1, members := 3, holder := none, wait := [] }
def agreeing (g : Group) : Group := { g with st := .agreeing, since := 0 }
def viewMsg (group src : Nat) : ViewMsg :=
  { group := group, view := 1, src := src, attempt := 0, bitmap := 3, names := [], holds := [], decisions := [], seq := 0, leave := false }
/-- A machine of rank me in a domain of four, all connected, with group 1 of ranks 0 to 2. -/
def memberState (me : Nat) (g : Group) (cs : List Coll) : State :=
  (groupState [g] cs).updFab (fun b => { b with fabcfg := BitVec.ofNat 64 (0x400000000 + me), cgroup := 15 })
def group3 : Group := { group .stable with bitmap := 7 }

theorem memberState_lit (me : Nat) (h : domainOf (memberState me group3 []) ≠ 0) : Claims.lit (memberState me group3 []) := ⟨h, .inl rfl⟩

set_option exponentiation.threshold 5000 in
set_option maxRecDepth 1000000 in
/-- One message for each clause: stale; a suspicion; a proposal of the coordinator 0 to rank 1, and one of rank 2; an acceptance of rank 2 with and without the others', and one that suspects rank 1; commits with and without the device; joins of rank 3 at rank 1, at the coordinator while a collective runs, and once none does; a leave. -/
theorem witness_agreementMessages :
    Claims.lit (memberState 0 group3 []) ∧ (memberState 0 group3 []).group? 1 = some group3 ∧ group3.active = true ∧
    tagClass group3.view (({ viewMsg 1 1 with view := 0 }).view.setWidth 16) = .stale ∧ tagClass group3.view ((viewMsg 1 1).view.setWidth 16) = .current ∧
    Claims.newSuspects (memberState 0 group3 []) group3 [1] ≠ [] ∧
    (coordinatorOf group3 = some 0 ∧ ownRank (memberState 1 group3 []) = 1 ∧ bitOf (7 : BitVec 4096) 1 = true ∧
      (cellsGet group3.seen 0).getD 0 < (viewMsg 1 0).view.toNat * 2 ^ 32 + (viewMsg 1 0).attempt) ∧
    (let g : Group := { group3 with proposal := some 7, accepts := [(0, []), (1, [])] }
     (memberState 0 g []).group? 1 = some g ∧ (viewMsg 1 2).attempt = g.attempt ∧ bitOf (7 : BitVec 4096) 2 = true ∧
     (∀ r ∈ membersOf 7, ∃ a ∈ g.accepts.filter (fun a => a.1 != 2) ++ [(2, [])], a.1 = r) ∧ quorum g 7 = true ∧
     (∃ y ∈ [1], bitOf (7 : BitVec 4096) y = true ∧ y ≠ ownRank (memberState 0 g [])) ∧
     ∃ r ∈ membersOf 7, ∀ a ∈ [(2, ([] : List (BitVec 32 × Bool)))], a.1 ≠ r) ∧
    (group3.initDigest = none ∧ group3.joiner = none ∧ (memberState 0 group3 []).fab.rx = [] ∧ (memberState 0 group3 []).fab.colls = [] ∧
      bitOf (3 : BitVec 4096) 0 = true ∧ bitOf (6 : BitVec 4096) 0 = false ∧ group3.held = [] ∧ group3.results = [] ∧ group3.st ≠ .uninstalled) ∧
    (bitOf group3.bitmap 3 = false ∧ inCgroup (memberState 0 group3 []) 3 = true ∧ bitOf group3.bitmap 2 = true ∧
      (let h : Group := { group3 with joiner := some (3, false), st := .joining }
       coordinatorOf h = some 0 ∧ h.proposal = none ∧ ownRank (memberState 0 group3 []) = 0 ∧ ownRank (memberState 1 group3 []) ≠ 0 ∧
       groupQuiet (memberState 0 group3 []) 1 = true ∧ groupQuiet (memberState 0 group3 [coll1]) 1 = false)) :=
  ⟨memberState_lit 0 (by decide), rfl, by decide, by decide, by decide, by decide, by decide, ⟨rfl, by decide⟩, by decide, by decide⟩

set_option exponentiation.threshold 5000 in
set_option maxRecDepth 1000000 in
/-- Tags at the ends of the classes, with room and none for a packet that is ahead; the coordinator 0 suspected in a group of two and of three; a coordinator whose members are late, and one without a quorum; a barrier heard of all; installations with the same digest, another, and one missing. -/
theorem witness_ViewEvents :
    (Claims.lit (memberState 0 group3 []) ∧ (memberState 0 group3 []).group? 1 = some group3 ∧ group3.active = true ∧
      tagClass 1 0 = .stale ∧ tagClass 1 1 = .current ∧ tagClass 1 0x8000 = .ahead ∧ tagClass 1 0x8001 = .stale ∧
      aheadFlits group3 + (collPacket 0x8000).flits ≤ 256 ∧ 256 < aheadFlits group3 + ({ collPacket 0x8000 with flits := 257 }).flits) ∧
    (let s := memberState 0 (group .stable) [coll1]
     s.fab.colls.find? (wants s (collPacket 1)) = some coll1 ∧ s.fab.colls.find? (wants s { collPacket 1 with seq := 1 }) = none ∧
     s.coll? 9 = some coll1 ∧ s.group? 1 = some (group .stable) ∧ coll1.started = true ∧ coll1.result = none ∧ coll1.holder = none ∧
     bitOf coll1.members 1 = true ∧ (∀ x ∈ coll1.inputs, x.1 ≠ 1) ∧ coll1.faults.contains 1 = false ∧ s.fab.cstep.toNat ≤ s.clock - coll1.since ∧
     (group .stable).suspects.contains 1 = false ∧ bitOf (group .stable).bitmap 1 = true ∧ allHeard coll1 = false) ∧
    (∀ bm, bm = 3 ∨ bm = 7 → let g : Group := { agreeing (group .stable) with bitmap := bm }
     let s := memberState 1 g []
     let h : Group := { g with since := s.clock, suspects := [0] }
     s.group? 1 = some g ∧ s.fab.agree.toNat ≤ s.clock - g.since ∧ g.proposal = none ∧ coordinatorOf g = some 0 ∧ 0 ≠ ownRank s ∧
     coordinatorOf h = some (ownRank s) ∧
     ((bm = 7 ∧ quorum h (proposalOf h) = true ∧ otherMembers s (proposalOf h) ≠ []) ∨ (bm = 3 ∧ quorum h (proposalOf h) = false))) ∧
    (let g : Group := { agreeing group3 with proposal := some 7, accepts := [(0, []), (1, [])] }
     let s := memberState 0 g []
     s.group? 1 = some g ∧ g.joiner = none ∧ coordinatorOf g = some (ownRank s) ∧
     Claims.newSuspects s g ((membersOf 7).filter (fun r => !g.accepts.any (fun a => a.1 == r))) = [2] ∧
     quorum { g with suspects := [2] } (proposalOf { g with suspects := [2] }) = true ∧ otherMembers s (proposalOf { g with suspects := [2] }) ≠ []) ∧
    (let g : Group := { agreeing group3 with suspects := [1, 2] }
     let s := memberState 0 g []
     g.proposal = none ∧ coordinatorOf g = some (ownRank s) ∧ quorum g (proposalOf g) = false ∧ s.fab.rx = [] ∧ s.fab.colls = []) ∧
    (let c : Coll := { coll1 with inputs := [(0, []), (1, [])] }
     let s := { memberState 0 (group .stable) [c] with teams := (evState id id).teams }
     s.coll? 9 = some c ∧ (∃ t, s.team? c.team = some t ∧ t.status ≠ .finished ∧ t.status ≠ .killed) ∧ allHeard c = true ∧ digestsDiffer c = false ∧
     digestsDiffer { c with digests := [(1, 5)] } = true ∧ ({ c with faults := [1] }).faults ≠ [] ∧
     ∃ ps, confRange s c.job (cdDst c.desc) (elemBytes (cdWidth c.desc) (ownPart s c (formResult c))).length .w = .ok ps) ∧
    (let g : Group := { group .uninstalled with initDigest := some 5 }
     (groupState [g] []).group? 1 = some g ∧ (∃ p ∈ [(1, (4#32))], bitOf g.bitmap p.1 = true ∧ p.2 ≠ 5) ∧
     (∀ p ∈ [(1, (5#32))], bitOf g.bitmap p.1 = true → p.2 = 5) ∧ (∀ r ∈ otherMembers (groupState [g] []) g.bitmap, ∃ p ∈ [(1, (5#32))], p.1 = r) ∧
     ∃ r ∈ otherMembers (groupState [g] []) g.bitmap, ∀ p ∈ ([] : List (Nat × BitVec 32)), p.1 ≠ r) := by
  refine ⟨⟨memberState_lit 0 (by decide), by decide⟩, by decide, ?_, by decide, by decide, ⟨rfl, ⟨_, rfl, by decide⟩, by decide, by decide, by decide,
    by decide, _, rfl⟩, by decide, by decide, by decide, by decide, by decide⟩
  rintro bm (rfl | rfl) <;> decide

set_option exponentiation.threshold 5000 in
set_option maxRecDepth 1000000 in
/-- Proposals that are not accepted: of rank 2, which omits rank 0, at rank 1, which becomes its own coordinator, and one that omits rank 1 at rank 2, whose coordinator is rank 0; one of the coordinator at an attempt already seen; the last acceptance of a join that names a collective in flight; a group of the device alone, with and without a suspicion to propose from. -/
theorem witness_proposals :
    (let g := group3
     ownRank (memberState 1 g []) = 1 ∧ bitOf (6 : BitVec 4096) 1 = true ∧
     (membersOf (g.bitmap &&& ~~~(6 : BitVec 4096))).filter (fun r => r != 1 && !g.suspects.contains r) = [0] ∧
     coordinatorOf { g with suspects := g.suspects ++ [0], st := .agreeing } = some 1) ∧
    (let g := group3
     ownRank (memberState 2 g []) = 2 ∧ (membersOf (g.bitmap &&& ~~~(5 : BitVec 4096))).filter (fun r => r != 2 && !g.suspects.contains r) = [1] ∧
     coordinatorOf { g with suspects := g.suspects ++ [1], st := .agreeing } = some 0 ∧ (0 : Nat) ≠ 2 ∧
     (let g : Group := { group3 with seen := [(0, 2 ^ 32)] }
      (viewMsg 1 0).view.toNat * 2 ^ 32 + (viewMsg 1 0).attempt ≤ (cellsGet g.seen 0).getD 0)) ∧
    (let g : Group := { group3 with proposal := some 15, accepts := [(0, []), (1, []), (3, [])], joiner := some (3, false), st := .joining }
     g.joiner.isSome = true ∧ g.suspects = [] ∧ (∀ r ∈ membersOf 15, ∃ a ∈ g.accepts.filter (fun a => a.1 != 2) ++ [(2, [((0 : BitVec 32), false)])], a.1 = r) ∧
     ∃ a ∈ g.accepts.filter (fun a => a.1 != 2) ++ [(2, [((0 : BitVec 32), false)])], a.2 ≠ []) ∧
    (let g : Group := { group .agreeing with bitmap := 1 }
     let s := memberState 0 g []
     quorum g (proposalOf g) = true ∧ otherMembers s (proposalOf g) = [] ∧ holdsOf s 1 = []) ∧
    (let g : Group := { group .joining with bitmap := 3, suspects := [1], joiner := some (2, false) }
     quorum { g with bitmap := 1 } (proposalOf { g with bitmap := 1 }) = true ∧ quorum g (proposalOf g) = false) ∧
    (let g : Group := { agreeing group3 with suspects := [0, 1, 2] }
     coordinatorOf g = none) :=
  by decide

/-- A packet of the present view at a device outside it, and one ahead; a fault notice and a result for a started collective. -/
theorem witness_packetsOutside :
    (group .excluded).active = false ∧ tagClass (group .excluded).view 1 = .current ∧ tagClass (group .excluded).view 2 = .ahead ∧
    (collPacket 1).body = .fault ∧ ({ collPacket 1 with body := .result [7] }).body = .result [7] := by decide

/-! ## Further forms: transfers whose lanes part, merges, barriers, waits and secondary traps -/

/-- One target of all lanes: by a full guard, by none, and by a branch to the next word that half the lanes take; every v6:v7 is 0. -/
theorem witness_OneTarget :
    oneTarget cA 7 (fun _ => target cA (-16)) 0xFC0 ∧ oneTarget cA 15 (fun _ => target cA (-16)) 0x1004 ∧
    oneTarget forkCtx 0 (fun _ => target forkCtx 1) 0x1004 ∧ aligned cA 7 (cA.w.v64 6) ∧ oneTarget cA 7 (cA.w.v64 6) 0 ∧
    aligned cA 7 ((op64 0x40).value cA) ∧ oneTarget cA 7 ((op64 0x40).value cA) 0 := by
  unfold oneTarget aligned; decide

/-- The two targets of a transfer by -16 of which lane 0 takes the lower. -/
def twoTargets : List Target := [⟨0xFC0, 1⟩, ⟨0x1004, 2⟩]

/-- Lane 0's v6:v7 is 0x2000, so RET and JMPI part. -/
def retCtx : Ctx := ctxOf State.reset (team .access) ((warp .access).setV 6 1 (fun _ => 0x2000)) lanes2

theorem witness_DivergingTargets :
    targetsAre forkCtx.p.mask (nextPc forkCtx 0 (fun _ => target forkCtx (-16))) twoTargets ∧
    targetsAre (linked forkCtx 0).p.mask (nextPc forkCtx 0 (fun _ => target forkCtx (-16))) twoTargets ∧
    (Issues retCtx.s .both retCtx ∧ aligned retCtx 7 (retCtx.w.v64 6) ∧ targetsAre retCtx.p.mask (nextPc retCtx 7 (retCtx.w.v64 6)) [⟨0, 2⟩, ⟨0x2000, 1⟩]) ∧
    ((op64 6).ok retCtx = true ∧ aligned retCtx 7 ((op64 6).value retCtx) ∧
      targetsAre retCtx.p.mask (nextPc retCtx 7 ((op64 6).value retCtx)) [⟨0, 2⟩, ⟨0x2000, 1⟩]) :=
  ⟨by unfold targetsAre; decide, by unfold targetsAre; decide, ⟨⟨issuing_ctxOf _ _ _ _ rfl, rfl⟩, by unfold aligned; decide, by unfold targetsAre; decide⟩,
   rfl, by unfold aligned; decide, by unfold targetsAre; decide⟩

/-- The counter at 0x7EFE takes one SEQ as it is, and at 0x7F00 after a rebase. -/
def agedCtx (n : BitVec 16) : Ctx := ctxOf State.reset (team .access) { (warp .access).setP 0 1 (fun _ => true) with seqCtr := n } lanes2

theorem witness_Rebases :
    (Issues (agedCtx 0x7EFF).s .both (agedCtx 0x7EFF) ∧ rebases 1 (agedCtx 0x7EFF) (agedCtx 0x7EFF)) ∧
    (Issues (agedCtx 0x7F00).s .both (agedCtx 0x7F00) ∧ rebases 1 (agedCtx 0x7F00) ((agedCtx 0x7F00).rebase 1) ∧
      ((agedCtx 0x7F00).rebase 1).w.seqCtr = 1 ∧
      targetsAre ((agedCtx 0x7F00).rebase 1).p.mask (nextPc (agedCtx 0x7F00) 0 (fun _ => target (agedCtx 0x7F00) (-16))) twoTargets) :=
  ⟨⟨⟨issuing_ctxOf _ _ _ _ rfl, rfl⟩, .inl ⟨rfl, fun o h => by cases h; decide⟩⟩, ⟨issuing_ctxOf _ _ _ _ rfl, rfl⟩,
   .inr ⟨_, [], List.Perm.refl _, by decide, by decide, rfl⟩, by decide, by unfold targetsAre; decide⟩

/-- A new split's place: a free entry, the victim's, the spill area beside live splits, and none. -/
theorem witness_Records :
    let new (c : Ctx) := [newSplit c.p c.s.clock c.p.parent ⟨0x1004, 2⟩]
    let places (c : Ctx) (r : Option Warp) : Prop := records c.t.ident.kern.spill c.p.seq (c.w.table.map (·.seq)) c.w (new c) r
    (∃ w, places forkCtx (some w) ∧ w.table.length = 2) ∧
    (∃ w, places (fullCtx .parked []) (some w) ∧ w.spilled.map Split.seq = [1]) ∧
    (∃ w, places (fullCtx .live []) (some w) ∧ w.spilled.map Split.seq = [8]) ∧
    (Issues (fullCtx .parked [split]).s .both (fullCtx .parked [split]) ∧ places (fullCtx .parked [split]) none) := by
  refine ⟨⟨_, .inl ⟨by decide, rfl⟩, by decide⟩, ⟨_, .inr (.inr (.inl ⟨by decide, by decide, { split with seq := 1, st := .parked }, ?_, rfl⟩)), by decide⟩,
    ⟨_, .inr (.inr (.inr ⟨by decide, by decide, by decide, rfl⟩)), by decide⟩, ⟨⟨rfl, rfl⟩, rfl⟩, .inr (.inl ⟨by decide, by decide, rfl⟩)⟩
  unfold spillsFirst; decide

/-- Armed with room, outside a handler and in it. -/
theorem witness_ArmedDivergence :
    (let c := ctxOf State.reset (team .access) ((warp .access).setP 0 1 (fun _ => true)) { lanes2 with arm := true, mpc := 0x2000 }
     Issues c.s .both c ∧ c.p.arm = true ∧ targetsAre c.p.mask (nextPc c 0 (fun _ => target c (-16))) twoTargets ∧ rebases 2 c c ∧
     ∃ w, records c.t.ident.kern.spill c.p.seq (c.w.table.map (·.seq)) c.w (twoTargets.map (newSplit c.p c.s.clock (some c.p.seq))) (some w)) ∧
    (let c := ctxOf State.reset (handlerTeam .access) ((warp .access).setP 0 1 (fun _ => true)) { lanes2 with arm := true, mpc := 0x2000 }
     Issues c.s .both c ∧ c.inHandler = true ∧ c.p.arm = true ∧ targetsAre c.p.mask (nextPc c 0 (fun _ => target c (-16))) twoTargets ∧ rebases 2 c c) :=
  ⟨⟨⟨issuing_ctxOf _ _ _ _ rfl, rfl⟩, rfl, by unfold targetsAre; decide, .inl ⟨rfl, fun o h => by cases h; decide⟩,
    _, .inl ⟨by decide, .inl ⟨by decide, rfl⟩⟩⟩,
   ⟨issuing_ctxOf _ _ _ _ rfl, rfl⟩, by decide, rfl, by unfold targetsAre; decide, .inl ⟨rfl, fun o h => by cases h; decide⟩⟩

/-- A child at the MPC of its parent, which waits in the spill area; the same in a handler, whose parent's lanes then are complete or not. -/
def handlerChild (spilled : Bool) (lanes : LaneMask) (more : List Split) : Ctx :=
  let q : Split := { split with seq := 0, mpc := 0x1000, st := .waitingMerge, mask := lanes }
  let p : Split := { split with seq := 1, parent := some 0, mask := 1 }
  let w : Warp := { warp .access with table := (if spilled then [] else [q]) ++ p :: more, spilled := if spilled then [q] else [], exited := ~~~3
                                      slots := [{ seq := some 1, issued := 0 }, { seq := none, issued := 0 }] }
  let t : Team := { handlerTeam .access with warps := [w] }
  let t : Team := { t with trap := { t.trap with handler := some { warp := 0, seq := 1, stood := 0x1000, arrival := none } } }
  { s := { State.reset with teams := [t], cur := some { team := 1, warp := 0, seq := 1 } }, t := t, w := w, p := p, wi := 0 }

/-- The warp that a MERGE of the child leaves before the handler goes on. -/
def merged (c : Ctx) (f : Split → Split) : Warp :=
  { c.w with table := (dropSplit c.w.table c.p.seq).map (fun x => if x.seq = 0 then f x else x)
             spilled := c.w.spilled.map (fun x => if x.seq = 0 then f x else x) }

/-- The last lane arrives, at a parent in the table and one that was spilled; lane 1 is missing, with a sibling that goes on and with none. -/
theorem witness_MergeInHandler :
    let fused (x : Split) : Split := { x with arrived := 0, mask := 1, pc := x.mpc + 4, st := .parked, setA := 15, setB := 15 }
    let part (x : Split) : Split := { x with arrived := x.arrived ||| 1 }
    let kid : Split := { split with seq := 2, parent := some 0, mask := 2, st := .parked }
    (∀ b, let c := handlerChild b 1 []
      Issues c.s .both c ∧ c.inHandler = true ∧ c.p.parent = some 0 ∧ (c.w.split? 0).map Split.st = some .waitingMerge ∧ releaseReady c c.p.mask 0 = true ∧
      (∃ h, handlerGoesOn (merged c fused) 0 h ∧ h.seq = 0) ∧
      (merged c fused).slots.findIdx? (fun l => l.seq == some c.p.seq) = some 0) ∧
    (let c := handlerChild false 3 [kid]
     Issues c.s .both c ∧ handlerGoesOn (merged c part) 0 kid) ∧
    (let c := handlerChild false 3 []
     Issues c.s .both c ∧ (∃ x, (merged c part).split? 0 = some x ∧ x.st = .waitingMerge) ∧
      ∀ y ∈ (merged c part).splits, y.st ≠ .waitingMerge → (merged c part).below 0 64 y = false) := by
  refine ⟨?_, ⟨⟨⟨rfl, rfl⟩, rfl⟩, _, rfl, .inr ⟨by decide, by decide, by decide, by decide, by decide⟩⟩, ⟨⟨rfl, rfl⟩, rfl⟩, ⟨_, rfl, by decide⟩, by decide⟩
  intro b
  cases b
  · exact ⟨⟨⟨rfl, rfl⟩, rfl⟩, by decide, rfl, by decide, by decide, ⟨_, ⟨_, rfl, .inl ⟨by decide, rfl⟩⟩, rfl⟩, by decide⟩
  · exact ⟨⟨⟨rfl, rfl⟩, rfl⟩, by decide, rfl, by decide, by decide, ⟨_, ⟨_, rfl, .inl ⟨by decide, rfl⟩⟩, rfl⟩, by decide⟩

/-- MERGEAT, MERGE and YIELD under p0, no guard that always or never holds; MERGE whose parent waits elsewhere; YIELD in a handler. -/
theorem witness_GuardedMerge :
    ((0#4) ≠ 7 ∧ (0#4) ≠ 15) ∧ ((handlerCtx .access).inHandler = true ∧ Issues (handlerCtx .access).s .both (handlerCtx .access)) ∧
    (let c := { childCtx with p := { childCtx.p with pc := 0x1004 } }
     ∀ q x, c.p.parent = some q → c.w.split? q = some x → ¬(x.st = .waitingMerge ∧ x.mpc = c.p.pc)) := by
  refine ⟨by decide, ⟨by decide, issH _ _ rfl⟩, ?_⟩
  rintro c q x hq hx ⟨-, h⟩
  cases hq
  have e := congrArg (Option.map Split.mpc) hx
  rw [Option.map_some, h] at e
  revert e
  decide

/-- An access warp and a mate at barrier 2, of which the issuing one, at position 0, may have arrived at the pending instance 4 of a set. -/
def barCtx (mate : Role) (set : BitVec 2) (arrived : List BarArrival) (a : Option Arrival) : Ctx :=
  let w : Warp := { warp .access with table := [{ split with arrival := a }] }
  let t : Team := { team .access with warps := [w, { warp mate with index := 1 }] }
  let t := t.setBar 2 { next := 5, pending := [{ num := 4, set := set, arrived := arrived }] }
  { s := { State.reset with teams := [t], cur := some { team := 1, warp := 0, seq := 0 } }, t := t, w := w, p := { split with arrival := a }, wi := 0 }

/-- An arrival of the warp at position n. -/
def arrival (n : Nat) : BarArrival := { warp := n, lanes := 0xFFFFFFFF, mark := 0 }

/-- An access warp at an instance of the execute set; one whose own set 1 leaves it out, at an idle barrier; an instance that lacks it, which its arrival completes, and one that has it and waits for the other warp, where it opens the next; a BAR issued again, over and not. -/
theorem witness_BarrierArrivals :
    (arrivesNowhere (barCtx .execute 1 [] none) 2 0 ∧ arrivesNowhere cA 2 1 ∧
      arrivesNowhere (withBars (barCtx .execute 0 [] none) 2 6 [{ num := 4, set := 0, arrived := [arrival 0] }, { num := 5, set := 1, arrived := [] }]) 2 0) ∧
    (∃ l, arrivesAt (barCtx .access 0 [arrival 1] none) 2 0 0xFFFFFFFF 4 5 l ∧
      ∀ x ∈ l.filter (fun x => !x.complete (barCtx .access 0 [arrival 1] none).s (barCtx .access 0 [arrival 1] none).team), x.num ≠ 4) ∧
    (∃ l, arrivesAt (barCtx .access 0 [arrival 0] none) 2 0 0xFFFFFFFF 5 6 l ∧
      ∃ x ∈ l.filter (fun x => !x.complete (barCtx .access 0 [arrival 0] none).s (barCtx .access 0 [arrival 0] none).team), x.num = 5) ∧
    (let c := barCtx .access 0 [arrival 0] (some (.bar 2 4))
     Issues c.s .both c ∧ c.act 7 ≠ 0 ∧ 2 < c.t.bars.length ∧ c.p.arrival = some (.bar 2 4) ∧ ∃ x ∈ pendingBars c 2, x.num = 4) ∧
    (let c := barCtx .access 0 [arrival 0, arrival 1] (some (.bar 2 4))
     Issues c.s .both c ∧ ∀ x ∈ pendingBars c 2, x.num ≠ 4) := by
  refine ⟨⟨.inl ⟨{ num := 4, set := 1, arrived := [] }, by decide, by decide⟩, .inr (.inr ⟨rfl, by decide⟩), .inr (.inl ⟨{ num := 5, set := 1, arrived := [] }, by decide, by decide⟩)⟩, ⟨_, ⟨fun o h => by cases h; decide, .inl ⟨_, rfl, by decide, rfl, rfl, rfl⟩⟩, by decide⟩,
    ⟨_, ⟨fun o h => by cases h; decide, .inr ⟨rfl, by decide, rfl, rfl, rfl⟩⟩, by decide⟩, ⟨⟨⟨rfl, rfl⟩, rfl⟩, by decide, by decide, rfl, by decide⟩,
    ⟨⟨rfl, rfl⟩, rfl⟩, by decide⟩

/-- CBAR with no instance pending, and with one that another team has opened. -/
theorem witness_CbarArrivals :
    arrivesAtCbar cA 0 { next := 1, pending := [{ num := 0, arrived := [{ team := 1, warp := 0, lanes := cA.p.mask, mark := cA.s.nextId }] }] } ∧
    (let c := ctxOf (setCbar State.reset 3 { next := 1, pending := [{ num := 0, arrived := [{ team := 2, warp := 0, lanes := 1, mark := 0 }] }] }) (team .access) (warp .access) split
     Issues c.s .both c ∧ ∃ b, arrivesAtCbar c 0 b ∧ b.pending.length = 1) :=
  ⟨.inr ⟨rfl, rfl, rfl⟩, ⟨issuing_ctxOf _ _ _ _ rfl, rfl⟩, _, .inl ⟨_, rfl, rfl, rfl⟩, rfl⟩

/-- ORDER 0, 1 and 2 at the last scope; an STFE of a full granule, and of an empty one that another warp's held set covers. -/
theorem witness_FencesAndFullGranules :
    (let c := ringCtx .access
     releaseReady c (c.act 7) 5 = true ∧ rereads c.t c.wi (c.act 7) c.s.nextId = false ∧ readsOwed c.s c.t c.wi (c.act 7) = false) ∧
    (let c := ringCtx .access
     ∃ ls es, checkLanes c (c.act 7) 2 .fullEmpty .w 4 4 = .ok ls es ∧ c.heldHere (granulesOf ls) = false ∧ ∃ k ∈ granulesOf ls, granuleFull c.t k = true) ∧
    (let t : Team := { team .access with scr := { (team .access).scr with held := [{ warp := 1, lanes := 1, mark := 0, wide := false, granules := [0], full := true, writes := [] }] } }
     let c := ctxOf State.reset t (ringWarp .access) lane1
     Issues c.s .accessOnly c ∧ ∃ ls es, checkLanes c (c.act 7) 2 .fullEmpty .w 4 4 = .ok ls es ∧ c.heldHere (granulesOf ls) = false ∧
       (∀ k ∈ granulesOf ls, granuleFull c.t k = false) ∧ ∃ k ∈ granulesOf ls, c.t.filling k = true) :=
  ⟨by decide, ⟨_, _, rfl, by decide⟩, ⟨issuing_ctxOf _ _ _ _ rfl, rfl⟩, _, _, rfl, by decide⟩

set_option exponentiation.threshold 600 in
set_option maxRecDepth 100000 in
/-- A SLAY whose record a late store of its core is still to write; a stopped drain of the warp, at its SWAIT. -/
theorem witness_LayoutWaits :
    (let s := (mapped layout).updCore 0 (fun k => { k with stores := [{ op := 1, team := 1, warp := 0, lanes := 1, flag := none, scope := 0, key := 0, bytes := [(0x2000, 5)], uncached := false, l1 := false, stream := none, late := true, first := 1 }] })
     let c := ctxOf s (ringTeam .access) ((warp .access).setS 2 0x2000) lane1
     Issues c.s .both c ∧ ∃ ps es, globalPlaces c.s c.agent 0x2000 64 .r = .ok ps es ∧ overtakesAny c ((lanesOf (c.act 7)).map (fun L => (L, ps))) = true) ∧
    (let c := ctxOf State.reset { ringTeam .access with stopped := [{ id := 9, warp := 0, flag := none, engine := 3, va := 0 }] } (warp .access) lane1
     Issues c.s .both c ∧ c.act 7 ≠ 0 ∧ c.p.arrival = none ∧
       c.t.stopped.filter (fun x => x.warp == c.wi && (maskEngines 8).contains x.engine) = [{ id := 9, warp := 0, flag := none, engine := 3, va := 0 }]) :=
  ⟨⟨⟨issuing_ctxOf _ _ _ _ rfl, rfl⟩, _, _, rfl, by decide⟩, ⟨issuing_ctxOf _ _ _ _ rfl, rfl⟩, by decide⟩

/-- A team in its handler whose secondary trap has the cause, low address word and drain given. -/
def secondCtx (cause : Nat) (lo : Word) (drain : Option Nat) : Ctx :=
  let t := handlerTeam .execute
  ctxOf ((State.reset).updFab (fun b => { b with groups := [group .stable] }))
    { t with stopped := [{ id := 9, warp := 0, flag := some 2, engine := 3, va := 0x40 }]
             trap := { t.trap with second := { t.trap.second with lo := lo, drain := drain }
                                   regs := { t.trap.regs with cause2 := BitVec.ofNat 32 (256 + cause), pc2 := 0x1000 } } }
    (warp .execute) split

/-- A secondary SLOTPOISON of a SWAIT, whose drain stands, and a secondary VIEWCHG of group 1. -/
theorem witness_SecondaryTraps :
    (let c := secondCtx causeSLOTPOISON.toNat 0x40 (some 9)
     c.s.team? c.t.id = some c.t ∧ bitOf c.t.trap.regs.cause2 8 = true ∧ BitVec.ofNat 8 (bitsOf c.t.trap.regs.cause2 0 8) = causeSLOTPOISON ∧
     c.t.stopped.find? (fun d => c.t.trap.second.drain == some d.id) = some { id := 9, warp := 0, flag := some 2, engine := 3, va := 0x40 } ∧
     findSplit c.w.table (BitVec.ofNat 16 (bitsOf c.t.trap.regs.cause2 16 16)) = some c.p ∧ c.p.unitPc = c.t.trap.regs.pc2) ∧
    (let c := secondCtx causeVIEWCHG.toNat 1 none
     c.s.team? c.t.id = some c.t ∧ BitVec.ofNat 8 (bitsOf c.t.trap.regs.cause2 0 8) = causeVIEWCHG ∧ (c.s.group? c.t.trap.second.lo.toNat).isSome ∧
     c.t.stopped.find? (fun d => c.t.trap.second.drain == some d.id) = none) :=
  ⟨⟨rfl, by decide, by decide, rfl, rfl, by decide⟩, rfl, by decide, by decide, by decide⟩

set_option exponentiation.threshold 5000 in
set_option maxRecDepth 100000 in
/-- Each selector of VIEWQ that a group, its absence, a fault record and its absence answer; 7 is the last. -/
theorem witness_ViewWords :
    ((fabCtx 0 []).s.group? 1 = none ∧ (fabCtx 0 []).w.rfault = none) ∧
    (let c := viewCtx 3 [group .stable] none
     c.s.group? 1 = some (group .stable) ∧ (group .stable).st ≠ .uninstalled ∧ (group .stable).st ≠ .excluded ∧ bitOf (group .stable).bitmap (ownRank c.s) = true) ∧
    (let c := viewCtx 3 [group .excluded] none
     c.s.group? 1 = some (group .excluded) ∧ (group .excluded).st = .excluded) ∧
    (let c := ctxOf (fabState 0 []) (team .access) { warp .access with rfault := some fault1 } lane1
     Issues c.s .accessOnly c ∧ c.w.rfault = some fault1 ∧ (∃ c' vs, Reads c.s .accessOnly c 7 [op32 .int 0x71, op32 .int 0x76] c' vs ∧ (val vs 1 (lane0 (c.act 7))).toNat % 16 ≤ 7)) :=
  ⟨by decide, by decide, by decide, ⟨issuing_ctxOf _ _ _ _ rfl, rfl⟩, rfl, _, _, reads_of ⟨issuing_ctxOf _ _ _ _ rfl, rfl⟩ rfl rfl, by decide⟩

/-! ## Further forms of events -/

/-- The clock of the small machines runs: they stand in Run. -/
theorem clockRuns_reset (f : Team → Team) (g : State → State) (h : ∀ s, (g s).pkg = s.pkg) : clockRuns (evState f g) = true := by
  unfold evState clockRuns
  rw [h]
  rfl

/-- Errors in a dirty line of L1 that holds a plain store, a store of a stream, one that passed L1, and none; in a read-only copy that stands in the last sector's slice. -/
theorem witness_LinesRepaired :
    (let held (st : List PStore) := ((evState id (·.updCore 0 (fun k => { k with stores := st }))).core 0).stores.filter
       (fun st => st.l1 && st.stream.isNone && st.bytes.any (fun b => b.1 / 128 == 0x20))
     held [store1 none] = [store1 none] ∧ held [store1 (some (1, 0, 7))] = [] ∧ held [{ store1 none with l1 := false }] = [] ∧ held [] = []) ∧
    (evState id (·.updDie (fun d => { d with copies := [(0x20, 3)] }))).die.copies.contains (0x20, 3) = true := by decide

set_option exponentiation.threshold 5000 in
set_option maxRecDepth 1000000 in
/-- A SDRAIN that has written before it meets its page, a line of L2 being poisoned and none. -/
theorem witness_DrainWrites :
    (let c := { command with drain := true, started := true, wrote := [(0x1000, 255, 5)], writes := [(0x1001, 255, 5), (0x40000000, 255, 5)] }
     let s := (withCmd c id).updDie (fun d => { d with l2Poison := [0x20] })
     let s := { s with pkg := (missing 0).pkg }
     clockRuns s = true ∧ ∃ t u va left, headCmd s 23 3 = some (c, t) ∧ storesAhead s 23 t.ident.job c.writes = false ∧
       performWrites 23 t.ident.job s c.writes = (u, .miss va, left) ∧ c.wrote ++ c.writes.take (c.writes.length - left.length) ≠ []) :=
  ⟨by decide, _, _, _, _, rfl, by decide, rfl, by decide⟩

set_option exponentiation.threshold 5000 in
set_option maxRecDepth 1000000 in
/-- A team to be saved with its stacks ready and not; one that has been saved; a stopped job one of whose tasks has teams to order. -/
theorem witness_FramesAndStops :
    (let s := savingState (fun t => { t with status := .saving }) (fun s => s.updPkg (fun p => { p with ready := BitVec.allOnes 64 }))
     clockRuns s = true ∧ (s.teams.map Team.id).Nodup ∧ ∃ t, s.team? 1 = some t ∧ saveReady s t = true ∧ frameReady s t (savedOf s t).1 = true) ∧
    (let s := savingState (fun t => { t with status := .saving }) (fun s => s.updPkg (fun p => { p with ready := 0 }))
     ∃ t, s.team? 1 = some t ∧ saveReady s t = true ∧ frameReady s t (savedOf s t).1 = false) ∧
    (let v : Saved := { live := [], ranges := [], tiles := [], marks := [], requests := [], cmds := [], slots := [] }
     let s := savingState (fun t => { t with status := .restoring, save := { t.save with saved := some v } }) id
     ∃ t, s.team? 1 = some t ∧ t.save.saved = some v) ∧
    (let s := (placing 0 (task1 0x3000 1 .dispatched)).updDie (fun d => { d with stoppedJobs := [1], stopOrder := [(1, [7])] })
     s.die.stoppedJobs.contains 1 = true ∧
       (s.die.tasks.filter (fun k => s.die.stopOrder.any (fun x => x.1 == 1 && x.2.contains k.id))).map Task.id = [7]) :=
  ⟨⟨by decide, by decide, _, rfl, by decide, by decide⟩, ⟨_, rfl, by decide, by decide⟩, ⟨_, rfl, rfl⟩, by decide⟩

set_option exponentiation.threshold 5000 in
set_option maxRecDepth 1000000 in
/-- Values that a pool, FABCFG, the queues, rings and windows take and do not; a queue that is on and one that is off; a window open and closed; debug access outside Run. -/
theorem witness_HostWrites :
    (bitsOf (0x10#64) 40 24 = 0 ∧ bitsOf (0x10#64) 16 24 * 0x10000 + bitsOf (0x10#64) 0 16 * 0x10000 ≤ Config.hbmBytes ∧ teamsPresent hostSet = false ∧
      ¬(bitsOf (0x10000000000#64) 40 24 = 0)) ∧
    (bitsOf (0x0000100000000FFF#64) 48 16 = 0 ∧ bitsOf (0x0000100000000FFF#64) 16 16 = 0 ∧ bitsOf (0x0000100000000FFF#64) 32 16 ≤ 4096 ∧
      bitsOf (0x0000100000000FFF#64) 0 16 < bitsOf (0x0000100000000FFF#64) 32 16 ∧ ¬(bitsOf (0x0000100000001000#64) 0 16 < bitsOf (0x0000100000001000#64) 32 16)) ∧
    (bitsOf (0x10001#64) 0 16 = 1 ∧ bitsOf (0x10001#64) 32 32 = 0 ∧ ¬(bitsOf (3#64) 0 16 = 1 ∧ bitsOf (3#64) 32 32 = 0) ∧ 0xFF8 ∉ [0x10, 0x18, 0x20, 0x28, 0x30, 0x38] ∧
      (1799#64).toNat < 1800 ∧ 3600 < (3601#64).toNat ∧ 2 ^ 32 ≤ (0x100000000#64).toNat) ∧
    (cellsGet hostSet.pkg.jobs 7 = none ∧ (cellsGet hostSet.pkg.jobs 3).isSome ∧ bitOf (0#64) 63 = false) ∧
    (cqState (cmdQueue hostSet 63).reg = 0 ∧ cqState (cmdQueue (queueState 1 0 false 0) 63).reg ≠ 0 ∧ bitsOf (0#64) 0 2 = 0 ∧ bitsOf (1#64) 0 2 = 1 ∧
      1 < bitsOf (2#64) 0 2) ∧
    (egValid (egRing hostSet 0) = false ∧ egValid (egRing hostSet 255) = true ∧ bitOf (0#64) 0 = false ∧ bitOf (1#64) 0 = true) ∧
    (ueValid (ueWin hostSet 0) = false ∧ ueValid (ueWin ueState 0) = true ∧ teamsPresent (evState id id) = true) ∧
    (hostSet.pkg.power = .run ∧ (hostState (fun p => { p with power := .retain })).pkg.power = .retain ∧ 2 < (3#64).toNat) := by decide

/-- A machine in Retain and one that is off. -/
theorem witness_HeldPower : ∀ p, p = PowerState.retain ∨ p = .off → (hostState (fun x => { x with power := p })).pkg.power = p := fun _ _ => rfl

set_option exponentiation.threshold 5000 in
set_option maxRecDepth 1000000 in
/-- A second multicast that fails while the first is still to be reported; an XLDQ read whose packet cannot be delivered. -/
theorem witness_PendingReports :
    (let s := evState (fun t => { t with warps := t.warps.map (fun w => { w with mcast := { bits := 0, fails := 1, pending := [(0, 1)] } }) })
       (·.updFab (fun b => { b with mcasts := [mcast1 true] }))
     clockRuns s = true ∧ s.fab.mcasts.find? (fun m => m.op == 9) = some (mcast1 true) ∧ (mcast1 true).failed.isEmpty = false ∧
       (s.team? 1).any (fun t => t.warps.any (fun w => w.mcast.pending != [])) = true) ∧
    (let s := remoteState (.ue 0 1)
     clockRuns s = true ∧ findReq s 9 = some (23, remote1 (.ue 0 1)) ∧ (remote1 (.ue 0 1)).kind = .ue 0 1) := by decide

set_option exponentiation.threshold 5000 in
set_option maxRecDepth 1000000 in
/-- A request of rank 3 that joins is queued behind the join of rank 2 under way, behind a proposal, and behind one seen; a later leave of it is news, the same join is not; a coordinator whose joiner has not accepted. -/
theorem witness_JoinRequests :
    (let g : Group := { group .stable with bitmap := 3, joiner := some (2, false), st := .joining }
     let s := memberState 0 g []
     s.group? 1 = some g ∧ g.active = true ∧ inCgroup s 3 = true ∧ g.requests = [(2, false)] ∧
     ({ g with asks := [(3, false)] } : Group).requests.reverse.find? (fun q => q.1 == 3) = some (3, false) ∧
     (g.joiner.isSome ∨ g.proposal.isSome ∨ g.seen ≠ []) ∧ (tryJoin s 1).fab.groups ≠ []) ∧
    (let g : Group := { group3 with proposal := some 7 }
     g.joiner = none ∧ g.proposal.isSome) ∧
    (let g : Group := { group .stable with bitmap := 3, joiner := some (2, false), st := .joining, proposal := some 7, accepts := [(0, []), (1, [])] }
     let s := memberState 0 g []
     s.group? 1 = some g ∧ (g.st = .agreeing ∨ g.st = .joining) ∧ s.fab.agree.toNat ≤ s.clock - g.since ∧ clockRuns s = true ∧
     (dedup ((membersOf 7).filter (fun r => !g.accepts.any (fun a => a.1 == r)))).filter (fun r => r != ownRank s && !g.suspects.contains r) = [2]) := by decide

/-! ## Statements about the step, the roles, operands and storage -/

set_option exponentiation.threshold 5000 in
set_option maxRecDepth 1000000 in
/-- A step whose turn is the issue of the word at the split's PC. -/
theorem witness_StepRunsDecoded :
    let s := State.reset.withFetchWord 32 0x00AAA335
    let u := cycles { s with cur := none } 1
    ∃ rest t w p e, s.agenda = .issue State.reset.nextId 0 0 :: rest ∧ ({ u with agenda := rest } : State).team? State.reset.nextId = some t ∧
      t.warps[0]? = some w ∧ slotSplit w 0 = some p ∧ mayIssue t 0 w p = true ∧
      replaying { u with agenda := rest } State.reset.nextId 0 p.seq = false ∧ faultDue t 0 w p = none ∧ mcastDue t 0 w p = none ∧
      fetchWord { u with agenda := rest } t p = .word 0x00AAA335 e ∧ p.pc.toNat < globalTop ∧
      (∃ m, translate s { job := t.ident.job, core := some t.core, keyovr := none } p.pc.toNat .x = .ok m) ∧
      ∀ e ∈ (s.core t.core).icache, ¬(e.job = t.ident.job ∧ e.va = p.pc.toNat) :=
  ⟨_, _, _, _, _, rfl, rfl, rfl, rfl, by decide, by decide, by decide, by decide, rfl, by decide, ⟨_, rfl⟩, by decide⟩

/-- An instruction forbidden to each role and one that both may issue; no handler privilege. -/
theorem witness_RolesForbid :
    (encode (.faddF32 ⟨7, 0, 1, 2⟩) = some 0x20700082 ∧ opcodeAssigned (bitsOf (0x20700082#32) 24 8) = true ∧ cA.w.role = .access) ∧
    (encode (.lea ⟨7, 0, 1, 2⟩) = some 0x1E700082 ∧ opcodeAssigned (bitsOf (0x1E700082#32) 24 8) = true ∧ cE.w.role = .execute) ∧
    (encode (.iaddI32 ⟨7, 0, 1, 2⟩) = some 0x00700082 ∧ opcodeAssigned (bitsOf (0x00700082#32) 24 8) = true) ∧
    Issuing cA.s cA ∧ Issuing cE.s cE ∧ cA.inHandler = false ∧ 0x40 ≤ (0x40#7).toNat :=
  ⟨by decide, by decide, by decide, issues_plain _, issues_plain _, rfl, by decide⟩

/-- Specifiers at the ends of the ranges; queue 0 empty, with one entry and with two. -/
theorem witness_OperandsRead :
    ((0x3F#7).toNat < 0x40 ∧ (0x40 ≤ (0x5F#7).toNat ∧ (0x5F#7).toNat < 0x60) ∧ (0x70 ≤ (0x77#7).toNat ∧ (0x77#7).toNat < 0x78) ∧
      (0x7A ≤ (0x7E#7).toNat ∧ (0x7E#7).toNat < 0x7F)) ∧
    (∀ n, n < 3 → ∃ q, (queueCtx .execute .valid n).t.queue? (0#4).toNat = some q ∧ q.count = n) ∧ (7 : LaneMask) ≠ 0 ∧
    popFate (queueCtx .execute .valid 1).s (queueCtx .execute .valid 1).t [(queueOf .valid 1).entryAt 0] 0xFFFFFFFF = .ok ∧
    popFate (queueCtx .execute .valid 2).s (queueCtx .execute .valid 2).t [(queueOf .valid 2).entryAt 0, (queueOf .valid 2).entryAt 1] 1 = .ok := by
  refine ⟨by decide, ?_, by decide, by decide, by decide⟩
  intro n h
  match n, h with
  | 0, _ => exact ⟨_, rfl, rfl⟩
  | 1, _ => exact ⟨_, rfl, rfl⟩
  | 2, _ => exact ⟨_, rfl, rfl⟩

/-- Memory of reset with its last byte written. -/
theorem witness_MemoryReadsBack :
    (State.reset.pkg.hbm.wf = true ∧ (State.reset.pkg.hbm.put (Config.hbmBytes - 1) 5).wf = true ∧ State.reset.pkg.hbm.fill = .zero) ∧
    2 ^ 40 - 1 < 2 ^ 40 ∧ cellsRising State.reset.pkg.keyOf = true ∧ cellsRising State.reset.die.l2 = true ∧ (keyIn State.reset 0).isSome := by
  decide

set_option exponentiation.threshold 5000 in
set_option maxRecDepth 1000000 in
/-- The reset state, and a step from a machine in which a word is placed. -/
theorem witness_StepKeepsCanonical : canonical State.reset ∧ canonical (State.reset.withFetchWord 32 0x00AAA335) ∧
    ∃ s', Sys2Proof.Machine.step (State.reset.withFetchWord 32 0x00AAA335) = .next s' :=
  ⟨⟨by decide, by decide, by decide⟩, ⟨by decide, by decide, by decide⟩, _, rfl⟩

/-- The last well-formed operands of a word with fields, and a register at the end of each range. -/
theorem witness_DecodeAndEncodeAgree : (Instr.iaddI32 ⟨15, 63, 127, 127⟩).wellFormed = true ∧ encode (.iaddI32 ⟨15, 63, 127, 127⟩) = some 0x00FFFFFF := by decide

theorem witness_ResetValues : (0x71000 ≤ 0x725F8 ∧ 0x725F8 < 0x72600) ∧ (0x1000 ≤ 0x4FF8 ∧ 0x4FF8 < 0x5000) ∧ (0x64000 ≤ 0x67FF8 ∧ 0x67FF8 < 0x68000) := by decide

/-! ## Ill-formed terms -/

def access (pa len : Nat) (w : Option (List Byte)) : HostAccess := { pa := pa, len := len, write := w }
def manyLanes : List (Nat × DWord × List DWord) := List.replicate 33 (0, 0, [])

set_option exponentiation.threshold 5000 in
set_option maxRecDepth 100000 in
/-- Events of the core that name what it does not have, one for each check, and beside each the last that it has. -/
theorem test_illformed_core :
    ([.reservedOpcode 0x00AAA335, .splitRotation 0 32 0, .splitRotation 0 0 2, .sleepWake 0 32 0, .ldqLanding 0 16 0 0, .ldqLanding 0 0 256 0,
      .ldqLanding 0 0 0 32, .pageRequestEnter 24, .pageAnswer ⟨26, 1, 0, true⟩, .boundaryMove 24, .matrixGrant 6, .passComplete 6 0,
      .runnelCommandStart 24 0, .runnelCommandStart 0 4, .fillGranuleLand 24 0 0, .fillGranuleLand 0 4 0, .sdrainWritesDone 24 0, .sdrainWritesDone 0 4,
      .columnGroupRepair 6 0, .columnGroupRepair 0 4, .remoteFaultDelivery 0 32, .mcastpartDelivery 0 32, .instructionFetch 0 32 0, .instructionFetch 0 0 2,
      .coreRetire 24 true] : List Instr).all (fun i => !i.wellFormed) = true ∧
    ([.reservedOpcode 0x4F000000, .splitRotation 0 31 1, .sleepWake 0 31 0, .ldqLanding 0 15 255 31, .pageRequestEnter 23, .pageAnswer ⟨25, 1, 0, true⟩,
      .boundaryMove 23, .matrixGrant 5, .passComplete 5 0, .runnelCommandStart 23 3, .fillGranuleLand 23 3 0, .sdrainWritesDone 23 3, .columnGroupRepair 5 3,
      .remoteFaultDelivery 0 31, .mcastpartDelivery 0 31, .instructionFetch 0 31 1, .coreRetire 23 true, .iaddI32 ⟨7, 0, 1, 2⟩] : List Instr).all
        Instr.wellFormed = true := by
  decide

set_option exponentiation.threshold 5000 in
set_option maxRecDepth 100000 in
theorem test_illformed_package :
    ([.hbmChannelSpare 8 0, .hostMemoryAccess (access 0x8000000000 1 none), .hostMemoryAccess (access 0 2 (some [1])), .jobslotValidate 256 0,
      .jobslotInvalidate 256, .cmdqStart 64, .cmdqResume 64, .cmdqStop 64, .cmdqNotify 64 0 false, .cmdqNotify 0 65536 false, .phaseReread 64,
      .cmdPublish 64, .cmdStopJob 64, .cmdResumeJob 64, .cmdDiscardJob 64, .keyInstall 0, .keyInstall 2048, .keyEmpty 0, .keyEmpty 2048, .egringOpen 256,
      .egringClose 256, .egringHcurWrite 256 0, .selfTestDone 234 true] : List Instr).all (fun i => !i.wellFormed) = true ∧
    ([.hbmChannelSpare 7 0, .hostMemoryAccess (access 0x7FFFFFFFFF 1 (some [1])), .jobslotValidate 255 0, .jobslotInvalidate 255, .cmdqStart 63,
      .cmdqResume 63, .cmdqStop 63, .cmdqNotify 63 65535 false, .phaseReread 63, .cmdPublish 63, .cmdStopJob 63, .cmdResumeJob 63, .cmdDiscardJob 63,
      .keyInstall 2047, .keyEmpty 1, .egringOpen 255, .egringClose 255, .egringHcurWrite 255 0, .selfTestDone 233 true] : List Instr).all
        Instr.wellFormed = true := by
  decide

set_option exponentiation.threshold 5000 in
set_option maxRecDepth 100000 in
theorem test_illformed_fabric :
    ([.portTraining 96 none, .linkRekey 96, .windowReceive 96 (window true), .windowPadTimeout 96, .wavelengthSpare 96 true, .rankDownNotice 4096,
      .cgroupWrite 64 0, .remoteRequest { packet1 1 0 with lanes := manyLanes }, .remoteResponse { req := 9, lanes := List.replicate 33 (0, 0, 0) },
      .uewinOpen 256, .uewinClose 256, .collectivePacket { collPacket 1 with group := 64 }, .collectivePacket { collPacket 1 with src := 4096 },
      .cstepTimeout 0 4096, .suspect (viewMsg 64 0), .suspect (viewMsg 0 4096), .propose (viewMsg 64 0), .propose (viewMsg 0 4096), .accept (viewMsg 64 0),
      .accept (viewMsg 0 4096), .commit (viewMsg 64 0), .commit (viewMsg 0 4096), .agreeTimeout 64, .joinRequest (viewMsg 64 0), .joinRequest (viewMsg 0 4096),
      .initAgreement 64 [], .darkLink 96] : List Instr).all (fun i => !i.wellFormed) = true ∧
    ([.portTraining 95 none, .linkRekey 95, .windowReceive 95 (window true), .windowPadTimeout 95, .wavelengthSpare 95 true, .rankDownNotice 4095,
      .cgroupWrite 63 0, .remoteRequest (packet1 1 0), .uewinOpen 255, .uewinClose 255, .collectivePacket (collPacket 1), .cstepTimeout 0 4095,
      .suspect (viewMsg 63 4095), .propose (viewMsg 63 4095), .accept (viewMsg 63 4095), .commit (viewMsg 63 4095), .agreeTimeout 63,
      .joinRequest (viewMsg 63 4095), .initAgreement 63 [], .darkLink 95] : List Instr).all Instr.wellFormed = true := by
  decide

/-! ## Single steps: a word placed, one step, one or two fields of the result -/

/-- The team of the machine after one step on a word, its registers at their reset values before. -/
def stepped (w : Nat) : Option Team :=
  match Sys2Proof.Machine.step (State.reset.withFetchWord 32 w) with
  | .next s => s.team? State.reset.nextId
  | _ => none
def steppedV (w d L : Nat) : Option Word := (stepped w).bind (fun t => (t.warps[0]?).map (fun x => x.v d L))
def steppedPc (w : Nat) : Option DWord := (stepped w).bind (fun t => (t.warps[0]?).bind (fun x => (x.table[0]?).map (·.pc)))

set_option exponentiation.threshold 5000 in
set_option maxRecDepth 1000000 in
/-- IADD.I32 v5 = LANE + 1 in every lane; the PC is four further (R103, R33). -/
theorem test_step_iadd : steppedV 0x00717C71 5 0 = some 1 ∧ steppedV 0x00717C71 5 31 = some 32 ∧ steppedPc 0x00717C71 = some 0x1004 := by decide

set_option exponentiation.threshold 5000 in
set_option maxRecDepth 1000000 in
/-- ISUB.I32 v5 = LANE - 1 wraps in lane 0; the guard p0, clear at reset, leaves v5 as it was and the PC advances (R81, R9). -/
theorem test_step_isub : steppedV 0x01717C71 5 0 = some 0xFFFFFFFF ∧ steppedV 0x01017C71 5 0 = some 0 ∧ steppedPc 0x01017C71 = some 0x1004 := by decide

set_option exponentiation.threshold 5000 in
set_option maxRecDepth 1000000 in
/-- The high half of -1 × 31: signed all ones, unsigned 30 (R103). -/
theorem test_step_imulhi : steppedV 0x03717BF8 5 31 = some 0xFFFFFFFF ∧ steppedV 0x04717BF8 5 31 = some 30 := by decide

set_option exponentiation.threshold 5000 in
set_option maxRecDepth 1000000 in
/-- IADD.I64 v4:v5 = -1 + -1, the constant sign-extended (R13); an odd destination is ILLOPND, which without a handler ends the team (R17, R303). -/
theorem test_step_iadd64 : steppedV 0x06713BF7 4 0 = some 0xFFFFFFFE ∧ steppedV 0x06713BF7 5 0 = some 0xFFFFFFFF ∧
    (stepped 0x06717BF7).map (·.status) = some .finished := by decide

set_option exponentiation.threshold 5000 in
set_option maxRecDepth 1000000 in
/-- 1.0 + 0.5 in FP32 and in both halves of packed FP16 (R13, R107, R108). -/
theorem test_step_fadd : steppedV 0x207178F3 5 7 = some 0x3FC00000 ∧ steppedV 0x287178F3 5 7 = some 0x3E003E00 := by decide

set_option exponentiation.threshold 5000 in
set_option maxRecDepth 1000000 in
/-- LFOLD.ADD of LANE over 32 lanes: 0 + 1 + … + 31 (R119). -/
theorem test_step_lfold : steppedV 0x4C717C00 5 9 = some 496 := by decide

set_option exponentiation.threshold 5000 in
set_option maxRecDepth 1000000 in
/-- A reserved opcode is ILLOP, which without a handler ends the team (R39, R303). -/
theorem test_step_reserved : (stepped 0x4F000000).map (·.status) = some .finished := by decide

/-! ## Decoding: for each row of the table the word with its fields written out, beside the instruction the row names -/

theorem test_decode_00_0B : [0x00AAA335, 0x01AAA335, 0x02AAA335, 0x03AAA335, 0x04AAA335, 0x05AAA335, 0x06AAA335, 0x07AAA335, 0x08AAA335, 0x09AAA335, 0x0AAAA335, 0x0BAAA335].map decodeWord =
    [.iaddI32 ⟨10, 42, 70, 53⟩, .isubI32 ⟨10, 42, 70, 53⟩, .imulI32 ⟨10, 42, 70, 53⟩, .imulhiI32 ⟨10, 42, 70, 53⟩, .imulhiN32 ⟨10, 42, 70, 53⟩, .imadI32 ⟨10, 42, 70, 53⟩, .iaddI64 ⟨10, 42, 70, 53⟩, .isubI64 ⟨10, 42, 70, 53⟩, .iminI32 ⟨10, 42, 70, 53⟩, .iminN32 ⟨10, 42, 70, 53⟩, .imaxI32 ⟨10, 42, 70, 53⟩, .imaxN32 ⟨10, 42, 70, 53⟩] := by decide

theorem test_decode_0C_17 : [0x0CAAA370, 0x0DAAA335, 0x0EAAA335, 0x0FAAA335, 0x10AAA335, 0x11AAA335, 0x12AAA335, 0x13AAA335, 0x14AAA370, 0x15AAA335, 0x16AAA335, 0x17AAA335].map decodeWord =
    [.iabsI32 ⟨10, 42, 70⟩, .iaddsI32 ⟨10, 42, 70, 53⟩, .isubsI32 ⟨10, 42, 70, 53⟩, .idivN32 ⟨10, 42, 70, 53⟩, .and ⟨10, 42, 70, 53⟩, .or ⟨10, 42, 70, 53⟩, .xor ⟨10, 42, 70, 53⟩, .andn ⟨10, 42, 70, 53⟩, .not ⟨10, 42, 70⟩, .shl ⟨10, 42, 70, 53⟩, .shrN32 ⟨10, 42, 70, 53⟩, .shrI32 ⟨10, 42, 70, 53⟩] := by decide

theorem test_decode_18_23 : [0x18AAA335, 0x19AAA370, 0x1AAAA370, 0x1BAAA370, 0x1CAAA335, 0x1DAAA335, 0x1EAAA335, 0x1FAAA301, 0x20AAA335, 0x21AAA335, 0x22AAA335, 0x23AAA335].map decodeWord =
    [.sel ⟨10, 42, 70, 53⟩, .popc ⟨10, 42, 70⟩, .clz ⟨10, 42, 70⟩, .brev ⟨10, 42, 70⟩, .bfx ⟨10, 42, 70, 53⟩, .bfi ⟨10, 42, 70, 53⟩, .lea ⟨10, 42, 70, 53⟩, .leas 10 42 70 1, .faddF32 ⟨10, 42, 70, 53⟩, .fsubF32 ⟨10, 42, 70, 53⟩, .fmulF32 ⟨10, 42, 70, 53⟩, .ffmaF32 ⟨10, 42, 70, 53⟩] := by decide

theorem test_decode_24_2F : [0x24AAA335, 0x25AAA335, 0x26AAA370, 0x27AAA370, 0x28AAA335, 0x29AAA335, 0x2AAAA335, 0x2BAAA335, 0x2CAAA335, 0x2DAAA335, 0x2EAAA335, 0x2FAAA335].map decodeWord =
    [.fminF32 ⟨10, 42, 70, 53⟩, .fmaxF32 ⟨10, 42, 70, 53⟩, .fabsF32 ⟨10, 42, 70⟩, .fnegF32 ⟨10, 42, 70⟩, .faddH2 ⟨10, 42, 70, 53⟩, .fmulH2 ⟨10, 42, 70, 53⟩, .ffmaH2 ⟨10, 42, 70, 53⟩, .fminH2 ⟨10, 42, 70, 53⟩, .fmaxH2 ⟨10, 42, 70, 53⟩, .faddB2 ⟨10, 42, 70, 53⟩, .fmulB2 ⟨10, 42, 70, 53⟩, .ffmaB2 ⟨10, 42, 70, 53⟩] := by decide

theorem test_decode_30_3B : [0x30AAA370, 0x31AAA370, 0x32AAA370, 0x33AAA335, 0x34AAA370, 0x35AAA370, 0x36AAA370, 0x37AAA370, 0x38AAA370, 0x39AAA335, 0x3AAAA301, 0x3BA0A335].map decodeWord =
    [.frcp ⟨10, 42, 70⟩, .frsq ⟨10, 42, 70⟩, .fsqrt ⟨10, 42, 70⟩, .fdiv ⟨10, 42, 70, 53⟩, .fexp2 ⟨10, 42, 70⟩, .flog2 ⟨10, 42, 70⟩, .fsinpi ⟨10, 42, 70⟩, .fcospi ⟨10, 42, 70⟩, .ftanh ⟨10, 42, 70⟩, .fscale ⟨10, 42, 70, 53⟩, .frnd 10 42 70 1, .fclass 10 2 70 53] := by decide

theorem test_decode_3C_47 : [0x3CAAA335, 0x3DAAA335, 0x3EAAA335, 0x3FAAA370, 0x40AAA30A, 0x41AAA30A, 0x42AAA30A, 0x43AAA30A, 0x44AAA351, 0x45A08195, 0x46AAA335, 0x47A0A301].map decodeWord =
    [.fdot2H ⟨10, 42, 70, 53⟩, .fdot4E4 ⟨10, 42, 70, 53⟩, .fdot4E5 ⟨10, 42, 70, 53⟩, .keyf ⟨10, 42, 70⟩, .icmpI32 ⟨10, 42, 70, 1, 2⟩, .icmpN32 ⟨10, 42, 70, 1, 2⟩, .icmpI64 ⟨10, 42, 70, 1, 2⟩, .fcmpF32 ⟨10, 42, 70, 1, 2⟩, .fcmpH 10 42 70 1 2 1, .plop 10 2 3 1 5, .ballot ⟨10, 42, 70, 53⟩, .vote 10 2 70 1] := by decide

theorem test_decode_48_54 : [0x48AAA335, 0x49AAA335, 0x4AAAA335, 0x4BAAA335, 0x4CAAA305, 0x4DAAA335, 0x4EA56370, 0x50AAA370, 0x51AAA370, 0x52A56335, 0x53AAA362, 0x54AAA335].map decodeWord =
    [.lpick ⟨10, 42, 70, 53⟩, .lmirr ⟨10, 42, 70, 53⟩, .lrot ⟨10, 42, 70, 53⟩, .lshift ⟨10, 42, 70, 53⟩, .lfold 10 42 70 5, .lpeer ⟨10, 42, 70, 53⟩, .swr 10 21 70, .mov ⟨10, 42, 70⟩, .mov64 ⟨10, 42, 70⟩, .rdlane 10 21 70 53, .cvt 10 42 70 1 2 2, .cvtpkH2 ⟨10, 42, 70, 53⟩] := by decide

theorem test_decode_55_64 : [0x55AAA335, 0x56AAA335, 0x57AAA335, 0x58AAA335, 0x59AAA301, 0x5AAAA335, 0x5BAAA335, 0x60A2A300, 0x61AA830A, 0x62AA8301, 0x63AA8301, 0x64A28046].map decodeWord =
    [.cvtpkB2 ⟨10, 42, 70, 53⟩, .cvtpkE4 ⟨10, 42, 70, 53⟩, .cvtpkE5 ⟨10, 42, 70, 53⟩, .qpk4 ⟨10, 42, 70, 53⟩, .qupk4 10 42 70 1, .qscale ⟨10, 42, 70, 53⟩, .requant ⟨10, 42, 70, 53⟩, .qpush 10 10 70, .qpop 10 42 6 1 2, .qtry 10 42 6 1, .qpeek 10 42 6 1, .qskip 10 10 70] := by decide

theorem test_decode_65_72 : [0x65A28001, 0x66AA8301, 0x67A28000, 0x67A28007, 0x68A01546, 0x69A01546, 0x6AAAA335, 0x6BAAA335, 0x6CA01546, 0x70AAA329, 0x71AAA329, 0x72AAA329].map decodeWord =
    [.qflush 10 10 1, .qstat 10 42 6 1, .qeos 10 10, .qeosTest 10 10 3, .rwait ⟨10, 42, 70⟩, .rrel ⟨10, 42, 70⟩, .ldr ⟨10, 42, 70, 53⟩, .str ⟨10, 42, 70, 53⟩, .rset ⟨10, 42, 70⟩, .ldB8n ⟨10, 42, 70, 1, 2, 1⟩, .ldB8i ⟨10, 42, 70, 1, 2, 1⟩, .ldB16n ⟨10, 42, 70, 1, 2, 1⟩] := by decide

theorem test_decode_73_7E : [0x73AAA329, 0x74AAA329, 0x75AAA329, 0x76AAA329, 0x77AAA329, 0x78AAA329, 0x79AAA329, 0x7AAAA329, 0x7BAAA329, 0x7CA2A301, 0x7DA2A301, 0x7EA2A301].map decodeWord =
    [.ldB16i ⟨10, 42, 70, 1, 2, 1⟩, .ldB32 ⟨10, 42, 70, 1, 2, 1⟩, .ldB64 ⟨10, 42, 70, 1, 2, 1⟩, .ldB128 ⟨10, 42, 70, 1, 2, 1⟩, .stB8 ⟨10, 42, 70, 1, 2, 1⟩, .stB16 ⟨10, 42, 70, 1, 2, 1⟩, .stB32 ⟨10, 42, 70, 1, 2, 1⟩, .stB64 ⟨10, 42, 70, 1, 2, 1⟩, .stB128 ⟨10, 42, 70, 1, 2, 1⟩, .ldqB32 ⟨10, 10, 70, 1⟩, .ldqB64 ⟨10, 10, 70, 1⟩, .ldqB16 ⟨10, 10, 70, 1⟩] := by decide

theorem test_decode_7F_91 : [0x7FA2A329, 0x80A2A329, 0x81A2A329, 0x82AAA301, 0x83AAA301, 0x84A01503, 0x85AAA304, 0x86AAA306, 0x87A0004C, 0x88A28000, 0x90AAA328, 0x91AAA328].map decodeWord =
    [.stqB32 ⟨10, 10, 70, 1, 2, 1⟩, .stqB64 ⟨10, 10, 70, 1, 2, 1⟩, .stqB16 ⟨10, 10, 70, 1, 2, 1⟩, .ldfe 10 42 70 1, .stfe 10 42 70 1, .pref 10 42 3, .discard 10 42 70 1, .wback 10 42 70 1 2, .fence 10 2 3, .stream 10 10, .aaddI32 ⟨10, 42, 70, 1, 2⟩, .aaddI64 ⟨10, 42, 70, 1, 2⟩] := by decide

theorem test_decode_92_9D : [0x92AAA328, 0x93AAA328, 0x94AAA328, 0x95AAA328, 0x96AAA328, 0x97AAA328, 0x98AAA328, 0x99AAA328, 0x9AAAA328, 0x9BAAA328, 0x9CAAA328, 0x9DAAA328].map decodeWord =
    [.aaddF32 ⟨10, 42, 70, 1, 2⟩, .aaddB2 ⟨10, 42, 70, 1, 2⟩, .aminI32 ⟨10, 42, 70, 1, 2⟩, .aminN32 ⟨10, 42, 70, 1, 2⟩, .amaxI32 ⟨10, 42, 70, 1, 2⟩, .amaxN32 ⟨10, 42, 70, 1, 2⟩, .aand ⟨10, 42, 70, 1, 2⟩, .aor ⟨10, 42, 70, 1, 2⟩, .axor ⟨10, 42, 70, 1, 2⟩, .axchB32 ⟨10, 42, 70, 1, 2⟩, .axchB64 ⟨10, 42, 70, 1, 2⟩, .acasB32 ⟨10, 42, 70, 1, 2⟩] := by decide

theorem test_decode_9E_A9 : [0x9EAAA328, 0x9FAAA328, 0xA0AABCDE, 0xA1AABCDE, 0xA2AABCDE, 0xA3A00000, 0xA4A01500, 0xA5AABCDE, 0xA6A00000, 0xA7A00000, 0xA8A00000, 0xA9A00026].map decodeWord =
    [.acasB64 ⟨10, 42, 70, 1, 2⟩, .aincb ⟨10, 42, 70, 1, 2⟩, .bra ⟨10, 703710⟩, .bru ⟨10, 703710⟩, .call ⟨10, 703710⟩, .ret 10, .jmpi 10 42, .mergeat ⟨10, 703710⟩, .merge 10, .yield 10, .exit 10, .bar 10 2 6] := by decide

theorem test_decode_AA_B6 : [0xAAA00026, 0xABA00000, 0xACA01570, 0xADA00000, 0xAEAAB870, 0xB0A01546, 0xB1A59A85, 0xB2A59A85, 0xB3A59A85, 0xB4A59A85, 0xB5A59A85, 0xB6A58000].map decodeWord =
    [.bara 10 2 6, .cbar 10, .sleep 10 42, .nop 10, .splitq 10 42, .gang ⟨10, 42, 70⟩, .mma ⟨10, 1, 6, 53, 5⟩, .mmax ⟨10, 1, 6, 53, 5⟩, .mxt ⟨10, 1, 6, 53, 5⟩, .mxp ⟨10, 1, 6, 53, 5⟩, .mxs ⟨10, 1, 6, 53, 5⟩, .czero 10 1 6] := by decide

theorem test_decode_B7_C3 : [0xB7AAA335, 0xB8AAA335, 0xB9A59A85, 0xBAAD4000, 0xBBA00000, 0xBCA00000, 0xBDA00000, 0xBEAAA335, 0xC0A0A300, 0xC1A2DA80, 0xC2A2DA80, 0xC3A28000].map decodeWord =
    [.cread ⟨10, 42, 70, 53⟩, .cwrite ⟨10, 42, 70, 53⟩, .cdrain ⟨10, 1, 6, 53, 5⟩, .mwait 10 1 1 5, .ofence 10, .tkpass 10, .tkwait 10, .planes ⟨10, 42, 70, 53⟩, .slay 10 2 70, .sfill 10 2 3 53, .sdrain 10 2 3 53, .swait 10 10] := by decide

theorem test_decode_C4_D4 : [0xC4AAA335, 0xC5AAA335, 0xC6A01570, 0xC7A01546, 0xC8AAA370, 0xC8AAA371, 0xC9AABCDE, 0xD0AAA335, 0xD1AAA335, 0xD2AAA335, 0xD3AAA335, 0xD4AAA335].map decodeWord =
    [.regroup ⟨10, 42, 70, 53⟩, .ungroup ⟨10, 42, 70, 53⟩, .spawn 10 42, .tsig ⟨10, 42, 70⟩, .twaitFull ⟨10, 42, 70⟩, .twaitEmpty ⟨10, 42, 70⟩, .preempt 10 703710, .rldB32 ⟨10, 42, 70, 53⟩, .rldB64 ⟨10, 42, 70, 53⟩, .rstB32 ⟨10, 42, 70, 53⟩, .rstB64 ⟨10, 42, 70, 53⟩, .raaddI64 ⟨10, 42, 70, 53⟩] := by decide

theorem test_decode_D5_DE : [0xD5AAA335, 0xD6A2A335, 0xD7A2A335, 0xD8A2A34A, 0xD9AAA335, 0xDAA01546, 0xDBAAA370, 0xDCAAA335, 0xDDA00000, 0xDEAAA370, 0xDEAAA371, 0xDEAAA34A].map decodeWord =
    [.racasB64 ⟨10, 42, 70, 53⟩, .rldqB32 10 10 70 53, .rldqB64 10 10 70 53, .xldq 10 10 70 5, .mcst ⟨10, 42, 70, 53⟩, .coll ⟨10, 42, 70⟩, .cwait ⟨10, 42, 70⟩, .viewq ⟨10, 42, 70, 53⟩, .rfence 10, .viewctlJoin ⟨10, 42, 70⟩, .viewctlLeave ⟨10, 42, 70⟩, .viewctlInit 10 42 70 5] := by decide

theorem test_decode_E0_E8 : [0xE0A01500, 0xE1A00000, 0xE2AA8046, 0xE3A01546, 0xE4A00000, 0xE5AA8000, 0xE6AAA335, 0xE7A00000, 0xE7A02A01, 0xE7A00002, 0xE8A00000, 0xE8A00001].map decodeWord =
    [.trap 10 42, .bkpt 10, .rdsr 10 42 70, .wrsr 10 42 70, .rett 10, .clock 10 42, .egrel ⟨10, 42, 70, 53⟩, .tlbinvJob 10, .tlbinvPage 10 10, .tlbinvAll 10, .icinvCore 10, .icinvDevice 10] := by decide

theorem test_decode_E9_F5 : [0xE9A00000, 0xF000AA63, 0xF40ABCDE, 0xF50ABCDE].map decodeWord =
    [.haltt 10, .clause 10 10 6 1 1, .immL 703710, .immH 703710] := by decide
end Sys2Proof.Tests
end

section
/-! PROOFS. The lane instructions of spec/04: integer words and pairs, predicates, exchanges between lanes, and branches. Each instruction's meaning is one of the shared forms of Machine/Operands.lean, Flags.lean, Compare.lean or Control.lean; what the form does when its checks pass is proved once, and each obligation reads it off. -/

namespace Sys2Proof.LaneInstructions
open Sys2Proof Sys2Proof.Machine Sys2Proof.Claims

section Lemmas
variable {s : State} {roles : Roles} {c c' : Ctx} {i : Instr} {g : BitVec 4} {vs : List (Nat → DWord)}

/-! ## Words in the low half of a pair (spec/01 R17) -/

@[simp] theorem loWord_setWidth (x : Word) : loWord (x.setWidth 64) = x := by
  apply BitVec.eq_of_toNat_eq
  simp only [loWord, BitVec.extractLsb'_toNat, BitVec.toNat_setWidth, Nat.shiftRight_zero]
  omega

theorem bitsOf_low (x : DWord) : bitsOf x 0 32 = (loWord x).toNat := by
  simp [bitsOf, loWord, BitVec.extractLsb'_toNat]

/-- A 16-bit half of a word that stands in the low half of a pair. -/
theorem bitsOf_half (x : DWord) (h : BitVec 1) : bitsOf x (16 * h.toNat) 16 = bitsOf (loWord x) (16 * h.toNat) 16 := by
  have hh : h.toNat = 0 ∨ h.toNat = 1 := by have := h.isLt; omega
  rcases hh with hh | hh <;> simp only [bitsOf, loWord, hh, BitVec.extractLsb'_toNat, Nat.shiftRight_eq_div_pow] <;> omega

/-! ## Instructions without operands -/

/-- An instruction that names no operand reads nothing and pops nothing. -/
theorem reads_nothing (h : Issues s roles c) : Reads s roles c g [] c [] :=
  ⟨h, by simp, rfl⟩

/-! ## 32-bit integer instructions (spec/04 R103, R105) -/

/-- The meaning of each instruction of the table is format A of its function. -/
theorem exec_intAB (f : FmtA) (s : State) : ∀ r ∈ intAB f, exec r.1 s = laneAB s .both .int f r.2 :=
  List.map_inj_left.mp rfl

/-- The meaning of each instruction of the table is format A of its function, D read too. -/
theorem exec_intABD (f : FmtA) (s : State) : ∀ r ∈ intABD f, exec r.1 s = laneABD s .both .int f r.2 :=
  List.map_inj_left.mp rfl

/-- The meaning of each instruction of the table is the unary form of its function. -/
theorem exec_intA (f : FmtU) (s : State) : ∀ r ∈ intA f, exec r.1 s = laneA s .both .int f r.2 :=
  List.map_inj_left.mp rfl

/-! ## 64-bit integer instructions, SEL, LEA, LEAS (spec/04 R103, R104, R106) -/

/-- Format A over two pairs. -/
theorem laneAB64_completes {f : FmtA} {op : DWord → DWord → DWord} (he : exec i s = laneAB64 s roles f op)
    (h : Reads s roles c f.g [op64 f.a, op64 f.b] c' vs) (hd : destOk c f.d.toNat true = true) :
    Completes i s (c'.setD f.d.toNat true (c.act f.g) (fun L => op (val vs 0 L) (val vs 1 L))) (c.p.pc + 4) :=
  laneForm_completes (fun _ L vs => op (val vs 0 L) (val vs 1 L)) he h hd

/-- SEL reads its operands for every lane of the split and writes every one (R11, R104). -/
theorem sel_completes {f : FmtA} (h : Issues s .both c) (hd : destOk c f.d.toNat false = true)
    (ha : (op32 .int f.a).ok c = true) (hb : (op32 .int f.b).ok c = true)
    (hr : readOps c c.p.mask [op32 .int f.a, op32 .int f.b] = .got c' vs) :
    Completes (.sel f) s (c'.setD f.d.toNat false c.p.mask
      (fun L => if inMask (c.act f.g) L then val vs 0 L else val vs 1 L)) (c.p.pc + 4) := by
  have hreg : regOk c f.d.toNat = true := hd
  refine completes_of h rfl ?_ ((readOps_follows hr).1.trans (setD_follows ..))
  simp [orIllopnd, hreg, ha, hb, hr]

/-- LEA adds its offset to a register pair; any other specifier is no pair (R106, notes/assumptions/13.md). -/
theorem lea_completes {f : FmtA} (ha : f.a.toNat < 0x60) (h : Reads s .accessOnly c f.g [op64 f.a, op32 .int f.b] c' vs)
    (hd : destOk c f.d.toNat true = true) :
    Completes (.lea f) s (c'.setD f.d.toNat true (c.act f.g)
      (fun L => val vs 0 L + (loWord (val vs 1 L)).signExtend 64)) (c.p.pc + 4) := by
  have hpair : pairOk c f.d.toNat = true := hd
  have ⟨_, ho, hr⟩ := h
  refine reads_completes rfl h ?_ (setD_follows ..)
  simp only [orIllopnd, hpair, ha, opsAll ho, hr, decide_true, Bool.and_self, if_true]

/-! ## Compares and predicates (spec/04 R111, R114, R115, R117) -/

/-- A compare of a v register with a 32-bit operand. -/
theorem compare32_completes {f : FmtCmp} {condOk : Bool} {cls : OpClass} (rel : Word → Word → Bool)
    (he : exec i s = compareForm s roles f false cls condOk (fun a b => rel (loWord a) (loWord b))) (hk : condOk = true)
    (h : Reads s roles c f.g [op32 cls f.a] c' vs) (hd : destOk c f.src.toNat false = true) :
    Completes i s (c'.withW (c'.w.setP f.pd.toNat (c.act f.g) (fun L => rel (c.w.v f.src.toNat L) (loWord (val vs 0 L)))))
      (c.p.pc + 4) := by
  simpa using compareForm_completes _ he hk h hd

/-- A compare of a pair with a 64-bit operand. -/
theorem compare64_completes {f : FmtCmp} {condOk : Bool} (rel : DWord → DWord → Bool)
    (he : exec i s = compareForm s roles f true .int condOk rel) (hk : condOk = true)
    (h : Reads s roles c f.g [op64 f.a] c' vs) (hd : destOk c f.src.toNat true = true) :
    Completes i s (c'.withW (c'.w.setP f.pd.toNat (c.act f.g) (fun L => rel (c.w.v64 f.src.toNat L) (val vs 0 L)))) (c.p.pc + 4) :=
  compareForm_completes rel he hk h hd

/-- FCMP.f32 compares the codes of its two words. -/
theorem exec_fcmpF32 (f : FmtCmp) (s : State) : exec (.fcmpF32 f) s = compareForm s .executeOnly f false .f32 true
    (fun a b => condFloat fp32 f.cond.toNat (loWord a).toNat (loWord b).toNat) := by
  simp only [← bitsOf_low]; rfl

/-- FCMP.h compares the codes of one half of its two words. -/
theorem exec_fcmpH (g : BitVec 4) (src : BitVec 6) (a : BitVec 7) (h : BitVec 1) (k p : BitVec 3) (s : State) :
    exec (.fcmpH g src a h k p) s = compareForm s .executeOnly { g := g, src := src, a := a, cond := k, pd := p } false .h2 true
      (fun a b => condFloat fp16 k.toNat (bitsOf (loWord a) (16 * h.toNat) 16) (bitsOf (loWord b) (16 * h.toNat) 16)) := by
  simp only [← bitsOf_half]; rfl

/-- VOTE with a kind that is not reserved writes its answer in the active lanes. -/
theorem vote_completes {p : BitVec 3} {a : BitVec 7} {k : BitVec 2} (hk : k ≠ 3) (h : Reads s .both c g [op32 .int a] c' vs) :
    Completes (.vote g p a k) s (c'.withW (c'.w.setP p.toNat (c.act g) (fun _ => voteResult k.toNat (c.act g) (val vs 0))))
      (c.p.pc + 4) := by
  have ⟨_, ho, hr⟩ := h
  have hok := ho _ (List.mem_singleton.mpr rfl)
  refine reads_completes rfl h ?_ ((Follows.refl c').warp _ (setP_table ..))
  simp only [orIllop, orIllopnd, bne_iff_ne.mpr hk, hok, hr, if_true, Ctx.withW]

/-! ## Exchanges between lanes and moves to scalar registers (spec/04 R116, R118 to R122) -/

/-- What a source lane gives that exists under a condition only. -/
theorem elim_ite_some {α β : Type} (p : Prop) [Decidable p] (x : α) (d : β) (f : α → β) :
    (if p then some x else none).elim d f = if p then f x else d := by
  split <;> rfl

/-- A lane move as a lane form: lane L takes register a of its source lane, or keeps d. -/
theorem laneMove_eq (s : State) (f : FmtA) (src : Nat → Word → Option Nat) :
    laneMove s f src = laneForm s .both f.g f.d false [op32 .int f.a, op32 .int f.b] (fun c L vs =>
      ((src L (loWord (val vs 1 L))).elim (c.w.v f.d.toNat L) (c.w.v f.a.toNat)).setWidth 64) := by
  unfold laneMove
  congr 1
  funext c L vs
  cases src L (loWord (val vs 1 L)) <;> rfl

/-- A lane move whose a is a vector register. -/
theorem laneMove_completes {f : FmtA} (src : Nat → Word → Option Nat) (he : exec i s = laneMoveV s f src) (ha : f.a.toNat < 0x40)
    (h : Reads s .both c f.g [op32 .int f.a, op32 .int f.b] c' vs) (hd : destOk c f.d.toNat false = true) :
    Completes i s (c'.setD f.d.toNat false (c.act f.g) (fun L =>
      ((src L (loWord (val vs 1 L))).elim (c.w.v f.d.toNat L) (c.w.v f.a.toNat)).setWidth 64)) (c.p.pc + 4) := by
  rw [laneMoveV, if_pos ha, laneMove_eq] at he
  exact laneForm_completes _ he h hd

/-- LSHIFT moves by a signed distance; a lane whose source lies outside 0 to 31 keeps d (R118). -/
theorem lshift_completes {f : FmtA} (ha : f.a.toNat < 0x40) (h : Reads s .both c f.g [op32 .int f.a, op32 .int f.b] c' vs)
    (hd : destOk c f.d.toNat false = true) :
    Completes (.lshift f) s (c'.setD f.d.toNat false (c.act f.g) (fun L =>
      (if 0 ≤ (L : Int) - (loWord (val vs 1 L)).toInt ∧ (L : Int) - (loWord (val vs 1 L)).toInt ≤ 31
        then c.w.v f.a.toNat ((L : Int) - (loWord (val vs 1 L)).toInt).toNat else c.w.v f.d.toNat L).setWidth 64)) (c.p.pc + 4) := by
  have hmove := laneMove_completes (fun L b =>
    if 0 ≤ (L : Int) - b.toInt ∧ (L : Int) - b.toInt ≤ 31 then some ((L : Int) - b.toInt).toNat else none)
    (i := .lshift f) rfl ha h hd
  simpa only [elim_ite_some] using hmove

/-- LFOLD of a defined operation that the warp's role may issue (R119). -/
theorem lfold_completes {d : BitVec 6} {a : BitVec 7} {o : BitVec 4} (ho : o.toNat ≤ 10) (hrole : o.toNat < 8 ∨ c.w.role = .execute)
    (h : Reads s .both c g [op32 (if o.toNat < 8 then .int else .f32) a] c' vs) (hd : destOk c d.toNat false = true) :
    Completes (.lfold g d a o) s (c'.withW (c'.w.setV d.toNat (c.act g) (fun _ =>
      if o.toNat < 8 then laneFold (foldOp o.toNat) (c.act g) (fun L => loWord (val vs 0 L))
      else quiet32 (laneFold (foldOp o.toNat) (c.act g) (fun L => loWord (val vs 0 L)))))) (c.p.pc + 4) := by
  have ⟨_, hok, hr⟩ := h
  have hok := hok _ (List.mem_singleton.mpr rfl)
  have hreg : regOk c d.toNat = true := hd
  have hop : (decide (o.toNat ≤ 10) && (decide (o.toNat < 8) || c.w.role == .execute)) = true := by simp [ho, hrole]
  refine reads_completes rfl h ?_ ((Follows.refl c').warp _ (setV_table ..))
  simp only [orIllop, orIllopnd, hop, hreg, hok, hr, Bool.and_self, if_true, Ctx.withW]

/-- A write of a scalar register that takes place only with an active lane keeps the split in its place. -/
theorem setS_follows (c : Ctx) (act : LaneMask) (r : Nat) (v : Word) : Follows c (if act = 0 then c else c.withW (c.w.setS r v)) := by
  split
  · exact .refl c
  · exact (Follows.refl c).warp _ rfl

/-- SWR takes its operand in the lowest active lane (R121). -/
theorem swr_completes {r : BitVec 5} {a : BitVec 7} (h : Reads s .both c g [op32 .int a] c' vs) :
    Completes (.swr g r a) s (if c.act g = 0 then c' else c'.withW (c'.w.setS r.toNat (loWord (val vs 0 (lane0 (c.act g))))))
      (c.p.pc + 4) := by
  have ⟨_, ho, hr⟩ := h
  have hok := ho _ (List.mem_singleton.mpr rfl)
  refine reads_completes rfl h ?_ (setS_follows ..)
  simp only [orIllopnd, hok, hr, if_true, Ctx.withW]

/-- RDLANE takes register a of the lane that b names in the lowest active lane (R122). -/
theorem rdlane_completes {r : BitVec 5} {a b : BitVec 7} (ha : a.toNat < 0x40) (hv : (op32 .int a).ok c = true)
    (h : Reads s .both c g [op32 .int b] c' vs) :
    Completes (.rdlane g r a b) s (if c.act g = 0 then c' else
      c'.withW (c'.w.setS r.toNat (c.w.v a.toNat ((val vs 0 (lane0 (c.act g))).toNat % 32)))) (c.p.pc + 4) := by
  have ⟨_, ho, hr⟩ := h
  have hok := ho _ (List.mem_singleton.mpr rfl)
  refine reads_completes rfl h ?_ (setS_follows ..)
  simp only [orIllopnd, ha, hv, hok, hr, decide_true, Bool.and_self, if_true, Ctx.withW]

/-! ## Branches (spec/04 R129 to R132) -/

/-- A transfer whose lanes all continue at pc, from a context c1 with the same split, goes there whole. -/
theorem transfer_oneTarget {c1 : Ctx} {tgt : Nat → DWord} {pc : DWord} (hp : c1.p = c.p) (h : oneTarget c g tgt pc) :
    transfer c1 (nextPc c g tgt) = .at_ (goes c1 pc) :=
  transfer_one (by rw [hp]; exact h.1) (by rw [hp]; exact h.2)

theorem linked_follows (c : Ctx) (g : BitVec 4) : Follows c (linked c g) :=
  (Follows.refl c).warp _ (setV64_table ..)

/-- A jump whose active lanes have aligned targets is a transfer to them. -/
theorem jumpLanes_aligned {tgt : Nat → DWord} (h : aligned c g tgt) : jumpLanes c (c.act g) tgt = transfer c (nextPc c g tgt) := by
  have hnone : laneList.find? (fun L => inMask (c.act g) L && bitsOf (tgt L) 0 2 != 0) = none := by
    rw [List.find?_eq_none]
    intro L hL
    have hlt : L < 32 := by simpa [laneList] using hL
    simpa using h L hlt
  rw [jumpLanes, hnone]
  rfl

/-- A jump traps in the lowest active lane whose target is misaligned. -/
theorem jumpLanes_misaligned {tgt : Nat → DWord} {L : Nat}
    (h : laneList.find? (fun L => inMask (c.act g) L && bitsOf (tgt L) 0 2 != 0) = some L) :
    jumpLanes c (c.act g) tgt = .trap (trapAddr causeALIGN (tgt L).toNat L) := by
  rw [jumpLanes, h]

/-- JMPI's check of its specifier passes for a pair of registers (R132). -/
theorem jmpi_checked {a : BitVec 7} (ha : a.toNat < 0x60) (hok : (op64 a).ok c = true) (r : Res) :
    orIllopnd (decide (a.toNat < 0x60) && (op64 a).ok c) r = r := by
  simp [orIllopnd, ha, hok]

/-- BRU with an active lane and an inactive one: the guard holds in some of the split's lanes only (R130). -/
theorem bru_parted_traps {f : FmtC} (h : Issues s .both c) (hact : c.act f.g ≠ 0) (hpart : c.act f.g ≠ c.p.mask) :
    Traps (.bru f) s c (plain causeDIVERGE) := by
  refine traps_of h rfl ?_
  rw [if_neg hpart, if_neg hact]
  rfl

/-- BRU whose guard holds in every lane of the split goes to its target. -/
theorem bru_taken_completes {f : FmtC} (h : Issues s .both c) (hm : c.p.mask ≠ 0) (hall : c.act f.g = c.p.mask) :
    Completes (.bru f) s (goes c (target c f.off)) (target c f.off) := by
  refine goes_completes h rfl (.refl c) ?_
  rw [if_pos hall]
  exact transfer_one hm (fun _ _ _ => rfl)

/-- BRU whose guard holds in no lane of the split goes on at the next word. -/
theorem bru_untaken_completes {f : FmtC} (h : Issues s .both c) (hm : c.p.mask ≠ 0) (hnone : c.act f.g = 0) :
    Completes (.bru f) s c (c.p.pc + 4) := by
  refine completes_of h rfl ?_ (.refl c)
  rw [if_neg (hnone ▸ hm.symm), if_pos hnone]

end Lemmas

/-! ## The obligations -/

/-- Settles O1: each instruction of the three tables has the meaning of its format. -/
theorem integerWordsComplete : Obligations.IntegerWordsComplete :=
  ⟨fun f s _ _ _ r hr h hd => laneAB_completes (exec_intAB f s r hr) h hd,
   fun f s _ _ _ r hr h hd => laneABD_completes (exec_intABD f s r hr) h hd,
   fun f s _ _ _ r hr h hd => laneA_completes (exec_intA f s r hr) h hd⟩

/-- Settles O2: IADD.i64 and ISUB.i64 are format A over pairs, LEAS is a lane form, SEL and LEA check their own operands. -/
theorem pairsAndSelectComplete : Obligations.PairsAndSelectComplete :=
  ⟨fun _ _ _ _ _ h hd => ⟨laneAB64_completes rfl h hd, laneAB64_completes rfl h hd⟩,
   fun _ _ _ _ _ h hd ha hb hr => sel_completes h hd ha hb hr,
   fun _ _ _ _ _ ha h hd => lea_completes ha h hd,
   fun _ d _ k _ _ _ _ h hd =>
    laneForm_completes (fun c L vs => c.w.v64 d.toNat L + ((loWord (val vs 0 L)).signExtend 64 <<< k.toNat)) rfl h hd⟩

/-- Settles O4: the compares have the compare form, FCLASS and PLOP the form that writes a predicate, VOTE its own check of the kind. -/
theorem predicateWritesComplete : Obligations.PredicateWritesComplete := by
  refine ⟨?icmp32, ?icmp64, ?fcmp32, ?fcmpH, ?fclass, ?plop, ?vote⟩
  case icmp32 =>
    intro f s c c' vs hk h hd
    have hk : decide (f.cond.toNat < 6) = true := decide_eq_true hk
    exact ⟨compare32_completes (fun a b => condInt f.cond.toNat a.toInt b.toInt) rfl hk h hd,
      compare32_completes (fun a b => condInt f.cond.toNat a.toNat b.toNat) rfl hk h hd⟩
  case icmp64 =>
    intro f s c c' vs hk h hd
    exact compare64_completes (fun a b => condInt f.cond.toNat a.toInt b.toInt) rfl (decide_eq_true hk) h hd
  case fcmp32 =>
    intro f s c c' vs h hd
    exact compare32_completes (fun a b => condFloat fp32 f.cond.toNat a.toNat b.toNat) (exec_fcmpF32 f s) rfl h hd
  case fcmpH =>
    intro g src a half k p s c c' vs h hd
    exact compare32_completes
      (fun x y => condFloat fp16 k.toNat (bitsOf x (16 * half.toNat) 16) (bitsOf y (16 * half.toNat) 16))
      (exec_fcmpH g src a half k p s) rfl h hd
  case fclass =>
    intro g p a m s c c' vs h
    exact predForm_completes (fun _ L vs => bitOf m (f32Class (loWord (val vs 0 L)))) rfl h
  case plop =>
    intro g d a b t s c h
    exact predForm_completes (fun c L _ =>
      bitOf t ((if inMask (c.w.p a.toNat) L then 2 else 0) + (if inMask (c.w.p b.toNat) L then 1 else 0))) rfl (reads_nothing h)
  case vote =>
    intro g p a k s c c' vs hk h
    exact vote_completes hk h

/-- Settles O5: BALLOT, LPEER, SPLITQ and CLOCK are lane forms, the lane moves one form with four source lanes; LFOLD, SWR and RDLANE check their own operands. -/
theorem laneExchangesComplete : Obligations.LaneExchangesComplete := by
  refine ⟨?masks, ?moves, ?lfold, ?swr, ?rdlane, ?splitq, ?clock⟩
  case masks =>
    intro f s c c' vs h hd
    exact ⟨laneForm_completes (fun c _ vs => (maskOf (fun J =>
        inMask (c.act f.g) J && (val vs 0 J &&& val vs 1 J) != 0)).setWidth 64) rfl h hd,
      laneForm_completes (fun c L vs => (maskOf (fun J =>
        inMask (c.act f.g) J && val vs 0 J == val vs 0 L && val vs 1 J == val vs 1 L)).setWidth 64) rfl h hd⟩
  case moves =>
    intro f s c c' vs ha h hd
    exact ⟨laneMove_completes (fun _ b => some (b.toNat % 32)) rfl ha h hd,
      laneMove_completes (fun L b => some (L ^^^ (b.toNat % 32))) rfl ha h hd,
      laneMove_completes (fun L b => some ((L + 32 - b.toNat % 32) % 32)) rfl ha h hd,
      lshift_completes ha h hd⟩
  case lfold => exact fun _ _ _ _ _ _ _ _ ho hrole h hd => lfold_completes ho hrole h hd
  case swr => exact fun _ _ _ _ _ _ _ h => swr_completes h
  case rdlane => exact fun _ _ _ _ _ _ _ _ ha hv h => rdlane_completes ha hv h
  case splitq =>
    intro g d s c h hd
    exact laneForm_completes (fun c _ _ => (splitWord c.w c.p).setWidth 64) rfl (reads_nothing h) hd
  case clock =>
    intro g d s c h hd
    exact laneForm_completes (fun c _ _ => BitVec.ofNat 64 c.s.clock) rfl (reads_nothing h) hd

/-- Settles O13: one target makes every transfer whole, an aligned jump is a transfer, and BRU chooses by its guard. -/
theorem branchesComplete : Obligations.BranchesComplete := by
  refine ⟨⟨?braCall, ?bru, ?ret, ?jmpi⟩, ?bruParted, ?retMisaligned, ?jmpiMisaligned⟩
  case braCall =>
    intro f s c pc h ho
    exact ⟨goes_completes h rfl (.refl c) (transfer_oneTarget rfl ho),
      goes_completes h rfl (linked_follows c f.g) (transfer_oneTarget rfl ho)⟩
  case bru => exact fun f s c h hm => ⟨bru_taken_completes h hm, bru_untaken_completes h hm⟩
  case ret =>
    intro g s c pc h hal ho
    exact goes_completes h rfl (.refl c) ((jumpLanes_aligned hal).trans (transfer_oneTarget rfl ho))
  case jmpi =>
    intro g a s c pc h ha hok hal ho
    exact goes_completes h rfl (.refl c)
      ((jmpi_checked ha hok _).trans ((jumpLanes_aligned hal).trans (transfer_oneTarget rfl ho)))
  case bruParted => exact fun f s c h hact hpart => bru_parted_traps h hact hpart
  case retMisaligned =>
    intro g s c L h hL
    exact traps_of h rfl (jumpLanes_misaligned hL)
  case jmpiMisaligned =>
    intro g a s c L h ha hok hL
    exact traps_of h rfl ((jmpi_checked ha hok _).trans (jumpLanes_misaligned hL))

end Sys2Proof.LaneInstructions
end

section
/-! PROOFS. The queue memory instructions LDQ and STQ (spec/06 R192): what the checks of R189 answer for an element that meets a fault, what R148 and R160 make of a poisoned head entry, and that the two forms trap by either. -/

namespace Sys2Proof.QueueMemory
open Sys2Proof Sys2Proof.Machine Sys2Proof.Claims

section Lemmas
variable {s : State} {t : Team} {c : Ctx} {i : Instr} {g : AccGroup} {need : Need} {act : LaneMask} {a : BitVec 7}
  {align width va off L : Nat} {cause : BitVec 8}

/-! ## The faults of one element (spec/06 R189) -/

/-- SCRATCH refuses what lies below the team's base or past its last byte (R165). -/
theorem scratchPlaces_outside (h : off < t.scr.base ∨
    t.scr.base + t.scr.size + (if g = .fullEmpty then 0 else t.scr.exch) < off + width) :
    scratchPlaces t g off width = .fault causePROT := by
  rw [scratchPlaces, if_pos]
  split at h <;> rename_i hg <;> simp only [hg, if_true, if_false] <;> omega

/-- CLUSTER takes data only, of a placed member that has the bytes (R240). -/
theorem clusterPlaces_refused (h : g ≠ .data ∨ ∀ m, gangMember s t (4 * (off % 0x100000 / 0x40000) + off / 0x100000) = some m →
      m.placed = false ∨ m.scr.exch < off % 0x40000 + width) : clusterPlaces s t g off width = .fault causePROT := by
  unfold clusterPlaces
  dsimp only
  split
  · rfl
  · rename_i m hm
    rw [if_pos]
    rcases h with h | h
    · exact .inl h
    · rcases h m hm with h | h
      · exact .inr (.inl (by simp [h]))
      · exact .inr (.inr h)

/-- PRIVATE refuses full/empty accesses, what lies past the lane's bytes, and a job whose key slot for PRIVATE is empty (R317, R330). -/
theorem privatePlaces_refused {w : Warp} (h : g = .fullEmpty ∨ ∀ j, jobSlot s t.ident.job = some j →
      slotPsize j < off + width ∨ keyIn s (slotPkey j) = none) : privatePlaces s t w g L off width = .fault causePROT := by
  unfold privatePlaces
  split
  · rfl
  · rename_i j hj
    rw [if_pos]
    rcases h with h | h
    · exact .inl h
    · rcases h j hj with h | h
      · exact .inr (.inl h)
      · exact .inr (.inr (by simp [h]))

/-- An element that its aperture refuses is PROT. -/
theorem laneAccess_apertureFault (h : apertureFault c g width va) :
    laneAccess c.s c.t c.w c.agent g need L va width = .fault causePROT := by
  unfold laneAccess
  rcases h with h | ⟨off, h, hoff⟩ | ⟨off, h, hoff⟩ | ⟨off, h, hoff⟩ | ⟨h, hva⟩ <;> rw [h]
  · exact scratchPlaces_outside hoff
  · exact clusterPlaces_refused hoff
  · exact privatePlaces_refused hoff
  · exact if_pos hva

/-- A page that refuses the access answers with its cause. -/
theorem translate_pageFault (h : pageFault c need va cause) : Machine.translate c.s c.agent va need = .fault cause := by
  unfold Machine.translate
  rcases h with ⟨hw, rfl⟩ | ⟨level, e, hw, ⟨hdeny, rfl⟩ | ⟨hperm, hkey, htop, rfl⟩⟩ <;> rw [hw] <;> dsimp only
  · rw [if_pos (by simpa using hdeny)]
  · rw [if_neg (by simpa [hperm, ← Option.isSome_iff_ne_none] using hkey), if_pos htop]

/-- An element whose first page refuses it. -/
theorem globalPlaces_firstPage (h : Machine.translate c.s c.agent va need = .fault cause) :
    globalPlaces c.s c.agent va width need = .fault cause := by
  simp only [globalPlaces, h]

/-- An element whose second page refuses it, the first having let it pass. -/
theorem globalPlaces_secondPage {m : Mapped} (hp : pageOf va ≠ pageOf (va + width - 1)) (hm : Machine.translate c.s c.agent va need = .ok m)
    (h : Machine.translate c.s c.agent (pageOf (va + width - 1) * 0x10000) need = .fault cause) :
    globalPlaces c.s c.agent va width need = .fault cause := by
  simp only [globalPlaces, beq_eq_false_iff_ne.mpr hp, hm, Bool.false_eq_true, if_false, h]

/-- GLOBAL's window lets the element pass on to its pages. -/
theorem laneAccess_global (hva : apertureOf va = .global) (h : ¬apertureFault c g width va) :
    laneAccess c.s c.t c.w c.agent g need L va width = globalPlaces c.s c.agent va width need := by
  unfold laneAccess
  rw [hva]
  exact if_neg fun hf => h (.inr (.inr (.inr (.inr ⟨hva, hf⟩))))

/-- An aligned element whose access is refused. -/
theorem laneCheck_refused (hal : va % align = 0) (h : laneAccess c.s c.t c.w c.agent g need L va width = .fault cause) :
    laneCheck c g need align width va L = .fault cause := by
  rw [laneCheck, if_neg (fun hne => hne hal), h]

/-- The check of one lane answers the fault its element meets. -/
theorem laneCheck_laneFault (h : laneFault c g need align width va L cause) : laneCheck c g need align width va L = .fault cause := by
  rcases h with ⟨hal, rfl⟩ | ⟨hal, ⟨hap, rfl⟩ | ⟨hva, hap, hpage⟩ | ⟨ps, es, hok, hread, hbad, rfl⟩⟩
  case inl => rw [laneCheck, if_pos hal]
  case inr.inl => exact laneCheck_refused hal (laneAccess_apertureFault hap)
  case inr.inr.inl =>
    refine laneCheck_refused hal ((laneAccess_global hva hap).trans ?_)
    rcases hpage with ⟨hf, -⟩ | ⟨hf, hp, m, hm⟩
    · exact globalPlaces_firstPage (translate_pageFault hf)
    · exact globalPlaces_secondPage hp hm (translate_pageFault hf)
  case inr.inr.inr => rw [laneCheck, if_neg (fun hne => hne hal), hok]; exact if_pos ⟨hread, hbad⟩

/-- The checks of an access trap in the lowest lane with a fault. -/
theorem checkLanes_lowestFault (h : lowestFault c act a g need align width L cause) :
    checkLanes c act a g need align width = .stop (.trap (trapAddr cause (c.ea a L) L)) := by
  obtain ⟨hL, hf, hl⟩ := h
  exact checkLanes_lowest hL (laneCheck_laneFault hf) hl

/-! ## LDQ (spec/05 R153, spec/06 R192) -/

/-- A width code of two bits reads back. -/
theorem widthCode_toNat {k : Nat} (hk : k ≤ 2) : (BitVec.ofNat 2 k).toNat = k := by
  simp
  omega

/-- An aperture's refusal is not a translation outcome of GLOBAL: it does not rest on the queue's lane. -/
theorem not_global_of_apertureFault (h : apertureFault c .data width va) : ¬(apertureOf va = .global ∧ va + width ≤ globalTop) := by
  rintro ⟨hva, htop⟩
  rcases h with h | ⟨off, h, -⟩ | ⟨off, h, -⟩ | ⟨off, h, -⟩ | ⟨-, h | h⟩
  · rw [hva] at h; cases h
  · rw [hva] at h; cases h
  · rw [hva] at h; cases h
  · rw [hva] at h; cases h
  · cases h
  · omega

theorem ldqLane_apertureFault (h : apertureFault c .data width va) : ldqLane c width va L = .inl causePROT := by
  have hsoft : (decide (apertureOf va = .global) && decide (va + width ≤ globalTop)) = false := by
    simpa using not_global_of_apertureFault h
  unfold ldqLane
  rw [laneAccess_apertureFault h]
  simp only [hsoft, Bool.false_eq_true, if_false]

theorem ldqLane_poisoned {ps : List Place} {es : List TlbEntry}
    (h : laneAccess c.s c.t c.w c.agent .data .r L va width = .ok ps es) (hp : elemPoisoned c.s c.t.core ps = true) :
    ldqLane c width va L = .inl causeECCU := by
  unfold ldqLane
  rw [h]
  exact if_pos hp

/-- An LDQ whose lowest stopped lane has a cause. -/
theorem ldqForm_traps {f : FmtLdq} {k : Nat} {q : Queue} (hk : k ≤ 2) (he : exec i s = ldqForm s f (BitVec.ofNat 2 k))
    (h : Issues s .accessOnly c) (hq : c.t.queue? f.q.toNat = some q) (hp : isProducer q c.w = true) (hdir : q.dir = false)
    (hw : q.width = BitVec.ofNat 2 k) (hb : baseOk c f.a = true) (hL : L ∈ lanesOf (c.act f.g))
    (hf : ldqLane c (2 * 2 ^ k) (c.ea f.a L) L = .inl cause)
    (hl : ∀ J ∈ lanesOf (c.act f.g), J < L → ∀ k', ldqLane c (2 * 2 ^ k) (c.ea f.a J) J ≠ .inl k') :
    Traps i s c (trapAddr cause (c.ea f.a L) L) := by
  have hw' : (q.width == BitVec.ofNat 2 k) = true := by simp [hw]
  have hfirst := firstCause_lowest (fun L => ldqLane c (2 * 2 ^ k) (c.ea f.a L) L) hL hf hl
  refine traps_of h (he.trans rfl) (body := _) ?_
  simp only [hq, orIllopnd, hp, hdir, hw', hb, Bool.not_false, Bool.and_true, if_true, lanesOf_ne hL, if_false, widthCode_toNat hk, hfirst]

/-! ## STQ (spec/05 R148, R160, spec/06 R192) -/

/-- The lanes of one entry with a state: none, when no active lane has it. -/
theorem lanesWith_none {e : QEntry} {p : LaneState → Bool} (h : ∀ L, L < 32 → inMask act L = true → p (e.lane L).st = false) :
    lanesWith [e] act p = [] := by
  rw [lanesWith, List.filter_eq_nil_iff]
  intro L hL
  have hlt : L < 32 := by simpa [laneList] using hL
  simpa using h L hlt

/-- The lanes of one entry with a state begin with the lowest. -/
theorem lanesWith_lowest {e : QEntry} {p : LaneState → Bool} (hL : L < 32) (hact : inMask act L = true) (hp : p (e.lane L).st = true)
    (hl : ∀ J, J < L → inMask act J = true → p (e.lane J).st = false) : ∃ ls, lanesWith [e] act p = L :: ls := by
  rw [← List.head?_eq_some_iff, lanesWith, List.head?_filter, laneList, List.find?_range_eq_some]
  refine ⟨by simp [hact, hp], by simpa using hL, fun J hJ => ?_⟩
  by_cases hJact : inMask act J = true
  · simp [hl J hJ hJact]
  · simp [hJact]

/-- The trap of a poisoned lane reports the VA of its record, and zero where there is none (R160). -/
theorem poisonTrap_eq {core : Nat} {l : QLane} {x : TrapInfo} (hfull : bitsOf l.data 0 7 = 0x7F → x = trapAddr causePOISON 0 L)
    (hrec : ∀ r, bitsOf l.data 0 7 ≠ 0x7F → (s.core core).poison[bitsOf l.data 0 7]? = some (some r) →
      x = trapAddr causePOISON (r.va.toNat % 2 ^ 57) L)
    (hfree : bitsOf l.data 0 7 ≠ 0x7F → ¬(∃ r, (s.core core).poison[bitsOf l.data 0 7]? = some (some r)) →
      x = trapAddr causePOISON 0 L) : poisonTrap s core l L = x := by
  unfold poisonTrap
  by_cases h7 : bitsOf l.data 0 7 = 0x7F
  · rw [hfull h7, if_pos h7]
  · rw [if_neg h7, List.getD_eq_getElem?_getD]
    cases hget : (s.core core).poison[bitsOf l.data 0 7]? with
    | none => rw [hfree h7 (by simp [hget])]; rfl
    | some o =>
      cases o with
      | none => rw [hfree h7 (by simp [hget])]; rfl
      | some r => rw [hrec r h7 hget]; rfl

/-- A pop of a poisoned entry traps in its lowest poisoned lane, with the VA of the lane's record (R160). -/
theorem popFate_popPoisoned {e : QEntry} {x : TrapInfo} (h : popPoisoned s t e act x) : popFate s t [e] act = .trap x := by
  obtain ⟨hheld, hwait, L, hL, hact, hpois, hlow, hnone, hrec, hfree⟩ := h
  have hread : lanesWith [e] act (fun y => y == .inflight || y == .refetch) = [] :=
    lanesWith_none fun J hJ hJa => by simp [(hwait J hJ hJa).1, (hwait J hJ hJa).2.1]
  have htent : lanesWith [e] act (fun y => y == .tent) = [] :=
    lanesWith_none fun J hJ hJa => by simp [(hwait J hJ hJa).2.2]
  obtain ⟨ls, hpoison⟩ := lanesWith_lowest (p := fun y => y == .poison) (e := e) hL hact (by simp [hpois])
    fun J hJ hJa => by simpa using hlow J hJ hJa
  simp [popFate, hheld, hread, htent, hpoison, hpois, poisonTrap_eq hnone hrec hfree]

/-- An STQ whose head entry traps when popped, or delivers and meets a lane that the checks stop. -/
theorem stqForm_traps {f : FmtStq} {k : Nat} {q : Queue} {e : QEntry} {x : TrapInfo} (hk : k ≤ 2)
    (he : exec i s = stqForm s f (BitVec.ofNat 2 k)) (h : Issues s .accessOnly c) (ho : f.order = 0 ∨ f.order = 2)
    (hs : f.scope.toNat ≤ 5) (hq : c.t.queue? f.q.toNat = some q) (hp : isConsumer q c.w = true) (hdir : q.dir = true)
    (hw : q.width = BitVec.ofNat 2 k) (hb : baseOk c f.a = true) (hpop : popEntries c.t [f.q.toNat] = some [e]) (ha : c.act f.g ≠ 0)
    (hx : popFate c.s c.t [e] (c.act f.g) = .trap x ∨
      popFate c.s c.t [e] (c.act f.g) = .ok ∧ readsOwed c.s c.t c.wi (c.act f.g) = false ∧
        checkLanes c (c.act f.g) f.a .data .w (if f.order = 0 then 1 else 2 * 2 ^ k) (2 * 2 ^ k) = .stop (.trap x)) :
    Traps i s c x := by
  have hw' : (q.width == BitVec.ofNat 2 k) = true := by simp [hw]
  have ho' : (f.order == 0 || f.order == 2) = true := by simpa using ho
  refine traps_of h (he.trans rfl) (body := _) ?_
  simp only [orIllop, ho', scopeOk, hs, decide_true, hq, orIllopnd, hp, hdir, hw', hb, Bool.and_true, if_true, ha, if_false, hpop]
  rcases hx with hx | ⟨hok, hread, hstop⟩
  · rw [hx]
  · simp only [hok, hread, Bool.false_eq_true, if_false, widthCode_toNat hk, hstop]

/-- A split that pops a poisoned lane has an active lane. -/
theorem act_ne_of_popPoisoned {e : QEntry} {x : TrapInfo} (h : popPoisoned s t e act x) : act ≠ 0 := by
  obtain ⟨-, -, L, -, hact, -⟩ := h
  rintro rfl
  simp [inMask] at hact

/-! ## The three widths -/

/-- The LDQs with their width codes. -/
def ldqs (f : FmtLdq) : List (Instr × Nat) := [(.ldqB16 f, 0), (.ldqB32 f, 1), (.ldqB64 f, 2)]

/-- The STQs with their width codes. -/
def stqs (f : FmtStq) : List (Instr × Nat) := [(.stqB16 f, 0), (.stqB32 f, 1), (.stqB64 f, 2)]

theorem ldqs_code {f : FmtLdq} : ∀ r ∈ ldqs f, r.2 ≤ 2 := by simp [ldqs]
theorem stqs_code {f : FmtStq} : ∀ r ∈ stqs f, r.2 ≤ 2 := by simp [stqs]

/-- Each LDQ has the form of its width code. -/
theorem exec_ldqs (f : FmtLdq) (s : State) : ∀ r ∈ ldqs f, exec r.1 s = ldqForm s f (BitVec.ofNat 2 r.2) :=
  List.map_inj_left.mp rfl

/-- Each STQ has the form of its width code. -/
theorem exec_stqs (f : FmtStq) (s : State) : ∀ r ∈ stqs f, exec r.1 s = stqForm s f (BitVec.ofNat 2 r.2) :=
  List.map_inj_left.mp rfl

end Lemmas

/-! ## The obligation -/

/-- Settles O10: an LDQ traps only by what does not rest on its queue's lane, an STQ by its head entry or its checks; what both complete with are the forms' own. -/
theorem queueMemoryComplete : Obligations.QueueMemoryComplete := by
  refine ⟨?ldqTraps, ?stqTraps, ?ldq, ?stq⟩
  case ldqTraps =>
    intro f s c q L cause r hr h hq hp hdir hw hb hL hf hl
    refine ldqForm_traps (ldqs_code r hr) (exec_ldqs f s r hr) h hq hp hdir hw hb hL ?_ hl
    rcases hf with ⟨hap, rfl⟩ | ⟨ps, es, hok, hbad, rfl⟩
    · exact ldqLane_apertureFault hap
    · exact ldqLane_poisoned hok hbad
  case stqTraps =>
    intro f s c q e r hr h ho hs hq hp hdir hw hb hpop
    have traps {x : TrapInfo} := stqForm_traps (x := x) (stqs_code r hr) (exec_stqs f s r hr) h ho hs hq hp hdir hw hb hpop
    exact ⟨fun x hx => traps (act_ne_of_popPoisoned hx) (.inl (popFate_popPoisoned hx)),
      fun L cause hok hread hf => traps (lanesOf_ne hf.1) (.inr ⟨hok, hread, checkLanes_lowestFault hf⟩)⟩
  case ldq =>
    intro f s c q ok r hr h ha hq hp hdir hw hb hcan hl hpois hfit hm
    exact ldqForm_completes (ldqs_code r hr) (exec_ldqs f s r hr) h ha hq hp hdir hw hb hcan hl hpois hfit hm
  case stq =>
    intro f s c q e ls tl r hr h ha ho hs hq hp hdir hw hb hpop hf hread hc hm
    exact stqForm_completes (stqs_code r hr) (exec_stqs f s r hr) h ha ho hs hq hp hdir hw hb hpop hf hread hc hm

end Sys2Proof.QueueMemory
end

section
/-! PROOFS. Deliveries, page answers, boundary moves, errors and repair (spec/05 R151 to R155, R163, R168, R169, spec/08 R227, R244, spec/11 R303, R327, spec/12 R346 to R348, spec/13 R352, R357, R363, R369): what each event answers in the states in which it acts. -/

namespace Sys2Proof.CoreEvents
open Sys2Proof Sys2Proof.Machine Sys2Proof.Claims

section Lemmas
variable {s : State} {t : Team} {w : Warp} {p : Split} {id wi slot k core : Nat}

/-! ## Events of the module's own work (spec/12 R343) -/

theorem whenClocked_runs {o : Host.Outcome State Fault Refusal} (h : clockRuns s = true) : whenClocked s o = o := if_pos h

/-- A core that the die has is replaced by the image of what it holds. -/
theorem updCore_eq_const (f : Core → Core) (h : core < s.cores.length) :
    s.updCore core f = s.updCore core (fun _ => f (s.core core)) := by
  have hcores : updAt s.cores core f = updAt s.cores core (fun _ => f (s.core core)) := by
    apply List.ext_getElem?
    intro j
    rw [updAt_get, updAt_get]
    split
    · rename_i hj
      subst hj
      rw [State.core, List.getD_eq_getElem?_getD, List.getElem?_eq_getElem h]
      rfl
    · rfl
  rw [State.updCore, hcores]
  rfl

/-! ## Deliveries to a live split (spec/11 R299, spec/13 R363, R369) -/

/-- A numbered list holds each element at its place, and nothing else. -/
theorem mem_numbered {α : Type} {l : List α} {i : Nat} {x : α} : (i, x) ∈ (List.range l.length).zip l ↔ l[i]? = some x := by
  constructor
  · intro h
    obtain ⟨j, hj, hx⟩ := List.mem_iff_getElem.mp h
    simp only [List.getElem_zip, List.getElem_range, Prod.mk.injEq] at hx
    obtain ⟨rfl, rfl⟩ := hx
    exact List.getElem?_eq_getElem _
  · intro h
    obtain ⟨hi, rfl⟩ := List.getElem?_eq_some_iff.mp h
    exact List.mem_iff_getElem.mpr ⟨i, by simpa using hi, by simp⟩

/-- What a live slot of a warp delivers: the failure that is due to its split, if that may issue. -/
def slotDue {α : Type} (due : Team → Nat → Warp → Split → Option α) (t : Team) (wi : Nat) (w : Warp) (l : LiveSlot) :
    Option (Nat × BitVec 16 × α) :=
  (l.seq.bind (findSplit w.table)).bind (fun p =>
    if mayIssue t wi w p && p.blk == 0 then (due t wi w p).map (fun d => (wi, p.seq, d)) else none)

/-- The first live slot of a team that delivers. -/
def firstDue {α : Type} (due : Team → Nat → Warp → Split → Option α) (t : Team) : Option (Nat × BitVec 16 × α) :=
  ((List.range t.warps.length).zip t.warps).findSome? (fun x => x.2.slots.findSome? (slotDue due t x.1 x.2))

/-- A split that a live slot holds. -/
theorem slotSplit_eq_some : slotSplit w slot = some p ↔ ∃ l, w.slots[slot]? = some l ∧ l.seq.bind (findSplit w.table) = some p := by
  unfold slotSplit
  cases hl : w.slots[slot]? with
  | none => simp
  | some l =>
    obtain ⟨seq, issued⟩ := l
    cases seq <;> simp

section Due
variable {α : Type} {due : Team → Nat → Warp → Split → Option α} {f : Ctx → α → State} {d : α} {q : BitVec 16}

theorem slotDue_eq_some {l : LiveSlot} {y : Nat × BitVec 16 × α} : slotDue due t wi w l = some y ↔
    ∃ p d, l.seq.bind (findSplit w.table) = some p ∧ mayIssue t wi w p = true ∧ p.blk = 0 ∧ due t wi w p = some d ∧ (wi, p.seq, d) = y := by
  unfold slotDue
  cases l.seq.bind (findSplit w.table) with
  | none => simp
  | some p => by_cases h : mayIssue t wi w p = true <;> by_cases hb : p.blk = 0 <;> simp [h, hb]

/-- What is delivered first is due to a split that may take it. -/
theorem firstDue_spec (ht : s.team? id = some t) (h : firstDue due t = some (wi, q, d)) :
    ∃ slot w p, mayTake s id wi slot t w p ∧ p.seq = q ∧ due t wi w p = some d := by
  obtain ⟨⟨i, w⟩, hmem, hslots⟩ := List.exists_of_findSome?_eq_some h
  obtain ⟨l, hl, hdue⟩ := List.exists_of_findSome?_eq_some hslots
  obtain ⟨p, d', hp, hissue, hblk, hd, heq⟩ := slotDue_eq_some.mp hdue
  cases heq
  obtain ⟨slot, hslot⟩ := List.mem_iff_getElem?.mp hl
  exact ⟨slot, w, p, ⟨ht, mem_numbered.mp hmem, slotSplit_eq_some.mpr ⟨l, hslot, hp⟩, hissue, hblk⟩, rfl, hd⟩

/-- A failure that is due to a split that may take it: some split is delivered one. -/
theorem exists_firstDue (h : mayTake s id wi slot t w p) (hd : due t wi w p = some d) : ∃ y, firstDue due t = some y := by
  obtain ⟨-, hw, hslot, hissue, hblk⟩ := h
  obtain ⟨l, hl, hp⟩ := slotSplit_eq_some.mp hslot
  have hdue := slotDue_eq_some.mpr ⟨p, d, hp, hissue, hblk, hd, rfl⟩
  rw [← Option.isSome_iff_exists, firstDue, List.findSome?_isSome_iff]
  refine ⟨(wi, w), mem_numbered.mpr hw, ?_⟩
  rw [List.findSome?_isSome_iff]
  exact ⟨l, List.mem_of_getElem? hl, by rw [hdue]; rfl⟩

/-- A split that a live slot holds has a context. -/
theorem exists_ctxAt (h : mayTake s id wi slot t w p) : ∃ c, ctxAt s t wi p.seq = some c := by
  obtain ⟨-, hw, hslot, -, -⟩ := h
  obtain ⟨l, -, hp⟩ := slotSplit_eq_some.mp hslot
  obtain ⟨q, -, hfind⟩ := Option.bind_eq_some_iff.mp hp
  have hseq : p.seq = q := by simpa using List.find?_some hfind
  rw [ctxAt, hw, hseq]
  dsimp only
  rw [hfind]
  exact ⟨_, rfl⟩

theorem deliverLive_first {c : Ctx} (ht : s.team? id = some t) (h : firstDue due t = some (wi, q, d)) (hc : ctxAt s t wi q = some c) :
    deliverLive s id due f = f c d := by
  unfold firstDue slotDue at h
  unfold deliverLive
  rw [ht]
  dsimp only
  rw [h]
  dsimp only
  rw [hc]

/-- Where a failure is due to a split that may take it, one is delivered to such a split. -/
theorem deliverLive_delivers (h : mayTake s id wi slot t w p) (hd : due t wi w p = some d) :
    ∃ wi slot w p d c, mayTake s id wi slot t w p ∧ due t wi w p = some d ∧ ctxAt s t wi p.seq = some c ∧ deliverLive s id due f = f c d := by
  have ht := h.1
  obtain ⟨⟨wi, q, d⟩, hfirst⟩ := exists_firstDue h hd
  obtain ⟨slot, w, p, htake, rfl, hdue⟩ := firstDue_spec ht hfirst
  obtain ⟨c, hc⟩ := exists_ctxAt htake
  exact ⟨wi, slot, w, p, d, c, htake, hdue, hc, deliverLive_first ht hfirst hc⟩

end Due

/-- Of what is due, that of warp k alone. -/
theorem bind_ofWarp {β : Type} {o : Option (Nat × β)} {x : Nat × β} :
    (o.bind (fun x => if x.1 = k then some x else none)) = some x ↔ o = some x ∧ x.1 = k := by
  constructor
  · intro h
    obtain ⟨y, ho, hx⟩ := Option.bind_eq_some_iff.mp h
    obtain ⟨hk, hyx⟩ := Option.ite_none_right_eq_some.mp hx
    cases hyx
    exact ⟨ho, hk⟩
  · rintro ⟨rfl, hk⟩
    exact if_pos hk

theorem remoteFault_delivered {r : FaultRecord} (h : mayTake s id wi slot t w p) (hd : faultDue t wi w p = some (k, r)) :
    ∃ wi slot w p r c, mayTake s id wi slot t w p ∧ faultDue t wi w p = some (k, r) ∧ ctxAt s t wi p.seq = some c ∧
      exec (.remoteFaultDelivery id k) s = .next (deliverFault c k r) := by
  obtain ⟨wi, slot, w, p, ⟨k', r⟩, c, htake, hdue, hc, he⟩ := deliverLive_delivers (f := fun c x => deliverFault c x.1 x.2)
    (due := fun t wi w p => (faultDue t wi w p).bind (fun x => if x.1 = k then some x else none)) h (bind_ofWarp.mpr ⟨hd, rfl⟩)
  obtain ⟨hfault, rfl⟩ := bind_ofWarp.mp hdue
  exact ⟨wi, slot, w, p, r, c, htake, hfault, hc, congrArg Host.Outcome.next he⟩

theorem mcastPart_delivered {m : BitVec 16 × Nat} (h : mayTake s id wi slot t w p) (hd : mcastDue t wi w p = some (k, m)) :
    ∃ wi slot m w p c, mayTake s id wi slot t w p ∧ mcastDue t wi w p = some (k, m) ∧ ctxAt s t wi p.seq = some c ∧
      exec (.mcastpartDelivery id k) s = .next (deliverMcast c k m) := by
  obtain ⟨wi, slot, w, p, ⟨k', m⟩, c, htake, hdue, hc, he⟩ := deliverLive_delivers (f := fun c x => deliverMcast c x.1 x.2)
    (due := fun t wi w p => (mcastDue t wi w p).bind (fun x => if x.1 = k then some x else none)) h (bind_ofWarp.mpr ⟨hd, rfl⟩)
  obtain ⟨hpart, rfl⟩ := bind_ofWarp.mp hdue
  exact ⟨wi, slot, m, w, p, c, htake, hpart, hc, congrArg Host.Outcome.next he⟩

/-- A multicast failure that is due stands in the list of the warp it names, and is delivered to this split (R369). -/
theorem mcastDue_pending {m : BitVec 16 × Nat} (h : mcastDue t wi w p = some (k, m)) :
    ∃ x, t.warps[k]? = some x ∧ m ∈ x.mcast.pending ∧ deliversTo t wi w p k m.1 = true := by
  obtain ⟨⟨i, x⟩, hmem, hx⟩ := List.exists_of_findSome?_eq_some h
  obtain ⟨m', hm, heq⟩ := Option.map_eq_some_iff.mp hx
  cases heq
  exact ⟨x, mem_numbered.mp hmem, List.mem_of_find?_eq_some hm, by simpa using List.find?_some hm⟩

/-! ## Waits that end (spec/05 R151, R154, R155, R163) -/

/-- 4,096 stalled cycles deliver QDEAD (R151, R152). -/
theorem exec_qdeadTimeout (hrun : clockRuns s = true) (ht : s.team? id = some t) (hcount : 4096 ≤ t.save.qdead)
    (hstall : queueStalled t = true) (hsplit : qdeadSplit t = some (wi, p)) :
    exec (.qdeadTimeout id) s = .next (eventTrap s id wi p.seq (fun c => takeTrap c
      { cause := causeQDEAD
        lo := BitVec.ofNat 32 ((dedup (t.warps.flatMap (fun w => (w.table.filter (fun x => x.blk == 2)).flatMap (blockedOn s t)))).foldl
          (fun n q => n + 2 ^ q) 0)
        hi := 0, lane := 0 } c.p.unitPc)) := by
  refine (whenClocked_runs hrun).trans ?_
  have hdue : ¬(t.save.qdead < Config.qdeadCycles ∨ (!queueStalled t) = true) := by
    simpa [hstall, Config.qdeadCycles] using hcount
  rw [ht]
  dsimp only
  rw [if_neg hdue, hsplit]

/-- A freed entry takes the page that waits longest (R154). -/
theorem exec_pageRequestEnter {x : Nat × Nat} {r : List (Nat × Nat)} (hrun : clockRuns s = true) (hcore : core < s.cores.length)
    (hwait : (s.core core).waiters = x :: r) (hroom : (s.core core).pages.length < 64) :
    exec (.pageRequestEnter core) s = .next (s.updCore core (fun _ => { s.core core with waiters := r, pages := (s.core core).pages ++ [x] })) := by
  refine (whenClocked_runs hrun).trans ?_
  rw [updCore_eq_const _ hcore]
  dsimp only
  rw [hwait]
  dsimp only
  rw [if_pos hroom]

/-- An answer to an outstanding request is noted, then taken by what the core's number names (R155). -/
theorem exec_pageAnswer {a : PageAnswer} (hrun : clockRuns s = true) (hreq : requested s a = true) :
    exec (.pageAnswer a) s = .next (
      if a.core < 24 then answerCore (noteAnswers s a.job a.page a.present) a.core a.job a.page a.present
      else if a.core = 24 then answerDispatcher (noteAnswers s a.job a.page a.present) a.job a.page a.present
      else answerFabric (noteAnswers s a.job a.page a.present) a.job a.page a.present) := by
  refine (whenClocked_runs hrun).trans ?_
  rw [answerPage, hreq]
  rfl

/-- A boundary that is being raised moves unless too many lines are dirty (R163). -/
theorem exec_boundaryMove {n : Nat} (hrun : clockRuns s = true) (hraise : (s.core core).raising = some n) :
    exec (.boundaryMove core) s = .next (if l1Lines s core < l1Dirty s core then s
      else s.updCore core (fun c => { c with boundary := max c.boundary n, raising := none })) := by
  refine (whenClocked_runs hrun).trans ?_
  rw [hraise]

/-- What the lines of L1 are while the boundary is being raised to n (R163). -/
theorem l1Lines_raising {n : Nat} (hraise : (s.core core).raising = some n) :
    l1Lines s core = Config.arrayLines - max (s.core core).boundary n / 128 := by
  rw [l1Lines, hraise]
  rfl

/-! ## Uncorrectable errors (spec/05 R168, R169, spec/08 R227, spec/11 R327) -/

theorem exec_eccUncorrectable (site : EccSite) (s : State) : exec (.eccUncorrectable site) s = execEccUncorrectable site s := rfl

/-- An error in a line of L1 that no store of L1 dirties is counted and loses nothing. -/
theorem exec_ecc_dirtyL1_clean {line : Nat} (h : ((noteError s core).core core).stores.filter
    (fun st => st.l1 && st.stream.isNone && st.bytes.any (fun b => b.1 / 128 == line)) = []) :
    exec (.eccUncorrectable (.dirtyL1 core line)) s = .next (noteError s core) := by
  simp only [exec_eccUncorrectable, execEccUncorrectable, siteCore, h]

/-- An error in a line of L1 that stores dirty marks the line for the first one's team, and the stores of its key there are lost. -/
theorem exec_ecc_dirtyL1_lost {line : Nat} {st : PStore} {rest : List PStore} (h : ((noteError s core).core core).stores.filter
    (fun st => st.l1 && st.stream.isNone && st.bytes.any (fun b => b.1 / 128 == line)) = st :: rest) :
    exec (.eccUncorrectable (.dirtyL1 core line)) s = .next (((st :: rest).filter (fun x => x.key == st.key)).foldl
      (fun s x => opEnded (s.unbind x.team x.warp x.flag) x.team) ((noteError s core).updCore core (fun c => { c with
        poisonL1 := (line, st.team) :: c.poisonL1.filter (fun x => x.1 != line)
        stores := c.stores.filter (fun x => !((st :: rest).filter (fun x => x.key == st.key)).any (fun y => y.op == x.op)) }))) := by
  simp only [exec_eccUncorrectable, execEccUncorrectable, siteCore, h]

/-- An error in the storage of a team is counted for its core and kills it. -/
theorem exec_ecc_teamStorage (h : siteCore s (.teamStorage id) = some core) :
    exec (.eccUncorrectable (.teamStorage id)) s = .next (killTeam (noteError s core) id) := by
  simp only [exec_eccUncorrectable, execEccUncorrectable, h]

/-- An error in a tile that a team owns kills it. -/
theorem exec_ecc_tile_owned {i : Nat} (h : (s.tile k i).owner = some id) :
    exec (.eccUncorrectable (.tile k i)) s = .next (killTeam s id) := by
  rw [State.tile] at h
  simp only [exec_eccUncorrectable, execEccUncorrectable, siteCore, h]

/-- An error in a tile that no team owns is logged. -/
theorem exec_ecc_tile_free {i : Nat} (h : (s.tile k i).owner = none) :
    exec (.eccUncorrectable (.tile k i)) s = .next (s.updCluster k (fun c => { c with logged := c.logged + 1 })) := by
  rw [State.tile] at h
  simp only [exec_eccUncorrectable, execEccUncorrectable, siteCore, h]

/-- An error in memory that holds a team's frame or its PRIVATE bytes kills the team. -/
theorem exec_ecc_pool {pa : Nat}
    (h : s.teams.find? (fun t => (t.placed || t.status == .saved) && (ownsByte t pa || ownsPrivate s t pa)) = some t) :
    exec (.eccUncorrectable (.pool pa)) s = .next (killTeam s t.id) := by
  simp only [exec_eccUncorrectable, execEccUncorrectable, siteCore, h]

/-- An error in a read-only copy that L2 holds costs the copy's frame and drops the copy. -/
theorem exec_ecc_copyL2 {line sector : Nat} (h : s.die.copies.contains (line, sector) = true) :
    exec (.eccUncorrectable (.copyL2 line sector)) s = .next ((retireFrame s (copySlice line sector)).updDie
      (fun d => { d with copies := d.copies.filter (· != (line, sector)) })) :=
  congrArg _ (if_pos h)

/-- An error in a dirty line of L2 that is not yet marked costs its frame and marks it. -/
theorem exec_ecc_dirtyL2 {line : Nat} (hdirty : s.die.l2.any (fun x => x.1 % 2 ^ 40 / 128 == line) = true)
    (hmark : s.die.l2Poison.contains line = false) :
    exec (.eccUncorrectable (.dirtyL2 line)) s = .next ((retireFrame s (homeSlice line)).updDie
      (fun d => { d with l2Poison := line :: d.l2Poison })) :=
  congrArg _ (if_pos (show (_ && !_) = true from Bool.and_eq_true_iff.mpr ⟨hdirty, congrArg not hmark⟩))

/-! ## Spares (spec/11 R329, spec/12 R348, spec/13 R357) -/

theorem exec_hbmChannelSpare (stack channel : Nat) (s : State) :
    exec (.hbmChannelSpare stack channel) s = execHbmChannelSpare stack channel s := rfl

/-- A channel that is not yet spared takes one of its stack's two spares. -/
theorem exec_hbmChannelSpare_takes {stack channel : Nat} (hnew : s.pkg.spareHbm.contains (stack, channel) = false)
    (hfew : (s.pkg.spareHbm.filter (fun x => x.1 == stack)).length < 2) :
    exec (.hbmChannelSpare stack channel) s = .next (s.updPkg (fun p => { p with spareHbm := p.spareHbm ++ [(stack, channel)] })) :=
  (exec_hbmChannelSpare stack channel s).trans (by
    rw [execHbmChannelSpare, if_neg (not_or.mpr ⟨by rw [hnew]; exact Bool.false_ne_true, Nat.not_le.mpr hfew⟩)])

theorem exec_wavelengthSpare (port : Nat) (tx : Bool) (s : State) :
    exec (.wavelengthSpare port tx) s = execWavelengthSpare port tx s := rfl

theorem setState_eq (y : Port) (v : Nat) : y.setState v = { y with reg := setBits y.reg 16 2 v } := rfl

/-- A wavelength with a spare left is counted, and a port in use trains again. -/
theorem exec_wavelengthSpare_retrains {port : Nat} {tx : Bool} {x : Port} (hp : s.port? port = some x)
    (h : bitsOf x.reg (if tx then 24 else 26) 2 < 2) :
    exec (.wavelengthSpare port tx) s = .next (s.updPort port (fun y =>
      let z := { y with reg := setBits y.reg (if tx then 24 else 26) 2 (bitsOf x.reg (if tx then 24 else 26) 2 + 1) }
      if portState y = 2 then { z with reg := setBits z.reg 16 2 1, retrain := true } else z)) := by
  rw [exec_wavelengthSpare, execWavelengthSpare, hp]
  dsimp only
  rw [if_neg (Nat.not_le.mpr h)]
  refine congrArg (fun f => Host.Outcome.next (s.updPort port f)) (funext fun y => ?_)
  rw [setState_eq]

/-- A third spare fails the port. -/
theorem exec_wavelengthSpare_fails {port : Nat} {tx : Bool} {x : Port} (hp : s.port? port = some x)
    (h : 2 ≤ bitsOf x.reg (if tx then 24 else 26) 2) : exec (.wavelengthSpare port tx) s = .next (failPort s port) := by
  simp only [exec_wavelengthSpare, execWavelengthSpare, hp]
  rw [if_pos h]

/-! ## Retirement and self-tests (spec/12 R346, R348) -/

theorem exec_coreRetire (core : Nat) (savable : Bool) (s : State) :
    exec (.coreRetire core savable) s = execCoreRetire core savable s := rfl

/-- An unfit core is taken out of service, and its teams are moved or killed. -/
theorem exec_coreRetire_unfit {savable : Bool} (hcore : core < 24) (hin : (s.core core).retired = false) (h : coreUnfit s core = true) :
    exec (.coreRetire core savable) s = .next ((s.teams.filter (fun t => t.core == core && t.placed)).foldl
      (fun s t => evictTeam s savable t.id)
      ((s.updCore core (fun c => { c with ready := false, retired := true })).updPkg (fun p => { p with
        ready := p.ready &&& ~~~BitVec.ofNat 64 (2 ^ core), failed := p.failed ||| BitVec.ofNat 64 (2 ^ core) }))) :=
  (exec_coreRetire ..).trans (by
    rw [execCoreRetire, if_neg (by simp [h, hin, hcore])]
    simp only [State.updPkg_teams, State.updCore_teams])

/-- A fit core is not retired. -/
theorem exec_coreRetire_fit {savable : Bool} (h : coreUnfit s core = false) : exec (.coreRetire core savable) s = .next s :=
  (exec_coreRetire ..).trans (by rw [execCoreRetire, if_pos (by simp [h])])

theorem exec_selfTestDone (fn : Nat) (pass : Bool) (s : State) : exec (.selfTestDone fn pass) s = execSelfTestDone fn pass s := rfl

end Lemmas

/-! ## The obligations -/

/-- Settles O42: a failure that is due reaches the first live split that may take it; every other event acts once its guards pass. -/
theorem deliveryEvents : Obligations.DeliveryEvents := by
  refine ⟨?qdead, ?trap, ?fault, ?mcast, ?pending, ?enter, ?answer, ?boundary⟩
  case qdead => exact fun id wi t p s hrun ht hcount hstall hsplit => exec_qdeadTimeout hrun ht hcount hstall hsplit
  case trap => exact fun id t s _ _ => rfl
  case fault => exact fun id k wi slot t w p r s h hd => remoteFault_delivered h hd
  case mcast => exact fun id k wi slot m t w p s h hd => mcastPart_delivered h hd
  case pending => exact fun wi k m t w p h => mcastDue_pending h
  case enter => exact fun core x r s hrun hcore hwait hroom => exec_pageRequestEnter hrun hcore hwait hroom
  case answer =>
    intro a s hrun hreq
    rw [exec_pageAnswer hrun hreq]
    refine ⟨fun h => ?_, fun h => ?_, fun h => ?_⟩
    · rw [if_pos h]
    · rw [if_neg (by omega), if_pos h]
    · rw [if_neg (by omega), if_neg (by omega)]
  case boundary =>
    intro core n s hrun hcore hraise
    rw [exec_boundaryMove hrun hraise, l1Lines_raising hraise]
    refine ⟨fun h => ?_, fun h => ?_⟩
    · rw [if_neg (show ¬_ < l1Dirty s core from Nat.not_lt.mpr h), updCore_eq_const _ hcore]
    · exact congrArg _ (if_pos h)

/-- Settles O43: the effect of an error follows from its site, that of a repair or a self-test from its guards. -/
theorem repairEvents : Obligations.RepairEvents := by
  refine ⟨?inCore, ?unowned, ?tile, ?l2, ?memory, ?columnGroup, ?channel, ?wavelength, ?retire, ?selfTest⟩
  case inCore =>
    intro site core s hcore
    refine ⟨?_, ?_, ?_⟩
    · rintro id rfl
      exact exec_ecc_teamStorage hcore
    · rintro line rfl
      rfl
    · rintro line rfl held
      refine ⟨exec_ecc_dirtyL1_clean, fun st rest h => ?_⟩
      rw [h]
      exact exec_ecc_dirtyL1_lost h
  case unowned => exact fun _ _ => rfl
  case tile => exact fun k i s => ⟨fun id h => exec_ecc_tile_owned h, exec_ecc_tile_free⟩
  case l2 => exact fun line s => ⟨rfl, fun sector h => exec_ecc_copyL2 h, exec_ecc_dirtyL2⟩
  case memory => exact fun pa t s h => exec_ecc_pool h
  case columnGroup => exact fun _ _ _ => rfl
  case channel => exact fun stack channel s hnew hfew => exec_hbmChannelSpare_takes hnew hfew
  case wavelength => exact fun port tx x s hp => ⟨exec_wavelengthSpare_retrains hp, exec_wavelengthSpare_fails hp⟩
  case retire =>
    intro core savable s hcore hin
    refine ⟨fun h => exec_coreRetire_unfit hcore hin (by simpa [coreUnfit] using h), fun hfit htest => ?_⟩
    exact exec_coreRetire_fit (by simp [coreUnfit, hfit, htest])
  case selfTest =>
    intro fn pass s hfw was u
    have hu : setReady s fn pass = u := rfl
    have hbooted : ¬s.pkg.firmware.isNone = true := by simpa [Option.isSome_iff_ne_none] using hfw
    rw [exec_selfTestDone, execSelfTestDone, if_neg hbooted, hu]
    refine ⟨fun h => ?cores, fun h h' => ?engines, ?others, fun h h' => ?hbm, fun h h' => ?runnels, fun h => ?ports⟩
    case cores => rw [if_pos h]
    case engines => rw [if_neg (by omega), if_pos h']
    case others =>
      rintro (⟨h, h'⟩ | rfl)
      · rw [if_neg (by omega), if_neg (by omega), if_pos h']
      · rfl
    case hbm => rw [if_neg (by omega), if_neg (by omega), if_neg (by omega), if_pos h']
    case runnels =>
      rw [if_neg (by omega), if_neg (by omega), if_neg (by omega), if_neg (by omega), if_neg (by omega), if_neg (by omega)]
    case ports =>
      rw [if_neg (by omega), if_neg (by omega), if_neg (by omega), if_neg (by omega), if_neg (by omega), if_pos h]
      simp only [Port.setReady]

end Sys2Proof.CoreEvents
end

section
/-! PROOFS. The memory instructions of a core and regrouping (spec/06 R182 to R202): loads, stores and atomics, full/empty words, cache and order, slots, REGROUP and UNGROUP. What an instruction's form answers in each case is said once for the form; each obligation reads it off for the instructions that have the form. -/

namespace Sys2Proof.CoreInstructions
open Sys2Proof Sys2Proof.Machine Sys2Proof.Claims

section Lemmas
variable {s : State} {c c' : Ctx} {i : Instr} {act : LaneMask} {L : Nat} {cause : BitVec 8} {ls : List (Nat × List Place)}
  {es : List TlbEntry}

/-! ## Loads, stores and atomics (spec/06 R184 to R191, R199) -/

/-- Each load has the form of its width and its extension. -/
theorem exec_loads (f : FmtM) (s : State) : ∀ r ∈ loads f, exec r.1 s = loadForm s f r.2.1 r.2.2 :=
  List.map_inj_left.mp rfl

/-- Each store has the form of its width. -/
theorem exec_stores (f : FmtM) (s : State) : ∀ r ∈ stores f, exec r.1 s = storeForm s f r.2 :=
  List.map_inj_left.mp rfl

/-- Each atomic has the form of its operand and its operation. -/
theorem exec_atomics (f : FmtAt) (s : State) : ∀ r ∈ atomics f, exec r.1 s = atomicForm s f r.2.1 r.2.2 :=
  List.map_inj_left.mp rfl

/-- A load traps in the lowest lane with a fault (R189). -/
theorem loadForm_traps {f : FmtM} {n : Nat} {ext : Nat → Nat} (he : exec i s = loadForm s f n ext) (h : Issues s .accessOnly c)
    (ho : f.order.toNat ≤ 1) (hs : f.scope.toNat ≤ 5) (hd : dataOk c f.d.toNat n = true) (hb : baseOk c f.a = true)
    (hf : lowestFault c (c.act f.g) f.a .data .r (if f.order = 0 then 1 else n) n L cause) :
    Traps i s c (trapAddr cause (c.ea f.a L) L) := by
  refine traps_of h (he.trans rfl) (body := _) ?_
  simp only [orIllop, orIllopnd, ho, scopeOk, hs, hd, hb, decide_true, Bool.and_self, if_true, lanesOf_ne hf.1, if_false,
    QueueMemory.checkLanes_lowestFault hf]

/-- A store traps in the lowest lane with a fault (R189), before its release is waited for. -/
theorem storeForm_traps {f : FmtM} {n : Nat} (he : exec i s = storeForm s f n) (h : Issues s .accessOnly c)
    (ho : f.order = 0 ∨ f.order = 2) (hs : f.scope.toNat ≤ 5) (hd : dataOk c f.d.toNat n = true) (hb : baseOk c f.a = true)
    (hf : lowestFault c (c.act f.g) f.a .data .w (if f.order = 0 then 1 else n) n L cause) :
    Traps i s c (trapAddr cause (c.ea f.a L) L) := by
  refine traps_of h (he.trans rfl) (body := _) ?_
  have ho' : (f.order == 0 || f.order == 2) = true := by simpa using ho
  simp only [orIllop, orIllopnd, ho', scopeOk, hs, hd, hb, decide_true, Bool.and_self, if_true, lanesOf_ne hf.1, if_false,
    QueueMemory.checkLanes_lowestFault hf]

/-- An atomic traps in the lowest lane with a fault (R189). -/
theorem atomicForm_traps {f : FmtAt} {k : AtomicKind} {op : Nat → Nat → Nat → Nat} (he : exec i s = atomicForm s f k op)
    (h : Issues s .accessOnly c) (hs : f.scope.toNat ≤ 5) (hd : atomicOk c f.d.toNat k = true) (hb : baseOk c f.a = true)
    (hf : lowestFault c (c.act f.g) f.a .atomic .rw k.width k.width L cause) :
    Traps i s c (trapAddr cause (c.ea f.a L) L) := by
  refine traps_of h (he.trans rfl) (body := _) ?_
  simp only [orIllop, orIllopnd, scopeOk, hs, hd, hb, decide_true, Bool.and_self, if_true, lanesOf_ne hf.1, if_false,
    QueueMemory.checkLanes_lowestFault hf]

/-! ## What keeps the issuing split in its place -/

theorem follows_ite {p : Prop} [Decidable p] {a b : Ctx} (ha : Follows c a) (hb : Follows c b) : Follows c (if p then a else b) := by
  split
  · exact ha
  · exact hb

/-- A fold of changes of the team that each keep its number and its warps. -/
theorem foldl_team_same {α : Type} {f : Team → α → Team} (hf : ∀ t x, (f t x).id = t.id ∧ (f t x).warps = t.warps) (l : List α)
    (t : Team) : (l.foldl f t).id = t.id ∧ (l.foldl f t).warps = t.warps := by
  induction l generalizing t with
  | nil => exact ⟨rfl, rfl⟩
  | cons x r ih =>
    obtain ⟨hid, hwarps⟩ := ih (f t x)
    exact ⟨hid.trans (hf t x).1, hwarps.trans (hf t x).2⟩

theorem observesGranules_follows (c : Ctx) (gs : List Nat) (wi : Nat) (act : LaneMask) :
    Follows c { c with t := c.t.observesGranules gs wi act } := by
  obtain ⟨hid, hwarps⟩ := foldl_team_same (f := fun t g => t.observes (.granule g) wi act) (fun _ _ => ⟨rfl, rfl⟩) gs c.t
  exact (Follows.refl c).team' _ hid (congrArg List.length hwarps)

/-- A change of full/empty bits keeps the split in its place, whether it takes effect at once or is held. -/
theorem changeBits_follows (c : Ctx) (act : LaneMask) (wide : Bool) (gs : List Nat) (full : Bool) (ws : List (Nat × Byte × Byte)) :
    Follows c (c.changeBits act wide gs full ws) := by
  unfold Ctx.changeBits
  dsimp only
  split
  · obtain ⟨hid, hwarps⟩ := foldl_team_same (f := fun t g => t.signals (.granule g) c.wi act) (fun _ _ => ⟨rfl, rfl⟩) gs c.t
    exact (Follows.refl c).team' _ hid (congrArg List.length hwarps)
  · exact ((Follows.refl c).state c.s.fresh.2 (fun _ h => h)).team' _ rfl rfl

theorem stfeWrite_follows (c : Ctx) (d : Nat) (ls : List (Nat × List Place)) : Follows c (stfeWrite c d ls) := by
  unfold stfeWrite
  exact Follows.foldl _ (fun _ _ => scrStore_follows ..) ls c

/-- An instruction that ends complete. -/
theorem completes_of_end (h : Issuing s c) (he : exec i s = .next (finishRes c (.done c'))) (k : Follows c c') :
    Completes i s c' (c.p.pc + 4) := by
  obtain ⟨hteam, hwarp, hsplit⟩ := k.facts h
  exact ⟨_, he, k.pc ▸ after_done c c' hteam hwarp hsplit⟩

/-! ## Full/empty words (spec/06 R193) -/

theorem any_granuleFull_false {t : Team} {gs : List Nat} (h : ∀ k ∈ gs, granuleFull t k = false) : gs.any (granuleFull t) = false :=
  List.any_eq_false.mpr fun k hk => by simp [h k hk]

theorem ldfe_traps {g : BitVec 4} {d : BitVec 6} {a : BitVec 7} {x : BitVec 2} (h : Issues s .accessOnly c)
    (hd : destOk c d.toNat false = true) (hb : baseOk c a = true) (hf : lowestFault c (c.act g) a .fullEmpty .r 4 4 L cause) :
    Traps (.ldfe g d a x) s c (trapAddr cause (c.ea a L) L) := by
  have hreg : regOk c d.toNat = true := hd
  refine traps_of h rfl ?_
  simp only [orIllopnd, hreg, hb, Bool.and_self, if_true, lanesOf_ne hf.1, if_false, QueueMemory.checkLanes_lowestFault hf]

theorem stfe_traps {g : BitVec 4} {d : BitVec 6} {a : BitVec 7} {x : BitVec 2} (h : Issues s .accessOnly c)
    (hd : destOk c d.toNat false = true) (hb : baseOk c a = true) (hf : lowestFault c (c.act g) a .fullEmpty .w 4 4 L cause) :
    Traps (.stfe g d a x) s c (trapAddr cause (c.ea a L) L) := by
  have hreg : regOk c d.toNat = true := hd
  refine traps_of h rfl ?_
  simp only [orIllopnd, hreg, hb, Bool.and_self, if_true, lanesOf_ne hf.1, if_false, QueueMemory.checkLanes_lowestFault hf]

/-- LDFE takes its words once the granules it asks to be full are, X bit 1 emptying them. -/
theorem ldfe_completes {g : BitVec 4} {d : BitVec 6} {a : BitVec 7} {x : BitVec 2} (h : Issues s .accessOnly c) (hact : c.act g ≠ 0)
    (hd : destOk c d.toNat false = true) (hb : baseOk c a = true) (hc : checkLanes c (c.act g) a .fullEmpty .r 4 4 = .ok ls es)
    (hheld : c.heldHere (granulesOf ls) = false)
    (hfull : bitOf x 0 = true → readsOwed c.s c.t c.wi (c.act g) = false ∧ ∀ k ∈ granulesOf ls, granuleFull c.t k = true) :
    Completes (.ldfe g d a x) s (let e := c.acceptLoad 0 (ls.flatMap (fun y => regWrites d.toNat 4 y.1 (readElem c.s c.t y.2)))
      let c' := if bitOf x 0 then { e with t := e.t.observesGranules (granulesOf ls) e.wi (c.act g) } else e
      if bitOf x 1 then { c' with t := c'.t.setGranules (granulesOf ls) false } else c') (c.p.pc + 4) := by
  have hreg : regOk c d.toNat = true := hd
  have hwait : (bitOf x 0 && !(granulesOf ls).all (granuleFull c.t)) = false ∧
      (bitOf x 0 && readsOwed c.s c.t c.wi (c.act g)) = false := by
    cases hx : bitOf x 0 with
    | false => exact ⟨rfl, rfl⟩
    | true => simp [List.all_eq_true.mpr (hfull hx).2, (hfull hx).1]
  refine completes_of h rfl ?_ ((acceptLoad_follows ..).trans
    ((follows_ite (observesGranules_follows ..) (.refl _)).trans (follows_ite (setGranules_follows ..) (.refl _))))
  simp only [orIllopnd, hreg, hb, Bool.and_self, if_true, hact, if_false, hc, hheld, hwait.1, hwait.2, Bool.false_eq_true]

/-- How an STFE ends whose lanes pass the checks and name no granule that its warp has still to change. -/
def stfeEnd (c : Ctx) (act : LaneMask) (d : Nat) (x : BitVec 2) (ls : List (Nat × List Place)) : Res :=
  let full := (granulesOf ls).any (granuleFull c.t)
  let set := (c.changeBits act true (granulesOf ls) true (ls.flatMap (stfeWord c d))).scrFence act (granulesOf ls).contains
  if x != 0 && !full && (granulesOf ls).any c.t.filling then .stall
  else match x.toNat with
    | 0 => .done (stfeWrite c d ls)
    | 1 => if full then .block c 3 else .done set
    | 2 => if full then .block c 3 else .done (stfeWrite c d ls)
    | _ => if full then .done (c.withW (c.w.setP 6 act (fun _ => false)))
           else .done (set.withW (set.w.setP 6 act (fun _ => true)))

theorem exec_stfe {g : BitVec 4} {d : BitVec 6} {a : BitVec 7} {x : BitVec 2} (h : Issues s .accessOnly c) (hact : c.act g ≠ 0)
    (hd : destOk c d.toNat false = true) (hb : baseOk c a = true) (hc : checkLanes c (c.act g) a .fullEmpty .w 4 4 = .ok ls es)
    (hheld : c.heldHere (granulesOf ls) = false) :
    exec (.stfe g d a x) s = .next (finishRes c (stfeEnd c (c.act g) d.toNat x ls)) := by
  have hreg : regOk c d.toNat = true := hd
  refine (issue_of h _).trans (congrArg (fun r => Host.Outcome.next (finishRes c r)) ?_)
  simp only [orIllopnd, hreg, hb, Bool.and_self, if_true, hact, if_false, hc, hheld, Bool.false_or]
  rfl

section StfeEnd
variable {d : Nat} {x : BitVec 2}

/-- A plain STFE writes its words whatever the bits are. -/
theorem stfeEnd_plain : stfeEnd c act d 0 ls = .done (stfeWrite c d ls) := rfl

/-- A granule of an STFE that tests the bit is full: X = 1 and 2 wait, X = 3 answers false in p6. -/
theorem stfeEnd_full (hfull : ∃ k ∈ granulesOf ls, granuleFull c.t k = true) :
    ((x = 1 ∨ x = 2) → stfeEnd c act d x ls = .block c 3) ∧
    (x = 3 → stfeEnd c act d x ls = .done (c.withW (c.w.setP 6 act (fun _ => false)))) := by
  have hany : (granulesOf ls).any (granuleFull c.t) = true := List.any_eq_true.mpr hfull
  refine ⟨?_, ?_⟩
  · rintro (rfl | rfl) <;> simp [stfeEnd, hany]
  · rintro rfl
    simp [stfeEnd, hany]

/-- All granules of an STFE that tests the bit are empty, one of them about to be set full by another warp. -/
theorem stfeEnd_filling (hx : x ≠ 0) (hempty : ∀ k ∈ granulesOf ls, granuleFull c.t k = false)
    (hfill : ∃ k ∈ granulesOf ls, c.t.filling k = true) : stfeEnd c act d x ls = .stall := by
  have hany : (granulesOf ls).any c.t.filling = true := List.any_eq_true.mpr hfill
  rw [stfeEnd, if_pos]
  rw [any_granuleFull_false hempty, hany, bne_iff_ne.mpr hx]
  rfl

/-- All granules of an STFE are empty and none is about to be set full. -/
theorem stfeEnd_empty (hempty : ∀ k ∈ granulesOf ls, granuleFull c.t k = false ∧ c.t.filling k = false) :
    let set := (c.changeBits act true (granulesOf ls) true (ls.flatMap (stfeWord c d))).scrFence act (granulesOf ls).contains
    (x = 1 → stfeEnd c act d x ls = .done set) ∧ (x = 2 → stfeEnd c act d x ls = .done (stfeWrite c d ls)) ∧
    (x = 3 → stfeEnd c act d x ls = .done (set.withW (set.w.setP 6 act (fun _ => true)))) := by
  have hfull := any_granuleFull_false fun k hk => (hempty k hk).1
  have hfill : (granulesOf ls).any c.t.filling = false := List.any_eq_false.mpr fun k hk => by simp [(hempty k hk).2]
  refine ⟨?_, ?_, ?_⟩ <;> rintro rfl <;> simp [stfeEnd, hfull, hfill]

end StfeEnd

/-! ## Cache and order (spec/06 R194 to R198) -/

/-- PREF changes nothing, whatever its guard leaves. -/
theorem pref_completes {g : BitVec 4} {a : BitVec 7} {k : BitVec 2} (h : Issues s .accessOnly c) (hb : baseOk c a = true) :
    Completes (.pref g a k) s c (c.p.pc + 4) := by
  refine completes_of h rfl ?_ (.refl c)
  simp only [orIllopnd, hb, if_true, ite_self]

/-- An acquire fence whose lanes owe no read completes. -/
theorem fence_acquire_completes {g : BitVec 4} {k : BitVec 3} (h : Issues s .accessOnly c) (hk : k.toNat ≤ 5)
    (hr : c.act g = 0 ∨ rereads c.t c.wi (c.act g) c.s.nextId = false ∧ readsOwed c.s c.t c.wi (c.act g) = false) :
    Completes (.fence g 1 k) s (c.acquires (c.act g)) (c.p.pc + 4) := by
  refine completes_of h rfl ?_ (acquires_follows ..)
  have hready : (c.act g != 0 && (rereads c.t c.wi (c.act g) c.s.nextId || readsOwed c.s c.t c.wi (c.act g))) = false := by
    rcases hr with hr | ⟨hrereads, howed⟩
    · simp [hr]
    · simp [hrereads, howed]
  simp only [orIllop, scopeOk, hk, decide_true, if_true, afterAllReads, hready, Bool.false_eq_true, if_false]

/-- A fence with a release part completes once its release is ready. -/
theorem fence_release_completes {g : BitVec 4} {o : BitVec 2} {k : BitVec 3} (h : Issues s .accessOnly c) (hk : k.toNat ≤ 5)
    (ho : o ≠ 1) (hr : releaseReady c (c.act g) k.toNat = true) :
    Completes (.fence g o k) s (if o = 2 then c.releases (c.act g) else (c.releases (c.act g)).acquires (c.act g)) (c.p.pc + 4) := by
  refine completes_of h rfl ?_
    (follows_ite (releases_follows ..) ((releases_follows c (c.act g)).trans (acquires_follows ..)))
  simp only [orIllop, scopeOk, hk, decide_true, if_true, ho, if_false, afterRelease, hr]

theorem stream_completes {g n : BitVec 4} (h : Issues s .accessOnly c) :
    Completes (.stream g n) s (if c.act g = 0 then c else c.withW { c.w with streamId := n }) (c.p.pc + 4) :=
  completes_of h rfl rfl (follows_ite (.refl c) ((Follows.refl c).warp _ rfl))

section Ranges
variable {g : BitVec 4} {d : BitVec 6} {a : BitVec 7} {k : BitVec 3} {p : BitVec 2} {l : List PRange} {need : Need} {va len : Nat}

/-- DISCARD whose lanes pass drops their ranges at L1, and at scope 3 at L2. -/
theorem exec_discard (h : Issues s .accessOnly c) (ha : c.act g ≠ 0) (hd : destOk c d.toNat false = true) (hb : baseOk c a = true)
    (hk : k = 1 ∨ k = 3) (hl : checkRanges c (c.act g) a d.toNat .w = .inr l) :
    exec (.discard g d a k) s = .next (finishRes c (.gone (if k = 3 then discardL2 (discardL1 c.advance.commit c.t.core l) l
      else discardL1 c.advance.commit c.t.core l))) := by
  have hreg : regOk c d.toNat = true := hd
  have hk' : (k == 1 || k == 3) = true := by simpa using hk
  refine (issue_of h _).trans (congrArg (fun r => Host.Outcome.next (finishRes c r)) ?_)
  simp only [orIllop, hk', orIllopnd, hreg, hb, Bool.and_self, if_true, ha, if_false, hl]

/-- DISCARD traps in the lowest lane whose range meets a fault. -/
theorem discard_traps (h : Issues s .accessOnly c) (hd : destOk c d.toNat false = true) (hb : baseOk c a = true)
    (hk : k = 1 ∨ k = 3) (hL : L ∈ lanesOf (c.act g)) (hf : rangeCheck c .w (c.ea a L) (c.w.v d.toNat L).toNat = .fault cause)
    (hl : ∀ J ∈ lanesOf (c.act g), J < L → ∀ x, rangeCheck c .w (c.ea a J) (c.w.v d.toNat J).toNat ≠ .fault x) :
    Traps (.discard g d a k) s c (trapAddr cause (c.ea a L) L) := by
  have hreg : regOk c d.toNat = true := hd
  have hk' : (k == 1 || k == 3) = true := by simpa using hk
  refine traps_of h rfl ?_
  simp only [orIllop, hk', orIllopnd, hreg, hb, Bool.and_self, if_true, lanesOf_ne hL, if_false, checkRanges_lowest hL hf hl]

/-- WBACK's checks of its scope and its cache policy. -/
theorem wback_fields (hk : 1 ≤ k.toNat) (hk' : k.toNat ≤ 5) (hp : p = 0 ∨ p = 3) :
    (decide (1 ≤ k.toNat ∧ k.toNat ≤ 5) && (p == 0 || p == 3)) = true := by
  simpa [hk, hk'] using hp

/-- WBACK at core scope changes nothing. -/
theorem wback_core_completes (h : Issues s .accessOnly c) (ha : c.act g ≠ 0) (hd : destOk c d.toNat false = true)
    (hb : baseOk c a = true) (hp : p = 0 ∨ p = 3) (hl : checkRanges c (c.act g) a d.toNat .r = .inr l) :
    Completes (.wback g d a 1 p) s c (c.p.pc + 4) := by
  have hreg : regOk c d.toNat = true := hd
  refine completes_of h rfl ?_ (.refl c)
  simp only [orIllop, wback_fields (k := 1) (by decide) (by decide) hp, orIllopnd, hreg, hb, Bool.and_self, if_true, ha, if_false, hl]

/-- WBACK performs the core's stores to its ranges, and beyond the die writes L2's bytes back. -/
theorem exec_wback (h : Issues s .accessOnly c) (ha : c.act g ≠ 0) (hd : destOk c d.toNat false = true) (hb : baseOk c a = true)
    (hp : p = 0 ∨ p = 3) (hl : checkRanges c (c.act g) a d.toNat .r = .inr l) (hk : 2 ≤ k.toNat) (hk' : k.toNat ≤ 5)
    (hst : ∀ st ∈ rangeStores c.s c.t.core l, st.stream = none) :
    let done := (rangeStores c.s c.t.core l).foldl (fun s st => performStore s c.t.core st) c.advance.commit
    exec (.wback g d a k p) s = .next (finishRes c (.gone (if k.toNat ≤ 3 then done
      else (done.die.l2.filter (fun x => inRanges l (x.1 / 2 ^ 40) (x.1 % 2 ^ 40))).foldl
        (fun s x => writeBackByte s (x.1 / 2 ^ 40) (x.1 % 2 ^ 40)) done))) := by
  have hreg : regOk c d.toNat = true := hd
  have hne : k ≠ 1 := by rintro rfl; exact absurd hk (by decide)
  have hplain : (rangeStores c.s c.t.core l).any (fun st => st.stream.isSome) = false :=
    List.any_eq_false.mpr fun st hmem => by simp [hst st hmem]
  refine (issue_of h _).trans (congrArg (fun r => Host.Outcome.next (finishRes c r)) ?_)
  simp only [orIllop, wback_fields (by omega) hk' hp, orIllopnd, hreg, hb, Bool.and_self, if_true, ha, if_false, hl, hne, hplain,
    Bool.false_eq_true]

/-- WBACK traps in the lowest lane whose range meets a fault. -/
theorem wback_traps (h : Issues s .accessOnly c) (hd : destOk c d.toNat false = true) (hb : baseOk c a = true)
    (hk : 1 ≤ k.toNat) (hk' : k.toNat ≤ 5) (hp : p = 0 ∨ p = 3) (hL : L ∈ lanesOf (c.act g))
    (hf : rangeCheck c .r (c.ea a L) (c.w.v d.toNat L).toNat = .fault cause)
    (hl : ∀ J ∈ lanesOf (c.act g), J < L → ∀ x, rangeCheck c .r (c.ea a J) (c.w.v d.toNat J).toNat ≠ .fault x) :
    Traps (.wback g d a k p) s c (trapAddr cause (c.ea a L) L) := by
  have hreg : regOk c d.toNat = true := hd
  refine traps_of h rfl ?_
  simp only [orIllop, wback_fields hk hk' hp, orIllopnd, hreg, hb, Bool.and_self, if_true, lanesOf_ne hL, if_false,
    checkRanges_lowest hL hf hl]

/-- A range within one page is one piece. -/
theorem pagePieces_onePage {n : Nat} (hlen : len ≠ 0) (hpage : va % 0x10000 + len ≤ 0x10000) :
    pagePieces (n + 1) va len = [(va, len)] := by
  have hmin : min len (0x10000 - va % 0x10000) = len := by omega
  rw [pagePieces, if_neg hlen]
  dsimp only
  rw [hmin, Nat.sub_self]
  cases n <;> rfl

/-- A range of some bytes meets a fault (R188, R189, R195): alignment or length, the aperture, or its one page. -/
def bytesFault (c : Ctx) (need : Need) (va len : Nat) (cause : BitVec 8) : Prop :=
  len ≠ 0 ∧
    ((va % 32 ≠ 0 ∨ len % 32 ≠ 0 ∨ 0x100000 < len) ∧ cause = causeALIGN ∨
     va % 32 = 0 ∧ len % 32 = 0 ∧ len ≤ 0x100000 ∧
      ((apertureOf va = .outside ∨ apertureOf va = .global ∧ globalTop < va + len) ∧ cause = causePROT ∨
       apertureOf va = .global ∧ va + len ≤ globalTop ∧ va % 0x10000 + len ≤ 0x10000 ∧ pageFault c need va cause))

/-- The check of a range answers the fault it meets. -/
theorem rangeCheck_bytesFault (h : bytesFault c need va len cause) : rangeCheck c need va len = .fault cause := by
  obtain ⟨hlen, h⟩ := h
  rw [rangeCheck, if_neg hlen]
  rcases h with ⟨hbad, rfl⟩ | ⟨hva, hmul, hmax, h⟩
  · exact if_pos hbad
  · rw [if_neg (by omega)]
    rcases h with ⟨hout | ⟨hglobal, htop⟩, rfl⟩ | ⟨hglobal, htop, hpage, hf⟩
    · rw [hout]
    · rw [hglobal]
      exact if_pos htop
    · rw [hglobal]
      dsimp only
      rw [if_neg (by omega), pagePieces_onePage hlen hpage]
      simp only [List.foldl_cons, List.foldl_nil, QueueMemory.translate_pageFault hf]

end Ranges

/-- Reading operands keeps the split in its place and its warp as it is. -/
theorem reads_follows {roles : Roles} {g : BitVec 4} {ops : List Opnd} {vs : List (Nat → DWord)} (h : Reads s roles c g ops c' vs) :
    Follows c c' := (readOps_follows h.2.2).1

theorem reads_warp {roles : Roles} {g : BitVec 4} {ops : List Opnd} {vs : List (Nat → DWord)} (h : Reads s roles c g ops c' vs) :
    c'.w = c.w := (readOps_follows h.2.2).2.1

/-! ## Slots (spec/05 R166, R167, spec/06 R182, R183) -/

/-- What the lowest lane of a property is answered with, the lower ones answering nothing. -/
theorem findSome?_lane {β : Type} {g : Nat → Option β} {b : β} (hL : L ∈ lanesOf act) (h : g L = some b)
    (hl : ∀ J ∈ lanesOf act, J < L → g J = none) : (lanesOf act).findSome? g = some b := by
  have hfirst := findSome_lowest (lanesOf act) id (fun x => g x.1) L b (lanesOf_sorted act) hL h hl
  rwa [List.findSome?_map] at hfirst

/-- The lowest lane of a property is the first that a test for it finds. -/
theorem find?_lowest {p : Nat → Prop} {q : Nat → Bool} (hq : ∀ J, q J = true ↔ p J) (h : lowest (lanesOf act) p L) :
    (lanesOf act).find? q = some L := by
  obtain ⟨hL, hp, hl⟩ := h
  rw [← List.findSome?_guard]
  exact findSome?_lane hL (by simp [Option.guard, (hq L).mpr hp])
    fun J hJ hlt => by simpa [Option.guard, hq] using hl J hJ hlt

section Handles
variable {t : Team} {h b : Word} {r : Ring}

/-- The first three cases of R167 refuse a handle. -/
theorem handleOk_fault (hf : handleFault t h) : handleOk t h = none := by
  unfold handleOk
  rcases hf with hr | ⟨r, hr, hbad⟩
  · rw [hr]
  · rw [hr]
    exact if_neg fun ⟨hslot, hlow⟩ => hbad.elim (fun hc => by omega) fun hne => hne hlow

/-- A handle that they do not refuse names its ring. -/
theorem handleOk_ring (hr : t.ring? (handleRing h) = some r) (hf : ¬handleFault t h) : handleOk t h = some r := by
  unfold handleOk
  rw [hr]
  refine if_pos (Classical.byContradiction fun hbad => hf (.inr ⟨r, hr, ?_⟩))
  rcases Decidable.not_and_iff_not_or_not.mp hbad with hslot | hlow
  · exact .inl (Nat.not_lt.mp hslot)
  · exact .inr hlow

/-- A handle names no ring, or one without a fault. -/
theorem handleFault_or_ring (t : Team) (h : Word) :
    handleFault t h ∨ ∃ r, t.ring? (handleRing h) = some r ∧ ¬handleFault t h := by
  by_cases hf : handleFault t h
  · exact .inl hf
  · cases hr : t.ring? (handleRing h) with
    | none => exact .inl (.inl hr)
    | some r => exact .inr ⟨r, rfl, hf⟩

/-- A range is refused exactly for its handle or because it leaves the slot (R182). -/
theorem granuleRange_isNone : (granuleRange t h b).isNone = true ↔ handleFault t h ∨ rangeFault t h b := by
  unfold granuleRange
  rcases handleFault_or_ring t h with hf | ⟨r, hr, hf⟩
  · simp [handleOk_fault hf, hf]
  · rw [handleOk_ring hr hf]
    have hrange : rangeFault t h b ↔
        r.slotSize / 16 < bitsOf b 16 16 + (if bitsOf b 0 16 = 0 then r.slotSize / 16 - bitsOf b 16 16 else bitsOf b 0 16) := by
      constructor
      · rintro ⟨r', hr', -, hlt⟩
        cases hr.symm.trans hr'
        exact hlt
      · exact fun hlt => ⟨r, hr, hf, hlt⟩
    rw [hrange]
    dsimp only
    split <;> simp_all

/-- The check of a word answers the first cause that R183 gives. -/
theorem wordCheck_fault : wordCheck t h b = .inl cause ↔ wordFault t h b cause := by
  unfold wordCheck wordFault
  rcases handleFault_or_ring t h with hf | ⟨r, hr, hf⟩
  · simp [handleOk_fault hf, hf, eq_comm]
  · rw [handleOk_ring hr hf]
    have hsize : (∃ r', t.ring? (handleRing h) = some r' ∧ ¬handleFault t h ∧ bitsOf b 0 2 = 0 ∧ r'.slotSize < b.toNat + 4 ∧
        cause = causeRINGBND) ↔ bitsOf b 0 2 = 0 ∧ r.slotSize < b.toNat + 4 ∧ cause = causeRINGBND := by
      simp [hr, hf]
    rw [hsize]
    dsimp only
    by_cases hal : bitsOf b 0 2 = 0
    · by_cases hsz : r.slotSize < b.toNat + 4
      · simp [hf, hal, hsz, eq_comm]
      · simp [hf, hal, hsz]
    · simp [hf, hal, eq_comm]

end Handles

section Granules
variable {f : FmtAB} {vs : List (Nat → DWord)} {body : Ctx → Ctx → List (Nat × Word × Nat × Nat) → Res}
  (h : Reads s .both c f.g [op32 .int f.a, op32 .int f.b] c' vs)
include h

/-- RWAIT, RREL and RSET act on the ranges of their lanes once none is refused. -/
theorem exec_granuleForm (he : exec i s = granuleForm s f body) (hact : c.act f.g ≠ 0)
    (hok : ∀ L ∈ lanesOf (c.act f.g), (granuleRange c.t (loWord (val vs 0 L)) (loWord (val vs 1 L))).isSome = true) :
    exec i s = .next (finishRes c (body c c' (ranges c (c.act f.g) vs))) := by
  obtain ⟨hi, ho, hr⟩ := h
  have hnone : (lanesOf (c.act f.g)).find? (fun L => (granuleRange c.t (loWord (val vs 0 L)) (loWord (val vs 1 L))).isNone) = none :=
    List.find?_eq_none.mpr fun L hL => by simpa [← Option.isSome_iff_ne_none] using hok L hL
  refine he.trans ((issue_of hi _).trans (congrArg (fun r => Host.Outcome.next (finishRes c r)) ?_))
  simp only [orIllopnd, opsAll ho, if_true, hact, if_false, hr, hnone]
  rfl

/-- They trap in the lowest lane whose handle or range is refused. -/
theorem granuleForm_traps (he : exec i s = granuleForm s f body)
    (hl : lowest (lanesOf (c.act f.g)) (fun J => handleFault c.t (loWord (val vs 0 J)) ∨
      rangeFault c.t (loWord (val vs 0 J)) (loWord (val vs 1 J))) L) :
    Traps i s c { cause := causeRINGBND, lane := L, lo := loWord (val vs 0 L)
                  hi := BitVec.ofNat 32 (16 * bitsOf (loWord (val vs 1 L)) 16 16) } := by
  obtain ⟨hi, ho, hr⟩ := h
  have hfind := find?_lowest
    (q := fun L => (granuleRange c.t (loWord (val vs 0 L)) (loWord (val vs 1 L))).isNone) (fun _ => granuleRange_isNone) hl
  refine traps_of hi (he.trans rfl) (body := _) ?_
  simp only [orIllopnd, opsAll ho, if_true, lanesOf_ne hl.1, if_false, hr, hfind]
  rfl

end Granules

/-- A filterMap that drops no element is a map. -/
theorem filterMap_eq_map_of {α β : Type} {f : α → Option β} {g : α → β} {l : List α} (h : ∀ x ∈ l, f x = some (g x)) :
    l.filterMap f = l.map g := by
  induction l with
  | nil => rfl
  | cons x r ih =>
    obtain ⟨hx, hr⟩ := List.forall_mem_cons.mp h
    rw [List.filterMap_cons_some hx, ih hr, List.map_cons]

/-- Ranges that no check refuses, lane by lane. -/
theorem ranges_eq_map {vs : List (Nat → DWord)}
    (hok : ∀ L ∈ lanesOf act, (granuleRange c.t (loWord (val vs 0 L)) (loWord (val vs 1 L))).isSome = true) :
    ranges c act vs = (lanesOf act).map (fun L =>
      (L, loWord (val vs 0 L), (granuleRange c.t (loWord (val vs 0 L)) (loWord (val vs 1 L))).getD (0, 0))) := by
  refine filterMap_eq_map_of fun L hL => ?_
  obtain ⟨r, hr⟩ := Option.isSome_iff_exists.mp (hok L hL)
  rw [hr]
  rfl

/-- The place of a word, zero where its check refuses it. -/
def wordOff (t : Team) (h b : Word) : Nat := (wordCheck t h b).elim (fun _ => 0) id

/-- The checks of words that all pass, lane by lane. -/
theorem wordChecks_passed {vs : List (Nat → DWord)}
    (hok : ∀ L ∈ lanesOf act, ∃ off, wordCheck c.t (loWord (val vs 0 L)) (loWord (val vs 1 L)) = .inr off) :
    (lanesOf act).map (fun L => (L, wordCheck c.t (loWord (val vs 0 L)) (loWord (val vs 1 L)))) =
      ((lanesOf act).map (fun L => (L, wordOff c.t (loWord (val vs 0 L)) (loWord (val vs 1 L))))).map (fun x => (x.1, Sum.inr x.2)) := by
  rw [List.map_map]
  refine List.map_congr_left fun L hL => ?_
  obtain ⟨off, hoff⟩ := hok L hL
  simp [wordOff, hoff]

/-- Words that no check refuses, lane by lane. -/
theorem words_eq_map {vs : List (Nat → DWord)}
    (hok : ∀ L ∈ lanesOf act, ∃ off, wordCheck c.t (loWord (val vs 0 L)) (loWord (val vs 1 L)) = .inr off) :
    words c act vs = (lanesOf act).map (fun L =>
      (L, loWord (val vs 0 L), wordOff c.t (loWord (val vs 0 L)) (loWord (val vs 1 L)))) := by
  rw [words, (passed_of _ _ (wordChecks_passed hok)).2, List.map_map]
  rfl

/-- The lowest lane whose slot is poisoned, among lanes that each carry their handle. -/
theorem poisonedSlot_lowest {β : Type} {u : State} {t : Team} {hd : Nat → Word} {g : Nat → β} {p : SlotPoison}
    (hl : lowest (lanesOf act) (fun J => (slotPoisonOf u t (hd J)).isSome) L) (hp : slotPoisonOf u t (hd L) = some p) :
    ((lanesOf act).map (fun J => (J, hd J, g J))).findSome? (fun x => (slotPoisonOf u t x.2.1).map (fun p => (x.1, p))) =
      some (L, p) := by
  obtain ⟨hL, -, hlow⟩ := hl
  rw [List.findSome?_map]
  exact findSome?_lane hL (by simp [hp]) fun J hJ hlt => by simpa using hlow J hJ hlt

/-- No slot is poisoned. -/
theorem poisonedSlot_none {β : Type} {u : State} {t : Team} {l : List (Nat × Word × β)} (h : ∀ x ∈ l, slotPoisonOf u t x.2.1 = none) :
    l.findSome? (fun x => (slotPoisonOf u t x.2.1).map (fun p => (x.1, p))) = none :=
  List.findSome?_eq_none_iff.mpr fun x hx => by simp [h x hx]

section Words
variable {f : FmtA} {vs : List (Nat → DWord)} {body : Ctx → Ctx → List (Nat × Word × Nat) → Res}
  (hd : destOk c f.d.toNat false = true) (h : Reads s .both c f.g [op32 .int f.a, op32 .int f.b] c' vs)
include hd h

/-- LDR and STR act on the words of their lanes once none is refused and none has still to be written by their warp. -/
theorem exec_wordForm (he : exec i s = wordForm s f body) (hact : c.act f.g ≠ 0)
    (hok : ∀ L ∈ lanesOf (c.act f.g), ∃ off, wordCheck c.t (loWord (val vs 0 L)) (loWord (val vs 1 L)) = .inr off)
    (hheld : ∀ x ∈ words c (c.act f.g) vs, c.wordsHeld (x.2.2 / 16) = false) :
    exec i s = .next (finishRes c (body c c' (words c (c.act f.g) vs))) := by
  obtain ⟨hi, ho, hr⟩ := h
  have hreg : regOk c f.d.toNat = true := hd
  obtain ⟨hnone, hpassed⟩ := passed_of _ _ (wordChecks_passed hok)
  refine he.trans ((issue_of hi _).trans (congrArg (fun r => Host.Outcome.next (finishRes c r)) ?_))
  simp only [orIllopnd, hreg, opsAll ho, Bool.and_self, if_true, hact, if_false, hr, hnone]
  rw [if_neg, words]
  rw [wordChecks_passed hok, List.any_map, List.any_eq_true]
  rintro ⟨x, hx, hbad⟩
  have hfree := hheld (x.1, loWord (val vs 0 x.1), x.2) (by
    rw [words, hpassed]
    exact List.mem_map_of_mem hx)
  exact Bool.false_ne_true (hfree.symm.trans hbad)

/-- They trap in the lowest lane whose word is refused. -/
theorem wordForm_traps (he : exec i s = wordForm s f body)
    (hl : lowest (lanesOf (c.act f.g)) (fun J => ∃ k, wordFault c.t (loWord (val vs 0 J)) (loWord (val vs 1 J)) k) L)
    (hf : wordFault c.t (loWord (val vs 0 L)) (loWord (val vs 1 L)) cause) :
    Traps i s c { cause := cause, lane := L, lo := loWord (val vs 0 L), hi := loWord (val vs 1 L) } := by
  obtain ⟨hi, ho, hr⟩ := h
  have hreg : regOk c f.d.toNat = true := hd
  obtain ⟨hL, -, hlow⟩ := hl
  have hfirst := firstCause_lowest (fun L => wordCheck c.t (loWord (val vs 0 L)) (loWord (val vs 1 L))) hL
    (wordCheck_fault.mpr hf) fun J hJ hlt k hk => hlow J hJ hlt ⟨k, wordCheck_fault.mp hk⟩
  refine traps_of hi (he.trans rfl) (body := _) ?_
  simp only [orIllopnd, hreg, opsAll ho, Bool.and_self, if_true, lanesOf_ne hL, if_false, hr, hfirst]
  rfl

end Words

section Slots
variable {vs : List (Nat → DWord)}

/-- RWAIT completes once its granules are full and no slot of its lanes is poisoned. -/
theorem rwait_completes {f : FmtAB} (h : Reads s .both c f.g [op32 .int f.a, op32 .int f.b] c' vs) (hact : c.act f.g ≠ 0)
    (hok : ∀ L ∈ lanesOf (c.act f.g), (granuleRange c.t (loWord (val vs 0 L)) (loWord (val vs 1 L))).isSome = true)
    (hfull : ∀ x ∈ ranges c (c.act f.g) vs, slotPoisonOf c'.s c'.t x.2.1 = none ∧ rangeFull c'.t x.2.2.1 x.2.2.2 = true)
    (hreads : readsOwed c.s c.t c.wi (c.act f.g) = false) :
    Completes (.rwait f) s { c' with
      t := c'.t.observesGranules (dedup ((ranges c (c.act f.g) vs).flatMap (fun x => rangeList x.2.2.1 x.2.2.2))) c'.wi (c.act f.g) }
      (c.p.pc + 4) := by
  have hall : (ranges c (c.act f.g) vs).all (fun x => rangeFull c'.t x.2.2.1 x.2.2.2) = true :=
    List.all_eq_true.mpr fun x hx => (hfull x hx).2
  refine completes_of_end h.1.1 ((exec_granuleForm (i := .rwait f) h (execRwait.eq_def f s) hact hok).trans ?_)
    ((reads_follows h).trans (observesGranules_follows ..))
  simp only [poisonedSlot_none fun x hx => (hfull x hx).1, hall, if_true, afterReads, hreads, Bool.false_eq_true, if_false]

/-- RWAIT traps in the lowest lane whose slot is poisoned (R238). -/
theorem rwait_poisoned {f : FmtAB} {p : SlotPoison} (h : Reads s .both c f.g [op32 .int f.a, op32 .int f.b] c' vs)
    (hok : ∀ L ∈ lanesOf (c.act f.g), (granuleRange c.t (loWord (val vs 0 L)) (loWord (val vs 1 L))).isSome = true)
    (hl : lowest (lanesOf (c.act f.g)) (fun J => (slotPoisonOf c'.s c'.t (loWord (val vs 0 J))).isSome) L)
    (hp : slotPoisonOf c'.s c'.t (loWord (val vs 0 L)) = some p) :
    Traps (.rwait f) s c (trapAddr causeSLOTPOISON p.va.toNat L) := by
  refine (exec_granuleForm (i := .rwait f) h (execRwait.eq_def f s) (lanesOf_ne hl.1) hok).trans ?_
  simp only [ranges_eq_map hok, poisonedSlot_lowest hl hp]
  rfl

/-- RREL and RSET complete whatever the bits were. -/
theorem setForm_completes {f : FmtAB} {full : Bool} (he : exec i s = setForm s f full)
    (h : Reads s .both c f.g [op32 .int f.a, op32 .int f.b] c' vs) (hact : c.act f.g ≠ 0)
    (hok : ∀ L ∈ lanesOf (c.act f.g), (granuleRange c.t (loWord (val vs 0 L)) (loWord (val vs 1 L))).isSome = true) :
    Completes i s (let rs := ranges c (c.act f.g) vs
      let e := (clearSlotPoison c' rs).scrFence (c.act f.g) (fun g => rs.any (fun x => decide (x.2.2.1 ≤ g ∧ g < x.2.2.2)))
      e.changeBits (c.act f.g) false (dedup (rs.flatMap (fun x => rangeList x.2.2.1 x.2.2.2))) full []) (c.p.pc + 4) :=
  completes_of_end h.1.1 (exec_granuleForm h he hact hok)
    ((reads_follows h).trans (((clearSlotPoison_follows ..).trans (scrFence_follows ..)).trans (changeBits_follows ..)))

/-- LDR traps in the lowest lane whose slot is poisoned (R238). -/
theorem ldr_poisoned {f : FmtA} {p : SlotPoison} (hd : destOk c f.d.toNat false = true)
    (h : Reads s .both c f.g [op32 .int f.a, op32 .int f.b] c' vs)
    (hok : ∀ L ∈ lanesOf (c.act f.g), ∃ off, wordCheck c.t (loWord (val vs 0 L)) (loWord (val vs 1 L)) = .inr off)
    (hheld : ∀ x ∈ words c (c.act f.g) vs, c.wordsHeld (x.2.2 / 16) = false)
    (hl : lowest (lanesOf (c.act f.g)) (fun J => (slotPoisonOf c'.s c'.t (loWord (val vs 0 J))).isSome) L)
    (hp : slotPoisonOf c'.s c'.t (loWord (val vs 0 L)) = some p) :
    Traps (.ldr f) s c (trapAddr causeSLOTPOISON p.va.toNat L) := by
  refine (exec_wordForm (i := .ldr f) hd h (execLdr.eq_def f s) (lanesOf_ne hl.1) hok hheld).trans ?_
  simp only [words_eq_map hok, poisonedSlot_lowest hl hp]
  rfl

/-- The warp of an LDR with its words in D. -/
def ldrTaken (w : Warp) (t : Team) (d : Nat) (ws : List (Nat × Word × Nat)) : Warp :=
  w.setV d (maskOf (fun L => ws.any (fun x => x.1 == L))) (fun L =>
    match ws.find? (fun x => x.1 == L) with
    | some x => BitVec.ofNat 32 (leNat (t.scr.bytes.read x.2.2 4))
    | none => 0)

theorem ldr_completes {f : FmtA} (hd : destOk c f.d.toNat false = true)
    (h : Reads s .both c f.g [op32 .int f.a, op32 .int f.b] c' vs) (hact : c.act f.g ≠ 0)
    (hok : ∀ L ∈ lanesOf (c.act f.g), ∃ off, wordCheck c.t (loWord (val vs 0 L)) (loWord (val vs 1 L)) = .inr off)
    (hheld : ∀ x ∈ words c (c.act f.g) vs, c.wordsHeld (x.2.2 / 16) = false)
    (hfull : ∀ x ∈ words c (c.act f.g) vs, slotPoisonOf c'.s c'.t x.2.1 = none ∧ granuleFull c'.t (x.2.2 / 16) = true)
    (hreads : readsOwed c.s c.t c.wi (c.act f.g) = false) :
    Completes (.ldr f) s { c' with
      w := ldrTaken c'.w c'.t f.d.toNat (words c (c.act f.g) vs)
      t := c'.t.observesGranules (dedup ((words c (c.act f.g) vs).map (fun x => x.2.2 / 16))) c'.wi (c.act f.g) } (c.p.pc + 4) := by
  have hall : (words c (c.act f.g) vs).all (fun x => granuleFull c'.t (x.2.2 / 16)) = true :=
    List.all_eq_true.mpr fun x hx => (hfull x hx).2
  refine completes_of_end h.1.1 ((exec_wordForm (i := .ldr f) hd h (execLdr.eq_def f s) hact hok hheld).trans ?_)
    (((reads_follows h).trans (observesGranules_follows ..)).warp _ (setV_table ..))
  simp only [poisonedSlot_none fun x hx => (hfull x hx).1, hall, if_true, afterReads, hreads, Bool.false_eq_true, if_false]
  rfl

/-- A lane of D after an LDR holds its word, or what it held. -/
theorem ldrTaken_v {w : Warp} {t : Team} {d : Nat} (ws : List (Nat × Word × Nat)) (hd : d < w.nregs) (hL : L < 32) :
    (ldrTaken w t d ws).v d L = match ws.find? (fun x => x.1 == L) with
      | some x => BitVec.ofNat 32 (leNat (t.scr.bytes.read x.2.2 4))
      | none => w.v d L := by
  rw [ldrTaken, Warp.v_setV _ _ _ _ _ hd hL, maskOf_bit, decide_eq_true hL, Bool.true_and]
  cases hfind : ws.find? (fun x => x.1 == L) with
  | none =>
    refine if_neg fun hany => ?_
    obtain ⟨x, hx, hlane⟩ := List.any_eq_true.mp hany
    exact List.find?_eq_none.mp hfind x hx hlane
  | some x =>
    exact if_pos (List.any_eq_true.mpr ⟨x, List.mem_of_find?_eq_some hfind, List.find?_some hfind⟩)

/-- STR completes at once, lanes ascending. -/
theorem str_completes {f : FmtA} (hd : destOk c f.d.toNat false = true)
    (h : Reads s .both c f.g [op32 .int f.a, op32 .int f.b] c' vs) (hact : c.act f.g ≠ 0)
    (hok : ∀ L ∈ lanesOf (c.act f.g), ∃ off, wordCheck c.t (loWord (val vs 0 L)) (loWord (val vs 1 L)) = .inr off)
    (hheld : ∀ x ∈ words c (c.act f.g) vs, c.wordsHeld (x.2.2 / 16) = false) :
    Completes (.str f) s ((words c (c.act f.g) vs).foldl (fun c x =>
      c.scrStore x.1 (wholeBytes x.2.2 (leBytes 4 (c.w.v f.d.toNat x.1).toNat))) c') (c.p.pc + 4) :=
  completes_of_end h.1.1 (exec_wordForm (i := .str f) hd h (execStr.eq_def f s) hact hok hheld)
    ((reads_follows h).trans (Follows.foldl _ (fun _ _ => scrStore_follows ..) _ _))

end Slots

/-! ## Where REGROUP places the lanes (spec/06 R201) -/

/-- The elements that takeWhile keeps satisfy the test, the one after them does not. -/
theorem takeWhile_run {α : Type} {p : α → Bool} (l : List α) :
    (∀ j, j < (l.takeWhile p).length → ∃ y, l[j]? = some y ∧ p y = true) ∧
    ∀ y, l[(l.takeWhile p).length]? = some y → p y = false := by
  induction l with
  | nil => simp
  | cons x r ih =>
    by_cases hx : p x = true
    · rw [List.takeWhile_cons_of_pos hx]
      refine ⟨fun j hj => ?_, ih.2⟩
      cases j with
      | zero => exact ⟨x, rfl, hx⟩
      | succ j => exact ih.1 j (by simpa using hj)
    · rw [List.takeWhile_cons_of_neg hx]
      exact ⟨by simp, by simpa using hx⟩

section Places
variable {dest : List PartLane} {a : Nat}

/-- The warp of a destination position. -/
def warpAt (dest : List PartLane) (k : Nat) : Option Nat := (dest[k]?).map PartLane.pos

/-- The position after a at which another key starts: all positions from a up to it are of one warp, and it begins another. -/
theorem nextWarp_spec (ha : a < dest.length) :
    a < nextWarp dest (a + 1) ∧ (∀ k, a ≤ k → k < nextWarp dest (a + 1) → warpAt dest k = warpAt dest a) ∧
    (nextWarp dest (a + 1) < dest.length → warpAt dest (nextWarp dest (a + 1) - 1) ≠ warpAt dest (nextWarp dest (a + 1))) := by
  have hat : warpAt dest a = some (dest[a].pos) := by simp [warpAt, ha]
  have hnext : ∀ k, a ≤ k → k < a + 1 → warpAt dest k = warpAt dest a := fun k hk hk' => congrArg _ (by omega)
  unfold nextWarp
  cases hx : dest[a + 1]? with
  | none => exact ⟨Nat.lt_succ_self a, hnext, fun h => absurd h (Nat.not_lt.mpr (List.getElem?_eq_none_iff.mp hx))⟩
  | some x =>
    have hprev : (dest.getD (a + 1 - 1) x).pos = dest[a].pos := by simp [List.getD, ha]
    have hwarp : warpAt dest (a + 1) = some x.pos := by simp [warpAt, hx]
    dsimp only
    rw [hprev]
    by_cases hsame : dest[a].pos = x.pos
    · rw [if_neg (by simp [hsame])]
      obtain ⟨hrun, hstop⟩ := takeWhile_run (p := fun y : PartLane => y.pos == x.pos) (dest.drop (a + 1))
      generalize ((dest.drop (a + 1)).takeWhile (fun y => y.pos == x.pos)).length = n at hrun hstop
      have hin : ∀ k, a ≤ k → k < a + 1 + n → warpAt dest k = some x.pos := by
        intro k hk hk'
        rcases Nat.eq_or_lt_of_le hk with rfl | hlt
        · rw [hat, hsame]
        · obtain ⟨y, hy, hpos⟩ := hrun (k - (a + 1)) (by omega)
          rw [List.getElem?_drop, Nat.add_sub_cancel' hlt] at hy
          simpa [warpAt, hy] using hpos
      have hend : warpAt dest (a + 1 + n) ≠ some x.pos := by
        intro he
        obtain ⟨y, hy, hpos⟩ := Option.map_eq_some_iff.mp he
        have := hstop y (by rw [List.getElem?_drop]; exact hy)
        simp [hpos] at this
      exact ⟨by omega, fun k hk hk' => by rw [hin k hk hk', hat, hsame],
        fun _ => by rw [hin _ (by omega) (by omega)]; exact hend.symm⟩
    · rw [if_pos (.inr hsame)]
      refine ⟨Nat.lt_succ_self a, hnext, fun _ => ?_⟩
      rw [Nat.add_sub_cancel, hat, hwarp]
      simpa using hsame

/-- The order in which sources are placed: by key, the lower origin first among equal keys. -/
def comesBefore (x y : PartLane) : Prop := x.key.toNat < y.key.toNat ∨ x.key = y.key ∧ x.origin < y.origin

theorem comesBefore_trans {x y z : PartLane} (hxy : comesBefore x y) (hyz : comesBefore y z) : comesBefore x z := by
  unfold comesBefore at *
  rcases hxy with hxy | ⟨hxy, hxo⟩ <;> rcases hyz with hyz | ⟨hyz, hyo⟩
  · exact .inl (Nat.lt_trans hxy hyz)
  · exact .inl (hyz ▸ hxy)
  · exact .inl (hxy ▸ hyz)
  · exact .inr ⟨hxy.trans hyz, Nat.lt_trans hxo hyo⟩

theorem comesBefore.key_le {x y : PartLane} (h : comesBefore x y) : x.key.toNat ≤ y.key.toNat := by
  rcases h with h | ⟨h, -⟩
  · exact Nat.le_of_lt h
  · exact Nat.le_of_eq (congrArg _ h)

/-- The position due to source z when x is the lane placed last. -/
def dueAfter (dest : List PartLane) (x : Nat × PartLane) (z : PartLane) : Nat :=
  if x.2.key = z.key then x.1 + 1 else nextWarp dest (x.1 + 1)

/-- What is placed of the sources r when x is the lane placed last. -/
def placedAfter (dest : List PartLane) (x : Nat × PartLane) (r : List PartLane) : List (Nat × PartLane) :=
  placeKeys dest (x.1 + 1) (some x.2.key) r

variable {x y : Nat × PartLane} {z : PartLane} {r : List PartLane}

theorem placeKeys_past {pos : Nat} {prev : Option Word} (h : dest.length ≤ pos) : placeKeys dest pos prev r = [] := by
  have hnext : nextWarp dest pos = pos := by simp [nextWarp, List.getElem?_eq_none_iff.mpr h]
  induction r generalizing prev with
  | nil => rfl
  | cons z r ih =>
    cases prev with
    | none => simp [placeKeys, Nat.not_lt.mpr h, ih]
    | some k => simp [placeKeys, hnext, Nat.not_lt.mpr h, ih]

theorem placedAfter_cons_placed (h : dueAfter dest x z < dest.length) :
    placedAfter dest x (z :: r) = (dueAfter dest x z, z) :: placedAfter dest (dueAfter dest x z, z) r :=
  if_pos h

theorem placedAfter_cons_past (h : dest.length ≤ dueAfter dest x z) : placedAfter dest x (z :: r) = [] :=
  (if_neg (Nat.not_lt.mpr h)).trans (placeKeys_past h)

theorem lt_dueAfter (hx : x.1 < dest.length) : x.1 < dueAfter dest x z := by
  unfold dueAfter
  split
  · exact Nat.lt_succ_self _
  · exact (nextWarp_spec hx).1

/-- Lanes of one key fill one lane after another, another key starts at the first of its warp, in the warp being filled or the next. -/
def goesOnAt (dest : List PartLane) (x y : Nat × PartLane) : Prop :=
  (x.2.key = y.2.key → y.1 = x.1 + 1) ∧
  (x.2.key ≠ y.2.key → warpAt dest (y.1 - 1) ≠ warpAt dest y.1 ∧ ∀ k, x.1 ≤ k → k < y.1 → warpAt dest k = warpAt dest x.1)

theorem goesOnAt_due (hx : x.1 < dest.length) (h : dueAfter dest x z < dest.length) : goesOnAt dest x (dueAfter dest x z, z) := by
  refine ⟨fun hk => if_pos hk, fun hk => ?_⟩
  obtain ⟨-, hrun, hstop⟩ := nextWarp_spec hx
  have hdue : dueAfter dest x z = nextWarp dest (x.1 + 1) := if_neg hk
  rw [hdue] at h ⊢
  exact ⟨hstop h, hrun⟩

/-- What is placed stands at later positions, in range, and is one of the sources. -/
theorem placedAfter_mem (hx : x.1 < dest.length) (hy : y ∈ placedAfter dest x r) : x.1 < y.1 ∧ y.1 < dest.length ∧ y.2 ∈ r := by
  induction r generalizing x with
  | nil => cases hy
  | cons z r ih =>
    have hlt := lt_dueAfter (z := z) hx
    by_cases h : dueAfter dest x z < dest.length
    · rw [placedAfter_cons_placed h] at hy
      rcases List.mem_cons.mp hy with rfl | hy
      · exact ⟨hlt, h, List.mem_cons_self⟩
      · obtain ⟨hpos, hlen, hmem⟩ := ih (x := (dueAfter dest x z, z)) h hy
        exact ⟨Nat.lt_trans hlt hpos, hlen, List.mem_cons_of_mem z hmem⟩
    · rw [placedAfter_cons_past (Nat.not_lt.mp h)] at hy
      cases hy

/-- The last of rising positions is the highest. -/
theorem le_getLastD_of_rising {l : List (Nat × PartLane)} (h : (x :: l).Pairwise (fun x y => x.1 < y.1)) :
    ∀ y ∈ x :: l, y.1 ≤ (l.getLastD x).1 := by
  induction l generalizing x with
  | nil => simp
  | cons z l ih =>
    obtain ⟨hfirst, hrest⟩ := List.pairwise_cons.mp h
    have hle := ih hrest
    rw [List.getLastD_cons]
    exact List.forall_mem_cons.mpr ⟨Nat.le_trans (Nat.le_of_lt (hfirst z List.mem_cons_self)) (hle z List.mem_cons_self), hle⟩

/-- What is placed rises in position and in the order of the sources. -/
theorem placedAfter_pairwise (hx : x.1 < dest.length) (hr : (x.2 :: r).Pairwise comesBefore) :
    (x :: placedAfter dest x r).Pairwise (fun x y => x.1 < y.1 ∧ comesBefore x.2 y.2) := by
  induction r generalizing x with
  | nil => exact List.pairwise_singleton ..
  | cons z r ih =>
    obtain ⟨hfirst, hrest⟩ := List.pairwise_cons.mp hr
    refine List.pairwise_cons.mpr ⟨fun y hy => ?_, ?_⟩
    · obtain ⟨hpos, -, hmem⟩ := placedAfter_mem hx hy
      exact ⟨hpos, hfirst y.2 hmem⟩
    · by_cases h : dueAfter dest x z < dest.length
      · rw [placedAfter_cons_placed h]
        exact ih (x := (dueAfter dest x z, z)) h hrest
      · rw [placedAfter_cons_past (Nat.not_lt.mp h)]
        exact List.Pairwise.nil

/-- Each lane placed goes on from the one before. -/
theorem placedAfter_goesOn {k : Nat} {v w : Nat × PartLane} (hx : x.1 < dest.length)
    (hv : (x :: placedAfter dest x r)[k]? = some v) (hw : (placedAfter dest x r)[k]? = some w) : goesOnAt dest v w := by
  induction r generalizing x k with
  | nil => cases hw
  | cons z r ih =>
    by_cases h : dueAfter dest x z < dest.length
    · rw [placedAfter_cons_placed h] at hv hw
      cases k with
      | zero =>
        cases hv
        cases hw
        exact goesOnAt_due hx h
      | succ k => exact ih (x := (dueAfter dest x z, z)) h hv hw
    · rw [placedAfter_cons_past (Nat.not_lt.mp h)] at hw
      cases hw

/-- No position is left for source z after x: none at all, or for another key none in another warp. -/
def runsOut (dest : List PartLane) (x : Nat × PartLane) (z : PartLane) : Prop :=
  comesBefore x.2 z ∧ (x.2.key = z.key → x.1 + 1 = dest.length) ∧
  (x.2.key ≠ z.key → ∀ k, x.1 < k → k < dest.length → warpAt dest k = warpAt dest x.1)

/-- When the position due to a source is past the end, none is left for it and for those after it. -/
theorem runsOut_of_due_past {L : PartLane} (hx : x.1 < dest.length) (hr : (x.2 :: z :: r).Pairwise comesBefore)
    (h : dest.length ≤ dueAfter dest x z) (hL : L ∈ z :: r) : runsOut dest x L := by
  obtain ⟨hfirst, hrest⟩ := List.pairwise_cons.mp hr
  have hzL : z.key.toNat ≤ L.key.toNat := by
    rcases List.mem_cons.mp hL with rfl | hL
    · exact Nat.le_refl _
    · exact ((List.pairwise_cons.mp hrest).1 L hL).key_le
  by_cases hk : x.2.key = z.key
  · have hend : x.1 + 1 = dest.length := by
      rw [dueAfter, if_pos hk] at h
      omega
    exact ⟨hfirst L hL, fun _ => hend, fun _ k hlo hhi => by omega⟩
  · rw [dueAfter, if_neg hk] at h
    obtain ⟨-, hrun, -⟩ := nextWarp_spec hx
    refine ⟨hfirst L hL, fun hkL => absurd (BitVec.eq_of_toNat_eq ?_) hk, fun _ k hlo hhi => hrun k (Nat.le_of_lt hlo) (by omega)⟩
    exact Nat.le_antisymm (hfirst z List.mem_cons_self).key_le (hkL ▸ hzL)

/-- Every source is placed, or the positions have run out at the last lane placed. -/
theorem placedAfter_complete {L : PartLane} (hx : x.1 < dest.length) (hr : (x.2 :: r).Pairwise comesBefore) (hL : L ∈ r) :
    (∃ y ∈ placedAfter dest x r, y.2 = L) ∨ runsOut dest ((placedAfter dest x r).getLastD x) L := by
  induction r generalizing x with
  | nil => cases hL
  | cons z r ih =>
    by_cases h : dueAfter dest x z < dest.length
    · rw [placedAfter_cons_placed h, List.getLastD_cons]
      rcases List.mem_cons.mp hL with rfl | hL
      · exact .inl ⟨_, List.mem_cons_self, rfl⟩
      · rcases ih (x := (dueAfter dest x z, z)) h (List.pairwise_cons.mp hr).2 hL with ⟨y, hy, hyL⟩ | hout
        · exact .inl ⟨y, List.mem_cons_of_mem _ hy, hyL⟩
        · exact .inr hout
    · have hpast := Nat.not_lt.mp h
      rw [placedAfter_cons_past hpast]
      exact .inr (runsOut_of_due_past hx hr hpast hL)

/-! ### The sources -/

/-- The order by which regroupMap sorts its sources. -/
def sourceLe (a b : PartLane) : Bool := decide (a.key.toNat < b.key.toNat) || (a.key == b.key && decide (a.origin ≤ b.origin))

theorem sourceLe_iff {a b : PartLane} : sourceLe a b = true ↔ a.key.toNat < b.key.toNat ∨ a.key = b.key ∧ a.origin ≤ b.origin := by
  simp [sourceLe]

/-- The sources of a REGROUP in the order in which they are placed. -/
def sources (dest : List PartLane) : List PartLane := sortBy sourceLe (dest.filter (fun x => !bitOf x.key 31))

/-- Lanes of different origins in sorted order come strictly one before the other. -/
theorem comesBefore_of_sourceLe {a b : PartLane} (h : sourceLe a b = true) (hne : a.origin ≠ b.origin) : comesBefore a b :=
  (sourceLe_iff.mp h).imp_right fun ⟨hk, ho⟩ => ⟨hk, Nat.lt_of_le_of_ne ho hne⟩

theorem sourceLe_of_comesBefore {a b : PartLane} (h : comesBefore a b) : sourceLe b a = false := by
  refine Bool.eq_false_iff.mpr fun hba => ?_
  rcases h with hlt | ⟨hk, ho⟩ <;> rcases sourceLe_iff.mp hba with hlt' | ⟨hk', ho'⟩
  · exact Nat.lt_asymm hlt hlt'
  · exact Nat.lt_irrefl _ (hk' ▸ hlt)
  · exact Nat.lt_irrefl _ (hk ▸ hlt')
  · exact Nat.not_le.mpr ho ho'

theorem sourceLe_trans (a b c : PartLane) (hab : sourceLe a b = true) (hbc : sourceLe b c = true) : sourceLe a c = true := by
  rw [sourceLe_iff] at *
  rcases hab with hab | ⟨hab, ho⟩ <;> rcases hbc with hbc | ⟨hbc, ho'⟩
  · exact .inl (Nat.lt_trans hab hbc)
  · exact .inl (hbc ▸ hab)
  · exact .inl (hab ▸ hbc)
  · exact .inr ⟨hab.trans hbc, Nat.le_trans ho ho'⟩

theorem sourceLe_total (a b : PartLane) : (sourceLe a b || sourceLe b a) = true := by
  rw [Bool.or_eq_true, sourceLe_iff, sourceLe_iff]
  rcases Nat.lt_trichotomy a.key.toNat b.key.toNat with h | h | h
  · exact .inl (.inl h)
  · have hk := BitVec.eq_of_toNat_eq h
    exact (Nat.le_total a.origin b.origin).imp (fun ho => .inr ⟨hk, ho⟩) (fun ho => .inr ⟨hk.symm, ho⟩)
  · exact .inr (.inl h)

/-- Sorting puts the lanes with a key that is not negative in the order of placement. -/
theorem sources_sorted (hd : dest.Pairwise (fun x y => x.origin < y.origin)) :
    (sources dest).Perm (dest.filter (fun x => !bitOf x.key 31)) ∧ (sources dest).Pairwise comesBefore := by
  have hperm := List.mergeSort_perm (dest.filter (fun x => !bitOf x.key 31)) sourceLe
  have horigin : (dest.filter (fun x => !bitOf x.key 31)).Pairwise (fun x y => x.origin ≠ y.origin) :=
    (hd.filter _).imp Nat.ne_of_lt
  have hsorted := (List.pairwise_mergeSort sourceLe_trans sourceLe_total (dest.filter (fun x => !bitOf x.key 31))).and
    (horigin.perm hperm.symm Ne.symm)
  have heq : sources dest = (dest.filter (fun x => !bitOf x.key 31)).mergeSort sourceLe :=
    sortBy_eq hperm.symm (hsorted.imp fun h => ⟨h.1, sourceLe_of_comesBefore (comesBefore_of_sourceLe h.1 h.2)⟩)
  rw [heq]
  exact ⟨hperm, hsorted.imp fun h => comesBefore_of_sourceLe h.1 h.2⟩

theorem mem_sources (hd : dest.Pairwise (fun x y => x.origin < y.origin)) {L : PartLane} :
    L ∈ sources dest ↔ L ∈ dest ∧ bitOf L.key 31 = false := by
  rw [(sources_sorted hd).1.mem_iff, List.mem_filter, Bool.not_eq_true']

theorem regroupMap_eq (dest : List PartLane) : regroupMap dest = placeKeys dest 0 none (sources dest) := rfl

/-- Without a source nothing moves. -/
theorem regroupMap_of_nil (h : sources dest = []) : regroupMap dest = [] := by
  rw [regroupMap_eq, h, placeKeys]

/-- The first source takes the first position. -/
theorem regroupMap_of_cons (h : sources dest = z :: r) (hlen : 0 < dest.length) :
    regroupMap dest = (0, z) :: placedAfter dest (0, z) r := by
  rw [regroupMap_eq, h]
  exact if_pos hlen

end Places

/-! ## REGROUP and UNGROUP (spec/06 R200 to R202) -/

theorem updAt_map {α β : Type} {f : α → α} {g : α → β} (hf : ∀ x, g (f x) = g x) (l : List α) (k : Nat) :
    (updAt l k f).map g = l.map g := by
  refine List.ext_getElem? fun j => ?_
  rw [List.getElem?_map, List.getElem?_map, updAt_get]
  split
  · rw [Option.map_map, show g ∘ f = g from funext hf]
  · rfl

/-- A regroup moves registers: the team keeps its number, and its warps their splits. -/
theorem regroupMove_tables (tag : Nat) (un : Bool) (t : Team) (arr : List RegroupArrival) :
    (regroupMove tag un t arr).id = t.id ∧
    (regroupMove tag un t arr).warps.map Warp.table = t.warps.map Warp.table := by
  unfold regroupMove
  dsimp only
  generalize ((List.range (partLanes t arr).length).zip (partLanes t arr)) = l
  refine List.foldlRecOn (motive := fun u : Team => u.id = t.id ∧ u.warps.map Warp.table = t.warps.map Warp.table) l _ ⟨rfl, rfl⟩
    fun u hu x _ => ⟨hu.1, (updAt_map (fun w => ?_) _ _).trans hu.2⟩
  exact List.foldlRecOn (motive := fun v : Warp => v.table = w.table) _ _ rfl fun v hv r _ => hv

/-- The move keeps the issuing split in its place. -/
theorem regroupDone_follows (tag : Nat) (un : Bool) (hw : c.wi < c.t.warps.length) (hp : (findSplit c.w.table c.p.seq).isSome) :
    Follows c { c with t := regroupDone tag un c.team, w := (regroupDone tag un c.team).warps.getD c.wi c.w } := by
  obtain ⟨hid, htables⟩ := regroupMove_tables tag un c.team (c.team.regroup.filter (fun a => a.un == un))
  have hwarps : (regroupDone tag un c.team).warps.map Warp.table = c.team.warps.map Warp.table := htables
  have hlen : (regroupDone tag un c.team).warps.length = c.t.warps.length := by
    simpa [Ctx.team, updAt_length] using congrArg List.length hwarps
  have htable : ((regroupDone tag un c.team).warps.getD c.wi c.w).table = putSplit c.w.table c.p := by
    have hget : ((regroupDone tag un c.team).warps[c.wi]?).map Warp.table = some (putSplit c.w.table c.p) := by
      rw [← List.getElem?_map, hwarps, List.getElem?_map]
      simp only [Ctx.team, updAt_get, if_true, List.getElem?_eq_getElem hw, Option.map_some]
    obtain ⟨w, hw', htab⟩ := Option.map_eq_some_iff.mp hget
    rw [List.getD_eq_getElem?_getD, hw']
    exact htab
  exact ⟨hid, rfl, rfl, rfl, fun _ => by rw [htable, findSplit_putSplit _ _ hp]; rfl, hlen, fun _ h => h⟩

/-- What a warp does that waits at REGROUP or UNGROUP, with what the others have announced (R200). -/
theorem regroupTry_waits {un : Bool} (hr : regroupReady c.team un = false) : regroupTry c un = .block c 7 :=
  if_pos (congrArg not hr)

theorem ready_not_waits {un : Bool} (hr : regroupReady c.team un = true) : ¬(!regroupReady c.team un) = true := by
  simp [hr]

/-- All have arrived, and another warp's mask is the one that differs. -/
theorem regroupTry_other {un : Bool} {k : Nat} (hr : regroupReady c.team un = true) (hk : regroupOdd c.team un = some k) (hne : k ≠ c.wi) :
    regroupTry c un = .block c 7 := by
  simp only [regroupTry, if_neg (ready_not_waits hr), hk, if_neg hne]

/-- All have arrived, and the issuing warp's mask is the one that differs: its announcement is withdrawn. -/
theorem regroupTry_own {un : Bool} (hr : regroupReady c.team un = true) (hk : regroupOdd c.team un = some c.wi) : regroupTry c un =
    .trapWith { c with t := { c.t with regroup := c.t.regroup.filter (fun a => a.warp != c.wi) }, p := { c.p with arrival := none } }
      (plain causeILLOPND) c.p.unitPc := by
  simp only [regroupTry, if_neg (ready_not_waits hr), hk, if_true]
  rfl

/-- All have arrived with one mask: the lanes move. -/
theorem regroupTry_moves {un : Bool} (hr : regroupReady c.team un = true) (hk : regroupOdd c.team un = none) : regroupTry c un =
    .done { c with t := regroupDone c.s.freeTag un c.team, w := (regroupDone c.s.freeTag un c.team).warps.getD c.wi c.w } := by
  simp only [regroupTry, if_neg (ready_not_waits hr), hk]

section Regroup
variable {f : FmtA} {un : Bool}

/-- REGROUP or UNGROUP. -/
def regroupInstr (f : FmtA) (un : Bool) : Instr := if un then .ungroup f else .regroup f

theorem exec_regroupInstr (f : FmtA) (un : Bool) (s : State) : exec (regroupInstr f un) s = regroupForm s f un := by
  cases un <;> rfl

/-- Both are ILLOP in a handler (R304). -/
theorem regroup_handler_traps (h : Issues s .executeOnly c) (hh : c.inHandler = true) :
    Traps (regroupInstr f un) s c (plain causeILLOP) := by
  refine traps_of h ((exec_regroupInstr f un s).trans rfl) (body := _) ?_
  simp only [orIllop, hh, Bool.not_true, Bool.false_eq_true, if_false]
  rfl

/-- The announcement of the issuing warp, with the keys its active lanes read. -/
def announced (c : Ctx) (f : FmtA) (un : Bool) : Ctx :=
  { c with
    t := { c.t with regroup := c.t.regroup ++ [{
      warp := c.wi, seq := c.p.seq, un := un, d := f.d.toNat
      keys := laneList.map (fun L => if inMask (c.act f.g) L then loWord ((op32 .int f.a).value c L) else 0xFFFFFFFF)
      mov := c.w.s64 (sNum f.b) }] }
    p := { c.p with arrival := some (.regroup c.t.regroups) } }

variable (h : Issues s .executeOnly c) (hh : c.inHandler = false) (hd : regOk c f.d.toNat = true) (hq : isQueueSpec f.a = false)
  (ha : (op32 .int f.a).ok c = true) (hb : isSPair f.b = true) (hm : movOk c.w (c.w.s64 (sNum f.b)) = true)
include h hh hd hq ha hb hm

/-- The never guard moves nothing (R9). -/
theorem regroup_never_completes (hg : f.g = 15) : Completes (regroupInstr f un) s c (c.p.pc + 4) := by
  refine completes_of h ((exec_regroupInstr f un s).trans rfl) (body := _) ?_ (.refl c)
  simp only [orIllop, hh, orIllopnd, hd, hq, ha, hb, hm, Bool.not_false, Bool.and_self, if_true, hg]

/-- A split without all its warp's lanes traps (R200). -/
theorem regroup_parted_traps (hg : f.g ≠ 15) (hmask : c.p.mask ≠ ~~~c.w.exited) :
    Traps (regroupInstr f un) s c (plain causeDIVERGE) := by
  refine traps_of h ((exec_regroupInstr f un s).trans rfl) (body := _) ?_
  simp only [orIllop, hh, orIllopnd, hd, hq, ha, hb, hm, Bool.not_false, Bool.and_self, if_true, hg, hmask, if_false, ne_eq,
    not_false_eq_true]
  rfl

/-- A whole warp that has not announced itself does so and then waits with the others. -/
theorem exec_regroup_arrives (hg : f.g ≠ 15) (hmask : c.p.mask = ~~~c.w.exited) (harr : c.p.arrival = none) :
    exec (regroupInstr f un) s = .next (finishRes c (regroupTry (announced c f un) un)) := by
  refine (exec_regroupInstr f un s).trans ((issue_of h _).trans (congrArg (fun r => Host.Outcome.next (finishRes c r)) ?_))
  have hwhole : ¬c.p.mask ≠ ~~~c.w.exited := fun hne => hne hmask
  simp only [orIllop, hh, orIllopnd, hd, hq, ha, hb, hm, Bool.not_false, Bool.and_self, if_true, hg, if_false, hwhole, harr]
  rfl

end Regroup

end Lemmas

/-! ## The obligations -/

/-- Settles O8: each load and store of the tables has the form of its width, which traps in its lowest faulting lane or completes. -/
theorem loadsAndStoresComplete : Obligations.LoadsAndStoresComplete :=
  ⟨fun f s _ _ _ h hs hb =>
    ⟨fun r hr ho hd hf => loadForm_traps (exec_loads f s r hr) h ho hs hd hb hf,
     fun r hr ho hd hf => storeForm_traps (exec_stores f s r hr) h ho hs hd hb hf⟩,
   fun f s _ _ _ h ha hs hb =>
    ⟨fun r hr ho hd hc hp hm hu => loadForm_completes (exec_loads f s r hr) h ha hs hb ho hd hc hp hm hu,
     fun r hr ho hd hc hm => storeForm_completes (exec_stores f s r hr) h ha hs hb ho hd hc hm⟩⟩

/-- Settles O9: each atomic of the table has the form of its operand and operation. -/
theorem atomicsComplete : Obligations.AtomicsComplete :=
  ⟨fun f s _ _ _ h hs hb r hr hd hf => atomicForm_traps (exec_atomics f s r hr) h hs hd hb hf,
   fun f s _ _ _ h ha hs hb r hr hd hc hp hw hr' hm hu =>
    atomicForm_completes (exec_atomics f s r hr) h ha hs hb hd hc hp hw hr' hm hu⟩

/-- Settles O11: LDFE waits on the bits it asks for, STFE ends as stfeEnd says. -/
theorem fullEmptyComplete : Obligations.FullEmptyComplete := by
  intro g d a x s c ls es h hact hd hb
  refine ⟨fun L cause => ⟨ldfe_traps h hd hb, stfe_traps h hd hb⟩,
    fun hc hheld hfull => ldfe_completes h hact hd hb hc hheld hfull, fun hc hheld => ?_⟩
  have he := exec_stfe h hact hd hb (x := x) hc hheld
  have ends {c'} (hr : stfeEnd c (c.act g) d.toNat x ls = .done c') (k : Follows c c') :
      Completes (.stfe g d a x) s c' (c.p.pc + 4) := completes_of_end h.1 (hr ▸ he) k
  have hput := stfeWrite_follows c d.toNat ls
  have hset := (changeBits_follows c (c.act g) true (granulesOf ls) true (ls.flatMap (stfeWord c d.toNat))).trans
    (scrFence_follows _ (c.act g) (granulesOf ls).contains)
  refine ⟨?plain, fun hempty => ?empty, fun hx hempty hfill => ?filling, fun hx hfull => ?waits, fun hx hfull => ?refused⟩
  case plain =>
    rintro rfl
    exact ends stfeEnd_plain hput
  case empty =>
    obtain ⟨hset1, hput2, hset3⟩ := stfeEnd_empty (act := c.act g) (d := d.toNat) (x := x) hempty
    exact ⟨fun hx => ends (hset1 hx) hset, fun hx => ends (hput2 hx) hput,
      fun hx => ends (hset3 hx) (hset.warp _ (setP_table ..))⟩
  case filling => exact stfeEnd_filling hx hempty hfill ▸ he
  case waits => exact (stfeEnd_full hfull).1 hx ▸ he
  case refused => exact ends ((stfeEnd_full hfull).2 hx) ((Follows.refl c).warp _ (setP_table ..))

/-- Settles O12: PREF, FENCE and STREAM complete, DISCARD and WBACK end past the word, and trap where the lowest range meets a fault. -/
theorem cacheAndOrderComplete : Obligations.CacheAndOrderComplete := by
  refine ⟨?pref, ?fence, ?stream, ?discard, ?wback, ?traps⟩
  case pref => exact fun _ _ _ _ _ h hb => pref_completes h hb
  case fence =>
    intro g o k s c h hk
    refine ⟨?_, fence_release_completes h hk⟩
    rintro rfl
    exact fence_acquire_completes h hk
  case stream => exact fun _ _ _ _ h => stream_completes h
  case discard => exact fun _ _ _ _ _ _ _ h ha hd hb hk hl => exec_discard h ha hd hb hk hl
  case wback =>
    intro g d a k p s c l h ha hd hb hp hl
    refine ⟨?_, exec_wback h ha hd hb hp hl⟩
    rintro rfl
    exact wback_core_completes h ha hd hb hp hl
  case traps =>
    intro g d a k p s c L cause h hd hb hL
    exact ⟨fun hk hf hl => discard_traps h hd hb hk hL (rangeCheck_bytesFault hf) hl,
      fun hk hk' hp hf hl => wback_traps h hd hb hk hk' hp hL (rangeCheck_bytesFault hf) hl⟩

/-- Settles O7: the forms of RWAIT, RREL and RSET and of LDR and STR trap in the lowest lane they refuse, or act on every lane. -/
theorem slotsComplete : Obligations.SlotsComplete := by
  refine ⟨?granules, ?refused, ?word, ?words⟩
  case granules =>
    intro f s c c' vs hact h hok
    refine ⟨rwait_completes h hact hok, ?_, fun L p => rwait_poisoned h hok⟩
    simp only [List.forall_mem_cons]
    exact ⟨setForm_completes rfl h hact hok, setForm_completes rfl h hact hok, by simp⟩
  case refused =>
    intro f s c c' vs L h hl
    simp only [List.forall_mem_cons]
    exact ⟨granuleForm_traps h (execRwait.eq_def f s) hl, granuleForm_traps h (setForm.eq_def s f false) hl,
      granuleForm_traps h (setForm.eq_def s f true) hl, by simp⟩
  case word =>
    intro f s c c' vs L cause hd h hl hf
    simp only [List.forall_mem_cons]
    exact ⟨wordForm_traps hd h (execLdr.eq_def f s) hl hf, wordForm_traps hd h (execStr.eq_def f s) hl hf, by simp⟩
  case words =>
    intro f s c c' vs hact hd h hok hheld
    refine ⟨fun L p => ldr_poisoned hd h hok hheld, fun hfull hreads => ?_, str_completes hd h hact hok hheld⟩
    have hreg : f.d.toNat < c'.w.nregs := by
      rw [reads_warp h]
      exact of_decide_eq_true hd
    exact ⟨_, ldr_completes hd h hact hok hheld hfull hreads, rfl, fun r hr => List.getElem?_set_ne hr.symm,
      fun L hL => ldrTaken_v _ hreg hL⟩

/-- Settles O26: the first source takes position 0, and each further one goes on from the lane placed before it until the positions run out. -/
theorem regroupPlacesInOrder : Obligations.RegroupPlacesInOrder := by
  intro dest hd _
  have hmem := fun L => mem_sources hd (L := L)
  cases hs : sources dest with
  | nil =>
    have hnone : ∀ L ∈ dest, bitOf L.key 31 ≠ false := fun L hL hkey => by simpa [hs] using (hmem L).mpr ⟨hL, hkey⟩
    rw [regroupMap_of_nil hs]
    exact ⟨List.Pairwise.nil, by simp, by simp, by simp, fun L hL hkey => absurd hkey (hnone L hL),
      fun ⟨L, hL, hkey⟩ => absurd hkey (hnone L hL)⟩
  | cons z r =>
    have hsorted := hs ▸ (sources_sorted hd).2
    have hz := (hmem z).mp (hs ▸ List.mem_cons_self)
    have hlen : (0, z).1 < dest.length := List.length_pos_of_mem hz.1
    have hrise := placedAfter_pairwise hlen hsorted
    rw [regroupMap_of_cons hs hlen]
    refine ⟨hrise, ?places, ?first, ?chain, ?complete, fun _ => List.cons_ne_nil _ _⟩
    case places =>
      intro x hx
      rcases List.mem_cons.mp hx with rfl | hx
      · exact ⟨hlen, hz⟩
      · obtain ⟨-, hpos, hsrc⟩ := placedAfter_mem hlen hx
        exact ⟨hpos, (hmem x.2).mp (hs ▸ List.mem_cons_of_mem z hsrc)⟩
    case first => simp
    case chain =>
      exact fun k x y hx hy => placedAfter_goesOn hlen hx hy
    case complete =>
      intro L hL hkey
      have hsrc : L ∈ z :: r := hs ▸ (hmem L).mpr ⟨hL, hkey⟩
      rcases List.mem_cons.mp hsrc with rfl | hsrc
      · exact .inl ⟨_, List.mem_cons_self, rfl⟩
      rcases placedAfter_complete hlen hsorted hsrc with ⟨y, hy, hyL⟩ | ⟨hbefore, hsame, hother⟩
      · exact .inl ⟨y, List.mem_cons_of_mem _ hy, hyL⟩
      · refine .inr ⟨_, ?last, hbefore, ?top, hsame, hother⟩
        case last => exact List.getLastD_mem_cons
        case top => exact le_getLastD_of_rising (hrise.imp fun h => h.1)

/-- Settles O25: a warp announces itself, and regroupTry says how it goes on with what the others have announced. -/
theorem regroupCompletes : Obligations.RegroupCompletes := by
  refine ⟨fun f s c h hh => ⟨regroup_handler_traps (un := false) h hh, regroup_handler_traps (un := true) h hh⟩, ?_⟩
  intro f un s c h hh hd hq ha hb hm
  refine ⟨regroup_never_completes h hh hd hq ha hb hm, regroup_parted_traps h hh hd hq ha hb hm, fun hg hmask harr => ?_⟩
  have he := exec_regroup_arrives (un := un) h hh hd hq ha hb hm hg hmask harr
  obtain ⟨-, hwarp, hsplit⟩ := h.1.facts
  have hplace : Follows c (announced c f un) := ⟨rfl, rfl, rfl, rfl, fun x => x, rfl, fun _ x => x⟩
  have ends {r} (hr : regroupTry (announced c f un) un = r) : exec (regroupInstr f un) s = .next (finishRes c r) := hr ▸ he
  refine ⟨fun hr => ends (regroupTry_waits hr), fun k hr hk => ⟨fun hne => ends (regroupTry_other hr hk hne), ?own⟩, fun hr hk => ?moves⟩
  case own =>
    rintro rfl
    exact ends (regroupTry_own hr hk)
  case moves =>
    exact completes_of_end h.1 (ends (regroupTry_moves hr hk))
      (hplace.trans (regroupDone_follows (c := announced c f un) c.s.freeTag un hwarp hsplit))

end Sys2Proof.CoreInstructions
end

section
/-! PROOFS. Gangs, their latch and the token (spec/08 R230 to R232, spec/09 R248, R249, R261): how a member's instruction ends is said once for the latch, and each clause reads it off for the instructions that go through it. -/

namespace Sys2Proof.MatrixGangs
open Sys2Proof Sys2Proof.Machine Sys2Proof.Claims

section Lemmas
variable {s : State} {c u : Ctx} {t : Team} {w : Warp} {i : Instr} {n k : Nat} {vals : List Word}
  {finish : Ctx → List (Nat × Option Nat) → Joint}

/-! ## The gangs of a team (spec/08 R230) -/

theorem lt_gangs_of_gangOf (h : gangOf t w = some n) : n < t.mtx.gangs.length := by
  unfold gangOf at h
  split at h
  · cases h
  · have hbit := List.find?_some h
    refine Nat.not_le.mp fun hn => ?_
    have hnone : (t.gang n).members = 0 := by
      rw [Team.gang, List.getD_eq_getElem?_getD, List.getElem?_eq_none hn, Option.getD_none]
    rw [hnone, bitOf, BitVec.ofNat_eq_ofNat, BitVec.getLsbD_zero] at hbit
    cases hbit

theorem gang_updGang {f : Gang → Gang} (hn : n < t.mtx.gangs.length) : (t.updGang n f).gang n = f (t.gang n) := by
  simp only [Team.gang, Team.updGang, List.getD_eq_getElem?_getD, updAt_get, if_true, List.getElem?_eq_getElem hn, Option.map_some,
    Option.getD_some]

/-- Which warps are members of a gang follows from what the warps hold beside their splits. -/
theorem mem_gangWarps : k ∈ gangWarps t n ↔
    ∃ w, (t.warps[k]?).map Warp.contents = some w ∧ w.role = .execute ∧ bitOf (t.gang n).members w.index = true := by
  rw [gangWarps, List.mem_filter, List.mem_range]
  cases hw : t.warps[k]? with
  | none => simp
  | some w =>
    have hk : k < t.warps.length := (List.getElem?_eq_some_iff.mp hw).1
    simp [hk, Warp.contents]

/-! ## A warp that has arrived (spec/09 R249) -/

/-- Gang n's latch once the context's warp has arrived. -/
theorem arrives_gang (hn : n < c.t.mtx.gangs.length) : (arrives c n i vals).t.gang n =
    { c.t.gang n with word := some ((encode i).getD 0), vals := vals,
                      arrived := (c.t.gang n).arrived ++ [(c.wi, flagOf c.p.setA, c.p.pc + 4)] } :=
  gang_updGang hn

theorem arrives_gangs (c : Ctx) (n : Nat) (i : Instr) (vals : List Word) :
    (arrives c n i vals).t.mtx.gangs.length = c.t.mtx.gangs.length := updAt_length ..

/-- Putting the context's split back changes no warp but in its splits. -/
theorem team_warp (hwarp : c.t.warps[c.wi]? = some c.w) (k : Nat) :
    (c.team.warps[k]?).map Warp.contents = (c.t.warps[k]?).map Warp.contents := by
  rw [show c.team.warps[k]? = _ from updAt_get ..]
  split
  · rename_i hk
    rw [hk, hwarp]
    rfl
  · rfl

theorem arrives_warp (h : Issuing s c) (k : Nat) :
    ((arrives c n i vals).team.warps[k]?).map Warp.contents = (c.t.warps[k]?).map Warp.contents :=
  team_warp (c := arrives c n i vals) (getCtx_team h.1).2.2.1 k

theorem arrives_members (hn : n < c.t.mtx.gangs.length) :
    ((arrives c n i vals).team.gang n).members = (c.t.gang n).members := by
  rw [show (arrives c n i vals).team.gang n = _ from arrives_gang hn]

/-- An arrival changes no gang's members. -/
theorem mem_gangWarps_arrives (h : Issuing s c) (hn : n < c.t.mtx.gangs.length) :
    k ∈ gangWarps (arrives c n i vals).team n ↔ k ∈ gangWarps c.t n := by
  rw [mem_gangWarps, mem_gangWarps, arrives_members hn, arrives_warp h]

/-- The members of a gang that have not finished have not after an arrival. -/
theorem members_stand_arrives (h : Issuing s c) (hn : n < c.t.mtx.gangs.length)
    (hstand : ∀ k ∈ gangWarps c.t n, ∃ w, c.t.warps[k]? = some w ∧ w.done = false) :
    ∀ k ∈ gangWarps (arrives c n i vals).team n, ∃ w, (arrives c n i vals).team.warps[k]? = some w ∧ w.done = false := by
  intro k hk
  obtain ⟨w, hw, hdone⟩ := hstand k ((mem_gangWarps_arrives h hn).mp hk)
  have hcontents := arrives_warp (n := n) (i := i) (vals := vals) h k
  rw [hw] at hcontents
  obtain ⟨v, hv, hvw⟩ := Option.map_eq_some_iff.mp hcontents
  have hexited : v.contents.exited = w.contents.exited := congrArg Warp.exited hvw
  exact ⟨v, hv, (congrArg (· == BitVec.allOnes 32) hexited).trans hdone⟩

/-! ## The latch opens (spec/09 R249) -/

/-- A member's split that waits in the latch goes on at pc. -/
def goOn (n now : Nat) (pc : DWord) : Split → Split := Split.inLatch n (fun p =>
  { p with pc := pc, immRun := 0, blk := 0, arrival := none, since := now, st := if p.st = .blocked then .parked else p.st })

/-- A warp whose splits that wait in the latch go on at pc. -/
def warpGoesOn (n now : Nat) (pc : DWord) (w : Warp) : Warp :=
  { w with table := w.table.map (goOn n now pc), spilled := w.spilled.map (goOn n now pc) }

/-- The warps of a team once the warp of one arrival goes on, if it is another than the one at wi. -/
def arrivalGoesOn (n wi now : Nat) (l : List Warp) (x : Nat × Option Nat × DWord) : List Warp :=
  if x.1 = wi then l else updAt l x.1 (warpGoesOn n now x.2.2)

theorem foldl_warps {α : Type} (f : List Warp → α → List Warp) (l : List α) (t : Team) :
    l.foldl (fun t x => { t with warps := f t.warps x }) t = { t with warps := l.foldl f t.warps } := by
  induction l generalizing t with
  | nil => rfl
  | cons x l ih => exact ih _

theorem releaseMembers_eq (t : Team) (n wi now : Nat) :
    releaseMembers t n wi now = { t with warps := (t.gang n).arrived.foldl (arrivalGoesOn n wi now) t.warps } := by
  rw [← foldl_warps]
  refine congrArg (fun f => (t.gang n).arrived.foldl f t) (funext fun t => funext fun x => ?_)
  rw [arrivalGoesOn]
  split <;> rfl

/-- A split that waits in the latch, and one that does not. -/
theorem goOn_waiting {p : Split} {m : Nat} (h : p.arrival = some (.gang n m)) (now : Nat) (pc : DWord) : goOn n now pc p =
    { p with pc := pc, immRun := 0, blk := 0, arrival := none, since := now, st := if p.st = .blocked then .parked else p.st } := by
  simp only [goOn, Split.inLatch, h, if_true]

theorem goOn_other {p : Split} (h : ∀ m, p.arrival ≠ some (.gang n m)) (now : Nat) (pc : DWord) : goOn n now pc p = p := by
  unfold goOn Split.inLatch
  split
  · rename_i g m hg
    exact if_neg fun hn => h m (by rw [hg, hn])
  · rfl

/-- A split that goes on waits in the latch no more. -/
theorem goOn_goOn (n now : Nat) (pc pc' : DWord) (p : Split) : goOn n now pc' (goOn n now pc p) = goOn n now pc p := by
  by_cases h : ∃ m, p.arrival = some (.gang n m)
  · obtain ⟨m, h⟩ := h
    rw [goOn_waiting h]
    exact goOn_other (fun _ h => by cases h) now pc'
  · rw [goOn_other (not_exists.mp h), goOn_other (not_exists.mp h)]

theorem warpGoesOn_twice (n now : Nat) (pc pc' : DWord) (w : Warp) :
    warpGoesOn n now pc' (warpGoesOn n now pc w) = warpGoesOn n now pc w := by
  simp only [warpGoesOn, List.map_map, Function.comp_def, goOn_goOn]

theorem arrivalGoesOn_warp (n wi now k : Nat) (ws : List Warp) (x : Nat × Option Nat × DWord) :
    (arrivalGoesOn n wi now ws x)[k]? = if k = x.1 ∧ k ≠ wi then (ws[k]?).map (warpGoesOn n now x.2.2) else ws[k]? := by
  unfold arrivalGoesOn
  split
  · rename_i hx
    exact (if_neg fun h => h.2 (h.1.trans hx)).symm
  · rename_i hx
    rw [updAt_get]
    by_cases hk : k = x.1 <;> simp [hk, hx]

/-- Of several arrivals of a warp the first says where it goes on. -/
theorem arrivalsGoOn_warp (n wi now k : Nat) (l : List (Nat × Option Nat × DWord)) (ws : List Warp) :
    (l.foldl (arrivalGoesOn n wi now) ws)[k]? = if k = wi then ws[k]? else
      (ws[k]?).map (fun w => (l.find? (fun x => x.1 == k)).elim w (fun x => warpGoesOn n now x.2.2 w)) := by
  induction l generalizing ws with
  | nil => simp
  | cons x l ih =>
    rw [List.foldl_cons, ih, arrivalGoesOn_warp]
    by_cases hk : k = wi
    · simp [hk]
    by_cases hx : x.1 = k
    · simp only [hx, hk, ne_eq, not_false_eq_true, and_self, if_true, if_false, Option.map_map, Function.comp_def,
        List.find?_cons, beq_self_eq_true, Option.elim_some]
      cases l.find? (fun x => x.1 == k) with
      | none => rfl
      | some y => simp only [Option.elim_some, warpGoesOn_twice]
    · simp [hk, Ne.symm hx, hx]

theorem arrivalsGoOn_length (n wi now : Nat) (l : List (Nat × Option Nat × DWord)) (ws : List Warp) :
    (l.foldl (arrivalGoesOn n wi now) ws).length = ws.length := by
  refine List.foldlRecOn (motive := fun v : List Warp => v.length = ws.length) l _ rfl fun v hv x _ => ?_
  unfold arrivalGoesOn
  split
  · exact hv
  · exact (updAt_length ..).trans hv

/-- The context once the latch has opened: the members that wait go on, and the latch is empty. -/
def latchOpened (c : Ctx) (n : Nat) : Ctx :=
  let t := (releaseMembers c.team n c.wi c.s.clock).updGang n (fun x => { x with word := none, vals := [], arrived := [], num := x.num + 1 })
  { c with t := t, w := t.warps.getD c.wi c.w }

/-- A context that takes its team, its warp with it, from a team whose warp at wi has the splits that the context's has. -/
theorem follows_team {t : Team} {s' : State} (h : Follows c u) (hw : u.wi < u.t.warps.length) (hp : (findSplit u.w.table u.p.seq).isSome)
    (hid : t.id = u.t.id) (hlen : t.warps.length = u.t.warps.length)
    (htable : (t.warps[u.wi]?).map Warp.table = (u.team.warps[u.wi]?).map Warp.table)
    (hs : ∀ id, (u.s.team? id).isSome → (s'.team? id).isSome) :
    Follows c { u with s := s', t := t, w := t.warps.getD u.wi u.w } := by
  have hteam : (u.team.warps[u.wi]?).map Warp.table = some (putSplit u.w.table u.p) := by
    simp only [Ctx.team, updAt_get, if_true, List.getElem?_eq_getElem hw, Option.map_some]
  obtain ⟨w, hw', hwtable⟩ := Option.map_eq_some_iff.mp (htable.trans hteam)
  have hget : (t.warps.getD u.wi u.w).table = putSplit u.w.table u.p := by
    rw [List.getD_eq_getElem?_getD, hw']
    exact hwtable
  exact h.trans ⟨hid, rfl, rfl, rfl, fun _ => by rw [hget, findSplit_putSplit _ _ hp]; rfl, hlen, hs⟩

theorem latchOpened_eq (c : Ctx) (n : Nat) : (latchOpened c n).t =
    { c.team with
      warps := (c.t.gang n).arrived.foldl (arrivalGoesOn n c.wi c.s.clock) c.team.warps
      mtx := { c.t.mtx with gangs := updAt c.t.mtx.gangs n (fun x => { x with word := none, vals := [], arrived := [], num := x.num + 1 }) } } := by
  rw [latchOpened, releaseMembers_eq]
  rfl

/-- The latch opens on other warps than the one that opens it. -/
theorem latchOpened_own (c : Ctx) (n : Nat) : (latchOpened c n).t.warps[c.wi]? = c.team.warps[c.wi]? := by
  rw [latchOpened_eq, arrivalsGoOn_warp, if_pos rfl]

theorem latchOpened_follows (hw : c.wi < c.t.warps.length) (hp : (findSplit c.w.table c.p.seq).isSome) (n : Nat) :
    Follows c (latchOpened c n) := by
  refine follows_team (t := (latchOpened c n).t) (.refl c) hw hp ?_ ?_ (congrArg _ (latchOpened_own c n)) (fun _ h => h)
  · rw [latchOpened_eq]
    rfl
  · rw [latchOpened_eq]
    exact (arrivalsGoOn_length ..).trans (updAt_length ..)

theorem latchOpened_contents (c : Ctx) (n : Nat) :
    (latchOpened c n).t.contents = { c.t with mtx := (latchOpened c n).t.mtx }.contents := by
  rw [latchOpened_eq]
  rfl

theorem latchOpened_gang (hn : n < c.t.mtx.gangs.length) : (latchOpened c n).t.gang n =
    { c.t.gang n with word := none, vals := [], arrived := [], num := (c.t.gang n).num + 1 } := by
  rw [latchOpened_eq]
  exact gang_updGang hn

theorem latchOpened_token (c : Ctx) (n : Nat) : (latchOpened c n).t.mtx.token = c.t.mtx.token := by
  rw [latchOpened_eq]

/-- The warp that opens the latch keeps what it holds beside its splits. -/
theorem latchOpened_w (hw : c.wi < c.t.warps.length) (n : Nat) : (latchOpened c n).w.contents = c.w.contents := by
  have hget : (latchOpened c n).w = (latchOpened c n).t.warps.getD c.wi c.w := rfl
  rw [hget, List.getD_eq_getElem?_getD, latchOpened_own]
  simp only [Ctx.team, updAt_get, if_true, List.getElem?_eq_getElem hw, Option.map_some, Option.getD_some]
  rfl

/-- Another warp that has arrived goes on where its arrival says, its splits that do not wait in the latch standing as they were. -/
theorem latchOpened_member {x : Nat × Option Nat × DWord} {v : Warp} (hk : k ≠ c.wi)
    (hx : (c.t.gang n).arrived.find? (fun y => y.1 == k) = some x) (hv : c.t.warps[k]? = some v) :
    (latchOpened c n).t.warps[k]? = some (warpGoesOn n c.s.clock x.2.2 v) := by
  rw [latchOpened_eq, arrivalsGoOn_warp, if_neg hk, hx]
  simp only [Ctx.team, updAt_get, if_neg hk, hv, Option.map_some, Option.elim_some]

theorem goesOn_split {v : Warp} {p : Split} {m : Nat} (hp : p ∈ v.splits) (h : p.arrival = some (.gang n m)) (now : Nat) (pc : DWord) :
    ∃ q ∈ (warpGoesOn n now pc v).splits, q.seq = p.seq ∧ q.pc = pc ∧ q.arrival = none ∧ q.blk = 0 := by
  refine ⟨goOn n now pc p, ?_, ?_⟩
  · rw [Warp.splits, warpGoesOn, ← List.map_append]
    exact List.mem_map_of_mem hp
  · rw [goOn_waiting h]
    exact ⟨rfl, rfl, rfl, rfl⟩

theorem arrives_follows (c : Ctx) (n : Nat) (i : Instr) (vals : List Word) : Follows c (arrives c n i vals) :=
  ⟨rfl, rfl, rfl, rfl, fun h => h, rfl, fun _ h => h⟩

/-! ## How a member's instruction ends (spec/08 R231, spec/09 R249) -/

section JointWait
variable (hstand : ∀ k ∈ gangWarps c.team n, ∃ w, c.team.warps[k]? = some w ∧ w.done = false)
include hstand

/-- No member has finished, however that is asked. -/
theorem no_member_done {f : Nat → Bool} (hf : ∀ k w, c.team.warps[k]? = some w → f k = w.done) : ¬(gangWarps c.team n).any f = true := by
  rw [List.any_eq_true]
  rintro ⟨k, hk, hend⟩
  obtain ⟨w, hw, hdone⟩ := hstand k hk
  rw [hf k w hw, hdone] at hend
  cases hend

/-- A member is missing. -/
theorem jointWait_missing (hmiss : ∃ k ∈ gangWarps c.team n, ∀ x ∈ (c.t.gang n).arrived, x.1 ≠ k) :
    jointWait c n finish = .block c 4 := by
  obtain ⟨k, hk, hne⟩ := hmiss
  refine (if_neg (no_member_done hstand fun k w hw => by rw [hw])).trans (if_pos ?_)
  rw [Bool.not_eq_true', List.all_eq_false]
  exact ⟨k, hk, by simpa using fun f pc h => hne (k, f, pc) h rfl⟩

/-- The last member has arrived, and the effect can be had. -/
theorem jointWait_last (hall : ∀ k ∈ gangWarps c.team n, ∃ x ∈ (c.t.gang n).arrived, x.1 = k)
    (hgo : finish c ((c.t.gang n).arrived.map (fun x => (x.1, x.2.1))) = .go u) :
    jointWait c n finish = .done (latchOpened u n) := by
  refine (if_neg (no_member_done hstand fun k w hw => by rw [hw])).trans ((if_neg ?_).trans ?_)
  · rw [Bool.not_eq_true', Bool.not_eq_false, List.all_eq_true]
    intro k hk
    obtain ⟨x, hx, rfl⟩ := hall k hk
    exact List.contains_iff_mem.mpr (List.mem_map_of_mem hx)
  · rw [hgo]
    rfl

end JointWait

section Joint
variable {word : Word} (harr : c.p.arrival = none)
include harr

theorem joint_token (hword : (c.t.gang n).word = none) (htoken : c.t.mtx.token ≠ n) :
    joint c n word vals finish = .trapC causeTOKEN := by
  simp only [joint, harr, hword, htoken, ne_eq, not_false_eq_true, if_true]

/-- The latch holds another word or other operands (R231). -/
theorem joint_mismatch (hword : (c.t.gang n).word.isSome) (hnew : ∀ x ∈ (c.t.gang n).arrived, x.1 ≠ c.wi)
    (hne : ¬((c.t.gang n).word = some word ∧ (c.t.gang n).vals = vals)) :
    joint c n word vals finish = latchTrap c n (plain causeGANG) := by
  obtain ⟨x, hx⟩ := Option.isSome_iff_exists.mp hword
  have hmine : (c.t.gang n).arrived.any (fun x => x.1 == c.wi) = false := List.any_eq_false.mpr (by simpa using hnew)
  have hother : x ≠ word ∨ (c.t.gang n).vals ≠ vals := by
    by_cases hsame : x = word
    · exact .inr fun hvals => hne ⟨hsame ▸ hx, hvals⟩
    · exact .inl hsame
  simp only [joint, harr, hx, hmine, Bool.false_eq_true, if_false, if_pos hother]
  rfl

theorem joint_arrives (h : (c.t.gang n).word = none ∧ (c.t.gang n).arrived = [] ∧ c.t.mtx.token = n ∨
      ((c.t.gang n).word = some ((encode i).getD 0) ∧ (c.t.gang n).vals = vals) ∧ ∀ x ∈ (c.t.gang n).arrived, x.1 ≠ c.wi) :
    joint c n ((encode i).getD 0) vals finish = jointWait (arrives c n i vals) n finish := by
  rcases h with ⟨hword, -, htoken⟩ | ⟨⟨hword, hvals⟩, hnew⟩
  · simp only [joint, harr, hword, htoken, ne_eq, not_true_eq_false, if_false]
    rfl
  · have hmine : (c.t.gang n).arrived.any (fun x => x.1 == c.wi) = false := List.any_eq_false.mpr (by simpa using hnew)
    simp only [joint, harr, hword, hmine, hvals, Bool.false_eq_true, if_false, ne_eq, not_true_eq_false, or_self]
    rfl

end Joint

/-- The last arrival of an instruction whose effect can be had: the instruction completes and the latch opens. -/
theorem last_completes (h : Issuing s c) (hg : gangOf c.t c.w = some n) (harr : c.p.arrival = none)
    (he : exec i s = .next (finishRes c (joint c n ((encode i).getD 0) vals finish)))
    (hsame : (c.t.gang n).word = some ((encode i).getD 0) ∧ (c.t.gang n).vals = vals) (hnew : ∀ x ∈ (c.t.gang n).arrived, x.1 ≠ c.wi)
    (hall : ∀ k ∈ gangWarps c.t n, k = c.wi ∨ ∃ x ∈ (c.t.gang n).arrived, x.1 = k)
    (hstand : ∀ k ∈ gangWarps c.t n, ∃ w, c.t.warps[k]? = some w ∧ w.done = false)
    (hgo : finish (arrives c n i vals) ((c.t.gang n).arrived.map (fun x => (x.1, x.2.1)) ++ [(c.wi, flagOf c.p.setA)]) = .go u)
    (hu : Follows (arrives c n i vals) u) : Completes i s (latchOpened u n) (c.p.pc + 4) := by
  have hn := lt_gangs_of_gangOf hg
  have hplace : Follows c u := (arrives_follows c n i vals).trans hu
  obtain ⟨-, hwarp, hsplit⟩ := hplace.facts h
  refine CoreInstructions.completes_of_end h ?_ (hplace.trans (latchOpened_follows hwarp hsplit n))
  rw [he, joint_arrives harr (.inr ⟨hsame, hnew⟩), jointWait_last (u := u) (members_stand_arrives h hn hstand)]
  · intro k hk
    rw [arrives_gang hn]
    rcases hall k ((mem_gangWarps_arrives h hn).mp hk) with rfl | ⟨x, hx, rfl⟩
    · exact ⟨_, List.mem_append_right _ (List.mem_singleton_self _), rfl⟩
    · exact ⟨x, List.mem_append_left _ hx, rfl⟩
  · rw [arrives_gang hn, List.map_append]
    exact hgo

/-! ## The instructions that go through the latch (spec/08 R231, spec/09 R247, R249, R261) -/

section Instructions
variable {f : FmtT} {g : BitVec 4}

/-- The matrix instructions of a format. -/
def matrixInstrs (f : FmtT) : List Instr := [.mma f, .mmax f, .mxt f, .mxp f, .mxs f]

/-- The scalar operands of a matrix instruction. -/
def matrixVals (f : FmtT) (c : Ctx) : List Word := [c.w.sr (sNum f.a), c.w.sr (sNum f.a + 1), c.w.sr (sNum f.b)]

/-- The operation that a matrix instruction asks for. -/
def matrixOp (f : FmtT) (c : Ctx) (i : Instr) : MtxOp := mtxOp (bitsOf ((encode i).getD 0) 24 8) (f.full == 1) (matrixVals f c)

/-- Whether the operands of a matrix instruction may be named. -/
def matrixChecks (f : FmtT) (c : Ctx) (i : Instr) : Bool :=
  tilesOk c f.full f.c && isSPair f.a && isSReg f.b && (matrixOp f c i).ok (c.w.sr (sNum f.b))

/-- What the last arrival of a matrix instruction does: it posts the request once its regions are ready. -/
def matrixPost (f : FmtT) (c : Ctx) (i : Instr) (d : Ctx) (who : List (Nat × Option Nat)) : Joint :=
  match postFate d (matrixOp f c i) with
  | .trap x => .trap x
  | .block n => .block n
  | .go => .go (post d (matrixOp f c i) ((encode i).getD 0) (matrixVals f c) (namedTiles c f.full f.c) who)

/-- The token handed to the other gang than n. -/
def tokenPassed (n : Nat) (d : Ctx) : Ctx := { d with t := { d.t with mtx := { d.t.mtx with token := 1 - n } } }

theorem exec_matrixInstrs (f : FmtT) (s : State) : ∀ i ∈ matrixInstrs f, exec i s = matrixForm s f i :=
  List.map_inj_left.mp rfl

theorem mem_jointOps {r : Instr × List Word × Bool} (hr : r ∈ jointOps f c) :
    (∃ i ∈ matrixInstrs f, r = (i, matrixVals f c, matrixChecks f c i)) ∨ r = (.tkpass f.g, [], true) := by
  rcases List.mem_append.mp hr with hr | hr
  · obtain ⟨i, hi, rfl⟩ := List.mem_map.mp hr
    exact .inl ⟨i, hi, rfl⟩
  · exact .inr (List.mem_singleton.mp hr)

theorem exec_matrix_joint (hi : i ∈ matrixInstrs f) (h : Issues s .executeOnly c) (hact : c.act f.g ≠ 0) (hh : c.inHandler = false)
    (hok : matrixChecks f c i = true) (hg : gangOf c.t c.w = some n) :
    exec i s = .next (finishRes c (joint c n ((encode i).getD 0) (matrixVals f c) (matrixPost f c i))) := by
  refine (exec_matrixInstrs f s i hi).trans ((issue_of h _).trans (congrArg (fun r => Host.Outcome.next (finishRes c r)) ?_))
  simp only [orIllop, hh, Bool.false_and, Bool.not_false, if_true, hg, if_neg hact]
  exact if_pos hok

theorem exec_tkpass_joint (h : Issues s .executeOnly c) (hact : c.act g ≠ 0) (hh : c.inHandler = false) (hg : gangOf c.t c.w = some n) :
    exec (.tkpass g) s = .next (finishRes c (joint c n ((encode (.tkpass g)).getD 0) [] (fun d _ => .go (tokenPassed n d)))) := by
  refine (issue_of h _).trans (congrArg (fun r => Host.Outcome.next (finishRes c r)) ?_)
  simp only [orIllop, hh, Bool.not_false, if_true, hg, if_neg hact]
  rfl

/-- Each of them ends as the latch says. -/
theorem exec_jointOps {r : Instr × List Word × Bool} (hr : r ∈ jointOps f c) (h : Issues s .executeOnly c) (hact : c.act f.g ≠ 0)
    (hh : c.inHandler = false) (hok : r.2.2 = true) (hg : gangOf c.t c.w = some n) :
    ∃ finish, exec r.1 s = .next (finishRes c (joint c n ((encode r.1).getD 0) r.2.1 finish)) := by
  rcases mem_jointOps hr with ⟨i, hi, rfl⟩ | rfl
  · exact ⟨_, exec_matrix_joint hi h hact hh hok hg⟩
  · exact ⟨_, exec_tkpass_joint h hact hh hg⟩

/-! ## The posting of a request (spec/09 R249) -/

variable {o : MtxOp} {word : Word} {tiles : List Nat} {who : List (Nat × Option Nat)}

theorem postFate_go (hplace : ∀ r ∈ o.regions, (r.place c.t).isSome ∧ slotPoisonOf c.s c.t r.handle = none)
    (hfull : ∀ r ∈ o.regions, ∀ off, r.place c.t = some off → ∀ k ∈ regionGranules off r.bytes, granuleFull c.t k = true)
    (hroom : (c.s.cluster c.cluster).table.length < 32) : postFate c o = .go := by
  have hfits : o.regions.find? (fun r => (r.place c.t).isNone) = none :=
    List.find?_eq_none.mpr fun r hr => by simp [Option.isSome_iff_ne_none.mp (hplace r hr).1]
  have hpoison : o.regions.findSome? (fun r => slotPoisonOf c.s c.t r.handle) = none :=
    List.findSome?_eq_none_iff.mpr fun r hr => (hplace r hr).2
  simp only [postFate, hfits, hpoison]
  refine (if_neg ?_).trans (if_neg (Nat.not_le.mpr hroom))
  rw [Bool.not_eq_true', Bool.not_eq_false, List.all_eq_true]
  intro r hr
  obtain ⟨off, hoff⟩ := Option.isSome_iff_exists.mp (hplace r hr).1
  rw [hoff]
  exact List.all_eq_true.mpr (hfull r hr off hoff)

theorem matrixPost_ready (h : postFate u (matrixOp f c i) = .go) : matrixPost f c i u who =
    .go (post u (matrixOp f c i) ((encode i).getD 0) (matrixVals f c) (namedTiles c f.full f.c) who) := by
  rw [matrixPost, h]

/-- The warps of a team once a request is bound to the flag of one of them. -/
def flagBound (l : List Warp) (x : Nat × Option Nat) : List Warp := updAt l x.1 (fun w => w.bind x.2)

theorem post_t : (post c o word vals tiles who).t = { c.team with warps := who.foldl flagBound c.team.warps } :=
  foldl_warps flagBound who c.team

/-- A posting leaves the gangs as they are. -/
theorem post_mtx : (post c o word vals tiles who).t.mtx = c.t.mtx := by
  rw [post_t]
  rfl

theorem post_gang : (post c o word vals tiles who).t.gang n = c.t.gang n := by
  rw [Team.gang, post_mtx]
  rfl

theorem bound_tables (who : List (Nat × Option Nat)) (l : List Warp) :
    (who.foldl flagBound l).map Warp.table = l.map Warp.table :=
  List.foldlRecOn (motive := fun v : List Warp => v.map Warp.table = l.map Warp.table) who _ rfl
    fun _ hv x _ => (CoreInstructions.updAt_map (fun w => Warp.bind_table w x.2) ..).trans hv

theorem post_team? (id : Nat) : (post c o word vals tiles who).s.team? id = c.s.team? id :=
  foldl_team? (fun s i => s.updTile c.cluster i _) (fun _ _ _ => rfl) tiles _ id

theorem post_follows (hw : c.wi < c.t.warps.length) (hp : (findSplit c.w.table c.p.seq).isSome) :
    Follows c (post c o word vals tiles who) := by
  have htables : (post c o word vals tiles who).t.warps.map Warp.table = c.team.warps.map Warp.table := by
    rw [post_t]
    exact bound_tables ..
  refine follows_team (t := (post c o word vals tiles who).t) (.refl c) hw hp ?_ ?_ ?_ (fun id hid => (post_team? id).symm ▸ hid)
  · rw [post_t]
    rfl
  · simpa [Ctx.team, updAt_length] using congrArg List.length htables
  · rw [← List.getElem?_map, htables, List.getElem?_map]

end Instructions

end Lemmas
/-! ## The obligation -/

/-- Settles O24: GANG and TKWAIT end by themselves, the others as the latch says that their warp arrives at. -/
theorem gangsAndTokenComplete : Obligations.GangsAndTokenComplete := by
  refine ⟨?handler, ?gang, ?tkwait, ?arrival, ?tkpass, ?matrix⟩
  case handler =>
    intro f t g s c h hh
    refine ⟨traps_of h rfl ?_, fun hact => traps_of h rfl ?_, fun n hg i hi => traps_of h (exec_matrixInstrs t s i hi) ?_⟩
    · simp only [orIllop, hh]
      rfl
    · simp only [orIllop, hh, if_neg hact]
      rfl
    · simp only [orIllop, hh, hg]
      rfl
  case gang =>
    intro f s c c' vs h hh hact a b ha hb hmask hword
    refine reads_completes rfl h ?_ ((Follows.refl c').team' _ rfl rfl)
    obtain ⟨-, ho, hr⟩ := h
    have hlist : (bitsOf a 24 8 == 0 && bitsOf b 1 31 == 0 && gangMaskOk c.team (a.setWidth 24) (bitsOf b 0 1)) = true := by
      rw [ha, hb, hmask]
      rfl
    simp only [orIllop, hh, orIllopnd, opsAll ho, Bool.not_false, if_true, if_neg hact, hr]
    exact (if_pos hlist).trans (if_neg (by rw [hword]; exact Bool.false_ne_true))
  case tkwait =>
    intro g s c h hact
    refine ⟨fun hg => ⟨traps_of h rfl ?_, fun hh => traps_of h rfl ?_⟩,
      fun n hg => ⟨fun htoken => completes_of h rfl ?_ (.refl c), fun htoken => ?_⟩⟩
    · simp only [if_neg hact, hg]
      rfl
    · simp only [if_neg hact, orIllop, hh, hg]
      rfl
    · simp only [if_neg hact, hg, if_pos htoken]
    · refine (issue_of h _).trans ?_
      simp only [if_neg hact, hg, if_neg htoken]
  case arrival =>
    intro f s c n r hr h hact hh hok hg harr hstand gang same
    obtain ⟨finish, he⟩ := exec_jointOps hr h hact hh hok hg
    have hn := lt_gangs_of_gangOf hg
    refine ⟨fun hword htoken => ?token, fun hword hnew hne => ?mismatch, fun harrives hmiss => ?waits⟩
    case token => rw [Traps, he, joint_token harr hword htoken]; rfl
    case mismatch => rw [he, joint_mismatch harr hword hnew hne]
    case waits =>
      rw [he, joint_arrives harr harrives, jointWait_missing (members_stand_arrives h.1 hn hstand)]
      obtain ⟨k, hk, hself, hne⟩ := hmiss
      refine ⟨k, (mem_gangWarps_arrives h.1 hn).mpr hk, ?_⟩
      rw [arrives_gang hn]
      intro x hx
      rcases List.mem_append.mp hx with hx | hx
      · exact hne x hx
      · rw [List.mem_singleton.mp hx]
        exact hself.symm
  case tkpass =>
    intro g s c n h hact hh hg harr hword hvals hnew hall hstand
    have hn := lt_gangs_of_gangOf hg
    let u := tokenPassed n (arrives c n (.tkpass g) [])
    have hu : Follows (arrives c n (.tkpass g) []) u := ⟨rfl, rfl, rfl, rfl, fun h => h, rfl, fun _ h => h⟩
    have hlatch := latchOpened_gang (c := u) (n := n) ((arrives_gangs ..).symm ▸ hn)
    exact ⟨latchOpened u n, last_completes h.1 hg harr (exec_tkpass_joint h hact hh hg) ⟨hword, hvals⟩ hnew hall hstand rfl hu, rfl,
      latchOpened_contents u n, latchOpened_w (c := u) h.1.facts.2.1 n, latchOpened_token u n, congrArg Gang.word hlatch,
      congrArg Gang.arrived hlatch⟩
  case matrix =>
    intro f s c n r hr hnot h hact hh hok hg harr gang word o hword hvals hnew hall hstand hplace hfull hroom u
    rcases mem_jointOps hr with ⟨i, hi, rfl⟩ | rfl
    · have hn := lt_gangs_of_gangOf hg
      have harrives := arrives_follows c n i (matrixVals f c)
      obtain ⟨-, hwarp, hsplit⟩ := harrives.facts h.1
      have hgo : matrixPost f c i (arrives c n i (matrixVals f c))
          (gang.arrived.map (fun x => (x.1, x.2.1)) ++ [(c.wi, flagOf c.p.setA)]) = .go u :=
        matrixPost_ready (postFate_go hplace hfull hroom)
      have hlatch := latchOpened_gang (c := u) (n := n) (by rw [post_mtx, arrives_gangs]; exact hn)
      refine ⟨latchOpened u n, last_completes h.1 hg harr (exec_matrix_joint hi h hact hh hok hg) ⟨hword, hvals⟩ hnew hall hstand hgo
        (post_follows hwarp hsplit), rfl, congrArg Gang.word hlatch, congrArg Gang.arrived hlatch, latchOpened_contents u n, ?_⟩
      intro k x v hk hx hv
      have harrived : (u.t.gang n).arrived.find? (fun y => y.1 == k) = some x := by
        rw [post_gang, arrives_gang hn, List.find?_append, hx]
        rfl
      exact ⟨_, latchOpened_member hk harrived hv, rfl, fun p hp m hm => goesOn_split hp hm _ _⟩
    · exact absurd rfl hnot

end Sys2Proof.MatrixGangs
end

section
/-! PROOFS. Events of the matrix engine, the drains, the exchange banks and the Runnel engines (spec/07 R215, spec/08 R229 to R241, R244, spec/09 R250, R257, R265, spec/11 R327): what each event answers in the states in which it acts. -/

namespace Sys2Proof.ClusterEvents
open Sys2Proof Sys2Proof.Machine Sys2Proof.Claims

section Lemmas
variable {s : State} {t : Team} {core eng g : Nat} {c : RunCmd}

/-! ## The matrix engine (spec/08 R229, R244, spec/09 R250) -/

section Engine
variable {k : Cluster} {q : MtxReq}

theorem mem_workingUnits {u : Nat} : u ∈ workingUnits k ↔ u < k.units.length ∧ k.units.getD u 0 < 2 := by
  rw [workingUnits, List.mem_filter, List.mem_range, decide_eq_true_iff]

theorem mem_freeUnits {u : Nat} : u ∈ freeUnits k ↔ u ∈ workingUnits k ∧ ∀ x ∈ k.passes, u ∉ x.units := by
  simp [freeUnits, List.mem_filter]

/-- The units that work are those of the cluster that pass the test which names their range too. -/
theorem workingUnits_eq (k : Cluster) : workingUnits k =
    (List.range k.units.length).filter (fun u => decide (u < k.units.length ∧ k.units.getD u 0 < 2)) :=
  List.filter_congr fun u hu => by simp [List.mem_range.mp hu]

theorem freeUnits_eq (k : Cluster) : freeUnits k = (List.range k.units.length).filter (fun u =>
    decide (u < k.units.length ∧ k.units.getD u 0 < 2) && !k.passes.any (fun p => p.units.contains u)) := by
  rw [freeUnits, workingUnits_eq, List.filter_filter]
  exact List.filter_congr fun _ _ => Bool.and_comm ..

theorem grantAt_passes {i : Nat} (h : k.table[i]? = some q) : (grantAt k i).passes =
    k.passes ++ [{ q with units := (freeUnits k).take (unitsOf k q), more := tileCount q - unitsOf k q }] := by
  rw [grantAt, h]

end Engine

theorem exec_matrixGrant {k i : Nat} (hrun : clockRuns s = true) (hready : (s.cluster k).ready = true) (hgate : s.pkg.gated = false)
    (harb : arbiter (s.cluster k) = some i) : exec (.matrixGrant k) s = .next (s.updCluster k (fun x => grantAt x i)) := by
  refine (CoreEvents.whenClocked_runs hrun).trans ?_
  simp only [hready, hgate, harb, Bool.not_true, Bool.or_self, Bool.false_eq_true, if_false]

section Pass
variable {k req : Nat} {q : MtxReq} (hrun : clockRuns s = true) (hq : (s.cluster k).passes.find? (fun q => q.id == req) = some q)
include hrun hq

/-- Tiles are left over and units free: the pass goes on there (R244). -/
theorem exec_passComplete_more (hmore : 0 < q.more) (hunits : q.units ≠ []) :
    exec (.passComplete k req) s = .next (s.updCluster k (fun x => { x with passes := x.passes.map (fun p => if p.id = req
      then { p with units := p.units.take p.more, more := p.more - p.units.length } else p) })) := by
  refine (CoreEvents.whenClocked_runs hrun).trans ?_
  rw [hq]
  exact if_pos ⟨hmore, hunits⟩

/-- No tile is left: the pass writes its tiles and releases its flags (R250). -/
theorem exec_passComplete_last (ht : s.team? q.team = some t) (hlast : q.more = 0 ∨ q.units = []) :
    exec (.passComplete k req) s = .next (opEnded (q.members.foldl (fun s m => s.unbind q.team m.1 m.2)
      ((performPass s k q t).updCluster k (fun x => { x with passes := x.passes.filter (fun p => p.id != req) }))) q.team) := by
  refine (CoreEvents.whenClocked_runs hrun).trans ?_
  rw [hq]
  refine (if_neg ?_).trans ?_
  · rintro ⟨hmore, hunits⟩
    exact hlast.elim (Nat.ne_of_gt hmore) hunits
  · rw [ht]

end Pass

/-! ## Drains to scratchpad (spec/09 R257) -/

section Drain
variable {op : Nat} {d : Drain} {x : Nat × List Byte} (hrun : clockRuns s = true) (hd : s.die.drains.find? (fun d => d.op == op) = some d)
  (hx : d.granules.find? (fun x => x.1 == g) = some x)
include hrun hd hx

theorem exec_cdrainGranuleWrite_last (hleft : d.granules.filter (fun y => y.1 != g) = []) : exec (.cdrainGranuleWrite op g) s =
    .next (opEnded ((s.updTeam d.team (fun t => { t with scr := t.scr.land op g (wholeBytes (16 * g) x.2) })).updDie
      (fun y => { y with drains := y.drains.filter (fun z => z.op != op) })) d.team) := by
  have hop : d.op = op := by simpa using List.find?_some hd
  refine (CoreEvents.whenClocked_runs hrun).trans ?_
  simp only [hd, hx, hleft, hop, List.isEmpty_nil, if_true]

theorem exec_cdrainGranuleWrite_more (hleft : d.granules.filter (fun y => y.1 != g) ≠ []) : exec (.cdrainGranuleWrite op g) s =
    .next ((s.updTeam d.team (fun t => { t with scr := t.scr.land op g (wholeBytes (16 * g) x.2) })).updDie (fun y => { y with
      drains := y.drains.map (fun z => if z.op = op then { z with granules := d.granules.filter (fun y => y.1 != g) } else z) })) := by
  have hop : d.op = op := by simpa using List.find?_some hd
  refine (CoreEvents.whenClocked_runs hrun).trans ?_
  simp only [hd, hx, hop, List.isEmpty_eq_false_iff.mpr hleft, Bool.false_eq_true, if_false]

end Drain

/-! ## Exchange banks (spec/08 R241) -/

theorem exec_cbarSwap {id : Nat} {i : CbarInstance} {rest : List CbarInstance} (hrun : clockRuns s = true) (ht : s.team? id = some t)
    (hb : (launchCbar s t.ident.launch).pending = i :: rest)
    (hst : ∀ x ∈ launchTeams s t.ident.launch, x.status = .resident ∨ x.status = .halted ∨ x.status = .finished ∨ x.status = .killed)
    (hall : cbarComplete s t.ident.launch i = true) (hland : cbarLanded s i = true) :
    let u := setCbar s t.ident.launch { next := (launchCbar s t.ident.launch).next, pending := rest }
    exec (.cbarSwap id) s = .next { u with teams := u.teams.map (fun x => if x.ident.launch = t.ident.launch then x.swapBanks else x) } := by
  refine (CoreEvents.whenClocked_runs hrun).trans ?_
  have hpresent : (launchTeams s t.ident.launch).all (fun x =>
      x.status == .resident || x.status == .halted || x.status == .finished || x.status == .killed) = true :=
    List.all_eq_true.mpr fun x hx => by simpa [or_assoc] using hst x hx
  simp only [ht, hb, hpresent, hall, hland, Bool.and_self, if_true]

/-! ## Runnel engines (spec/08 R233, R237, R238, spec/09 R265) -/

section Runnel
variable (hrun : clockRuns s = true) (hc : headCmd s core eng = some (c, t))
include hrun hc

section Start
variable (hready : ((s.core core).runnels.getD eng Runnel.reset).ready = true) (hnew : c.started = false)
include hready hnew

/-- The command of a team that has ended completes without effect (spec/11 R306). -/
theorem exec_runnelCommandStart_ended (hend : t.status = .finished ∨ t.status = .killed) :
    exec (.runnelCommandStart core eng) s = .next (endCmd s core eng c) := by
  refine (CoreEvents.whenClocked_runs hrun).trans ?_
  simp only [hready, hc, hnew, if_pos hend, Bool.not_true, Bool.false_eq_true, if_false]

/-- The command of a live team that waits for no page starts, or stops where a page was refused. -/
theorem exec_runnelCommandStart_live (hlive : ¬(t.status = .finished ∨ t.status = .killed)) (hpages : c.missing = []) :
    exec (.runnelCommandStart core eng) s = .next (c.poison.elim
      (if c.drain then startDrain s t core eng c else if lanesDone s t c.warp c.lanes c.id then startFill s t core eng c else s)
      (fun x => stopCmd s core eng c x.1 x.2)) := by
  refine (CoreEvents.whenClocked_runs hrun).trans ?_
  simp only [hready, hc, hnew, if_neg hlive, hpages, List.isEmpty_nil, Bool.not_true, Bool.false_eq_true, if_false]
  cases c.poison <;> rfl

end Start

section Land
variable {x : Nat × List Byte} (hheld : ∀ h ∈ t.scr.held, h.mark ≤ c.id → g ∉ h.granules)
  (hx : c.granules.find? (fun x => x.1 == g) = some x)
include hheld hx

theorem exec_fillGranuleLand : exec (.fillGranuleLand core eng g) s =
    .next (let u := s.updTeam c.team (fun t => { t with scr := t.scr.land c.id g (wholeBytes (16 * g) x.2) })
      let left := c.granules.filter (fun y => y.1 != g)
      if left.isEmpty then endCmd u core eng c else updCmd u core eng c.id (fun y => { y with granules := left })) := by
  have hfree : t.scr.held.any (fun h => decide (h.mark ≤ c.id) && h.granules.contains g) = false :=
    List.any_eq_false.mpr fun h hh => by simpa using hheld h hh
  refine (CoreEvents.whenClocked_runs hrun).trans ?_
  simp only [hc, hfree, hx, Bool.false_eq_true, if_false]

end Land

section Writes
variable (hdrain : c.drain = true) (hstart : c.started = true) (hpages : c.missing = [])
include hdrain hstart hpages

theorem exec_sdrainWritesDone_refused {x : BitVec 8 × Nat} (hx : c.poison = some x) :
    exec (.sdrainWritesDone core eng) s = .next (stopCmd s core eng c x.1 x.2) := by
  refine (CoreEvents.whenClocked_runs hrun).trans ?_
  simp [hc, hdrain, hstart, hpages, hx]

theorem exec_sdrainWritesDone_behind (hx : c.poison = none) (hahead : storesAhead s core t.ident.job c.writes = true) :
    exec (.sdrainWritesDone core eng) s = .next s := by
  refine (CoreEvents.whenClocked_runs hrun).trans ?_
  simp [hc, hdrain, hstart, hpages, hx, hahead]

/-- How the command goes on once its writes have ended, with the machine v they leave, those left and those performed so far. -/
def drainEnded (v : State) (core eng job : Nat) (c : RunCmd) (left wrote : List (Nat × Byte × Byte)) : DrainEnd → State
  | .done => endCmd v core eng c
  | .miss va => updCmd (waitPages v core job eng c [va]) core eng c.id (fun x => { x with writes := left, wrote := wrote })
  | .fault cause va => stopCmd v core eng c cause va

/-- The writes of a drain that nothing precedes are performed, and the lines they cover lose their marks (spec/11 R327). -/
theorem exec_sdrainWritesDone_performs {u : State} {e : DrainEnd} {left : List (Nat × Byte × Byte)} (hx : c.poison = none)
    (hahead : storesAhead s core t.ident.job c.writes = false) (hp : performWrites core t.ident.job s c.writes = (u, e, left)) :
    exec (.sdrainWritesDone core eng) s = .next (
      let wrote := c.wrote ++ c.writes.take (c.writes.length - left.length)
      drainEnded (if u.die.l2Poison = [] then u else clearCovered u (coveredBytes u core t.ident.job wrote)) core eng t.ident.job c left wrote e) := by
  refine (CoreEvents.whenClocked_runs hrun).trans ?_
  have hacts : ¬((!c.drain) = true ∨ (!c.started) = true ∨ (!c.missing.isEmpty) = true) := by simp [hdrain, hstart, hpages]
  simp only [hc, if_neg hacts, hx, hahead, hp, List.isEmpty_iff, Bool.false_eq_true, if_false]
  cases e <;> rfl

end Writes

end Runnel

end Lemmas

/-! ## The obligation -/

/-- Settles O44: each event acts once its guards pass; a grant takes the first of the free units. -/
theorem engineEvents : Obligations.EngineEvents := by
  refine ⟨?grant, ?units, ?passMore, ?passLast, ?drainGranule, ?swap, ?start, ?land, ?writes⟩
  case grant => exact fun k i s hrun hready hgate harb => exec_matrixGrant hrun hready hgate harb
  case units =>
    intro k i q hq works need
    have hneed : unitsOf k q = need := congrArg (fun l => min (tileCount q) l.length) (workingUnits_eq k)
    refine ⟨_, grantAt_passes hq, rfl, rfl, congrArg (tileCount q - ·) hneed, ?_, fun u hu => ?_⟩
    · rw [List.length_take, hneed, freeUnits_eq]
    · obtain ⟨hworks, hfree⟩ := mem_freeUnits.mp (List.mem_of_mem_take hu)
      exact ⟨decide_eq_true (mem_workingUnits.mp hworks), hfree⟩
  case passMore => exact fun k req q s hrun hq hmore hunits => exec_passComplete_more hrun hq hmore hunits
  case passLast => exact fun k req q t s hrun hq ht hlast => exec_passComplete_last hrun hq ht hlast
  case drainGranule =>
    exact fun op g d x s hrun hd hx => ⟨exec_cdrainGranuleWrite_last hrun hd hx, exec_cdrainGranuleWrite_more hrun hd hx⟩
  case swap => exact fun id t i rest s hrun ht hb hst hall hland => exec_cbarSwap hrun ht hb hst hall hland
  case start =>
    intro core eng c t s hrun hready hc hnew
    refine ⟨exec_runnelCommandStart_ended hrun hc hready hnew, fun hfin hkill hpages => ?_⟩
    rw [exec_runnelCommandStart_live hrun hc hready hnew (not_or.mpr ⟨hfin, hkill⟩) hpages]
    refine ⟨fun x hx => ?_, fun hx hdrain => ?_, fun hx hdrain hlanes => ?_⟩
    · rw [hx, Option.elim_some]
    · rw [hx, Option.elim_none, if_pos hdrain]
    · rw [hx, Option.elim_none, hdrain, if_neg Bool.false_ne_true, if_pos hlanes]
  case land =>
    intro core eng g c t x s hrun hc hheld hx
    rw [exec_fillGranuleLand hrun hc hheld hx]
    exact ⟨fun hleft => congrArg _ (if_pos (List.isEmpty_iff.mpr hleft)),
      fun hleft => congrArg _ (if_neg (mt List.isEmpty_iff.mp hleft))⟩
  case writes =>
    intro core eng c t s u left hrun hc hdrain hstart hpages
    refine ⟨fun x hx => exec_sdrainWritesDone_refused hrun hc hdrain hstart hpages hx,
      fun hx hahead => exec_sdrainWritesDone_behind hrun hc hdrain hstart hpages hx hahead, fun hx hahead => ?_⟩
    have performs {e} (hp : performWrites core t.ident.job s c.writes = (u, e, left)) :=
      exec_sdrainWritesDone_performs hrun hc hdrain hstart hpages hx hahead hp
    exact ⟨performs, fun va => performs, fun cause va => performs⟩

end Sys2Proof.ClusterEvents
end

section
/-! PROOFS. Instructions of a cluster (spec/08 R229, R233, R238, spec/09 R246 to R266): matrix requests of a warp in no gang, tiles, drains, MWAIT, OFENCE, PLANES, and the stream commands. Each instruction's checks are passed once in a lemma of its own, which says how it ends; each obligation reads it off. -/

namespace Sys2Proof.ClusterInstructions
open Sys2Proof Sys2Proof.Machine Sys2Proof.Claims Sys2Proof.MatrixGangs

section Lemmas
variable {s : State} {c c' : Ctx} {i : Instr} {roles : Roles} {g : BitVec 4}

/-- An instruction whose meaning is issue over a body ends as the body does. -/
theorem exec_ends {body : Ctx → Res} {r : Res} (h : Issues s roles c) (he : exec i s = issue s roles body) (hb : body c = r) :
    exec i s = .next (finishRes c r) := by
  rw [he, issue_of h, hb]

/-- An instruction that ends one way or another as a condition has it. -/
theorem exec_if {p : Prop} [Decidable p] {a b : Res} (he : exec i s = .next (finishRes c (if p then a else b))) :
    (p → exec i s = .next (finishRes c a)) ∧ (¬p → exec i s = .next (finishRes c b)) :=
  ⟨fun hp => by rwa [if_pos hp] at he, fun hp => by rwa [if_neg hp] at he⟩

/-- Where f maps some element of l to each of m, it maps one into m just when m is not empty. -/
theorem any_contains_iff {α : Type} {l : List α} {m : List Nat} {f : α → Nat} (hm : ∀ y ∈ m, ∃ x ∈ l, f x = y) :
    l.any (fun x => m.contains (f x)) = true ↔ m ≠ [] := by
  rw [List.any_eq_true]
  constructor
  · rintro ⟨x, -, hx⟩
    exact List.ne_nil_of_mem (List.contains_iff_mem.mp hx)
  · intro hne
    obtain ⟨y, hy⟩ := List.exists_mem_of_ne_nil m hne
    obtain ⟨x, hx, rfl⟩ := hm y hy
    exact ⟨x, hx, List.contains_iff_mem.mpr hy⟩

/-! ## Matrix requests of a warp in no gang (spec/09 R247, R249) -/

section Matrix
variable {f : FmtT} {o : MtxOp}

/-- Every granule of every region of an operation is full. -/
def regionsFull (t : Team) (o : MtxOp) : Prop :=
  ∀ r ∈ o.regions, ∀ off, r.place t = some off → ∀ k ∈ regionGranules off r.bytes, granuleFull t k = true

theorem postFate_outside {r : Region} (hr : o.regions.find? (fun r => (r.place c.t).isNone) = some r) :
    postFate c o = .trap r.trap := by
  simp only [postFate, hr]

/-- With every region in its slot and none poisoned, the request waits for its granules, then for room in the table (steps 4 and 5 of R249). -/
theorem postFate_waits (hplace : ∀ r ∈ o.regions, (r.place c.t).isSome ∧ slotPoisonOf c.s c.t r.handle = none) :
    (¬regionsFull c.t o → postFate c o = .block 5) ∧
    (regionsFull c.t o → 32 ≤ (c.s.cluster c.cluster).table.length → postFate c o = .block 4) := by
  have hfits : o.regions.find? (fun r => (r.place c.t).isNone) = none :=
    List.find?_eq_none.mpr fun r hr => by simp [Option.isSome_iff_ne_none.mp (hplace r hr).1]
  have hpoison : o.regions.findSome? (fun r => slotPoisonOf c.s c.t r.handle) = none :=
    List.findSome?_eq_none_iff.mpr fun r hr => (hplace r hr).2
  simp only [postFate, hfits, hpoison]
  refine ⟨fun hempty => if_pos ?_, fun hfull hroom => (if_neg ?_).trans (if_pos hroom)⟩
  · rw [Bool.not_eq_true', Bool.eq_false_iff]
    intro hall
    refine hempty fun r hr off hoff => ?_
    have hregion := List.all_eq_true.mp hall r hr
    rw [hoff] at hregion
    exact List.all_eq_true.mp hregion
  · rw [Bool.not_eq_true', Bool.not_eq_false, List.all_eq_true]
    intro r hr
    obtain ⟨off, hoff⟩ := Option.isSome_iff_exists.mp (hplace r hr).1
    rw [hoff]
    exact List.all_eq_true.mpr (hfull r hr off hoff)

/-- How a matrix instruction of a warp in no gang ends, with u the context once its request is posted. -/
def aloneEnd (c u : Ctx) : PostFate → Res
  | .trap x => .trap x
  | .block n => .block c n
  | .go => .done u

section Alone
variable (hi : i ∈ matrixInstrs f) (h : Issues s .executeOnly c) (hg : gangOf c.t c.w = none) (hok : matrixChecks f c i = true)
include hi h hg hok

/-- Without an active lane nothing is posted. -/
theorem matrix_inactive_completes (hact : c.act f.g = 0) : Completes i s c (c.p.pc + 4) := by
  refine completes_of h (exec_matrixInstrs f s i hi) ?_ (.refl c)
  simp only [orIllop, hg, Option.isSome_none, Bool.and_false, Bool.not_false, if_true, hact]
  exact if_pos hok

theorem exec_matrix_alone (hact : c.act f.g ≠ 0) : exec i s = .next (finishRes c (aloneEnd c
    (post c (matrixOp f c i) ((encode i).getD 0) (matrixVals f c) (namedTiles c f.full f.c) [(c.wi, flagOf c.p.setA)])
    (postFate c (matrixOp f c i)))) := by
  refine exec_ends h (exec_matrixInstrs f s i hi) ?_
  simp only [orIllop, hg, Option.isSome_none, Bool.and_false, Bool.not_false, if_true, if_neg hact]
  exact if_pos hok

end Alone

end Matrix

/-! ## Tiles outside passes (spec/09 R254, R255) -/

/-- Changes of tiles keep the split in its place. -/
theorem updTiles_follows (c : Ctx) (k : Nat) (f : State → Nat → Tile → Tile) (l : List Nat) :
    Follows c { c with s := l.foldl (fun s i => s.updTile k i (f s i)) c.s } :=
  (Follows.refl c).state _ fun id hid => (foldl_team? (fun s i => s.updTile k i (f s i)) (fun _ _ _ => rfl) l c.s id).symm ▸ hid

/-- CZERO whose tiles are the team's zeroes them, when a lane is active. -/
theorem czero_completes {full : BitVec 1} {n : BitVec 4} (h : Issues s .executeOnly c) (ht : tilesOk c full n = true) :
    (c.act g = 0 → Completes (.czero g full n) s c (c.p.pc + 4)) ∧
    (c.act g ≠ 0 → Completes (.czero g full n) s
      { c with s := (namedTiles c full n).foldl (fun s i => writeTile s c.cluster i (fun _ => { cells := [], fill := .zero })) c.s }
      (c.p.pc + 4)) := by
  refine ⟨fun hact => completes_of h rfl ?_ (.refl c), fun hact => completes_of h rfl ?_ (updTiles_follows ..)⟩
  · simp only [orIllopnd, ht, hact, if_true]
  · simp only [orIllopnd, ht, hact, if_true, if_false]

/-- CREAD and CWRITE act on the tile that the lowest active lane names, at the coordinates the lanes read. -/
theorem elemForm_completes {f : FmtA} {vs : List (Nat → DWord)} {body : Ctx → LaneMask → Nat → (Nat → Nat) → Ctx}
    (he : exec i s = elemForm s f body) (h : Reads s .executeOnly c f.g [op32 .int f.a] c' vs) (hd : regOk c f.d.toNat = true)
    (hb : tileSpecOk f.b = true) (hbok : (op32 .int f.b).ok c = true) (hact : c.act f.g ≠ 0)
    (hn : bitsOf ((op32 .int f.b).value c (lane0 (c.act f.g))) 0 4 < c.t.mtx.tiles.length) :
    let tile := c'.t.mtx.tiles.getD (bitsOf ((op32 .int f.b).value c (lane0 (c.act f.g))) 0 4) 0
    let u := body c' (c.act f.g) tile (fun L => elemKey (val vs 0 L))
    Follows c' u → Completes i s u (c.p.pc + 4) := by
  intro tile u hu
  have ⟨_, hops, hread⟩ := h
  refine reads_completes he h ?_ hu
  simp only [orIllopnd, hd, hops _ List.mem_cons_self, hb, hbok, Bool.and_self, if_true, if_neg hact, hn, decide_true, hread]
  rfl

/-- A tile that no request is outstanding on reads as it stands (R218). -/
theorem tileWords_of_waited {k n : Nat} (h : (s.tile k n).unwaited = []) : tileWords s k n = (s.tile k n).words :=
  if_pos (List.isEmpty_iff.mpr h)

/-! ## CDRAIN, MWAIT and PLANES (spec/09 R256 to R259, R262) -/

theorem cdrain_completes {f : FmtT} {o1 o2 : Nat} (h : Issues s .executeOnly c) (ht : tilesOk c f.full f.c = true)
    (ha : isSReg f.a = true) (hb : isSReg f.b = true) (hact : c.act f.g ≠ 0)
    (hctl : bitsOf (c.w.sr (sNum f.b)) 5 27 = 0) (hfmt : drainFmtOk (bitsOf (c.w.sr (sNum f.b)) 0 4) = true) :
    let fmt := bitsOf (c.w.sr (sNum f.b)) 0 4
    let R := if f.full = 1 then 128 else 64
    ({ h := c.w.sr (sNum f.a), next := false, bytes := drainBytes fmt R } : Region).place c.t = some o1 →
    (if fmt = 1 then ({ h := c.w.sr (sNum f.a), next := true, bytes := scaleBytes R R } : Region).place c.t else some 0) = some o2 →
    let tiles := namedTiles c f.full f.c
    let words := (tiles.map (tileWords c.s c.cluster)).toArray
    let img := drainImage fmt R (bitOf (c.w.sr (sNum f.b)) 4) (fun r k =>
      (words.getD (2 * (r / 64) + k / 64) { cells := [], fill := .zero }).get (64 * (r % 64) + k % 64))
    Completes (.cdrain f) s { c with s := c.s.spendTags.fresh.2.updDie (fun d => { d with drains := d.drains ++
      [{ op := c.s.spendTags.fresh.1, team := c.t.id, tiles := tiles
         granules := cutGranules img.1.length o1 img.1 ++ cutGranules img.2.length o2 img.2 }] }) } (c.p.pc + 4) := by
  intro fmt R hslot hscale tiles words img
  refine completes_of h rfl ?_ ((Follows.refl c).state _ fun _ hid => hid)
  simp only [orIllopnd, ht, ha, hb, hctl, hfmt, beq_self_eq_true, Bool.and_self, if_true, if_neg hact]
  rw [hslot, hscale]

/-- The requests and the drains on some tiles that MWAIT waits for, as it finds them at its first issue. -/
def mwaitMarks (c : Ctx) (tiles : List Nat) : List Nat × List Nat :=
  (dedup (tiles.flatMap (fun i => (c.s.tile c.cluster i).unwaited)),
   (c.s.die.drains.filter (fun d => d.team == c.t.id && d.tiles.any tiles.contains)).map (·.op))

section Mwait
variable {all full : BitVec 1} {n : BitVec 4}

/-- MWAIT at its first issue waits while one of its marks is outstanding; every drain it marks is. -/
theorem exec_mwait_first (h : Issues s .executeOnly c)
    (hd : all = 1 ∧ full = 0 ∧ n = 0 ∨ all = 0 ∧ tilesOk c full n = true) (hact : c.act g ≠ 0) (harr : c.p.arrival = none) :
    let tiles := mwaitTiles c all full n
    let marks := mwaitMarks c tiles
    let k := c.s.cluster c.cluster
    exec (.mwait g all full n) s = .next (finishRes c
      (if (∃ q ∈ k.table ++ k.passes, q.team = c.t.id ∧ q.id ∈ marks.1) ∨ marks.2 ≠ [] then
        .block { c with p := { c.p with arrival := some (.mwait marks.1 marks.2) } } 4
      else .done { c with s := (tiles.foldl (fun s i =>
        s.updTile c.cluster i (coverTile (s.freeTag + 1 + i) marks.1)) c.s).spendTags })) := by
  intro tiles marks k
  have hbits : (all == 0 || (full == 0 && n == 0)) = true ∧ (all == 1 || tilesOk c full n) = true := by
    rcases hd with ⟨rfl, rfl, rfl⟩ | ⟨rfl, ht⟩
    · exact ⟨rfl, rfl⟩
    · exact ⟨rfl, ht⟩
  have hdrains : c.s.die.drains.any (fun d => marks.2.contains d.op) = true ↔ marks.2 ≠ [] :=
    any_contains_iff fun y hy =>
      have ⟨d, hd, hop⟩ := List.mem_map.mp hy
      ⟨d, (List.mem_filter.mp hd).1, hop⟩
  have hrequests : (k.table ++ k.passes).any (fun q => q.team == c.t.id && marks.1.contains q.id) = true ↔
      ∃ q ∈ k.table ++ k.passes, q.team = c.t.id ∧ q.id ∈ marks.1 := by
    simp only [List.any_eq_true, Bool.and_eq_true, beq_iff_eq, List.contains_iff_mem]
  refine exec_ends h rfl ?_
  simp only [orIllop, orIllopnd, hbits, if_true, if_neg hact, harr]
  exact ite_congr (propext (or_congr hrequests hdrains)) (fun _ => rfl) (fun _ => rfl)

/-- With ALL set every other bit of D must be 0 (R259). -/
theorem mwait_all_traps (h : Issues s .executeOnly c) (hd : full ≠ 0 ∨ n ≠ 0) : Traps (.mwait g 1 full n) s c (plain causeILLOP) := by
  have hbits : (full == 0 && n == 0) = false := Bool.and_eq_false_iff.mpr (hd.imp beq_eq_false_iff_ne.mpr beq_eq_false_iff_ne.mpr)
  refine traps_of h rfl ?_
  simp only [orIllop, hbits]
  rfl

end Mwait

theorem planes_completes {f : FmtA} {off : Nat} (h : Issues s .executeOnly c) (hd : regOk c f.d.toNat = true) (ha : isSReg f.a = true)
    (hb : isSReg f.b = true) (hact : c.act f.g ≠ 0) :
    let ctl := c.w.sr (sNum f.b)
    let b := fmtBits (ctlFmt ctl)
    let R := if bitOf ctl 8 then 128 else 64
    bitsOf ctl 20 12 = 0 → 1 ≤ ctlFmt ctl → ctlFmt ctl ≤ 7 → bitsOf ctl 9 7 < R → 32 * bitsOf ctl 16 4 < ctlK ctl →
    ({ h := c.w.sr (sNum f.a), next := false, bytes := codeBytes b R (ctlK ctl) } : Region).place c.t = some off →
    Completes (.planes f) s ((lanesOf (c.act f.g)).foldl (fun x L =>
      x.scrStore L (planeWrites off b R (ctlK ctl) (bitsOf ctl 9 7) (32 * bitsOf ctl 16 4 + L) (x.w.v f.d.toNat L))) c) (c.p.pc + 4) := by
  intro ctl b R hz hlo hhi hrow hgrp hslot
  refine completes_of h rfl ?_ (Follows.foldl _ (fun _ _ => scrStore_follows ..) _ c)
  have hfmt : 1 ≤ ctlFmt ctl ∧ ctlFmt ctl ≤ 7 := ⟨hlo, hhi⟩
  have hchecks : (regOk c f.d.toNat && isSReg f.a && isSReg f.b && bitsOf ctl 20 12 == 0 && decide (1 ≤ ctlFmt ctl ∧ ctlFmt ctl ≤ 7) &&
      decide (bitsOf ctl 9 7 < R) && decide (32 * bitsOf ctl 16 4 < ctlK ctl)) = true := by
    simp only [hd, ha, hb, hz, hfmt, hrow, hgrp, beq_self_eq_true, and_self, decide_true, Bool.and_self]
  refine (if_pos hchecks).trans ((if_neg hact).trans ?_)
  dsimp only
  rw [hslot]

/-! ## Stream commands (spec/09 R264, R265) -/

section Slay
variable {n : BitVec 2} {a : BitVec 7} {ps : List Place} {es : List TlbEntry}

/-- The layout record that a SLAY reads. -/
def layoutRead (c : Ctx) (ps : List Place) : BitVec 512 := BitVec.ofNat 512 (readElem c.s c.t ps)

/-- SLAY whose address passes its checks waits for earlier accesses, then takes a layout that keeps the limits of R235. -/
theorem exec_slay (h : Issues s .both c) (ha : isSPair a = true) (hact : c.act g ≠ 0) :
    let va := (c.w.s64 (sNum a)).toNat
    va % 64 = 0 → va < globalTop → globalPlaces c.s c.agent va 64 .r = .ok ps es → elemPoisoned c.s c.t.core ps = false →
    elemL2Poisoned c.s ps = false →
    exec (.slay g n a) s = .next (finishRes c
      (if overtakesAny c ((lanesOf (c.act g)).map (fun L => (L, ps))) = true then .block c 5
      else orIllopnd (layoutOk (layoutRead c ps)) (.done { c.noteTlb es with
        t := { c.t with mtx := { c.t.mtx with layouts := updAt c.t.mtx.layouts n.toNat (fun _ => some (layoutRead c ps)) } } }))) := by
  intro va hal htop hplaces hbad hbad2
  refine exec_ends h rfl ((if_pos ha).trans ((if_neg hact).trans ((if_neg fun hne => hne hal).trans ((if_neg (Nat.not_le.mpr htop)).trans ?_))))
  rw [hplaces]
  dsimp only
  rw [hbad, hbad2]
  rfl

end Slay

section Command
variable {e n : BitVec 2} {a : BitVec 7} {l : BitVec 512}

/-- SFILL, or SDRAIN. -/
def commandInstr (g : BitVec 4) (e n : BitVec 2) (a : BitVec 7) (drain : Bool) : Instr := if drain then .sdrain g e n a else .sfill g e n a

theorem exec_commandInstr (g : BitVec 4) (e n : BitVec 2) (a : BitVec 7) (drain : Bool) (s : State) :
    exec (commandInstr g e n a drain) s = commandForm s g e n a drain := by
  cases drain <;> rfl

/-- The command that an SFILL or SDRAIN appends. -/
def commandOf (c : Ctx) (act : LaneMask) (a : BitVec 7) (l : BitVec 512) (drain : Bool) : RunCmd :=
  { id := c.s.fresh.1, team := c.t.id, warp := c.wi, lanes := act, drain := drain, flag := flagOf (if drain then c.p.setB else c.p.setA)
    layout := l, handle := c.w.sr (sNum a), origin := (List.range 5).map (fun i => (c.w.sr (sNum a + 1 + i)).toInt)
    started := false, granules := [], writes := [], missing := [], poison := none, wrote := [] }

/-- The context once a command stands last in the FIFO of engine e. -/
def appended (c : Ctx) (e : Nat) (x : RunCmd) : Ctx :=
  { c with
    s := c.s.fresh.2.updCore c.t.core (fun k => { k with runnels := updAt k.runnels e (fun r => { r with fifo := r.fifo ++ [x] }) })
    t := c.t.signals (.cmd c.s.nextId) c.wi x.lanes
    w := c.w.bind x.flag }

theorem appended_follows (c : Ctx) (e : Nat) (x : RunCmd) : Follows c (appended c e x) :=
  ⟨rfl, rfl, rfl, rfl, fun hp => (bind_table c.w x.flag).symm ▸ hp, rfl, fun _ hid => hid⟩

/-- A command whose box has its slots goes to the engine's FIFO, or waits for room in it. -/
theorem exec_command {drain : Bool} (h : Issues s .both c) (hlo : 0x40 ≤ a.toNat) (hhi : a.toNat ≤ 0x5A) (hact : c.act g ≠ 0)
    (hl : c.t.mtx.layouts.getD n.toNat none = some l) (hplanes : (drain && layPlanes l) = false)
    (horg : hasScales l = false ∨ (c.w.sr (sNum a + 1)).toInt % 8 = 0 ∧ (c.w.sr (sNum a + 2)).toInt % 64 = 0)
    (hslot : (slotPlace c.t (c.w.sr (sNum a)) false (boxBytes l)).isSome)
    (hscale : hasScales l = false ∨ (slotPlace c.t (c.w.sr (sNum a)) true (scaleBytes (layBox l 1) (layBox l 0))).isSome) :
    exec (commandInstr g e n a drain) s = .next (finishRes c
      (if 16 ≤ fifoUsed ((c.s.core c.t.core).runnels.getD e.toNat Runnel.reset) then .block c 5
      else .done (appended c e.toNat (commandOf c (c.act g) a l drain)))) := by
  refine exec_ends h (exec_commandInstr g e n a drain s) ?_
  have hchecks : (!(drain && layPlanes l) && (!hasScales l || ((c.w.sr (sNum a + 1)).toInt % 8 == 0 &&
      (c.w.sr (sNum a + 2)).toInt % 64 == 0))) = true := by
    rcases horg with hplain | ⟨hband, hblock⟩
    · simp [hplanes, hplain]
    · simp [hplanes, hband, hblock]
  have hscaled : ¬(hasScales l && (slotPlace c.t (c.w.sr (sNum a)) true (scaleBytes (layBox l 1) (layBox l 0))).isNone) = true := by
    rcases hscale with hplain | hfits
    · simp [hplain]
    · simp [Option.isSome_iff_ne_none.mp hfits]
  refine (if_pos (decide_eq_true ⟨hlo, hhi⟩)).trans ((if_neg hact).trans ?_)
  rw [hl]
  exact (if_pos hchecks).trans ((if_neg (by simpa using Option.isSome_iff_ne_none.mp hslot)).trans (if_neg hscaled))

end Command

/-! ## SWAIT (spec/08 R238, spec/09 R266) -/

section Swait
variable {m : BitVec 4}

/-- The drains of the context's warp that have stopped at the engines of a mask. -/
def stoppedAt (c : Ctx) (m : BitVec 4) : List StoppedDrain :=
  c.t.stopped.filter (fun x => x.warp == c.wi && (maskEngines m).contains x.engine)

theorem bitOf_of_mem_maskEngines {k : Nat} (h : k ∈ maskEngines m) : bitOf m k = true := (List.mem_filter.mp h).2

theorem stoppedAt_nil (h : ∀ d ∈ c.t.stopped, d.warp ≠ c.wi ∨ bitOf m d.engine = false) : stoppedAt c m = [] := by
  refine List.filter_eq_nil_iff.mpr fun d hd hmine => ?_
  obtain ⟨hwarp, hengine⟩ := Bool.and_eq_true_iff.mp hmine
  rcases h d hd with hne | hbit
  · exact hne (beq_iff_eq.mp hwarp)
  · rw [bitOf_of_mem_maskEngines (List.contains_iff_mem.mp hengine)] at hbit
    cases hbit

theorem swait_empty_traps (h : Issues s .both c) : Traps (.swait g 0) s c (plain causeILLOP) :=
  traps_of h rfl rfl

variable (h : Issues s .both c) (hm : m ≠ 0) (hact : c.act g ≠ 0) (harr : c.p.arrival = none)
include h hm hact harr

/-- No drain of the warp has stopped: SWAIT waits for the commands that stand, then for the reads its lanes owe. -/
theorem exec_swait_running (hnone : stoppedAt c m = []) : exec (.swait g m) s = .next (finishRes c
    (if pendingCmds c (maskEngines m) ≠ [] then
      .block { c with p := { c.p with arrival := some (.swait (pendingCmds c (maskEngines m))) } } 5
    else afterReads c (c.act g) (.done c))) := by
  have hpending : (pendingCmds c (maskEngines m)).any (pendingCmds c (maskEngines m)).contains = true ↔
      pendingCmds c (maskEngines m) ≠ [] :=
    any_contains_iff (f := fun x => x) fun y hy => ⟨y, hy, rfl⟩
  refine exec_ends h rfl ((if_pos (bne_iff_ne.mpr hm)).trans ((if_neg hact).trans ?_))
  rw [stoppedAt] at hnone
  simp only [hnone, harr, List.map_nil, List.append_nil, List.filter_nil, firstBy]
  exact ite_congr (propext hpending) (fun _ => rfl) (fun _ => rfl)

/-- One drain of the warp has stopped: it is reported, and its flag released. -/
theorem exec_swait_stopped {d : StoppedDrain} (hone : stoppedAt c m = [d]) : exec (.swait g m) s = .next (finishRes c (.trapWith { c with
      t := { c.t with stopped := c.t.stopped.filter (fun x => x.id != d.id) }
      w := c.w.unbind d.flag
      p := { c.p with arrival := some (.swait (pendingCmds c (maskEngines m) ++ [d.id])) } } (trapAddr causeSLOTPOISON d.va.toNat 0)
        c.p.unitPc)) := by
  refine exec_ends h rfl ((if_pos (bne_iff_ne.mpr hm)).trans ((if_neg hact).trans ?_))
  have hmarked : (pendingCmds c (maskEngines m) ++ [d.id]).contains d.id = true := by simp
  rw [stoppedAt] at hone
  simp only [hone, harr, List.map_cons, List.map_nil, List.filter_cons, hmarked, if_true, List.filter_nil, firstBy]

end Swait

end Lemmas

/-! ## The obligations -/

/-- Settles O21: a warp in no gang posts its request alone, and postFate says what it meets. -/
theorem matrixRequestsComplete : Obligations.MatrixRequestsComplete := by
  intro f s c i hi h hg ht ha hb word vals o ho
  have hok : matrixChecks f c i = true := by
    rw [matrixChecks, ht, ha, hb]
    exact ho
  refine ⟨matrix_inactive_completes hi h hg hok, fun hact => ?_⟩
  have he := exec_matrix_alone hi h hg hok hact
  have ends {x} (hx : postFate c o = x) := hx ▸ he
  refine ⟨fun r hr => ends (postFate_outside hr), fun hplace => ?_⟩
  intro full
  obtain ⟨hempty, hcrowded⟩ := postFate_waits hplace
  obtain ⟨-, hwarp, hsplit⟩ := h.1.facts
  exact ⟨fun hne => ends (hempty hne), fun hfull hroom => ends (hcrowded hfull hroom), fun hfull hroom =>
    CoreInstructions.completes_of_end h.1 (ends (postFate_go hplace hfull hroom)) (post_follows hwarp hsplit)⟩

/-- Settles O22: CZERO writes its tiles, CREAD and CWRITE the element of each active lane. -/
theorem tileElementsComplete : Obligations.TileElementsComplete := by
  refine ⟨fun g full n s c h ht => czero_completes h ht, ?_⟩
  intro f s c c' vs n h hd hb hbok hact hn hlen k i
  subst hn
  refine ⟨fun hwaited => ?read, ?write⟩
  case read =>
    have hread := elemForm_completes (i := .cread f) (execCread.eq_def f s) h hd hb hbok hact hlen
      (((Follows.refl c').state c'.s.spendTags (fun _ hid => hid)).warp _ rfl)
    rw [← tileWords_of_waited hwaited]
    exact hread
  case write =>
    exact elemForm_completes (i := .cwrite f) (execCwrite.eq_def f s) h hd hb hbok hact hlen ((Follows.refl c').state _ (fun _ hid => hid))

/-- Settles O23: CDRAIN, OFENCE and PLANES complete; MWAIT waits for the marks of its first issue. -/
theorem drainsAndWaitsComplete : Obligations.DrainsAndWaitsComplete := by
  refine ⟨?cdrain, ?mwait, fun _ _ _ _ _ h hd => mwait_all_traps h hd, fun _ _ _ h => completes_of h rfl rfl (scrFence_follows ..), ?planes⟩
  case cdrain => exact fun f s c o1 o2 h ht ha hb hact hctl => cdrain_completes h ht ha hb hact hctl
  case mwait =>
    intro g all full n s c h hd hact harr tiles marks drains k busy
    obtain ⟨hwait, hgo⟩ := exec_if (exec_mwait_first h hd hact harr)
    exact ⟨hwait, fun hfree => CoreInstructions.completes_of_end h.1 (hgo hfree)
      ((updTiles_follows ..).trans ((Follows.refl _).state _ fun _ hid => hid))⟩
  case planes => exact fun f s c off h hd ha hb hact => planes_completes h hd ha hb hact

/-- Settles O27: SLAY, SFILL and SDRAIN pass their checks and wait or act; SWAIT reports a stopped drain first. -/
theorem streamCommandsComplete : Obligations.StreamCommandsComplete := by
  refine ⟨?slay, ?command, ?swait⟩
  case slay =>
    intro g n a s c ps es h ha hact va hal htop hplaces hbad hbad2 waits r
    obtain ⟨hwait, hgo⟩ := exec_if (exec_slay (n := n) h ha hact hal htop hplaces hbad hbad2)
    have goes (hw : waits = false) := exec_if (hgo (Bool.eq_false_iff.mp hw))
    exact ⟨hwait,
      fun hw hok => CoreInstructions.completes_of_end h.1 ((goes hw).1 hok) ((noteTlb_follows c es).team' _ rfl rfl),
      fun hw hok => (goes hw).2 (Bool.eq_false_iff.mp hok)⟩
  case command =>
    intro g e n a drain s c l h hlo hhi hact hl hplanes horg hd hslot hscale i flag k
    obtain ⟨hwait, hgo⟩ := exec_if (exec_command (e := e) h hlo hhi hact hl hplanes horg hslot hscale)
    exact ⟨hwait, fun hroom => CoreInstructions.completes_of_end h.1 (hgo (Nat.not_le.mpr hroom)) (appended_follows ..)⟩
  case swait =>
    intro g m s c h
    refine ⟨?_, fun hm hact harr hnone => ?_, fun d hm hact harr hone => exec_swait_stopped h hm hact harr hone⟩
    · rintro rfl
      exact swait_empty_traps h
    · obtain ⟨hwait, hgo⟩ := exec_if (exec_swait_running h hm hact harr (stoppedAt_nil hnone))
      refine ⟨fun hidle hreads => CoreInstructions.completes_of_end h.1 ?_ (.refl c), hwait⟩
      exact (exec_if (hgo (not_not_intro hidle))).2 (Bool.eq_false_iff.mp hreads)

end Sys2Proof.ClusterInstructions
end

section
/-! PROOFS. Work of the die (spec/10 R271 to R295) and the command queues that bring it (spec/12 R334 to R336): SPAWN, TSIG, TWAIT and PREEMPT, the dispatcher's events on a task, and the host's events on a queue. -/

namespace Sys2Proof.DieWork
open Sys2Proof Sys2Proof.Machine Sys2Proof.Claims

section Lemmas
variable {s : State} {c c' : Ctx} {g : BitVec 4} {t : Task} {task q : Nat}

/-! ## What a publication leaves: every team is still there -/

theorem writeAgent_team? (s : State) (slot pa n v : Nat) {id : Nat} (h : (s.team? id).isSome) :
    ((writeAgent s slot pa n v).team? id).isSome :=
  touchPools_team? _ _ _ ((congrArg Option.isSome (writeBytes_team? ..)).trans h)

theorem dispatcherPage_team? (s : State) (job page id : Nat) : (dispatcherPage s job page).team? id = s.team? id := by
  unfold dispatcherPage
  split <;> rfl

theorem writeVa64_team? (s : State) (job va : Nat) (v : DWord) {id : Nat} (h : (s.team? id).isSome) :
    ((writeVa64 s job va v).team? id).isSome := by
  unfold writeVa64
  split
  · exact h
  · split
    · exact writeAgent_team? _ _ _ _ _ h
    · exact (congrArg Option.isSome (dispatcherPage_team? ..)).trans h
    · exact h

theorem writeStatus_team? (s : State) (t : Task) (st : TaskState) (code failTeam : Nat) {id : Nat} (h : (s.team? id).isSome) :
    ((writeStatus s t st code failTeam).team? id).isSome := by
  unfold writeStatus
  dsimp only
  split
  · exact writeAgent_team? _ _ _ _ _ h
  · exact writeVa64_team? _ _ _ _ h

theorem publish_team? (s : State) (host : Bool) (addr : Nat) (r : BitVec 1024) (job depth prio : Nat) {id : Nat}
    (h : (s.team? id).isSome) : ((publish s host addr r job depth prio).team? id).isSome := by
  unfold publish
  dsimp only
  split
  · exact writeStatus_team? _ _ _ _ _ h
  · exact h

/-! ## The range of a task instruction (spec/10 R292 to R294) -/

/-- The uniform range at va passes every check of a task instruction, and its access need not wait. -/
structure RangePasses (c : Ctx) (va align n : Nat) (need : Need) (ps : List Place) (es : List TlbEntry) : Prop where
  aligned : va % align = 0
  inside : va + n ≤ globalTop
  places : globalPlaces c.s c.agent va n need = .ok ps es
  clean : elemPoisoned c.s c.t.core ps = false
  cleanL2 : elemL2Poisoned c.s ps = false
  free : overtakesAny c ((lanesOf c.p.mask).map (fun L => (L, ps))) = false

theorem uniformRange_passes {va align n : Nat} {need : Need} {ps : List Place} {es : List TlbEntry}
    (h : RangePasses c va align n need ps es) (k : List Place → List TlbEntry → Res) : uniformRange c va align n need k = k ps es := by
  unfold uniformRange
  rw [if_neg (not_not_intro h.aligned), if_neg (Nat.not_lt.mpr h.inside), h.places]
  dsimp only
  simp only [h.clean, h.cleanL2, h.free, Bool.false_eq_true, and_false, if_false]

/-! ## SPAWN, TSIG, TWAIT, PREEMPT (spec/10 R292 to R295) -/

theorem spawn_deep_traps {a : BitVec 7} (h : Issues s .both c) (ha : isSPair a = true) (hact : c.act g ≠ 0)
    (hdepth : 4 ≤ c.t.ident.depth) : Traps (.spawn g a) s c (trapAddr causeSPAWNDEPTH (c.w.s64 (sNum a)).toNat 0) :=
  traps_of h rfl ((if_pos ha).trans ((if_neg hact).trans (if_pos hdepth)))

/-- The context of a SPAWN whose record r is published. -/
def spawned (c : Ctx) (act : LaneMask) (es : List TlbEntry) (va : Nat) (r : BitVec 1024) : Ctx :=
  let e := (c.noteTlb es).releases act
  { e with s := publish e.s false va r c.t.ident.job (c.t.ident.depth + 1) (min (recPrio r) c.t.ident.prio) }

theorem spawned_follows (c : Ctx) (act : LaneMask) (es : List TlbEntry) (va : Nat) (r : BitVec 1024) : Follows c (spawned c act es va r) :=
  ((noteTlb_follows c es).trans (releases_follows ..)).state _ (fun _ hid => publish_team? _ _ _ _ _ _ _ hid)

theorem spawn_completes {a : BitVec 7} {ps : List Place} {es : List TlbEntry} (h : Issues s .both c) (ha : isSPair a = true)
    (hact : c.act g ≠ 0) (hdepth : c.t.ident.depth < 4) (hr : RangePasses c (c.w.s64 (sNum a)).toNat 128 128 .r ps es)
    (hroom : recordsHeld c.s < Config.maxRecords) (hrel : releaseReady c (c.act g) 3 = true) :
    Completes (.spawn g a) s (spawned c (c.act g) es (c.w.s64 (sNum a)).toNat (BitVec.ofNat 1024 (readElem c.s c.t ps))) (c.p.pc + 4) := by
  refine completes_of h rfl ((if_pos ha).trans ((if_neg hact).trans ((if_neg (Nat.not_le.mpr hdepth)).trans ?_))) (spawned_follows ..)
  rw [uniformRange_passes hr, if_neg (Nat.not_le.mpr hroom), afterRelease, if_pos hrel]
  rfl

theorem tsig_completes {f : FmtAB} {vs : List (Nat → DWord)} {ps : List Place} {es : List TlbEntry}
    (h : Reads s .both c f.g [op32 .int f.b] c' vs) (ha : isSPair f.a = true) (hact : c.act f.g ≠ 0)
    (hr : RangePasses c (c.w.s64 (sNum f.a)).toNat 8 8 .rw ps es) (hrel : releaseReady c (c.act f.g) 3 = true) :
    Completes (.tsig f) s (((c'.noteTlb es).putNow 0 (placeBytes ps (sluiceSignal (BitVec.ofNat 64 (readElem c.s c.t ps))
      (bitsOf (val vs 0 (lane0 (c.act f.g))) 0 32)).toNat)).releases (c.act f.g)) (c.p.pc + 4) := by
  have ⟨_, hops, hread⟩ := h
  have hok : (isSPair f.a && (op32 .int f.b).ok c) = true := by rw [ha, hops _ (List.mem_singleton.mpr rfl)]; rfl
  refine reads_completes rfl h ((if_pos hok).trans ((if_neg hact).trans ?_))
    (((noteTlb_follows c' es).trans (putNow_follows ..)).trans (releases_follows ..))
  rw [uniformRange_passes hr, hread]
  exact if_pos hrel

section Twait
variable {f : FmtU} {ps : List Place} {es : List TlbEntry} {i : Instr} {full : Bool}

/-- The sluice word that a TWAIT reads. -/
def sluiceRead (c : Ctx) (ps : List Place) : DWord := BitVec.ofNat 64 (readElem c.s c.t ps)

/-- The context in which D holds the word that ended the wait, from one that has acquired or not. -/
def sluiceTaken (c : Ctx) (f : FmtU) (act : LaneMask) (es : List TlbEntry) (v : DWord) : Ctx :=
  (c.noteTlb es).setD f.d.toNat true act (fun _ => v)

theorem sluiceTaken_follows (c : Ctx) (f : FmtU) (act : LaneMask) (es : List TlbEntry) (v : DWord) : Follows c (sluiceTaken c f act es v) :=
  (noteTlb_follows c es).trans (setD_follows ..)

/-- TWAIT whose range passes its checks waits while FULL is not as wanted; a wait for full also waits for the reads its lanes owe. -/
theorem exec_twait (he : exec i s = twait s f full) (h : Issues s .both c) (ha : isSPair f.a = true) (hd : pairOk c f.d.toNat = true)
    (hact : c.act f.g ≠ 0) (hr : RangePasses c (c.w.s64 (sNum f.a)).toNat 8 8 .r ps es) :
    exec i s = .next (finishRes c (if sluiceFull (sluiceRead c ps) ≠ full then .block c 10
      else if full then afterReads c (c.act f.g) (.done (sluiceTaken (c.acquires (c.act f.g)) f (c.act f.g) es (sluiceRead c ps)))
      else .done (sluiceTaken c f (c.act f.g) es (sluiceRead c ps)))) := by
  have hok : (isSPair f.a && pairOk c f.d.toNat) = true := by rw [ha, hd]; rfl
  refine ClusterInstructions.exec_ends h he ((if_pos hok).trans ((if_neg hact).trans ((uniformRange_passes hr _).trans ?_)))
  exact ite_congr (propext bne_iff_ne) (fun _ => rfl) (fun _ => rfl)

end Twait

section Preempt
variable {n : BitVec 20}

theorem preempt_index_traps (h : Issues s .both c) (hn : c.t.ident.kern.nlive ≤ n.toNat) :
    Traps (.preempt g n) s c (plain causeILLOPND) :=
  traps_of h rfl (if_neg (by simpa using hn))

/-- PREEMPT that is no point, for want of a lane, of a request or of the rest of the warp, has no effect. -/
theorem preempt_passes_completes (h : Issues s .both c) (hn : n.toNat < c.t.ident.kern.nlive)
    (hno : c.act g = 0 ∨ c.t.save.request = none ∨ c.p.mask ≠ ~~~c.w.exited) : Completes (.preempt g n) s c (c.p.pc + 4) :=
  completes_of h rfl ((if_pos (decide_eq_true hn)).trans (if_pos (hno.imp_right (Or.imp_left Option.isNone_iff_eq_none.mpr)))) (.refl c)

/-- PREEMPT of a whole warp whose team is to be saved is its point. -/
theorem preempt_point_completes (h : Issues s .both c) (hn : n.toNat < c.t.ident.kern.nlive) (hact : c.act g ≠ 0)
    (hsave : c.t.save.request.isSome) (hwhole : c.p.mask = ~~~c.w.exited) :
    Completes (.preempt g n) s (c.withW { c.w with atPoint := some n.toNat }) (c.p.pc + 4) := by
  refine completes_of h rfl ((if_pos (decide_eq_true hn)).trans (if_neg ?_)) ((Follows.refl c).warp _ rfl)
  exact not_or.mpr ⟨hact, not_or.mpr ⟨by simpa [Option.isSome_iff_ne_none] using hsave, not_not_intro hwhole⟩⟩

end Preempt

/-! ## Publication and reports (spec/10 R274, R277) -/

/-- A record that passes its checks waits with its kernel, judged on its sluices as they then stand. -/
def admitted (s : State) (t : Task) : State :=
  let u := writeStatus s t .waiting 0 0
  u.updTask t.id (fun x => { x with
    kern := some (withScratch (kernelOf (recKdesc t.record) ((readDescriptor s t).getD 0)) t.record), refused := [], judged := judge u t })

/-- What the first check of a record that does not pass, or good, makes of it. -/
def validated (s : State) (t : Task) : Item → State
  | .bad code => writeStatus s t .refused code 0
  | .wait page => taskWaits s t page
  | .good => admitted s t

theorem task?_id (h : s.task? task = some t) : t.id = task := by simpa using List.find?_some h

/-- A held record of a job that runs, waiting for no page, ends as its checks say. -/
theorem exec_taskPublish (hrun : clockRuns s = true) (ht : s.task? task = some t) (hheld : t.st = .held) (hjob : jobRuns s t.job = true)
    (hwait : t.wait = []) : exec (.taskPublish task) s = .next (validated s t (firstItem (recordItems s t))) := by
  obtain rfl := task?_id ht
  have hacts : ¬(t.st ≠ .held ∨ (!jobRuns s t.job) = true ∨ (!t.wait.isEmpty) = true) := by simp [hheld, hjob, hwait]
  refine (CoreEvents.whenClocked_runs hrun).trans ?_
  rw [ht]
  refine (if_neg hacts).trans ?_
  cases firstItem (recordItems s t) <;> rfl

theorem exec_sluiceWriteReport (hrun : clockRuns s = true) (ht : s.task? task = some t) (hst : t.st = .waiting) :
    exec (.sluiceWriteReport task) s = .next (s.updTask task (fun x => { x with judged := judge s t })) := by
  refine (CoreEvents.whenClocked_runs hrun).trans ?_
  rw [ht]
  exact if_pos hst

/-! ## Dispatch (spec/10 R278, R281, R282) -/

theorem bitsOf_ofNat {n lo w : Nat} (h : lo + w ≤ n) (v : Nat) : bitsOf (BitVec.ofNat n v) lo w = v / 2 ^ lo % 2 ^ w := by
  obtain ⟨r, rfl⟩ := Nat.exists_eq_add_of_le (Nat.le_of_add_right_le h)
  rw [bitsOf, BitVec.toNat_ofNat, Nat.shiftRight_eq_div_pow, Nat.pow_add, Nat.mod_mul_right_div_self]
  exact Nat.mod_mod_of_dvd _ (Nat.pow_dvd_pow 2 (by omega))

/-- The machine in which a task's consumed sluices are consumed and it is no longer waiting. -/
def taken (s : State) (t : Task) : State :=
  writeStatus ((consume s t).updTask t.id (fun x => { x with judged := none, dispatched := true })) t .dispatched 0 0

/-- A task dispatched with a grid. -/
def gridded (t : Task) (g : Nat) : Task :=
  { t with st := .dispatched, judged := none, dispatched := true, gx := bitsOf (BitVec.ofNat 64 g) 0 32
           gy := bitsOf (BitVec.ofNat 64 g) 32 16, gz := bitsOf (BitVec.ofNat 64 g) 48 16 }

theorem gridded_eq (t : Task) (g : Nat) : gridded t g = { t with
    st := .dispatched, judged := none, dispatched := true, gx := g % 2 ^ 32, gy := g / 2 ^ 32 % 2 ^ 16, gz := g / 2 ^ 48 % 2 ^ 16 } := by
  rw [gridded, bitsOf_ofNat (by decide), bitsOf_ofNat (by decide), bitsOf_ofNat (by decide), Nat.pow_zero, Nat.div_one]

/-- A task that goes to its grid g in the machine s; one of no teams is complete. -/
def goesToGrid (s : State) (t : Task) (g : Nat) : State :=
  if gridTeams g = 0 then completeTask (s.updTask t.id (fun _ => gridded t g)) (gridded t g) else s.updTask t.id (fun _ => gridded t g)

section Dispatch
variable (hrun : clockRuns s = true) (hfirst : firstBy servedBefore (dispatchable s) = some t)
include hrun hfirst

theorem exec_taskDispatch_changed (hcons : consumable s t = false) :
    exec (.taskDispatch t.id) s = .next (s.updTask t.id (fun x => { x with judged := judge s t })) := by
  refine (CoreEvents.whenClocked_runs hrun).trans ?_
  rw [hfirst]
  refine (if_neg (not_not_intro rfl)).trans (if_pos ?_)
  rw [hcons]
  rfl

/-- The first task whose sluices hold what it was judged on waits for the page of its size word, or takes its grid. -/
theorem exec_taskDispatch_takes (hcons : consumable s t = true) : exec (.taskDispatch t.id) s = .next ((gridMiss s t).elim
    ((dispatchGrid (taken s t) t).elim (fun code => writeStatus (taken s t) t .refused code 0) (goesToGrid (taken s t) t))
    (taskWaits s t)) := by
  refine (CoreEvents.whenClocked_runs hrun).trans ?_
  rw [hfirst]
  refine (if_neg (not_not_intro rfl)).trans ((if_neg (by simp [hcons])).trans ?_)
  cases gridMiss s t with
  | some page => rfl
  | none =>
    rw [Option.elim_none, taken]
    dsimp only
    split
    · rename_i hcode
      rw [hcode, Sum.elim_inl]
    · rename_i g hg
      rw [hg, Sum.elim_inr, goesToGrid, gridded_eq]

end Dispatch

/-! ## Placement and completion (spec/10 R271, R272, R279, R287) -/

/-- What the window of a task does with its next unit u, its scalars at hand. -/
def windowEnd (s : State) (t : Task) (k : Kernel) (u : PlaceUnit) (sregs : List Word) : State :=
  (placeOf s t k u).elim (preemptFor s t k u) (fun sites =>
    if ((placedTasks s).find? (fun x => (placeable s x).isSome)).map (·.id) ≠ some t.id then s
    else (raiseNeeded s k sites).elim (placeSites s t k u sites sregs) (fun x => s.updCore x.1 (fun y => { y with raising := some x.2 })))

theorem exec_placementWindow {u : PlaceUnit} {k : Kernel} {sregs : List Word} (hrun : clockRuns s = true) (ht : s.task? t.id = some t)
    (hdisp : t.dispatched = true) (hjob : jobRuns s t.job = true) (hunit : nextUnit s t = some u) (hkern : t.kern = some k)
    (hargs : (if u.fresh then argScalars s t else .inr []) = .inr sregs) :
    exec (.placementWindow t.id) s = .next (windowEnd s t k u sregs) := by
  refine (CoreEvents.whenClocked_runs hrun).trans ?_
  have hnext : (if t.dispatched && jobRuns s t.job then nextUnit s t else none) = some u := by rw [hdisp, hjob]; exact hunit
  rw [ht]
  dsimp only
  rw [hnext, hkern]
  dsimp only
  rw [hargs, windowEnd]
  dsimp only
  cases placeOf s t k u with
  | none => rfl
  | some sites =>
    dsimp only [Option.elim_some]
    split
    · rfl
    · cases raiseNeeded s k sites <;> rfl

theorem exec_taskComplete (hrun : clockRuns s = true) (ht : s.task? task = some t) (hdone : taskDone s t = true) :
    exec (.taskComplete task) s = .next (completeTask s t) := by
  refine (CoreEvents.whenClocked_runs hrun).trans ?_
  rw [ht]
  exact congrArg _ (if_pos hdone)

/-! ## The host's writes to a command queue (spec/12 R334, R335) -/

theorem hostEvent_powered (h : s.pkg.power ≠ .off) (f : State → State) : hostEvent s f = .next (f (hostTouch s)) :=
  congrArg _ (if_neg h)

theorem startQueue_off (hst : cqState (cmdQueue s q).reg = 0) (hjob : (jobSlot s (cqJob (cmdQueue s q).reg)).isSome)
    (hlo : 4 ≤ cqLog (cmdQueue s q).reg) (hhi : cqLog (cmdQueue s q).reg ≤ 12) :
    startQueue q s = setCmdQueue s { cmdQueue s q with
      reg := setBits (setBits (setBits (cmdQueue s q).reg 128 16 0) 192 16 0) 256 2 1, phase := 1, ro := false, reads := 0, due := s.clock } :=
  if_neg (by simp [hst, Option.isSome_iff_ne_none.mp hjob, hlo, hhi])

theorem resumeQueue_error (hst : cqState (cmdQueue s q).reg = 2) :
    resumeQueue q s = setCmdQueue s { cmdQueue s q with reg := setBits (cmdQueue s q).reg 256 2 1, reads := 0, due := s.clock } :=
  if_pos hst

theorem notifyQueue_below {tail : Nat} (ro : Bool) (h : tail < 2 ^ cqLog (cmdQueue s q).reg) :
    notifyQueue q tail ro s = setCmdQueue s { cmdQueue s q with
      reg := setBits (cmdQueue s q).reg 192 16 tail, ro := ro, due := if (cmdQueue s q).reads = 0 then s.clock else (cmdQueue s q).due } :=
  if_neg (Nat.not_le.mpr h)

/-! ## Entries of a command queue (spec/12 R334 to R336) -/

theorem exec_cmdPublish (q : Nat) (s : State) : exec (.cmdPublish q) s =
    takeEntry s q (fun cmd => cmd == 0 || decide (4 ≤ cmd)) (fun s r =>
      if entryCmd s r ≠ 0 then writeAgent s 0 (entryAddr r + 104) 8 (statusWord .refused 0x86 0).toNat
      else publish s true (entryAddr r) (BitVec.ofNat 1024 (readPhysNat s 0 (entryAddr r) 128)) (cqJob r) 0
        (min (recPrio (BitVec.ofNat 1024 (readPhysNat s 0 (entryAddr r) 128))) (cqPrio r))) := rfl

theorem exec_cmdStopJob (q : Nat) (s : State) :
    exec (.cmdStopJob q) s = takeEntry s q (· == 1) (fun s r => stopJob s (entryJob s r)) := rfl

theorem exec_cmdResumeJob (q : Nat) (s : State) :
    exec (.cmdResumeJob q) s = takeEntry s q (· == 2) (fun s r => resumeJob s (entryJob s r)) := rfl

theorem exec_cmdDiscardJob (q : Nat) (s : State) :
    exec (.cmdDiscardJob q) s = takeEntry s q (· == 3) (fun s r => discardJob s (entryJob s r)) := rfl

/-- The header of an entry is read as before whatever a queue's register holds. -/
theorem entryCmd_setCmdQueue (s : State) (x : CmdQueue) (r : BitVec 512) : entryCmd (setCmdQueue s x) r = entryCmd s r := rfl

theorem readDue_iff {x : CmdQueue} : readDue s x = true ↔ (x.ro = true → x.due ≤ s.clock) := by
  cases hro : x.ro with
  | false => simp only [readDue, hro, Bool.not_false, Bool.true_or, Bool.false_eq_true, false_implies]
  | true => simp only [readDue, hro, Bool.not_true, Bool.false_or, decide_eq_true_iff, true_implies]

section Entry
variable {i : Instr} {p : Nat → Bool} {act : State → BitVec 512 → State} (he : exec i s = takeEntry s q p act)
include he

theorem takeEntry_early (h : readDue s (cmdQueue s q) = false) : exec i s = .next s := by
  simp [he, takeEntry, h]

theorem takeEntry_takes (hwait : entryWaits s (cmdQueue s q).reg = true) (hdue : readDue s (cmdQueue s q) = true)
    (hphase : phaseOk s (cmdQueue s q) = true) (hp : p (entryCmd s (cmdQueue s q).reg) = true) :
    exec i s = .next (act (setCmdQueue s (nextEntry (cmdQueue s q))) (cmdQueue s q).reg) := by
  simp only [he, takeEntry, hwait, hdue, hphase, hp, Bool.and_self, if_true]

end Entry

/-- The machine in which a header read of queue x has found another PHASE. -/
def mismatched (s : State) (x : CmdQueue) : State :=
  if x.reads + 1 < 16 then setCmdQueue s { x with reads := x.reads + 1, due := s.clock + 256 }
  else (setCmdQueue s { x with reg := setBits x.reg 256 2 2, reads := 0 }).updPkg (fun p => { p with msix := p.msix ++ [cqVec x.reg] })

theorem exec_phaseReread_early (h : readDue s (cmdQueue s q) = false) : exec (.phaseReread q) s = .next s :=
  congrArg _ (if_pos (.inr (.inr (congrArg not h))))

theorem exec_phaseReread_due (hwait : entryWaits s (cmdQueue s q).reg = true) (hphase : phaseOk s (cmdQueue s q) = false)
    (hdue : readDue s (cmdQueue s q) = true) : exec (.phaseReread q) s = .next (mismatched s (cmdQueue s q)) :=
  congrArg _ (if_neg (by simp [hwait, hphase, hdue]))

end Lemmas

/-! ## The obligations -/

/-- Settles O28: SPAWN, TSIG and TWAIT act where their range passes its checks; PREEMPT is a point of a whole warp only. -/
theorem tasksComplete : Obligations.TasksComplete := by
  refine ⟨?spawn, ?tsig, ?twait, ?preempt⟩
  case spawn =>
    intro g a s c ps es h ha hact va
    refine ⟨spawn_deep_traps h ha hact, fun hdepth hal htop hplaces hbad hbad2 hfree hroom hrel => ?_⟩
    exact spawn_completes h ha hact hdepth ⟨hal, htop, hplaces, hbad, hbad2, hfree⟩ hroom hrel
  case tsig =>
    intro f s c c' vs ps es h ha hact va hal htop hplaces hbad hbad2 hfree hrel
    exact tsig_completes h ha hact ⟨hal, htop, hplaces, hbad, hbad2, hfree⟩ hrel
  case twait =>
    intro f s c ps es h ha hd hact va hal htop hplaces hbad hbad2 hfree v took
    have ends {i full} (he : exec i s = twait s f full) :=
      exec_twait he h ha hd hact ⟨hal, htop, hplaces, hbad, hbad2, hfree⟩
    obtain ⟨hblockFull, hgoFull⟩ := ClusterInstructions.exec_if (ends (i := .twaitFull f) rfl)
    obtain ⟨hblockEmpty, hgoEmpty⟩ := ClusterInstructions.exec_if (ends (i := .twaitEmpty f) rfl)
    refine ⟨fun hfull hreads => ?_, fun hempty => ?_, fun hfull => hblockEmpty (hfull ▸ nofun), fun hempty => hblockFull (hempty ▸ nofun)⟩
    · refine CoreInstructions.completes_of_end h.1 ?_ ((acquires_follows ..).trans (sluiceTaken_follows ..))
      have hgo := (ClusterInstructions.exec_if (hgoFull (not_not_intro hfull))).1 rfl
      exact (ClusterInstructions.exec_if hgo).2 (Bool.eq_false_iff.mp hreads)
    · exact CoreInstructions.completes_of_end h.1 (hgoEmpty (not_not_intro hempty)) (sluiceTaken_follows ..)
  case preempt =>
    intro g n s c h
    exact ⟨preempt_index_traps h, fun hn => ⟨preempt_passes_completes h hn, preempt_point_completes h hn⟩⟩

/-- Settles O45: each event of the dispatcher ends as its checks say, once its guards pass. -/
theorem taskEvents : Obligations.TaskEvents := by
  refine ⟨?publish, ?report, ?dispatch, ?window, ?complete⟩
  case publish =>
    intro task t s hrun ht hheld hjob hwait
    obtain rfl := task?_id ht
    have he := exec_taskPublish hrun ht hheld hjob hwait
    refine ⟨fun code hcode => ?_, fun page hpage => ?_, fun hgood => ?_⟩
    · rw [he, hcode, validated]
    · rw [he, hpage, validated]
    · rw [he, hgood]
      rfl
  case report => exact fun task t s hrun ht hst => exec_sluiceWriteReport hrun ht hst
  case dispatch =>
    intro t s hrun hfirst
    refine ⟨exec_taskDispatch_changed hrun hfirst, fun page hcons hmiss => ?_, fun hcons hmiss => ?_⟩
    · rw [exec_taskDispatch_takes hrun hfirst hcons, hmiss]
      rfl
    · have he := exec_taskDispatch_takes hrun hfirst hcons
      rw [hmiss] at he
      intro consumed u
      have hu : taken s t = u := rfl
      rw [hu] at he
      exact ⟨fun code hcode => by rw [he, hcode]; rfl, fun g hg => by rw [he, hg]; rfl⟩
  case window =>
    intro t u k sregs s hrun ht hdisp hjob hunit hkern hargs
    have he := exec_placementWindow hrun ht hdisp hjob hunit hkern hargs
    refine ⟨fun hnone => ?_, fun sites hsites hfirst => ?_⟩
    · rw [he, windowEnd, hnone, Option.elim_none]
    · rw [windowEnd, hsites, Option.elim_some, if_neg (not_not_intro hfirst)] at he
      exact ⟨fun hraise => by rw [he, hraise, Option.elim_none], fun c n hraise => by rw [he, hraise, Option.elim_some]⟩
  case complete => exact fun task t s hrun ht hdone => exec_taskComplete hrun ht hdone

/-- Settles O48: a write to a queue acts on its register, and an entry that waits is read once its read is due. -/
theorem commandQueueEvents : Obligations.CommandQueueEvents := by
  refine ⟨?host, ?entry⟩
  case host =>
    intro q s hpower u x
    have touched (f : State → State) : hostEvent s f = .next (f u) := hostEvent_powered hpower f
    refine ⟨fun hst hjob hlo hhi => ?_, fun hst => ?_, touched (stopQueue q), fun tail ro htail => ?_⟩
    · exact (touched _).trans (congrArg _ (startQueue_off hst hjob hlo hhi))
    · exact (touched _).trans (congrArg _ (resumeQueue_error hst))
    · exact (touched _).trans (congrArg _ (notifyQueue_below ro htail))
  case entry =>
    intro q s x r u hwait
    refine ⟨fun hro hearly => ?early, fun hphase hdue => ?taken, fun hphase hdue => ?mismatch⟩
    case early =>
      have hnot : readDue s (cmdQueue s q) = false :=
        Bool.eq_false_iff.mpr fun h => absurd (readDue_iff.mp h hro) (Nat.not_le.mpr hearly)
      exact ⟨takeEntry_early (exec_cmdPublish q s) hnot, takeEntry_early (exec_cmdStopJob q s) hnot,
        takeEntry_early (exec_cmdResumeJob q s) hnot, takeEntry_early (exec_cmdDiscardJob q s) hnot,
        exec_phaseReread_early hnot⟩
    case taken =>
      have takes {i p act} (he : exec i s = takeEntry s q p act) (hp : p (entryCmd s r) = true) : exec i s = .next (act u r) :=
        takeEntry_takes he hwait (readDue_iff.mpr hdue) hphase hp
      refine ⟨fun hcmd => ?_, fun hcmd => ?_, fun hcmd => takes (exec_cmdStopJob q s) (beq_iff_eq.mpr hcmd),
        fun hcmd => takes (exec_cmdResumeJob q s) (beq_iff_eq.mpr hcmd),
        fun hcmd => takes (exec_cmdDiscardJob q s) (beq_iff_eq.mpr hcmd)⟩
      · refine (takes (exec_cmdPublish q s) (by simp [hcmd])).trans (congrArg _ (if_neg ?_))
        rw [entryCmd_setCmdQueue, hcmd]
        exact not_not_intro rfl
      · refine (takes (exec_cmdPublish q s) (by simp [hcmd])).trans (congrArg _ (if_pos ?_))
        rw [entryCmd_setCmdQueue]
        omega
    case mismatch =>
      have he := exec_phaseReread_due hwait hphase (readDue_iff.mpr fun _ => hdue)
      exact ⟨fun hfew => he.trans (congrArg _ (if_pos hfew)), fun hmany => he.trans (congrArg _ (if_neg (Nat.not_lt.mpr hmany)))⟩

end Sys2Proof.DieWork
end

section
/-! PROOFS. Faults and memory of the die (spec/11 R297, R302 to R308, R322, R323): the traps that a program asks for, those that end a team, and the invalidations of translations and fetched lines. -/

namespace Sys2Proof.DieFaults
open Sys2Proof Sys2Proof.Machine Sys2Proof.Claims

section Lemmas
variable {s : State} {c c' : Ctx} {g : BitVec 4} {i : Instr}

/-! ## Ends of a team (spec/11 R304, R306) -/

/-- The split that holds handler privilege belongs to a team with a handler. -/
theorem inHandler_of_none (h : c.t.trap.handler = none) : c.inHandler = false := by
  rw [Ctx.inHandler, h]

theorem takeTrap_inHandler (x : TrapInfo) (pc : DWord) (h : c.inHandler = true) :
    takeTrap c x pc = terminateTeam c.commit c.team x.cause := by
  rw [takeTrap]
  exact if_pos h

theorem takeTrap_noEntry (x : TrapInfo) (pc : DWord) (h : c.t.trap.handler = none)
    (hentry : handlerEntry c.s c.t.ident.job c.w.role = 0) : takeTrap c x pc = terminateTeam c.commit c.team x.cause := by
  have hprivilege : ¬c.inHandler = true := Bool.eq_false_iff.mp (inHandler_of_none h)
  have hhandler : ¬c.team.trap.handler.isSome = true := by simp [Ctx.team, h]
  rw [takeTrap]
  exact (if_neg hprivilege).trans ((if_neg hhandler).trans (if_pos hentry))

/-! ## TRAP and BKPT (spec/11 R308, spec/12 R344) -/

theorem haltInForce_iff : haltInForce s = true ↔ s.pkg.debug = .halt ∧ (s.pkg.lifecycle = .owned → s.pkg.tokenValid = true) := by
  simp only [haltInForce, Bool.and_eq_true, Bool.or_eq_true, beq_iff_eq, bne_iff_ne]
  exact and_congr_right fun _ => Decidable.imp_iff_not_or.symm

/-- A trap that goes on at the next word, in a team without a handler. -/
theorem finishRes_contTrap (x : TrapInfo) (h : c.t.trap.handler = none) :
    finishRes c (contTrap c' x) = takeTrap { c' with p := { c'.p with arrival := none } } x (c'.p.pc + 4) := by
  rw [contTrap, finishRes, h]
  rfl

/-- What TRAP does once its operand is read. -/
theorem exec_trap {a : BitVec 7} {vs : List (Nat → DWord)} (h : Reads s .both c g [op32 .int a] c' vs) :
    exec (.trap g a) s = .next (finishRes c (if c.act g = 0 then .done c else contTrap c'
      { cause := causeSWTRAP, lo := loWord (val vs 0 (lane0 (c.act g))), hi := 0, lane := lane0 (c.act g) })) := by
  obtain ⟨hissue, hops, hread⟩ := h
  refine ClusterInstructions.exec_ends hissue rfl ((if_pos (hops _ (List.mem_singleton.mpr rfl))).trans ?_)
  rw [hread]

theorem exec_bkpt (h : Issues s .both c) :
    exec (.bkpt g) s = .next (finishRes c (if c.act g = 0 then .done c
      else if haltInForce c.s then .gone (holdTeam c.advance.commit c.t.id) else contTrap c (plain causeBKPT))) :=
  ClusterInstructions.exec_ends h rfl rfl

/-! ## Invalidations (spec/11 R322, R323) -/

section Tlbinv
variable {kind : Ctx → TlbEntry → Bool} {all : Bool} (hi : exec i s = tlbinv s g kind all) (h : Issues s .both c)
include hi h

theorem tlbinv_traps (hpriv : c.inHandler = false) : Traps i s c (plain causePRIV) :=
  traps_of h hi (if_pos (by rw [hpriv]; rfl))

theorem tlbinv_inactive_completes (hpriv : c.inHandler = true) (hact : c.act g = 0) : Completes i s c (c.p.pc + 4) :=
  completes_of h hi ((if_neg (by simp [hpriv])).trans (if_pos hact)) (.refl c)

theorem tlbinv_completes (hpriv : c.inHandler = true) (hact : c.act g ≠ 0)
    (hstores : storesInFlight c.s (if all then none else some c.t.ident.job) = false) :
    Completes i s { c with s := dropTlb c.s (kind c) } (c.p.pc + 4) := by
  refine completes_of h hi ?_ ((Follows.refl c).state _ fun _ hid => hid)
  exact (if_neg (by simp [hpriv])).trans ((if_neg hact).trans (if_neg (Bool.eq_false_iff.mp hstores)))

end Tlbinv

section Icinv
variable {drop : Ctx → State} (h : Issues s .both c)
  (he : exec i s = issue s .both (fun c => .done (if c.act g = 0 then c else { c with s := drop c })))
include h he

theorem icinv_inactive_completes (hact : c.act g = 0) : Completes i s c (c.p.pc + 4) :=
  completes_of h he (congrArg Res.done (if_pos hact)) (.refl c)

theorem icinv_completes (hteam : ∀ id, (drop c).team? id = c.s.team? id) (hact : c.act g ≠ 0) :
    Completes i s { c with s := drop c } (c.p.pc + 4) :=
  completes_of h he (congrArg Res.done (if_neg hact)) ((Follows.refl c).state _ fun id hid => (hteam id).symm ▸ hid)

end Icinv

end Lemmas

/-! ## The obligations -/

/-- Settles O29: TRAP and BKPT end with a trap at the next word, or with the hold that Halt asks for. -/
theorem softwareTrapsTaken : Obligations.SoftwareTrapsTaken := by
  refine ⟨?trap, ?bkpt⟩
  case trap =>
    intro g a s c c' vs h
    obtain ⟨hinactive, htrap⟩ := ClusterInstructions.exec_if (exec_trap h)
    refine ⟨fun hact => CoreInstructions.completes_of_end h.1.1 (hinactive hact) (.refl c), fun hact hnone => ?_⟩
    rw [htrap hact, finishRes_contTrap _ hnone, (readOps_follows h.2.2).1.pc]
  case bkpt =>
    intro g s c h halts
    obtain ⟨hinactive, hactive⟩ := ClusterInstructions.exec_if (exec_bkpt h)
    refine ⟨fun hact => CoreInstructions.completes_of_end h.1 (hinactive hact) (.refl c), fun hact hoff hnone => ?_, fun hact hhalt => ?_⟩
    · rw [(ClusterInstructions.exec_if (hactive hact)).2 (mt haltInForce_iff.mp hoff), finishRes_contTrap _ hnone]
    · exact (ClusterInstructions.exec_if (hactive hact)).1 (haltInForce_iff.mpr hhalt)

/-- Settles O31: with privilege already held, or with no entry to go to, a trap ends the team. -/
theorem trapEndsTeam : Obligations.TrapEndsTeam := by
  rintro s c x pc - (hpriv | ⟨hnone, hentry⟩)
  · rw [takeTrap_inHandler x pc hpriv]
    rfl
  · rw [takeTrap_noEntry x pc hnone hentry]
    rfl

/-- Settles O34: each TLBINV drops its own entries of every TLB, each ICINV the lines of its cores. -/
theorem invalidationsComplete : Obligations.InvalidationsComplete := by
  refine ⟨fun g a s c h => ?tlb, fun g s c h => ?lines⟩
  case tlb =>
    have hjob : exec (.tlbinvJob g) s = tlbinv s g (fun c e => e.job == c.t.ident.job) false := rfl
    have hpage : exec (.tlbinvPage g a) s =
      tlbinv s g (fun c e => tlbHits c.t.ident.job (c.w.s64 (2 * a.toNat)).toNat e) false := rfl
    have hall : exec (.tlbinvAll g) s = tlbinv s g (fun _ _ => true) true := rfl
    refine ⟨fun hpriv => ?_, fun hpriv hact => ?_, fun hpriv hact => ?_⟩
    · exact ⟨tlbinv_traps hjob h hpriv, tlbinv_traps hpage h hpriv, tlbinv_traps hall h hpriv⟩
    · exact ⟨tlbinv_inactive_completes hjob h hpriv hact, tlbinv_inactive_completes hpage h hpriv hact,
        tlbinv_inactive_completes hall h hpriv hact⟩
    · intro left
      refine ⟨fun hstores => ?_, tlbinv_completes hall h hpriv hact⟩
      exact ⟨tlbinv_completes hjob h hpriv hact hstores, tlbinv_completes hpage h hpriv hact hstores⟩
  case lines =>
    have hcore : exec (.icinvCore g) s = issue s .both (fun c => .done (if c.act g = 0 then c else
      { c with s := c.s.updCore c.t.core (fun k => { k with icache := [] }) })) := rfl
    have hdevice : exec (.icinvDevice g) s = issue s .both (fun c => .done (if c.act g = 0 then c else
      { c with s := { c.s with cores := c.s.cores.map (fun k => { k with icache := [] }) } })) := rfl
    refine ⟨fun hact => ⟨?_, ?_⟩, fun hact => ⟨?_, ?_⟩⟩
    · exact icinv_inactive_completes h hcore hact
    · exact icinv_inactive_completes h hdevice hact
    · exact icinv_completes h hcore (fun _ => rfl) hact
    · exact icinv_completes h hdevice (fun _ => rfl) hact

end Sys2Proof.DieFaults
end

section
/-! PROOFS. The host's registers and accesses (spec/12 R331 to R346, spec/13 R351, R352, R372): where an offset of BAR0 goes, what the word of each register does there, and the accesses to HBM and to the egress window. -/

namespace Sys2Proof.HostRegisters
open Sys2Proof Sys2Proof.Machine Sys2Proof.Claims

section Lemmas
variable {s t : State} {v : DWord} {k i off : Nat}

/-! ## The blocks of BAR0 (spec/12 R332) -/

theorem writeBar0_misaligned (h : off % 8 ≠ 0) : writeBar0 off v s = s := if_pos h

theorem writeBar0_low (ha : off % 8 = 0) (h : off < 0x1000) : writeBar0 off v s = writeLow off v s :=
  (if_neg (not_not_intro ha)).trans (if_pos h)

/-- Word i of register k of a block of registers of 64 bytes. -/
theorem register_word {base : Nat} (hbase : base % 64 = 0) (hi : i < 8) (hoff : off = base + 64 * k + 8 * i) :
    (off - base) / 64 = k ∧ off % 64 / 8 = i := by
  omega

theorem writeBar0_job (hk : k < 256) (hi : i < 8) (hoff : off = 0x1000 + 64 * k + 8 * i) :
    writeBar0 off v s = writeJobWord k i v s := by
  obtain ⟨hreg, hword⟩ := register_word (by decide) hi hoff
  rw [writeBar0, if_neg (by omega), if_neg (by omega), if_pos (by omega), hreg, hword]

theorem writeBar0_queue (hk : k < 64) (hi : i < 8) (hoff : off = 0x10000 + 64 * k + 8 * i) :
    writeBar0 off v s = writeCmdWord k i v s := by
  obtain ⟨hreg, hword⟩ := register_word (by decide) hi hoff
  rw [writeBar0, if_neg (by omega), if_neg (by omega), if_neg (by omega), if_pos (by omega), hreg, hword]

theorem writeBar0_ring (hk : k < 256) (hi : i < 8) (hoff : off = 0x20000 + 64 * k + 8 * i) :
    writeBar0 off v s = writeRingWord k i v s := by
  obtain ⟨hreg, hword⟩ := register_word (by decide) hi hoff
  rw [writeBar0, if_neg (by omega), if_neg (by omega), if_neg (by omega), if_neg (by omega), if_pos (by omega), hreg, hword]

theorem writeBar0_fabric (ha : off % 8 = 0) (h : 0x60000 ≤ off ∧ off < 0x68000) : writeBar0 off v s = writeFabric off v s := by
  rw [writeBar0, if_neg (by omega), if_neg (by omega), if_neg (by omega), if_neg (by omega), if_neg (by omega), if_neg (by omega),
    if_neg (by omega), if_neg (by omega), if_pos h]

theorem writeBar0_debug (ha : off % 8 = 0) (h : 0x70000 ≤ off ∧ off < 0x70300) : writeBar0 off v s = writeDebug off v s := by
  rw [writeBar0, if_neg (by omega), if_neg (by omega), if_neg (by omega), if_neg (by omega), if_neg (by omega), if_neg (by omega),
    if_neg (by omega), if_neg (by omega), if_neg (by omega), if_pos h]

/-! ## Host events on a powered module -/

section Powered
variable (h : s.pkg.power ≠ .off)
include h

theorem exec_event {e : Instr} (f : State → State) (he : exec e s = hostEvent s f) (hf : f (hostTouch s) = t) : exec e s = .next t :=
  (he.trans (DieWork.hostEvent_powered h f)).trans (congrArg _ hf)

theorem exec_write (hw : writeBar0 off v (hostTouch s) = t) : exec (.bar0RegisterWrite off v) s = .next t :=
  exec_event h (writeBar0 off v) rfl hw

/-- A write that does what a host event does is that event. -/
theorem exec_write_event {e : Instr} (f : State → State) (he : exec e s = hostEvent s f)
    (hw : writeBar0 off v (hostTouch s) = f (hostTouch s)) : exec (.bar0RegisterWrite off v) s = exec e s :=
  (exec_write h hw).trans (exec_event h f he rfl).symm

end Powered

/-! ## The package block (spec/12 R332) -/

theorem poolOk_iff : poolOk s v = true ↔
    bitsOf v 40 24 = 0 ∧ bitsOf v 16 24 * 0x10000 + bitsOf v 0 16 * 0x10000 ≤ Config.hbmBytes ∧ teamsPresent s = false := by
  simp [poolOk, and_assoc]

theorem writeLow_other (h : off ∉ [0x10, 0x18, 0x20, 0x28, 0x30, 0x38]) : writeLow off v s = s := by
  simp only [List.mem_cons, List.not_mem_nil, or_false, not_or] at h
  obtain ⟨hpower, hlimit, hbound, hspill, hframe, htlb⟩ := h
  unfold writeLow
  split
  · exact absurd rfl hpower
  · exact absurd rfl hlimit
  · exact absurd rfl hbound
  · exact absurd rfl hspill
  · exact absurd rfl hframe
  · exact absurd rfl htlb
  · rfl

theorem packageWrites_of_powered (h : s.pkg.power ≠ .off) : packageWrites s (hostTouch s) := by
  intro v wr good
  have low {off : Nat} {t : State} (ha : off % 8 = 0) (ho : off < 0x1000) (hw : writeLow off v (hostTouch s) = t) : wr off t :=
    exec_write h ((writeBar0_low ha ho).trans hw)
  refine ⟨?power, fun hin => ?_, fun hout => ?_, fun hin => ?_, fun hout => ?_, fun hgood => ?_, fun hbad => ?_, ?dropJob, ?dropAll,
    fun hjob hall => ?_, fun off hlt hno => ?other, fun off ha => exec_write h (writeBar0_misaligned ha)⟩
  case power => exact exec_write_event h (requestPower v) rfl (writeBar0_low rfl (by decide))
  case dropJob =>
    intro hkind hhigh
    exact exec_write_event h (fun s => dropTlb s (fun e => e.job == bitsOf v 16 16)) rfl
      ((writeBar0_low rfl (by decide)).trans (if_pos ⟨hkind, hhigh⟩))
  case dropAll =>
    intro hv
    exact exec_write_event h (fun s => dropTlb s (fun _ => true)) rfl
      ((writeBar0_low rfl (by decide)).trans ((if_neg (by rw [hv]; decide)).trans (if_pos hv)))
  case other =>
    by_cases ha : off % 8 = 0
    · exact low ha hlt (writeLow_other hno)
    · exact exec_write h (writeBar0_misaligned ha)
  · exact low rfl (by decide) (if_pos hin)
  · exact low rfl (by decide) (if_neg (by omega))
  · exact low rfl (by decide) (if_pos hin)
  · exact low rfl (by decide) (if_neg (Nat.not_lt.mpr hout))
  · exact ⟨low rfl (by decide) (if_pos (poolOk_iff.mpr hgood)), low rfl (by decide) (if_pos (poolOk_iff.mpr hgood))⟩
  · exact ⟨low rfl (by decide) (if_neg (mt poolOk_iff.mp hbad)), low rfl (by decide) (if_neg (mt poolOk_iff.mp hbad))⟩
  · exact low rfl (by decide) ((if_neg hjob).trans (if_neg hall))

/-! ## Job slots (spec/12 R333) -/

theorem writeJobWord_zero_valid (hv : bitOf v 63 = true) : writeJobWord k 0 v s = validateJob k v s := if_pos hv

theorem writeJobWord_zero_invalid (hv : bitOf v 63 = false) :
    writeJobWord k 0 v s = invalidateJob k (setJobReg s k (setBits (jobReg s k) 0 64 v.toNat)) :=
  if_neg (Bool.eq_false_iff.mp hv)

theorem validateJob_refused (h : jobRefused s k (setBits (jobReg s k) 0 64 v.toNat) = true) :
    validateJob k v s = s :=
  if_pos (.inr h)

theorem validateJob_taken (hv : bitOf v 63 = true) (h : jobRefused s k (setBits (jobReg s k) 0 64 v.toNat) = false) :
    validateJob k v s = (setJobReg s k (setBits (jobReg s k) 0 64 v.toNat)).updPkg (fun p => { p with
      jobs := cellsSet p.jobs k (setBits (jobReg s k) 0 64 v.toNat) }) :=
  if_neg (by simp [hv, h])

theorem invalidateJob_none (h : cellsGet s.pkg.jobs k = none) : invalidateJob k s = s := by
  rw [invalidateJob, h]

theorem invalidateJob_some {r : BitVec 512} (h : cellsGet s.pkg.jobs k = some r) : invalidateJob k s =
    uninstallGroups (dropTlb ((setJobReg s k (setBits (jobReg s k) 63 1 0)).updPkg (fun p => { p with
      jobs := cellsErase p.jobs k })) (fun e => e.job == bitsOf r 32 16)) (bitsOf r 32 16) := by
  rw [invalidateJob, h]

/-! ## Words of a command queue (spec/12 R335) -/

/-- The machine in which a masked word of queue k's register is written. -/
def queueField (s : State) (k lo : Nat) (mask v : DWord) : State :=
  setCmdQueue s { cmdQueue s k with reg := maskField (cmdQueue s k).reg lo mask v }

/-- The configuration of a queue that is off is written, and STATE then acts on the queue so written. -/
theorem writeCmdWord_off (h : cqState (cmdQueue s k).reg = 0) :
    writeCmdWord k 0 v s = queueField s k 0 0x000000FFFFFFFF00 v ∧ writeCmdWord k 1 v s = queueField s k 64 0xFFFF00F7 v ∧
    (bitsOf v 0 2 = 0 → writeCmdWord k 4 v s = stopQueue k (queueField s k 256 0xFF00 v)) ∧
    (bitsOf v 0 2 = 1 → writeCmdWord k 4 v s = startQueue k (queueField s k 256 0xFF00 v)) ∧
    (1 < bitsOf v 0 2 → writeCmdWord k 4 v s = queueField s k 256 0xFF00 v) := by
  have hoff : (cqState (cmdQueue s k).reg == 0) = true := beq_iff_eq.mpr h
  refine ⟨if_pos hoff, if_pos hoff, fun hst => ?_, fun hst => ?_, fun hst => ?_⟩
  · simp only [writeCmdWord, hst, hoff, if_true, queueField]
  · simp only [writeCmdWord, hst, hoff, if_true, queueField]
  · obtain ⟨n, hn⟩ := Nat.exists_eq_add_of_le' hst
    simp only [writeCmdWord, hn, hoff, if_true, queueField]

/-- The configuration of a queue that runs or is in error stays. -/
theorem writeCmdWord_on (h : cqState (cmdQueue s k).reg ≠ 0) :
    writeCmdWord k 0 v s = s ∧ writeCmdWord k 1 v s = s ∧ (bitsOf v 0 2 = 0 → writeCmdWord k 4 v s = stopQueue k s) ∧
    (bitsOf v 0 2 = 1 → writeCmdWord k 4 v s = resumeQueue k s) ∧ (1 < bitsOf v 0 2 → writeCmdWord k 4 v s = s) := by
  have hon : ¬(cqState (cmdQueue s k).reg == 0) = true := mt beq_iff_eq.mp h
  refine ⟨if_neg hon, if_neg hon, fun hst => ?_, fun hst => ?_, fun hst => ?_⟩
  · simp only [writeCmdWord, hst, if_neg hon]
  · simp only [writeCmdWord, hst, if_neg hon]
  · obtain ⟨n, hn⟩ := Nat.exists_eq_add_of_le' hst
    simp only [writeCmdWord, hn, if_neg hon]

/-- Word 2, HEAD, and the words past STATE take no value. -/
theorem writeCmdWord_fixed (h : i = 2 ∨ 5 ≤ i) : writeCmdWord k i v s = s := by
  obtain rfl | h := h
  · rfl
  · obtain ⟨n, rfl⟩ := Nat.exists_eq_add_of_le' h
    rfl

/-! ## Words of an egress ring (spec/12 R338) -/

/-- The machine in which a masked word of ring k's register is written. -/
def ringField (s : State) (k lo : Nat) (mask v : DWord) : State := setEgRing s k (maskField (egRing s k) lo mask v)

/-- The fields of a closed ring are written, and with VALID set it then opens. -/
theorem writeRingWord_closed (h : egValid (egRing s k) = false) :
    writeRingWord k 0 v s = ringField s k 0 0x000000FFFFFFFFC0 v ∧ writeRingWord k 2 v s = ringField s k 128 0x01FFFFFFFFFFFFFF v ∧
    (bitOf v 0 = false → writeRingWord k 1 v s = ringField s k 64 0xFFFF03FFFFFF0000 v) ∧
    (bitOf v 0 = true → writeRingWord k 1 v s = openRing k (ringField s k 64 0xFFFF03FFFFFF0000 v)) := by
  have hclosed : ¬egValid (egRing s k) = true := Bool.eq_false_iff.mp h
  refine ⟨if_neg hclosed, if_neg hclosed, fun hv => ?_, fun hv => ?_⟩
  · simp only [writeRingWord, if_neg hclosed, hv, Bool.false_eq_true, if_false, ringField]
  · simp only [writeRingWord, if_neg hclosed, hv, if_true, ringField]

/-- Of an open ring's fields only VALID is written. -/
theorem writeRingWord_open (h : egValid (egRing s k) = true) :
    writeRingWord k 0 v s = s ∧ writeRingWord k 2 v s = s ∧ (bitOf v 0 = true → writeRingWord k 1 v s = s) ∧
    (bitOf v 0 = false → writeRingWord k 1 v s = closeRing k s) :=
  ⟨if_pos h, if_pos h, fun hv => (if_pos h).trans (if_pos hv), fun hv => (if_pos h).trans (if_neg (Bool.eq_false_iff.mp hv))⟩

/-- Word 3, RCUR, and the words past the window's take no value. -/
theorem writeRingWord_fixed (h : i = 3 ∨ 6 ≤ i) : writeRingWord k i v s = s := by
  obtain rfl | h := h
  · rfl
  · obtain ⟨n, rfl⟩ := Nat.exists_eq_add_of_le' h
    rfl

theorem openRing_opens (h : egValid (egRing s k) = false) (hjob : (jobSlot s (egJob (egRing s k))).isSome) :
    openRing k s = setEgRing s k (setBits (setBits (egRing s k) 192 64 (egHcur (egRing s k))) 64 1 1) :=
  if_neg (by simp [h, Option.isSome_iff_ne_none.mp hjob])

theorem closeRing_closes (h : egValid (egRing s k) = true) : closeRing k s = setEgRing s k (setBits (egRing s k) 64 1 0) := if_pos h

theorem writeHcur_closed (h : egValid (egRing s k) = false) :
    writeHcur k v s = setEgRing s k (setBits (egRing s k) 256 64 v.toNat) :=
  if_pos (by rw [h]; rfl)

theorem writeHcur_forward (h : egValid (egRing s k) = true) (hlt : egHcur (egRing s k) < min v.toNat (egRcur (egRing s k))) :
    writeHcur k v s = setEgRing s k (setBits (egRing s k) 256 64 (min v.toNat (egRcur (egRing s k)))) :=
  (if_neg (by simp [h])).trans (if_pos hlt)

theorem slotWrites_of_powered (h : s.pkg.power ≠ .off) : slotWrites s (hostTouch s) := by
  intro k i v hi
  refine ⟨fun hk => ?job, fun hk => ?queue, fun hk => ?ring⟩
  case job =>
    intro wr old
    have word {n : Nat} {t : State} (hn : i = n) (hw : writeJobWord k n v (hostTouch s) = t) : wr t :=
      exec_write h ((writeBar0_job hk hi rfl).trans (hn ▸ hw))
    refine ⟨fun hne => word rfl (if_pos hne), fun _ hv => ?_, fun hn hv hnone => ?_, fun r hn hv hsome => ?_⟩
    · exact exec_write_event h (validateJob k v) rfl ((writeBar0_job hk (by decide) rfl).trans (writeJobWord_zero_valid hv))
    · exact word hn ((writeJobWord_zero_invalid hv).trans (invalidateJob_none hnone))
    · exact word hn ((writeJobWord_zero_invalid hv).trans (invalidateJob_some hsome))
  case queue =>
    intro wr x conf
    have word {n : Nat} {t : State} (hn : i = n) (hw : writeCmdWord k n v (hostTouch s) = t) : wr t :=
      exec_write h ((writeBar0_queue hk hi rfl).trans (hn ▸ hw))
    have event {n : Nat} {e : Instr} (f : State → State) (he : exec e s = hostEvent s f) (hn : n < 8)
        (hw : writeCmdWord k n v (hostTouch s) = f (hostTouch s)) :
        exec (.bar0RegisterWrite (0x10000 + 64 * k + 8 * n) v) s = exec e s :=
      exec_write_event h f he ((writeBar0_queue hk hn rfl).trans hw)
    refine ⟨fun _ => event (n := 3) (notifyQueue k (bitsOf v 0 16) false) rfl (by decide) rfl, fun hoff => ?_, fun hon => ?_,
      fun hfixed => word rfl (writeCmdWord_fixed hfixed)⟩
    · obtain ⟨hbase, hconf, hstop, hstart, hnone⟩ := writeCmdWord_off (v := v) hoff
      exact ⟨fun hn => word hn hbase, fun hn => word hn hconf, fun hn hst => word hn (hstop hst), fun hn hst => word hn (hstart hst),
        fun hn hst => word hn (hnone hst)⟩
    · obtain ⟨hbase, hconf, hstop, hresume, hnone⟩ := writeCmdWord_on (v := v) hon
      exact ⟨fun hn hst => word hn (hnone hst), fun hn => hn.elim (fun hn => word hn hbase) (fun hn => word hn hconf),
        fun _ hst => event (n := 4) (stopQueue k) rfl (by decide) (hstop hst),
        fun _ hst => event (n := 4) (resumeQueue k) rfl (by decide) (hresume hst)⟩
  case ring =>
    intro wr r conf
    have word {n : Nat} {t : State} (hn : i = n) (hw : writeRingWord k n v (hostTouch s) = t) : wr t :=
      exec_write h ((writeBar0_ring hk hi rfl).trans (hn ▸ hw))
    have event {n : Nat} {e : Instr} (f : State → State) (he : exec e s = hostEvent s f) (hn : n < 8)
        (hw : writeRingWord k n v (hostTouch s) = f (hostTouch s)) :
        exec (.bar0RegisterWrite (0x20000 + 64 * k + 8 * n) v) s = exec e s :=
      exec_write_event h f he ((writeBar0_ring hk hn rfl).trans hw)
    refine ⟨fun hclosed => ?_, fun hopen => ?_, fun _ => event (n := 4) (writeHcur k v) rfl (by decide) rfl,
      fun hn => word hn rfl, fun hfixed => word rfl (writeRingWord_fixed hfixed)⟩
    · obtain ⟨hbase, hwaddr, hconf, hopens⟩ := writeRingWord_closed (v := v) hclosed
      exact ⟨fun hn => word hn hbase, fun hn => word hn hwaddr, fun hn hv => word hn (hconf hv), fun hn hv => word hn (hopens hv)⟩
    · obtain ⟨hbase, hwaddr, hconf, hcloses⟩ := writeRingWord_open (v := v) hopen
      exact ⟨fun hn => hn.elim (fun hn => word hn hbase) (fun hn => word hn hwaddr), fun hn hv => word hn (hconf hv),
        fun _ hv => event (n := 1) (closeRing k) rfl (by decide) (hcloses hv)⟩

/-! ## The fabric block (spec/13 R351, R352, R372) -/

theorem fabcfgOk_iff : fabcfgOk s v = true ↔ teamsPresent s = false ∧ bitsOf v 16 16 = 0 ∧ bitsOf v 48 16 = 0 ∧ bitsOf v 32 16 ≤ 4096 ∧
    (bitsOf v 32 16 = 0 ∨ bitsOf v 0 16 < bitsOf v 32 16) := by
  simp [fabcfgOk, and_assoc]

/-- Past its five single registers the block holds the connected group's words, the ports and the UE windows. -/
theorem writeFabric_past (h : 0x60028 ≤ off) : writeFabric off v s =
    if 0x60200 ≤ off ∧ off < 0x60400 then cgroupSet s ((off - 0x60200) / 8) v
    else if 0x61000 ≤ off ∧ off < 0x61000 + 64 * 96 ∧ off % 64 = 0 then
      s.updPort ((off - 0x61000) / 64) (fun p => { p with reg := setBits p.reg 18 1 (bitsOf v 18 1) })
    else if 0x64000 ≤ off ∧ off < 0x68000 then writeUeWord ((off - 0x64000) / 64) (off % 64 / 8) v s
    else s := by
  unfold writeFabric
  split
  · omega
  · omega
  · omega
  · omega
  · omega
  · rfl

theorem writeFabric_cgroup (hk : k < 64) (hoff : off = 0x60200 + 8 * k) : writeFabric off v s = cgroupSet s k v := by
  rw [writeFabric_past (by omega), if_pos (by omega), show (off - 0x60200) / 8 = k by omega]

theorem writeFabric_port (hk : k < 96) (hoff : off = 0x61000 + 64 * k) : writeFabric off v s =
    s.updPort k (fun p => { p with reg := setBits p.reg 18 1 (bitsOf v 18 1) }) := by
  rw [writeFabric_past (by omega), if_neg (by omega), if_pos (by omega), show (off - 0x61000) / 64 = k by omega]

theorem writeFabric_ue (hk : k < 256) (hi : i < 8) (hoff : off = 0x64000 + 64 * k + 8 * i) :
    writeFabric off v s = writeUeWord k i v s := by
  obtain ⟨hreg, hword⟩ := register_word (by decide) hi hoff
  rw [writeFabric_past (by omega), if_neg (by omega), if_neg (by omega), if_pos (by omega), hreg, hword]

/-- The machine in which a masked word of UE window k's register is written. -/
def ueField (s : State) (k lo : Nat) (mask v : DWord) : State := setUeWin s k (maskField (ueWin s k) lo mask v)

/-- The fields of a closed window are written, and VALID then acts on the window so written. -/
theorem writeUeWord_closed (h : ueValid (ueWin s k) = false) :
    (bitOf v 63 = true → writeUeWord k 0 v s = openUe k (ueField s k 0 0x6000FFFFFFFFFFFF v)) ∧
    (bitOf v 63 = false → writeUeWord k 0 v s = closeUe k (ueField s k 0 0x6000FFFFFFFFFFFF v)) ∧
    writeUeWord k 1 v s = ueField s k 64 0xFFFFFFFF00000000 v ∧ writeUeWord k 2 v s = ueField s k 128 0x01FFFFFFFFFFF000 v ∧
    writeUeWord k 3 v s = ueField s k 192 0xFFFFFFFFFFFFFFFF v := by
  have hclosed : ¬ueValid (ueWin s k) = true := Bool.eq_false_iff.mp h
  refine ⟨fun hv => ?_, fun hv => ?_, if_neg hclosed, if_neg hclosed, if_neg hclosed⟩
  · simp only [writeUeWord, if_neg hclosed, hv, if_true, ueField]
  · simp only [writeUeWord, if_neg hclosed, hv, Bool.false_eq_true, if_false, ueField]

/-- Of an open window's fields only VALID is written. -/
theorem writeUeWord_open (h : ueValid (ueWin s k) = true) :
    (bitOf v 63 = true → writeUeWord k 0 v s = openUe k s) ∧ (bitOf v 63 = false → writeUeWord k 0 v s = closeUe k s) ∧
    writeUeWord k 1 v s = s ∧ writeUeWord k 2 v s = s ∧ writeUeWord k 3 v s = s := by
  refine ⟨fun hv => ?_, fun hv => ?_, if_pos h, if_pos h, if_pos h⟩
  · simp only [writeUeWord, h, hv, if_true]
  · simp only [writeUeWord, h, hv, if_true, Bool.false_eq_true, if_false]

theorem writeUeWord_fixed (h : 4 ≤ i) : writeUeWord k i v s = s := by
  obtain ⟨n, rfl⟩ := Nat.exists_eq_add_of_le' h
  rfl

theorem fabricWrites_of_powered (h : s.pkg.power ≠ .off) : fabricWrites s (hostTouch s) := by
  intro v wr good
  have block {off : Nat} {t : State} (ha : off % 8 = 0) (ho : 0x60000 ≤ off ∧ off < 0x68000)
      (hw : writeFabric off v (hostTouch s) = t) : wr off t :=
    exec_write h ((writeBar0_fabric ha ho).trans hw)
  refine ⟨fun hgood => ?_, fun hbad => ?_, block rfl (by decide) rfl, block rfl (by decide) rfl, block rfl (by decide) rfl,
    fun hnone => ?_, fun hsome => ?_, fun k hk => ?group, fun p hp => ?port, fun k hk => ?window⟩
  case group =>
    exact exec_write_event h (fun s => cgroupSet s k v) rfl
      ((writeBar0_fabric (by omega) (by omega)).trans (writeFabric_cgroup hk rfl))
  case port => exact block (by omega) (by omega) (writeFabric_port hp rfl)
  case window =>
    intro r conf
    have word (i : Nat) {t : State} (hi : i < 8) (hw : writeUeWord k i v (hostTouch s) = t) : wr (0x64000 + 64 * k + 8 * i) t :=
      block (by omega) (by omega) ((writeFabric_ue hk hi rfl).trans hw)
    have event {e : Instr} (f : State → State) (he : exec e s = hostEvent s f)
        (hw : writeUeWord k 0 v (hostTouch s) = f (hostTouch s)) : exec (.bar0RegisterWrite (0x64000 + 64 * k) v) s = exec e s :=
      exec_write_event h f he ((writeBar0_fabric (by omega) (by omega)).trans ((writeFabric_ue hk (by decide) rfl).trans hw))
    refine ⟨fun hclosed => ?_, fun hopen => ?_, fun i hlo hhi => word i hhi (writeUeWord_fixed hlo)⟩
    · obtain ⟨hopens, hcloses, hjob, hbase, hlen⟩ := writeUeWord_closed (v := v) hclosed
      exact ⟨fun hv => word 0 (by decide) (hopens hv), fun hv => word 0 (by decide) (hcloses hv), word 1 (by decide) hjob,
        word 2 (by decide) hbase, word 3 (by decide) hlen⟩
    · obtain ⟨hopens, hcloses, hjob, hbase, hlen⟩ := writeUeWord_open (v := v) hopen
      refine ⟨fun hv => event (openUe k) rfl (hopens hv), fun hv => event (closeUe k) rfl (hcloses hv), fun i hlo hhi => ?_⟩
      obtain rfl | rfl | rfl : i = 1 ∨ i = 2 ∨ i = 3 := by omega
      · exact word 1 (by decide) hjob
      · exact word 2 (by decide) hbase
      · exact word 3 (by decide) hlen
  · exact block rfl (by decide) (if_pos (fabcfgOk_iff.mpr hgood))
  · exact block rfl (by decide) (if_neg (mt fabcfgOk_iff.mp hbad))
  · exact block rfl (by decide) (if_neg (Bool.eq_false_iff.mp hnone))
  · exact block rfl (by decide) (if_pos hsome)

/-! ## The debug block (spec/12 R344, R345) -/

theorem debugReached_eq_false_iff : debugReached s = false ↔ s.pkg.power ≠ .run := by
  simp [debugReached]

section Unreached
variable (h : debugReached s = false)
include h

theorem writeDebug_unreached : writeDebug off v s = s := if_pos (by rw [h]; rfl)
theorem requestOff_unreached : requestOff s = s := if_pos (by rw [h]; rfl)
theorem requestObserve_unreached : requestObserve s = s := if_pos (by rw [h]; rfl)
theorem requestHalt_unreached : requestHalt s = s := if_pos (by rw [h]; rfl)
theorem haltJob_unreached (job : Nat) : haltJob job s = s := if_pos (.inl (by rw [h]; rfl))
theorem resumeHeld_unreached (job : Nat) : resumeHeld job s = s := if_pos (.inl (by rw [h]; rfl))

end Unreached

/-- A write acts as f where f and the write alike need debug access, and the write acts as f with it. -/
theorem writeDebug_as {f : State → State} (hf : debugReached s = false → f s = s)
    (hw : ¬(!debugReached s) = true → writeDebug off v s = f s) : writeDebug off v s = f s := by
  cases h : debugReached s with
  | false => rw [writeDebug_unreached h, hf h]
  | true => exact hw (by rw [h]; decide)

section Reached
variable (h : ¬(!debugReached s) = true)
include h

theorem writeDebug_zero : writeDebug 0x70000 0 s = requestOff s := (if_neg h).trans (if_pos rfl)
theorem writeDebug_one : writeDebug 0x70000 1 s = requestObserve s := (if_neg h).trans (if_pos rfl)
theorem writeDebug_two : writeDebug 0x70000 2 s = requestHalt s := (if_neg h).trans (if_pos rfl)

theorem writeDebug_above (hv : 2 < v.toNat) : writeDebug 0x70000 v s = s := by
  obtain ⟨n, hn⟩ := Nat.exists_eq_add_of_le' hv
  simp only [writeDebug, if_neg h, if_true, hn]

theorem writeDebug_token (hk : k < 24) (hoff : off = 0x70040 + 8 * k) :
    writeDebug off v s = s.updPkg (fun p => { p with dbgToken := setBits p.dbgToken (64 * k) 64 v.toNat }) := by
  rw [writeDebug, if_neg h, if_neg (by omega), if_pos (by omega), show 8 * (off - 0x70040) = 64 * k by omega]

theorem writeDebug_hold : writeDebug 0x70200 v s = haltJob (v.toNat % 65536) s := (if_neg h).trans rfl
theorem writeDebug_release : writeDebug 0x70208 v s = resumeHeld (v.toNat % 65536) s := (if_neg h).trans rfl

end Reached

theorem debugWrites_of_powered (h : s.pkg.power ≠ .off) : debugWrites s (hostTouch s) := by
  intro v wr
  have block {off : Nat} {t : State} (ha : off % 8 = 0) (ho : 0x70000 ≤ off ∧ off < 0x70300)
      (hw : writeDebug off v (hostTouch s) = t) : wr off t :=
    exec_write h ((writeBar0_debug ha ho).trans hw)
  have event {off : Nat} {v : DWord} {e : Instr} (f : State → State) (he : exec e s = hostEvent s f) (ha : off % 8 = 0)
      (ho : 0x70000 ≤ off ∧ off < 0x70300) (hf : debugReached (hostTouch s) = false → f (hostTouch s) = hostTouch s)
      (hw : ¬(!debugReached (hostTouch s)) = true → writeDebug off v (hostTouch s) = f (hostTouch s)) :
      exec (.bar0RegisterWrite off v) s = exec e s :=
    exec_write_event h f he ((writeBar0_debug ha ho).trans (writeDebug_as hf hw))
  refine ⟨?off, ?observe, ?halt, fun hv => ?none, fun hrun k hk => ?token, ?hold, ?release, fun hno off hlo hhi => ?refused⟩
  case off => exact event requestOff rfl rfl (by decide) requestOff_unreached writeDebug_zero
  case observe => exact event requestObserve rfl rfl (by decide) requestObserve_unreached writeDebug_one
  case halt => exact event requestHalt rfl rfl (by decide) requestHalt_unreached writeDebug_two
  case none => exact block rfl (by decide) (writeDebug_as (f := id) (fun _ => rfl) fun hr => writeDebug_above hr hv)
  case token =>
    have hreached : ¬(!debugReached (hostTouch s)) = true := by rw [debugReached, hrun]; decide
    exact block (by omega) (by omega) (writeDebug_token hreached hk rfl)
  case hold => exact event (haltJob (v.toNat % 65536)) rfl rfl (by decide) (haltJob_unreached · _) writeDebug_hold
  case release => exact event (resumeHeld (v.toNat % 65536)) rfl rfl (by decide) (resumeHeld_unreached · _) writeDebug_release
  case refused =>
    by_cases ha : off % 8 = 0
    · exact block ha ⟨hlo, hhi⟩ (writeDebug_unreached (debugReached_eq_false_iff.mpr hno))
    · exact exec_write h (writeBar0_misaligned ha)

/-! ## HBM and the egress window (spec/12 R327, R331, R337 to R339, R346) -/

section Memory
variable {a : HostAccess} (h : s.pkg.power ≠ .off) (hrun : (hostTouch s).pkg.power = .run) (hready : hostReady (hostTouch s) a.pa a.len = true)
include h hrun hready

/-- A write to HBM lands in slot 0 but for the bytes of held rings. -/
theorem exec_hostMemoryAccess_write {bs : List Byte} (hw : a.write = some bs) :
    let cells := (bytesAt a.pa (bs.take a.len)).filter (fun b => !ringHidden (hostTouch s) b.1)
    exec (.hostMemoryAccess a) s = .next ((touchPools (writeBytes (hostTouch s) 0 false cells) (cells.map (·.1))).updPkg (fun p => { p with
      hostRead := [] })) := by
  refine exec_event h _ (execHostMemoryAccess.eq_def a s) ((if_neg (by simp [hrun, hready])).trans ?_)
  rw [hw]

/-- A read of HBM without a poisoned line returns its bytes through slot 0, those of held rings as zero. -/
theorem exec_hostMemoryAccess_read (hw : a.write = none) (hclean : ∀ i, i < a.len → l2Poisoned (hostTouch s) (a.pa + i) = false) :
    exec (.hostMemoryAccess a) s = .next ((hostTouch s).updPkg (fun p => { p with hostRead := (List.range a.len).map (fun i =>
      if ringHidden (hostTouch s) (a.pa + i) then 0 else readPhys (hostTouch s) 0 (a.pa + i)) })) := by
  refine exec_event h _ (execHostMemoryAccess.eq_def a s) ((if_neg (by simp [hrun, hready])).trans ?_)
  rw [hw]
  exact if_neg (by simpa using hclean)

end Memory

section Window
variable {len : Nat}

/-- Every line that the egress window shows in a range can be read. -/
def allShown (s : State) (off len : Nat) : Prop :=
  ∀ i pa, i < len → bar4Pa s (off + i) = some pa → stackReady s pa = true ∧ l2Poisoned s pa = false

theorem allShown_iff : allShown s off len ↔
    ((List.range len).filterMap (fun i => bar4Pa s (off + i))).all (fun pa => stackReady s pa && !l2Poisoned s pa) = true := by
  simp only [allShown, List.all_eq_true, List.mem_filterMap, List.mem_range, Bool.and_eq_true, Bool.not_eq_true']
  exact ⟨fun hall pa ⟨i, hi, hpa⟩ => hall i pa hi hpa, fun hall i pa hi hpa => hall pa ⟨i, hi, hpa⟩⟩

variable (h : s.pkg.power ≠ .off)
include h

theorem exec_egressWindowRead_shown (hrun : (hostTouch s).pkg.power = .run) (hall : allShown (hostTouch s) off len) :
    exec (.egressWindowRead off len) s = .next ((hostTouch s).updPkg (fun p => { p with
      hostRead := (List.range len).map (fun i => bar4Byte (hostTouch s) (off + i)) })) :=
  exec_event h _ (execEgressWindowRead.eq_def off len s) (congrArg (fun b => (hostTouch s).updPkg (fun p => { p with hostRead := b }))
    (if_pos ⟨hrun, allShown_iff.mp hall⟩))

theorem exec_egressWindowRead_refused (hno : (hostTouch s).pkg.power = .run → ¬allShown (hostTouch s) off len) :
    exec (.egressWindowRead off len) s = .next ((hostTouch s).updPkg (fun p => { p with hostRead := [] })) :=
  exec_event h _ (execEgressWindowRead.eq_def off len s) (congrArg (fun b => (hostTouch s).updPkg (fun p => { p with hostRead := b }))
    (if_neg fun ⟨hrun, hall⟩ => hno hrun (allShown_iff.mpr hall)))

end Window

end Lemmas

/-! ## The obligation -/

/-- Settles O47: each offset of BAR0 leads to its register's word, each word to its event; accesses to memory pass their checks first. -/
theorem hostRegisterEvents : Obligations.HostRegisterEvents := by
  intro s h u
  refine ⟨packageWrites_of_powered h, slotWrites_of_powered h, fabricWrites_of_powered h, debugWrites_of_powered h, fun v => ?power,
    fun job => ?tlb, fun j v hv => ?validate, fun j r hj => ?invalidate, fun e v => ?ring, fun w => ?window, fun n v hteams hn => ?group,
    fun a hrun hready => ?memory, fun off len => ?egress⟩
  case power =>
    refine ⟨?_, ?_, ?_⟩
    · rintro rfl
      exact exec_event h (requestPower 0) rfl rfl
    · rintro rfl hrun hteams
      exact exec_event h (requestPower 2) rfl (if_pos ⟨hrun, hteams⟩)
    · rintro rfl
      exact exec_event h (requestPower 3) rfl rfl
  case tlb =>
    exact ⟨exec_event h (fun s => dropTlb s (fun e => e.job == job)) rfl rfl, exec_event h (fun s => dropTlb s (fun _ => true)) rfl rfl⟩
  case validate =>
    exact ⟨fun hr => exec_event h (validateJob j v) rfl (validateJob_refused hr),
      fun hr => exec_event h (validateJob j v) rfl (validateJob_taken hv hr)⟩
  case invalidate => exact exec_event h (invalidateJob j) rfl (invalidateJob_some hj)
  case ring =>
    exact ⟨fun hclosed hjob => exec_event h (openRing e) rfl (openRing_opens hclosed hjob),
      fun hopen => exec_event h (closeRing e) rfl (closeRing_closes hopen),
      fun hclosed => exec_event h (writeHcur e v) rfl (writeHcur_closed hclosed),
      fun hopen hlt => exec_event h (writeHcur e v) rfl (writeHcur_forward hopen hlt)⟩
  case window => exact ⟨exec_event h (openUe w) rfl rfl, exec_event h (closeUe w) rfl rfl⟩
  case group => exact exec_event h (fun s => cgroupSet s n v) rfl (if_neg (not_or.mpr ⟨Bool.eq_false_iff.mp hteams, Nat.not_le.mpr hn⟩))
  case memory =>
    exact ⟨fun bs hw => exec_hostMemoryAccess_write h hrun hready hw, fun hw hclean => exec_hostMemoryAccess_read h hrun hready hw hclean⟩
  case egress =>
    refine ⟨fun ⟨hrun, hall⟩ => exec_egressWindowRead_shown h hrun hall, fun hno => exec_egressWindowRead_refused h fun hrun hall => ?_⟩
    obtain hpower | ⟨i, pa, hi, hpa, hbad⟩ := hno
    · exact hpower hrun
    · obtain ⟨hstack, hclean⟩ := hall i pa hi hpa
      obtain hdown | hpoison := hbad
      · exact absurd hstack (Bool.eq_false_iff.mp hdown)
      · exact absurd hpoison (Bool.eq_false_iff.mp hclean)

end Sys2Proof.HostRegisters
end

section
/-! PROOFS. The package (spec/12 R330, R332, R340 to R345, R347, spec/13 R351): the release of egress entries, the host's events on keys, lifecycle and debug, and what BAR0 reads after module reset. -/

namespace Sys2Proof.PackageEvents
open Sys2Proof Sys2Proof.Machine Sys2Proof.Claims

/-! ## EGREL (spec/12 R340) -/

section Release
variable {c : Ctx} {act : LaneMask} {r : BitVec 512}

/-- A body with active lanes, its operands named and its release ready, ends as its last part does. -/
theorem releasing_ends {ok : Bool} {scope : Nat} {x : Res} (hok : ok = true) (hact : act ≠ 0) (hrel : releaseReady c act scope = true) :
    orIllopnd ok (if act = 0 then .done c else afterRelease c act scope x) = x :=
  (if_pos hok).trans ((if_neg hact).trans (if_pos hrel))

/-- The ring is refused: it is not valid, or another job's. -/
theorem ringRefused_iff {job : Nat} : (!egValid r || egJob r != job) = true ↔ egValid r = false ∨ egJob r ≠ job := by
  rw [Bool.or_eq_true, Bool.not_eq_true', bne_iff_ne]

/-- Moving RCUR, noting the translation, writing D and the two parts of the fence keep the split in its place. -/
theorem released_follows (c : Ctx) (s : State) (es : List TlbEntry) (d : Nat) (f : Nat → Word) (hs : s.teams = c.s.teams) :
    Follows c ((({ (({ c with s := s } : Ctx).noteTlb es) with w := c.w.setV d act f } : Ctx).acquires act).releases act) :=
  have moved : Follows c { c with s := s } := (Follows.refl c).state s fun id hid => by rwa [State.team?, hs]
  (((moved.trans (noteTlb_follows _ es)).warp _ (setV_table ..)).trans (acquires_follows ..)).trans (releases_follows ..)

end Release

/-! ## Keys (spec/12 R330, R332) -/

section Keys
variable {s : State} {k : Nat}

section Fixed
variable (h : k = 0 ∨ Config.nKeySlots ≤ k)
include h

theorem installKey_fixed : installKey k s = keyDone s 3 true := if_pos h
theorem emptyKey_fixed : emptyKey k s = keyDone s 3 false := if_pos h

end Fixed

section Settable
variable (h : ¬(k = 0 ∨ Config.nKeySlots ≤ k))
include h

theorem emptyKey_empties : emptyKey k s = keyDone (s.updPkg (fun p => { p with keySlots := cellsErase p.keySlots k })) 0 false := if_neg h

theorem installKey_unopened (hblob : Config.gcmOpen (Config.transportKey s.pkg.keyEph s.pkg.keyHost) s.pkg.keyStage = none) :
    installKey k s = keyDone s 1 true := by
  rw [installKey, if_neg h, hblob]

theorem installKey_opened {m : BitVec 512} (hblob : Config.gcmOpen (Config.transportKey s.pkg.keyEph s.pkg.keyHost) s.pkg.keyStage = some m) :
    let cipher := bitsOf s.pkg.keyStage 0 8
    installKey k s = if cipher = 1 ∨ cipher = 2 then keyDone (putKey s k { cipher := cipher, material := m }) 0 true else keyDone s 2 true := by
  intro cipher
  rw [installKey, if_neg h, hblob]
  exact (if_congr not_or.symm rfl rfl).trans (ite_not ..)

end Settable
end Keys

/-! ## Debug (spec/12 R344, R345) -/

section Debug
variable {s : State}

section Requests
variable (h : ¬(!debugReached s) = true)
include h

theorem requestOff_held (hheld : holdPending s = true) : requestOff s = dbgResult s 4 s.pkg.debug := (if_neg h).trans (if_pos hheld)

theorem requestOff_free (hfree : holdPending s = false) : requestOff s = dbgResult (debugOff s) 0 .off :=
  (if_neg h).trans (if_neg (Bool.eq_false_iff.mp hfree))

/-- A tenant's lock comes before everything else that is checked. -/
theorem requestObserve_locked (hl : s.pkg.lifecycle = .tenantLocked) : requestObserve s = dbgResult s 1 s.pkg.debug :=
  (if_neg h).trans (if_pos hl)

theorem requestHalt_locked (hl : s.pkg.lifecycle = .tenantLocked) : requestHalt s = dbgResult s 1 s.pkg.debug := by
  rw [requestHalt, if_neg h, hl]

theorem requestObserve_held (hl : s.pkg.lifecycle ≠ .tenantLocked) (hheld : holdPending s = true) :
    requestObserve s = dbgResult s 4 s.pkg.debug :=
  (if_neg h).trans ((if_neg hl).trans (if_pos hheld))

theorem requestObserve_free (hl : s.pkg.lifecycle ≠ .tenantLocked) (hfree : holdPending s = false) :
    requestObserve s = dbgResult s 0 .observe :=
  (if_neg h).trans ((if_neg hl).trans (if_neg (Bool.eq_false_iff.mp hfree)))

theorem requestHalt_held (hl : s.pkg.lifecycle ≠ .tenantLocked) (hheld : holdPending s = true) :
    requestHalt s = dbgResult s 4 s.pkg.debug := by
  rw [requestHalt, if_neg h]
  cases hl' : s.pkg.lifecycle with
  | provisioning => exact if_pos hheld
  | owned => exact if_pos hheld
  | tenantLocked => exact absurd hl' hl

theorem requestHalt_provisioning (hl : s.pkg.lifecycle = .provisioning) (hfree : holdPending s = false) :
    requestHalt s = dbgResult s 0 .halt := by
  rw [requestHalt, if_neg h, hl]
  exact if_neg (Bool.eq_false_iff.mp hfree)

/-- An owned device halts under a token: one accepted before, or the one that stands in DBGTOKEN. -/
theorem requestHalt_owned (hl : s.pkg.lifecycle = .owned) (hfree : holdPending s = false) :
    requestHalt s = if s.pkg.tokenValid then dbgResult s 0 .halt
      else if s.pkg.dbgToken = 0 then dbgResult s 2 s.pkg.debug
      else if tokenGood s then dbgResult (s.updPkg (fun p => { p with tokenValid := true })) 0 .halt
      else dbgResult s 3 s.pkg.debug := by
  rw [requestHalt, if_neg h, hl]
  exact if_neg (Bool.eq_false_iff.mp hfree)

end Requests

/-- DBGHALT and DBGRESUME act in Run with Halt in force. -/
theorem haltCommands_accepted (h : ¬(!debugReached s) = true) (hforce : haltInForce s = true) :
    ¬((!debugReached s) = true ∨ (!haltInForce s) = true) := by
  rw [hforce]
  exact not_or.mpr ⟨h, Bool.false_ne_true⟩

theorem haltJob_refused (hforce : haltInForce s = false) (job : Nat) : haltJob job s = s := if_pos (.inr (by rw [hforce]; rfl))
theorem resumeHeld_refused (hforce : haltInForce s = false) (job : Nat) : resumeHeld job s = s := if_pos (.inr (by rw [hforce]; rfl))

theorem haltInForce_eq_false_iff :
    haltInForce s = false ↔ s.pkg.debug ≠ .halt ∨ (s.pkg.lifecycle = .owned ∧ s.pkg.tokenValid = false) := by
  rw [Bool.eq_false_iff, Ne, DieFaults.haltInForce_iff, not_and_or, Classical.not_imp, Bool.not_eq_true]

end Debug

/-! ## Host reads of BAR0 (spec/12 R332, R347) -/

section Read
variable {s : State} {off : Nat}

theorem readBar0_misaligned (h : off % 8 ≠ 0) : readBar0 s off = 0 := if_pos h

section Aligned
variable (ha : off % 8 = 0)
include ha

theorem readBar0_job (h : 0x1000 ≤ off ∧ off < 0x5000) : readBar0 s off = wordOf (jobReg s ((off - 0x1000) / 64)) (off % 64 / 8) := by
  rw [readBar0.eq_def, if_neg (by omega), if_neg (by omega), if_pos (by omega)]

theorem readBar0_queue (h : 0x10000 ≤ off ∧ off < 0x11000) :
    readBar0 s off = wordOf (cmdQueue s ((off - 0x10000) / 64)).reg (off % 64 / 8) := by
  rw [readBar0.eq_def, if_neg (by omega), if_neg (by omega), if_neg (by omega), if_pos h]

theorem readBar0_ring (h : 0x20000 ≤ off ∧ off < 0x24000) :
    readBar0 s off = wordOf (egRing s ((off - 0x20000) / 64)) (off % 64 / 8) := by
  rw [readBar0.eq_def, if_neg (by omega), if_neg (by omega), if_neg (by omega), if_neg (by omega), if_pos h]

/-- Past the fabric block's single registers a host reads the connected group, the ports, the UE windows, and the debug block. -/
theorem readBar0_past (h : 0x60028 ≤ off) : readBar0 s off =
    if 0x60200 ≤ off ∧ off < 0x60400 then wordOf s.fab.cgroup ((off - 0x60200) / 8)
    else if 0x61000 ≤ off ∧ off < 0x61000 + 64 * 96 ∧ off % 64 = 0 then ((s.port? ((off - 0x61000) / 64)).map (·.reg)).getD 0
    else if 0x64000 ≤ off ∧ off < 0x68000 then wordOf (ueWin s ((off - 0x64000) / 64)) (off % 64 / 8)
    else if 0x70000 ≤ off ∧ off < 0x71000 ∧ !debugReached s then 0
    else if off = 0x70008 then BitVec.ofNat 64 (debugCode s.pkg.debug + s.pkg.dbgResult * 256)
    else if off = 0x70010 then BitVec.ofNat 64 (s.teams.filter (fun t => t.trap.held)).length
    else if 0x70020 ≤ off ∧ off < 0x70040 then wordOf s.pkg.dbgNonce ((off - 0x70020) / 8)
    else if 0x71000 ≤ off ∧ off < 0x72600 then readStat s off
    else 0 := by
  rw [readBar0.eq_def]
  iterate 11 rw [if_neg (by omega)]

theorem readBar0_cgroup (h : 0x60200 ≤ off ∧ off < 0x60400) : readBar0 s off = wordOf s.fab.cgroup ((off - 0x60200) / 8) := by
  rw [readBar0_past ha (by omega), if_pos h]

theorem readBar0_ue (h : 0x64000 ≤ off ∧ off < 0x68000) : readBar0 s off = wordOf (ueWin s ((off - 0x64000) / 64)) (off % 64 / 8) := by
  rw [readBar0_past ha (by omega), if_neg (by omega), if_neg (by omega), if_pos h]

theorem readBar0_stat (h : 0x71000 ≤ off ∧ off < 0x72600) : readBar0 s off = readStat s off := by
  rw [readBar0_past ha (by omega)]
  iterate 7 rw [if_neg (by omega)]
  exact if_pos h

end Aligned

/-- The counters are not shown while debug is Off. -/
theorem readStat_off (h : s.pkg.debug = .off) : readStat s off = 0 := if_pos (.inl h)

@[simp] theorem wordOf_zero (n i : Nat) : wordOf (0 : BitVec n) i = 0 := by
  simp [wordOf, bitsOf]

end Read

/-! ## The obligations -/

/-- Settles O35: the ring's checks in their order, then RCUR moves and its low word goes to D. -/
theorem ringReleaseCompletes : Obligations.RingReleaseCompletes := by
  intro f s c h hd hqa hqb ha hb hact hrel L0 e n r
  have hok : (regOk c f.d.toNat && !isQueueSpec f.a && !isQueueSpec f.b && (op32 .int f.a).ok c && (op32 .int f.b).ok c) = true := by
    rw [hd, hqa, hqb, ha, hb]
    rfl
  have accepted (hvalid : egValid r = true) (hjob : egJob r = c.t.ident.job) : ¬(!egValid r || egJob r != c.t.ident.job) = true :=
    mt ringRefused_iff.mp (by simp [hvalid, hjob])
  refine ⟨fun hrefused => ?prot, fun hvalid hjob hmis => ?align, fun m hvalid hjob halign hglobal hm => ?moves⟩
  case prot => exact traps_of h rfl ((releasing_ends hok hact hrel).trans (if_pos (ringRefused_iff.mpr hrefused)))
  case align => exact traps_of h rfl ((releasing_ends hok hact hrel).trans ((if_neg (accepted hvalid hjob)).trans (if_pos hmis)))
  case moves =>
    intro w rcur
    refine completes_of h rfl ((releasing_ends hok hact hrel).trans ((if_neg (accepted hvalid hjob)).trans
      ((if_neg (not_not_intro halign)).trans ((if_neg (Nat.not_le.mpr hglobal)).trans ?_)))) (released_follows c _ [m.entry] _ _ rfl)
    rw [hm]
    rfl

/-- Settles O49: each host event on keys, debug, lifecycle and reports reads off the branch its rule names. -/
theorem securityEvents : Obligations.SecurityEvents := by
  intro s h u
  have event {i : Instr} {t : State} (f : State → State) (he : exec i s = hostEvent s f) (hf : f u = t) : exec i s = .next t :=
    HostRegisters.exec_event h f he hf
  refine ⟨fun k => ⟨fun hfixed => ?fixed, fun hzero hlt => ?settable⟩, fun hrun => ?debug, fun key hl => ?own,
    fun sig => ⟨fun hl => ?lock, fun hl => ?unlock⟩, fun nonce => ?report⟩
  case fixed => exact ⟨event (installKey k) rfl (installKey_fixed hfixed), event (emptyKey k) rfl (emptyKey_fixed hfixed)⟩
  case settable =>
    have hset : ¬(k = 0 ∨ Config.nKeySlots ≤ k) := not_or.mpr ⟨hzero, Nat.not_le.mpr hlt⟩
    refine ⟨event (emptyKey k) rfl (emptyKey_empties hset), event (installKey k) rfl ?_⟩
    split
    next hblob => exact installKey_unopened hset hblob
    next m hblob => exact installKey_opened hset hblob
  case debug =>
    have hreached : ¬(!debugReached u) = true := by rw [debugReached, hrun]; decide
    refine ⟨⟨fun hl => ?locked, fun hheld => ?held, fun hfree => ?free⟩, fun hhalt htoken job => ?inForce, fun hnone job => ?notInForce⟩
    case locked =>
      exact ⟨event requestObserve rfl (requestObserve_locked hreached hl), event requestHalt rfl (requestHalt_locked hreached hl)⟩
    case held =>
      exact ⟨event requestOff rfl (requestOff_held hreached hheld), fun hl =>
        ⟨event requestObserve rfl (requestObserve_held hreached hl hheld), event requestHalt rfl (requestHalt_held hreached hl hheld)⟩⟩
    case free =>
      refine ⟨event requestOff rfl (requestOff_free hreached hfree), fun hl => event requestObserve rfl (requestObserve_free hreached hl hfree),
        fun hl => event requestHalt rfl (requestHalt_provisioning hreached hl hfree), fun hl => ?_⟩
      have howned := requestHalt_owned hreached hl hfree
      refine ⟨fun hvalid => event requestHalt rfl (howned.trans (if_pos hvalid)), fun hvalid hzero => ?_, fun hvalid htoken => ?_⟩
      · exact event requestHalt rfl (howned.trans ((if_neg (Bool.eq_false_iff.mp hvalid)).trans (if_pos hzero)))
      · exact event requestHalt rfl (howned.trans ((if_neg (Bool.eq_false_iff.mp hvalid)).trans (if_neg htoken)))
    case inForce =>
      have haccepted := haltCommands_accepted hreached (DieFaults.haltInForce_iff.mpr ⟨hhalt, htoken⟩)
      exact ⟨event (haltJob job) rfl (if_neg haccepted), event (resumeHeld job) rfl (if_neg haccepted)⟩
    case notInForce =>
      have hforce := haltInForce_eq_false_iff.mpr hnone
      exact ⟨event (haltJob job) rfl (haltJob_refused hforce job), event (resumeHeld job) rfl (resumeHeld_refused hforce job)⟩
  case own => exact event _ rfl (if_pos hl)
  case lock => exact event _ rfl (if_congr (and_iff_right hl) rfl rfl)
  case unlock => exact event _ rfl (if_congr (and_iff_right hl) rfl rfl)
  case report => exact event _ (execAttestationReport.eq_def nonce s) rfl

/-- Settles O60: the registers with a value of their own, the counters that debug Off hides, and the blocks whose registers are all zero. -/
theorem resetValues : Obligations.ResetValues := by
  refine ⟨List.map_inj_left.mp rfl, fun off hoff => ?counters, fun off hoff => ?blocks, rfl, rfl, rfl, List.length_replicate, rfl⟩
  case counters =>
    by_cases ha : off % 8 = 0
    · exact (readBar0_stat ha hoff).trans (readStat_off rfl)
    · exact readBar0_misaligned ha
  case blocks =>
    by_cases ha : off % 8 = 0
    · obtain hjob | hqueue | hring | hgroup | hwindow := hoff
      · exact (readBar0_job ha hjob).trans (wordOf_zero _ _)
      · exact (readBar0_queue ha hqueue).trans (wordOf_zero _ _)
      · exact (readBar0_ring ha hring).trans (wordOf_zero _ _)
      · exact (readBar0_cgroup ha hgroup).trans (wordOf_zero _ _)
      · exact (readBar0_ue ha hwindow).trans (wordOf_zero _ _)
    · exact readBar0_misaligned ha

end Sys2Proof.PackageEvents
end

section
/-! PROOFS. The instructions of spec/13: remote access and its queue reads, multicast, and the collectives. Sending changes only the packets under way and the ports, so every instruction keeps its split in its place; each waits or completes as the checks of its form have it. -/

namespace Sys2Proof.FabricInstructions
open Sys2Proof Sys2Proof.Machine Sys2Proof.Claims Sys2Proof.ClusterInstructions

section Lemmas
variable {s : State} {c c' : Ctx} {i : Instr} {g : BitVec 4}

/-! ## Packets leave (spec/13 R353 to R356, R361) -/

/-- Sending changes the packets ready to leave, the record of what has left, and the ports; nothing else. -/
def Sent (s u : State) : Prop := ∃ q o p, u = s.updFab (fun b => { b with txq := q, outbox := o, ports := p })

theorem Sent.refl (s : State) : Sent s s := ⟨s.fab.txq, s.fab.outbox, s.fab.ports, rfl⟩

theorem Sent.trans {s u v : State} : Sent s u → Sent u v → Sent s v := by
  rintro ⟨_, _, _, rfl⟩ ⟨q, o, p, rfl⟩
  exact ⟨q, o, p, rfl⟩

theorem Sent.foldl {α : Type} {f : State → α → State} (hf : ∀ s x, Sent s (f s x)) (l : List α) (s : State) : Sent s (l.foldl f s) := by
  induction l generalizing s with
  | nil => exact .refl s
  | cons x l ih => exact (hf s x).trans (ih _)

theorem Sent.teams {s u : State} : Sent s u → u.teams = s.teams := by
  rintro ⟨_, _, _, rfl⟩
  rfl

theorem updPort_sent (s : State) (n : Nat) (f : Port → Port) : Sent s (s.updPort n f) := ⟨s.fab.txq, s.fab.outbox, _, rfl⟩

theorem sendWindow_sent (s : State) (n : Nat) : Sent s (sendWindow s n) := by
  unfold sendWindow
  split
  · exact .refl s
  · split
    · exact .refl s
    · exact ⟨_, _, _, rfl⟩

theorem pump_sent (s0 s : State) : Sent s (pump s0 s) := by
  unfold pump
  split
  · exact .refl s
  · refine Sent.trans ?_ (Sent.foldl (fun s _ => sendWindow_sent s _) _ _)
    split
    · exact updPort_sent ..
    · exact .refl s

theorem send_sent (s : State) (bytes : Nat) (m : Message) : Sent s (send s bytes m) :=
  Sent.trans ⟨_, s.fab.outbox, s.fab.ports, rfl⟩ (pump_sent ..)

theorem send_unless_sent (p : Prop) [Decidable p] (s : State) (bytes : Nat) (m : Message) : Sent s (if p then s else send s bytes m) := by
  split
  · exact .refl s
  · exact send_sent ..

theorem team?_of_teams {u : State} (h : u.teams = s.teams) (id : Nat) : u.team? id = s.team? id := congrArg (List.find? _) h

theorem sendPacket_follows (c : Ctx) (opc : Nat) (kind : RemoteKind) (flag : Option Nat) (data : Nat → List DWord) (p : Nat × List RLane) :
    Follows c (c.sendPacket opc kind flag data p) := by
  refine .of rfl rfl rfl ?table fun id => team?_of_teams ?teams id
  case table =>
    unfold Ctx.sendPacket
    dsimp only
    split <;> rfl
  case teams => exact (send_unless_sent ..).teams

/-! ## Remote access (spec/13 R359 to R361, R366) -/

/-- The first element that f maps to something decides. -/
theorem findSome?_eq_of_find? {α β : Type} {f : α → Option β} {l : List α} {x : α} {b : β}
    (hx : l.find? (fun x => (f x).isSome) = some x) (hb : f x = some b) : l.findSome? f = some b := by
  induction l with
  | nil => cases hx
  | cons a l ih =>
    rw [List.find?_cons] at hx
    rw [List.findSome?_cons]
    cases ha : f a with
    | none => exact ih (by simpa [ha] using hx)
    | some y =>
      obtain rfl : a = x := by simpa [ha] using hx
      exact ha.symm.trans hb

/-- A lane that may be accessed at a connected peer. -/
def reachable (s : State) (width : Nat) (x : RLane) : Prop :=
  x.2.2 % width = 0 ∧ x.2.2 < globalTop ∧ x.2.1 < domainOf s ∧ inCgroup s x.2.1 = true

theorem remoteCheck_reachable {width : Nat} {x : RLane} (h : reachable s width x) : remoteCheck s width true x = none := by
  obtain ⟨halign, htop, hdomain, hgroup⟩ := h
  simp [remoteCheck, halign, Nat.not_le.mpr htop, hdomain, hgroup]

theorem remoteChecks_reachable {width : Nat} {xs : List RLane} (h : ∀ x ∈ xs, reachable s width x) :
    xs.findSome? (remoteCheck s width true) = none :=
  List.findSome?_eq_none_iff.mpr fun x hx => remoteCheck_reachable (h x hx)

/-- What the response to a packet of an instruction brings that loads some registers from d on, or none. -/
def kindOf (loads : Option Nat) (d : Nat) : RemoteKind :=
  match loads with
  | some n => .load d n
  | none => .store

/-- The meaning of each instruction of the table is the remote form of its row. -/
theorem exec_remotes (f : FmtF) (s : State) : ∀ r ∈ remotes f, exec r.1 s =
    remoteForm s f r.2.1 r.2.2.1 r.2.2.2.1 (kindOf r.2.2.2.2.1) r.2.2.2.2.1.isNone r.2.2.2.2.2 :=
  List.map_inj_left.mp rfl

/-- The context after a packet of a remote instruction, which binds to the split's flag of its class. -/
def sendBound (opc : Nat) (kind : RemoteKind) (flag : Option Nat) (data : Warp → Nat → List DWord) (c : Ctx) (p : Nat × List RLane) : Ctx :=
  let c' := c.sendPacket opc kind flag (data c.w) p
  c'.withW (c'.w.bind flag)

theorem sendBound_follows {opc : Nat} {kind : RemoteKind} {flag : Option Nat} {data : Warp → Nat → List DWord} (c : Ctx)
    (p : Nat × List RLane) : Follows c (sendBound opc kind flag data c p) :=
  (sendPacket_follows ..).trans (bind_follows ..)

section Remote
variable {f : FmtF} {opc width : Nat} {dOk : Ctx → Nat → Bool} {kind : Nat → RemoteKind} {write : Bool} {data : Warp → Nat → Nat → List DWord}

/-- What a remote instruction does once its operands pass their checks and a lane is active. -/
def remoteEnd (c : Ctx) (f : FmtF) (opc width : Nat) (kind : RemoteKind) (write : Bool) (data : Warp → Nat → List DWord) : Res :=
  let xs := remoteLanes c f.a f.peer (c.act f.g)
  match xs.findSome? (remoteCheck c.s width true) with
  | some i => .trap i
  | none => if !remoteRoom c.s c.t.core (packetsOf xs).length then .stall
    else .done ((packetsOf xs).foldl (sendBound opc kind (flagOf (if write then c.p.setB else c.p.setA)) data) c)

theorem remoteEnd_trap {k : RemoteKind} {data : Warp → Nat → List DWord} {x : RLane} {j : TrapInfo}
    (hx : (remoteLanes c f.a f.peer (c.act f.g)).find? (fun x => (remoteCheck c.s width true x).isSome) = some x)
    (hj : remoteCheck c.s width true x = some j) : remoteEnd c f opc width k write data = .trap j := by
  simp only [remoteEnd, findSome?_eq_of_find? hx hj]

theorem remoteEnd_sends {k : RemoteKind} {data : Warp → Nat → List DWord}
    (hreach : ∀ x ∈ remoteLanes c f.a f.peer (c.act f.g), reachable c.s width x)
    (hroom : remoteRoom c.s c.t.core (packetsOf (remoteLanes c f.a f.peer (c.act f.g))).length = true) :
    remoteEnd c f opc width k write data = .done ((packetsOf (remoteLanes c f.a f.peer (c.act f.g))).foldl
      (sendBound opc k (flagOf (if write then c.p.setB else c.p.setA)) data) c) := by
  simp only [remoteEnd, remoteChecks_reachable hreach, hroom, Bool.not_true, Bool.false_eq_true, if_false]

theorem remoteForm_eq (hd : dOk c f.d.toNat = true) (ha : isQueueSpec f.a = false) (hpeer : isQueueSpec f.peer = false)
    (haok : (op64 f.a).ok c = true) (hpok : (op32 .int f.peer).ok c = true) (h : Issues s .accessOnly c) :
    remoteForm s f opc width dOk kind write data = .next (finishRes c
      (if c.act f.g = 0 then .done c else remoteEnd c f opc width (kind f.d.toNat) write (fun w => data w f.d.toNat))) := by
  rw [remoteForm, issue_of h]
  simp only [hd, ha, hpeer, haok, hpok, Bool.not_false, Bool.and_self, orIllopnd, if_true]
  rfl

end Remote
/-! ## RLDQ (spec/13 R367) and XLDQ (R373) -/

/-- c' is c but for the machine, and what the warp holds beside its registers: the same team and split, the same operand values. -/
structure SameReads (c c' : Ctx) : Prop where
  team : c'.t = c.t
  index : c'.wi = c.wi
  split : c'.p = c.p
  value : ∀ o : Opnd, o.value c' = o.value c

theorem SameReads.foldl {α : Type} {f : Ctx → α → Ctx} (hf : ∀ c x, SameReads c (f c x)) (l : List α) (c : Ctx) : SameReads c (l.foldl f c) := by
  induction l generalizing c with
  | nil => exact ⟨rfl, rfl, rfl, fun _ => rfl⟩
  | cons x l ih =>
    have hx := hf c x
    have hl := ih (f c x)
    exact ⟨hl.team.trans hx.team, hl.index.trans hx.index, hl.split.trans hx.split, fun o => (hl.value o).trans (hx.value o)⟩

theorem sendPacket_sameReads (c : Ctx) (opc : Nat) (kind : RemoteKind) (flag : Option Nat) (data : Nat → List DWord)
    (p : Nat × List RLane) : SameReads c (c.sendPacket opc kind flag data p) := by
  refine ⟨rfl, rfl, rfl, fun o => ?_⟩
  unfold Ctx.sendPacket
  dsimp only
  split <;> rfl

theorem sendRead_sameReads (c : Ctx) (q slot : Nat) (h : DWord) (block : Nat) (lanes : List (Nat × Nat)) :
    SameReads c (c.sendRead q slot h block lanes) :=
  ⟨rfl, rfl, rfl, fun _ => rfl⟩

theorem sendRead_follows (c : Ctx) (q slot : Nat) (h : DWord) (block : Nat) (lanes : List (Nat × Nat)) :
    Follows c (c.sendRead q slot h block lanes) :=
  .of rfl rfl rfl rfl fun _ => rfl

/-- The context once the requests of an instruction issued at c have left and queue x holds the entry that they fill. -/
def entryReserved (c sent : Ctx) (x : Queue) (act : LaneMask) (va : Nat → DWord) : Ctx :=
  let flag := flagOf c.p.setA
  { sent with
    t := (sent.t.setQueue (x.reserve (inflightEntry c.wi c.s.nextId act (flag.map (fun n => (c.wi, n))) va
      (reqOfLane sent.s c.t.core c.s.nextId)))).signals (.entry c.s.nextId) c.wi act
    w := sent.w.bind flag }

theorem entryReserved_follows (c sent : Ctx) (x : Queue) (act : LaneMask) (va : Nat → DWord) :
    Follows sent (entryReserved c sent x act va) :=
  ⟨rfl, rfl, rfl, rfl, fun hp => (bind_table sent.w _).symm ▸ hp, rfl, fun _ hid => hid⟩

/-- The entry is that of the issuing split, which sending leaves as it is. -/
theorem entryReserved_eq {sent : Ctx} (hwi : sent.wi = c.wi) (hp : sent.p = c.p) (hcore : sent.t.core = c.t.core)
    (x : Queue) (act : LaneMask) (va : Nat → DWord) : entryReserved c sent x act va =
    { sent with
      t := (sent.t.setQueue (x.reserve (inflightEntry sent.wi c.s.nextId act ((flagOf sent.p.setA).map (fun n => (sent.wi, n))) va
        (reqOfLane sent.s sent.t.core c.s.nextId)))).signals (.entry c.s.nextId) sent.wi act
      w := sent.w.bind (flagOf sent.p.setA) } := by
  rw [entryReserved, hwi, hp, hcore]

/-- RLDQ.b64, or RLDQ.b32. -/
def rldqInstr (g q : BitVec 4) (a peer : BitVec 7) (wide : Bool) : Instr := if wide then .rldqB64 g q a peer else .rldqB32 g q a peer

theorem exec_rldqInstr (g q : BitVec 4) (a peer : BitVec 7) (wide : Bool) (s : State) :
    exec (rldqInstr g q a peer wide) s = rldqForm s g q a peer (if wide then 0xD7 else 0xD6) (if wide then 2 else 1) := by
  cases wide <;> rfl

/-- RLDQ of the producer of queue x whose lanes are all reachable waits for room in the queue, then for room in the table. -/
theorem exec_rldq {q : BitVec 4} {a peer : BitVec 7} {wide : Bool} {x : Queue} (h : Issues s .accessOnly c)
    (hx : c.t.queue? q.toNat = some x) (hprod : isProducer x c.w = true) (hdir : x.dir = false) (hwidth : x.width = if wide then 2 else 1)
    (ha : isQueueSpec a = false) (hpeer : isQueueSpec peer = false) (haok : (op64 a).ok c = true) (hpok : (op32 .int peer).ok c = true)
    (hact : c.act g ≠ 0) (hreach : ∀ y ∈ remoteLanes c a peer (c.act g), reachable c.s (x.bits / 8) y) :
    let ps := packetsOf (remoteLanes c a peer (c.act g))
    let sent := ps.foldl (fun c p => c.sendPacket (if wide then 0xD7 else 0xD6) (.queue q.toNat x.tail) none (fun _ => []) p) c
    exec (rldqInstr g q a peer wide) s = .next (finishRes c
      (if x.canReserve = false then .block c 2
      else if remoteRoom c.s c.t.core ps.length = false then .stall
      else .done (entryReserved c sent x (c.act g) ((op64 a).value c)))) := by
  intro ps sent
  refine exec_ends h (exec_rldqInstr ..) ?_
  have hsame : SameReads c sent := SameReads.foldl (fun c p => sendPacket_sameReads ..) ps c
  have hchecks : (isProducer x c.w && !x.dir && x.width == (if wide then 2 else 1) && !isQueueSpec a && !isQueueSpec peer &&
      (op64 a).ok c && (op32 .int peer).ok c) = true := by
    simp only [hprod, hdir, hwidth, ha, hpeer, haok, hpok, Bool.not_false, beq_self_eq_true, Bool.and_self]
  rw [hx]
  refine (if_pos hchecks).trans ((if_neg hact).trans ?_)
  dsimp only
  rw [remoteChecks_reachable hreach, entryReserved_eq hsame.index hsame.split (congrArg Team.core hsame.team), ← hsame.value]
  simp only [Bool.not_eq_true']
  rfl

theorem foldl_keeps {σ α β : Type} {f : σ → α → σ} (v : σ → β) (hf : ∀ s x, v (f s x) = v s) (l : List α) (s : σ) :
    v (l.foldl f s) = v s := by
  induction l generalizing s with
  | nil => rfl
  | cons x l ih => exact (ih _).trans (hf s x)

/-- What every pop keeps, reading operands keeps. -/
theorem readOps_keeps {β : Type} (v : Ctx → β) {act : LaneMask} {ops : List Opnd} {vs : List (Nat → DWord)}
    (hv : ∀ c n, v (c.popHead n act) = v c) (h : readOps c act ops = .got c' vs) : v c' = v c := by
  unfold readOps at h
  dsimp only at h
  split at h
  · cases h
    rfl
  · split at h
    · cases h
    · split at h
      case h_4 =>
        split at h
        · cases h
        · cases h
          exact foldl_keeps v hv ..
      all_goals cases h

theorem popHead_core (c : Ctx) (n : Nat) (act : LaneMask) : (c.popHead n act).t.core = c.t.core := by
  unfold Ctx.popHead
  split
  · rfl
  · dsimp only
    unfold Team.passes
    split <;> rfl

theorem readOps_core {act : LaneMask} {ops : List Opnd} {vs : List (Nat → DWord)} (h : readOps c act ops = .got c' vs) :
    c'.t.core = c.t.core :=
  readOps_keeps (fun c => c.t.core) (fun c n => popHead_core c n act) h

theorem xldqCheck_passes {job : Nat} {hd : DWord} {y : Nat × Nat} (hh : ueHandleOk s job hd = true) (hal : y.2 % 8 = 0) :
    xldqCheck s job hd y = none := by
  simp [xldqCheck, hal, hh]

/-- XLDQ of the producer of queue x through a handle it may use, at aligned offsets, waits for room in the queue. -/
theorem exec_xldq {q hr : BitVec 4} {a : BitVec 7} {x : Queue} {vs : List (Nat → DWord)} (h : Reads s .accessOnly c g [op64 a] c' vs)
    (hx : c.t.queue? q.toNat = some x) (hprod : isProducer x c.w = true) (hdir : x.dir = false) (hwidth : x.width = 2)
    (hact : c.act g ≠ 0) :
    let hd := c.w.s64 (2 * hr.toNat)
    let xs := (lanesOf (c.act g)).map (fun L => (L, (val vs 0 L).toNat))
    let blocks := sortBy (fun a b => decide (a ≤ b)) (dedup (xs.map (fun y => y.2 / 256)))
    let sent := blocks.foldl (fun c b => c.sendRead q.toNat x.tail hd b (xs.filter (fun y => y.2 / 256 == b))) c'
    stackReady c.s (ueEntry c.s (bitsOf hd 32 16)) = true → ueHandleOk c.s c.t.ident.job hd = true → (∀ y ∈ xs, y.2 % 8 = 0) →
    exec (.xldq g q a hr) s = .next (finishRes c
      (if x.canReserve = false then .block c 2 else .done (entryReserved c sent x (c.act g) (val vs 0)))) := by
  intro hd xs blocks sent hready hhandle halign
  obtain ⟨hissue, hops, hread⟩ := h
  obtain ⟨hfollows, -, hp⟩ := readOps_follows hread
  have hsame : SameReads c' sent := SameReads.foldl (fun c b => sendRead_sameReads ..) blocks c'
  have hchecks : (isProducer x c.w && !x.dir && x.width == 2 && (op64 a).ok c) = true := by
    simp only [hprod, hdir, hwidth, hops _ (List.mem_singleton.mpr rfl), Bool.not_false, beq_self_eq_true, Bool.and_self]
  have hpass : xs.findSome? (xldqCheck c.s c.t.ident.job hd) = none :=
    List.findSome?_eq_none_iff.mpr fun y hy => xldqCheck_passes hhandle (halign y hy)
  refine exec_ends hissue rfl ?_
  rw [hx]
  refine (if_pos hchecks).trans ((if_neg hact).trans ?_)
  rw [hread, entryReserved_eq (hsame.index.trans hfollows.wi) (hsame.split.trans hp)
    ((congrArg Team.core hsame.team).trans (readOps_core hread))]
  refine (if_neg (by rw [hready]; simp)).trans ?_
  rw [hpass]
  simp only [Bool.not_eq_true']
  rfl

/-! ## MCST and RFENCE (spec/13 R368, R388) -/

theorem core_updCore (s : State) (k : Nat) (f : Core → Core) (j : Nat) :
    (s.updCore k f).core j = if j = k ∧ k < s.cores.length then f (s.core k) else s.core j := by
  simp only [State.core, State.updCore_cores, List.getD_eq_getElem?_getD, updAt_get]
  by_cases hj : j = k
  · subst hj
    by_cases hlt : j < s.cores.length <;> simp [hlt]
  · simp [hj]

/-- Requests stand in a core's table alone: what leaves every table leaves its use. -/
theorem remoteUsed_updCore (s : State) (k core : Nat) (f : Core → Core) (hf : ∀ k, (f k).remote = k.remote) :
    remoteUsed (s.updCore k f) core = remoteUsed s core := by
  rw [remoteUsed, core_updCore]
  split
  next h => rw [hf, h.1, remoteUsed]
  next => rfl

theorem remoteUsed_of_cores {u : State} (h : u.cores = s.cores) (core : Nat) : remoteUsed u core = remoteUsed s core := by
  rw [remoteUsed, State.core, h]
  rfl

theorem remoteUsed_popHead (c : Ctx) (n : Nat) (act : LaneMask) (core : Nat) : remoteUsed (c.popHead n act).s core = remoteUsed c.s core := by
  unfold Ctx.popHead
  split
  · rfl
  · refine foldl_keeps (fun s => remoteUsed s core) (fun s l => ?_) ..
    unfold freePoison
    split
    · exact remoteUsed_updCore _ _ _ _ fun _ => rfl
    · rfl

theorem Sent.cores {s u : State} : Sent s u → u.cores = s.cores := by
  rintro ⟨_, _, _, rfl⟩
  rfl

/-- One request takes one entry at most. -/
theorem remoteUsed_addRequest (s : State) (core : Nat) (r : RemoteReq) :
    remoteUsed (s.updCore core (fun k => { k with remote := k.remote ++ [r] })) core ≤ remoteUsed s core + 1 := by
  rw [remoteUsed, core_updCore]
  split
  · rw [List.filter_append, List.length_append]
    exact Nat.add_le_add_left (List.length_filter_le _ [r]) _
  · exact Nat.le_succ _

theorem remoteUsed_sendMcast (s : State) (core : Nat) (m : Mcast) (rank : Nat) (p : ReplayPacket) :
    remoteUsed (sendMcast s core m rank p) core ≤ remoteUsed s core + 1 := by
  unfold sendMcast
  dsimp only
  refine Eq.trans_le (remoteUsed_of_cores (send_unless_sent ..).cores core) ?_
  split
  · exact remoteUsed_addRequest s.fresh.2 core _
  · exact remoteUsed_addRequest s.fresh.2 core _

theorem remoteUsed_sendMcasts (core : Nat) (m : Mcast) (rank : Nat) (ps : List ReplayPacket) (s : State) :
    remoteUsed (ps.foldl (sendMcast · core m rank) s) core ≤ remoteUsed s core + ps.length := by
  induction ps generalizing s with
  | nil => exact Nat.le_refl _
  | cons p ps ih =>
    have hone := remoteUsed_sendMcast s core m rank p
    have hrest := ih (sendMcast s core m rank p)
    simp only [List.foldl_cons, List.length_cons]
    omega

/-- With room for every member's packets all replays issue at once. -/
theorem replayMcast_roomy {core : Nat} {m : Mcast} {ps : List ReplayPacket} {ranks : List Nat} {todo : List Replay}
    (htodo : todo = ranks.map (fun r => { rank := r, packets := ps })) (s : State)
    (h : remoteUsed s core + ranks.length * ps.length ≤ 256) : replayMcast core m todo s =
      (ranks.foldl (fun s r => ps.foldl (sendMcast · core m r) s) s).updFab (fun b =>
        { b with mcasts := b.mcasts.map (fun x => if x.op = m.op then { x with todo := [] } else x) }) := by
  subst htodo
  induction ranks generalizing s with
  | nil => rfl
  | cons r ranks ih =>
    rw [List.length_cons, Nat.succ_mul] at h
    have hused := remoteUsed_sendMcasts core m r ps s
    have hroom : remoteRoom s core ps.length = true := decide_eq_true (by omega)
    rw [List.map_cons, replayMcast]
    have hrest : remoteUsed (ps.foldl (sendMcast · core m r) s) core + ranks.length * ps.length ≤ 256 := by omega
    exact (if_pos hroom).trans (ih _ hrest)

theorem remoteCheck_unranked {x : RLane} (halign : x.2.2 % 4 = 0) (htop : x.2.2 < globalTop) : remoteCheck s 4 false x = none := by
  simp [remoteCheck, halign, Nat.not_le.mpr htop]

theorem remoteChecks_unranked {xs : List RLane} (h : ∀ x ∈ xs, x.2.2 % 4 = 0 ∧ x.2.2 < globalTop) :
    xs.findSome? (remoteCheck s 4 false) = none :=
  List.findSome?_eq_none_iff.mpr fun x hx => remoteCheck_unranked (h x hx).1 (h x hx).2

/-- The lanes of an MCST whose operands have been read. -/
def mcastLanes (act : LaneMask) (vs : List (Nat → DWord)) : List RLane := (lanesOf act).map (fun L => (L, 0, (val vs 0 L).toNat))

/-- The packets of an MCST, the same for each member. -/
def mcastPackets (c : Ctx) (f : FmtF) (vs : List (Nat → DWord)) : List ReplayPacket :=
  (packetsOf (mcastLanes (c.act f.g) vs)).map (fun p =>
    { lanes := p.2.map (fun x => (x.1, BitVec.ofNat 64 x.2.2, [(c.w.v f.d.toNat x.1).setWidth 64])) })

/-- The record of an MCST to group g, every member's replay still to issue. -/
def mcastOf (c : Ctx) (op : Nat) (grp : DWord) (g : Group) (ps : List ReplayPacket) : Mcast :=
  { op := op, team := c.t.id, warp := c.wi, seq := c.p.seq, flag := flagOf c.p.setB, stream := c.w.streamId.toNat
    job := c.t.ident.job, part := bitOf grp 8, members := g.bitmap, failed := []
    todo := (membersOf g.bitmap).map (fun r => { rank := r, packets := ps }) }

/-- The machine once an MCST is recorded: its split goes on, and no replay has issued yet. -/
def mcastBegun (c' : Ctx) (m : Mcast) : State :=
  ({ c' with s := c'.s.fresh.2.updFab (fun b => { b with mcasts := b.mcasts ++ [m] }), w := c'.w.bind m.flag } : Ctx).advance.commit

theorem remoteUsed_mcastBegun (c' : Ctx) (m : Mcast) (core : Nat) : remoteUsed (mcastBegun c' m) core = remoteUsed c'.s core := rfl

section Mcst
variable {f : FmtF} {vs : List (Nat → DWord)} (h : Reads s .accessOnly c f.g [op64 f.a, op32 .int f.peer] c' vs)
  (hd : regOk c f.d.toNat = true) (hact : c.act f.g ≠ 0)
  (hlanes : ∀ x ∈ mcastLanes (c.act f.g) vs, x.2.2 % 4 = 0 ∧ x.2.2 < globalTop)
include h hd hact hlanes

theorem mcst_inactive_traps
    (hg : ∀ g, c.s.group? (bitsOf (val vs 1 (lane0 (c.act f.g))) 0 6) = some g → g.active = false) :
    Traps (.mcst f) s c { cause := causeFABRIC, lo := BitVec.ofNat 32 (ownRank c.s), hi := 0, lane := lane0 (c.act f.g) } := by
  obtain ⟨hissue, hops, hread⟩ := h
  have hpass := remoteChecks_unranked (s := c.s) hlanes
  refine traps_of hissue rfl ((if_pos (by rw [hd, opsAll hops]; rfl)).trans ((if_neg hact).trans ?_))
  rw [mcastLanes] at hpass
  simp only [hread, hpass]
  split
  · simp_all
  · rfl
  · rename_i hsome
    simp [hg _ hsome]

theorem exec_mcst {g : Group} (hg : c.s.group? (bitsOf (val vs 1 (lane0 (c.act f.g))) 0 6) = some g) (hon : g.active = true) :
    let ps := mcastPackets c f vs
    let m := mcastOf c c'.s.nextId (val vs 1 (lane0 (c.act f.g))) g ps
    exec (.mcst f) s = .next (finishRes c (if remoteRoom c.s c.t.core ps.length = false then .stall
      else .gone (replayMcast c.t.core m m.todo (mcastBegun c' m)))) := by
  intro ps m
  obtain ⟨hissue, hops, hread⟩ := h
  have hpass := remoteChecks_unranked (s := c.s) hlanes
  refine exec_ends hissue rfl ((if_pos (by rw [hd, opsAll hops]; rfl)).trans ((if_neg hact).trans ?_))
  rw [mcastLanes] at hpass
  simp only [hread, hpass, hg, hon, Bool.not_true, Bool.false_eq_true, if_false, Bool.not_eq_true', readOps_core hread, m, ps, mcastPackets,
    mcastLanes, mcastOf, mcastBegun, State.fresh]

end Mcst

/-- RFENCE without an active lane, or with nothing outstanding that it covers, completes. -/
theorem rfence_completes (h : Issues s .accessOnly c)
    (hdone : c.act g = 0 ∨ (c.s.core c.t.core).stores = [] ∧ exchangePending c.s c.t.id c.wi (c.act g) = false ∧
      fenceRemote c (c.act g) = false ∧ lanesDone c.s c.t c.wi (c.act g) c.s.nextId = true ∧ teamRereading c.t = false) :
    Completes (.rfence g) s (if c.act g = 0 then c else c.releases (c.act g)) (c.p.pc + 4) := by
  refine completes_of h rfl ?_ (CoreInstructions.follows_ite (.refl c) (releases_follows ..))
  by_cases hact : c.act g = 0
  · simp only [if_pos hact]
  · obtain ⟨hstores, hexchange, hremote, hlanes, hreads⟩ := hdone.resolve_left hact
    simp only [if_neg hact, hstores, hexchange, hremote, hlanes, hreads, List.isEmpty_nil, Bool.not_false, Bool.and_self, if_true]

end Lemmas

/-! ## The obligations -/

/-- Settles O36: every remote instruction is the remote form of its row; a lane that fails a check traps before any packet is sent. -/
theorem remoteAccessesComplete : Obligations.RemoteAccessesComplete := by
  intro f s c r hr h hd ha hpeer haok hpok
  obtain ⟨hinactive, hactive⟩ := exec_if ((exec_remotes f s r hr).trans (remoteForm_eq hd ha hpeer haok hpok h))
  refine ⟨fun hact => CoreInstructions.completes_of_end h.1 (hinactive hact) (.refl c), fun hact => ?_⟩
  intro xs kind flag
  refine ⟨fun x i hx hi => ?_, fun hreach hroom => ?_⟩
  · rw [Traps, hactive hact, remoteEnd_trap hx hi]
    rfl
  · have hflag : flag = flagOf (if r.2.2.2.2.1.isNone then c.p.setB else c.p.setA) := by
      simp only [flag]
      cases r.2.2.2.2.1 <;> rfl
    change Completes r.1 s ((packetsOf xs).foldl (sendBound r.2.1 (kindOf r.2.2.2.2.1 f.d.toNat) flag (fun w => r.2.2.2.2.2 w f.d.toNat)) c) _
    refine CoreInstructions.completes_of_end h.1 ?_ (Follows.foldl _ sendBound_follows _ c)
    rw [hactive hact, remoteEnd_sends hreach hroom, hflag]

/-- Settles O37: RLDQ and XLDQ wait for room, then reserve the entry that their requests fill. -/
theorem remoteQueueReadsComplete : Obligations.RemoteQueueReadsComplete := by
  refine ⟨?rldq, ?xldq⟩
  case rldq =>
    intro g q a peer wide s c x h hx hprod hdir hwidth ha hpeer haok hpok hact i xs hreach
    obtain ⟨hfull, hroom⟩ := exec_if (exec_rldq h hx hprod hdir hwidth ha hpeer haok hpok hact hreach)
    refine ⟨hfull, fun hfree hspace => CoreInstructions.completes_of_end h.1 ((exec_if (hroom ?_)).2 ?_) ?_⟩
    · exact Bool.not_eq_false _ ▸ hfree
    · exact Bool.not_eq_false _ ▸ hspace
    · exact (Follows.foldl _ (fun c p => sendPacket_follows ..) _ c).trans (entryReserved_follows ..)
  case xldq =>
    intro g q a hr s c c' x vs h hx hprod hdir hwidth hact hd xs hready hhandle halign
    obtain ⟨hfull, hroom⟩ := exec_if (exec_xldq h hx hprod hdir hwidth hact hready hhandle halign)
    refine ⟨hfull, fun hfree => CoreInstructions.completes_of_end h.1.1 (hroom ?_) ?_⟩
    · exact Bool.not_eq_false _ ▸ hfree
    · exact ((readOps_follows h.2.2).1.trans (Follows.foldl _ (fun c b => sendRead_follows ..) _ c')).trans (entryReserved_follows ..)

/-- Settles O38: MCST is recorded with a replay for each member, and with room for all of them every replay issues; RFENCE waits for what it covers. -/
theorem multicastCompletes : Obligations.MulticastCompletes := by
  refine ⟨?mcst, fun g s c h hdone => rfence_completes h hdone⟩
  intro f s c c' vs h hd hact grp xs hlanes
  refine ⟨mcst_inactive_traps h hd hact hlanes, fun g hg hon => ?_⟩
  intro ps flag m begun
  obtain ⟨-, hsends⟩ := exec_if (exec_mcst h hd hact hlanes hg hon)
  refine ⟨fun hroom => hsends (Bool.not_eq_false _ ▸ hroom), fun hroom => ?_⟩
  have htodo : m.todo = (membersOf g.bitmap).map (fun r => { rank := r, packets := ps }) := by simp only [m]
  refine replayMcast_roomy htodo begun ?_
  have hused : remoteUsed begun c.t.core = remoteUsed c.s c.t.core :=
    (remoteUsed_mcastBegun c' m _).trans (readOps_keeps (fun c' => remoteUsed c'.s c.t.core) (fun c' n => remoteUsed_popHead c' n _ _) h.2.2)
  rw [hused]
  exact hroom

/-- Settles O54: the decoder reads each of the words written out in the spec. -/
theorem wordsDecode : Obligations.WordsDecode := by
  unfold Obligations.WordsDecode worked
  decide

end Sys2Proof.FabricInstructions
end

section
/-! PROOFS. COLL, CWAIT, VIEWQ and VIEWCTL (spec/13 R381 to R389): O39 and O40. -/

namespace Sys2Proof.CollectiveEngine
open Sys2Proof Sys2Proof.Machine Sys2Proof.Claims Sys2Proof.ClusterInstructions Sys2Proof.FabricInstructions

section Lemmas
variable {s : State} {c c' : Ctx} {i : Instr} {g : BitVec 4}

/-! ## COLL and CWAIT (spec/13 R381 to R386) -/

theorem setSlot_follows (c : Ctx) (i : Nat) (v : CollSlot) : Follows c (c.setSlot i v) := (Follows.refl c).team' _ rfl rfl

theorem popHead_ident (c : Ctx) (n : Nat) (act : LaneMask) : (c.popHead n act).t.ident = c.t.ident := by
  unfold Ctx.popHead
  split
  · rfl
  · dsimp only
    unfold Team.passes
    split <;> rfl

theorem readOps_ident {act : LaneMask} {ops : List Opnd} {vs : List (Nat → DWord)} (h : readOps c act ops = .got c' vs) :
    c'.t.ident = c.t.ident :=
  readOps_keeps (fun c => c.t.ident) (fun c n => popHead_ident c n act) h

/-- The context in which the collective engine takes a COLL over: its descriptor is read and the stores before it are released. -/
def collRead (c' : Ctx) (act : LaneMask) (es : List TlbEntry) : Ctx := (c'.noteTlb es).releases act

theorem collRead_follows (c' : Ctx) (act : LaneMask) (es : List TlbEntry) : Follows c' (collRead c' act es) :=
  (noteTlb_follows c' es).trans (releases_follows ..)

/-- The record of a collective that COLL starts in group g. -/
def collOf (c : Ctx) (s : State) (slot : Nat) (d : CDesc) (g : Group) : Coll :=
  { id := s.fresh.1, team := c.t.id, slot := slot, flag := (flagOf c.p.setA).map (fun n => (c.wi, n)), job := c.t.ident.job, desc := d
    seq := g.seq, digest := cdDigest d, started := false, inputs := [], digests := [], faults := [], ownFault := 0
    since := s.fresh.2.clock, result := none, status := 0, view := g.view, members := g.bitmap, holder := none, wait := [] }

theorem collOf_follows {s : State} {slot : Nat} {d : CDesc} {g : Group} (h : Follows c c') (hp : c'.p = c.p) (hident : c'.t.ident = c.t.ident) :
    collOf c' s slot d g = collOf c s slot d g := by
  rw [collOf, h.id, h.wi, hp, hident, collOf]

/-- The context that hands a collective over, its slot running and bound to a flag. -/
def collHanded (k : Ctx) (flag : Option Nat) (slot : Nat) : Ctx :=
  ({ k with s := k.s.fresh.2, w := k.w.bind flag } : Ctx).setSlot slot (.running k.s.fresh.1)

/-- How a COLL ends on the group its descriptor names. -/
def collEnd (k : Ctx) (slot : Nat) (d : CDesc) : Option Group → Res
  | none => .done (k.setSlot slot (.aborted (cdGroup d)))
  | some g =>
    if !g.active then .done (k.setSlot slot (.aborted (cdGroup d)))
    else .gone (passColl (collHanded k (flagOf k.p.setA) slot).advance.commit g (collOf k k.s slot d g))

theorem collEnd_inactive {k : Ctx} {slot : Nat} {d : CDesc} {r : Option Group} (h : ∀ g, r = some g → g.active = false) :
    collEnd k slot d r = .done (k.setSlot slot (.aborted (cdGroup d))) := by
  cases r with
  | none => rfl
  | some g => exact if_pos (by simp [h g rfl])

theorem collEnd_active {k : Ctx} {slot : Nat} {d : CDesc} {g : Group} (h : g.active = true) :
    collEnd k slot d (some g) = .gone (passColl (collHanded k (flagOf k.p.setA) slot).advance.commit g (collOf k k.s slot d g)) :=
  if_neg (by simp [h])

theorem exec_coll {f : FmtAB} {vs : List (Nat → DWord)} {ps : List Place} {es : List TlbEntry}
    (h : Reads s .accessOnly c f.g [op32 .int f.b] c' vs) (ha : isSPair f.a = true) (hact : c.act f.g ≠ 0)
    (hslot : bitsOf (val vs 0 (lane0 (c.act f.g))) 0 32 ≤ 7) (hfree : slotOf c.t (bitsOf (val vs 0 (lane0 (c.act f.g))) 0 32) = .free)
    (hr : DieWork.RangePasses c (c.w.s64 (sNum f.a)).toNat 64 64 .r ps es) (hroom : c.s.fab.colls.length < 256)
    (hrel : releaseReady c (c.act f.g) 4 = true) (hd : descOk c.s (BitVec.ofNat 512 (readElem c.s c.t ps)) = true) :
    let k := collRead c' (c.act f.g) es
    let d : CDesc := BitVec.ofNat 512 (readElem c.s c.t ps)
    exec (.coll f) s = .next (finishRes c (collEnd k (bitsOf (val vs 0 (lane0 (c.act f.g))) 0 32) d (k.s.group? (cdGroup d)))) := by
  intro k d
  have ⟨hissue, hops, hread⟩ := h
  have hok : (isSPair f.a && (op32 .int f.b).ok c) = true := by rw [ha, hops _ (List.mem_singleton.mpr rfl)]; rfl
  refine exec_ends hissue rfl ((if_pos hok).trans ((if_neg hact).trans ?_))
  rw [hread]
  refine (if_pos (by rw [decide_eq_true hslot, hfree]; rfl)).trans ((DieWork.uniformRange_passes hr _).trans ?_)
  refine (if_neg (Nat.not_le.mpr hroom)).trans ((if_pos hrel).trans ((if_pos hd).trans ?_))
  dsimp only
  change (match k.s.group? (cdGroup d) with | none => _ | some g => _) = _
  cases k.s.group? (cdGroup d) <;> rfl

/-- How a CWAIT ends on what its slot holds. -/
def cwaitEnd (c c' : Ctx) (act : LaneMask) (d slot : Nat) : CollSlot → Res
  | .free => .trapC causeILLOPND
  | .running _ => .block c 6
  | .done v => afterReads c act (.done (((c'.setSlot slot .free).acquires act).setD d true act (fun _ => v)))
  | .aborted g => contTrap (c'.setSlot slot .free) { cause := causeVIEWCHG, lo := BitVec.ofNat 32 g, hi := viewHeld c.s g, lane := lane0 act }

theorem exec_cwait {f : FmtU} {vs : List (Nat → DWord)} (h : Reads s .accessOnly c f.g [op32 .int f.a] c' vs)
    (hd : pairOk c f.d.toNat = true) (hact : c.act f.g ≠ 0) (hslot : bitsOf (val vs 0 (lane0 (c.act f.g))) 0 32 ≤ 7) :
    let slot := bitsOf (val vs 0 (lane0 (c.act f.g))) 0 32
    exec (.cwait f) s = .next (finishRes c (cwaitEnd c c' (c.act f.g) f.d.toNat slot (slotOf c.t slot))) := by
  intro slot
  have ⟨hissue, hops, hread⟩ := h
  have hok : (pairOk c f.d.toNat && (op32 .int f.a).ok c) = true := by rw [hd, hops _ (List.mem_singleton.mpr rfl)]; rfl
  refine exec_ends hissue rfl ((if_pos hok).trans ((if_neg hact).trans ?_))
  rw [hread]
  refine (if_pos (decide_eq_true hslot)).trans ?_
  change (match slotOf c.t slot with | .free => _ | .running _ => _ | .done _ => _ | .aborted _ => _) = _
  cases slotOf c.t slot <;> rfl

/-! ## VIEWQ (spec/13 R387) -/

/-- The ranks of a bitmap below its rank r stand before r. -/
theorem findIdx?_membersOf {b : BitVec 4096} {r : Nat} (h : bitOf b r = true) :
    (membersOf b).findIdx? (· == r) = some ((List.range r).filter (bitOf b)).length := by
  have hr : r < 4096 := BitVec.lt_of_getLsbD h
  have hranks : List.range 4096 = List.range r ++ (List.range (4096 - r)).map (r + ·) := by
    rw [← List.range_add, Nat.add_sub_cancel' (Nat.le_of_lt hr)]
  have hrest : 4096 - r = 4095 - r + 1 := by omega
  have hbelow : ((List.range r).filter (bitOf b)).findIdx? (· == r) = none :=
    List.findIdx?_eq_none_iff.mpr fun x hx => by
      have := List.mem_range.mp (List.mem_filter.mp hx).1
      simp only [beq_eq_false_iff_ne]
      omega
  rw [membersOf, hranks, List.filter_append, List.findIdx?_append, hbelow, hrest, List.range_succ_eq_map]
  simp [h, List.findIdx?_cons]

theorem findIdx?_membersOf_none {b : BitVec 4096} {r : Nat} (h : bitOf b r = false) : (membersOf b).findIdx? (· == r) = none :=
  List.findIdx?_eq_none_iff.mpr fun x hx => beq_eq_false_iff_ne.mpr fun hxr => by
    rw [hxr, membersOf, List.mem_filter, h] at hx
    exact Bool.false_ne_true hx.2

theorem viewPos_absent {x : Group} (h : x.st = .excluded ∨ bitOf x.bitmap (ownRank s) = false) : viewPos s x = 0xFFFFFFFF := by
  by_cases hst : x.st = .excluded
  · exact if_pos hst
  · rw [viewPos, if_neg hst, findIdx?_membersOf_none (h.resolve_left hst)]

theorem viewPos_member {x : Group} (hst : x.st ≠ .excluded) (h : bitOf x.bitmap (ownRank s) = true) :
    viewPos s x = BitVec.ofNat 32 ((List.range (ownRank s)).filter (bitOf x.bitmap)).length := by
  rw [viewPos, if_neg hst, findIdx?_membersOf h]

theorem bitOf_bitmapWord (b : BitVec 4096) (k L : Nat) {i : Nat} (h : i < 32) : bitOf (bitmapWord b k L) i = bitOf b (1024 * k + 32 * L + i) := by
  rw [bitmapWord, bitOf, bitsOf, BitVec.getLsbD_ofNat, Nat.testBit_mod_two_pow, Nat.testBit_shiftRight]
  simp [h, bitOf, BitVec.testBit_toNat]

/-- A word of a group that is installed, and 0 of any other. -/
def groupWord (c : Ctx) (grp : Nat) (f : Group → Word) : Word :=
  match c.s.group? (grp % 64) with
  | some g => if g.st = .uninstalled then 0 else f g
  | none => 0

section Viewq
variable {grp sel L : Nat} {f : Group → Word}

theorem groupWord_uninstalled (h : ∀ g, c.s.group? (grp % 64) = some g → g.st = .uninstalled) : groupWord c grp f = 0 := by
  unfold groupWord
  split
  · exact if_pos (h _ ‹_›)
  · rfl

theorem groupWord_installed {x : Group} (hx : c.s.group? (grp % 64) = some x) (hst : x.st ≠ .uninstalled) : groupWord c grp f = f x := by
  rw [groupWord, hx]
  exact if_neg hst

theorem viewqValue_view (h : sel % 16 = 0) : viewqValue c grp sel L = groupWord c grp (fun g => g.view) := by
  rw [viewqValue, h]
  rfl

theorem viewqValue_count (h : sel % 16 = 1) : viewqValue c grp sel L = groupWord c grp (fun g => BitVec.ofNat 32 (countOf g.bitmap)) := by
  rw [viewqValue, h]
  rfl

theorem viewqValue_place (h : sel % 16 = 2) : viewqValue c grp sel L = groupWord c grp (viewPos c.s) := by
  rw [viewqValue, h]
  rfl

theorem viewqValue_state (h : sel % 16 = 3) : viewqValue c grp sel L = groupWord c grp (fun g => BitVec.ofNat 32 (groupCode g.st)) := by
  rw [viewqValue, h]
  rfl

theorem viewqValue_bitmap (h : sel % 16 = 4) : viewqValue c grp sel L = groupWord c grp (fun g => bitmapWord g.bitmap (sel / 16 % 4) L) := by
  rw [viewqValue, h]
  rfl

theorem viewqValue_multicast (h : sel % 16 = 5) : viewqValue c grp sel L = bitmapWord c.w.mcast.bits (sel / 16 % 4) L := by
  rw [viewqValue, h]
  rfl

theorem viewqValue_fault (h : sel % 16 = 6) : viewqValue c grp sel L = faultWord c.w.rfault L := by
  rw [viewqValue, h]
  rfl

theorem viewqValue_fails (h : sel % 16 = 7) : viewqValue c grp sel L = BitVec.ofNat 32 c.w.mcast.fails := by
  rw [viewqValue, h]
  rfl

theorem viewqValue_uninstalled (h : sel % 16 ≤ 4) (hg : ∀ g, c.s.group? (grp % 64) = some g → g.st = .uninstalled) :
    viewqValue c grp sel L = 0 := by
  have hsel : sel % 16 = 0 ∨ sel % 16 = 1 ∨ sel % 16 = 2 ∨ sel % 16 = 3 ∨ sel % 16 = 4 := by omega
  obtain h | h | h | h | h := hsel
  · rw [viewqValue_view h, groupWord_uninstalled hg]
  · rw [viewqValue_count h, groupWord_uninstalled hg]
  · rw [viewqValue_place h, groupWord_uninstalled hg]
  · rw [viewqValue_state h, groupWord_uninstalled hg]
  · rw [viewqValue_bitmap h, groupWord_uninstalled hg]

theorem faultWord_beyond (r : Option FaultRecord) (h : r = none ∨ 5 ≤ L) : faultWord r L = 0 := by
  cases r with
  | none => rfl
  | some x =>
    obtain ⟨k, rfl⟩ := Nat.exists_eq_add_of_le' (h.resolve_left (Option.some_ne_none x))
    rfl

theorem loWord_eq_ofNat (x : DWord) : loWord x = BitVec.ofNat 32 (x.toNat % 2 ^ 32) := by
  apply BitVec.eq_of_toNat_eq
  simp [loWord]

theorem bitsOf_eq {n : Nat} (x : BitVec n) (lo w : Nat) : bitsOf x lo w = x.toNat / 2 ^ lo % 2 ^ w := by
  rw [bitsOf, Nat.shiftRight_eq_div_pow]

/-- VIEWQ's value is the word that its selector names. -/
theorem viewWord_viewqValue (c : Ctx) (grp sel L : Nat) : viewWord c grp sel L (viewqValue c grp sel L) := by
  refine ⟨viewqValue_uninstalled, fun x hx hst => ⟨?view, ?count, ?absent, ?member, ?state, ?bitmap⟩, ?multicast, ?fails, ?nofault, ?fault⟩
  case view => exact fun h => by rw [viewqValue_view h, groupWord_installed hx hst]
  case count => exact fun h => by rw [viewqValue_count h, groupWord_installed hx hst, countOf, membersOf]
  case absent => exact fun h hout => by rw [viewqValue_place h, groupWord_installed hx hst, viewPos_absent hout]
  case member =>
    intro h hin hbit
    rw [viewqValue_place h, groupWord_installed hx hst, viewPos_member hin hbit]
  case state =>
    intro h
    rw [viewqValue_state h, groupWord_installed hx hst]
    cases x.st <;> rfl
  case bitmap => exact fun h i hi => by rw [viewqValue_bitmap h, groupWord_installed hx hst, bitOf_bitmapWord _ _ _ hi]
  case multicast => exact fun h i hi => by rw [viewqValue_multicast h, bitOf_bitmapWord _ _ _ hi]
  case fails => exact viewqValue_fails
  case nofault => exact fun h hnone => by rw [viewqValue_fault h, faultWord_beyond _ hnone]
  case fault =>
    intro x h hx
    rw [viewqValue_fault h, hx]
    refine ⟨?_, ?_, ?_, ?_, ?_⟩ <;> rintro rfl
    · rfl
    · rfl
    · exact loWord_eq_ofNat x.addr
    · exact congrArg (BitVec.ofNat 32) (bitsOf_eq x.addr 32 25)
    · rfl

/-- The warp that VIEWQ leaves: selector 6 empties its fault record. -/
def viewqWarp (c' : Ctx) (d : Nat) (act : LaneMask) (grp sel : Nat) : Warp :=
  let w := c'.w.setV d act (viewqValue c' grp sel)
  if sel % 16 = 6 then { w with rfault := none } else w

theorem viewqWarp_follows (c : Ctx) (d : Nat) (act : LaneMask) (grp sel : Nat) : Follows c { c with w := viewqWarp c d act grp sel } :=
  (Follows.refl c).warp _ (by unfold viewqWarp; dsimp only; split <;> rfl)

theorem exec_viewq {f : FmtA} {vs : List (Nat → DWord)} (h : Reads s .accessOnly c f.g [op32 .int f.a, op32 .int f.b] c' vs)
    (hd : regOk c f.d.toNat = true) (hact : c.act f.g ≠ 0) :
    let grp := (val vs 0 (lane0 (c.act f.g))).toNat
    let sel := (val vs 1 (lane0 (c.act f.g))).toNat
    exec (.viewq f) s = .next (finishRes c (if sel % 16 ≤ 7 then .done { c' with w := viewqWarp c' f.d.toNat (c.act f.g) grp sel }
      else .trapC causeILLOP)) := by
  intro grp sel
  have ⟨hissue, hops, hread⟩ := h
  have hok : (regOk c f.d.toNat && (op32 .int f.a).ok c && (op32 .int f.b).ok c) = true := by
    rw [hd, hops _ (by simp), hops _ (by simp)]
    rfl
  refine exec_ends hissue rfl ((if_pos hok).trans ((if_neg hact).trans ?_))
  rw [hread]
  exact ite_congr decide_eq_true_eq (fun _ => rfl) (fun _ => rfl)

end Viewq

/-! ## VIEWCTL (spec/13 R389) -/

theorem follows_fabric {u : State} (h : Follows c c') (hu : u.teams = c.s.teams) : Follows c { c' with s := u } :=
  ⟨h.id, h.wi, h.seq, h.pc, h.table, h.warps, fun id ht => by rw [team?_of_teams hu]; exact ht⟩

theorem answer_follows (c : Ctx) (g : BitVec 4) (d : BitVec 6) (n : Nat) : Follows c (c.answer g d n) := (Follows.refl c).warp _ rfl

/-- The group that a VIEWCTL names. -/
def namedGroup (c : Ctx) (g : BitVec 4) (vs : List (Nat → DWord)) : Nat := bitsOf (val vs 0 (lane0 (c.act g))) 0 6

section Viewctl
variable {d : BitVec 6} {a : BitVec 7} {body : Ctx → Ctx → Nat → Res} {vs : List (Nat → DWord)}

theorem viewctl_unprivileged (he : exec i s = viewctl s g d a body) (h : Issues s .accessOnly c) (hh : c.inHandler = false) :
    Traps i s c (plain causePRIV) :=
  traps_of h he (if_pos (by simp [hh]))

theorem exec_viewctl (he : exec i s = viewctl s g d a body) (h : Reads s .accessOnly c g [op32 .int a] c' vs)
    (hd : regOk c d.toNat = true) (hh : c.inHandler = true) (hact : c.act g ≠ 0) :
    exec i s = .next (finishRes c (body c c' (namedGroup c g vs))) := by
  have ⟨hissue, hops, hread⟩ := h
  have hok : (regOk c d.toNat && (op32 .int a).ok c) = true := by rw [hd, hops _ (List.mem_singleton.mpr rfl)]; rfl
  refine exec_ends hissue he ((if_neg (by simp [hh])).trans ((if_pos hok).trans ((if_neg hact).trans ?_)))
  rw [hread]
  rfl

theorem viewctl_completes {k : Ctx} (he : exec i s = viewctl s g d a body) (h : Reads s .accessOnly c g [op32 .int a] c' vs)
    (hd : regOk c d.toNat = true) (hh : c.inHandler = true) (hact : c.act g ≠ 0)
    (hb : body c c' (namedGroup c g vs) = .done k) (hk : Follows c' k) : Completes i s k (c.p.pc + 4) :=
  CoreInstructions.completes_of_end h.1.1 (hb ▸ exec_viewctl he h hd hh hact) ((readOps_follows h.2.2).1.trans hk)

theorem sendView_sent (s : State) (x : Group) (kind dest : Nat) (m : ViewMsg) : Sent s (sendView s x kind dest m) := send_sent ..

theorem sendJoin_sent (s : State) (x : Group) (dests : List Nat) (leave : Bool) : Sent s (sendJoin s x dests leave) :=
  Sent.foldl (fun _ _ => sendView_sent ..) dests s

/-- A context answers after the fabric's state has changed. -/
theorem answered_follows {u : State} (hu : u.teams = c.s.teams) (n : Nat) : Follows c (({ c with s := u } : Ctx).answer g d n) :=
  (follows_fabric (.refl c) hu).trans (answer_follows ..)

end Viewctl

theorem exec_viewctlJoin (f : FmtU) (s : State) : exec (.viewctlJoin f) s = execViewctlJoin f s := rfl
theorem exec_viewctlLeave (f : FmtU) (s : State) : exec (.viewctlLeave f) s = execViewctlLeave f s := rfl
theorem exec_viewctlInit (g : BitVec 4) (d : BitVec 6) (a : BitVec 7) (b : BitVec 4) (s : State) :
    exec (.viewctlInit g d a b) s = execViewctlInit g d a b s := rfl

section JoinLeave
variable {f : FmtU} {vs : List (Nat → DWord)} {x : Group} (h : Reads s .accessOnly c f.g [op32 .int f.a] c' vs)
  (hd : regOk c f.d.toNat = true) (hh : c.inHandler = true) (hact : c.act f.g ≠ 0)
include h hd hh hact

/-- A device that knows nothing of the group asks to join it, and the group is pending. -/
theorem join_unknown_asks (hg : c'.s.group? (namedGroup c f.g vs) = none) :
    let x := Group.pending (namedGroup c f.g vs) c'.t.ident.job 0 none 0 c'.s.clock
    let u := c'.s.updFab (fun b => { b with groups := b.groups ++ [x] })
    Completes (.viewctlJoin f) s (({ c' with s := sendJoin u x (askable u) false } : Ctx).answer f.g f.d 0) (c.p.pc + 4) := by
  intro x u
  refine viewctl_completes (exec_viewctlJoin f s) h hd hh hact ?_ (answered_follows (sendJoin_sent u x _ false).teams 0)
  rw [hg]

theorem join_member_answers (hg : c'.s.group? (namedGroup c f.g vs) = some x) (hst : x.st = .stable)
    (hbit : bitOf x.bitmap (ownRank c'.s) = true) : Completes (.viewctlJoin f) s (c'.answer f.g f.d 1) (c.p.pc + 4) := by
  refine viewctl_completes (exec_viewctlJoin f s) h hd hh hact ?_ (answer_follows ..)
  rw [hg]
  exact if_pos ⟨hst, hbit⟩

theorem join_asks (hg : c'.s.group? (namedGroup c f.g vs) = some x) (hout : x.st ≠ .stable ∨ bitOf x.bitmap (ownRank c'.s) = false) :
    let dests := if x.st = .uninstalled then askable c'.s else otherMembers c'.s x.bitmap
    Completes (.viewctlJoin f) s (({ c' with s := sendJoin c'.s x dests false } : Ctx).answer f.g f.d 0) (c.p.pc + 4) := by
  intro dests
  refine viewctl_completes (exec_viewctlJoin f s) h hd hh hact ?_ (answered_follows (sendJoin_sent ..).teams 0)
  rw [hg]
  exact if_neg fun hin => hout.elim (· hin.1) (fun hbit => Bool.false_ne_true (hbit.symm.trans hin.2))

theorem leave_unknown_answers (hg : c'.s.group? (namedGroup c f.g vs) = none) :
    Completes (.viewctlLeave f) s (c'.answer f.g f.d 1) (c.p.pc + 4) := by
  refine viewctl_completes (exec_viewctlLeave f s) h hd hh hact ?_ (answer_follows ..)
  rw [hg]

theorem leave_outside_answers (hg : c'.s.group? (namedGroup c f.g vs) = some x)
    (hout : x.active = false ∨ bitOf x.bitmap (ownRank c'.s) = false) :
    Completes (.viewctlLeave f) s (c'.answer f.g f.d 1) (c.p.pc + 4) := by
  refine viewctl_completes (exec_viewctlLeave f s) h hd hh hact ?_ (answer_follows ..)
  rw [hg]
  exact if_pos (by simpa using hout)

theorem leave_asks (hg : c'.s.group? (namedGroup c f.g vs) = some x) (hon : x.active = true)
    (hbit : bitOf x.bitmap (ownRank c'.s) = true) :
    let u := c'.s.updGroup (namedGroup c f.g vs) (fun x => x.ask (ownRank c'.s, true))
    Completes (.viewctlLeave f) s (({ c' with s := sendJoin u x (otherMembers u x.bitmap) true } : Ctx).answer f.g f.d 0) (c.p.pc + 4) := by
  intro u
  refine viewctl_completes (exec_viewctlLeave f s) h hd hh hact ?_ (answered_follows (sendJoin_sent u x _ true).teams 0)
  rw [hg]
  exact if_neg (by rw [hon, hbit]; decide)

end JoinLeave

section Init
variable {gn : Nat}

/-- INIT_READY goes to every other member of a bitmap (R389). -/
def announced (gn job : Nat) (digest : BitVec 32) (u : State) (members : BitVec 4096) : State :=
  (otherMembers u members).foldl (fun u r => send u 36 (.initReady (controlHead u r job 6 gn 0) digest)) u

theorem announced_sent (gn job : Nat) (digest : BitVec 32) (u : State) (members : BitVec 4096) : Sent u (announced gn job digest u members) :=
  Sent.foldl (fun _ _ => send_sent ..) _ u

/-- A group that is not known is found once it is pending. -/
theorem group?_pending {job id now : Nat} {bm : BitVec 4096} {digest : Option (BitVec 32)} (h : s.group? gn = none) :
    (s.updFab (fun b => { b with groups := b.groups ++ [Group.pending gn job bm digest id now] })).group? gn =
      some (Group.pending gn job bm digest id now) := by
  have hnone : s.fab.groups.find? (fun x => x.num == gn) = none := h
  change (s.fab.groups ++ [Group.pending gn job bm digest id now]).find? (fun x => x.num == gn) = _
  rw [List.find?_append, hnone]
  simp [Group.pending]

theorem dropGroup_teams (s : State) (gn : Nat) : (dropGroup s gn).teams = s.teams := rfl

theorem group?_dropGroup (s : State) (gn : Nat) : (dropGroup s gn).group? gn = none :=
  List.find?_eq_none.mpr fun x hx => by
    have := (List.mem_filter.mp hx).2
    simp_all

/-- The split waits under attempt id of group gn, in machine u. -/
def initWaits (c : Ctx) (gn : Nat) (u : State) (id : Nat) : Res :=
  .block { c with s := u, p := { c.p with arrival := some (.init gn id) } } 6

/-- An attempt to install group gn with bitmap bm begins in machine u: the group is pending and its members are asked. -/
def initBegins (c : Ctx) (gn : Nat) (bm : BitVec 4096) (u : State) : Res :=
  let digest := crc32c (leBytes 512 bm.toNat)
  let x := Group.pending gn c.t.ident.job bm (some digest) c.s.nextId c.s.clock
  initWaits c gn (announced gn c.t.ident.job digest (u.updFab (fun f => { f with groups := f.groups ++ [x] })) bm) c.s.nextId

/-- How the first execution of VIEWCTL.init ends, on bitmap bm and the record of its group (R389). -/
def initEnd (c c' : Ctx) (g : BitVec 4) (d : BitVec 6) (es : List TlbEntry) (gn : Nat) (bm : BitVec 4096) (r : Option Group) : Res :=
  if !bitOf bm (ownRank c.s) then .done ((c'.noteTlb es).answer g d 3)
  else match r with
    | none => initBegins c gn bm c.s.fresh.2
    | some x =>
      if x.st ≠ .uninstalled then .done ((c'.noteTlb es).answer g d 4)
      else match x.initDigest with
        | none => initBegins c gn bm (dropGroup c.s.fresh.2 gn)
        | some e =>
          let digest := crc32c (leBytes 512 bm.toNat)
          if e = digest then initWaits c gn c.s x.initId
          else .done (({ c'.noteTlb es with s := dropGroup (announced gn c.t.ident.job digest c.s x.bitmap) gn } : Ctx).answer g d 2)

variable {d : BitVec 6} {a : BitVec 7} {b : BitVec 4} {vs : List (Nat → DWord)}
  (h : Reads s .accessOnly c g [op32 .int a] c' vs) (hd : regOk c d.toNat = true) (hh : c.inHandler = true) (hact : c.act g ≠ 0)
include h hd hh hact

/-- How VIEWCTL.init ends when its split has waited under attempt id, on the record of the group it waits for (R389). -/
def initAgain (c c' : Ctx) (g : BitVec 4) (d : BitVec 6) (id : Nat) (r : Option Group) : Res :=
  match r with
  | some x => if x.initId ≠ id then .done (c'.answer g d 2) else if x.st = .uninstalled then .block c 6 else .done (c'.answer g d 0)
  | none => .done (c'.answer g d 2)

theorem exec_init_again {n id : Nat} (harr : c.p.arrival = some (.init n id)) :
    exec (.viewctlInit g d a b) s = .next (finishRes c (initAgain c c' g d id (c.s.group? n))) := by
  rw [exec_viewctl (exec_viewctlInit g d a b s) h hd hh hact, harr]
  rfl

/-- VIEWCTL.init of a split that has arrived nowhere reads its bitmap. -/
theorem exec_init_first {ps : List Place} {es : List TlbEntry} (harr : c.p.arrival = none)
    (hr : DieWork.RangePasses c (c.w.s64 (2 * b.toNat)).toNat 64 512 .r ps es) :
    let gn := namedGroup c g vs
    exec (.viewctlInit g d a b) s = .next (finishRes c
      (initEnd c c' g d es gn (BitVec.ofNat 4096 (readElem c.s c.t ps)) (c.s.group? gn))) := by
  intro gn
  rw [exec_viewctl (exec_viewctlInit g d a b s) h hd hh hact]
  refine congrArg (fun r => Host.Outcome.next (finishRes c r)) ?_
  dsimp only
  rw [harr]
  refine (DieWork.uniformRange_passes hr _).trans ?_
  refine ite_congr rfl (fun _ => rfl) (fun _ => ?_)
  cases hg : c.s.group? gn with
  | none =>
    dsimp only
    rw [group?_pending (s := c.s.fresh.2) hg]
    rfl
  | some x =>
    refine ite_congr rfl (fun _ => rfl) (fun _ => ?_)
    cases x.initDigest with
    | none =>
      dsimp only
      rw [group?_pending (group?_dropGroup c.s.fresh.2 gn)]
      rfl
    | some e =>
      exact ite_congr rfl (fun _ => rfl) (fun _ => rfl)

end Init

end Lemmas

/-! ## The obligations -/

/-- Settles O39: COLL ends on the group its descriptor names, CWAIT on what its slot holds. -/
theorem collectivesComplete : Obligations.CollectivesComplete := by
  refine ⟨?coll, ?cwait⟩
  case coll =>
    intro f s c c' vs ps es h ha hact slot va hslot hfree halign htop hplaces hclean hclean2 hover hroom hrel d k hd
    have hend : exec (.coll f) s = .next (finishRes c (collEnd k slot d (k.s.group? (cdGroup d)))) :=
      exec_coll h ha hact hslot hfree ⟨halign, htop, hplaces, hclean, hclean2, hover⟩ hroom hrel hd
    obtain ⟨hfollows, -, hp⟩ := readOps_follows h.2.2
    have hk : Follows c k := hfollows.trans (collRead_follows ..)
    have hflag : flagOf k.p.setA = flagOf c.p.setA := congrArg (fun p => flagOf p.setA) hp
    have hident : c'.t.ident = c.t.ident := readOps_ident h.2.2
    refine ⟨fun hoff => CoreInstructions.completes_of_end h.1.1 ?_ ?_, fun g hg hon => ?_⟩
    · rw [hend, collEnd_inactive hoff]
    · exact hk.trans (setSlot_follows ..)
    · rw [hend, hg, collEnd_active hon, collOf_follows hk hp hident, hflag]
      rfl
  case cwait =>
    intro f s c c' vs h hd hact slot hslot
    have hend : exec (.cwait f) s = .next (finishRes c (cwaitEnd c c' (c.act f.g) f.d.toNat slot (slotOf c.t slot))) :=
      exec_cwait h hd hact hslot
    refine ⟨fun hs => ?_, fun id hs => ?_, fun v hs hreads => ?_, fun g hs hnone => ?_⟩
    · rw [Traps, hend, hs]
      rfl
    · rw [hend, hs]
      rfl
    · refine CoreInstructions.completes_of_end h.1.1 ?_ ((((readOps_follows h.2.2).1.trans (setSlot_follows c' slot .free)).trans
        (acquires_follows ..)).trans (setD_follows ..))
      rw [hend, hs, cwaitEnd, afterReads, hreads]
      rfl
    · intro e
      rw [hend, hs, cwaitEnd, DieFaults.finishRes_contTrap _ hnone]
      exact congrArg (fun pc => Host.Outcome.next (takeTrap _ _ (pc + 4))) (readOps_follows h.2.2).1.pc

/-- Settles O40: VIEWQ's value is the word its selector names; join, leave and init end on the record of the group they name. -/
theorem viewsAnswer : Obligations.ViewsAnswer := by
  refine ⟨?viewq, ?joinLeave, ?init⟩
  case viewq =>
    intro f s c c' vs h hd hact grp sel
    obtain ⟨htaken, hrefused⟩ := exec_if (exec_viewq h hd hact)
    refine ⟨fun hsel => hrefused (Nat.not_le.mpr hsel), fun hsel => ⟨viewqValue c' grp sel, fun L _ => viewWord_viewqValue c' grp sel L, ?_⟩⟩
    exact CoreInstructions.completes_of_end h.1.1 (htaken hsel) ((readOps_follows h.2.2).1.trans (viewqWarp_follows ..))
  case joinLeave =>
    intro f s c c' vs h hd
    refine ⟨fun hh => ⟨?_, ?_⟩, fun hh hact => ⟨fun hg => ⟨?_, ?_⟩, fun x hg => ⟨?_, ?_, ?_, ?_⟩⟩⟩
    · exact viewctl_unprivileged (exec_viewctlJoin f s) h.1 hh
    · exact viewctl_unprivileged (exec_viewctlLeave f s) h.1 hh
    · exact join_unknown_asks h hd hh hact hg
    · exact leave_unknown_answers h hd hh hact hg
    · exact join_member_answers h hd hh hact hg
    · exact join_asks h hd hh hact hg
    · exact leave_outside_answers h hd hh hact hg
    · exact leave_asks h hd hh hact hg
  case init =>
    intro g d a b s c c' vs h hd
    refine ⟨fun hh => viewctl_unprivileged (exec_viewctlInit g d a b s) h.1 hh, fun hh hact => ?_⟩
    intro gn
    have hanswer (n : Nat) : Follows c (c'.answer g d n) := (readOps_follows h.2.2).1.trans (answer_follows ..)
    refine ⟨fun n id harr => ?again, fun ps es harr => ?first⟩
    case again =>
      have hend := exec_init_again (b := b) h hd hh hact harr
      refine ⟨fun hg => ?_, fun x hg => ?_⟩
      · rw [hg] at hend
        exact CoreInstructions.completes_of_end h.1.1 hend (hanswer 2)
      · rw [hg] at hend
        obtain ⟨hother, hsame⟩ := exec_if hend
        refine ⟨fun hid => ?_, fun hid hst => ?_, fun hid hst => (exec_if (hsame (not_not_intro hid))).1 hst⟩
        · exact CoreInstructions.completes_of_end h.1.1 (hother hid) (hanswer 2)
        · exact CoreInstructions.completes_of_end h.1.1 ((exec_if (hsame (not_not_intro hid))).2 hst) (hanswer 0)
    case first =>
      intro va halign htop hplaces hclean hclean2 hover bm digest job announce waits begins
      have hend : exec (.viewctlInit g d a b) s = .next (finishRes c (initEnd c c' g d es gn bm (c.s.group? gn))) :=
        exec_init_first h hd hh hact harr ⟨halign, htop, hplaces, hclean, hclean2, hover⟩
      obtain ⟨hout, hin⟩ := exec_if hend
      have hread : Follows c (c'.noteTlb es) := (readOps_follows h.2.2).1.trans (noteTlb_follows ..)
      have hnoted (n : Nat) : Follows c ((c'.noteTlb es).answer g d n) := hread.trans (answer_follows ..)
      refine ⟨fun hbit => CoreInstructions.completes_of_end h.1.1 (hout (congrArg not hbit)) (hnoted 3), fun hbit => ?_⟩
      have hfirst := hin fun hn => Bool.false_ne_true ((congrArg not hbit).symm.trans hn)
      refine ⟨fun hg => ?_, fun x hg => ?_⟩
      · rw [hg] at hfirst
        exact hfirst
      · rw [hg] at hfirst
        obtain ⟨hinstalled, hpending⟩ := exec_if hfirst
        refine ⟨fun hst => CoreInstructions.completes_of_end h.1.1 (hinstalled hst) (hnoted 4), fun hst hdigest => ?_,
          fun hst hdigest => ?_, fun e hst hdigest hne => ?_⟩
        all_goals
          have hattempt := hpending (not_not_intro hst)
          rw [hdigest] at hattempt
        · exact hattempt
        · exact (exec_if hattempt).1 rfl
        · have hteams : (dropGroup (announced gn job digest c.s x.bitmap) gn).teams = c.s.teams :=
            (dropGroup_teams _ gn).trans (announced_sent gn job digest c.s x.bitmap).teams
          have hends := (exec_if hattempt).2 hne
          exact CoreInstructions.completes_of_end h.1.1 hends ((follows_fabric hread hteams).trans (answer_follows ..))

end Sys2Proof.CollectiveEngine
end

section
/-! PROOFS. Events that links and the module's own work bring to the fabric unit (spec/13 R351 to R373): O51. -/

namespace Sys2Proof.FabricEvents
open Sys2Proof Sys2Proof.Machine Sys2Proof.Claims Sys2Proof.CoreEvents

section Lemmas
variable {s : State}

/-! ## What a link brings (spec/12 R343, spec/13 R351) -/

theorem linkEvent_lit {f : State → State} (h : s.pkg.power = .run ∨ s.pkg.power = .idle) : linkEvent s f = .next (f (wakeIdle s)) := if_pos h

theorem laneEvent_lit {f : State → State} (h : Claims.lit s) : laneEvent s f = .next (f (wakeIdle s)) :=
  (if_neg h.1).trans (linkEvent_lit h.2)

theorem clockRuns_of_power (h : s.pkg.power = .run ∨ s.pkg.power = .idle) : clockRuns s = true := by
  rw [clockRuns]
  cases h <;> simp [*]

/-! ## Requests and their responses (spec/13 R358 to R365) -/

section Requests
variable {core : Nat} {r : RemoteReq}

@[simp] theorem wakeIdle_findReq (s : State) (id : Nat) : findReq (wakeIdle s) id = findReq s id := rfl
@[simp] theorem wakeIdle_team? (s : State) (id : Nat) : (wakeIdle s).team? id = s.team? id := rfl

theorem exec_peerRequest {p : Packet} (h : Claims.lit s) (hdest : p.dest = ownRank s) (hsrc : p.src ≠ ownRank s) :
    exec (.remoteRequest p) s = .next (takeRequest p (wakeIdle s)) :=
  ((whenClocked_runs (clockRuns_of_power h.2)).trans (laneEvent_lit h)).trans
    (congrArg Host.Outcome.next ((if_neg (not_not_intro hdest)).trans (if_neg hsrc)))

theorem exec_ownRequest {p : Packet} {t : Team} (h : Claims.lit s) (hdest : p.dest = ownRank s) (hsrc : p.src = ownRank s)
    (hfind : findReq s p.req = some (core, r)) (hpacket : packetFor s r = p) (hteam : s.team? r.team = some t)
    (hwaits : remoteWaits (wakeIdle s) t core r = false) :
    exec (.remoteRequest p) s = .next (takeRequest p (wakeIdle s)) := by
  refine ((whenClocked_runs (clockRuns_of_power h.2)).trans (laneEvent_lit h)).trans
    (congrArg Host.Outcome.next ((if_neg (not_not_intro hdest)).trans ((if_pos hsrc).trans ?_)))
  rw [wakeIdle_findReq, hfind]
  refine if_pos ⟨hpacket, ?_⟩
  rw [wakeIdle_team?, hteam]
  exact congrArg not hwaits

theorem takeResponse_answers {r : Response} {q : RemoteReq} (hfind : findReq s r.req = some (core, q)) (hkind : ∀ n slot, q.kind ≠ .ue n slot) :
    takeResponse r s = answerReq s core q r.lanes := by
  rw [takeResponse, hfind]
  dsimp only
  cases hk : q.kind with
  | ue n slot => exact absurd hk (hkind n slot)
  | _ => rfl

theorem exec_remoteRequestLost {id : Nat} (h : clockRuns s = true) (hfind : findReq s id = some (core, r))
    (hkind : ∀ n slot, r.kind ≠ .ue n slot) :
    exec (.remoteRequestLost id) s = .next (if s.fab.rtime.toNat ≤ s.clock - r.sent then loseReq s core r else s) := by
  refine (whenClocked_runs h).trans (congrArg Host.Outcome.next ?_)
  rw [hfind]
  dsimp only
  cases hk : r.kind with
  | ue n slot => exact absurd hk (hkind n slot)
  | _ => rfl

theorem ueEnd_data {req n slot : Nat} (l : List DWord) (hfind : findReq s req = some (core, r)) (hkind : r.kind = .ue n slot) :
    ueEnd req (some l) s = answerReq s core r (((r.lanes.map (·.1)).zip l).map (fun x => (x.1, 0, x.2))) := by
  simp only [ueEnd, hfind, hkind]

theorem ueEnd_failed {req n slot : Nat} (hfind : findReq s req = some (core, r)) (hkind : r.kind = .ue n slot) :
    ueEnd req none s = answerReq s core r [] := by
  simp only [ueEnd, hfind, hkind]

end Requests

/-! ## Multicast (spec/13 R368, R369) -/

theorem any_pending {l : List Warp} (h : ∃ w ∈ l, w.mcast.pending ≠ []) : l.any (fun w => !w.mcast.pending.isEmpty) = true := by
  obtain ⟨w, hw, hp⟩ := h
  exact List.any_eq_true.mpr ⟨w, hw, by simpa using hp⟩

/-- A multicast none of whose packets is outstanding, and none of whose replays is to issue. -/
theorem multicast_over {op : Nat} {m : Mcast} (htodo : m.todo = []) (hnone : ∀ c ∈ s.cores, ∀ r ∈ c.remote, r.kind ≠ .mcast op) :
    ¬((!m.todo.isEmpty) = true ∨ s.cores.any (fun c => c.remote.any (fun r => r.kind == .mcast op)) = true) := by
  simpa [htodo] using hnone

end Lemmas

/-- Settles O51: each event, in a machine that its links reach or whose clock runs, is the one effect its rule names. -/
theorem remoteEvents : Obligations.RemoteEvents := by
  refine ⟨?request, ?response, ?lost, ?multicast, ?fails, ?rma, ?read⟩
  case request =>
    intro p s hlit hdest
    exact ⟨exec_peerRequest hlit hdest, fun core r t => exec_ownRequest hlit hdest⟩
  case response =>
    intro r core q s hlit hfind hkind
    exact (laneEvent_lit hlit).trans (congrArg _ (takeResponse_answers hfind hkind))
  case lost =>
    intro id core r s hrun hfind hkind hlate
    rw [exec_remoteRequestLost hrun hfind hkind, if_pos hlate]
    rfl
  case multicast =>
    intro op m s hrun hfind htodo hnone
    refine (whenClocked_runs hrun).trans (congrArg _ ?_)
    rw [hfind]
    exact if_neg (multicast_over htodo hnone)
  case fails =>
    intro s id t hteam
    refine ⟨fun hst hdone hpending => ?_, fun hdone => ?_⟩
    · rw [mcastFails, hteam]
      exact if_pos ⟨hst, hdone, any_pending hpending⟩
    · rw [mcastFails, hteam]
      exact if_neg fun h => Bool.false_ne_true (hdone.symm.trans h.2.1)
  case rma =>
    intro r s hpower
    have hexec : exec (.ueRmaRequest r) s = _ := (whenClocked_runs (clockRuns_of_power (.inl hpower))).trans (linkEvent_lit (.inl hpower))
    refine ⟨fun hmatch => ?_, fun w bs hmatch hlen => ⟨fun hwrite hrd => ?_, fun hwrite hbs hwr => ?_⟩⟩
    · rw [hexec, hmatch]
    · rw [hexec, hmatch]
      refine congrArg _ (if_neg ?_)
      simp [hwrite, hrd, hlen]
    · rw [hexec, hmatch]
      refine congrArg _ (if_neg ?_)
      simp [hwrite, hbs, hwr, hlen]
  case read =>
    intro req core n slot r s hfind hkind
    refine ⟨fun hpower l => ?_, fun hrun => ?_⟩
    · exact (linkEvent_lit (.inl hpower)).trans (congrArg _ (ueEnd_data l hfind hkind))
    · exact (whenClocked_runs hrun).trans (congrArg _ (ueEnd_failed hfind hkind))

end Sys2Proof.FabricEvents
end

section
/-! PROOFS. The event that ends a collective, in a machine with two records of one group (spec/13 R379, R382): O52 does not hold of it. -/

namespace Sys2Proof.DuplicateGroups
open Sys2Proof Sys2Proof.Machine

/-! ## The counterexample -/

/-- A team without warps. -/
def restingTeam : Team :=
  Team.start 0
    { task := 0, linear := 0, x := 0, y := 0, z := 0, gx := 1, gy := 1, gz := 1, job := 0, prio := 0, depth := 0, launch := 0, member := 0
      kern := { kdesc := 0, livetab := 0, nlive := 0, entryA := 0, entryE := 0, teamA := 0, teamE := 0, regsA := 0, regsE := 0, acc := 0
                scratch := 0, exch := 0, spill := 0, queues := [], rings := [] } }
    { core := 0, scrBase := 0, queueBases := [], tiles := [], frame := 0, spillBases := [], privSlots := [], quadrants := [] } [] 0 0 false

/-- A record of group 0, of view 0 and of the device alone, in some state. -/
def groupIn (st : GroupState) : Group := { Group.pending 0 0 1 none 0 0 with st := st }

/-- A collective of group 0 that runs under view 0 and has its result, of no elements. -/
def resultIn : Coll :=
  { id := 0, team := 0, slot := 0, flag := none, job := 0, desc := 0, seq := 0, digest := 0, started := true, inputs := [], digests := []
    faults := [], ownFault := 0, since := 0, result := some [], status := 0, view := 0, members := 1, holder := none, wait := [] }

/-- A machine whose fabric holds two records of group 0, the first of them stable. -/
def twoRecords (s : State) : State :=
  { s with teams := [restingTeam], pkg := { s.pkg with power := .run }
           fab := { s.fab with groups := [groupIn .stable, groupIn .agreeing], colls := [resultIn] } }

/-- How many results each record of a group holds. -/
def resultsHeld (s : State) : List Nat := s.fab.groups.map (fun (g : Group) => g.results.length)

/-! ## A collective with a result of no elements -/

section Lemmas
variable {s : State} {c : Coll}

theorem bitsOf_zero (n lo w : Nat) : bitsOf (0 : BitVec n) lo w = 0 := by simp [bitsOf]

theorem resultIn_group : cdGroup resultIn.desc = 0 := bitsOf_zero ..
theorem resultIn_dst : cdDst resultIn.desc = 0 := bitsOf_zero ..

theorem resultPart_nil (d : CDesc) (ranks : List Nat) (own : Nat) : resultPart d ranks own [] = [] := by
  rw [resultPart]
  split
  · rw [List.drop_nil, List.take_nil]
  · rfl

theorem confRange_empty (s : State) (job : Nat) (need : Need) : confRange s job 0 0 need = .ok [] := if_neg (by decide)

/-- A collective that binds no flag leaves the records of groups as they are when it ends. -/
theorem endColl_groups (hflag : c.flag = none) (v : CollSlot) : (endColl s c v).fab.groups = s.fab.groups := by
  rw [endColl, hflag]
  dsimp only
  split
  · split <;> rfl
  · rfl

/-- A join is proposed only in a group that is joining. -/
theorem tryJoin_of_not_joining {gn : Nat} {g : Group} (hg : s.group? gn = some g) (hst : g.st ≠ .joining) : tryJoin s gn = s := by
  rw [tryJoin, joinWith, hg]
  exact if_neg fun h => hst h.1

/-- A collective that has its result, of no elements, writes none and keeps the result in the records of its group. -/
theorem completeColl_empty (hstarted : c.started = true) (hresult : c.result = some []) (hdst : cdDst c.desc = 0) :
    completeColl s c = finishColl (keepResult (writePlaces (s.updColl c.id (fun _ => { c with result := some [] })) [] [])
      { c with result := some [] } []) { c with result := some [] } c.status := by
  have hout : collOut c = .write [] := by rw [collOut, hstarted, hresult]; rfl
  rw [completeColl, hout]
  dsimp only
  rw [ownPart, resultPart_nil, elemBytes, List.flatMap_nil, List.length_nil, hdst, confRange_empty]

theorem clearCovered_fab (s : State) (bs : List (Nat × Byte)) : (clearCovered s bs).fab = s.fab := by
  unfold clearCovered
  split <;> rfl

theorem writePlaces_nil_fab (s : State) : (writePlaces s [] []).fab = s.fab := clearCovered_fab s []

/-- The record of the second group once it keeps the result. -/
def keptIn (p : CollPacket) : Group := { groupIn .agreeing with results := [p] }

/-- The collective's result enters the second record, whose group is not stable. -/
theorem keepResult_groups (hs : s.fab.groups = [groupIn .stable, groupIn .agreeing]) (l : List Word) :
    ∃ p, (keepResult s resultIn l).fab.groups = [groupIn .stable, keptIn p] := by
  refine ⟨Machine.collPacket s resultIn (.result l), ?_⟩
  rw [keepResult, resultIn_group, State.updGroup]
  change s.fab.groups.map _ = _
  rw [hs]
  rfl

/-- The machine once the collective has written its result. -/
def written (s : State) : State := writePlaces ((twoRecords s).updColl 0 (fun _ => resultIn)) [] []

theorem written_groups (s : State) : (written s).fab.groups = [groupIn .stable, groupIn .agreeing] := by
  rw [written, writePlaces_nil_fab]
  rfl

theorem clockRuns_twoRecords (s : State) : clockRuns (twoRecords s) = true := rfl

/-- The event ends the collective, and the second record holds its result. -/
theorem twoRecords_completes (s : State) :
    ∃ t, exec (.collectiveComplete 0) (twoRecords s) = .next t ∧ resultsHeld t = [0, 1] := by
  obtain ⟨p, hkept⟩ := keepResult_groups (written_groups s) []
  have hends : completeColl (twoRecords s) resultIn = finishColl (keepResult (written s) resultIn []) resultIn 0 :=
    completeColl_empty rfl rfl resultIn_dst
  have hgroups : (completeColl (twoRecords s) resultIn).fab.groups = [groupIn .stable, keptIn p] := by
    rw [hends, finishColl, endColl_groups rfl, hkept]
  have hfirst : (completeColl (twoRecords s) resultIn).group? 0 = some (groupIn .stable) := by
    rw [State.group?, hgroups]
    rfl
  refine ⟨completeColl (twoRecords s) resultIn, ?_, by rw [resultsHeld, hgroups]; rfl⟩
  refine (CoreEvents.whenClocked_runs (clockRuns_twoRecords s)).trans (congrArg Host.Outcome.next ?_)
  change tryJoin (completeColl (twoRecords s) resultIn) (cdGroup resultIn.desc) = _
  rw [resultIn_group, tryJoin_of_not_joining hfirst nofun]

end Lemmas

/-! ## The obligation -/

/-- Refutes O52: a collective that writes its result also keeps it in every record of its group that is not stable, while the statement, which knows of the group's first record only, has the groups as they were. It does not exclude a machine with two records of one group: here the first is stable and the second agreeing, and the second comes to hold the result. -/
theorem not_viewEvents : ¬ Obligations.ViewEvents := by
  unfold Obligations.ViewEvents
  rintro ⟨-, -, -, -, hcomplete, -⟩
  obtain ⟨t, hexec, hheld⟩ := twoRecords_completes State.reset
  have hfirst : (twoRecords State.reset).group? (cdGroup resultIn.desc) = some (groupIn .stable) := by rw [resultIn_group]; rfl
  have hrange : confRange (twoRecords State.reset) resultIn.job (cdDst resultIn.desc)
      (elemBytes (cdWidth resultIn.desc) (ownPart (twoRecords State.reset) resultIn [])).length .w = .ok [] := by
    rw [ownPart, resultPart_nil, elemBytes, List.flatMap_nil, List.length_nil, resultIn_dst, confRange_empty]
  obtain ⟨-, -, -, hwrite⟩ := hcomplete 0 resultIn (groupIn .stable) restingTeam (twoRecords State.reset) rfl rfl hfirst rfl rfl nofun nofun rfl
  have hclaim := hwrite [] [] (.inl rfl) hrange
  rw [hexec] at hclaim
  injection hclaim with ht
  rw [ht] at hheld
  change resultsHeld (written State.reset) = [0, 1] at hheld
  rw [resultsHeld, written_groups] at hheld
  exact absurd hheld (by decide)

end Sys2Proof.DuplicateGroups
end

section
/-! PROOFS. The decoder and the encoder agree (spec/01 R4 to R8, R38): one lemma for each constructor and one for each value of the opcode's high half are put together. -/

namespace Sys2Proof.WordsAgree
open Sys2Proof Sys2Proof.Laws.Words

/-- The decoder reads every well-formed instruction back from its word: one case for each constructor, in the order of the type. -/
theorem decode_of_encode : ∀ i : Instr, Statement i :=
  @Instr.rec Statement
    iaddI32 isubI32 imulI32 imulhiI32 imulhiN32 imadI32 iaddI64 isubI64 iminI32 iminN32 imaxI32 imaxN32 iabsI32 iaddsI32 isubsI32 idivN32 and or xor
    andn not shl shrN32 shrI32 sel popc clz brev bfx bfi lea leas faddF32 fsubF32 fmulF32 ffmaF32 fminF32 fmaxF32 fabsF32 fnegF32 faddH2 fmulH2 ffmaH2
    fminH2 fmaxH2 faddB2 fmulB2 ffmaB2 frcp frsq fsqrt fdiv fexp2 flog2 fsinpi fcospi ftanh fscale frnd fclass fdot2H fdot4E4 fdot4E5 keyf icmpI32
    icmpN32 icmpI64 fcmpF32 fcmpH plop ballot vote lpick lmirr lrot lshift lfold lpeer swr mov mov64 rdlane cvt cvtpkH2 cvtpkB2 cvtpkE4 cvtpkE5 qpk4
    qupk4 qscale requant qpush qpop qtry qpeek qskip qflush qstat qeos qeosTest rwait rrel ldr str rset ldB8n ldB8i ldB16n ldB16i ldB32 ldB64 ldB128
    stB8 stB16 stB32 stB64 stB128 ldqB32 ldqB64 ldqB16 stqB32 stqB64 stqB16 ldfe stfe pref discard wback fence stream aaddI32 aaddI64 aaddF32 aaddB2
    aminI32 aminN32 amaxI32 amaxN32 aand aor axor axchB32 axchB64 acasB32 acasB64 aincb bra bru call ret jmpi mergeat merge yield exit bar bara cbar
    sleep nop splitq gang mma mmax mxt mxp mxs czero cread cwrite cdrain mwait ofence tkpass tkwait planes slay sfill sdrain swait regroup ungroup
    spawn tsig twaitFull twaitEmpty preempt rldB32 rldB64 rstB32 rstB64 raaddI64 racasB64 rldqB32 rldqB64 xldq mcst coll cwait viewq rfence
    viewctlJoin viewctlLeave viewctlInit trap bkpt rdsr wrsr rett clock egrel tlbinvJob tlbinvPage tlbinvAll icinvCore icinvDevice haltt clause immL
    immH reservedOpcode splitRotation sleepWake loadComplete storePerformed ldqLanding qdeadTimeout pageRequestEnter pageAnswer boundaryMove
    eccUncorrectable streamStoreRelease matrixGrant passComplete runnelCommandStart fillGranuleLand sdrainWritesDone cdrainGranuleWrite cbarSwap
    exchangeStoreLand columnGroupRepair taskPublish sluiceWriteReport taskDispatch placementWindow taskComplete forcedSaveBound saveStart
    frameComplete teamRestore jobStop trapDelivery remoteFaultDelivery mcastpartDelivery instructionFetch coreRetire hbmChannelSpare hostMemoryAccess
    egressWindowRead bar0RegisterWrite pwrstateWrite tlbcmdDropJob tlbcmdDropAll jobslotValidate jobslotInvalidate cmdqStart cmdqResume cmdqStop
    cmdqNotify phaseReread cmdPublish cmdStopJob cmdResumeJob cmdDiscardJob keyInstall keyEmpty egringOpen egringClose egringHcurWrite dbgReqOff
    dbgReqObserve dbgReqHalt dbghalt dbgresume lifecycleOwn lifecycleLock lifecycleUnlock attestationReport boot moduleReset selfTestDone idleEntry
    idleWake powerOff thermalGate thermalTrip portTraining linkRekey windowReceive windowPadTimeout wavelengthSpare rankDownNotice cgroupWrite
    remoteRequest remoteResponse remoteRequestLost multicastComplete ueRmaRequest uewinOpen uewinClose ueReadResponse collectivePacket cstepTimeout
    suspect propose accept commit agreeTimeout joinRequest collectiveComplete initAgreement darkLink packetDeliveryContextFail

/-- Every word is the word of what it decodes to: one case for each value of the opcode's high half. -/
theorem encode_decodeWord (w : Word) : encode (decodeWord w) = some w := by
  have hlt := (fld w 28 4).isLt
  unfold decodeWord
  generalize hk : (fld w 28 4).toNat = k at hlt
  have hh : fld w 28 4 = BitVec.ofNat 4 k := by rw [← hk, BitVec.ofNat_toNat, BitVec.setWidth_eq]
  interval_cases k
  · exact encodeHi0 hh
  · exact encodeHi1 hh
  · exact encodeHi2 hh
  · exact encodeHi3 hh
  · exact encodeHi4 hh
  · exact encodeHi5 hh
  · exact encodeHi6 hh
  · exact encodeHi7 hh
  · exact encodeHi8 hh
  · exact encodeHi9 hh
  · exact encodeHiA hh
  · exact encodeHiB hh
  · exact encodeHiC hh
  · exact encodeHiD hh
  · exact encodeHiE hh
  · exact encodeHiF hh

/-- Settles O55: the decoder inverts the encoder on every constructor, and the encoder the decoder on every word. -/
theorem decodeAndEncodeAgree : Obligations.DecodeAndEncodeAgree :=
  ⟨decode_of_encode, encode_decodeWord⟩

end Sys2Proof.WordsAgree
end

section
/-! PROOFS. Floating point, conversion and quantization (spec/04 R107 to R113, R122 to R128): every row of the three tables has the meaning of its format, and FSCALE and MOV.64 are lane forms. -/

namespace Sys2Proof.FloatInstructions
open Sys2Proof Sys2Proof.Machine Sys2Proof.Claims

/-- The meaning of each instruction of the table is format A of its function. -/
theorem exec_floatAB (f : FmtA) (s : State) : ∀ r ∈ floatAB f, exec r.1 s = laneAB s r.2.1 r.2.2.1 f r.2.2.2 :=
  List.map_inj_left.mp rfl

/-- The meaning of each instruction of the table is format A of its function, D read too. -/
theorem exec_floatABD (f : FmtA) (s : State) : ∀ r ∈ floatABD f, exec r.1 s = laneABD s r.2.1 r.2.2.1 f r.2.2.2 :=
  List.map_inj_left.mp rfl

/-- The meaning of each instruction of the table is the unary form of its function. -/
theorem exec_floatA (f : FmtU) (m mode : BitVec 2) (sat : BitVec 1) (cv : BitVec 4) (k : BitVec 3) (s : State) :
    ∀ r ∈ floatA f m mode sat cv k, exec r.1 s = laneA s r.2.1 r.2.2.1 f r.2.2.2 :=
  List.map_inj_left.mp rfl

/-- Settles O3: each instruction of the three tables has the meaning of its format; FSCALE mixes two classes of operands and MOV.64 moves a pair. -/
theorem floatAndConvertComplete : Obligations.FloatAndConvertComplete :=
  ⟨fun f s _ _ _ r hr h hd => laneAB_completes (exec_floatAB f s r hr) h hd,
   fun f s _ _ _ r hr h hd => laneABD_completes (exec_floatABD f s r hr) h hd,
   fun f m mode sat cv k s _ _ _ r hr h hd => laneA_completes (exec_floatA f m mode sat cv k s r hr) h hd,
   fun _ _ _ _ _ h hd => laneForm_completes (fun _ L vs => (f32Scale (loWord (val vs 0 L)) (loWord (val vs 1 L))).setWidth 64) rfl h hd,
   fun _ _ _ _ _ h hd => laneForm_completes (fun _ L vs => val vs 0 L) rfl h hd⟩

end Sys2Proof.FloatInstructions
end

section
/-! PROOFS. Side words and words that no row matches (spec/01 R21 to R39): CLAUSE waits for flags, IMM words set the latch, and a reserved word traps by the first check of R34 that fails. -/

namespace Sys2Proof.SideWords
open Sys2Proof Sys2Proof.Machine Sys2Proof.Claims Sys2Proof.ClusterInstructions

section Lemmas
variable {s : State} {c : Ctx} {i : Instr} {roles : Roles} {body : Ctx → Res} {ok : Bool} {r : Res}

/-- An instruction whose step 4 check passes ends as what follows the check does. -/
theorem orIllop_ends {b : Res} (h : Issues s roles c) (he : exec i s = issue s roles body) (hb : body c = orIllop ok b)
    (hok : ok = true) (hr : b = r) : exec i s = .next (finishRes c r) :=
  exec_ends h he (by rw [hb, hok, ← hr]; rfl)

/-- An instruction whose step 4 check fails takes ILLOP (R34). -/
theorem orIllop_traps {b : Res} (h : Issues s roles c) (he : exec i s = issue s roles body) (hb : body c = orIllop ok b)
    (hok : ok = false) : Traps i s c (plain causeILLOP) :=
  traps_of h he (by rw [hb, hok]; rfl)

/-! ## CLAUSE (spec/01 R21 to R23) -/

/-- A clause's flags are clear when each that WAIT names counts no operation (R23). -/
theorem flagsClear_iff {w : Warp} {wait : BitVec 12} :
    w.flagsClear wait = true ↔ ∀ i, i < 12 → bitOf wait i = true → w.flags.getD i 0 = 0 := by
  simp only [Warp.flagsClear, List.all_eq_true, List.mem_range, Bool.or_eq_true, Bool.not_eq_true', beq_iff_eq]
  refine forall₂_congr fun i _ => ?_
  cases bitOf wait i <;> simp

/-- The fields of a CLAUSE word are checked together. -/
theorem clauseOk_iff {a b : BitVec 4} {n : Nat} :
    (flagNameOk a && flagNameOk b && n == 0) = true ↔ flagNameOk a = true ∧ flagNameOk b = true ∧ n = 0 := by
  simp only [Bool.and_eq_true, beq_iff_eq, and_assoc]

/-! ## IMM words (spec/01 R28 to R30) -/

theorem exec_immL (x : BitVec 24) (s : State) : exec (.immL x) s = immWord s (fun _ => x.signExtend 32) := rfl

theorem exec_immH (x : BitVec 24) (s : State) :
    exec (.immH x) s = immWord s (fun p => (x.setWidth 32 <<< 8) ||| (if p.immRun > 0 then p.latch &&& 0xFF else 0)) := rfl

/-- An IMM word within a unit of at most two sets the latch, and the unit goes on. -/
theorem immWord_sets {latch : Split → Word} (h : Issues s .both c) (he : exec i s = immWord s latch) (hrun : c.p.immRun < 2) :
    exec i s = .next ({ c with p := { c.p with pc := c.p.pc + 4, immRun := c.p.immRun + 1, latch := latch c.p, blk := 0 } } : Ctx).commit :=
  orIllop_ends h he rfl (decide_eq_true hrun) rfl

/-- A third IMM word in a row takes ILLOP (R29). -/
theorem immWord_traps {latch : Split → Word} (h : Issues s .both c) (he : exec i s = immWord s latch) (hrun : 2 ≤ c.p.immRun) :
    Traps i s c (plain causeILLOP) :=
  orIllop_traps h he rfl (decide_eq_false (Nat.not_lt.mpr hrun))

/-! ## Words that match no row (spec/01 R34, R39) -/

/-- A word of an unassigned opcode: every role may issue it, and it takes ILLOP. -/
theorem reserved_unassigned {w : Word} (h : Issuing s c) (ho : opcodeAssigned (bitsOf w 24 8) = false) :
    Traps (.reservedOpcode w) s c (plain causeILLOP) := by
  have he : exec (.reservedOpcode w) s = issue s .both (fun _ => .trapC causeILLOP) := by
    change execReservedOpcode w s = _
    rw [execReservedOpcode, ho]
    rfl
  exact traps_of ⟨h, rfl⟩ he rfl

/-- A word of an assigned opcode is its role's check, then that of its privilege, then the fault of its fields. -/
theorem exec_reserved_assigned {w : Word} (ho : opcodeAssigned (bitsOf w 24 8) = true) :
    exec (.reservedOpcode w) s = issue s (opcodeRoles (bitsOf w 24 8)) (fun c =>
      if wordPrivileged w && !c.inHandler then .trapC causePRIV
      else .trapC (if operandOnly w then causeILLOPND else causeILLOP)) := by
  change execReservedOpcode w s = _
  rw [execReservedOpcode, ho]
  rfl

end Lemmas

/-! ## The obligations -/

/-- Settles O19: the flags a CLAUSE names decide between completion and BLK 1, and the run of IMM words between the latch and ILLOP. -/
theorem sideWordsComplete : Obligations.SideWordsComplete := by
  refine ⟨fun wait a b gap give s c h => ⟨fun hok => ⟨fun hclear => ?complete, fun hflag => ?blocks⟩, fun hbad => ?traps⟩,
    fun x s c h => ⟨fun hrun => ⟨immWord_sets h (exec_immL x s) hrun, immWord_sets h (exec_immH x s) hrun⟩,
      fun hrun => ⟨immWord_traps h (exec_immL x s) hrun, immWord_traps h (exec_immH x s) hrun⟩⟩⟩
  case complete =>
    refine completes_of h rfl ?_ ⟨rfl, rfl, rfl, rfl, id, rfl, fun _ => id⟩
    rw [clauseOk_iff.mpr hok, flagsClear_iff.mpr hclear]
    rfl
  case blocks =>
    obtain ⟨i, hi, hw, hf⟩ := hflag
    refine orIllop_ends h rfl rfl (clauseOk_iff.mpr hok) (if_neg ?_)
    exact fun hclear => hf (flagsClear_iff.mp hclear i hi hw)
  case traps => exact orIllop_traps h rfl rfl (Bool.eq_false_iff.mpr (mt clauseOk_iff.mp hbad))

/-- Settles O20: the checks of a reserved word in the order of R34. -/
theorem reservedWordsTrap : Obligations.ReservedWordsTrap := by
  refine fun w s c h => ⟨reserved_unassigned h, fun ho => ⟨fun hrole => ?role, fun hrole => ⟨fun hpriv hout => ?priv, fun hfree => ?field⟩⟩⟩
  case role => exact (exec_reserved_assigned ho).trans (issue_role h hrole _)
  case priv =>
    refine traps_of ⟨h, hrole⟩ (exec_reserved_assigned ho) ?_
    rw [hpriv, hout]
    rfl
  case field =>
    refine traps_of ⟨h, hrole⟩ (exec_reserved_assigned ho) (if_neg ?_)
    rcases hfree with hfree | hin
    · rw [hfree, Bool.false_and]; decide
    · rw [hin, Bool.not_true, Bool.and_false]; decide

end Sys2Proof.SideWords
end

section
/-! PROOFS. Roles and privilege (spec/01 R34 to R36): the opcode of an instruction's word gives the roles that its meaning checks first, constructor by constructor. -/

namespace Sys2Proof.RolesAndPrivilege
open Sys2Proof Sys2Proof.Machine Sys2Proof.Claims

section Lemmas
variable {s : State} {c : Ctx} {i : Instr} {w : Word}

/-! ## The opcode of a word (spec/01 R4) -/

/-- A field above the low part of a concatenation lies in its high part. -/
theorem bitsOf_append {n m : Nat} (x : BitVec n) (y : BitVec m) {lo : Nat} (len : Nat) (h : m ≤ lo) :
    bitsOf (x ++ y) lo len = bitsOf x (lo - m) len := by
  obtain ⟨k, rfl⟩ := Nat.exists_eq_add_of_le h
  rw [bitsOf, bitsOf, Nat.add_sub_cancel_left, Nat.shiftRight_add, BitVec.toNat_append, ← Nat.shiftLeft_add_eq_or_of_lt y.isLt,
    Nat.shiftLeft_eq, Nat.shiftRight_eq_div_pow _ m, Nat.mul_comm, Nat.mul_add_div (Nat.two_pow_pos m), Nat.div_eq_of_lt y.isLt, Nat.add_zero]

/-! ## The role check of every instruction (spec/01 R35) -/

/-- The meaning of i is the check of the roles that the opcode of w permits, and then a body. -/
def RoleChecked (i : Instr) (w : Word) : Prop :=
  ∃ body : Ctx → Res, ∀ s : State, exec i s = issue s (opcodeRoles (bitsOf w 24 8)) body

/-- A lane move is its role's check whichever register file its operand names. -/
theorem laneMoveV_issues (f : FmtA) (src : Nat → Word → Option Nat) : ∃ body : Ctx → Res, ∀ s : State, laneMoveV s f src = issue s .both body := by
  by_cases ha : f.a.toNat < 0x40
  · exact ⟨_, fun s => if_pos ha⟩
  · exact ⟨_, fun s => if_neg ha⟩

/-- Every instruction that has a word of an assigned opcode is its role's check before its meaning; the table of roles is read at the opcode that stands in the constructor's word. -/
theorem roleChecked (hw : encode i = some w) (ha : opcodeAssigned (bitsOf w 24 8) = true) : RoleChecked i w := by
  cases i <;> cases hw
  case reservedOpcode => exact ⟨_, fun _ => SideWords.exec_reserved_assigned ha⟩
  all_goals
    simp only [RoleChecked, bitsOf_append, Nat.reduceLeDiff, Nat.reduceSub, le_refl]
  case lpick f => exact laneMoveV_issues f _
  case lmirr f => exact laneMoveV_issues f _
  case lrot f => exact laneMoveV_issues f _
  case lshift f => exact laneMoveV_issues f _
  all_goals exact ⟨_, fun _ => rfl⟩

theorem opcodeRoles_executeOnly_iff (o : Nat) : opcodeRoles o = .executeOnly ↔
    ((0x20 ≤ o ∧ o ≤ 0x3F) ∨ o = 0x43 ∨ o = 0x44 ∨ (0xB0 ≤ o ∧ o ≤ 0xBF) ∨ o = 0xC4 ∨ o = 0xC5) := by
  unfold opcodeRoles
  split
  case isTrue h =>
    simp only [Bool.or_eq_true, decide_eq_true_eq, beq_iff_eq] at h
    exact iff_of_true rfl (by omega)
  case isFalse h =>
    simp only [Bool.or_eq_true, decide_eq_true_eq, beq_iff_eq] at h
    refine iff_of_false ?_ (by omega)
    split <;> nofun

theorem opcodeRoles_accessOnly_iff (o : Nat) : opcodeRoles o = .accessOnly ↔
    (o = 0x1E ∨ o = 0x1F ∨ (0x70 ≤ o ∧ o ≤ 0x9F) ∨ (0xD0 ≤ o ∧ o ≤ 0xDF)) := by
  unfold opcodeRoles
  split
  case isTrue h =>
    simp only [Bool.or_eq_true, decide_eq_true_eq, beq_iff_eq] at h
    exact iff_of_false nofun (by omega)
  case isFalse =>
    split
    case isTrue h =>
      simp only [Bool.or_eq_true, decide_eq_true_eq, beq_iff_eq] at h
      exact iff_of_true rfl (by omega)
    case isFalse h =>
      simp only [Bool.or_eq_true, decide_eq_true_eq, beq_iff_eq] at h
      exact iff_of_false nofun (by omega)

/-- An instruction whose word's opcode the issuing role may not issue takes ILLROLE. -/
theorem roleChecked_traps (h : Issuing s c) (hi : RoleChecked i w) (hr : (opcodeRoles (bitsOf w 24 8)).allows c.w.role = false) :
    Traps i s c (plain causeILLROLE) := by
  obtain ⟨body, he⟩ := hi
  exact (he s).trans (issue_role h hr body)

/-! ## Privilege (spec/01 R36) -/

theorem wrsr_unprivileged {g : BitVec 4} {a n : BitVec 7} (h : Issuing s c) (hout : c.inHandler = false) : Traps (.wrsr g a n) s c (plain causePRIV) :=
  traps_of ⟨h, rfl⟩ rfl (if_pos (by rw [hout]; rfl))

theorem rdsr_unprivileged {g : BitVec 4} {d : BitVec 6} {n : BitVec 7} (h : Issuing s c) (hout : c.inHandler = false) (hn : 0x40 ≤ n.toNat) :
    Traps (.rdsr g d n) s c (plain causePRIV) :=
  traps_of ⟨h, rfl⟩ rfl (if_pos ⟨hn, by rw [hout]; rfl⟩)

/-- The form of the three TLBINV instructions checks its privilege first. -/
theorem tlbinv_unprivileged {g : BitVec 4} {kind : Ctx → TlbEntry → Bool} {all : Bool} (he : exec i s = tlbinv s g kind all)
    (h : Issuing s c) (hout : c.inHandler = false) : Traps i s c (plain causePRIV) :=
  traps_of ⟨h, rfl⟩ (he.trans rfl) (if_pos (by rw [hout]; rfl))

end Lemmas

/-! ## The obligation -/

/-- Settles O56: the table of roles is R35's, every instruction checks it first, and the privileged ones check their privilege before their operands. -/
theorem rolesForbid : Obligations.RolesForbid := by
  refine ⟨fun i w s c hw ha h => ⟨?illrole, opcodeRoles_executeOnly_iff _, opcodeRoles_accessOnly_iff _⟩,
    fun i w hw ha => roleChecked hw ha, fun s c i h hout => ⟨?wrsr, ?rdsr, ?tlbinv, ?viewctl⟩⟩
  case illrole =>
    rintro (⟨hrole, ho⟩ | ⟨hrole, ho⟩)
    · exact roleChecked_traps h (roleChecked hw ha) (by rw [(opcodeRoles_executeOnly_iff _).mpr ho, hrole]; rfl)
    · exact roleChecked_traps h (roleChecked hw ha) (by rw [(opcodeRoles_accessOnly_iff _).mpr ho, hrole]; rfl)
  case wrsr => rintro g a n rfl; exact wrsr_unprivileged h hout
  case rdsr => rintro g d n rfl hn; exact rdsr_unprivileged h hout hn
  case tlbinv =>
    rintro g a (rfl | rfl | rfl)
    · exact tlbinv_unprivileged rfl h hout
    · exact tlbinv_unprivileged rfl h hout
    · exact tlbinv_unprivileged rfl h hout
  case viewctl =>
    rintro f g d a n hi hrole
    have hissues : Issues s .accessOnly c := ⟨h, by rw [hrole]; rfl⟩
    rcases hi with rfl | rfl | rfl
    · exact CollectiveEngine.viewctl_unprivileged (CollectiveEngine.exec_viewctlJoin f s) hissues hout
    · exact CollectiveEngine.viewctl_unprivileged (CollectiveEngine.exec_viewctlLeave f s) hissues hout
    · exact CollectiveEngine.viewctl_unprivileged (CollectiveEngine.exec_viewctlInit g d a n s) hissues hout

end Sys2Proof.RolesAndPrivilege
end

section
/-! PROOFS. Storage reads back (spec/00 R3, spec/11 R325, spec/12 R330, notes/assumptions/4.md): lists of cells that read alike are equal, a run of writes reads back, and a byte written to L2 or to HBM reads back under its key. -/

namespace Sys2Proof.StorageReadsBack
open Sys2Proof Sys2Proof.Machine Sys2Proof.Claims

/-! ## Cells that read alike -/

theorem cellsGet_cons_self {α : Type} (k : Nat) (v : α) (l : List (Nat × α)) : cellsGet ((k, v) :: l) k = some v := if_pos rfl

theorem cellsGet_cons_ne {α : Type} {k j : Nat} (v : α) (l : List (Nat × α)) (h : k ≠ j) : cellsGet ((k, v) :: l) j = cellsGet l j := if_neg h

/-- An address that a rising list with first address k holds is k or above it. -/
theorem le_of_cellsGet {α : Type} {k j : Nat} {v x : α} {l : List (Nat × α)} (h : above k l) (hget : cellsGet ((k, v) :: l) j = some x) :
    k ≤ j := by
  by_contra hlt
  have habove : above j ((k, v) :: l) := by
    intro c hc
    rcases List.mem_cons.mp hc with rfl | hc
    · exact Nat.lt_of_not_le hlt
    · exact (Nat.lt_of_not_le hlt).trans (h c hc)
  rw [cellsGet_above habove] at hget
  exact nomatch hget

/-- Rising lists of cells that read alike are equal. -/
theorem cells_ext {α : Type} {l m : List (Nat × α)} (hl : cellsRising l = true) (hm : cellsRising m = true)
    (h : ∀ k, cellsGet l k = cellsGet m k) : l = m := by
  induction l generalizing m with
  | nil =>
    cases m with
    | nil => rfl
    | cons y m => exact nomatch (h y.1).trans (cellsGet_cons_self y.1 y.2 m)
  | cons x l ih =>
    cases m with
    | nil => exact nomatch (h x.1).symm.trans (cellsGet_cons_self x.1 x.2 l)
    | cons y m =>
      obtain ⟨k, v⟩ := x
      obtain ⟨j, u⟩ := y
      obtain ⟨hkl, hltail⟩ := rising_cons.mp hl
      obtain ⟨hjm, hmtail⟩ := rising_cons.mp hm
      have hkj : k = j := Nat.le_antisymm (le_of_cellsGet hkl ((h j).trans (cellsGet_cons_self j u m)))
        (le_of_cellsGet hjm ((h k).symm.trans (cellsGet_cons_self k v l)))
      subst hkj
      have hvu : v = u := by simpa [cellsGet_cons_self] using h k
      have htail : l = m := by
        refine ih hltail hmtail fun i => ?_
        by_cases hi : k = i
        · rw [← hi, cellsGet_above hkl, cellsGet_above hjm]
        · simpa only [cellsGet_cons_ne _ _ hi] using h i
      rw [hvu, htail]

/-- The cell that holds a value is in the list. -/
theorem cellsGet_mem {α : Type} {l : List (Nat × α)} {k : Nat} {v : α} (h : cellsGet l k = some v) : (k, v) ∈ l := by
  induction l with
  | nil => exact nomatch h
  | cons x l ih =>
    obtain ⟨j, u⟩ := x
    by_cases hj : j = k
    · subst hj
      rw [cellsGet_cons_self, Option.some.injEq] at h
      exact h ▸ List.mem_cons_self
    · rw [cellsGet_cons_ne u l hj] at h
      exact List.mem_cons_of_mem _ (ih h)

/-! ## Stores -/

/-- In a canonical store of zeros the listed cells are those that read other than zero. -/
theorem Store.cellsGet_eq {w : Nat} {m : Store w} (h : m.wf = true) (hf : m.fill = .zero) (k : Nat) :
    cellsGet m.cells k = if m.get k = 0 then none else some (m.get k) := by
  simp only [Store.get, hf, Fill.value]
  cases hk : cellsGet m.cells k with
  | none => rfl
  | some v =>
    have hnz : v ≠ 0 := by
      simp only [Store.wf, hf, Bool.and_eq_true, List.all_eq_true, bne_iff_ne] at h
      exact h.2 _ (cellsGet_mem hk)
    exact (if_neg hnz).symm

/-- Canonical stores of zeros that read alike are equal. -/
theorem Store.ext_get {w : Nat} {m n : Store w} (hm : m.wf = true) (hn : n.wf = true) (hmf : m.fill = .zero) (hnf : n.fill = .zero)
    (h : ∀ k, m.get k = n.get k) : m = n := by
  have hcells : m.cells = n.cells := cells_ext (Store.wf_rising hm) (Store.wf_rising hn) fun k => by
    rw [Store.cellsGet_eq hm hmf, Store.cellsGet_eq hn hnf, h]
  cases m
  cases n
  simp_all only

/-- A run of writes leaves the cells below and above it. -/
theorem Store.get_write_outside {w : Nat} {m : Store w} (h : m.wf = true) {k j : Nat} {vs : List (BitVec w)} (hj : j < k ∨ k + vs.length ≤ j) :
    (m.write k vs).get j = m.get j := by
  induction vs generalizing m k with
  | nil => rfl
  | cons v vs ih =>
    rw [List.length_cons] at hj
    rw [Store.write, ih (Store.put_wf h k v) (by omega), Store.get_put h, if_neg (by omega)]

/-- A run of writes reads back. -/
theorem Store.read_write {w : Nat} {m : Store w} (h : m.wf = true) (k : Nat) (vs : List (BitVec w)) : (m.write k vs).read k vs.length = vs := by
  induction vs generalizing m k with
  | nil => rfl
  | cons v vs ih =>
    have hput := Store.put_wf h k v
    have hfirst : ((m.put k v).write (k + 1) vs).get k = v := by
      rw [Store.get_write_outside hput (.inl k.lt_succ_self), Store.get_put h, if_pos rfl]
    have hrest := ih hput (k + 1)
    rw [Store.read] at hrest
    rw [Store.write, Store.read, List.length_cons, List.range_succ_eq_map, List.map_cons, List.map_map]
    refine congrArg₂ List.cons hfirst ((List.map_congr_left fun i _ => ?_).trans hrest)
    rw [Function.comp_apply, Nat.succ_eq_add_one, Nat.add_assoc, Nat.add_comm 1]

/-! ## L2 and HBM (spec/11 R325, spec/12 R330) -/

/-- Distinct places under distinct key slots have distinct tags in L2. -/
theorem l2Key_inj {slot slot' pa pa' : Nat} (h : pa < 2 ^ 40) (h' : pa' < 2 ^ 40) : l2Key slot' pa' = l2Key slot pa ↔ slot' = slot ∧ pa' = pa := by
  unfold l2Key
  omega

/-- A byte performed at its home slice reads back, and every other place of L2 and of HBM reads as before. -/
theorem readPhys_writePhys (s : State) {slot pa slot' pa' : Nat} (b : Byte) (h : pa < 2 ^ 40) (h' : pa' < 2 ^ 40) :
    readPhys (writePhys s slot pa b) slot' pa' = if slot' = slot ∧ pa' = pa then b else readPhys s slot' pa' := by
  have hget : cellsGet (writePhys s slot pa b).die.l2 (l2Key slot' pa') =
      if slot' = slot ∧ pa' = pa then some b else cellsGet s.die.l2 (l2Key slot' pa') := by
    rw [writePhys, State.updDie, cellsGet_set, if_congr (l2Key_inj h h') rfl rfl]
  rw [readPhys, hget]
  split_ifs <;> rfl

/-- A property of the machine that an update of one part keeps, a fold of such updates keeps. -/
theorem foldl_keeps {α β : Type} {P : β → Prop} {f : β → α → β} (hf : ∀ b a, P b → P (f b a)) (l : List α) {b : β} (h : P b) :
    P (l.foldl f b) := by
  induction l generalizing b with
  | nil => exact h
  | cons a l ih => exact ih (hf b a h)

/-- What L2 keeps for aliases of a line leaves its cells rising. -/
theorem keepAliases_rising {s : State} (slot pa : Nat) (h : cellsRising s.die.l2 = true) : cellsRising (keepAliases s slot pa).die.l2 = true := by
  refine foldl_keeps (P := fun s : State => cellsRising s.die.l2 = true) (fun s k h => ?_) _ h
  refine foldl_keeps (P := fun m => cellsRising m = true) (fun m a h => ?_) _ h
  split
  · exact h
  · exact cellsSet_rising h _ _

/-- What L2 keeps for aliases of a line is no change of the package. -/
theorem keepAliases_pkg (s : State) (slot pa : Nat) : (keepAliases s slot pa).pkg = s.pkg := by
  refine foldl_keeps (P := fun t : State => t.pkg = s.pkg) (fun t k h => ?_) _ rfl
  exact h

/-- The line of pa is under the key it was taken under. -/
theorem keyOfLine_rekeyLine {s : State} (h : cellsRising s.pkg.keyOf = true) (slot k pa : Nat) : keyOfLine (rekeyLine s slot k pa) pa = k := by
  unfold rekeyLine
  split
  case isTrue hk => exact hk
  case isFalse =>
    dsimp only [keyOfLine, State.updPkg]
    split
    case isTrue hk => rw [cellsGet_erase h, if_pos rfl, hk]; rfl
    case isFalse => rw [cellsGet_set, if_pos rfl]; rfl

/-- Taking a line under another key changes no key slot. -/
theorem keyIn_rekeyLine (s : State) (slot k pa slot' : Nat) : keyIn (rekeyLine s slot k pa) slot' = keyIn s slot' := by
  unfold rekeyLine
  split
  · rfl
  · dsimp only [keyIn, State.updPkg]

/-- A byte of HBM written under a slot that holds a key reads back under it. -/
theorem readHbm_writeHbm {s : State} {slot pa k : Nat} {b : Byte} (hw : Memory.wf s.pkg.hbm = true) (hr : cellsRising s.pkg.keyOf = true)
    (hk : keyIn s slot = some k) : readHbm (writeHbm s slot pa b) slot pa = b := by
  have hwrite : writeHbm s slot pa b = (rekeyLine s slot k pa).updPkg (fun p => { p with hbm := p.hbm.put pa b }) := by rw [writeHbm, hk]
  have hkey : keyIn (writeHbm s slot pa b) slot = some k := by rw [hwrite]; exact (keyIn_rekeyLine ..).trans hk
  have hline : keyOfLine (writeHbm s slot pa b) pa = k := by rw [hwrite]; exact keyOfLine_rekeyLine hr slot k pa
  have hbyte : (writeHbm s slot pa b).pkg.hbm.get pa = b := by
    rw [hwrite]
    exact (Store.get_put (rekeyLine_wf hw slot k pa) pa b pa).trans (if_pos rfl)
  rw [readHbm, hkey]
  exact (if_pos hline).trans hbyte

/-- A write of HBM changes nothing in L2. -/
theorem writeHbm_die (s : State) (slot pa : Nat) (b : Byte) : (writeHbm s slot pa b).die = s.die := by
  unfold writeHbm rekeyLine
  split
  · rfl
  · dsimp only [State.updPkg]
    split <;> rfl

/-- A byte that no cache keeps reads back under a slot that holds a key: L2 holds it no more, and HBM does. -/
theorem readPhys_writeUncached {s : State} {slot pa k : Nat} {b : Byte} (hw : Memory.wf s.pkg.hbm = true) (hr : cellsRising s.pkg.keyOf = true)
    (hl : cellsRising s.die.l2 = true) (hk : keyIn s slot = some k) : readPhys (writeUncached s slot pa b) slot pa = b := by
  have hpkg := keepAliases_pkg s slot pa
  have hgone : cellsGet (writeUncached s slot pa b).die.l2 (l2Key slot pa) = none := by
    rw [writeUncached, writeHbm_die]
    exact (cellsGet_erase (keepAliases_rising slot pa hl) _ _).trans (if_pos rfl)
  rw [readPhys, hgone]
  refine readHbm_writeHbm (k := k) ?_ ?_ ?_
  · exact hpkg.symm ▸ hw
  · exact hpkg.symm ▸ hr
  · exact (congrArg (fun p : Package => cellsGet p.keySlots slot) hpkg).trans hk

/-! ## The obligation -/

/-- Settles O58: a write keeps the form, reads back and leaves the rest; equal contents are equal data; L2 and HBM read back under their keys. -/
theorem memoryReadsBack : Obligations.MemoryReadsBack := by
  refine ⟨fun w m k v h => ⟨Store.put_wf h k v, ?_, fun j hj => ?_⟩,
    fun w m k vs h => ⟨Store.write_wf h k vs, Store.read_write h k vs, fun j hj => Store.get_write_outside h hj⟩,
    fun m n hm hn hmf hnf h => Store.ext_get hm hn hmf hnf h,
    fun s slot pa slot' pa' b h h' => readPhys_writePhys s b h h',
    fun s slot pa k b hw hr hl hk => readPhys_writeUncached hw hr hl hk⟩
  · exact (Store.get_put h k v k).trans (if_pos rfl)
  · exact (Store.get_put h k v j).trans (if_neg hj)

end Sys2Proof.StorageReadsBack
end

section
/-! PROOFS. What an operand delivers (spec/01 R12 to R18, R30, R31): the value and the check of a specifier by the range it lies in, and the entries that queue operands pop. -/

namespace Sys2Proof.OperandValues
open Sys2Proof Sys2Proof.Machine Sys2Proof.Claims

section Lemmas
variable {c : Ctx} {o : Opnd} {x : BitVec 7} {cls : OpClass} {L n : Nat} {q : Queue} {act : LaneMask}

/-! ## Values by specifier (spec/01 R12, R13, R15, R31) -/

theorem value_vreg (h : o.spec.toNat < 0x40) :
    o.value c L = if o.wide then c.w.v64 o.spec.toNat L else (c.w.v o.spec.toNat L).setWidth 64 := if_pos h

theorem value_sreg (h : 0x40 ≤ o.spec.toNat) (h' : o.spec.toNat < 0x60) :
    o.value c L = if o.wide then c.w.s64 (o.spec.toNat - 0x40) else (c.w.sr (o.spec.toNat - 0x40)).setWidth 64 := by
  simp only [Opnd.value, Nat.not_lt.mpr h, h', if_true, if_false]

theorem value_const (h : 0x70 ≤ o.spec.toNat) (h' : o.spec.toNat < 0x78) : o.value c L =
    if o.wide then (inlineConst o.cls (o.spec.toNat - 0x70)).signExtend 64 else (inlineConst o.cls (o.spec.toNat - 0x70)).setWidth 64 := by
  simp only [Opnd.value, show ¬ o.spec.toNat < 0x40 by omega, show ¬ o.spec.toNat < 0x60 by omega, h', if_true, if_false]

theorem value_lane (h : o.spec = 0x78) : o.value c L = BitVec.ofNat 64 L := by rw [Opnd.value, h]; rfl

theorem value_index (h : o.spec = 0x79) : o.value c L = BitVec.ofNat 64 c.w.index := by rw [Opnd.value, h]; rfl

theorem value_latch (h : o.spec = 0x7F) : o.value c L = if o.wide then c.p.latch.signExtend 64 else c.p.latch.setWidth 64 := by
  rw [Opnd.value, h]; rfl

/-- The model's table of inline constants is R13's, value by value. -/
theorem inlineConst_eq {k : Nat} (hk : k < 8) : inlineConst cls k = constant cls k := by
  interval_cases k <;> cases cls <;> rfl

/-! ## Which specifiers may be named (spec/01 R12, R17, R18, R30) -/

theorem ok_vreg (h : o.spec.toNat < 0x40) :
    o.ok c = (decide (o.spec.toNat < c.w.nregs) && (!o.wide || (o.spec.toNat % 2 == 0 && decide (o.spec.toNat + 1 < c.w.nregs)))) := if_pos h

theorem ok_sreg (h : 0x40 ≤ o.spec.toNat) (h' : o.spec.toNat < 0x60) : o.ok c = (!o.wide || o.spec.toNat % 2 == 0) := by
  simp only [Opnd.ok, Nat.not_lt.mpr h, h', if_true, if_false]

theorem ok_reserved (h : 0x7A ≤ o.spec.toNat) (h' : o.spec.toNat < 0x7F) : o.ok c = false := by
  simp only [Opnd.ok, show ¬ o.spec.toNat < 0x40 by omega, show ¬ o.spec.toNat < 0x60 by omega, show ¬ o.spec.toNat < 0x70 by omega,
    show ¬ o.spec.toNat < 0x7A by omega, show o.spec.toNat ≠ 0x7F by omega, if_false]

theorem ok_latch (h : o.spec = 0x7F) : o.ok c = decide (0 < c.p.immRun) := by rw [Opnd.ok, h]; rfl

/-- A pair may be named when its number is even and both its registers are there. -/
theorem ok_vpair (h : o.spec.toNat < 0x40) (hw : o.wide = true) : o.ok c = decide (o.spec.toNat % 2 = 0 ∧ o.spec.toNat + 1 < c.w.nregs) := by
  rw [ok_vreg h, hw, Bool.eq_iff_iff]
  simp only [Bool.not_true, Bool.false_or, Bool.and_eq_true, decide_eq_true_eq, beq_iff_eq]
  omega

/-! ## Queue operands (spec/01 R10, R16) -/

/-- The specifier of queue n. -/
theorem specQueue_of (n : BitVec 4) : specQueue (0x60 + n.setWidth 7) = some n.toNat := by
  have hn := n.isLt
  have hx : (0x60 + n.setWidth 7 : BitVec 7).toNat = 0x60 + n.toNat := by
    rw [BitVec.toNat_add, BitVec.toNat_setWidth]
    change (0x60 + n.toNat % 2 ^ 7) % 2 ^ 7 = _
    omega
  rw [specQueue, hx, if_pos (by omega), Nat.add_sub_cancel_left]

theorem opQueues_one (h : specQueue x = some n) : opQueues [op32 cls x] = [n] := by
  simp only [opQueues, List.filterMap_cons, List.filterMap_nil, op32, h]

theorem opQueues_two (h : specQueue x = some n) : opQueues [op32 cls x, op32 cls x] = [n, n] := by
  simp only [opQueues, List.filterMap_cons, List.filterMap_nil, op32, h]

theorem opValues_one (h : specQueue x = some n) (e : QEntry) : opValues c [op32 cls x] [e] = [e.deliver] := by
  simp only [opValues, op32, h]

theorem opValues_two (h : specQueue x = some n) (e e' : QEntry) :
    opValues c [op32 cls x, op32 cls x] [e, e'] = [e.deliver, e'.deliver] := by
  simp only [opValues, op32, h]

/-- One pop of a queue takes its head entry, if there is one. -/
theorem popEntries_one (hq : c.t.queue? n = some q) : popEntries c.t [n] = if 0 < q.count then some [q.entryAt 0] else none := by
  have hoff : popOffsets [n] = [(n, 0)] := rfl
  simp only [popEntries, hoff, List.foldr_cons, List.foldr_nil, hq]

/-- Two pops of one queue take its head entry and the one behind it, if there are two. -/
theorem popEntries_two (hq : c.t.queue? n = some q) :
    popEntries c.t [n, n] = if 1 < q.count then some [q.entryAt 0, q.entryAt 1] else none := by
  have hoff : popOffsets [n, n] = [(n, 0), (n, 1)] := by simp [popOffsets, List.range_succ]
  simp only [popEntries, hoff, List.foldr_cons, List.foldr_nil, hq]
  by_cases h : 1 < q.count
  · simp only [h, if_true, Nat.zero_lt_of_lt h]
  · simp only [h, if_false]

/-- Operands whose queues hold too few entries wait, BLK 2 (R16, R61). -/
theorem readOps_waits {ops : List Opnd} {qs : List Nat} (hops : opQueues ops = qs) (hqs : qs.isEmpty = false) (hact : act ≠ 0)
    (hnone : popEntries c.t qs = none) : readOps c act ops = .stop (.block c 2) := by
  simp only [readOps, hops, hqs, hact, hnone, or_self, if_false, Bool.false_eq_true]

/-- Operands whose entries the table of R148 delivers are read, and the entries popped in order. -/
theorem readOps_pops {ops : List Opnd} {qs : List Nat} {es : List QEntry} (hops : opQueues ops = qs) (hqs : qs.isEmpty = false) (hact : act ≠ 0)
    (hsome : popEntries c.t qs = some es) (hok : popFate c.s c.t es act = .ok) (hread : readsOwed c.s c.t c.wi act = false) :
    readOps c act ops = .got (qs.foldl (fun c q => c.popHead q act) c) (opValues c ops es) := by
  simp only [readOps, hops, hqs, hact, hsome, hok, hread, or_self, if_false, Bool.false_eq_true]

/-- With no active lane nothing is popped (R10). -/
theorem readOps_idle (c : Ctx) (ops : List Opnd) : readOps c 0 ops = .got c (opValues c ops []) := if_pos (.inr rfl)

end Lemmas

/-! ## The obligation -/

/-- Settles O57: each range of specifiers has one value and one check, and queue operands pop as many entries as they name. -/
theorem operandsRead : Obligations.OperandsRead := by
  refine ⟨fun c x cls L => ⟨?vreg, ?sreg, ?const, ?lane, ?index, ?latch, ?reserved, ?okLatch, ?okVreg, ?okSreg⟩,
    fun c n q cls act hq hact => ?queue, fun c ops => ⟨_, readOps_idle c ops⟩⟩
  case vreg => exact fun h => ⟨value_vreg h, value_vreg h⟩
  case sreg => exact fun ⟨h, h'⟩ => ⟨value_sreg h h', value_sreg h h'⟩
  case const =>
    rintro ⟨h, h'⟩
    have hk : x.toNat - 0x70 < 8 := by omega
    refine ⟨?_, (value_const h h').trans (congrArg (BitVec.signExtend 64) (inlineConst_eq hk))⟩
    rw [value_const h h', ← inlineConst_eq hk]
    exact BitVec.setWidth_setWidth_of_le _ (by decide)
  case lane => exact fun h => ⟨value_lane h, value_lane h⟩
  case index => exact fun h => ⟨value_index h, value_index h⟩
  case latch => exact fun h => ⟨value_latch h, value_latch h⟩
  case reserved => exact fun ⟨h, h'⟩ => ⟨ok_reserved h h', ok_reserved h h'⟩
  case okLatch => exact fun h => ok_latch h
  case okVreg => exact fun h => ⟨(ok_vreg h).trans (Bool.and_true _), ok_vpair h rfl⟩
  case okSreg => exact fun ⟨h, h'⟩ => ⟨ok_sreg h h', (ok_sreg h h').trans (Bool.beq_eq_decide_eq _ _)⟩
  case queue =>
    intro x
    have hx : specQueue x = some n.toNat := specQueue_of n
    have hone := popEntries_one hq
    have htwo := popEntries_two hq
    refine ⟨fun h => ?_, fun h hok hread => ?_, fun h => ?_, fun h hok hread => ?_⟩
    · exact readOps_waits (opQueues_one hx) rfl hact (hone.trans (if_neg (by omega)))
    · rw [readOps_pops (opQueues_one hx) rfl hact (hone.trans (if_pos h)) hok hread, opValues_one hx]
      rfl
    · exact readOps_waits (opQueues_two hx) rfl hact (htwo.trans (if_neg (by omega)))
    · rw [readOps_pops (opQueues_two hx) rfl hact (htwo.trans (if_pos h)) hok hread, opValues_two hx]
      rfl

end Sys2Proof.OperandValues
end

section
/-! PROOFS. A step runs what its word decodes to (spec/01 R4, R33, notes/assumptions/2.md): the turn at the head of the agenda is taken one cycle later, and its outcome settles. -/

namespace Sys2Proof.StepsOfTheMachine
open Sys2Proof Sys2Proof.Machine Sys2Proof.Claims

section Lemmas
variable {s : State}

/-! ## The turn of a step -/

/-- A step one cycle after s: what becomes of the outcome of its turn. -/
def settled (s : State) (o : Host.Outcome State Fault Refusal) : Host.Outcome State Fault Refusal :=
  match o with
  | .next v => .next (settle exec (cycles { s with cur := none } 1) v)
  | o => o

/-- A step takes the turn at the head of the agenda. -/
theorem step_turn {turn : Turn} {rest : List Turn} (h : s.agenda = turn :: rest) :
    Machine.step s = settled s (takeTurn exec { cycles { s with cur := none } 1 with agenda := rest } turn) := by
  have hagenda : (cycles { s with cur := none } 1).agenda = turn :: rest := (cycles_agenda _ _).trans h
  rw [Machine.step, stepWith, hagenda]
  rfl

/-- What a settled outcome is: a next state settles, anything else stands. -/
theorem settled_spec {o : Host.Outcome State Fault Refusal} (h : Machine.step s = settled s o) :
    (∀ v, o = .next v → Machine.step s = .next (settle exec (cycles { s with cur := none } 1) v)) ∧
    ((∀ v, o ≠ .next v) → Machine.step s = o) := by
  refine ⟨fun v hv => h.trans (hv ▸ rfl), fun hne => h.trans ?_⟩
  cases o with
  | next v => exact absurd rfl (hne v)
  | fault f => rfl
  | refused r => rfl

/-! ## The issue of a live slot -/

/-- A live slot whose split may issue, owes no delivery and can fetch its word runs what the word decodes to. -/
theorem issueSlot_runs {u : State} {id wi slot : Nat} {t : Team} {w : Warp} {p : Split} {word : Word} {e : TlbEntry}
    (ht : u.team? id = some t) (hw : t.warps[wi]? = some w) (hp : slotSplit w slot = some p) (hmay : mayIssue t wi w p = true)
    (hreplay : replaying u id wi p.seq = false) (hfault : faultDue t wi w p = none) (hmcast : mcastDue t wi w p = none)
    (hfetch : fetchWord u t p = .word word e) (run : Instr → State → Host.Outcome State Fault Refusal) :
    issueSlot run u id wi slot =
      run (decodeWord word) { noteFetch u t p.pc.toNat word e with cur := some { team := id, warp := wi, seq := p.seq } } := by
  simp only [issueSlot, ht, hw, hp, hmay, hreplay, hfault, hmcast, hfetch, Bool.not_true, Bool.or_false, Bool.false_eq_true, if_false]

/-! ## The fetched word (spec/00 R3, spec/01 R4) -/

theorem toNat_append_byte {n : Nat} (x : BitVec n) (b : Byte) : (x ++ b).toNat = b.toNat + 256 * x.toNat := by
  rw [BitVec.toNat_append, ← Nat.shiftLeft_add_eq_or_of_lt b.isLt, Nat.shiftLeft_eq]
  omega

/-- Four bytes, least significant first, are the word they make up. -/
theorem ofNat_leNat_four (b0 b1 b2 b3 : Byte) : BitVec.ofNat 32 (leNat [b0, b1, b2, b3]) = wordOfBytes b0 b1 b2 b3 := by
  have hword : (wordOfBytes b0 b1 b2 b3).toNat = leNat [b0, b1, b2, b3] := by
    simp only [wordOfBytes, toNat_append_byte, leNat, Nat.mul_zero, Nat.add_zero]
  rw [← hword, BitVec.ofNat_toNat, BitVec.setWidth_eq]

/-- A cache that holds no copy of an address gives the word that memory holds. -/
theorem icacheWord_missing {core job va : Nat} {fresh : Word} (h : ∀ e ∈ (s.core core).icache, ¬(e.job = job ∧ e.va = va)) :
    icacheWord s core job va fresh = fresh := by
  have hnone : (s.core core).icache.find? (fun e => e.job == job && e.va == va) = none :=
    List.find?_eq_none.mpr fun e he => by simpa using h e he
  rw [icacheWord, hnone]

/-- A fetch of a translated address of GLOBAL that the cache does not hold reads four bytes of memory. -/
theorem fetchWord_memory {t : Team} {p : Split} {m : Mapped} (hva : p.pc.toNat < globalTop)
    (hm : translate s { job := t.ident.job, core := some t.core, keyovr := none } p.pc.toNat .x = .ok m)
    (hcache : ∀ e ∈ (s.core t.core).icache, ¬(e.job = t.ident.job ∧ e.va = p.pc.toNat)) :
    fetchWord s t p = .word (wordOfBytes (readPhys s m.slot m.pa) (readPhys s m.slot (m.pa + 1)) (readPhys s m.slot (m.pa + 2))
      (readPhys s m.slot (m.pa + 3))) m.entry := by
  have hread : readPhysNat s m.slot m.pa 4 = leNat [readPhys s m.slot m.pa, readPhys s m.slot (m.pa + 1), readPhys s m.slot (m.pa + 2),
      readPhys s m.slot (m.pa + 3)] := rfl
  rw [fetchWord, if_neg (Nat.not_le.mpr hva), hm, ← ofNat_leNat_four, ← hread]
  exact congrArg (Fetched.word · m.entry) (icacheWord_missing hcache)

end Lemmas

/-! ## The obligation -/

/-- Settles O53: a step takes the turn at the head of the agenda; an issue fetches and runs the decoded word, an event runs itself. -/
theorem stepRunsDecoded : Obligations.StepRunsDecoded := by
  refine ⟨fun s id wi slot rest t w p word e h => ?issue, fun s t p m hva hm hcache => fetchWord_memory hva hm hcache,
    fun s i rest h => settled_spec (step_turn h)⟩
  case issue =>
    intro u ht hw hp hmay hreplay hfault hmcast hfetch
    refine settled_spec ((step_turn h).trans (congrArg (settled s) ?_))
    exact issueSlot_runs ht hw hp hmay hreplay hfault hmcast hfetch exec

end Sys2Proof.StepsOfTheMachine
end

section
/-! PROOFS. YIELD in a warp whose table holds two splits of one SEQ (spec/02 R69, R70, spec/04 R134): O15 does not hold of it. -/

namespace Sys2Proof.DuplicateSplits
open Sys2Proof Sys2Proof.Machine Sys2Proof.Claims

/-! ## The counterexample -/

/-- A parked split with a SEQ. -/
def parkedSplit (q : BitVec 16) : Split := { Tests.split with seq := q, st := .parked }

/-- The issuing split: live, with the SEQ that another split of its table has too. -/
def yieldingSplit : Split := { Tests.split with seq := 0x5000 }

/-- A table in which split 0 is older than the second 0x5000, that one older than 0xA000, and 0xA000 older than split 0 (R59). -/
def yieldingWarp : Warp :=
  { Tests.warp .access with
    table := [yieldingSplit, parkedSplit 0, parkedSplit 0x5000, parkedSplit 0xA000], slots := [{ seq := some 0x5000, issued := 0 }] }

/-- The context of the live split, which yields. -/
def yieldingCtx : Ctx :=
  let t : Team := { Tests.team .access with warps := [yieldingWarp] }
  { s := { State.reset with teams := [t], cur := some { team := t.id, warp := 0, seq := 0x5000 } }
    t := t, w := yieldingWarp, p := yieldingSplit, wi := 0 }

/-- The machine as O15 has it after the YIELD: the split chosen before it in the live slot. -/
def claimedState : State :=
  finishRes yieldingCtx (.gone ({ yieldingCtx with
    p := { yieldingCtx.advance.p with st := .parked, since := yieldingCtx.s.clock }
    w := { yieldingWarp with
      table := putSplit yieldingWarp.table { parkedSplit 0 with st := .live, blk := 0 }
      slots := updAt yieldingWarp.slots 0 (fun _ => { seq := some 0, issued := 0 }) } } : Ctx).commit)

/-- The SEQs that the live slots of a next state hold. -/
def liveSeqs : Host.Outcome State Fault Refusal → List (Option (BitVec 16))
  | .next s => s.teams.flatMap (fun t => t.warps.flatMap (fun w => w.slots.map LiveSlot.seq))
  | _ => []

theorem issues_yieldingCtx : Issues yieldingCtx.s .both yieldingCtx := ⟨⟨rfl, rfl⟩, rfl⟩

/-- Among all the waiting splits R70 chooses split 0. -/
theorem chosen_yieldingWarp : yieldingWarp.chosen = some (parkedSplit 0) := by decide

/-- The YIELD puts its split in place of both of its SEQ; among those left R70 chooses 0xA000. -/
theorem yield_liveSeqs : liveSeqs (exec (.yield 7) yieldingCtx.s) = [some 0xA000] := by decide

theorem claimed_liveSeqs : liveSeqs (.next claimedState) = [some 0] := by decide

/-! ## The obligation -/

/-- Refutes O15: the statement has YIELD give its slot to the split chosen before it, while the model chooses once the split stands at its next word. In a table with two splits of one SEQ that step overwrites the second, which was waiting; since R59's order of age is no order over the whole range of SEQs, the choice among the splits left falls on another. -/
theorem not_mergeYieldSleepComplete : ¬ Obligations.MergeYieldSleepComplete := by
  unfold Obligations.MergeYieldSleepComplete
  rintro ⟨hguards, -⟩
  obtain ⟨-, -, -, -, -, -, -, hyields⟩ := hguards _ _ issues_yieldingCtx
  have hclaim : exec (.yield 7) yieldingCtx.s = .next claimedState :=
    hyields 0 (parkedSplit 0) rfl rfl rfl chosen_yieldingWarp (by decide) (by decide)
  have hseqs := yield_liveSeqs
  rw [hclaim, claimed_liveSeqs] at hseqs
  exact absurd hseqs (by decide)

end Sys2Proof.DuplicateSplits
end

section
/-! PROOFS. MERGE and EXIT (spec/02 R67, R68, spec/04 R133, R135, spec/07 R215, spec/11 R305, R307): what the arrival of a split does to its parent is said once for the warp, and each case of the two instructions reads off where the warp goes. -/

namespace Sys2Proof.MergesAndExits
open Sys2Proof Sys2Proof.Machine Sys2Proof.Claims Sys2Proof.ClusterInstructions

section Lemmas
variable {s : State} {c : Ctx} {w : Warp} {q : BitVec 16} {p x h : Split} {i : Nat} {roles : Roles} {instr : Instr} {g : BitVec 4}

/-! ## Splits of a warp by SEQ -/

theorem splits_updSplit (w : Warp) (q : BitVec 16) (f : Split → Split) :
    (w.updSplit q f).splits = w.splits.map (fun p => if p.seq = q then f p else p) := by
  simp only [Warp.splits, Warp.updSplit, List.map_append]

/-- The split that an update changes, read back. -/
theorem split?_updSplit (f : Split → Split) (hf : ∀ p, (f p).seq = p.seq) : (w.updSplit q f).split? q = (w.split? q).map f := by
  have hseq : (fun p : Split => p.seq == q) ∘ (fun p => if p.seq = q then f p else p) = fun p => p.seq == q := by
    funext p
    by_cases hp : p.seq = q
    · simp only [Function.comp_apply, hp, if_true, hf]
    · simp only [Function.comp_apply, hp, if_false]
  rw [Warp.split?, Warp.split?, splits_updSplit, List.find?_map, hseq]
  cases hfind : w.splits.find? (fun p => p.seq == q) with
  | none => rfl
  | some p =>
    have hp : p.seq = q := by simpa using List.find?_some hfind
    exact congrArg some (if_pos hp)

/-- Two updates of one split are one. -/
theorem updSplit_updSplit (f k : Split → Split) (hf : ∀ p, (f p).seq = p.seq) :
    (w.updSplit q f).updSplit q k = w.updSplit q (k ∘ f) := by
  have hone : (fun p : Split => if p.seq = q then k p else p) ∘ (fun p => if p.seq = q then f p else p) =
      fun p => if p.seq = q then (k ∘ f) p else p := by
    funext p
    by_cases hp : p.seq = q
    · simp only [Function.comp_apply, hp, if_true, hf]
    · simp only [Function.comp_apply, hp, if_false]
  simp only [Warp.updSplit, List.map_map, hone]

/-- Freeing the entry of another split leaves the one with SEQ q. -/
theorem split?_dropSplit {r : BitVec 16} (hne : q ≠ r) : ({ w with table := dropSplit w.table r } : Warp).split? q = w.split? q := by
  have hpred : (fun p : Split => p.seq != r && p.seq == q) = fun p => p.seq == q := by
    funext p
    by_cases hp : p.seq = q
    · simp [hp, hne]
    · simp [hp]
  simp only [Warp.split?, Warp.splits, List.find?_append, dropSplit, List.find?_filter, Bool.decide_and, Bool.decide_eq_true, hpred]

/-! ## Fusion (spec/02 R68) -/

/-- A fused parent of mask m: at the word after its MPC, parked, without header and without ARM. -/
def fusedAt (now : Nat) (m : LaneMask) (p : Split) : Split :=
  { p with mask := m, pc := p.mpc + 4, arrived := 0, arm := false, st := .parked, setA := 15, setB := 15, since := now
           immRun := 0, blk := 0, arrival := none }

/-- A split that waits for a merge and keeps a lane fuses once every such lane has arrived and its accesses are over; else it waits on. -/
theorem tryFuse_left {now n : Nat} {ok : LaneMask → Bool} (hp : w.split? q = some p) (hst : p.st = .waitingMerge)
    (hm : p.mask &&& ~~~w.exited ≠ 0) : tryFuse now ok (n + 1) w q =
      if p.mask &&& ~~~(p.arrived ||| w.exited) ≠ 0 ∨ ok (p.mask &&& ~~~w.exited) = false then w
      else w.updSplit q (fusedAt now (p.mask &&& ~~~w.exited)) := by
  simp only [tryFuse, hp, hst, ne_eq, not_true_eq_false, false_or, hm, if_false]
  by_cases harrived : p.mask &&& ~~~(p.arrived ||| w.exited) = 0
  · cases hok : ok (p.mask &&& ~~~w.exited) with
    | false => simp [harrived]
    | true =>
      simp only [harrived, not_true_eq_false, Bool.not_true, Bool.false_eq_true, or_self, if_false, Bool.true_eq_false]
      rfl
  · simp only [harrived, not_false_eq_true, true_or, if_true]

theorem mask_left (m arrived exited : LaneMask) : m &&& ~~~(arrived ||| exited) = (m &&& ~~~exited) &&& ~~~arrived := by
  rw [BitVec.not_or, BitVec.and_assoc, BitVec.and_comm (~~~exited)]

/-! ## The arrival of a split at its parent (spec/02 R67) -/

/-- A parent at which the lanes of m arrive. -/
def arriving (m : LaneMask) (p : Split) : Split := { p with arrived := p.arrived ||| m }

/-- The parent q after the arrival of the context's split, where x holds its SEQ: with the arrived lanes, or fused. -/
def parentAfter (c : Ctx) (q x : Split) : Split :=
  let left := q.mask &&& ~~~c.w.exited
  if left &&& ~~~(q.arrived ||| c.p.mask) ≠ 0 ∨ lanesDone c.s c.t c.wi left c.s.nextId = false then arriving c.p.mask x
  else fusedAt c.s.clock left x

/-- The warp after that arrival, the context's split freed. -/
def mergedWarp (c : Ctx) (q : Split) : Warp :=
  { c.w with table := (dropSplit c.w.table c.p.seq).map (fun x => if x.seq = q.seq then parentAfter c q x else x)
             spilled := c.w.spilled.map (fun x => if x.seq = q.seq then parentAfter c q x else x) }

/-- The split arrives, and its parent, which keeps a lane, is checked for fusion. -/
theorem fuseWarp_arrived {q : Split} (hne : q.seq ≠ c.p.seq) (hq : c.w.split? q.seq = some q) (hst : q.st = .waitingMerge)
    (hleft : q.mask &&& ~~~c.w.exited ≠ 0) :
    fuseWarp c.s c.t c.wi (({ c.w with table := dropSplit c.w.table c.p.seq } : Warp).updSplit q.seq (arriving c.p.mask)) q.seq = mergedWarp c q := by
  have hsplit := split?_updSplit (w := { c.w with table := dropSplit c.w.table c.p.seq }) (q := q.seq)
    (arriving c.p.mask) (fun _ => rfl)
  rw [split?_dropSplit hne, hq, Option.map_some] at hsplit
  refine (tryFuse_left hsplit hst hleft).trans ?_
  have hcond : q.mask &&& ~~~(q.arrived ||| c.p.mask ||| c.w.exited) = (q.mask &&& ~~~c.w.exited) &&& ~~~(q.arrived ||| c.p.mask) := mask_left ..
  by_cases hwait : (q.mask &&& ~~~c.w.exited) &&& ~~~(q.arrived ||| c.p.mask) ≠ 0 ∨
      lanesDone c.s c.t c.wi (q.mask &&& ~~~c.w.exited) c.s.nextId = false
  · rw [if_pos (hcond ▸ hwait)]
    simp only [mergedWarp, parentAfter, if_pos hwait]
    rfl
  · rw [if_neg (hcond ▸ hwait), updSplit_updSplit (arriving c.p.mask) _ (fun _ => rfl)]
    simp only [mergedWarp, parentAfter, if_neg hwait]
    rfl

/-- The machine with warp w of the context's team in place, its team as t, the lanes of what has fused sharing what they know. -/
def placed (c : Ctx) (t : Team) (w : Warp) : State :=
  c.s.setTeam { (t.shares c.wi c.w w) with warps := updAt t.warps c.wi (fun _ => w) }

/-- Where the machine goes once the warp stands as w: outside a handler no split takes the slot, in one its heir does. -/
def goesOn (c : Ctx) (q : BitVec 16) (w : Warp) : Res :=
  if c.inHandler then
    match handlerHeir w q, w.slots.findIdx? (fun l => l.seq == some c.p.seq) with
    | some h, some i => .gone (placed c (c.passHandler h.seq) (w.takeSlot i h none))
    | _, _ => .gone (placed c c.t w)
  else .gone (placed c c.t w)

/-- The arrival of a split at a parent that keeps a lane. -/
theorem arriveAt_eq {q : Split} (hne : q.seq ≠ c.p.seq) (hq : c.w.split? q.seq = some q) (hst : q.st = .waitingMerge)
    (hleft : q.mask &&& ~~~c.w.exited ≠ 0) : arriveAt c q.seq = goesOn c q.seq (mergedWarp c q) := by
  rw [← fuseWarp_arrived hne hq hst hleft]
  rfl

theorem goesOn_outside (hout : c.inHandler = false) : goesOn c q w = .gone (placed c c.t w) := by
  rw [goesOn, hout]
  rfl

/-- In a handler its heir takes the live slot, and the privilege passes on. -/
theorem goesOn_heir (hin : c.inHandler = true) (hheir : handlerHeir w q = some h)
    (hslot : w.slots.findIdx? (fun l => l.seq == some c.p.seq) = some i) :
    goesOn c q w = .gone (placed c (c.passHandler h.seq) (w.takeSlot i h none)) := by
  simp only [goesOn, hin, hheir, hslot, if_true]

theorem goesOn_noHeir (hin : c.inHandler = true) (hheir : handlerHeir w q = none) : goesOn c q w = .gone (placed c c.t w) := by
  simp only [goesOn, hin, hheir, if_true]

/-! ## Where a handler goes on (notes/assumptions/11.md) -/

theorem handlerHeir_of_goesOn (hh : handlerGoesOn w q h) : handlerHeir w q = some h := by
  obtain ⟨x, hx, ⟨hst, rfl⟩ | ⟨hst, hmem, hhst, hbelow, holdest⟩⟩ := hh
  · simp only [handlerHeir, hx, hst, ne_eq, not_false_eq_true, if_true]
  · simp only [handlerHeir, hx, hst, ne_eq, not_true_eq_false, if_false]
    refine oldestOf_eq (List.mem_filter.mpr ⟨hmem, by simp [hhst, hbelow]⟩) fun y hy hne => ?_
    obtain ⟨hmem, hy⟩ := List.mem_filter.mp hy
    simp only [Bool.and_eq_true, bne_iff_ne] at hy
    exact holdest y hmem hne hy.1 hy.2

theorem handlerHeir_none (hx : w.split? q = some x) (hst : x.st = .waitingMerge)
    (hnone : ∀ y ∈ w.splits, y.st ≠ .waitingMerge → w.below q 64 y = false) : handlerHeir w q = none := by
  have hempty : w.splits.filter (fun y => y.st != .waitingMerge && w.below q 64 y) = [] := by
    refine List.filter_eq_nil_iff.mpr fun y hy hboth => ?_
    simp only [Bool.and_eq_true, bne_iff_ne] at hboth
    exact absurd hboth.2 (by simp [hnone y hy hboth.1])
  simp only [handlerHeir, hx, hst, ne_eq, not_true_eq_false, if_false, hempty]
  rfl

/-- A split as it takes a live slot: asleep or ready (R70, R138). -/
def asLive (h : Split) : Split := { h with st := .live, blk := if h.wake = none then 0 else 8 }

theorem blk_asLive (h : Split) : (if h.wake.isSome = true then 8 else 0 : BitVec 4) = if h.wake = none then 0 else 8 := by
  cases h.wake <;> rfl

/-- A split of the table takes a slot in its place. -/
theorem takeSlot_inTable (hh : (findSplit w.table h.seq).isSome) : w.takeSlot i h none =
    { w with slots := updAt w.slots i (fun _ => { seq := some h.seq, issued := 0 }), table := putSplit w.table (asLive h) } := by
  simp only [Warp.takeSlot, hh, if_true, blk_asLive]
  rfl

/-- A spilled split takes a slot and a free entry. -/
theorem takeSlot_spilled (hh : findSplit w.table h.seq = none) (hroom : w.table.length < 8) : w.takeSlot i h none =
    { w with slots := updAt w.slots i (fun _ => { seq := some h.seq, issued := 0 }), table := w.table ++ [asLive h]
             spilled := dropSplit w.spilled h.seq } := by
  have hroom : w.table.length < Config.tableEntries := hroom
  simp only [Warp.takeSlot, hh, Option.isSome_none, Bool.false_eq_true, hroom, if_true, if_false, blk_asLive]
  rfl

/-! ## MERGE (spec/02 R67, spec/04 R133) -/

/-- MERGE at the MPC of a parent that waits: the split arrives, in a handler once its lanes' accesses are over. -/
theorem exec_merge_atParent {q : Split} (hi : Issues s .both c) (hparent : c.p.parent = some q.seq) (hq : c.w.split? q.seq = some q)
    (hst : q.st = .waitingMerge) (hmpc : q.mpc = c.p.pc) : exec (.merge 7) s =
      .next (finishRes c (if c.inHandler then afterRelease c c.p.mask 0 (arriveAt c q.seq) else arriveAt c q.seq)) := by
  refine exec_ends hi rfl ?_
  have hguard : wholeGuard 7 = true := rfl
  have hseven : (7 : BitVec 4) ≠ 15 := by decide
  simp only [hguard, orIllop, hseven, hparent, hq, hst, hmpc, Option.bind_some, and_self, if_true, if_false]

/-- Outside a handler the split arrives at once. -/
theorem exec_merge_outside {q : Split} {r : Res} (he : exec (.merge 7) s =
    .next (finishRes c (if c.inHandler then afterRelease c c.p.mask 0 (arriveAt c q.seq) else arriveAt c q.seq)))
    (hout : c.inHandler = false) (hr : arriveAt c q.seq = r) : exec (.merge 7) s = .next (finishRes c r) := by
  rw [he, hout, ← hr]
  rfl

/-- In a handler it arrives once its release is ready. -/
theorem exec_merge_inHandler {q : Split} {r : Res} (he : exec (.merge 7) s =
    .next (finishRes c (if c.inHandler then afterRelease c c.p.mask 0 (arriveAt c q.seq) else arriveAt c q.seq)))
    (hin : c.inHandler = true) (hready : releaseReady c c.p.mask 0 = true) (hr : arriveAt c q.seq = r) :
    exec (.merge 7) s = .next (finishRes c r) := by
  rw [he, hin, afterRelease, hready, ← hr]
  rfl

end Lemmas

/-- Settles O16: the parent's fate after the arrival is that of one warp; in a handler its heir takes the slot. -/
theorem mergeArrives : Obligations.MergeArrives := by
  intro s c q hi hparent hne hq hst hmpc left hleft arrived parent put w gone
  have he := exec_merge_atParent hi hparent hq hst hmpc
  have harrive := arriveAt_eq hne hq hst hleft
  refine ⟨fun hout => ?outside, fun hin hbusy => ?stalls, fun hin hready => ⟨fun h i hh hslot => ?heir, fun hnone => ?noHeir⟩⟩
  case outside => exact exec_merge_outside he hout (harrive.trans (goesOn_outside hout))
  case stalls =>
    rw [he, hin, afterRelease, hbusy]
    rfl
  case heir =>
    have hgoes := harrive.trans (goesOn_heir hin (handlerHeir_of_goesOn hh) hslot)
    refine ⟨fun htable => ?_, fun hspilled hroom => ?_⟩
    · exact exec_merge_inHandler he hin hready (hgoes.trans (congrArg (fun w => Res.gone (placed c _ w)) (takeSlot_inTable htable)))
    · exact exec_merge_inHandler he hin hready (hgoes.trans (congrArg (fun w => Res.gone (placed c _ w)) (takeSlot_spilled hspilled hroom)))
  case noHeir =>
    obtain ⟨x, hx, hxst, hbelow⟩ := hnone
    exact exec_merge_inHandler he hin hready (harrive.trans (goesOn_noHeir hin (handlerHeir_none hx hxst hbelow)))

end Sys2Proof.MergesAndExits
end

section
/-! PROOFS. EXIT (spec/02 R68, spec/04 R135, spec/06 R203, spec/08 R242, spec/10 R279, spec/11 R305, R307): its checks are passed once, and what becomes of the machine once its split is freed is one state. -/

namespace Sys2Proof.Exits
open Sys2Proof Sys2Proof.Machine Sys2Proof.Claims Sys2Proof.ClusterInstructions

section Lemmas
variable {s : State} {c : Ctx} {g : BitVec 4} {act : LaneMask} {r : Res}

/-- The exit is not the last of a team that still owes the pass of its exchange area (R242). -/
def mayExit (c : Ctx) (act : LaneMask) : Prop := lastExit c act = false ∨ c.t.scr.exch = 0 ∨ c.t.scr.xpass = true

theorem exchOwed_false (h : mayExit c act) : (lastExit c act && decide (c.t.scr.exch > 0) && !c.t.scr.xpass) = false := by
  rcases h with h | h | h <;> simp [h]

/-- The context that an exit leaves: a handler's end is a DEVICE fence of its lanes (R307). -/
def exitCtx (c : Ctx) (act : LaneMask) : Ctx := if c.inHandler then (c.releases act).acquires act else c

/-- The warp that an exit leaves without its split, its nearest ancestor checked for fusion. -/
def exitWarp (c : Ctx) (act : LaneMask) : Warp :=
  let left : Warp := { c.w with exited := c.w.exited ||| act, table := dropSplit c.w.table c.p.seq }
  match c.p.parent with
  | some q => fuseWarp c.s (exitCtx c act).t c.wi left q
  | none => left

/-- The machine that an exit leaves without its split. -/
def exitState (c : Ctx) (act : LaneMask) : State :=
  c.s.setTeam (regroupDue c.s.freeTag { ((exitCtx c act).t.shares c.wi c.w (exitWarp c act)) with
    warps := updAt (exitCtx c act).t.warps c.wi (fun _ => exitWarp c act) })

/-- How an exit that frees its split ends: the last finishes the team, the handler's ends the handler. -/
def exitEnd (c : Ctx) (act : LaneMask) : Res :=
  if lastExit c act then .gone (finishTeam (exitState c act) c.t.id)
  else if c.inHandler then .ended (endHandler (exitState c act) c.t.id)
  else .gone (exitState c act)

/-- An exit that frees its split; in a handler once its release is ready. -/
theorem exec_exit_frees (h : Issues s .both c) (hact : c.act g ≠ 0) (hnone : c.p.mask &&& ~~~(c.act g) = 0) (hmay : mayExit c (c.act g)) :
    exec (.exit g) s = .next (finishRes c (if c.inHandler then afterRelease c (c.act g) 3 (exitEnd c (c.act g)) else exitEnd c (c.act g))) := by
  refine exec_ends h rfl ?_
  cases hin : c.inHandler
  · simp only [hact, if_false, exchOwed_false hmay, hnone, ne_eq, not_true_eq_false, exitEnd, exitState, exitWarp, exitCtx, hin, Bool.false_eq_true]
    rfl
  · have hfenced : ((c.releases (c.act g)).acquires (c.act g)).inHandler = true := hin
    simp only [hact, if_false, exchOwed_false hmay, hnone, ne_eq, not_true_eq_false, exitEnd, exitState, exitWarp, exitCtx, hin, hfenced,
      Bool.false_eq_true, if_true]
    rfl

/-- Outside a handler the split is freed at once. -/
theorem exec_exit_outside (h : Issues s .both c) (hact : c.act g ≠ 0) (hnone : c.p.mask &&& ~~~(c.act g) = 0) (hmay : mayExit c (c.act g))
    (hout : c.inHandler = false) (hr : exitEnd c (c.act g) = r) : exec (.exit g) s = .next (finishRes c r) := by
  rw [exec_exit_frees h hact hnone hmay, hout, ← hr]
  rfl

/-- In a handler the split is freed once its release is ready. -/
theorem exec_exit_inHandler (h : Issues s .both c) (hact : c.act g ≠ 0) (hnone : c.p.mask &&& ~~~(c.act g) = 0) (hmay : mayExit c (c.act g))
    (hin : c.inHandler = true) (hready : releaseReady c (c.act g) 3 = true) (hr : exitEnd c (c.act g) = r) :
    exec (.exit g) s = .next (finishRes c r) := by
  rw [exec_exit_frees h hact hnone hmay, hin, afterRelease, hready, ← hr]
  rfl

/-- A split that keeps a lane goes on without those that exit. -/
theorem exit_keeps_completes (h : Issues s .both c) (hact : c.act g ≠ 0) (hkeep : c.p.mask &&& ~~~(c.act g) ≠ 0) (hmay : mayExit c (c.act g)) :
    Completes (.exit g) s { c with w := { c.w with exited := c.w.exited ||| c.act g }, p := { c.p with mask := c.p.mask &&& ~~~(c.act g) } }
      (c.p.pc + 4) := by
  refine completes_of h rfl ?_ ⟨rfl, rfl, rfl, rfl, id, rfl, fun _ => id⟩
  simp only [hact, if_false, exchOwed_false hmay, hkeep, ne_eq, not_false_eq_true, if_true, Bool.false_eq_true]

/-- The last exit of a team that owes the pass of its exchange area takes EXCHEXIT (R242). -/
theorem exit_exchange_traps (h : Issues s .both c) (hact : c.act g ≠ 0) (hlast : lastExit c (c.act g) = true) (hexch : 0 < c.t.scr.exch)
    (hpass : c.t.scr.xpass = false) : Traps (.exit g) s c (plain causeEXCHEXIT) := by
  refine traps_of h rfl ?_
  simp only [hact, if_false, hlast, hexch, hpass, decide_true, Bool.not_false, Bool.and_self, if_true]
  rfl

theorem exit_idle_completes (h : Issues s .both c) (hact : c.act g = 0) : Completes (.exit g) s c (c.p.pc + 4) :=
  completes_of h rfl (if_pos hact) (.refl c)

end Lemmas

/-! ## The obligation -/

/-- Settles O17: an exit keeps its split, frees it, or traps, as the lanes it leaves and the team's exchange area have it. -/
theorem exitCompletes : Obligations.ExitCompletes := by
  refine ⟨fun g s c h hact hkeep hmay => exit_keeps_completes h hact hkeep hmay, fun g s c h hact hnone hmay => ?frees,
    fun g s c h hact hlast hexch hpass => exit_exchange_traps h hact hlast hexch hpass, fun g s c h hact => exit_idle_completes h hact⟩
  case frees =>
    intro e left w t
    refine ⟨fun hout => ?_, fun hin hready => ⟨fun hlast => ?_, fun hlast => ?_⟩⟩
    · refine exec_exit_outside h hact hnone hmay hout ?_
      rw [exitEnd, hout]
      exact (apply_ite Res.gone _ _ _).symm
    · exact exec_exit_inHandler h hact hnone hmay hin hready (if_pos hlast)
    · refine exec_exit_inHandler h hact hnone hmay hin hready ?_
      rw [exitEnd, hlast, hin]
      rfl

end Sys2Proof.Exits
end

section
/-! PROOFS. Barriers (spec/02 R76, spec/04 R136, R139, spec/07 R215, spec/08 R241, spec/09 R267, spec/11 R304): where an arrival counts is said once for BAR and BARA, and once for CBAR. -/

namespace Sys2Proof.Barriers
open Sys2Proof Sys2Proof.Machine Sys2Proof.Claims Sys2Proof.ClusterInstructions

section Lemmas
variable {s : State} {c : Ctx} {w : Warp} {g i : BitVec 4} {set : BitVec 2} {id num next n : Nat} {act : LaneMask} {blocks : Bool}
  {instr : Instr} {l m : List BarInstance} {a : BarArrival}

/-! ## The barriers of a team -/

theorem updAt_updAt {α : Type} (l : List α) (k : Nat) (x y : α) : updAt (updAt l k (fun _ => x)) k (fun _ => y) = updAt l k (fun _ => y) := by
  induction l generalizing k with
  | nil => rfl
  | cons z r ih =>
    cases k with
    | zero => rfl
    | succ k => exact congrArg (z :: ·) (ih k)

/-- Of two writes of one barrier the later stands. -/
theorem setBar_setBar (t : Team) (id : Nat) (b b' : Barrier) : (t.setBar id b).setBar id b' = t.setBar id b' := by
  simp only [Team.setBar, updAt_updAt]

/-- A barrier of the team reads what was written to it. -/
theorem bar_setBar {t : Team} (h : id < t.bars.length) (b : Barrier) : (t.setBar id b).bar id = b := by
  rw [Team.bar, Team.setBar, List.getD_eq_getElem?_getD, updAt_get, if_pos rfl, List.getElem?_eq_getElem h]
  rfl

theorem withBars_follows (c : Ctx) (t : Team) (hid : t.id = c.t.id) (hw : t.warps = c.t.warps) (id next : Nat) (l : List BarInstance) :
    Follows c (withBars { c with t := t } id next l) :=
  (Follows.refl c).team' _ hid (congrArg List.length hw)

/-! ## Where an arrival counts (spec/02 R76, spec/04 R136) -/

/-- An arrival opens a round when its warp is in the set it names. -/
def opens (next : Nat) (m : List BarInstance) (w : Warp) (a : BarArrival) (set : BitVec 2) : Option (Barrier × Nat) :=
  if inSet set w then some ({ next := next + 1, pending := m ++ [{ num := next, set := set, arrived := [a] }] }, next) else none

/-- With rounds pending the oldest's set decides, then that of the oldest that has not counted the warp. -/
theorem arrive_eq : Barrier.arrive { next := next, pending := m } w a set =
    if (∃ o, m.head? = some o ∧ inSet o.set w = false) then none
    else match m.find? (fun x => !x.has a.warp) with
      | none => opens next m w a set
      | some x => if inSet x.set w = false then none
          else some ({ next := next, pending := m.map (fun y => if y.num = x.num then { y with arrived := y.arrived ++ [a] } else y) }, x.num) := by
  cases m with
  | nil => rw [if_neg (by rintro ⟨o, ho, -⟩; exact nomatch ho)]; rfl
  | cons o r =>
    cases ho : inSet o.set w with
    | false =>
      rw [if_pos ⟨o, rfl, ho⟩]
      simp only [Barrier.arrive, ho, Bool.not_false, if_true]
    | true =>
      rw [if_neg (by rintro ⟨o', ho', hf⟩; cases ho'; exact absurd (ho.symm.trans hf) (by decide))]
      simp only [Barrier.arrive, ho, Bool.not_true, Bool.false_eq_true, if_false]
      cases hfind : (o :: r).find? (fun x => !x.has a.warp) with
      | none => rfl
      | some x => simp only [Bool.not_eq_true']

/-- An arrival from outside the set that governs counts nowhere. -/
theorem arrive_nowhere (ha : a.warp = c.wi) (h : arrivesNowhere c id set) :
    Barrier.arrive { next := next, pending := pendingBars c id } c.w a set = none := by
  rw [arrive_eq]
  by_cases hhead : ∃ o, (pendingBars c id).head? = some o ∧ inSet o.set c.w = false
  · exact if_pos hhead
  · rw [if_neg hhead, ha]
    rcases h with h | ⟨x, hx, hset⟩ | ⟨hfind, hset⟩
    · exact absurd h hhead
    · simp only [hx, hset, if_true]
    · simp only [hfind, opens, hset, Bool.false_eq_true, if_false]

/-- An arrival counts in the oldest round that has not counted its warp, or opens one. -/
theorem arrive_at (h : arrivesAt c id set act num next l) :
    Barrier.arrive { next := (c.t.bar id).next, pending := pendingBars c id } c.w { warp := c.wi, lanes := act, mark := c.s.nextId } set =
      some ({ next := next, pending := l }, num) := by
  obtain ⟨hhead, hcase⟩ := h
  rw [arrive_eq, if_neg (by rintro ⟨o, ho, hf⟩; exact absurd ((hhead o ho).symm.trans hf) (by decide))]
  rcases hcase with ⟨x, hx, hset, rfl, rfl, rfl⟩ | ⟨hfind, hset, rfl, rfl, rfl⟩
  · simp only [hx, hset, Bool.true_eq_false, if_false]
  · simp only [hfind, opens, hset, if_true]

/-! ## BAR and BARA (spec/04 R136) -/

/-- The context whose complete rounds of barrier id have left. -/
def idleCtx (c : Ctx) (id : Nat) : Ctx := withBars c id (c.t.bar id).next (pendingBars c id)

/-- The context after an arrival that counts in round num and leaves the rounds l, of which the complete ones have left. -/
def arrivedCtx (c : Ctx) (id : Nat) (act : LaneMask) (num next : Nat) (l : List BarInstance) : Ctx :=
  withBars { c with t := c.t.addSignals (.bar id num) c.wi act } id next (l.filter (fun x => !x.complete c.s c.team))

/-- BAR at a round: it blocks while the round is pending, and acquires once it is not. -/
def barWait (c : Ctx) (id num : Nat) (act : LaneMask) : Res :=
  if (c.t.bar id).pending.any (fun x => x.num == num) then .block { c with p := { c.p with arrival := some (.bar id num) } } 7
  else .done { c with t := c.t.observes (.bar id num) c.wi act }

theorem barWait_waits (hl : (c.t.bar id).pending = l) (h : ∃ x ∈ l, x.num = num) :
    barWait c id num act = .block { c with p := { c.p with arrival := some (.bar id num) } } 7 := by
  have hany : l.any (fun x => x.num == num) = true := by simpa using h
  rw [barWait, hl, hany]
  rfl

theorem barWait_completes (hl : (c.t.bar id).pending = l) (h : ∀ x ∈ l, x.num ≠ num) :
    barWait c id num act = .done { c with t := c.t.observes (.bar id num) c.wi act } := by
  have hany : l.any (fun x => x.num == num) = false := by simpa using h
  rw [barWait, hl, hany]
  rfl

/-- An arrival that counts nowhere completes at once. -/
theorem barrier_nowhere (hp : c.p.arrival = none) (h : arrivesNowhere c id set) : barrier c act set id blocks = .done (idleCtx c id) := by
  have harrive : ((c.t.bar id).settle c.s c.team).arrive c.w { warp := c.wi, lanes := act, mark := c.s.nextId } set = none := arrive_nowhere rfl h
  simp only [barrier, hp, harrive]
  rfl

/-- An arrival that counts: BARA completes, BAR waits for the round. -/
theorem barrier_arrives (hp : c.p.arrival = none) (h : arrivesAt c id set act num next l) : barrier c act set id blocks =
    if blocks then barWait (arrivedCtx c id act num next l) id num act else .done (arrivedCtx c id act num next l) := by
  have harrive : ((c.t.bar id).settle c.s c.team).arrive c.w { warp := c.wi, lanes := act, mark := c.s.nextId } set =
      some ({ next := next, pending := l }, num) := arrive_at h
  have hbars : (((c.t.setBar id ((c.t.bar id).settle c.s c.team)).setBar id { next := next, pending := l }).addSignals (.bar id num) c.wi act).setBar id
      (Barrier.settle c.s c.team { next := next, pending := l }) =
        (c.t.addSignals (.bar id num) c.wi act).setBar id { next := next, pending := l.filter (fun x => !x.complete c.s c.team) } := by
    rw [setBar_setBar]
    exact setBar_setBar (c.t.addSignals (.bar id num) c.wi act) ..
  have hctx : ({ c with t := (((c.t.setBar id ((c.t.bar id).settle c.s c.team)).setBar id { next := next, pending := l }).addSignals
      (.bar id num) c.wi act).setBar id (Barrier.settle c.s c.team { next := next, pending := l }) } : Ctx) = arrivedCtx c id act num next l := by
    rw [hbars]
    rfl
  rw [← hctx]
  simp only [barrier, hp, harrive]
  rfl

/-- BAR issued again does not arrive again (R136). -/
theorem barrier_again (hp : c.p.arrival = some (.bar id num)) : barrier c act set id blocks = barWait (idleCtx c id) id num act := by
  simp only [barrier, hp, if_true]
  rfl

/-- What BAR and BARA do behind their role's check. -/
def barBody (g : BitVec 4) (set : BitVec 2) (i : BitVec 4) (blocks : Bool) (c : Ctx) : Res :=
  orIllop (set != 3 && !c.inHandler) (if c.act g = 0 then .done c else barrier c (c.act g) set i.toNat blocks)

theorem exec_bar (g i : BitVec 4) (set : BitVec 2) (s : State) : exec (.bar g set i) s = issue s .both (barBody g set i true) := rfl

theorem exec_bara (g i : BitVec 4) (set : BitVec 2) (s : State) : exec (.bara g set i) s = issue s .both (barBody g set i false) := rfl

/-- The set 3, and either in a handler, is ILLOP under every guard (R304, notes/assumptions/17.md). -/
theorem barBody_traps (h : set = 3 ∨ c.inHandler = true) : barBody g set i blocks c = .trapC causeILLOP := by
  have hcheck : (set != 3 && !c.inHandler) = false := by rcases h with h | h <;> simp [h]
  rw [barBody, hcheck]
  rfl

theorem barBody_checked (hset : set ≠ 3) (hout : c.inHandler = false) :
    barBody g set i blocks c = if c.act g = 0 then .done c else barrier c (c.act g) set i.toNat blocks := by
  rw [barBody, hout, bne_iff_ne.mpr hset]
  rfl

/-- With no active lane a barrier does nothing (R10). -/
theorem barBody_idle (hset : set ≠ 3) (hout : c.inHandler = false) (hact : c.act g = 0) : barBody g set i blocks c = .done c :=
  (barBody_checked hset hout).trans (if_pos hact)

theorem barBody_active (hset : set ≠ 3) (hout : c.inHandler = false) (hact : c.act g ≠ 0) :
    barBody g set i blocks c = barrier c (c.act g) set i.toNat blocks :=
  (barBody_checked hset hout).trans (if_neg hact)

theorem idleCtx_follows (c : Ctx) (id : Nat) : Follows c (idleCtx c id) := withBars_follows c c.t rfl rfl ..

theorem arrivedCtx_follows (c : Ctx) (id : Nat) (act : LaneMask) (num next : Nat) (l : List BarInstance) :
    Follows c (arrivedCtx c id act num next l) := withBars_follows c (c.t.addSignals (.bar id num) c.wi act) rfl rfl ..

theorem observes_follows {c c' : Ctx} (h : Follows c c') (tag : SyncTag) (wi : Nat) (act : LaneMask) :
    Follows c { c' with t := c'.t.observes tag wi act } := h.team' _ rfl rfl

/-! ## CBAR (spec/08 R241, spec/09 R267) -/

/-- An arrival at CBAR counts in the oldest round that has not counted its warp, or opens one. -/
theorem cbarArrive_eq {b : Cbar} (h : arrivesAtCbar c n b) :
    (launchCbar c.s c.t.ident.launch).arrive { team := c.t.id, warp := c.wi, lanes := c.p.mask, mark := c.s.nextId } = (b, n) := by
  rcases h with ⟨x, hx, rfl, rfl⟩ | ⟨hfind, rfl, rfl⟩
  · simp only [Cbar.arrive, hx]
  · simp only [Cbar.arrive, hfind]

/-- CBAR is not for a handler (R304). -/
theorem cbar_inHandler_traps (h : Issues s .both c) (hin : c.inHandler = true) : Traps (.cbar g) s c (plain causeILLOP) := by
  refine traps_of h rfl ?_
  rw [hin]
  rfl

theorem cbar_idle_completes (h : Issues s .both c) (hout : c.inHandler = false) (hact : c.act g = 0) :
    Completes (.cbar g) s c (c.p.pc + 4) := by
  refine completes_of h rfl ?_ (.refl c)
  simp only [orIllop, hout, Bool.not_false, if_true, hact]

/-- CBAR issued again completes once its round is over. -/
theorem cbar_over_completes (h : Issues s .both c) (hout : c.inHandler = false) (hact : c.act g ≠ 0) (hp : c.p.arrival = some (.cbar n))
    (hover : ∀ i ∈ (launchCbar c.s c.t.ident.launch).pending, i.num ≠ n) :
    Completes (.cbar g) s { c with t := c.t.observes (.cbar n) c.wi (c.act g) } (c.p.pc + 4) := by
  have hany : (launchCbar c.s c.t.ident.launch).pending.any (fun i => i.num == n) = false := by simpa using hover
  refine completes_of h rfl ?_ (observes_follows (.refl c) ..)
  simp only [orIllop, hout, Bool.not_false, if_true, hact, if_false, hp, hany, Bool.false_eq_true]

theorem exec_cbar_waits (h : Issues s .both c) (hout : c.inHandler = false) (hact : c.act g ≠ 0) (hp : c.p.arrival = some (.cbar n))
    (hpending : ∃ i ∈ (launchCbar c.s c.t.ident.launch).pending, i.num = n) : exec (.cbar g) s = .next (finishRes c (.block c 7)) := by
  have hany : (launchCbar c.s c.t.ident.launch).pending.any (fun i => i.num == n) = true := by simpa using hpending
  refine exec_ends h rfl ?_
  simp only [orIllop, hout, Bool.not_false, if_true, hact, if_false, hp, hany]

/-- CBAR's first issue records the arrival and blocks. -/
theorem exec_cbar_arrives {b : Cbar} (h : Issues s .both c) (hout : c.inHandler = false) (hact : c.act g ≠ 0) (hp : c.p.arrival = none)
    (harrive : arrivesAtCbar c n b) : exec (.cbar g) s = .next (finishRes c (.block { c with
      s := setCbar c.s c.t.ident.launch b, t := c.t.addSignals (.cbar n) c.wi c.p.mask
      p := { c.p with arrival := some (.cbar n) } } 7)) := by
  refine exec_ends h rfl ?_
  simp only [orIllop, hout, Bool.not_false, if_true, hact, if_false, hp, cbarArrive_eq harrive]

end Lemmas

/-! ## The obligation -/

/-- Settles O18: an arrival counts in one round or nowhere; BARA completes, BAR and CBAR wait for the round. -/
theorem barriersComplete : Obligations.BarriersComplete := by
  refine ⟨⟨fun g s c h => ?nop, fun g set i s c h hbad => ?illop, fun g set i s c h hset hout => ?bars⟩, fun g s c h => ?cbar⟩
  case nop => exact completes_of h rfl (congrArg Res.done (ite_self c)) (.refl c)
  case illop => exact ⟨traps_of h (exec_bar ..) (barBody_traps hbad), traps_of h (exec_bara ..) (barBody_traps hbad)⟩
  case bars =>
    intro b idle
    refine ⟨fun hact => ?_, fun hact hp hnowhere => ?_, fun num next l hact hp harrive => ?_, fun num hact hp hlen => ?_⟩
    · exact ⟨completes_of h (exec_bar ..) (barBody_idle hset hout hact) (.refl c),
        completes_of h (exec_bara ..) (barBody_idle hset hout hact) (.refl c)⟩
    · have hbody (blocks : Bool) := (barBody_active (i := i) (blocks := blocks) hset hout hact).trans (barrier_nowhere hp hnowhere)
      exact ⟨completes_of h (exec_bar ..) (hbody true) (idleCtx_follows ..), completes_of h (exec_bara ..) (hbody false) (idleCtx_follows ..)⟩
    · intro waits c'
      have hbody (blocks : Bool) := (barBody_active (i := i) (blocks := blocks) hset hout hact).trans (barrier_arrives hp harrive)
      refine ⟨completes_of h (exec_bara ..) (hbody false) (arrivedCtx_follows ..), fun hlen => ?_⟩
      have hread : (c'.t.bar b).pending = waits :=
        congrArg Barrier.pending (bar_setBar (t := c.t.addSignals (.bar b num) c.wi (c.act g)) hlen { next := next, pending := waits })
      exact ⟨fun hover => completes_of h (exec_bar ..) ((hbody true).trans (barWait_completes hread hover))
          (observes_follows (arrivedCtx_follows ..) ..),
        fun hpending => exec_ends h (exec_bar ..) ((hbody true).trans (barWait_waits hread hpending))⟩
    · have hbody := (barBody_active (i := i) (blocks := true) hset hout hact).trans (barrier_again hp)
      have hread : (idle.t.bar b).pending = pendingBars c b := congrArg Barrier.pending (bar_setBar hlen _)
      refine ⟨fun hover => completes_of h (exec_bar ..) (hbody.trans (barWait_completes hread hover)) (observes_follows (idleCtx_follows ..) ..),
        fun hpending => exec_ends h (exec_bar ..) (hbody.trans ((barWait_waits hread hpending).trans ?_))⟩
      exact congrArg (fun x => Res.block { idle with p := { c.p with arrival := x } } 7) hp.symm
  case cbar =>
    exact ⟨fun hin => cbar_inHandler_traps h hin, fun hout hact => cbar_idle_completes h hout hact,
      fun n hout hact hp => ⟨fun hover => cbar_over_completes h hout hact hp hover, fun hpending => exec_cbar_waits h hout hact hp hpending⟩,
      fun n b hout hact hp harrive => exec_cbar_arrives h hout hact hp harrive⟩

end Sys2Proof.Barriers
end

section

/-! PROOFS. The special registers: RDSR over the table of R309, and the registers WRSR writes (spec/11 R309-R311). -/

namespace Sys2Proof.SpecialRegisters

open Sys2Proof.Machine Sys2Proof.Claims

section Lemmas

variable {s : State} {c c' : Ctx}

/-! ## The table of R309 -/

/-- The numbers of the special registers of R309, in the order of the table. -/
def numbers : List Nat :=
  [0x00, 0x01, 0x02, 0x03, 0x04, 0x05, 0x06, 0x07, 0x08, 0x09, 0x0A, 0x0B, 0x0C, 0x0D, 0x0E, 0x0F, 0x10, 0x11, 0x12, 0x13, 0x14, 0x15, 0x16,
   0x18, 0x19, 0x1A, 0x40, 0x41, 0x42, 0x43, 0x44, 0x45, 0x46, 0x47, 0x48, 0x49, 0x4A, 0x4B]

theorem specials_numbers (c : Ctx) : (specials c).map Prod.fst = numbers := rfl

theorem specialExists_iff (m : BitVec 7) : specialExists m.toNat = true ↔ m.toNat ∈ numbers := by
  revert m
  decide

theorem specialExists_false {m : BitVec 7} (h : ∀ r ∈ specials c, r.1 ≠ m.toNat) : specialExists m.toNat = false := by
  refine Bool.eq_false_iff.mpr fun hm => ?_
  have hmem := (specialExists_iff m).mp hm
  rw [← specials_numbers c] at hmem
  obtain ⟨r, hr, hrm⟩ := List.mem_map.mp hmem
  exact h r hr hrm

theorem debugCode_eq (d : DebugState) : debugCode d = if d = .off then 0 else if d = .observe then 1 else 2 := by
  cases d <;> rfl

/-- A trap vector of the job, in the model and in the table. -/
theorem tvec_value (c : Ctx) (L : Nat) :
    specialValue c 0x40 L = ((jobSlot c.s c.t.ident.job).map (fun j => (slotTvecA j).toNat)).getD 0 ∧
    specialValue c 0x41 L = ((jobSlot c.s c.t.ident.job).map (fun j => (slotTvecE j).toNat)).getD 0 := by
  simp only [specialValue]
  cases jobSlot c.s c.t.ident.job <;> exact ⟨rfl, rfl⟩

/-- Each row of the table gives the width and the value that the model gives the register of its number. -/
theorem specials_row : ∀ r ∈ specials c, specialWide r.1 = r.2.1 ∧ ∀ L, specialValue c r.1 L = r.2.2 L := by
  simp only [specials, List.cons_append, List.nil_append, List.forall_mem_cons, tvec_value]
  simp [specialWide, specialValue, debugCode_eq, clusterOf]

/-! ## RDSR -/

/-- RDSR of a register that the split may read, past its check of privilege. -/
theorem rdsr_ends {g : BitVec 4} {d : BitVec 6} {m : BitVec 7} (h : Issues s .both c) (hp : m.toNat < 0x40 ∨ c.inHandler = true) :
    exec (.rdsr g d m) s = .next (finishRes c (orIllop (specialExists m.toNat) (orIllopnd (destOk c d.toNat (specialWide m.toNat)) (
      .done (c.setD d.toNat (specialWide m.toNat) (c.act g) (fun L => BitVec.ofNat 64 (specialValue c m.toNat L))))))) :=
  (issue_of h _).trans (congrArg (fun r => Host.Outcome.next (finishRes c r)) (if_neg (by
    rintro ⟨hm, hout⟩
    rcases hp with hp | hp
    · exact absurd hm (Nat.not_le.mpr hp)
    · simp [hp] at hout)))

theorem rdsr_unlisted {g : BitVec 4} {d : BitVec 6} {m : BitVec 7} (h : Issues s .both c) (hp : m.toNat < 0x40 ∨ c.inHandler = true)
    (hm : ∀ r ∈ specials c, r.1 ≠ m.toNat) : Traps (.rdsr g d m) s c (plain causeILLOP) := by
  rw [Traps, rdsr_ends h hp, specialExists_false hm]
  rfl

/-- RDSR of a register of the table. -/
theorem rdsr_listed {g : BitVec 4} {d : BitVec 6} {m : BitVec 7} (h : Issues s .both c) (hp : m.toNat < 0x40 ∨ c.inHandler = true)
    {r : Nat × Bool × (Nat → Nat)} (hr : r ∈ specials c) (hm : r.1 = m.toNat) :
    exec (.rdsr g d m) s = .next (finishRes c (orIllopnd (destOk c d.toNat r.2.1) (
      .done (c.setD d.toNat r.2.1 (c.act g) (fun L => BitVec.ofNat 64 (r.2.2 L)))))) := by
  obtain ⟨hwide, hvalue⟩ := specials_row r hr
  have hexists : specialExists m.toNat = true := by
    rw [specialExists_iff, ← specials_numbers c, ← hm]
    exact List.mem_map_of_mem hr
  rw [rdsr_ends h hp, hexists, ← hm, hwide, funext hvalue]
  rfl

/-! ## WRSR -/

/-- WRSR in the handler writes its register once its operand is read. -/
theorem wrsr_completes {g : BitVec 4} {a m : BitVec 7} {vs : List (Nat → DWord)} (hin : c.inHandler = true) (hact : c.act g ≠ 0)
    (hm : specialWritable m.toNat = true) (h : Reads s .both c g [{ spec := a, wide := specialWide m.toNat, cls := .int }] c' vs) :
    Completes (.wrsr g a m) s
      { c' with t := { c'.t with trap := writeSpecial c'.t.trap m.toNat (val vs 0 (lane0 (c.act g))) } } (c.p.pc + 4) := by
  obtain ⟨hissues, hok, hread⟩ := h
  refine reads_completes rfl ⟨hissues, hok, hread⟩ ?_ ((Follows.refl c').team' _ rfl rfl)
  obtain ⟨-, hw, hp⟩ := readOps_follows hread
  have hact' : c'.act g = c.act g := by rw [Ctx.act, Ctx.act, hw, hp]
  simp [hin, hm, orIllop, orIllopnd, hok, hread, hact']
  exact fun hnone => absurd hnone hact

theorem wrsr_unwritable {g : BitVec 4} {a m : BitVec 7} (h : Issues s .both c) (hin : c.inHandler = true)
    (hm : specialWritable m.toNat = false) : Traps (.wrsr g a m) s c (plain causeILLOP) := by
  refine traps_of h rfl ?_
  simp only [hin, hm]
  rfl

theorem specialWritable_false : ∀ {m : BitVec 7}, m ≠ 0x13 → m ≠ 0x16 → m ≠ 0x44 → (m.toNat < 0x48 ∨ 0x4B < m.toNat) →
    specialWritable m.toNat = false := by
  decide

/-- HSAVE0 to HSAVE3: narrow, writable, and each written in its own place. -/
theorem hsave_row : ∀ {m : BitVec 7}, 0x48 ≤ m.toNat → m.toNat ≤ 0x4B → m = 0x48 ∨ m = 0x49 ∨ m = 0x4A ∨ m = 0x4B := by
  decide

end Lemmas

/-! ## The obligation -/

/-- Settles O33: the table of R309 row by row for RDSR, and the register written for WRSR. -/
theorem specialRegisters : Obligations.SpecialRegisters := by
  refine ⟨fun g d m s c h => ⟨fun hm hout => ?unprivileged, fun hp => ⟨rdsr_unlisted h hp, fun r hr hm => ⟨fun hd => ?odd, fun hd => ?reads⟩⟩⟩,
    fun g a m s c h => ⟨fun hout => ?outside, fun hin h1 h2 h3 h4 => wrsr_unwritable h hin (specialWritable_false h1 h2 h3 h4)⟩,
    fun g a m s c c' vs hin hact => ⟨?pc, fun hread => ⟨?cause2, ?keyovr, ?hsave⟩⟩⟩
  case unprivileged => exact RolesAndPrivilege.rdsr_unprivileged h.1 hout hm
  case odd =>
    rw [Traps, rdsr_listed h hp hr hm, hd]
    rfl
  case reads =>
    refine CoreInstructions.completes_of_end h.1 ?_ (setD_follows ..)
    rw [rdsr_listed h hp hr hm, hd]
    rfl
  case outside => exact RolesAndPrivilege.wrsr_unprivileged h.1 hout
  case pc =>
    rintro rfl hread
    exact wrsr_completes hin hact rfl hread
  case cause2 =>
    rintro rfl
    exact wrsr_completes hin hact rfl hread
  case keyovr =>
    rintro rfl
    exact wrsr_completes hin hact rfl hread
  case hsave =>
    intro hlo hhi
    rcases hsave_row hlo hhi with rfl | rfl | rfl | rfl <;> exact wrsr_completes hin hact rfl hread

end Sys2Proof.SpecialRegisters
end

section

/-! PROOFS. The entry of a trap: the halted team, warp by warp, and the halt records that its frame takes (spec/11 R297-R304). -/

namespace Sys2Proof.TrapEntry

open Sys2Proof Sys2Proof.Machine Sys2Proof.Claims

section Lemmas

variable {s : State} {c : Ctx} {x : TrapInfo} {pc : DWord} {t : Team} {k : Nat} {u : Warp}

/-! ## Lists -/

theorem numbered_get {α : Type} {l : List α} {n : Nat} (hn : l.length = n) (k : Nat) :
    ((List.range n).zip l)[k]? = l[k]?.map (fun y => (k, y)) := by
  subst hn
  ext ⟨j, y⟩
  rw [Option.map_eq_some_iff, List.getElem?_zip_eq_some]
  simp only [Prod.mk.injEq]
  constructor
  · rintro ⟨hj, hy⟩
    obtain ⟨hk, rfl⟩ := List.getElem?_eq_some_iff.mp hj
    exact ⟨y, hy, (List.getElem_range ..).symm, rfl⟩
  · rintro ⟨y, hy, rfl, rfl⟩
    have hk := (List.getElem?_eq_some_iff.mp hy).1
    exact ⟨List.getElem?_range hk, hy⟩

theorem findSplit_putSplit_other (l : List Split) (p : Split) {q : BitVec 16} (hq : q ≠ p.seq) :
    findSplit (putSplit l p) q = findSplit l q := by
  induction l with
  | nil => rfl
  | cons y l ih =>
    unfold findSplit putSplit at ih ⊢
    rw [List.map_cons, List.find?_cons, List.find?_cons, ih]
    by_cases hy : y.seq = p.seq
    · rw [if_pos hy, beq_eq_false_iff_ne.mpr hq.symm, hy, beq_eq_false_iff_ne.mpr hq.symm]
    · rw [if_neg hy]

/-- Writing back the split that the table holds under its SEQ changes no look-up. -/
theorem findSplit_putSplit_same {l : List Split} {p : Split} (h : findSplit l p.seq = some p) (q : BitVec 16) :
    findSplit (putSplit l p) q = findSplit l q := by
  by_cases hq : q = p.seq
  · rw [hq, findSplit_putSplit l p (by rw [h]; rfl), h]
  · exact findSplit_putSplit_other l p hq

/-! ## Memory: the device's own writes (spec/11 R313) -/

theorem leBytes_length (n v : Nat) : (leBytes n v).length = n := by
  induction n generalizing v with
  | zero => rfl
  | succ n ih => rw [leBytes, List.length_cons, ih]

theorem writePhys_reads {a pa : Nat} (b : Byte) (h : pa ≠ a) : readPhys (writePhys s 0 pa b) 0 a = readPhys s 0 a := by
  have hkey : ¬l2Key 0 a = l2Key 0 pa := by simpa [l2Key] using h.symm
  have hget : cellsGet (writePhys s 0 pa b).die.l2 (l2Key 0 a) = cellsGet s.die.l2 (l2Key 0 a) := by
    rw [writePhys, State.updDie, cellsGet_set, if_neg hkey]
  rw [readPhys, hget]
  rfl

theorem clearCovered_reads (bs : List (Nat × Byte)) (a : Nat) : readPhys (clearCovered s bs) 0 a = readPhys s 0 a := by
  unfold clearCovered
  split <;> rfl

/-- The device's own write leaves every byte that it does not name. -/
theorem writeOwn_reads {bs : List (Nat × Byte)} {a : Nat} (h : ∀ b ∈ bs, b.1 ≠ a) : readPhys (writeOwn s bs) 0 a = readPhys s 0 a :=
  List.foldlRecOn (motive := fun s' => readPhys s' 0 a = readPhys s 0 a) _ _ (clearCovered_reads _ a)
    (fun _ hs b hb => (writePhys_reads b.2 (h b (List.mem_filter.mp hb).1)).trans hs)

theorem writeOwn_teams (bs : List (Nat × Byte)) : (writeOwn s bs).teams = s.teams :=
  List.foldlRecOn (motive := fun s' : State => s'.teams = s.teams) _ _ (by unfold clearCovered; split <;> rfl) (fun _ hs _ _ => hs)

theorem bytesAt_bounds {pa : Nat} {bs : List Byte} {b : Nat × Byte} (h : b ∈ bytesAt pa bs) : pa ≤ b.1 ∧ b.1 < pa + bs.length := by
  obtain ⟨y, hy, rfl⟩ := List.mem_map.mp h
  have := List.mem_range.mp (List.of_mem_zip hy).1
  exact ⟨Nat.le_add_right .., Nat.add_lt_add_left this _⟩

/-! ## Halt records (spec/11 R301, R313) -/

theorem haltBytes_length {r : HaltRecord} (h : r.slots.length = 2) : (haltBytes r).length = 48 := by
  match hs : r.slots, h with
  | [l, m], _ => rcases l with - | l <;> rcases m with - | m <;> simp [haltBytes, hs, leBytes_length]

theorem frameWarp_lt {w : Warp} (h : w.index < 24) : frameWarp w < 32 := by
  unfold frameWarp
  split <;> omega

/-- A halt record stands within its team's frame. -/
theorem writeHalt_reads {w : Warp} {a : Nat} (hw : w.index < 24 ∧ w.halt.slots.length = 2)
    (ha : a < t.save.frame ∨ t.save.frame + frameBytes ≤ a) : readPhys (writeHalt s t w) 0 a = readPhys s 0 a := by
  refine writeOwn_reads fun b hb => ?_
  have hbounds := bytesAt_bounds hb
  have hwarp := frameWarp_lt hw.1
  rw [haltBytes_length hw.2] at hbounds
  unfold frameBytes at ha
  omega

theorem writeHalts_reads {a : Nat} (hw : ∀ w ∈ t.warps, w.index < 24 ∧ w.halt.slots.length = 2)
    (ha : a < t.save.frame ∨ t.save.frame + frameBytes ≤ a) : readPhys (writeHalts s t) 0 a = readPhys s 0 a :=
  List.foldlRecOn (motive := fun s' => readPhys s' 0 a = readPhys s 0 a) _ _ rfl (fun _ hs w hmem => (writeHalt_reads (hw w hmem) ha).trans hs)

theorem writeHalts_teams (s : State) (t : Team) : (writeHalts s t).teams = s.teams :=
  List.foldlRecOn (motive := fun s' : State => s'.teams = s.teams) _ _ rfl (fun _ hs _ _ => (writeOwn_teams _).trans hs)

/-! ## The halted team (spec/11 R297 to R303) -/

/-- The split of the trap at its role's vector. -/
def vectored (c : Ctx) : Split :=
  { c.p with pc := handlerEntry c.s c.t.ident.job c.w.role, immRun := 0, setA := 15, setB := 15, blk := 0, wake := none, arrival := none }

/-- A warp of the halted team: its splits stopped, with the halt record of the warp v as it stood. -/
def halted (c : Ctx) (pc : DWord) (k : Nat) (u v : Warp) : Warp := { u.stopAll with atPoint := none, halt := haltStart c pc k v }

/-- The warp of the trap with its split in place, before the trap and at the vector. -/
def standing (c : Ctx) : Warp := { c.w with table := putSplit c.w.table c.p }
def entered (c : Ctx) : Warp := { c.w with table := putSplit c.w.table (vectored c) }

/-- The team as the trap halts it. -/
def haltedTeam (c : Ctx) (x : TrapInfo) (pc : DWord) : Team :=
  { c.team with
    status := .halted
    warps := ((List.range c.team.warps.length).zip (updAt c.team.warps c.wi (fun _ => entered c))).map (fun y =>
      halted c pc y.1 y.2 (c.team.warps.getD y.1 (entered c)))
    trap := { c.t.trap with
      regs := { cause := trapCauseWord x, addrLo := x.lo, addrHi := x.hi, split := c.p.seq.setWidth 32
                skid := if c.w.slots.any (fun l => l.seq.isSome && l.seq != some c.p.seq) then 0x20 else 0, cause2 := 0, pc := pc, pc2 := 0 }
      handler := some { warp := c.wi, seq := c.p.seq, stood := pc, arrival := c.p.arrival }
      skid := some (skidStart c.team c.wi c.p.seq), warp := some c.wi, second := ⟨0, 0, 0, 0, none⟩ }
    save := { c.t.save with request := none, qdead := 0 } }

theorem takeTrap_halts (hnone : c.t.trap.handler = none) (hentry : handlerEntry c.s c.t.ident.job c.w.role ≠ 0) :
    takeTrap c x pc = writeHalts (c.commit.setTeam (haltedTeam c x pc)) (haltedTeam c x pc) := by
  have hprivilege : ¬c.inHandler = true := Bool.eq_false_iff.mp (DieFaults.inHandler_of_none hnone)
  have hhandler : ¬c.team.trap.handler.isSome = true := by simp [Ctx.team, hnone]
  rw [takeTrap]
  exact (if_neg hprivilege).trans ((if_neg hhandler).trans (if_neg hentry))

theorem takeTrap_teams (hnone : c.t.trap.handler = none) (hentry : handlerEntry c.s c.t.ident.job c.w.role ≠ 0) :
    (takeTrap c x pc).teams = (c.commit.setTeam (haltedTeam c x pc)).teams := by
  rw [takeTrap_halts hnone hentry, writeHalts_teams]

/-- The warp of the trap in the halted team. -/
theorem haltedTeam_own (hw : c.t.warps[c.wi]? = some c.w) :
    (haltedTeam c x pc).warps[c.wi]? = some (halted c pc c.wi (entered c) (standing c)) := by
  have hteam : c.team.warps[c.wi]? = some (standing c) := by
    rw [Ctx.team, updAt_get, if_pos rfl, hw]
    rfl
  simp only [haltedTeam, List.getElem?_map, numbered_get (updAt_length ..), updAt_get, if_pos, hteam, Option.map_some,
    List.getD_eq_getElem?_getD, Option.getD_some]

/-- Another warp of the halted team. -/
theorem haltedTeam_other (hk : k ≠ c.wi) (hu : c.t.warps[k]? = some u) :
    (haltedTeam c x pc).warps[k]? = some (halted c pc k u u) := by
  have hteam : c.team.warps[k]? = some u := by rw [Ctx.team, updAt_get, if_neg hk, hu]
  simp only [haltedTeam, List.getElem?_map, numbered_get (updAt_length ..), updAt_get, if_neg hk, hteam, Option.map_some,
    List.getD_eq_getElem?_getD, Option.getD_some]

theorem haltedTeam_length : (haltedTeam c x pc).warps.length = c.t.warps.length := by
  simp [haltedTeam, Ctx.team, updAt_length]

/-- Each halt record of the halted team has an entry for each live slot of its warp. -/
theorem haltedTeam_slots (hwi : c.t.warps[c.wi]? = some c.w) {w : Warp} (hw : w ∈ (haltedTeam c x pc).warps) :
    w.halt.slots.length = w.slots.length := by
  obtain ⟨k, hk⟩ := List.getElem?_of_mem hw
  by_cases hown : k = c.wi
  · rw [hown, haltedTeam_own hwi, Option.some_inj] at hk
    rw [← hk]
    exact List.length_map ..
  · have hlt := (List.getElem?_eq_some_iff.mp hk).1
    rw [haltedTeam_length] at hlt
    rw [haltedTeam_other hown (List.getElem?_eq_getElem hlt), Option.some_inj] at hk
    rw [← hk]
    exact List.length_map ..

/-- The entries of a halt record: each live slot's split, at the PC that at_ gives it. -/
def slotsAt (u : Warp) (at_ : Split → DWord) : List (Option HaltSlot) := u.slots.map (fun l => match l.seq with
  | none => none
  | some q => (findSplit u.table q).map (fun p => { seq := q, pc := at_ p, count := 0 }))

theorem haltStart_own (hsplit : findSplit c.w.table c.p.seq = some c.p) : haltStart c pc c.wi (standing c) =
    { slots := slotsAt c.w (fun p => if p.seq = c.p.seq then pc else p.unitPc), setA := c.p.setA, setB := c.p.setB, arm := c.p.arm
      mpc := c.p.mpc } := by
  have hslots : (haltStart c pc c.wi (standing c)).slots = slotsAt c.w (fun p => if p.seq = c.p.seq then pc else p.unitPc) := by
    refine List.map_congr_left fun l _ => ?_
    cases l.seq with
    | none => rfl
    | some q =>
      refine (congrArg (Option.map _) (findSplit_putSplit_same hsplit q)).trans (Option.map_congr fun p hp => ?_)
      have hseq : p.seq = q := by simpa using List.find?_some hp
      simp [hseq]
  rw [← hslots]
  simp [haltStart]

theorem haltStart_other (hk : k ≠ c.wi) : (haltStart c pc k u).slots = slotsAt u Split.unitPc := by
  refine List.map_congr_left fun l _ => ?_
  cases l.seq with
  | none => rfl
  | some q => simp [hk]

theorem findSplit_stopped {l : List Split} {p : Split} {q : BitVec 16} (h : findSplit l q = some p) :
    findSplit (l.map (fun p => p.wakeUp.rewind)) q = some p.wakeUp.rewind := by
  have hkeep : (fun p : Split => p.seq == q) ∘ (fun p : Split => p.wakeUp.rewind) = fun p : Split => p.seq == q := by
    funext p
    simp only [Function.comp, Split.wakeUp, Split.rewind]
    split <;> rfl
  simp only [findSplit, List.find?_map, hkeep] at h ⊢
  rw [h]
  rfl

/-- The split of the trap, once stopped, stands at the vector as it was put there. -/
theorem vectored_stopped : (vectored c).wakeUp.rewind = vectored c := by
  simp [vectored, Split.wakeUp, Split.rewind]

end Lemmas

/-! ## The obligation -/

/-- Settles O30: the halted team field by field, its warps by their places, and the frame's bytes by the bounds of the halt records. -/
theorem trapEntry : Obligations.TrapEntry := by
  intro s c x pc hissuing hnone hentry
  obtain ⟨hs, hteam, hwarp, hsplit⟩ := getCtx_team hissuing.1
  have hfound : (takeTrap c x pc).team? c.t.id = some (haltedTeam c x pc) := by
    rw [State.team?, takeTrap_teams hnone hentry]
    have hcommit : c.commit.team? c.t.id = some c.team := by
      rw [Ctx.commit, team?_setTeam, hs, hteam]
      exact if_pos rfl
    refine (team?_setTeam c.commit (haltedTeam c x pc) c.t.id).trans ((if_pos rfl).trans ?_)
    rw [hcommit]
    rfl
  refine ⟨haltedTeam c x pc, halted c pc c.wi (entered c) (standing c), hfound, rfl, rfl, rfl, rfl, rfl, rfl, rfl, rfl, haltedTeam_own hwarp,
    rfl, rfl, rfl, rfl, rfl, ?halt, ?split, fun k u hk hu => ⟨_, haltedTeam_other hk hu, rfl, rfl, rfl, rfl, ?slots⟩, fun id hid => ?others,
    ?record, fun a ha hw => ?memory⟩

  case halt => exact haltStart_own hsplit
  case split =>
    rw [show findSplit (halted c pc c.wi (entered c) (standing c)).table c.p.seq = _ from
      findSplit_stopped (findSplit_putSplit c.w.table (vectored c) (Option.isSome_of_mem hsplit)), vectored_stopped]
    rfl
  case slots => exact haltStart_other hk
  case others =>
    rw [State.team?, takeTrap_teams hnone hentry]
    refine (team?_setTeam c.commit (haltedTeam c x pc) id).trans ((if_neg hid).trans ?_)
    rw [Ctx.commit, team?_setTeam]
    exact if_neg hid
  case record =>
    rw [takeTrap_teams hnone hentry, takeTrap_halts hnone hentry]
    rfl
  case memory =>
    rw [takeTrap_halts hnone hentry, writeHalts_reads (fun w hmem => ⟨(hw w hmem).1, ?_⟩) ha]
    · rfl
    · rw [haltedTeam_slots hwarp hmem, (hw w hmem).2]

end Sys2Proof.TrapEntry
end

section

/-! PROOFS. The end of a handler: RETT and HALTT, the team without its handler, and the delivery of a recorded secondary (spec/11 R305, R306, spec/02 R78). -/

namespace Sys2Proof.HandlerEnd

open Sys2Proof Sys2Proof.Machine Sys2Proof.Claims

section Lemmas

variable {s : State} {c : Ctx} {g : BitVec 4} {t : Team} {h : Handler} {w : Warp} {p : Split}

/-! ## RETT and HALTT -/

/-- RETT of the handler's split, by its active lanes and by whether the release of the split's lanes is ready. -/
theorem rett_ends (hi : Issues s .both c) (hin : c.inHandler = true) (hh : c.t.trap.handler = some h) :
    exec (.rett g) s = .next (finishRes c (if c.act g = 0 then .done c else afterRelease c c.p.mask 3 (
      .ended (endHandler { (c.releases c.p.mask).acquires c.p.mask with
        p := { c.p with
          pc := c.t.trap.regs.pc &&& ~~~3, immRun := 0, setA := c.w.halt.setA, setB := c.w.halt.setB, arm := c.w.halt.arm, mpc := c.w.halt.mpc
          blk := 0, arrival := if c.t.trap.regs.pc &&& ~~~3 = h.stood then h.arrival else none } }.commit c.t.id)))) := by
  refine (issue_of hi _).trans ?_
  simp only [hh, hin]
  rfl

theorem rett_unprivileged (hi : Issues s .both c) (hout : c.inHandler = false) : Traps (.rett g) s c (plain causePRIV) := by
  refine traps_of hi rfl ?_
  cases c.t.trap.handler with
  | none => rfl
  | some h => simp only [hout]; rfl

theorem haltt_ends (hi : Issues s .both c) (hin : c.inHandler = true) : exec (.haltt g) s = .next (finishRes c (
    if c.act g = 0 then .done c else .gone (terminateTeam c.commit c.team (c.t.trap.regs.cause.setWidth 8)))) :=
  (issue_of hi _).trans (congrArg (fun r => Host.Outcome.next (finishRes c r)) (if_neg (by rw [hin]; decide)))

theorem haltt_unprivileged (hi : Issues s .both c) (hout : c.inHandler = false) : Traps (.haltt g) s c (plain causePRIV) :=
  traps_of hi rfl (if_pos (by rw [hout]; rfl))

/-! ## The team without its handler (spec/11 R305) -/

/-- The team as the end of its handler leaves it. -/
def unhandled (t : Team) : Team := { t with
  status := .resident, warps := t.warps.map Warp.vacate
  trap := { t.trap with handler := none, skid := none, keyovr := 0
                        regs := { t.trap.regs with cause2 := setBits t.trap.regs.cause2 8 1 0 } } }

/-- The team and the warp that a recorded secondary is delivered in: a stopped drain whose SLOTPOISON it is has been reported (R266). -/
def reporting (t : Team) (w : Warp) : Team × Warp :=
  if (BitVec.ofNat 8 (bitsOf t.trap.regs.cause2 0 8) : BitVec 8) = causeSLOTPOISON then reportDrain (unhandled t) w t.trap.second.drain
  else (unhandled t, w)

/-- The end of a handler with a secondary to deliver. -/
theorem endHandler_delivers (ht : s.team? t.id = some t) (hh : t.trap.handler = some h)
    (hsecond : secondarySplit { t with warps := (unhandled t).warps } h = some (w, p)) :
    endHandler s t.id = takeTrap { s := s.setTeam (unhandled t), t := (reporting t w).1, w := (reporting t w).2, p := p, wi := h.warp }
      (secondInfo s t) t.trap.second.pc := by
  have hsecond' : secondarySplit { t with warps := t.warps.map Warp.vacate } h = some (w, p) := hsecond
  rw [endHandler, ht]
  simp only [hh, hsecond']
  rfl

/-- The end of a handler without a secondary to deliver, outside a job stop. -/
theorem endHandler_quiet (ht : s.team? t.id = some t) (hh : t.trap.handler = some h)
    (hsecond : secondarySplit { t with warps := (unhandled t).warps } h = none) (hjob : ¬s.die.stoppedJobs.contains t.ident.job = true) :
    endHandler s t.id = s.setTeam (unhandled t) := by
  have hsecond' : secondarySplit { t with warps := t.warps.map Warp.vacate } h = none := hsecond
  rw [endHandler, ht]
  simp only [hh, hsecond']
  exact if_neg hjob

theorem reporting_free (hfree : BitVec.ofNat 8 (bitsOf t.trap.regs.cause2 0 8) ≠ causeSLOTPOISON ∨
    (unhandled t).stopped.find? (fun d => t.trap.second.drain == some d.id) = none) : reporting t w = (unhandled t, w) := by
  by_cases hcause : BitVec.ofNat 8 (bitsOf t.trap.regs.cause2 0 8) = causeSLOTPOISON
  · rw [reporting, if_pos hcause, reportDrain, hfree.resolve_left (not_not_intro hcause)]
  · rw [reporting, if_neg hcause]

theorem reporting_drain {d : StoppedDrain} (hcause : BitVec.ofNat 8 (bitsOf t.trap.regs.cause2 0 8) = causeSLOTPOISON)
    (hdrain : (unhandled t).stopped.find? (fun d => t.trap.second.drain == some d.id) = some d) :
    reporting t w = ({ unhandled t with stopped := (unhandled t).stopped.filter (fun x => x.id != d.id) }, w.unbind d.flag) := by
  rw [reporting, if_pos hcause, reportDrain, hdrain]

theorem secondarySplit_none (hc : bitOf t.trap.regs.cause2 8 = false) : secondarySplit t h = none := if_pos (by rw [hc]; rfl)

/-- The split of a recorded secondary, in the warp whose freed splits have left their slots. -/
theorem secondarySplit_some (hc : bitOf t.trap.regs.cause2 8 = true) (hw : t.warps[h.warp]? = some w)
    (hp : findSplit w.table (BitVec.ofNat 16 (bitsOf t.trap.regs.cause2 16 16)) = some p) (hpc : p.unitPc = t.trap.regs.pc2) :
    secondarySplit { t with warps := (unhandled t).warps } h = some (w.vacate, p) := by
  have hvacated : (unhandled t).warps[h.warp]? = some w.vacate := by simp [unhandled, hw]
  have hfound : findSplit w.vacate.table (BitVec.ofNat 16 (bitsOf t.trap.regs.cause2 16 16)) = some p := hp
  simp only [secondarySplit, hc, hvacated, hfound, hpc]
  rfl

end Lemmas

/-! ## The obligation -/

/-- Settles O32: RETT and HALTT by privilege and active lanes, and the end of the handler by its recorded secondary. -/
theorem handlersEnd : Obligations.HandlersEnd := by
  refine ⟨fun g s c h hi hin hh => ⟨fun hact => ⟨?rettNone, ?halttNone⟩, fun hact => ⟨fun hready => ?rett, ?haltt⟩⟩,
    fun g s c hi hout => ⟨rett_unprivileged hi hout, haltt_unprivileged hi hout⟩, fun s t ht hh hc hjob => ?plain,
    fun s t h w p ht hh hc hw hp hpc => ⟨fun hfree => ?delivers, fun d hcause hdrain => ?reports⟩⟩
  case rettNone => exact CoreInstructions.completes_of_end hi.1 ((rett_ends hi hin hh).trans (by rw [if_pos hact])) (.refl c)
  case halttNone => exact CoreInstructions.completes_of_end hi.1 ((haltt_ends hi hin).trans (by rw [if_pos hact])) (.refl c)
  case rett => rw [rett_ends hi hin hh, if_neg hact, afterRelease, if_pos hready]
  case haltt =>
    rw [haltt_ends hi hin, if_neg hact]
    rfl
  case plain =>
    obtain ⟨h, hh⟩ := Option.isSome_iff_exists.mp hh
    have hend : endHandler s t.id = s.setTeam (unhandled t) := endHandler_quiet ht hh (secondarySplit_none hc) hjob
    rw [hend]
    refine ⟨unhandled t, ?_, rfl, rfl, rfl, rfl, rfl, rfl, fun id hid => (team?_setTeam ..).trans (if_neg hid)⟩
    refine (team?_setTeam ..).trans ((if_pos rfl).trans ?_)
    rw [ht]
    rfl
  case delivers =>
    rw [endHandler_delivers ht hh (secondarySplit_some hc hw hp hpc), reporting_free hfree]
    rfl
  case reports =>
    rw [endHandler_delivers ht hh (secondarySplit_some hc hw hp hpc), reporting_drain hcause hdrain]
    rfl

end Sys2Proof.HandlerEnd
end

section

/-! PROOFS. Events of splits and of accesses in flight: loads, stores, exchange stores, queue lanes, rotation, sleep and fetch (spec/02 R69, spec/04 R138, spec/05 R143-R155, spec/07 R208, R219, spec/11 R323, R326). -/

namespace Sys2Proof.AccessEvents

open Sys2Proof Sys2Proof.Machine Sys2Proof.Claims
open Sys2Proof.CoreEvents (whenClocked_runs)

section Lemmas

variable {s : State} {op id wi slot n L c : Nat} {t : Team} {w : Warp} {p : Split} {q : Queue} {st : PStore}

/-! ## Accesses in flight -/

theorem loadComplete_writes {l : PLoad} (hrun : clockRuns s = true) (hl : s.die.loads.find? (fun x => x.op == op) = some l) :
    exec (.loadComplete op) s = .next (opEnded (updWarp (s.updDie (fun d => { d with loads := d.loads.filter (fun x => x.op != op) })) l.team l.warp
      (fun w => l.writes.foldl (fun w x => w.put1 x.1 x.2.1 x.2.2) (w.unbind l.flag))) l.team) := by
  refine (whenClocked_runs hrun).trans ?_
  rw [hl]
  rfl

theorem storePerformed_of (hrun : clockRuns s = true) (hst : findStore s op = some (c, st)) (holder : olderFirst (s.core c).stores st = true)
    (hown : st.stream = none) : exec (.storePerformed op) s = .next (opEnded (performStore s c st) st.team) := by
  refine (whenClocked_runs hrun).trans ?_
  rw [hst]
  exact congrArg Host.Outcome.next (if_pos (by rw [hown, holder]; rfl))

theorem streamStoreRelease_of (hrun : clockRuns s = true) (hst : findStore s op = some (c, st))
    (holder : olderFirst (s.core c).stores st = true) (hstream : st.stream.isSome) (hturn : streamTurn (s.core c).stores st = true) :
    exec (.streamStoreRelease op) s = .next (opEnded (performStore s c st) st.team) := by
  refine (whenClocked_runs hrun).trans ?_
  rw [hst]
  exact congrArg Host.Outcome.next (if_pos (by rw [hstream, hturn, holder]; rfl))

theorem exchangeStoreLand_of {x : ExStore} (hrun : clockRuns s = true) (hx : s.die.exStores.find? (fun x => x.op == op) = some x)
    (hfirst : exBehind s x = false) :
    exec (.exchangeStoreLand op) s = .next (opEnded ((((s.updTeam x.target (fun t => { t with scr := { t.scr with
      bytes := t.scr.bytes.write (shadowOffset t.scr x.off) x.bytes } })).updDie (fun d => { d with
        exStores := d.exStores.filter (fun y => y.op != op) })).unbind x.team x.warp x.flag)) x.team) := by
  refine (whenClocked_runs hrun).trans ?_
  rw [hx]
  exact if_neg (Bool.eq_false_iff.mp hfirst)

/-! ## Queue lanes (spec/05 R147, R155) -/

/-- What becomes of a lane of a queue's entry, by its state. -/
def landing (s : State) (t : Team) (q : Queue) (slot L : Nat) (l : QLane) : State :=
  match l.st with
  | .inflight => if l.req.isNone then landLane s t.id q.num slot L { l with st := .valid } else s
  | .refetch => if refetchWaits s t q slot L l then s else refetchLane s t q slot L l
  | _ => s

theorem queue?_num (hq : t.queue? n = some q) : q.num = n := by
  simpa using List.find?_some hq

theorem ldqLanding_of (hrun : clockRuns s = true) (ht : s.team? id = some t) (hplaced : t.placed = true) (hst : t.status ≠ .restoring)
    (hq : t.queue? n = some q) :
    exec (.ldqLanding id n slot L) s = .next (landing s t q slot L ((q.entries.getD slot QEntry.empty).lane L)) := by
  refine (whenClocked_runs hrun).trans ?_
  have hhere : ¬((!t.placed) = true ∨ t.status = .restoring) := by simp [hplaced, hst]
  rw [landing, team?_id ht, queue?_num hq, ht]
  dsimp only
  rw [if_neg hhere, hq] <;> rfl

theorem refetchWaits_full {l : QLane} (hfull : Config.requestEntries ≤ requestsUsed s t.core) : refetchWaits s t q slot L l = true := by
  simp [refetchWaits, hfull]

/-! ## Splits (spec/02 R69, spec/04 R138) -/

/-- A change of one warp of a team, where the team that has the number is one, is the change of what that warp is. -/
theorem updWarp_eq_const (f : Warp → Warp) (hw : t.warps[wi]? = some w) (hone : ∀ u ∈ s.teams, u.id = id → u = t) :
    updWarp s id wi f = updWarp s id wi (fun _ => f w) := by
  have hteams : s.teams.map (fun x => if x.id = id then { x with warps := updAt x.warps wi f } else x) =
      s.teams.map (fun x => if x.id = id then { x with warps := updAt x.warps wi (fun _ => f w) } else x) := by
    refine List.map_congr_left fun u hu => ?_
    by_cases hid : u.id = id
    · have hwarps : updAt u.warps wi f = updAt u.warps wi (fun _ => f w) := by
        rw [hone u hu hid]
        refine List.ext_getElem? fun k => ?_
        rw [updAt_get, updAt_get]
        by_cases hk : k = wi
        · rw [hk, hw]
          rfl
        · rw [if_neg hk, if_neg hk]
      rw [if_pos hid, if_pos hid, hwarps]
    · rw [if_neg hid, if_neg hid]
  rw [updWarp, State.updTeam, hteams]
  rfl

theorem splitRotation_of {l : LiveSlot} (ht : s.team? id = some t) (hst : t.status = .resident) (hw : t.warps[wi]? = some w)
    (hl : w.slots[slot]? = some l) (hp : slotSplit w slot = some p) (hgives : p.blk ≠ 0 ∨ 256 ≤ l.issued) (hwaits : w.waiting ≠ [])
    (hone : ∀ u ∈ s.teams, u.id = id → u = t) :
    exec (.splitRotation id wi slot) s = .next (updWarp s id wi (fun _ => w.rotate s.clock slot)) := by
  have hrotates : (p.blk ≠ 0 ∨ Config.rotateUnits ≤ l.issued) ∧ (!w.waiting.isEmpty) = true := ⟨hgives, by simpa using hwaits⟩
  change execSplitRotation id wi slot s = _
  rw [execSplitRotation, ht]
  dsimp only
  rw [if_neg (not_not_intro hst), updWarp_eq_const _ hw hone]
  simp only [hl, hp, if_pos hrotates]

theorem sleepWake_of {k : Nat} (ht : s.team? id = some t) (hst : t.status = .resident) :
    exec (.sleepWake id wi k) s = .next ((updWarp s id wi (fun w => w.updSplit (BitVec.ofNat 16 k) (Split.wakeAt s.clock))).updTeam id
      (fun x => x.refill s.clock)) := by
  change execSleepWake id wi k s = _
  rw [execSleepWake, ht]
  simp only [if_pos hst]

theorem instructionFetch_of {x : Word} {e : TlbEntry} (ht : s.team? id = some t) (hplaced : t.placed = true) (hw : t.warps[wi]? = some w)
    (hp : slotSplit w slot = some p) (hx : fetchWord s t p = .word x e) :
    exec (.instructionFetch id wi slot) s = .next (noteFetch s t p.pc.toNat x e) := by
  change execInstructionFetch id wi slot s = _
  simp only [execInstructionFetch, ht, hw, Option.bind_some, hp, hx, if_pos hplaced]

end Lemmas

/-! ## The obligation -/

/-- Settles O41: each event by the lemma that says what it does. -/
theorem accessEvents : Obligations.AccessEvents := by
  refine ⟨fun op l s => loadComplete_writes,
    fun op c st s hrun hst holder => ⟨storePerformed_of hrun hst holder, streamStoreRelease_of hrun hst holder⟩,
    fun op x s => exchangeStoreLand_of,
    fun id n slot L t q s hrun ht hplaced hst hq => ⟨fun hl hreq => ?lands, fun hl hwait => ?refetches, fun hl hfull => ?waits⟩,
    fun id wi slot t w l p s => splitRotation_of, fun id wi q t s => sleepWake_of,
    fun id wi slot t w p x e s => instructionFetch_of⟩
  case lands =>
    rw [ldqLanding_of hrun ht hplaced hst hq, landing, hl, hreq, team?_id ht, queue?_num hq]
    rfl
  case refetches =>
    rw [ldqLanding_of hrun ht hplaced hst hq, landing, hl, hwait]
    rfl
  case waits =>
    rw [ldqLanding_of hrun ht hplaced hst hq, landing, hl, refetchWaits_full hfull]
    rfl

end Sys2Proof.AccessEvents
end

section

/-! PROOFS. Boot, reset and power, and the events of ports and windows (spec/00 R3, spec/12 R341, R343, R349, spec/13 R350-R358). -/

namespace Sys2Proof.PortEvents

open Sys2Proof Sys2Proof.Machine Sys2Proof.Claims
open Sys2Proof.FabricEvents (laneEvent_lit clockRuns_of_power)

section Lemmas

variable {s : State} {port n : Nat} {p : Port} {w : Window}

/-! ## Boot and power (spec/12 R341, R343, R349) -/

/-- BOOT before any image runs: slot 0 has a key, the module is in Run, and a verified image configures the ports. -/
theorem boot_first (b : BootImage) (h : s.pkg.firmware = none) :
    exec (.boot b) s =
      let u := (if (keyIn s 0).isSome then s else putKey s 0 { cipher := 0, material := 0 }).updPkg (fun p => { p with power := .run })
      .next (if imageGood b = true
        then (u.updPkg (fun p => { p with firmware := some (Config.sm3 b.image) })).updFab (fun f => { f with
          ports := ((List.range 96).zip (b.portModes ++ List.replicate 96 0)).map (fun x => (x.1, Port.boot x.2 (b.portCiphers.getD x.1 false))) })
        else u) := by
  refine congrArg Host.Outcome.next ((if_neg (by rw [h]; decide)).trans ?_)
  dsimp only
  cases imageGood b <;> rfl

/-- While the clock stands, an event of the module's own work does nothing. -/
theorem whenClocked_stopped (h : s.pkg.power = .retain ∨ s.pkg.power = .off) (o : Host.Outcome State Fault Refusal) : whenClocked s o = .next s := by
  refine if_neg ?_
  rcases h with h | h <;> simp [clockRuns, h]

theorem idleWake_idle (h : s.pkg.power = .idle) : exec .idleWake s = .next (s.updPkg (fun p => { p with power := .run, idleFor := 0 })) := by
  change execIdleWake s = _
  simp only [execIdleWake, State.updPkg, h, if_true]

/-! ## Ports (spec/13 R352, R354, R357) -/

/-- A port that has trained with peer port n. -/
def trainedPort (s : State) (n : Nat) (p : Port) : Port := { p with
  reg := setBits (setBits (setBits p.reg 16 2 2) 0 10 n) 15 1 (if p.tested then 1 else 0)
  trained := true, retrain := false, padSince := s.clock, skidOn := bitOf p.reg 18 }

/-- The state that a training gives a port leaves no trace of the register it replaces. -/
theorem setReady_retrained (p : Port) (v r : DWord) (since : Nat) (skid : Bool) :
    Port.setReady { ({ p with reg := v } : Port) with reg := r, trained := true, retrain := false, padSince := since, skidOn := skid } =
      { p with reg := setBits r 15 1 (if p.tested then 1 else 0), trained := true, retrain := false, padSince := since, skidOn := skid } := by
  simp only [Port.setReady, Bool.and_true]

theorem setReady_trained (s : State) (n : Nat) (p : Port) :
    Port.setReady { p.setState 2 with
      reg := setBits (setBits p.reg 16 2 2) 0 10 n, trained := true, retrain := false, padSince := s.clock, skidOn := bitOf p.reg 18 } =
    trainedPort s n p := setReady_retrained p (setBits p.reg 16 2 2) _ s.clock _

/-- Port training of a port that the boot configuration uses, in Run or Idle. -/
theorem portTraining_of (peer : Option Nat) (hp : s.port? port = some p) (hmode : portMode p ≠ 0) (hpower : s.pkg.power = .run ∨ s.pkg.power = .idle) :
    exec (.portTraining port peer) s = .next (match peer with
      | none => s.updPort port (fun p => p.setState 1)
      | some n => if p.retrain then
          pump (resend (s.updPort port (trainedPort s n)) port) (resend (s.updPort port (trainedPort s n)) port)
        else
          let t := requeue (s.updPort port (fun p => { trainedPort s n p with
            key := s.fab.keys, txCtr := 0, rxCtr := 0, txPhase := false, rxPhase := false, txNext := none, rxNext := false
            replay := [], peerWm := 0, fails := [], nack := false, skidLines := [], toldCtr := 0, toldWm := 0 })) p
          pump t (t.updFab (fun b => { b with keys := b.keys + 1 }))) := by
  have htrains : ¬(portMode p = 0 ∨ (!(s.pkg.power == .run || s.pkg.power == .idle)) = true) := by
    rcases hpower with h | h <;> simp [hmode, h]
  change execPortTraining port peer s = _
  rw [execPortTraining, hp]
  dsimp only
  rw [if_neg htrains]
  cases peer with
  | none => rfl
  | some n =>
    simp only [setReady_trained]

/-- The switch to the agreed key, just after both ends agreed it. -/
theorem switchKey_agreed (k : Nat) (p : Port) : Port.switchKey { p with txNext := some k, rxNext := true } =
    if p.replay.isEmpty then { p with key := k, txPhase := !p.txPhase, txCtr := 0, txNext := none, rxNext := true }
    else { p with txNext := some k, rxNext := true } := rfl

theorem linkRekey_due (hp : s.port? port = some p) (hstate : portState p = 2) (hdue : 2 ^ 47 ≤ p.txCtr ∨ 2 ^ 47 ≤ p.rxCtr)
    (htx : p.txNext = none) (hrx : p.rxNext = false) :
    exec (.linkRekey port) s =
      let t := s.updPort port (fun p => if p.replay.isEmpty
        then { p with key := s.fab.keys, txPhase := !p.txPhase, txCtr := 0, txNext := none, rxNext := true }
        else { p with txNext := some s.fab.keys, rxNext := true })
      .next (pump t (t.updFab (fun b => { b with keys := b.keys + 1 }))) := by
  change execLinkRekey port s = _
  rw [execLinkRekey, hp]
  exact congrArg Host.Outcome.next (if_pos ⟨hstate, hdue, htx, hrx⟩)

/-- A window that a port sends. -/
theorem sendWindow_of (hp : s.port? port = some p) (hmay : p.maySend = true) :
    sendWindow s port =
      let x := if outPort s = some port then takeFlits p.peerWm 5 s.fab.txq else (s.fab.txq, [])
      (s.updFab (fun b => { b with
        txq := x.1, outbox := b.outbox ++ (((x.2.filter (fun y => y.left == 0)).map (·.msg)) ++ [.window port (trailerOf s p p.txCtr x.2)]) })).updPort port
        (fun p => { p with txCtr := p.txCtr + 1, replay := p.replay ++ [{ ctr := p.txCtr, parts := x.2 }], nack := false, padSince := s.clock
                           toldCtr := p.rxCtr, toldWm := fillLevels s }) := by
  rw [sendWindow, hp]
  exact if_neg (by rw [hmay]; decide)

theorem windowPadTimeout_due (hp : s.port? port = some p) (hdomain : domainOf s ≠ 0) (hmode : portMode p = 1) (hstate : portState p = 2)
    (hdue : 64 ≤ s.clock - p.padSince) : exec (.windowPadTimeout port) s = .next (sendWindow s port) := by
  have hup : linkUp s p = true := by simp [linkUp, hdomain, hmode, hstate]
  change execWindowPadTimeout port s = _
  rw [execWindowPadTimeout, hp]
  exact congrArg Host.Outcome.next (if_pos ⟨hup, hdue⟩)

theorem darkLink_of (hp : s.port? port = some p) (hmode : portMode p ≠ 0) : exec (.darkLink port) s = .next (failPort s port) := by
  change execDarkLink port s = _
  rw [execDarkLink, hp]
  exact congrArg Host.Outcome.next (if_neg hmode)

/-! ## Reception (spec/13 R354, R355) -/

theorem verifies_iff : verifies p w = true ↔
    w.tagGood = true ∧ (w.kph = p.rxPhase ∧ w.ctr = p.rxCtr ∨ w.kph ≠ p.rxPhase ∧ p.rxNext = true ∧ w.ctr = 0) := by
  by_cases hphase : w.kph = p.rxPhase <;> simp [verifies, hphase]

theorem verifies_false (h : w.tagGood = false ∨ (w.kph = p.rxPhase ∧ w.ctr ≠ p.rxCtr) ∨ (w.kph ≠ p.rxPhase ∧ (p.rxNext = false ∨ w.ctr ≠ 0))) :
    verifies p w = false := by
  rcases h with h | ⟨hphase, h⟩ | ⟨hphase, h | h⟩ <;> simp [verifies, *]

/-- The port after a window that verified, and after one that did not. -/
def released (s : State) (port : Nat) (w : Window) : State := (wakeIdle s).updPort port (fun p => { p with
  rxCtr := w.ctr + 1, rxPhase := w.kph, rxNext := p.rxNext && w.kph == p.rxPhase, fails := [], skidLines := [] })
def counted (s : State) (port : Nat) (w : Window) (n : Nat) : State := (wakeIdle s).updPort port (fun x => { x with
  fails := cellsSet x.fails w.ctr n, nack := true, reg := setBits x.reg 32 32 (min (bitsOf x.reg 32 32 + 1) (2 ^ 32 - 1)) })

/-- A window received by a port that is up while the links are lit. -/
theorem windowReceive_of (hp : s.port? port = some p) (hmode : portMode p = 1) (hstate : portState p = 2) (hlit : Claims.lit s) :
    exec (.windowReceive port w) s = .next (if verifies p w then w.items.foldl takeItem (takeTrailer (released s port w) port w)
      else
        let n := (cellsGet p.fails w.ctr).getD 0 + 1
        let t := if p.skidOn ∧ w.ctr = p.rxCtr then w.items.foldl (fun s i => skidItem s port i) (counted s port w n) else counted s port w n
        if 4 ≤ n then failPort t port else sendWindow t port) := by
  change execWindowReceive port w s = _
  rw [execWindowReceive, hp]
  exact (if_neg (not_or.mpr ⟨not_not_intro hmode, not_not_intro hstate⟩)).trans (laneEvent_lit hlit)

theorem rankDownNotice_of {rank : Nat} (hlit : Claims.lit s) (hrank : rank ≠ ownRank s) :
    exec (.rankDownNotice rank) s = .next (rankDown (wakeIdle s) rank) :=
  (laneEvent_lit hlit).trans (congrArg Host.Outcome.next (if_neg hrank))

end Lemmas

/-! ## The obligation -/

/-- Settles O50: boot and power by their conditions, and each event of a port by the lemma that says what it does. -/
theorem powerAndPortEvents : Obligations.PowerAndPortEvents := by
  refine ⟨fun b s => boot_first b,
    fun s hon => ⟨congrArg _ (if_neg hon), congrArg _ (if_neg hon), fun celsius hhot => congrArg _ (if_neg (not_or.mpr ⟨Nat.not_lt.mpr hhot, hon⟩))⟩,
    fun s hrun hquiet hlong => congrArg _ (if_pos ⟨hrun, hquiet, hlong⟩), fun s a b n k p r x l hdark => ?dark,
    fun s => idleWake_idle, fun celsius s => rfl, fun port p s hp => ⟨fun hmode hpower => ⟨portTraining_of none hp hmode hpower, fun n => ⟨?spared, ?trained⟩⟩,
      linkRekey_due hp, fun hdomain hmode hstate hdue hmay => ?pads, darkLink_of hp, fun w hmode hstate hlit => ⟨fun htag hctr => ?releases, fun hbad hskid => ?counts⟩⟩,
    fun rank s => rankDownNotice_of⟩
  case dark =>
    iterate 35 refine List.forall_mem_cons.mpr ⟨whenClocked_stopped hdark _, ?_⟩
    exact List.forall_mem_nil _
  case spared =>
    intro hretrain
    rw [portTraining_of (some n) hp hmode hpower]
    exact congrArg Host.Outcome.next (if_pos hretrain)
  case trained =>
    intro hretrain
    rw [portTraining_of (some n) hp hmode hpower]
    exact congrArg Host.Outcome.next (if_neg (Bool.eq_false_iff.mp hretrain))
  case pads =>
    rw [windowPadTimeout_due hp hdomain hmode hstate hdue, sendWindow_of hp hmay]
  case releases =>
    rw [windowReceive_of hp hmode hstate hlit, if_pos (verifies_iff.mpr ⟨htag, hctr⟩)]
    rfl
  case counts =>
    rw [windowReceive_of hp hmode hstate hlit, verifies_false hbad, hskid]
    rfl

end Sys2Proof.PortEvents
end

section

/-! PROOFS. The queue instructions: push, pop, try, peek, skip and flush, and what QSTAT reads of a queue (spec/05 R146-R161, spec/06 R172-R180). -/

namespace Sys2Proof.QueueInstructions

open Sys2Proof Sys2Proof.Machine Sys2Proof.Claims
open Sys2Proof.QueueMemory (lanesWith_none popFate_popPoisoned act_ne_of_popPoisoned)

section Lemmas

variable {s : State} {c c' : Ctx} {g q : BitVec 4} {x : Queue} {i : Instr} {r : Res} {t : Team} {act : LaneMask} {e : QEntry}

/-! ## Over a declared queue (spec/06 R171) -/

/-- An instruction over a declared queue whose names may be named ends as its meaning does. -/
theorem queue_ends {ok : Ctx → Queue → Bool} {body : Ctx → Queue → Res} (h : Issues s .both c) (hq : c.t.queue? q.toNat = some x)
    (he : exec i s = issue s .both (fun c => withQueue c q (fun x => orIllopnd (ok c x) (body c x)))) (hok : ok c x = true) :
    exec i s = .next (finishRes c (body c x)) := by
  rw [he, issue_of h, withQueue, hq]
  simp only [hok]
  rfl

/-- One that completes. -/
theorem queue_completes {ok : Ctx → Queue → Bool} {body : Ctx → Queue → Res} (h : Issues s .both c) (hq : c.t.queue? q.toNat = some x)
    (he : exec i s = issue s .both (fun c => withQueue c q (fun x => orIllopnd (ok c x) (body c x)))) (hok : ok c x = true)
    (hb : body c x = .done c') (k : Follows c c') : Completes i s c' (c.p.pc + 4) :=
  CoreInstructions.completes_of_end h.1 ((queue_ends h hq he hok).trans (by rw [hb])) k

/-- One that traps. -/
theorem queue_traps {ok : Ctx → Queue → Bool} {body : Ctx → Queue → Res} {y : TrapInfo} (h : Issues s .both c) (hq : c.t.queue? q.toNat = some x)
    (he : exec i s = issue s .both (fun c => withQueue c q (fun x => orIllopnd (ok c x) (body c x)))) (hok : ok c x = true)
    (hb : body c x = .trap y) : Traps i s c y :=
  (queue_ends h hq he hok).trans (by rw [hb]; rfl)

/-! ## Pops (spec/05 R148) -/

theorem popTo_follows (c : Ctx) (x : Queue) (d : Nat) (act : LaneMask) : Follows c (popTo c x d act) :=
  (popHead_follows ..).trans (setD_follows ..)

theorem lanesWith_ne {L : Nat} {p : LaneState → Bool} (hL : L < 32) (hact : inMask act L = true) (hp : p (e.lane L).st = true) :
    (!(lanesWith [e] act p).isEmpty) = true := by
  have hmem : L ∈ lanesWith [e] act p := List.mem_filter.mpr ⟨List.mem_range.mpr hL, by simp [hact, hp]⟩
  cases hl : lanesWith [e] act p with
  | nil => rw [hl] at hmem; cases hmem
  | cons _ _ => rfl

theorem state_of_lanesWith_nil {L : Nat} {p : LaneState → Bool} (h : lanesWith [e] act p = []) (hL : L < 32) (hact : inMask act L = true) :
    p (e.lane L).st = false := by
  have hfree := List.filter_eq_nil_iff.mp h L (List.mem_range.mpr hL)
  simpa [hact] using hfree

/-- What a pop would wait for at an entry: a release that holds it, or a considered lane whose element is on its way or tentative. -/
def popWaits (s : State) (t : Team) (e : QEntry) (act : LaneMask) : Bool :=
  e.held s t || !(lanesWith [e] act (fun y => y == .inflight || y == .refetch || y == .tent)).isEmpty

theorem popWaits_of (h : e.held s t = true ∨ ∃ L, L < 32 ∧ inMask act L = true ∧
    ((e.lane L).st = .inflight ∨ (e.lane L).st = .refetch ∨ (e.lane L).st = .tent)) : popWaits s t e act = true := by
  rw [popWaits, Bool.or_eq_true]
  refine h.imp_right fun ⟨L, hL, hact, hst⟩ => lanesWith_ne hL hact ?_
  rcases hst with h | h | h <;> rw [h] <;> rfl

theorem popWaits_false (hheld : e.held s t = false) (hwait : ∀ L, L < 32 → inMask act L = true →
    (e.lane L).st ≠ .inflight ∧ (e.lane L).st ≠ .refetch ∧ (e.lane L).st ≠ .tent) : popWaits s t e act = false := by
  have hnone : lanesWith [e] act (fun y => y == .inflight || y == .refetch || y == .tent) = [] :=
    lanesWith_none fun L hL hact => by
      obtain ⟨h1, h2, h3⟩ := hwait L hL hact
      simp [h1, h2, h3]
  rw [popWaits, hheld, hnone]
  rfl

/-- A pop that delivers waits for nothing. -/
theorem popWaits_of_ok (h : popFate s t [e] act = .ok) : popWaits s t e act = false := by
  unfold popFate at h
  split at h
  · cases h
  · rename_i hheld
    split at h
    · cases h
    · rename_i hread
      split at h
      · dsimp only at h
        split at h <;> cases h
      · rename_i htent
        have hread' : lanesWith [e] act (fun y => y == .inflight || y == .refetch) = [] := by simpa using hread
        refine popWaits_false (by simpa using hheld) fun L hL hact => ?_
        have h1 := state_of_lanesWith_nil hread' hL hact
        have h2 := state_of_lanesWith_nil htent hL hact
        simp only [Bool.or_eq_false_iff, beq_eq_false_iff_ne] at h1 h2
        exact ⟨h1.1, h1.2, h2⟩

/-- QTRY in a split with active lanes, over a queue with entries. -/
theorem qtry_ends {d : BitVec 6} {p : BitVec 3} (h : Issues s .both c) (hact : c.act g ≠ 0) (hq : c.t.queue? q.toNat = some x)
    (hcons : isConsumer x c.w = true) (hd : destOk c d.toNat (x.width == 2) = true) (hcount : x.count ≠ 0) :
    exec (.qtry g d q p) s = .next (finishRes c (
      if popWaits c.s c.t (x.entryAt 0) (c.act g) then .done (c.withW (c.w.setP p.toNat (c.act g) (fun _ => false)))
      else match popFate c.s c.t [x.entryAt 0] (c.act g) with
        | .wait _ => .done (c.withW (c.w.setP p.toNat (c.act g) (fun _ => false)))
        | .trap i => .trap i
        | .pending => .switchOut []
        | .ok => afterReads c (c.act g) (.done ((popTo c x d.toNat (c.act g)).withW
            ((popTo c x d.toNat (c.act g)).w.setP p.toNat (c.act g) (fun _ => true)))))) := by
  refine (queue_ends h hq rfl (Bool.and_eq_true_iff.mpr ⟨hcons, hd⟩)).trans (congrArg (fun r => Host.Outcome.next (finishRes c r)) ?_)
  exact (if_neg hact).trans (if_neg hcount)

/-- QTRY of an empty queue. -/
theorem qtry_empty {d : BitVec 6} {p : BitVec 3} (h : Issues s .both c) (hact : c.act g ≠ 0) (hq : c.t.queue? q.toNat = some x)
    (hcons : isConsumer x c.w = true) (hd : destOk c d.toNat (x.width == 2) = true) (hcount : x.count = 0) :
    Completes (.qtry g d q p) s (c.withW (c.w.setP p.toNat (c.act g) (fun _ => false))) (c.p.pc + 4) :=
  queue_completes h hq rfl (Bool.and_eq_true_iff.mpr ⟨hcons, hd⟩) ((if_neg hact).trans (if_pos hcount)) ((Follows.refl c).warp _ (setP_table ..))

/-- QPOP in a split with active lanes, over a queue with entries. -/
theorem qpop_ends {d : BitVec 6} {k : BitVec 1} {p : BitVec 3} (h : Issues s .both c) (hact : c.act g ≠ 0) (hq : c.t.queue? q.toNat = some x)
    (hcons : isConsumer x c.w = true) (hd : destOk c d.toNat (x.width == 2) = true) (hcount : x.count ≠ 0) :
    exec (.qpop g d q k p) s = .next (finishRes c (match popFate c.s c.t [x.entryAt 0] (c.act g) with
      | .wait b => .block c b
      | .trap i => .trap i
      | .pending => .switchOut []
      | .ok => afterReads c (c.act g) (.done (if k = 1 then (popTo c x d.toNat (c.act g)).withW
          ((popTo c x d.toNat (c.act g)).w.setP p.toNat (c.act g) (fun L => ((x.entryAt 0).lane L).st == .valid)) else popTo c x d.toNat (c.act g))))) := by
  refine (queue_ends h hq rfl (Bool.and_eq_true_iff.mpr ⟨hcons, hd⟩)).trans (congrArg (fun r => Host.Outcome.next (finishRes c r)) ?_)
  exact (if_neg hact).trans (if_neg hcount)

theorem peekLane_eq (k : BitVec 1) (x : Queue) (L : Nat) : peekLane (k == 1) x L =
    if x.count = 0 then 0
    else if k = 1 then BitVec.ofNat 64 (stateCode ((x.entryAt 0).lane L).st)
    else if ((x.entryAt 0).lane L).st = .valid ∨ ((x.entryAt 0).lane L).st = .poison then ((x.entryAt 0).lane L).data
    else 0 := by
  simp only [peekLane, beq_iff_eq]

/-! ## QSTAT (spec/06 R179) -/

theorem maskOf_ne_zero (p : Nat → Bool) : maskOf p ≠ 0 ↔ laneList.any p = true := by
  rw [List.any_eq_true]
  constructor
  · intro h
    obtain ⟨L, hL, hin⟩ := exists_lane h
    rw [maskOf_bit] at hin
    exact ⟨L, List.mem_range.mpr hL, (Bool.and_eq_true_iff.mp hin).2⟩
  · rintro ⟨L, hL, hp⟩ hzero
    have hbit := maskOf_bit p L
    rw [hzero, hp, decide_eq_true (List.mem_range.mp hL)] at hbit
    simp [inMask] at hbit

/-- A lane of the head entry is in a state of p; without entries none is. -/
def headHas (x : Queue) (p : LaneState → Bool) : Bool := x.count != 0 && laneList.any (fun L => p ((x.entryAt 0).lane L).st)

theorem headMask_ne_zero (x : Queue) (p : LaneState → Bool) :
    ((if x.count = 0 then 0 else (x.entryAt 0).maskIn p) ≠ 0) ↔ headHas x p = true := by
  by_cases hcount : x.count = 0
  · simp [headHas, hcount]
  · rw [if_neg hcount, QEntry.maskIn, maskOf_ne_zero, headHas, bne_iff_ne.mpr hcount, Bool.true_and]

/-- The word of five flags, from bit 0 up. -/
theorem flagWord_bits : ∀ a b c d e : Bool,
    let w : Word := BitVec.ofNat 32 ((if a then 1 else 0) + (if b then 2 else 0) + (if c then 4 else 0) + (if d then 8 else 0) + (if e then 16 else 0))
    bitOf w 0 = a ∧ bitOf w 1 = b ∧ bitOf w 2 = c ∧ bitOf w 3 = d ∧ bitOf w 4 = e ∧ bitsOf w 5 27 = 0 := by
  decide

theorem qstatValue_flags (x : Queue) : qstatValue 3 x = BitVec.ofNat 32 ((if x.eos then 1 else 0) +
    (if headHas x (fun y => y == .pending || y == .refetch) then 2 else 0) + (if headHas x (· == .poison) then 4 else 0) +
    (if headHas x (· == .tent) then 8 else 0) + (if headHas x (· == .inflight) then 16 else 0)) := by
  simp only [qstatValue, headMask_ne_zero]

theorem readyCount_spec (x : Queue) : readyCount x ≤ x.count ∧
    (∀ i, i < readyCount x → (x.entryAt i).lanes.all (fun l => l.st == .free || l.st == .valid || l.st == .invalid) = true) ∧
    (readyCount x < x.count → (x.entryAt (readyCount x)).lanes.all (fun l => l.st == .free || l.st == .valid || l.st == .invalid) = false) := by
  have hlen : readyCount x = (List.range x.count).findIdx (fun i => !(x.entryAt i).lanes.all (fun l => l.st == .free || l.st == .valid || l.st == .invalid)) := by
    rw [readyCount, List.takeWhile_eq_take_findIdx_not, List.length_take, Nat.min_eq_left List.findIdx_le_length]
  rw [hlen]
  refine ⟨by simpa using List.findIdx_le_length (xs := List.range x.count), fun i hi => ?_, fun hlt => ?_⟩
  · have hready := List.not_of_lt_findIdx hi
    simpa using hready
  · have hstop := List.findIdx_getElem (w := by simpa using hlt)
      (xs := List.range x.count) (p := fun i => !(x.entryAt i).lanes.all (fun l => l.st == .free || l.st == .valid || l.st == .invalid))
    simpa using hstop

/-- What QSTAT reads by each selector. -/
theorem queueStatus_holds (x : Queue) : queueStatus x := by
  have ready_iff (i : Nat) : (x.entryAt i).lanes.all (fun l => l.st == .free || l.st == .valid || l.st == .invalid) = true ↔
      ∀ l ∈ (x.entryAt i).lanes, l.st = .free ∨ l.st = .valid ∨ l.st = .invalid := by
    simp [List.all_eq_true, or_assoc]
  obtain ⟨hle, hready, hstop⟩ := readyCount_spec x
  obtain ⟨h0, h1, h2, h3, h4, h5⟩ := flagWord_bits x.eos (headHas x (fun y => y == .pending || y == .refetch)) (headHas x (· == .poison))
    (headHas x (· == .tent)) (headHas x (· == .inflight))
  rw [← qstatValue_flags] at h0 h1 h2 h3 h4 h5
  exact ⟨rfl, ⟨readyCount x, rfl, hle, fun i hi => (ready_iff i).mp (hready i hi),
      fun hlt h => Bool.eq_false_iff.mp (hstop hlt) ((ready_iff _).mpr h)⟩, rfl, h0, h1, h2, h3, h4, h5, rfl, rfl, rfl, rfl⟩

end Lemmas

/-! ## The obligation -/

/-- Settles O6: each instruction over its declared queue; a pop by its fate in the table of R148. -/
theorem queuesComplete : Obligations.QueuesComplete := by
  refine ⟨⟨?push, ?pop, ?poisoned, ?tryFalse, ?peek, ?skip, ?flush⟩, ?stat, ?eos, ?eosTest⟩
  case push =>
    intro g q a s c c' x x' vs hact hq hprod hroom hq' ⟨hissues, hok, hread⟩
    refine queue_completes hissues hq rfl (Bool.and_eq_true_iff.mpr ⟨hprod, hok _ (List.mem_singleton.mpr rfl)⟩) ?_
      ((readOps_follows hread).1.trans ⟨rfl, rfl, rfl, rfl, id, rfl, fun _ => id⟩)
    refine (if_neg hact).trans ((if_neg (by rw [hroom]; decide)).trans ?_)
    simp only [hread, hq']
    rfl
  case pop =>
    intro g q d e p s c x hissues hact hq hcons hd hcount hfate howed
    have howed' : ¬readsOwed c.s c.t c.wi (c.act g) = true := Bool.eq_false_iff.mp howed
    constructor
    · refine CoreInstructions.completes_of_end hissues.1 ?_
        (CoreInstructions.follows_ite ((popTo_follows c x d.toNat (c.act g)).warp _ (setP_table ..)) (popTo_follows c x d.toNat (c.act g)))
      rw [qpop_ends hissues hact hq hcons hd hcount, hfate]
      exact congrArg (fun r => Host.Outcome.next (finishRes c r)) (if_neg howed')
    · refine CoreInstructions.completes_of_end hissues.1 ?_ ((popTo_follows c x d.toNat (c.act g)).warp _ (setP_table ..))
      rw [qtry_ends hissues hact hq hcons hd hcount, popWaits_of_ok hfate, hfate]
      exact congrArg (fun r => Host.Outcome.next (finishRes c r)) (if_neg howed')
  case poisoned =>
    intro g q d e p s c x i hissues hq hcons hd hcount hpoison
    have hact := act_ne_of_popPoisoned hpoison
    have hfate := popFate_popPoisoned hpoison
    obtain ⟨hheld, hwait, -⟩ := hpoison
    constructor
    · rw [Traps, qpop_ends hissues hact hq hcons hd hcount, hfate]
      rfl
    · rw [Traps, qtry_ends hissues hact hq hcons hd hcount, popWaits_false hheld hwait, hfate]
      rfl
  case tryFalse =>
    intro g q d p s c x hissues hact hq hcons hd hwaits
    by_cases hcount : x.count = 0
    · exact qtry_empty hissues hact hq hcons hd hcount
    · refine CoreInstructions.completes_of_end hissues.1 ?_ ((Follows.refl c).warp _ (setP_table ..))
      rw [qtry_ends hissues hact hq hcons hd hcount, popWaits_of (hwaits.resolve_left hcount)]
      rfl
  case peek =>
    intro g q d k s c x hissues hq hcons hd
    simp only [← peekLane_eq]
    exact queue_completes hissues hq rfl (Bool.and_eq_true_iff.mpr ⟨hcons, hd⟩) rfl (setD_follows ..)
  case skip =>
    intro g q n s c x hissues hact hq hcons hcount
    exact queue_completes hissues hq rfl hcons ((if_neg hact).trans (if_neg (Nat.not_lt.mpr hcount))) (dropHead_follows ..)
  case flush =>
    intro g q e s c x y hissues hact hq hnamed hy
    refine queue_completes hissues hq rfl hnamed ((if_neg hact).trans ?_)
      (CoreInstructions.follows_ite ((dropHead_follows ..).team' _ rfl rfl) (dropHead_follows ..))
    simp only [hy]
  case stat =>
    intro g q d k s c x hissues hq hnamed hd
    exact ⟨queue_completes hissues hq rfl (Bool.and_eq_true_iff.mpr ⟨hnamed, hd⟩) rfl ((Follows.refl c).warp _ rfl), queueStatus_holds x⟩
  case eos =>
    intro g q s c x hissues hq hprod
    exact queue_completes hissues hq rfl hprod rfl (CoreInstructions.follows_ite (.refl c) (setQueue_follows ..))
  case eosTest =>
    intro g q p s c x hissues hq hcons
    exact queue_completes hissues hq rfl hcons rfl ((Follows.refl c).warp _ (setP_table ..))

end Sys2Proof.QueueInstructions
end

section

/-! PROOFS. Transfers whose lanes part: the renumbering of a warp's splits, the new splits' places, and the divergence of BRA, CALL, RET and JMPI (spec/02 R59, R62-R66, spec/04 R129, R131, R132). -/

namespace Sys2Proof.Divergence

open Sys2Proof Sys2Proof.Machine Sys2Proof.Claims

section Lemmas

variable {s : State} {c c1 c0 : Ctx} {i : Instr} {n cap : Nat} {own : BitVec 16} {old : List (BitVec 16)}

/-! ## Renumbering (spec/02 R59) -/

theorem rebase_near (h : ∀ o, oldestOf c.w.splits = some o → (c.w.seqCtr - o.seq).toNat + n ≤ 0x7F00) : c.rebase n = c := by
  unfold Ctx.rebase
  split
  · rfl
  · rename_i o ho
    exact if_pos (h o ho)

theorem rebase_far {o : Split} (ho : oldestOf c.w.splits = some o) (hfar : 0x7F00 < (c.w.seqCtr - o.seq).toNat + n) :
    c.rebase n = renumbered (mapSeq (rebaseMap c.w.splits)) c.w.splits.length c := by
  unfold Ctx.rebase
  rw [ho]
  refine (if_neg (Nat.not_le.mpr hfar)).trans ?_
  simp only [beq_iff_eq]
  rfl

/-- The oldest split heads the splits in their order of age. -/
theorem oldestOf_head {o : Split} {l m : List Split} (hperm : (o :: l).Perm m) (hage : (o :: l).Pairwise (fun x y => olderSeq x.seq y.seq = true)) :
    oldestOf m = some o := by
  refine oldestOf_eq (hperm.mem_iff.mp (List.mem_cons_self ..)) fun x hx hne => ?_
  rcases List.mem_cons.mp (hperm.mem_iff.mpr hx) with rfl | hx
  · exact absurd rfl hne
  · exact List.rel_of_pairwise_cons hage hx

/-- A transfer's context, as the claim gives it, is the one that the model takes. -/
theorem rebase_eq (h : rebases n c c1) : c.rebase n = c1 := by
  rcases h with ⟨rfl, hnear⟩ | ⟨o, l, hperm, hage, hfar, rfl⟩
  · exact rebase_near hnear
  · rw [rebase_far (oldestOf_head hperm hage) hfar, funext (rebaseMap_eq hperm.symm hage), ← hperm.length_eq, List.length_cons]

/-! ## The places of the new splits (spec/02 R63 to R66) -/

theorem childAt_eq (p : Split) (now : Nat) (parent : Option (BitVec 16)) : (fun t => childAt p now t parent) = newSplit p now parent := by
  funext t
  unfold childAt newSplit headerAt
  by_cases h : t.pc = p.pc + 4
  · simp only [if_pos h]
  · simp only [if_neg h]

theorem victimOf_spillsFirst {l : List Split} {v : Split} (h : spillsFirst l v) : victimOf l = some v := by
  obtain ⟨hv, hlive, hfirst⟩ := h
  exact victimOf_eq hv hlive hfirst

section Child
variable {w : Warp} {p v : Split}

theorem addChild_room (h : ¬8 ≤ w.table.length) : addChild w cap old own p = some { w with table := w.table ++ [p] } :=
  if_pos (Nat.not_le.mp h)

theorem addChild_none (hfull : 8 ≤ w.table.length) (hcap : cap ≤ w.spilled.length) : addChild w cap old own p = none :=
  (if_neg (Nat.not_lt.mpr hfull)).trans (if_pos hcap)

theorem addChild_spills (hfull : 8 ≤ w.table.length) (hcap : w.spilled.length < cap)
    (hv : spillsFirst (w.table.filter (fun p => p.seq != own && old.contains p.seq)) v) :
    addChild w cap old own p = some { w with table := dropSplit w.table v.seq ++ [p], spilled := w.spilled ++ [v.asSpilled] } := by
  refine (if_neg (Nat.not_lt.mpr hfull)).trans ((if_neg (Nat.not_le.mpr hcap)).trans ?_)
  rw [victim, victimOf_spillsFirst hv]

theorem addChild_straight (hfull : 8 ≤ w.table.length) (hcap : w.spilled.length < cap)
    (hlive : ∀ x ∈ w.table.filter (fun p => p.seq != own && old.contains p.seq), x.st = .live) :
    addChild w cap old own p = some { w with spilled := w.spilled ++ [p] } := by
  refine (if_neg (Nat.not_lt.mpr hfull)).trans ((if_neg (Nat.not_le.mpr hcap)).trans ?_)
  rw [victim, victimOf_none hlive]

theorem addChildren_some {rest : List Split} {u : Warp} (h : addChild { w with seqCtr := w.seqCtr + 1 } cap old own { p with seq := w.seqCtr } = some u) :
    addChildren cap old own w (p :: rest) = addChildren cap old own u rest := by
  rw [addChildren, h]

theorem addChildren_none {rest : List Split} (h : addChild { w with seqCtr := w.seqCtr + 1 } cap old own { p with seq := w.seqCtr } = none) :
    addChildren cap old own w (p :: rest) = none := by
  rw [addChildren, h]

end Child

/-- What the claim says of the warp after the last new split is what the model makes it. -/
theorem addChildren_eq {kids : List Split} {w : Warp} {r : Option Warp} (h : records cap own old w kids r) :
    addChildren cap old own w kids = r := by
  induction kids generalizing w with
  | nil => exact h.symm
  | cons x rest ih =>
    rcases h with ⟨hroom, h⟩ | ⟨hfull, hcap, rfl⟩ | ⟨hfull, hcap, v, hv, h⟩ | ⟨hfull, hcap, hlive, h⟩
    · exact (addChildren_some (addChild_room hroom)).trans (ih h)
    · exact addChildren_none (addChild_none hfull hcap)
    · exact (addChildren_some (addChild_spills hfull hcap hv)).trans (ih h)
    · exact (addChildren_some (addChild_straight hfull hcap hlive)).trans (ih h)

/-! ## A transfer that diverges -/

/-- An unarmed transfer to two or more targets, once its warp is renumbered. -/
theorem transfer_unarmed {next : Nat → DWord} {t0 t1 : Target} {rest : List Target} (ht : targetsOf c.p.mask next = t0 :: t1 :: rest)
    (hunarmed : c.p.arm = false) (hc1 : c.rebase (t1 :: rest).length = c1) (harm : c1.p.arm = false) :
    transfer c next = match addChildren c1.t.ident.kern.spill (c1.w.table.map (·.seq)) c1.p.seq c1.w
        ((t1 :: rest).map (newSplit c1.p c1.s.clock c1.p.parent)) with
      | none => .trapC causeSPILL
      | some w => .at_ { goes c1 t0.pc with w := w, p := { (goes c1 t0.pc).p with mask := t0.mask } } := by
  have hheader : ∀ p : Split, headerAt p t0.pc = (if t0.pc = p.pc + 4 then p.setA else 15, if t0.pc = p.pc + 4 then p.setB else 15) := by
    intro p
    unfold headerAt
    split <;> rfl
  unfold transfer
  rw [ht]
  simp only [hunarmed, Bool.false_eq_true, if_false, hc1, harm, childAt_eq, hheader, goes] <;> rfl

/-- An armed one. -/
theorem transfer_armed {next : Nat → DWord} {t0 t1 : Target} {rest : List Target} (ht : targetsOf c.p.mask next = t0 :: t1 :: rest)
    (harmed : c.p.arm = true) (hc1 : c.rebase ((t1 :: rest).length + 1) = c1) (harm : c1.p.arm = true) :
    transfer c next =
      let parent : Split := { c1.p with st := .waitingMerge, pc := c1.p.mpc, arrived := 0, arm := false, immRun := 0, blk := 0, arrival := none }
      match addChildren c1.t.ident.kern.spill (c1.w.table.map (·.seq)) c1.p.seq { c1.w with table := putSplit c1.w.table parent }
        ((t0 :: t1 :: rest).map (newSplit c1.p c1.s.clock (some c1.p.seq))) with
      | none => .trapC causeSPILL
      | some w => .left ({ c1 with
          t := if c1.inHandler then c1.passHandler c1.w.seqCtr else c1.t
          p := parent
          w := { w with
            table := w.table.map (fun x => if x.seq = c1.w.seqCtr then { x with st := .live } else x)
            slots := w.slots.map (fun l => if l.seq = some c1.p.seq then { seq := some c1.w.seqCtr, issued := 0 } else l) } } : Ctx).commit c1.p.seq := by
  unfold transfer
  rw [ht]
  simp only [harmed, if_true, hc1, harm, childAt_eq] <;> rfl

theorem rebases_arm (h : rebases n c c1) : c1.p.arm = c.p.arm := by
  rcases h with ⟨rfl, -⟩ | ⟨o, l, -, -, -, rfl⟩ <;> rfl

/-- An instruction that ends as a transfer does diverges where its lanes have two or more targets. -/
theorem diverges_of {next : Nat → DWord} (he : exec i s = .next (finishRes c0 (transfer c next))) : diverges i s c0 c next := by
  rintro t0 rest c1 ⟨hascending, hmasks, hall⟩ hrest hrebase
  obtain ⟨t1, rest, rfl⟩ := List.exists_cons_of_ne_nil hrest
  have ht := targetsOf_eq hascending hmasks hall
  refine ⟨fun hunarmed r hr => ?unarmed, fun harmed r hr => ?armed⟩
  case unarmed =>
    rw [hunarmed] at hrebase
    rw [transfer_unarmed ht hunarmed (rebase_eq hrebase) ((rebases_arm hrebase).trans hunarmed), addChildren_eq hr] at he
    exact ⟨fun hnone => by rw [Traps, he, hnone]; rfl, fun w hw => by rw [he, hw]⟩
  case armed =>
    rw [harmed] at hrebase
    rw [transfer_armed ht harmed (rebase_eq hrebase) ((rebases_arm hrebase).trans harmed)] at he
    dsimp only at he
    rw [addChildren_eq hr] at he
    exact ⟨fun hnone => by rw [Traps, he, hnone]; rfl, fun w hw => by rw [he, hw]⟩

end Lemmas

/-! ## The obligation -/

/-- Settles O14: each of the four ends as a transfer of its lanes' targets does, and a transfer diverges as R62 to R66 say. -/
theorem divergingSplits : Obligations.DivergingSplits := by
  refine ⟨fun f s c h => ⟨diverges_of (issue_of h _), diverges_of (issue_of h _)⟩, fun g s c h hal => diverges_of ?ret,
    fun g a s c h ha hok hal => diverges_of ?jmpi⟩
  case ret => exact (issue_of h _).trans (congrArg (fun r => Host.Outcome.next (finishRes c r)) (LaneInstructions.jumpLanes_aligned hal))
  case jmpi =>
    exact (issue_of h _).trans (congrArg (fun r => Host.Outcome.next (finishRes c r))
      ((LaneInstructions.jmpi_checked ha hok _).trans (LaneInstructions.jumpLanes_aligned hal)))

end Sys2Proof.Divergence
end

section

/-! PROOFS. That the shared operations of the machine keep HBM canonical and the number of cores and clusters (spec/00 R2, spec/12 R330, notes/assumptions/4.md): each as a step that follows others, and the ends of instructions. -/

namespace Sys2Proof.Machine

section

variable {a s s0 : State} {c c0 : Ctx} {act : LaneMask} {n id k wi core job slot pa : Nat} {t : Team} {w : Warp} {p : Split} {α : Type}

/-! ## Steps that follow others -/

/-- A state with the HBM, and as many cores and clusters, as one that keeps. -/
theorem Keeps.like {s' : State} (h : Keeps a s) (hhbm : s'.pkg.hbm = s.pkg.hbm) (hcores : s'.cores.length = s.cores.length)
    (hclusters : s'.clusters.length = s.clusters.length) : Keeps a s' := h.trans (.same hhbm hcores hclusters)

theorem Keeps.fold {f : State → α → State} {l : List α} (h : Keeps a s) (hf : ∀ s x, Keeps a s → Keeps a (f s x)) : Keeps a (l.foldl f s) :=
  List.foldlRecOn (motive := fun s => Keeps a s) l f h (fun s h x _ => hf s x h)

theorem Keeps.foldCtx {f : Ctx → α → Ctx} {l : List α} (h : Keeps a c.s) (hf : ∀ c x, Keeps a c.s → Keeps a (f c x).s) : Keeps a (l.foldl f c).s :=
  List.foldlRecOn (motive := fun c : Ctx => Keeps a c.s) l f h (fun c h x _ => hf c x h)

theorem Keeps.iteCtx {p : Prop} [Decidable p] {b d : Ctx} (hb : Keeps a b.s) (hd : Keeps a d.s) : Keeps a (if p then b else d).s := by
  split
  · exact hb
  · exact hd

theorem Keeps.iteFst {β : Type} {p : Prop} [Decidable p] {b d : State × β} (hb : Keeps a b.1) (hd : Keeps a d.1) : Keeps a (if p then b else d).1 := by
  split
  · exact hb
  · exact hd

theorem Keeps.updPkg {f : Package → Package} (h : Keeps a s) (hf : ∀ p, (f p).hbm = p.hbm) : Keeps a (s.updPkg f) :=
  h.trans (updPkg_keeps s f hf)
theorem Keeps.updDie {f : Die → Die} (h : Keeps a s) : Keeps a (s.updDie f) := h.trans (updDie_keeps ..)
theorem Keeps.updFab {f : Fabric → Fabric} (h : Keeps a s) : Keeps a (s.updFab f) := h.trans (updFab_keeps ..)
theorem Keeps.updCore {f : Core → Core} (h : Keeps a s) : Keeps a (s.updCore k f) := h.trans (updCore_keeps ..)
theorem Keeps.updCluster {f : Cluster → Cluster} (h : Keeps a s) : Keeps a (s.updCluster k f) := h.trans (updCluster_keeps ..)
theorem Keeps.setTeam (h : Keeps a s) : Keeps a (s.setTeam t) := h.trans (setTeam_keeps ..)
theorem Keeps.updTeam {f : Team → Team} (h : Keeps a s) : Keeps a (s.updTeam id f) := h.trans (updTeam_keeps ..)
theorem Keeps.updWarp {f : Warp → Warp} (h : Keeps a s) : Keeps a (updWarp s id wi f) := h.trans (updWarp_keeps ..)
theorem Keeps.updTask {f : Task → Task} (h : Keeps a s) : Keeps a (s.updTask id f) := h.trans (updTask_keeps ..)
theorem Keeps.updPort {f : Port → Port} (h : Keeps a s) : Keeps a (s.updPort n f) := h.trans (updPort_keeps ..)
theorem Keeps.updGroup {f : Group → Group} (h : Keeps a s) : Keeps a (s.updGroup n f) := h.trans (updGroup_keeps ..)
theorem Keeps.updColl {f : Coll → Coll} (h : Keeps a s) : Keeps a (s.updColl n f) := h.trans (updColl_keeps ..)
theorem Keeps.fresh (h : Keeps a s) : Keeps a s.fresh.2 := h.trans (fresh_keeps s)
theorem Keeps.wakeIdle (h : Keeps a s) : Keeps a (wakeIdle s) := h.trans (wakeIdle_keeps s)
theorem Keeps.unbind {f : Option Nat} (h : Keeps a s) : Keeps a (s.unbind id wi f) := h.trans (unbind_keeps ..)

/-! ## Memory, pages, tasks and teams -/

theorem Keeps.writeBytes {un : Bool} {bs : List (Nat × Byte)} (h : Keeps a s) : Keeps a (writeBytes s slot un bs) := h.trans (writeBytes_keeps ..)
theorem Keeps.writeOwn {bs : List (Nat × Byte)} (h : Keeps a s) : Keeps a (writeOwn s bs) := h.writeBytes
theorem Keeps.writeBackByte (h : Keeps a s) : Keeps a (writeBackByte s slot pa) := h.trans (writeBackByte_keeps ..)
theorem Keeps.writeBackLine (h : Keeps a s) : Keeps a (writeBackLine s n) := h.trans (writeBackLine_keeps ..)
theorem Keeps.writeBackAll (h : Keeps a s) : Keeps a (writeBackAll s) := h.trans (writeBackAll_keeps ..)
theorem Keeps.clearCovered {bs : List (Nat × Byte)} (h : Keeps a s) : Keeps a (clearCovered s bs) := .ite h h.updDie
theorem Keeps.touchPools {pas : List Nat} (h : Keeps a s) : Keeps a (touchPools s pas) := h.trans (touchPools_keeps ..)
theorem Keeps.writePlaces {ps : List Place} {bs : List Byte} (h : Keeps a s) : Keeps a (writePlaces s ps bs) :=
  (h.fold fun _ _ h => h.writeBytes).clearCovered.touchPools
theorem Keeps.writeAgent {v : Nat} (h : Keeps a s) : Keeps a (writeAgent s slot pa n v) := h.trans (writeAgent_keeps ..)
theorem Keeps.dispatcherPage (h : Keeps a s) : Keeps a (dispatcherPage s job n) := h.trans (dispatcherPage_keeps ..)
theorem Keeps.writeVa64 {v : DWord} (h : Keeps a s) : Keeps a (writeVa64 s job n v) := h.trans (writeVa64_keeps ..)
theorem Keeps.rmw64 {f : DWord → DWord} (h : Keeps a s) : Keeps a (rmw64 s slot pa f) := h.trans (rmw64_keeps ..)
theorem Keeps.signalVa {va : Nat} (h : Keeps a s) : Keeps a (signalVa s job va n) := h.trans (signalVa_keeps ..)
theorem Keeps.noteTlb {g : Agent} {es : List TlbEntry} (h : Keeps a s) : Keeps a (noteTlb s g es) := h.trans (noteTlb_keeps ..)
theorem Keeps.requestPages {pages : List Nat} (h : Keeps a s) : Keeps a (requestPages s core job pages) := h.trans (requestPages_keeps ..)
theorem Keeps.writeStatus {x : Task} {st : TaskState} {code : Nat} (h : Keeps a s) : Keeps a (writeStatus s x st code n) :=
  h.trans (writeStatus_keeps ..)
theorem Keeps.leaveCore (h : Keeps a s) : Keeps a (leaveCore s id) := h.trans (leaveCore_keeps ..)
theorem Keeps.endTeam {st : TeamStatus} (h : Keeps a s) : Keeps a (endTeam s id st) := h.trans (endTeam_keeps ..)
theorem Keeps.stopJob (h : Keeps a s) : Keeps a (stopJob s job) := h.trans (stopJob_keeps ..)
theorem Keeps.failTask {code : Nat} (h : Keeps a s) : Keeps a (failTask s id code n) := h.trans (failTask_keeps ..)
theorem Keeps.terminateTeam {code : BitVec 8} (h : Keeps a s) : Keeps a (terminateTeam s t code) := h.trans (terminateTeam_keeps ..)
theorem Keeps.killTeam (h : Keeps a s) : Keeps a (killTeam s id) := h.trans (killTeam_keeps ..)
theorem Keeps.opEnded (h : Keeps a s) : Keeps a (opEnded s id) := h.trans (opEnded_keeps ..)
theorem Keeps.finishTeam (h : Keeps a s) : Keeps a (finishTeam s id) := h.trans (finishTeam_keeps ..)
theorem Keeps.writeHeader (h : Keeps a s) : Keeps a (writeHeader s t n) := h.trans (writeHeader_keeps ..)
theorem Keeps.writeHalts (h : Keeps a s) : Keeps a (writeHalts s t) := h.trans (writeHalts_keeps ..)
theorem Keeps.beginSave {why : SaveWhy} {pages : List Nat} (h : Keeps a s) : Keeps a (beginSave s id why pages) := h.trans (beginSave_keeps ..)
theorem Keeps.sendBack (h : Keeps a s) : Keeps a (sendBack s id) := h.trans (sendBack_keeps ..)
theorem Keeps.saveMates {why : SaveWhy} (h : Keeps a s) : Keeps a (saveMates s t why) := h.trans (saveMates_keeps ..)
theorem Keeps.takeTrap {x : TrapInfo} {pc : DWord} (h : Keeps a c.s) : Keeps a (takeTrap c x pc) := h.trans (takeTrap_keeps ..)
theorem Keeps.commit (h : Keeps a c.s) : Keeps a c.commit := h.trans (commit_keeps c)

/-- The end of a handler: the team without it, and what then becomes of it. -/
theorem Keeps.endHandler (h : Keeps a s) : Keeps a (endHandler s id) := by
  unfold Machine.endHandler
  split
  · exact h
  · split
    · exact h
    · dsimp only
      split
      · exact h.setTeam.takeTrap
      · exact .ite ((h.setTeam.beginSave.fold fun _ _ h => h.beginSave).updTeam) h.setTeam

/-! ## Links (spec/13 R353 to R356) -/

theorem Keeps.emit {l : List Message} (h : Keeps a s) : Keeps a (emit s l) := h.updFab
theorem Keeps.sendWindow (h : Keeps a s) : Keeps a (sendWindow s n) := by
  unfold Machine.sendWindow
  split
  · exact h
  · exact .ite h h.updFab.emit.updPort
theorem Keeps.pump (h : Keeps a s) : Keeps a (pump s0 s) := by
  unfold Machine.pump
  split
  · exact h
  · exact (Keeps.ite h.updPort h).fold fun _ _ h => h.sendWindow
theorem Keeps.send {m : Message} (h : Keeps a s) : Keeps a (send s n m) := h.updFab.pump
theorem Keeps.fabricPages {pages : List Nat} (h : Keeps a s) : Keeps a (fabricPages s job pages) := h.fold fun _ _ h => h.updFab

/-! ## Ends of instructions -/

/-- The states that an end carries keep. -/
def Res.Keeps (a : State) : Res → Prop
  | .done c | .at_ c | .trapWith c _ _ | .block c _ => Machine.Keeps a c.s
  | .gone s | .left s _ | .ended s | .raw s => Machine.Keeps a s
  | .trap _ | .stall | .switchOut _ => True

/-- The state that an outcome leaves keeps. -/
def OutKeeps (a : State) (o : Host.Outcome State Fault Refusal) : Prop := ∀ s, o = .next s → Keeps a s

theorem Keeps.next (h : Keeps a s) : OutKeeps a (.next s) := by
  rintro _ ⟨⟩
  exact h

theorem OutKeeps.fault {f : Fault} : OutKeeps a (.fault f) := fun _ h => by cases h

theorem OutKeeps.ite {p : Prop} [Decidable p] {x y : Host.Outcome State Fault Refusal} (hx : OutKeeps a x) (hy : OutKeeps a y) :
    OutKeeps a (if p then x else y) := by
  split
  · exact hx
  · exact hy

theorem getCtx_s (h : getCtx s = some c) : c.s = s := (getCtx_team h).1

/-- issue keeps when its body does in every context over a state that keeps. -/
theorem issue_keeps {roles : Roles} {body : Ctx → Res} (h : ∀ c, Keeps s c.s → (body c).Keeps s) : OutKeeps s (issue s roles body) := by
  unfold issue
  split
  · exact .fault
  · rename_i c hc
    have hs : Keeps s c.s := getCtx_s hc ▸ .refl _
    refine .ite hs.killTeam.next (.ite ?_ ?_)
    · exact (getCtx_s hc ▸ finishRes_keeps c (body c) (getCtx_s hc ▸ h c hs)).next
    · exact (getCtx_s hc ▸ finishRes_keeps c (.trapC causeILLROLE) trivial).next

namespace Res.Keeps

theorem ite {p : Prop} [Decidable p] {x y : Res} (hx : x.Keeps a) (hy : y.Keeps a) : (if p then x else y).Keeps a := by
  split
  · exact hx
  · exact hy

theorem orIllop {b : Bool} {r : Res} (h : r.Keeps a) : (orIllop b r).Keeps a := .ite h trivial
theorem orIllopnd {b : Bool} {r : Res} (h : r.Keeps a) : (orIllopnd b r).Keeps a := .ite h trivial
theorem afterReads {r : Res} (h : r.Keeps a) : (afterReads c act r).Keeps a := .ite trivial h
theorem afterRelease {r : Res} (h : r.Keeps a) : (afterRelease c act n r).Keeps a := .ite h trivial
theorem afterAllReads {r : Res} (h : r.Keeps a) : (afterAllReads c act r).Keeps a := .ite trivial h

end Res.Keeps

/-! ## Queues and operands -/

theorem Keeps.freePoison {l : QLane} (h : Keeps a s) : Keeps a (freePoison s core l) := .ite h.updCore h
theorem Keeps.freeEntryPoison {e : QEntry} (h : Keeps a s) : Keeps a (freeEntryPoison s core e) := h.fold fun _ _ h => h.freePoison
theorem Keeps.popHead (h : Keeps a c.s) : Keeps a (c.popHead n act).s := by
  unfold Ctx.popHead
  split
  · exact h
  · exact h.freeEntryPoison
theorem Keeps.dropHead (h : Keeps a c.s) : Keeps a (c.dropHead n k).s := by
  induction k generalizing c with
  | zero => exact h
  | succ k ih =>
    unfold Ctx.dropHead
    split
    · exact h
    · exact ih h.freeEntryPoison
theorem Keeps.addPoison {q lane : Nat} {cause : BitVec 8} {va : DWord} (h : Keeps a s) : Keeps a (addPoison s core id q lane cause va).1 := by
  unfold Machine.addPoison
  split
  · exact h.updCore
  · exact h

/-- What an operand read ends in, or the context it leaves, keeps. -/
def Got.Keeps (a : State) : Got → Prop
  | .stop r => r.Keeps a
  | .got c _ => Machine.Keeps a c.s

theorem Keeps.readOps {ops : List Opnd} (h : Keeps a c.s) : (readOps c act ops).Keeps a := by
  unfold Machine.readOps
  dsimp only
  split
  · exact h
  · split
    · exact h
    · split
      · exact h
      · trivial
      · trivial
      · split
        · trivial
        · exact h.foldCtx fun _ _ h => h.popHead

/-- A meaning that goes on from its operands keeps when it does from the context that reading them leaves. -/
theorem Res.Keeps.afterOps {ops : List Opnd} {body : Ctx → List (Nat → DWord) → Res} (h : Machine.Keeps a c.s)
    (hb : ∀ c' vs, Machine.Keeps a c'.s → (body c' vs).Keeps a) :
    (match readOps c act ops with | .stop r => r | .got c' vs => body c' vs).Keeps a := by
  have hread := h.readOps (act := act) (ops := ops)
  split
  · rename_i r hr
    rwa [hr] at hread
  · rename_i c' vs hr
    rw [hr] at hread
    exact hb c' vs hread

theorem laneForm_keeps {roles : Roles} {g : BitVec 4} {d : BitVec 6} {wide : Bool} {ops : List Opnd} {f : Ctx → Nat → List (Nat → DWord) → DWord} :
    OutKeeps s (laneForm s roles g d wide ops f) :=
  issue_keeps fun _ h => .orIllopnd (.afterOps h fun _ _ h => h)

/-! ## Transfers of control -/

theorem Keeps.rebase (h : Keeps a c.s) : Keeps a (c.rebase n).s := by
  unfold Ctx.rebase
  split
  · exact h
  · exact .iteCtx h (h.like rfl (List.length_map ..) rfl)

theorem Keeps.transfer {next : Nat → DWord} (h : Keeps a c.s) : (transfer c next).Keeps a := by
  unfold Machine.transfer
  dsimp only
  split
  · exact h
  · exact h
  · refine .ite ?_ ?_
    · split
      · trivial
      · exact Keeps.commit h.rebase
    · split
      · trivial
      · exact h.rebase

/-! ## Scratchpad, loads and stores -/

theorem Keeps.ordered {o : BitVec 2} (h : Keeps a c.s) : Keeps a (c.ordered o act).s := by
  have hreleased : Keeps a (if bitOf o 1 then c.releases act else c).s := .iteCtx h h
  exact .iteCtx hreleased hreleased
theorem Keeps.changeBits {wide full : Bool} {gs : List Nat} {ws : List (Nat × Byte × Byte)} (h : Keeps a c.s) :
    Keeps a (c.changeBits act wide gs full ws).s := .iteCtx h h.fresh
theorem Keeps.releaseAll (h : Keeps a s) : Keeps a (releaseAll s) := h.like rfl rfl rfl
theorem Keeps.noteTlbs {es : List TlbEntry} (h : Keeps a c.s) : Keeps a (c.noteTlb es).s := h.trans (noteTlb_keeps c.s c.agent es)
theorem Keeps.acceptLoad {l : List (Nat × Nat × Word)} (h : Keeps a c.s) : Keeps a (c.acceptLoad n l).s := h.like rfl rfl rfl
theorem Keeps.scrPut {bs : List (Place × Byte)} (h : Keeps a c.s) : Keeps a (c.scrPut n bs).s := by
  unfold Ctx.scrPut
  split <;> exact h
theorem Keeps.putNow {bs : List (Place × Byte)} (h : Keeps a c.s) : Keeps a (c.putNow n bs).s := by
  refine h.scrPut.foldCtx fun c b h => ?_
  split
  · exact h.writeBytes.touchPools
  · exact h
theorem Keeps.copyLines {ls : List (Nat × List Place)} (h : Keeps a c.s) : Keeps a (c.copyLines n ls).s := by
  refine h.fold fun s x h => h.fold fun s p h => ?_
  split
  · exact .ite h.updDie h
  · exact h
theorem Keeps.addStores {l : List PStore} {f : Option Nat} (h : Keeps a c.s) : Keeps a (c.addStores l f).s := h.updCore.like rfl rfl rfl
theorem Keeps.addExchange {x : LaneStore} {f : Option Nat} (h : Keeps a c.s) : Keeps a (c.addExchange n x f).s := by
  unfold Ctx.addExchange
  split
  · exact h
  · exact h.like rfl rfl rfl
theorem Keeps.acceptStores {va : Nat → Nat} {cache scope : Nat} {xs : List LaneStore} (h : Keeps a c.s) :
    Keeps a (c.acceptStores va cache scope xs).s :=
  (((h.foldCtx fun _ _ h => h.scrPut).foldCtx fun _ _ h => h.addExchange).addStores).foldCtx fun _ _ h => h.like rfl (updAt_length ..) rfl
theorem Keeps.performStore {st : PStore} (h : Keeps a s) : Keeps a (performStore s core st) := h.updCore.writeBytes.touchPools.unbind

/-- What the checks of lanes stop with is a trap or a switch-out. -/
theorem checkAll_stop {ea : Nat → Nat} {rs : List (Nat × LaneRes)} {r : Res} (h : checkAll ea rs = .stop r) : r.Keeps a := by
  unfold checkAll at h
  split at h
  · cases h
    trivial
  · split at h <;> cases h
    trivial

/-- A meaning that goes on from the checks of its lanes. -/
theorem Res.Keeps.afterChecks {ea : Nat → Nat} {rs : List (Nat × LaneRes)} {body : List (Nat × List Place) → List TlbEntry → Res}
    (hb : ∀ ls es, (body ls es).Keeps a) : (match checkAll ea rs with | .stop r => r | .ok ls es => body ls es).Keeps a := by
  split
  · rename_i r hr
    exact checkAll_stop hr
  · exact hb ..

end

end Sys2Proof.Machine
end

section

/-! PROOFS. That the words of the lanes, of control, of queues and of memory keep HBM canonical and the number of cores and clusters. -/

namespace Sys2Proof.Machine

section

variable {a s : State} {c : Ctx} {act : LaneMask} {g : BitVec 4} {n : Nat}

/-! ## Lane forms (spec/04) -/

theorem predForm_keeps {roles : Roles} {pd : BitVec 3} {ops : List Opnd} {f : Ctx → Nat → List (Nat → DWord) → Bool} :
    OutKeeps s (predForm s roles g pd ops f) :=
  issue_keeps fun _ h => .orIllopnd (.afterOps h fun _ _ h => h)

theorem compareForm_keeps {roles : Roles} {f : FmtCmp} {wide ok : Bool} {cls : OpClass} {rel : DWord → DWord → Bool} :
    OutKeeps s (compareForm s roles f wide cls ok rel) :=
  issue_keeps fun _ h => .orIllop (.orIllopnd (.afterOps h fun _ _ h => h))

theorem intCompare_keeps {f : FmtCmp} {wide : Bool} {num : DWord → Int} : OutKeeps s (intCompare s f wide num) := by
  unfold intCompare
  exact compareForm_keeps

theorem laneMoveV_keeps {f : FmtA} {src : Nat → Word → Option Nat} : OutKeeps s (laneMoveV s f src) :=
  .ite laneForm_keeps (issue_keeps fun _ _ => trivial)

theorem execVote_keeps {p : BitVec 3} {x : BitVec 7} {k : BitVec 2} : OutKeeps s (execVote g p x k s) :=
  issue_keeps fun _ h => .orIllop (.orIllopnd (.afterOps h fun _ _ h => h))

theorem execLfold_keeps {d : BitVec 6} {x : BitVec 7} {o : BitVec 4} : OutKeeps s (execLfold g d x o s) :=
  issue_keeps fun _ h => .orIllop (.orIllopnd (.afterOps h fun _ _ h => h))

theorem execSwr_keeps {r : BitVec 5} {x : BitVec 7} : OutKeeps s (execSwr g r x s) :=
  issue_keeps fun _ h => .orIllopnd (.afterOps h fun _ _ h => Keeps.iteCtx h h)

theorem execRdlane_keeps {r : BitVec 5} {x y : BitVec 7} : OutKeeps s (execRdlane g r x y s) :=
  issue_keeps fun _ h => .orIllopnd (.afterOps h fun _ _ h => Keeps.iteCtx h h)

/-! ## Regroups and control (spec/04 R129 to R139, spec/06 R200) -/

theorem Keeps.regroupTry {un : Bool} (h : Keeps a c.s) : (regroupTry c un).Keeps a := by
  unfold Machine.regroupTry
  refine .ite h ?_
  split
  · exact .ite h h
  · exact h

theorem regroupForm_keeps {f : FmtA} {un : Bool} : OutKeeps s (regroupForm s f un) := by
  refine issue_keeps fun _ h => .orIllop (.orIllopnd (.ite h (.ite trivial ?_)))
  split
  · exact .ite h.regroupTry h
  · exact Keeps.regroupTry h

theorem Keeps.jumpLanes {target : Nat → DWord} (h : Keeps a c.s) : (jumpLanes c act target).Keeps a := by
  unfold Machine.jumpLanes
  split
  · trivial
  · exact h.transfer

theorem execBru_keeps {f : FmtC} : OutKeeps s (execBru f s) := issue_keeps fun _ h => .ite h.transfer (.ite h trivial)

theorem execJmpi_keeps {x : BitVec 7} : OutKeeps s (execJmpi g x s) := issue_keeps fun _ h => .orIllopnd h.jumpLanes

theorem execMergeat_keeps {f : FmtC} : OutKeeps s (execMergeat f s) := issue_keeps fun _ h => .orIllop (Keeps.iteCtx h h)

theorem Keeps.arriveAt {q : BitVec 16} (h : Keeps a c.s) : (arriveAt c q).Keeps a := by
  refine .ite ?_ h.setTeam
  split <;> exact h.setTeam

theorem execMerge_keeps : OutKeeps s (execMerge g s) := by
  refine issue_keeps fun _ h => .orIllop (.ite h ?_)
  dsimp only
  split
  · exact .ite (.afterRelease h.arriveAt) h.arriveAt
  · exact .ite h h

theorem execYield_keeps : OutKeeps s (execYield g s) :=
  issue_keeps fun c h => .orIllop (.ite h (Keeps.commit (c := c.advance) h).updTeam)

theorem execExit_keeps : OutKeeps s (execExit g s) := by
  refine issue_keeps fun c h => .ite h (.ite trivial (.ite h ?_))
  have hfence : Keeps s (if c.inHandler then (c.releases (c.act g)).acquires (c.act g) else c).s := .iteCtx h h
  exact .ite (.afterRelease (.ite hfence.setTeam.finishTeam (.ite hfence.setTeam.endHandler hfence.setTeam)))
    (.ite hfence.setTeam.finishTeam (.ite hfence.setTeam.endHandler hfence.setTeam))

theorem Keeps.barrier {set : BitVec 2} {blocks : Bool} (h : Keeps a c.s) : (barrier c act set n blocks).Keeps a := by
  unfold Machine.barrier
  dsimp only
  split
  · exact .ite (.ite h h) h
  · split
    · exact h
    · exact .ite (.ite h h) h

theorem execBar_keeps {set : BitVec 2} {i : BitVec 4} : OutKeeps s (execBar g set i s) := issue_keeps fun _ h => .orIllop (.ite h h.barrier)

theorem execBara_keeps {set : BitVec 2} {i : BitVec 4} : OutKeeps s (execBara g set i s) := issue_keeps fun _ h => .orIllop (.ite h h.barrier)

theorem execSleep_keeps {x : BitVec 7} : OutKeeps s (execSleep g x s) :=
  issue_keeps fun _ h => .orIllopnd (.afterOps h fun _ _ h => .ite h (Keeps.commit h))

theorem execNop_keeps : OutKeeps s (execNop g s) := issue_keeps fun _ h => Keeps.iteCtx h h

theorem execClause_keeps {wait : BitVec 12} {x y : BitVec 4} {gap : BitVec 3} {give : BitVec 1} : OutKeeps s (execClause wait x y gap give s) :=
  issue_keeps fun _ h => .orIllop (.ite h h)

theorem immWord_keeps {latch : Split → Word} : OutKeeps s (immWord s latch) := issue_keeps fun _ h => .orIllop (Keeps.commit h)

theorem execReservedOpcode_keeps {word : BitVec 32} : OutKeeps s (execReservedOpcode word s) :=
  .ite (issue_keeps fun _ _ => trivial) (issue_keeps fun _ _ => .ite trivial trivial)

/-! ## System words (spec/11) -/

theorem execTrap_keeps {x : BitVec 7} : OutKeeps s (execTrap g x s) := issue_keeps fun _ h => .orIllopnd (.afterOps h fun _ _ h' => .ite h h')

theorem Keeps.holdTeam {id : Nat} (h : Keeps a s) : Keeps a (holdTeam s id) := by
  unfold Machine.holdTeam
  split
  · exact h
  · exact h.saveMates.beginSave.updTeam

theorem execBkpt_keeps : OutKeeps s (execBkpt g s) :=
  issue_keeps fun c h => .ite h (.ite (Keeps.commit (c := c.advance) h).holdTeam h)

theorem execRdsr_keeps {d : BitVec 6} {m : BitVec 7} : OutKeeps s (execRdsr g d m s) :=
  issue_keeps fun _ h => .ite trivial (.orIllop (.orIllopnd h))

theorem execWrsr_keeps {x m : BitVec 7} : OutKeeps s (execWrsr g x m s) :=
  issue_keeps fun _ h => .ite trivial (.orIllop (.orIllopnd (.afterOps h fun _ _ h => Keeps.iteCtx h h)))

theorem execRett_keeps : OutKeeps s (execRett g s) := by
  refine issue_keeps fun _ h => ?_
  split
  · trivial
  · refine .ite trivial (.ite h (.afterRelease ?_))
    exact Keeps.endHandler (Keeps.commit h)

theorem execHaltt_keeps : OutKeeps s (execHaltt g s) := issue_keeps fun _ h => .ite trivial (.ite h h.commit.terminateTeam)

theorem Keeps.setEgRing {n v : Nat} (h : Keeps a s) : Keeps a (setEgRing s n v) := h.updPkg (by intro; rfl)

theorem execEgrel_keeps {f : FmtA} : OutKeeps s (execEgrel f s) := by
  refine issue_keeps fun c h => .orIllopnd (.ite h (.afterRelease (.ite trivial (.ite trivial (.ite trivial ?_)))))
  split
  · trivial
  · trivial
  · exact Keeps.noteTlbs (c := { c with s := setEgRing c.s _ _ }) h.setEgRing

theorem tlbinv_keeps {kind : Ctx → TlbEntry → Bool} {all : Bool} : OutKeeps s (tlbinv s g kind all) :=
  issue_keeps fun _ h => .ite trivial (.ite h (.ite trivial (h.like rfl (List.length_map ..) (List.length_map ..))))

theorem execIcinvCore_keeps : OutKeeps s (execIcinvCore g s) := issue_keeps fun _ h => Keeps.iteCtx h h.updCore

theorem execIcinvDevice_keeps : OutKeeps s (execIcinvDevice g s) :=
  issue_keeps fun _ h => Keeps.iteCtx h (h.like rfl (List.length_map ..) rfl)

/-! ## Loads and stores (spec/06 R184 to R198) -/

theorem loadForm_keeps {f : FmtM} {width : Nat} {ext : Nat → Nat} : OutKeeps s (loadForm s f width ext) :=
  issue_keeps fun _ h => .orIllop (.orIllopnd (.ite h (.afterChecks fun _ _ => .ite h.killTeam (.ite trivial h.noteTlbs.copyLines.acceptLoad.ordered))))

theorem storeForm_keeps {f : FmtM} {width : Nat} : OutKeeps s (storeForm s f width) := by
  refine issue_keeps fun _ h => .orIllop (.orIllopnd (.ite h (.afterChecks fun _ _ => .ite trivial ?_)))
  exact .ite h.noteTlbs.acceptStores.ordered (.afterRelease h.noteTlbs.acceptStores.ordered)

theorem Keeps.ldqLanes {q : Nat} {rs : List (Nat × LdqLane)} {ea : Nat → Nat} (h : Keeps a c.s) : Keeps a (ldqLanes c q rs ea).1 := by
  refine List.foldlRecOn (motive := fun x : State × List QLane => Keeps a x.1) _ _ h fun x h L _ => ?_
  dsimp only
  split
  · exact h
  · exact h
  · exact h
  · exact h.addPoison

theorem ldqForm_keeps {f : FmtLdq} {k : BitVec 2} : OutKeeps s (ldqForm s f k) := by
  refine issue_keeps fun c h => ?_
  dsimp only
  split
  · trivial
  · refine .orIllopnd (.ite h ?_)
    split
    · trivial
    · exact .ite h (.ite h.killTeam (.ite trivial (.ite trivial (h.ldqLanes.requestPages.fresh.trans (noteTlb_keeps _ c.agent _)))))

theorem stqForm_keeps {f : FmtStq} {k : BitVec 2} : OutKeeps s (stqForm s f k) := by
  refine issue_keeps fun _ h => .orIllop ?_
  split
  · trivial
  · refine .orIllopnd (.ite h ?_)
    split
    · exact h
    · split
      · exact h
      · trivial
      · trivial
      · refine .ite trivial (.afterChecks fun _ _ => .ite trivial ?_)
        exact .ite h.popHead.noteTlbs.acceptStores.ordered (.afterRelease h.popHead.noteTlbs.acceptStores.ordered)

theorem execLdfe_keeps {d : BitVec 6} {x : BitVec 7} {k : BitVec 2} : OutKeeps s (execLdfe g d x k s) := by
  refine issue_keeps fun _ h => .orIllopnd (.ite h (.afterChecks fun _ _ => .ite trivial (.ite h (.ite trivial ?_))))
  exact Keeps.iteCtx (Keeps.iteCtx h.acceptLoad h.acceptLoad) (Keeps.iteCtx h.acceptLoad h.acceptLoad)

theorem Keeps.stfeWrite {d : Nat} {ls : List (Nat × List Place)} (h : Keeps a c.s) : Keeps a (stfeWrite c d ls).s := h.foldCtx fun _ _ h => h

theorem execStfe_keeps {d : BitVec 6} {x : BitVec 7} {k : BitVec 2} : OutKeeps s (execStfe g d x k s) := by
  refine issue_keeps fun _ h => .orIllopnd (.ite h (.afterChecks fun _ _ => .ite trivial ?_))
  split
  · exact h.stfeWrite
  · exact .ite h h.changeBits
  · exact .ite h h.stfeWrite
  · exact .ite h h.changeBits

theorem execPref_keeps {x : BitVec 7} {k : BitVec 2} : OutKeeps s (execPref g x k s) := issue_keeps fun _ h => .orIllopnd (Keeps.iteCtx h h)

theorem checkRanges_stop {x : BitVec 7} {need : Need} {r : Res} (h : checkRanges c act x n need = .inl r) : r.Keeps a := by
  unfold checkRanges at h
  dsimp only at h
  split at h
  · cases h
    trivial
  · split at h <;> cases h
    trivial

theorem Keeps.discardL1 {core : Nat} {l : List PRange} (h : Keeps a s) : Keeps a (discardL1 s core l) :=
  ((h.fold fun _ _ h => h.writeBytes.touchPools).fold fun _ _ h => h.unbind).updCore

theorem Keeps.discardL2 {l : List PRange} (h : Keeps a s) : Keeps a (discardL2 s l) := by
  unfold Machine.discardL2
  exact Keeps.updDie (h.fold fun _ _ h => .ite h.writeBackByte h)

theorem execDiscard_keeps {d : BitVec 6} {x : BitVec 7} {scope : BitVec 3} : OutKeeps s (execDiscard g d x scope s) := by
  refine issue_keeps fun c h => .orIllop (.orIllopnd (.ite h ?_))
  split
  · rename_i r hr
    exact checkRanges_stop hr
  · have hdropped (l : List PRange) : Keeps s (discardL1 c.advance.commit c.t.core l) := (Keeps.commit (c := c.advance) h).discardL1
    exact Keeps.ite (hdropped _).discardL2 (hdropped _)

theorem execWback_keeps {d : BitVec 6} {x : BitVec 7} {scope : BitVec 3} {cache : BitVec 2} : OutKeeps s (execWback g d x scope cache s) := by
  refine issue_keeps fun c h => .orIllop (.orIllopnd (.ite h ?_))
  split
  · rename_i r hr
    exact checkRanges_stop hr
  · have hwritten (l : List PStore) : Keeps s (l.foldl (fun s st => performStore s c.t.core st) c.advance.commit) :=
      (Keeps.commit (c := c.advance) h).fold fun _ _ h => h.performStore
    exact .ite h (.ite trivial (Keeps.ite (hwritten _) ((hwritten _).fold fun _ _ h => h.writeBackByte)))

theorem execFence_keeps {o : BitVec 2} {scope : BitVec 3} : OutKeeps s (execFence g o scope s) :=
  issue_keeps fun _ h => .orIllop (.ite (.afterAllReads h) (.afterRelease (Keeps.iteCtx h h)))

theorem execStream_keeps {i : BitVec 4} : OutKeeps s (execStream g i s) := issue_keeps fun _ h => Keeps.iteCtx h h

theorem Keeps.atomicLanes {k : AtomicKind} {d : Nat} {op : Nat → Nat → Nat → Nat} {ls : List (Nat × List Place)} {acc : List (Nat × Nat × Word)}
    (h : Keeps a c.s) : Keeps a (atomicLanes k d op c ls acc).1.s := by
  induction ls generalizing c acc with
  | nil => exact h
  | cons x r ih => exact ih h.putNow

theorem atomicForm_keeps {f : FmtAt} {k : AtomicKind} {op : Nat → Nat → Nat → Nat} : OutKeeps s (atomicForm s f k op) := by
  refine issue_keeps fun _ h => .orIllop (.orIllopnd (.ite h (.afterChecks fun _ _ => .ite h.killTeam (.ite trivial (.ite trivial ?_)))))
  exact .ite (.afterRelease h.noteTlbs.atomicLanes.acceptLoad.ordered) h.noteTlbs.atomicLanes.acceptLoad.ordered

/-! ## Slots (spec/06 R182, R183) -/

theorem granuleForm_keeps {f : FmtAB} {body : Ctx → Ctx → List (Nat × Word × Nat × Nat) → Res}
    (hb : ∀ c c' rs, Keeps s c.s → Keeps s c'.s → (body c c' rs).Keeps s) : OutKeeps s (granuleForm s f body) := by
  refine issue_keeps fun c h => .orIllopnd (.ite h (.afterOps h fun c' _ h' => ?_))
  dsimp only
  split
  · trivial
  · exact hb c c' _ h h'

theorem execRwait_keeps {f : FmtAB} : OutKeeps s (execRwait f s) := by
  refine granuleForm_keeps fun _ _ _ h h' => ?_
  split
  · trivial
  · exact .ite (.afterReads h') h

theorem setForm_keeps {f : FmtAB} {full : Bool} : OutKeeps s (setForm s f full) :=
  granuleForm_keeps fun _ _ _ _ h => Keeps.changeBits h.updCore

theorem wordForm_keeps {f : FmtA} {body : Ctx → Ctx → List (Nat × Word × Nat) → Res}
    (hb : ∀ c c' ws, Keeps s c.s → Keeps s c'.s → (body c c' ws).Keeps s) : OutKeeps s (wordForm s f body) := by
  refine issue_keeps fun c h => .orIllopnd (.ite h (.afterOps h fun c' _ h' => ?_))
  dsimp only
  split
  · trivial
  · exact .ite trivial (hb c c' _ h h')

theorem execLdr_keeps {f : FmtA} : OutKeeps s (execLdr f s) := by
  refine wordForm_keeps fun _ _ _ h h' => ?_
  split
  · trivial
  · exact .ite (.afterReads h') h

theorem execStr_keeps {f : FmtA} : OutKeeps s (execStr f s) := wordForm_keeps fun _ _ _ _ h => h.foldCtx fun _ _ h => h

/-! ## Queues (spec/06 R172 to R180) -/

theorem Keeps.withQueue {q : BitVec 4} {body : Queue → Res} (hb : ∀ x, (body x).Keeps a) : (withQueue c q body).Keeps a := by
  unfold Machine.withQueue
  split
  · trivial
  · exact hb _

theorem execQpush_keeps {q : BitVec 4} {x : BitVec 7} : OutKeeps s (execQpush g q x s) := by
  refine issue_keeps fun _ h => Keeps.withQueue fun _ => .orIllopnd (.ite h (.ite h (.afterOps h fun _ _ h => ?_)))
  dsimp only
  split
  · exact h
  · exact h.fresh

theorem execQpop_keeps {d : BitVec 6} {q : BitVec 4} {e : BitVec 1} {p : BitVec 3} : OutKeeps s (execQpop g d q e p s) := by
  refine issue_keeps fun _ h => Keeps.withQueue fun _ => .orIllopnd (.ite h (.ite h ?_))
  split
  · exact h
  · trivial
  · trivial
  · exact .afterReads (Keeps.iteCtx h.popHead h.popHead)

theorem execQtry_keeps {d : BitVec 6} {q : BitVec 4} {p : BitVec 3} : OutKeeps s (execQtry g d q p s) := by
  refine issue_keeps fun _ h => Keeps.withQueue fun _ => .orIllopnd (.ite h (.ite h (.ite h ?_)))
  split
  · exact h
  · trivial
  · trivial
  · exact .afterReads h.popHead

theorem execQpeek_keeps {d : BitVec 6} {q : BitVec 4} {k : BitVec 1} : OutKeeps s (execQpeek g d q k s) :=
  issue_keeps fun _ h => Keeps.withQueue fun _ => .orIllopnd h

theorem execQskip_keeps {q : BitVec 4} {k : BitVec 7} : OutKeeps s (execQskip g q k s) :=
  issue_keeps fun _ h => Keeps.withQueue fun _ => .orIllopnd (.ite h (.ite h h.dropHead))

theorem execQflush_keeps {q : BitVec 4} {e : BitVec 1} : OutKeeps s (execQflush g q e s) := by
  refine issue_keeps fun _ h => Keeps.withQueue fun _ => .orIllopnd (.ite h ?_)
  dsimp only
  split
  · exact h.dropHead
  · exact Keeps.iteCtx h.dropHead h.dropHead

theorem execQstat_keeps {d : BitVec 6} {q : BitVec 4} {k : BitVec 3} : OutKeeps s (execQstat g d q k s) :=
  issue_keeps fun _ h => Keeps.withQueue fun _ => .orIllopnd h

theorem execQeos_keeps {q : BitVec 4} : OutKeeps s (execQeos g q s) :=
  issue_keeps fun _ h => Keeps.withQueue fun _ => .orIllopnd (Keeps.iteCtx h h)

theorem execQeosTest_keeps {q : BitVec 4} {p : BitVec 3} : OutKeeps s (execQeosTest g q p s) :=
  issue_keeps fun _ h => Keeps.withQueue fun _ => .orIllopnd h

end

end Sys2Proof.Machine
end

section

/-! PROOFS. That records, the confluence, the dispatcher and the host's queues keep HBM canonical and the number of cores and clusters. -/

namespace Sys2Proof.Machine

section

variable {a s : State} {c : Coll} {n id job g q va status : Nat} {t : Task}

/-! ## Records and tasks (spec/10 R271 to R284) -/

theorem Keeps.taskWaits {page : Nat} (h : Keeps a s) : Keeps a (taskWaits s t page) := h.updTask.dispatcherPage
theorem Keeps.publish {host : Bool} {addr depth prio : Nat} {r : BitVec 1024} (h : Keeps a s) : Keeps a (publish s host addr r job depth prio) :=
  .ite h.fresh.updDie.writeStatus h.fresh.updDie

/-! ## Collectives (spec/13 R374 to R389) -/

theorem Keeps.setSlot {slot : Nat} {v : CollSlot} (h : Keeps a s) : Keeps a (setSlot s id slot v) := h.updTeam
theorem Keeps.endColl {v : CollSlot} (h : Keeps a s) : Keeps a (endColl s c v) := by
  have hslot : Keeps a (match (s.updFab (fun b => { b with colls := b.colls.filter (fun x => x.id != c.id) })).team? c.team with
      | some t => if t.status = .finished ∨ t.status = .killed then s.updFab (fun b => { b with colls := b.colls.filter (fun x => x.id != c.id) })
        else Machine.setSlot (s.updFab (fun b => { b with colls := b.colls.filter (fun x => x.id != c.id) })) c.team c.slot v
      | none => s.updFab (fun b => { b with colls := b.colls.filter (fun x => x.id != c.id) })) := by
    split
    · exact .ite h.updFab h.updFab.setSlot
    · exact h.updFab
  unfold Machine.endColl
  dsimp only
  split
  · exact hslot.unbind.opEnded
  · exact hslot
theorem Keeps.scrambleVa (h : Keeps a s) : Keeps a (scrambleVa s job va n) := by
  refine Keeps.like (s := List.foldl _ s _) (h.fold fun s p h => ?_) rfl rfl rfl
  split
  · exact h.writeBytes.touchPools
  · exact h
theorem Keeps.abortColl (h : Keeps a s) : Keeps a (abortColl s c) := h.scrambleVa.endColl
theorem Keeps.sendColl {dests : List Nat} {p : CollPacket} (h : Keeps a s) : Keeps a (sendColl s job dests p) := h.fold fun _ _ h => h.send
theorem Keeps.sendMembers {b : CollBody} (h : Keeps a s) : Keeps a (sendMembers s c b) := h.sendColl
theorem Keeps.collWaits {page : Nat} (h : Keeps a s) : Keeps a (collWaits s c page) := h.updColl.dispatcherPage
theorem Keeps.collFault {code : BitVec 8} (h : Keeps a s) : Keeps a (collFault s c code) := h.updColl.sendMembers
theorem Keeps.contribute (h : Keeps a s) : Keeps a (contribute s id) := by
  unfold Machine.contribute
  split
  · exact h
  · refine .ite h ?_
    dsimp only
    split
    · exact h.collWaits
    · exact h.collFault
    · have hkilled (p : Prop) [Decidable p] (team : Nat) : Keeps a (if p then Machine.killTeam s team else s) := .ite h.killTeam h
      exact .ite (hkilled _ _).collFault (hkilled _ _).updColl.sendMembers
theorem Keeps.absorb {p : CollPacket} (h : Keeps a s) : Keeps a (absorb s p) := by
  unfold Machine.absorb
  split
  · exact h
  · exact h.updColl
theorem Keeps.offerColl {p : CollPacket} (h : Keeps a s) : Keeps a (offerColl s g p) := by
  unfold Machine.offerColl
  split
  · exact h
  · split
    · exact h
    · exact .ite h.absorb h.updGroup
    · exact .ite h.updGroup h.updFab
theorem Keeps.rehold (h : Keeps a s) : Keeps a (rehold s g) := by
  unfold Machine.rehold
  split
  · exact h
  · exact Keeps.fold h.updGroup.updFab fun _ _ h => h.offerColl
theorem Keeps.takeCollective {p : CollPacket} (h : Keeps a s) : Keeps a (takeCollective p s) := by
  unfold Machine.takeCollective
  split
  · exact h
  · exact .ite h.offerColl h
theorem Keeps.startColl (h : Keeps a s) : Keeps a (startColl s id status) := by
  unfold Machine.startColl
  split
  · exact h
  · split
    · exact h
    · exact h.updColl.contribute.rehold
theorem Keeps.finishColl (h : Keeps a s) : Keeps a (finishColl s c status) := h.endColl
theorem Keeps.dstFault {code : BitVec 8} (h : Keeps a s) : Keeps a (dstFault s c code) := h.scrambleVa.finishColl
theorem Keeps.keepResult {l : List Word} (h : Keeps a s) : Keeps a (keepResult s c l) := h.updGroup
theorem Keeps.completeColl (h : Keeps a s) : Keeps a (completeColl s c) := by
  unfold Machine.completeColl
  split
  · exact h
  · exact h.finishColl
  · dsimp only
    split
    · exact h.updColl.collWaits
    · exact h.updColl.dstFault
    · exact h.updColl.writePlaces.keepResult.finishColl
theorem Keeps.abortGroup (h : Keeps a s) : Keeps a (abortGroup s g) := h.fold fun _ _ h => h.abortColl
theorem Keeps.dropRx (h : Keeps a s) : Keeps a (dropRx s g) := h.updFab
theorem Keeps.enterExcluded (h : Keeps a s) : Keeps a (enterExcluded s g) := h.dropRx.updGroup.abortGroup
theorem Keeps.uninstallGroups (h : Keeps a s) : Keeps a (uninstallGroups s job) := by
  unfold Machine.uninstallGroups
  exact Keeps.updFab (h.fold fun _ _ h => h.dropRx.abortGroup)
theorem Keeps.settleColl {x : Group} {ds : List Decision} (h : Keeps a s) : Keeps a (settleColl s x ds c) := by
  unfold Machine.settleColl
  split
  · exact .ite (.ite h.startColl h.abortColl) h.startColl
  · split
    · refine .ite ?_ h.updColl
      dsimp only
      split
      · exact h.updColl.sendColl
      · exact h.updColl
    · exact .ite h.startColl h.abortColl

/-! ## The dispatcher (spec/10 R280 to R284) -/

theorem OutKeeps.whenClocked {o : Host.Outcome State Fault Refusal} (h : OutKeeps s o) : OutKeeps s (whenClocked s o) := .ite h (Keeps.refl s).next

theorem execTaskPublish_keeps : OutKeeps s (execTaskPublish n s) := by
  have h := Keeps.refl s
  refine .whenClocked ?_
  split
  · exact h.next
  · refine .ite h.next ?_
    split
    · exact h.writeStatus.next
    · exact h.taskWaits.next
    · exact h.writeStatus.updTask.next

theorem execSluiceWriteReport_keeps : OutKeeps s (execSluiceWriteReport n s) := by
  have h := Keeps.refl s
  refine .whenClocked ?_
  split
  · exact h.next
  · exact .ite h.updTask.next h.next

theorem Keeps.consume (h : Keeps a s) : Keeps a (consume s t) := by
  refine h.fold fun s i h => ?_
  split
  · exact h
  · split
    · exact h.rmw64
    · exact h

theorem Keeps.completeTask (h : Keeps a s) : Keeps a (completeTask s t) := by
  unfold Machine.completeTask
  dsimp only
  split
  · exact h.taskWaits
  · exact Keeps.like (Keeps.writeStatus (h.fold fun _ _ h => h.signalVa)) rfl rfl rfl

theorem execTaskDispatch_keeps : OutKeeps s (execTaskDispatch n s) := by
  have h := Keeps.refl s
  refine .whenClocked ?_
  split
  · exact h.next
  · refine .ite h.next (.ite h.updTask.next ?_)
    split
    · exact h.taskWaits.next
    · dsimp only
      split
      · exact h.consume.updTask.writeStatus.writeStatus.next
      · exact (Keeps.ite h.consume.updTask.writeStatus.updTask.completeTask h.consume.updTask.writeStatus.updTask).next

theorem execTaskComplete_keeps : OutKeeps s (execTaskComplete n s) := by
  have h := Keeps.refl s
  refine .whenClocked ?_
  split
  · exact h.next
  · exact (h.completeTask.ite h).next

/-! ## The host's queues (spec/12 R334 to R338) -/

theorem Keeps.hostTouch (h : Keeps a s) : Keeps a (hostTouch s) := h.updPkg (by intro; rfl)

/-- An event of the host keeps when its effect on the machine it finds does. -/
theorem hostEvent_keeps {f : State → State} (hf : ∀ s', Keeps s s' → Keeps s (f s')) : OutKeeps s (hostEvent s f) :=
  (Keeps.ite (.refl s) (hf _ (Keeps.refl s).hostTouch)).next

theorem Keeps.dropTlb {drop : TlbEntry → Bool} (h : Keeps a s) : Keeps a (dropTlb s drop) :=
  h.like rfl (List.length_map ..) (List.length_map ..)
theorem Keeps.setJobReg {r : BitVec 512} (h : Keeps a s) : Keeps a (setJobReg s n r) := h.updPkg (by intro; rfl)
theorem Keeps.validateJob {v : DWord} (h : Keeps a s) : Keeps a (validateJob n v s) := .ite h (h.setJobReg.updPkg (by intro; rfl))
theorem Keeps.invalidateJob (h : Keeps a s) : Keeps a (invalidateJob n s) := by
  unfold Machine.invalidateJob
  split
  · exact h
  · exact (h.setJobReg.updPkg (by intro; rfl)).dropTlb.uninstallGroups
theorem Keeps.setCmdQueue {x : CmdQueue} (h : Keeps a s) : Keeps a (setCmdQueue s x) := h.updPkg (by intro; rfl)

theorem execJobslotValidate_keeps {v : BitVec 64} : OutKeeps s (execJobslotValidate n v s) := hostEvent_keeps fun _ h => h.validateJob
theorem execJobslotInvalidate_keeps : OutKeeps s (execJobslotInvalidate n s) := hostEvent_keeps fun _ h => h.invalidateJob
theorem execTlbcmdDropJob_keeps : OutKeeps s (execTlbcmdDropJob job s) := hostEvent_keeps fun _ h => h.dropTlb
theorem execTlbcmdDropAll_keeps : OutKeeps s (execTlbcmdDropAll s) := hostEvent_keeps fun _ h => h.dropTlb
theorem Keeps.startQueue (h : Keeps a s) : Keeps a (startQueue q s) := .ite h h.setCmdQueue
theorem Keeps.resumeQueue (h : Keeps a s) : Keeps a (resumeQueue q s) := .ite h.setCmdQueue h
theorem Keeps.stopQueue (h : Keeps a s) : Keeps a (stopQueue q s) := h.setCmdQueue
theorem Keeps.notifyQueue {ro : Bool} (h : Keeps a s) : Keeps a (notifyQueue q n ro s) := .ite h h.setCmdQueue
theorem execCmdqStart_keeps : OutKeeps s (execCmdqStart q s) := hostEvent_keeps fun _ h => h.startQueue
theorem execCmdqResume_keeps : OutKeeps s (execCmdqResume q s) := hostEvent_keeps fun _ h => h.resumeQueue
theorem execCmdqStop_keeps : OutKeeps s (execCmdqStop q s) := hostEvent_keeps fun _ h => h.stopQueue
theorem execCmdqNotify_keeps {ro : Bool} : OutKeeps s (execCmdqNotify q n ro s) := hostEvent_keeps fun _ h => h.notifyQueue

/-- Taking an entry keeps when the command does. -/
theorem takeEntry_keeps {p : Nat → Bool} {act : State → BitVec 512 → State} (hact : ∀ s' r, Keeps s s' → Keeps s (act s' r)) :
    OutKeeps s (takeEntry s q p act) :=
  (Keeps.ite (hact _ _ (Keeps.refl s).setCmdQueue) (.refl s)).next

theorem execPhaseReread_keeps : OutKeeps s (execPhaseReread q s) := by
  have h := Keeps.refl s
  exact (Keeps.ite h (.ite h.setCmdQueue (h.setCmdQueue.updPkg (by intro; rfl)))).next

theorem Keeps.resumeTask (h : Keeps a s) : Keeps a (resumeTask s t) := .ite h.writeStatus (.ite h.writeStatus.updTask h.writeStatus)
theorem Keeps.resumeJob (h : Keeps a s) : Keeps a (resumeJob s job) := by
  unfold Machine.resumeJob
  exact .ite h (Keeps.fold (Keeps.like h rfl rfl rfl) fun _ _ h => h.resumeTask)
theorem Keeps.discardJob (h : Keeps a s) : Keeps a (discardJob s job) := by
  unfold Machine.discardJob
  exact Keeps.like (h.stopJob.fold fun _ _ h => h.endTeam) rfl rfl rfl

theorem execCmdPublish_keeps : OutKeeps s (execCmdPublish q s) := takeEntry_keeps fun _ _ h => .ite h.writeAgent h.publish
theorem execCmdStopJob_keeps : OutKeeps s (execCmdStopJob q s) := takeEntry_keeps fun _ _ h => h.stopJob
theorem execCmdResumeJob_keeps : OutKeeps s (execCmdResumeJob q s) := takeEntry_keeps fun _ _ h => h.resumeJob
theorem execCmdDiscardJob_keeps : OutKeeps s (execCmdDiscardJob q s) := takeEntry_keeps fun _ _ h => h.discardJob

end

end Sys2Proof.Machine
end

section

/-! PROOFS. That traps delivered from records, placement and the events of cores keep HBM canonical and the number of cores and clusters. -/

namespace Sys2Proof.Machine

section

variable {a s : State} {c : Ctx} {n id k wi core task slot : Nat} {t : Task} {tm : Team} {f : FaultRecord}

/-! ## Traps of records (spec/11 R298) -/

theorem Keeps.deliverBefore {spend : Warp → Warp} {i : TrapInfo} (h : Keeps a c.s) : Keeps a (deliverBefore c k spend i) :=
  .ite h.takeTrap (Keeps.takeTrap (c := { c with w := _, t := _ }) h)
theorem Keeps.deliverFault (h : Keeps a c.s) : Keeps a (deliverFault c k f) := h.deliverBefore
theorem Keeps.deliverMcast {m : BitVec 16 × Nat} (h : Keeps a c.s) : Keeps a (deliverMcast c k m) := h.deliverBefore

theorem ctxAt_s {q : BitVec 16} (h : ctxAt s tm wi q = some c) : c.s = s := by
  unfold ctxAt at h
  split at h
  · cases h
  · obtain ⟨p, -, rfl⟩ := Option.map_eq_some_iff.mp h
    rfl

theorem Keeps.deliverLive {α : Type} {due : Team → Nat → Warp → Split → Option α} {g : Ctx → α → State} (h : Keeps a s)
    (hg : ∀ c d, Keeps a c.s → Keeps a (g c d)) : Keeps a (deliverLive s id due g) := by
  unfold Machine.deliverLive
  split
  · exact h
  · dsimp only
    split
    · exact h
    · split
      · exact h
      · rename_i c hc
        exact hg _ _ (ctxAt_s hc ▸ h)

theorem execTrapDelivery_keeps : OutKeeps s (execTrapDelivery id s) := (Keeps.refl s).updTeam.next
theorem execRemoteFaultDelivery_keeps : OutKeeps s (execRemoteFaultDelivery id k s) := ((Keeps.refl s).deliverLive fun _ _ h => h.deliverFault).next
theorem execMcastpartDelivery_keeps : OutKeeps s (execMcastpartDelivery id k s) := ((Keeps.refl s).deliverLive fun _ _ h => h.deliverMcast).next

/-! ## Placement (spec/10 R285 to R296) -/

theorem Keeps.grantTiles {tiles : List Nat} (h : Keeps a s) : Keeps a (grantTiles s core id tiles) := h.updCluster
theorem Keeps.placeTeam {kn : Kernel} {launch member : Nat} {sregs : List Word} {x : Site} (h : Keeps a s) :
    Keeps a (placeTeam s t kn launch member sregs x) := by
  unfold Machine.placeTeam
  split
  · dsimp only
    split
    · exact h.grantTiles.writeHeader.updTeam
    · exact h.grantTiles.updTeam
  · exact Keeps.writeHeader (Keeps.like h.fresh.grantTiles rfl rfl rfl)
theorem Keeps.placeSites {kn : Kernel} {u : PlaceUnit} {sites : List Site} {sregs : List Word} (h : Keeps a s) :
    Keeps a (placeSites s t kn u sites sregs) := by
  refine Keeps.updTask (Keeps.fold (h.fresh.fold fun s x h => ?_) fun _ _ h => h.updCore)
  exact h.placeTeam.like rfl rfl rfl
theorem Keeps.requestSave {why : SaveWhy} (h : Keeps a s) : Keeps a (requestSave s id why) := h.updTeam
theorem Keeps.preemptFor {kn : Kernel} {u : PlaceUnit} (h : Keeps a s) : Keeps a (preemptFor s t kn u) := by
  refine .ite h ?_
  split
  · exact h
  · exact Keeps.updTask (h.fold fun _ _ h => h.requestSave)

theorem execPlacementWindow_keeps : OutKeeps s (execPlacementWindow task s) := by
  have h := Keeps.refl s
  refine .whenClocked ?_
  split
  · exact h.next
  · split
    · split
      · exact h.taskWaits.next
      · exact h.failTask.next
      · exact h.next
      · split
        · exact h.preemptFor.next
        · refine .ite h.next ?_
          split
          · exact h.updCore.next
          · exact h.placeSites.next
    · exact h.next

theorem execBoundaryMove_keeps : OutKeeps s (execBoundaryMove core s) := by
  have h := Keeps.refl s
  refine .whenClocked ?_
  split
  · exact h.next
  · exact (Keeps.ite h h.updCore).next

/-! ## Events of cores -/

theorem execSplitRotation_keeps : OutKeeps s (execSplitRotation id wi slot s) := by
  have h := Keeps.refl s
  unfold execSplitRotation
  split
  · exact h.next
  · exact (Keeps.ite h h.updWarp).next

theorem execSleepWake_keeps : OutKeeps s (execSleepWake id wi n s) := by
  have h := Keeps.refl s
  unfold execSleepWake
  split
  · exact h.next
  · exact h.updWarp.updTeam.next

theorem execLoadComplete_keeps : OutKeeps s (execLoadComplete n s) := by
  have h := Keeps.refl s
  refine .whenClocked ?_
  split
  · exact h.next
  · exact h.updDie.updWarp.opEnded.next

theorem execStorePerformed_keeps : OutKeeps s (execStorePerformed n s) := by
  have h := Keeps.refl s
  refine .whenClocked ?_
  split
  · exact h.next
  · exact (Keeps.ite h.performStore.opEnded h).next

theorem execStreamStoreRelease_keeps : OutKeeps s (execStreamStoreRelease n s) := by
  have h := Keeps.refl s
  refine .whenClocked ?_
  split
  · exact h.next
  · exact (Keeps.ite h.performStore.opEnded h).next

theorem Keeps.landLane {lane : Nat} {l : QLane} (h : Keeps a s) : Keeps a (landLane s id n slot lane l) := by
  unfold Machine.landLane
  split
  · exact h
  · split
    · exact h
    · refine .ite ?_ h.setTeam
      split
      · exact h.setTeam.unbind
      · exact h.setTeam

theorem Keeps.refetchLane {q : Queue} {lane : Nat} {l : QLane} (h : Keeps a s) : Keeps a (refetchLane s tm q slot lane l) := by
  unfold Machine.refetchLane
  dsimp only
  split
  · exact .ite h.killTeam h.noteTlb.landLane
  · exact h.landLane.updTeam.requestPages
  · exact .ite h.addPoison.landLane h.landLane

theorem execLdqLanding_keeps {lane : Nat} : OutKeeps s (execLdqLanding id n slot lane s) := by
  have h := Keeps.refl s
  refine .whenClocked ?_
  split
  · exact h.next
  · refine .ite h.next ?_
    split
    · exact h.next
    · dsimp only
      split
      · exact (Keeps.ite h.landLane h).next
      · exact (Keeps.ite h h.refetchLane).next
      · exact h.next

theorem Keeps.eventTrap {q : BitVec 16} {g : Ctx → State} (h : Keeps a s) (hg : ∀ c, Keeps a c.s → Keeps a (g c)) : Keeps a (eventTrap s id wi q g) := by
  unfold Machine.eventTrap
  dsimp only
  split
  · exact h.updWarp
  · split
    · exact h.updWarp
    · rename_i c hc
      exact hg _ (ctxAt_s hc ▸ h.updWarp)

theorem execQdeadTimeout_keeps : OutKeeps s (execQdeadTimeout id s) := by
  have h := Keeps.refl s
  refine .whenClocked ?_
  split
  · exact h.next
  · refine .ite h.next ?_
    split
    · exact h.next
    · exact (h.eventTrap fun _ h => h.takeTrap).next

theorem execPageRequestEnter_keeps : OutKeeps s (execPageRequestEnter core s) := .whenClocked (Keeps.refl s).updCore.next

theorem execInstructionFetch_keeps : OutKeeps s (execInstructionFetch id wi slot s) := by
  have h := Keeps.refl s
  unfold execInstructionFetch
  split
  · exact h.next
  · split
    · exact h.next
    · refine Keeps.next ?_
      split
      · exact .ite (noteFetch_keeps ..) h
      · exact h

/-! ## Errors of memory (spec/05 R152 to R169) -/

theorem Keeps.retireFrame (h : Keeps a s) : Keeps a (retireFrame s n) := by
  unfold Machine.retireFrame
  exact h.updDie
theorem Keeps.noteError (h : Keeps a s) : Keeps a (noteError s core) := h.updCore
theorem Keeps.correctError {site : SoftError} (h : Keeps a s) : Keeps a (correctError site s) := by
  unfold Machine.correctError
  dsimp only
  refine .ite h ?_
  split
  · exact h.updCore
  · split
    · exact .ite h.updDie.retireFrame.updDie h.updDie
    · exact h.updDie
  · refine .ite ?_ h
    split
    · exact .ite h.updDie.retireFrame.updDie h.updDie
    · exact h.updDie

theorem Keeps.noteSite {x : Option Nat} (h : Keeps a s) : Keeps a (match x with | some core => Machine.noteError s core | none => s) := by
  split
  · exact h.noteError
  · exact h

theorem execEccUncorrectable_keeps {site : EccSite} : OutKeeps s (execEccUncorrectable site s) := by
  have h := (Keeps.refl s).noteSite (x := siteCore s site)
  refine Keeps.next ?_
  cases site with
  | unowned core => exact h.updCore
  | teamStorage id => exact h.killTeam
  | cleanL1 core line => exact h
  | dirtyL1 core line =>
    dsimp only
    split
    · exact h
    · exact h.updCore.fold fun _ _ h => h.unbind.opEnded
  | tile k i =>
    dsimp only
    split
    · exact h.killTeam
    · exact h.updCluster
  | cleanL2 line => exact h.retireFrame
  | copyL2 line sector => exact .ite h.retireFrame.updDie h
  | dirtyL2 line => exact .ite h.retireFrame.updDie h
  | pool pa =>
    dsimp only
    split
    · exact h.killTeam
    · exact h

end

end Sys2Proof.Machine
end

section

/-! PROOFS. That the view agreement and remote accesses keep HBM canonical and the number of cores and clusters. -/

namespace Sys2Proof.Machine

section

variable {a s : State} {c : Ctx} {n id core job rank gn : Nat} {g : Group} {m : ViewMsg} {ds : List Decision} {ys : List Nat}

/-! ## Links -/

theorem linkEvent_keeps {f : State → State} (hf : ∀ s', Keeps s s' → Keeps s (f s')) : OutKeeps s (linkEvent s f) :=
  .ite (hf _ (Keeps.refl s).wakeIdle).next (Keeps.refl s).next

theorem laneEvent_keeps {f : State → State} (hf : ∀ s', Keeps s s' → Keeps s (f s')) : OutKeeps s (laneEvent s f) :=
  .ite (Keeps.refl s).next (linkEvent_keeps hf)

/-! ## View agreement (spec/13 R374 to R389) -/

theorem Keeps.sendView {kind dest : Nat} (h : Keeps a s) : Keeps a (sendView s g kind dest m) := h.send
theorem Keeps.forwardResults (h : Keeps a s) : Keeps a (forwardResults s g ds) := h.fold fun _ _ h => h.sendColl
theorem Keeps.installView (h : Keeps a s) : Keeps a (installView s g m) := by
  unfold Machine.installView
  exact Keeps.rehold (Keeps.fold h.updGroup.forwardResults fun _ _ h => h.settleColl)
theorem Keeps.applyCommit (h : Keeps a s) : Keeps a (applyCommit s m) := by
  unfold Machine.applyCommit
  split
  · exact h
  · exact .ite h (.ite h.installView (.ite h h.enterExcluded))

/-- A step of the agreement on a group keeps. -/
def AgreeKeeps (f : State → Nat → State) : Prop := ∀ a s gn, Keeps a s → Keeps a (f s gn)

theorem commitWith_keeps {next : State → Nat → State} (hn : AgreeKeeps next) : AgreeKeeps (commitWith next) := by
  intro a s gn h
  unfold commitWith
  split
  · exact h
  · split
    · exact h
    · exact .ite h (hn _ _ _ (Keeps.applyCommit (h.fold fun _ _ h => h.sendView)))

theorem proposeWith_keeps {next : State → Nat → State} (hn : AgreeKeeps next) : AgreeKeeps (proposeWith next) := by
  intro a s gn h
  unfold proposeWith
  split
  · exact h
  · exact .ite h.updGroup (commitWith_keeps hn _ _ _ (h.updGroup.fold fun _ _ h => h.sendView))

theorem joinWith_keeps {prop : State → Nat → State} (hp : AgreeKeeps prop) : AgreeKeeps (joinWith prop) := by
  intro a s gn h
  unfold joinWith
  split
  · exact h
  · exact .ite (hp _ _ _ h) h

theorem propose_keeps : AgreeKeeps propose := proposeWith_keeps (joinWith_keeps (proposeWith_keeps fun _ _ _ h => h))

theorem Keeps.propose (h : Keeps a s) : Keeps a (propose s gn) := propose_keeps _ _ _ h
theorem Keeps.tryJoin (h : Keeps a s) : Keeps a (tryJoin s gn) := joinWith_keeps propose_keeps _ _ _ h
theorem Keeps.tryCommit (h : Keeps a s) : Keeps a (tryCommit s gn) := commitWith_keeps (joinWith_keeps propose_keeps) _ _ _ h
theorem Keeps.react (h : Keeps a s) : Keeps a (react s gn ys) := by
  unfold Machine.react
  split
  · exact h
  · split
    · exact h
    · exact .ite h.propose h.updGroup.sendView
theorem Keeps.suspectAmong {ok : Group → Nat → Bool} (h : Keeps a s) : Keeps a (suspectAmong ok s gn ys) := by
  unfold Machine.suspectAmong
  split
  · exact h
  · exact .ite h h.updGroup.react
theorem Keeps.suspectRanks (h : Keeps a s) : Keeps a (suspectRanks s gn ys) := h.suspectAmong
theorem Keeps.suspectEverywhere (h : Keeps a s) : Keeps a (suspectEverywhere s rank) := h.fold fun _ _ h => h.suspectRanks
theorem Keeps.takeSuspect (h : Keeps a s) : Keeps a (takeSuspect m s) := by
  unfold Machine.takeSuspect
  split
  · exact h
  · exact .ite h h.suspectRanks
theorem Keeps.acceptProposal (h : Keeps a s) : Keeps a (acceptProposal s g m) := h.updGroup.sendView
theorem Keeps.takePropose (h : Keeps a s) : Keeps a (takePropose m s) := by
  unfold Machine.takePropose
  split
  · exact h
  · exact .ite h (.ite (.ite h.acceptProposal h) (.ite h (.ite h.updGroup.acceptProposal (.ite h.updGroup h.updGroup.react))))
theorem Keeps.takeAccept (h : Keeps a s) : Keeps a (takeAccept m s) := by
  unfold Machine.takeAccept
  split
  · exact h
  · split
    · exact h
    · exact .ite h.enterExcluded h
    · split
      · exact h
      · exact .ite h (.ite h.suspectRanks (.ite h.updGroup.tryJoin h.updGroup.tryCommit))
theorem Keeps.takeCommit (h : Keeps a s) : Keeps a (takeCommit m s) := by
  unfold Machine.takeCommit
  split
  · exact h
  · exact .ite h h.applyCommit.tryJoin
theorem Keeps.takeJoin (h : Keeps a s) : Keeps a (takeJoin m s) := by
  unfold Machine.takeJoin
  split
  · refine .ite h ?_
    dsimp only
    split
    · exact .ite h.updGroup.tryJoin h.updGroup.sendView
    · exact h.updGroup
  · exact h

theorem execSuspect_keeps : OutKeeps s (execSuspect m s) := laneEvent_keeps fun _ h => h.takeSuspect
theorem execPropose_keeps : OutKeeps s (execPropose m s) := laneEvent_keeps fun _ h => h.takePropose
theorem execAccept_keeps : OutKeeps s (execAccept m s) := laneEvent_keeps fun _ h => h.takeAccept
theorem execCommit_keeps : OutKeeps s (execCommit m s) := laneEvent_keeps fun _ h => h.takeCommit
theorem execJoinRequest_keeps : OutKeeps s (execJoinRequest m s) := laneEvent_keeps fun _ h => h.takeJoin
theorem execCollectivePacket_keeps {p : CollPacket} : OutKeeps s (execCollectivePacket p s) := laneEvent_keeps fun _ h => h.takeCollective

theorem execAgreeTimeout_keeps : OutKeeps s (execAgreeTimeout gn s) := by
  have h := Keeps.refl s
  refine .whenClocked (Keeps.next ?_)
  split
  · exact h
  · refine .ite h ?_
    split
    · exact h.suspectAmong
    · refine .ite h ?_
      split
      · exact .ite h.updGroup.suspectRanks (.ite h.enterExcluded h)
      · exact h.enterExcluded

theorem execCstepTimeout_keeps : OutKeeps s (execCstepTimeout id rank s) := by
  have h := Keeps.refl s
  refine .whenClocked (Keeps.next ?_)
  split
  · exact h
  · exact .ite h.suspectRanks h

theorem execCollectiveComplete_keeps : OutKeeps s (execCollectiveComplete id s) := by
  have h := Keeps.refl s
  refine .whenClocked (Keeps.next ?_)
  split
  · exact h
  · exact h.completeColl.tryJoin

theorem Keeps.dropGroup (h : Keeps a s) : Keeps a (dropGroup s gn) := h.updFab
theorem execInitAgreement_keeps {peers : List (Nat × BitVec 32)} : OutKeeps s (execInitAgreement gn peers s) := by
  have h := Keeps.refl s
  refine .whenClocked (Keeps.next ?_)
  split
  · exact h
  · split
    · exact h
    · exact .ite h (.ite h.dropGroup (.ite h.updGroup.rehold (.ite h.dropGroup h)))

end

end Sys2Proof.Machine
end

section

/-! PROOFS. That remote accesses, multicasts and scale-out accesses keep HBM canonical and the number of cores and clusters. -/

namespace Sys2Proof.Machine

section

variable {a s : State} {c : Ctx} {n id core job : Nat} {r : RemoteReq} {p : Packet} {m : Mcast}

/-! ## Requests sent (spec/13 R359 to R368) -/

theorem Keeps.sendRequest (h : Keeps a s) : Keeps a (sendRequest s p) := h.send
theorem Keeps.sendPacket {opc : Nat} {kind : RemoteKind} {flag : Option Nat} {data : Nat → List DWord} {p : Nat × List RLane} (h : Keeps a c.s) :
    Keeps a (c.sendPacket opc kind flag data p).s := .ite h.fresh.updCore h.fresh.updCore.sendRequest

theorem remoteForm_keeps {f : FmtF} {opc width : Nat} {dOk : Ctx → Nat → Bool} {kind : Nat → RemoteKind} {write : Bool}
    {data : Warp → Nat → Nat → List DWord} : OutKeeps s (remoteForm s f opc width dOk kind write data) := by
  refine issue_keeps fun c h => .orIllopnd (.ite h ?_)
  dsimp only
  split
  · trivial
  · exact .ite trivial (h.foldCtx fun _ _ h => h.sendPacket)

theorem rldqForm_keeps {g q : BitVec 4} {x peer : BitVec 7} {opc : Nat} {wcode : BitVec 2} : OutKeeps s (rldqForm s g q x peer opc wcode) := by
  refine issue_keeps fun c h => ?_
  dsimp only
  split
  · trivial
  · refine .orIllopnd (.ite h ?_)
    split
    · trivial
    · exact .ite h (.ite trivial (h.foldCtx fun _ _ h => h.sendPacket))

/-! ## Multicasts (spec/13 R369) -/

theorem Keeps.sendMcast {rank : Nat} {x : ReplayPacket} (h : Keeps a s) : Keeps a (sendMcast s core m rank x) :=
  have hkept := h.fresh.updCore.ite h.fresh.updCore.updWarp
  .ite hkept hkept.sendRequest
theorem Keeps.replayMcast {l : List Replay} (h : Keeps a s) : Keeps a (replayMcast core m l s) := by
  induction l generalizing s with
  | nil => exact h.updFab
  | cons x rest ih => exact .ite (ih (h.fold fun _ _ h => h.sendMcast)) h.updFab
theorem Keeps.replayMcasts (h : Keeps a s) : Keeps a (replayMcasts s core) := by
  refine h.fold fun s m h => ?_
  split
  · exact .ite h.replayMcast h
  · exact h

theorem Keeps.advance (h : Keeps a c.s) : Keeps a c.advance.s := h

theorem execMcst_keeps {f : FmtF} : OutKeeps s (execMcst f s) := by
  refine issue_keeps fun c h => .orIllopnd (.ite h (.afterOps h fun c' _ h' => ?_))
  dsimp only
  split
  · trivial
  · trivial
  · refine .ite trivial (.ite trivial (Keeps.replayMcast (Keeps.commit (Keeps.advance ?_))))
    dsimp only
    exact h'.fresh.updFab

/-! ## Answers (spec/13 R363 to R370) -/

theorem Keeps.recordFailure {cause : BitVec 8} {lane : Nat} {addr : DWord} (h : Keeps a s) : Keeps a (recordFailure s r cause lane addr) := by
  unfold Machine.recordFailure
  split
  · exact h
  · exact .ite h (.ite h.failTask h.updWarp)
theorem Keeps.landRemote {q slot lane : Nat} {va : DWord} {ans : BitVec 8 × DWord} (h : Keeps a s) : Keeps a (landRemote s r q slot lane va ans) := by
  unfold Machine.landRemote
  dsimp only
  split
  · exact h
  · split
    · exact h
    · exact .ite h (.ite h.landLane (.ite h.addPoison.landLane h.landLane))
theorem Keeps.answerReq {l : List (Nat × BitVec 8 × DWord)} (h : Keeps a s) : Keeps a (answerReq s core r l) := by
  have hreplayed (f : Core → Core) := (h.updCore (k := core) (f := f)).replayMcasts (core := core)
  unfold Machine.answerReq
  dsimp only
  split
  · exact Keeps.opEnded (Keeps.fold (hreplayed _).updWarp fun _ _ h => .ite h h.recordFailure)
  · exact Keeps.opEnded (Keeps.fold (hreplayed _).unbind fun _ _ h => .ite h h.recordFailure)
  · exact Keeps.opEnded ((hreplayed _).fold fun _ _ h => h.landRemote)
  · exact Keeps.opEnded ((hreplayed _).fold fun _ _ h => h.landRemote)
  · exact .ite (hreplayed _) (hreplayed _).updFab
theorem Keeps.takeResponse {x : Response} (h : Keeps a s) : Keeps a (takeResponse x s) := by
  unfold Machine.takeResponse
  split
  · split
    · exact h
    · exact h.answerReq
  · exact h
theorem execRemoteResponse_keeps {x : Response} : OutKeeps s (execRemoteResponse x s) := laneEvent_keeps fun _ h => h.takeResponse
theorem Keeps.loseReq (h : Keeps a s) : Keeps a (loseReq s core r) := h.answerReq.suspectEverywhere

theorem execRemoteRequestLost_keeps : OutKeeps s (execRemoteRequestLost id s) := by
  have h := Keeps.refl s
  refine .whenClocked (Keeps.next ?_)
  split
  · exact h
  · split
    · exact h
    · exact .ite h.loseReq h

theorem Keeps.rankDown {rank : Nat} (h : Keeps a s) : Keeps a (rankDown s rank) := by
  unfold Machine.rankDown
  exact Keeps.suspectEverywhere (h.fold fun _ _ h => h.answerReq)
theorem execRankDownNotice_keeps {rank : Nat} : OutKeeps s (execRankDownNotice rank s) := laneEvent_keeps fun _ h => .ite h h.rankDown

theorem Keeps.mcastFails (h : Keeps a s) : Keeps a (mcastFails s id) := by
  unfold Machine.mcastFails
  split
  · exact h
  · exact .ite h.failTask h

theorem execMulticastComplete_keeps : OutKeeps s (execMulticastComplete id s) := by
  have h := Keeps.refl s
  refine .whenClocked (Keeps.next ?_)
  split
  · exact h
  · exact .ite h h.updFab.updWarp.mcastFails.opEnded

/-! ## Requests served (spec/13 R362 to R373) -/

theorem Keeps.performLane {x : Mapped} {data : List DWord} (h : Keeps a s) : Keeps a (performLane s p x data).1 := by
  unfold Machine.performLane
  dsimp only
  split
  · exact h
  · exact h.writeBytes.touchPools
  · exact .iteFst h.writeBytes.touchPools h.writeBytes.touchPools

theorem Keeps.performPacket (h : Keeps a s) : Keeps a (performPacket s p).1 := by
  refine List.foldlRecOn (motive := fun x : State × List (Nat × BitVec 8 × DWord) => Keeps a x.1) _ _ h.clearCovered fun acc h x _ => ?_
  dsimp only
  split
  · exact h.performLane
  · exact h
  · exact h

theorem Keeps.respond {l : List (Nat × BitVec 8 × DWord)} (h : Keeps a s) : Keeps a (respond s p l) := .ite h.takeResponse h.send
theorem Keeps.streamAdvance (h : Keeps a s) : Keeps a (streamAdvance s p) := .ite h h.updFab
theorem Keeps.tryPacket {refused : List Nat} (h : Keeps a s) : Keeps a (tryPacket s refused p) := by
  unfold Machine.tryPacket
  split
  · exact h.updFab.fabricPages
  · refine .ite (.ite ?_ h.streamAdvance) h.performPacket.streamAdvance.respond
    split
    · exact h.streamAdvance.killTeam.respond
    · exact h.streamAdvance
theorem Keeps.drainHeld (h : Keeps a s) : Keeps a (drainHeld n s) := by
  induction n generalizing s with
  | zero => exact h
  | succ n ih =>
    unfold Machine.drainHeld
    split
    · exact h
    · exact ih h.updFab.tryPacket
theorem Keeps.offerRequest (h : Keeps a s) : Keeps a (offerRequest p s) := .ite h.tryPacket.drainHeld (.ite h (.ite h.updFab h.updFab))
theorem Keeps.reoffer (h : Keeps a s) : Keeps a (reoffer s) := by
  unfold Machine.reoffer
  exact .ite h (h.updFab.fold fun _ _ h => h.offerRequest)
theorem Keeps.takeRequest (h : Keeps a s) : Keeps a (takeRequest p s) := .ite h h.offerRequest.reoffer

theorem execRemoteRequest_keeps : OutKeeps s (execRemoteRequest p s) := by
  refine .whenClocked (laneEvent_keeps fun s' h => .ite h (.ite ?_ h.takeRequest))
  split
  · exact .ite h.takeRequest h
  · exact h

theorem execRfence_keeps {g : BitVec 4} : OutKeeps s (execRfence g s) := issue_keeps fun _ h => .ite h (.ite h trivial)

/-! ## Scale-out accesses (spec/13 R371 to R373) -/

theorem Keeps.ueAnswer {x : Option (List Byte)} (h : Keeps a s) : Keeps a (ueAnswer s x) := h.emit
theorem Keeps.serveUe {va : Nat} {x : UeRequest} (h : Keeps a s) : Keeps a (serveUe s job va x) := by
  unfold Machine.serveUe
  dsimp only
  split
  · exact h.ueAnswer
  · exact h.updFab.fabricPages
  · split
    · exact .ite h.ueAnswer h.ueAnswer
    · exact h.writePlaces.ueAnswer

theorem execUeRmaRequest_keeps {x : UeRequest} : OutKeeps s (execUeRmaRequest x s) := by
  refine .whenClocked (linkEvent_keeps fun s' h => ?_)
  split
  · exact h.ueAnswer
  · exact .ite h.ueAnswer h.serveUe

theorem Keeps.sendRead {q slot block : Nat} {h : DWord} {lanes : List (Nat × Nat)} (hk : Keeps a c.s) : Keeps a (c.sendRead q slot h block lanes).s :=
  hk.fresh.updCore.emit

theorem execXldq_keeps {g q hr : BitVec 4} {x : BitVec 7} : OutKeeps s (execXldq g q x hr s) := by
  refine issue_keeps fun c h => ?_
  dsimp only
  split
  · trivial
  · refine .orIllopnd (.ite h (.afterOps h fun c' _ h' => .ite trivial ?_))
    split
    · trivial
    · exact .ite h (h'.foldCtx fun _ _ h => h.sendRead)

theorem Keeps.ueEnd {data : Option (List DWord)} (h : Keeps a s) : Keeps a (ueEnd n data s) := by
  unfold Machine.ueEnd
  split
  · exact h
  · split
    · exact h.answerReq
    · exact h

theorem execUeReadResponse_keeps {data : Option (List DWord)} : OutKeeps s (execUeReadResponse n data s) := linkEvent_keeps fun _ h => h.ueEnd
theorem execPacketDeliveryContextFail_keeps : OutKeeps s (execPacketDeliveryContextFail n s) := .whenClocked (Keeps.refl s).ueEnd.next

end

end Sys2Proof.Machine
end

section

/-! PROOFS. That ports, the Runnel engines and the matrix engine keep HBM canonical and the number of cores and clusters. -/

namespace Sys2Proof.Machine

section

variable {a s : State} {c : Ctx} {n id core job port eng k op req : Nat} {p : Port} {m : RunCmd} {t : Team} {g : BitVec 4}

/-! ## Ports (spec/13 R350 to R358) -/

theorem Keeps.checkAllFailed (h : Keeps a s) : Keeps a (checkAllFailed s) := by
  unfold Machine.checkAllFailed
  exact .ite h (h.fold fun _ _ h => h.suspectRanks)
theorem Keeps.requeue (h : Keeps a s) : Keeps a (requeue s p) := h.updFab
theorem Keeps.failPort (h : Keeps a s) : Keeps a (failPort s n) := by
  unfold Machine.failPort
  split
  · exact h
  · exact h.updDie.updPort.requeue.pump.checkAllFailed
theorem Keeps.resend (h : Keeps a s) : Keeps a (resend s n) := by
  unfold Machine.resend
  split
  · exact h
  · exact .ite h h.emit.updPort

theorem execPortTraining_keeps {peer : Option Nat} : OutKeeps s (execPortTraining port peer s) := by
  have h := Keeps.refl s
  refine Keeps.next ?_
  split
  · exact h
  · refine .ite h ?_
    dsimp only
    split
    · exact h.updPort
    · exact .ite h.updPort.resend.pump h.updPort.requeue.updFab.pump

theorem execLinkRekey_keeps : OutKeeps s (execLinkRekey port s) := by
  have h := Keeps.refl s
  refine Keeps.next ?_
  split
  · exact h
  · exact .ite h.updPort.updFab.pump h

theorem Keeps.takeItem {i : WindowItem} (h : Keeps a s) : Keeps a (takeItem s i) := by
  cases i with
  | request p => exact .ite h.takeRequest h
  | response r => exact h.takeResponse
  | collective p => exact h.takeCollective
  | suspect m => exact h.takeSuspect
  | propose m => exact h.takePropose
  | accept m => exact h.takeAccept
  | commit m => exact h.takeCommit
  | join m => exact h.takeJoin

theorem Keeps.skidItem {i : WindowItem} (h : Keeps a s) : Keeps a (skidItem s port i) := by
  unfold Machine.skidItem
  split
  · exact .ite h.performPacket.updPort h
  · split
    · exact h
    · split
      · refine h.fold fun s x h => ?_
        dsimp only
        split
        · exact h
        · exact .ite h.landLane h
      · exact h
  · exact h

theorem Keeps.takeTrailer {w : Window} (h : Keeps a s) : Keeps a (takeTrailer s port w) :=
  Keeps.pump (Keeps.updPort (h.updPort.resend.ite h.updPort))

theorem execWindowReceive_keeps {w : Window} : OutKeeps s (execWindowReceive port w s) := by
  have h := Keeps.refl s
  unfold execWindowReceive
  split
  · exact h.next
  · refine .ite h.next (laneEvent_keeps fun s' h => .ite (h.updPort.takeTrailer.fold fun _ _ h => h.takeItem) ?_)
    have hskid (f : Port → Port) (p : Prop) [Decidable p] : Keeps s
        (if p then w.items.foldl (fun s i => Machine.skidItem s port i) (s'.updPort port f) else s'.updPort port f) :=
      .ite (h.updPort.fold fun _ _ h => h.skidItem) h.updPort
    exact .ite (hskid _ _).failPort (hskid _ _).sendWindow

theorem execWindowPadTimeout_keeps : OutKeeps s (execWindowPadTimeout port s) := by
  have h := Keeps.refl s
  refine Keeps.next ?_
  split
  · exact h
  · exact .ite h.sendWindow h

theorem execWavelengthSpare_keeps {transmit : Bool} : OutKeeps s (execWavelengthSpare port transmit s) := by
  have h := Keeps.refl s
  refine Keeps.next ?_
  split
  · exact h
  · exact .ite h.failPort h.updPort

theorem execDarkLink_keeps : OutKeeps s (execDarkLink port s) := by
  have h := Keeps.refl s
  refine Keeps.next ?_
  split
  · exact .ite h h.failPort
  · exact h

theorem Keeps.cgroupSet {v : DWord} (h : Keeps a s) : Keeps a (cgroupSet s n v) := by
  unfold Machine.cgroupSet
  exact .ite h (h.updFab.fold fun _ _ h => h.rankDown)

/-! ## Streams (spec/09) -/

theorem execSlay_keeps {l : BitVec 2} {x : BitVec 7} : OutKeeps s (execSlay g l x s) := by
  refine issue_keeps fun c h => .orIllopnd (.ite h (.ite trivial (.ite trivial ?_)))
  split
  · trivial
  · trivial
  · exact .ite trivial (.ite h.killTeam (.ite h (.orIllopnd h.noteTlbs)))

theorem commandForm_keeps {e l : BitVec 2} {x : BitVec 7} {drain : Bool} : OutKeeps s (commandForm s g e l x drain) := by
  refine issue_keeps fun c h => .orIllopnd (.ite h ?_)
  split
  · trivial
  · exact .orIllopnd (.ite trivial (.ite trivial (.ite h h.fresh.updCore)))

theorem execSwait_keeps {x : BitVec 4} : OutKeeps s (execSwait g x s) := by
  refine issue_keeps fun c h => .orIllop (.ite h ?_)
  dsimp only
  split
  · exact h
  · exact .ite h (.afterReads h)

/-! ## Runnel engines (spec/09 R256 to R270) -/

theorem Keeps.updRunnel {f : Runnel → Runnel} (h : Keeps a s) : Keeps a (updRunnel s core eng f) := h.updCore
theorem Keeps.updCmd {f : RunCmd → RunCmd} (h : Keeps a s) : Keeps a (updCmd s core eng id f) := h.updRunnel
theorem Keeps.dropCmd (h : Keeps a s) : Keeps a (dropCmd s core eng m) := h.updRunnel
theorem Keeps.endCmd (h : Keeps a s) : Keeps a (endCmd s core eng m) := h.dropCmd.unbind.opEnded
theorem Keeps.waitPages {vas : List Nat} (h : Keeps a s) : Keeps a (waitPages s core job eng m vas) := h.requestPages.updCmd
theorem Keeps.stopCmd {cause : BitVec 8} {va : Nat} (h : Keeps a s) : Keeps a (stopCmd s core eng m cause va) :=
  .ite h.updTeam.dropCmd.opEnded (.ite h.updCmd h.updCore.endCmd)
theorem Keeps.startFill (h : Keeps a s) : Keeps a (startFill s t core eng m) := by
  unfold Machine.startFill
  dsimp only
  split
  · exact h.killTeam
  · exact h.updTeam.stopCmd
  · exact h.waitPages
  · exact h.updCmd
theorem Keeps.startDrain (h : Keeps a s) : Keeps a (startDrain s t core eng m) := by
  unfold Machine.startDrain
  dsimp only
  split
  · exact h
  · exact .ite h h.updCmd
theorem Keeps.performWrites {ws : List (Nat × Byte × Byte)} (h : Keeps a s) : Keeps a (performWrites core job s ws).1 := by
  induction ws generalizing s with
  | nil => exact h
  | cons x r ih =>
    unfold Machine.performWrites
    split
    · exact h
    · exact h
    · exact ih h.writeBytes.touchPools

theorem execRunnelCommandStart_keeps : OutKeeps s (execRunnelCommandStart core eng s) := by
  have h := Keeps.refl s
  refine .whenClocked (.ite h.next ?_)
  split
  · exact h.next
  · refine .ite h.next (.ite h.endCmd.next (.ite h.next ?_))
    split
    · exact h.stopCmd.next
    · exact (Keeps.ite h.startDrain (h.startFill.ite h)).next

theorem execFillGranuleLand_keeps : OutKeeps s (execFillGranuleLand core eng n s) := by
  have h := Keeps.refl s
  refine .whenClocked ?_
  split
  · exact h.next
  · refine .ite h.next ?_
    split
    · exact h.next
    · exact (Keeps.ite h.updTeam.endCmd h.updTeam.updCmd).next

theorem execSdrainWritesDone_keeps : OutKeeps s (execSdrainWritesDone core eng s) := by
  have h := Keeps.refl s
  refine .whenClocked ?_
  split
  · exact h.next
  · refine .ite h.next ?_
    split
    · exact h.stopCmd.next
    · refine .ite h.next (Keeps.next ?_)
      split
      · exact Keeps.endCmd (.ite h.performWrites h.performWrites.clearCovered)
      · exact Keeps.updCmd (Keeps.waitPages (.ite h.performWrites h.performWrites.clearCovered))
      · exact Keeps.stopCmd (.ite h.performWrites h.performWrites.clearCovered)

/-! ## Gangs and joint commands (spec/08 R230 to R234) -/

/-- What the last member of a joint command does keeps. -/
def Joint.Keeps (a : State) : Joint → Prop
  | .go c => Machine.Keeps a c.s
  | .trap _ | .block _ => True

theorem Keeps.latchTrap {i : TrapInfo} (h : Keeps a c.s) : (latchTrap c n i).Keeps a := h

theorem Keeps.jointWait {finish : Ctx → List (Nat × Option Nat) → Joint} (h : Keeps a c.s) (hf : ∀ c l, Keeps a c.s → (finish c l).Keeps a) :
    (jointWait c n finish).Keeps a := by
  unfold Machine.jointWait
  refine .ite (.ite h.latchTrap h) (.ite h ?_)
  have hend := hf c ((c.t.gang n).arrived.map (fun x => (x.1, x.2.1))) h
  dsimp only
  split
  · exact .ite h.latchTrap h
  · exact h
  · rename_i c' hc
    rwa [hc] at hend

theorem Keeps.joint {word : Word} {vals : List Word} {finish : Ctx → List (Nat × Option Nat) → Joint} (h : Keeps a c.s)
    (hf : ∀ c l, Keeps a c.s → (finish c l).Keeps a) : (joint c n word vals finish).Keeps a := by
  have harrive (t : Team) (p : Split) : (Machine.jointWait { c with t := t, p := p } n finish).Keeps a := Keeps.jointWait h hf
  have hfirst : (match (c.t.gang n).word with
      | none => if c.t.mtx.token ≠ n then Res.trapC causeTOKEN else
          Machine.jointWait { c with
            t := c.t.updGang n (fun x => { x with word := some word, vals := vals, arrived := x.arrived ++ [(c.wi, flagOf c.p.setA, c.p.pc + 4)] })
            p := { c.p with arrival := some (.gang n (c.t.gang n).num) } } n finish
      | some w =>
        if (c.t.gang n).arrived.any (fun x => x.1 == c.wi) then Res.block c 4
        else if w ≠ word ∨ (c.t.gang n).vals ≠ vals then Machine.latchTrap c n { cause := causeGANG, lo := 0, hi := 0, lane := 0 }
        else Machine.jointWait { c with
          t := c.t.updGang n (fun x => { x with word := some word, vals := vals, arrived := x.arrived ++ [(c.wi, flagOf c.p.setA, c.p.pc + 4)] })
          p := { c.p with arrival := some (.gang n (c.t.gang n).num) } } n finish).Keeps a := by
    split
    · exact .ite trivial (harrive _ _)
    · exact .ite h (.ite h.latchTrap (harrive _ _))
  unfold Machine.joint
  dsimp only
  split
  · exact .ite h (.ite (h.jointWait hf) hfirst)
  · exact hfirst

theorem execGang_keeps {f : FmtAB} : OutKeeps s (execGang f s) :=
  issue_keeps fun _ h => .orIllop (.orIllopnd (.ite h (.afterOps h fun _ _ h' => .orIllopnd (.ite h h'))))

/-! ## The matrix engine (spec/08) -/

theorem Keeps.updTile {f : Tile → Tile} (h : Keeps a s) : Keeps a (s.updTile k n f) := h.updCluster
theorem Keeps.post {o : MtxOp} {word : Word} {vals : List Word} {tiles : List Nat} {who : List (Nat × Option Nat)} (h : Keeps a c.s) :
    Keeps a (post c o word vals tiles who).s := h.fresh.updCluster.fold fun _ _ h => h.updTile

theorem matrixForm_keeps {f : FmtT} {i : Instr} : OutKeeps s (matrixForm s f i) := by
  refine issue_keeps fun c h => .orIllop (.orIllopnd (.ite h ?_))
  split
  · split
    · trivial
    · exact h
    · exact h.post
  · refine h.joint fun c l h => ?_
    split
    · trivial
    · trivial
    · exact h.post

theorem Keeps.writeTile {f : Store 32 → Store 32} (h : Keeps a s) : Keeps a (writeTile s k n f) := h.updTile
theorem Keeps.spendTags (h : Keeps a s) : Keeps a s.spendTags := h.like rfl rfl rfl

theorem execCzero_keeps {full : BitVec 1} {x : BitVec 4} : OutKeeps s (execCzero g full x s) :=
  issue_keeps fun _ h => .orIllopnd (.ite h (Keeps.fold h fun _ _ h => h.writeTile))

theorem elemForm_keeps {f : FmtA} {body : Ctx → LaneMask → Nat → (Nat → Nat) → Ctx} (hb : ∀ c act i key, Keeps s c.s → Keeps s (body c act i key).s) :
    OutKeeps s (elemForm s f body) :=
  issue_keeps fun _ h => .orIllopnd (.ite h (.orIllopnd (.afterOps h fun _ _ h => hb _ _ _ _ h)))

theorem execCread_keeps {f : FmtA} : OutKeeps s (execCread f s) := elemForm_keeps fun _ _ _ _ h => h.spendTags
theorem execCwrite_keeps {f : FmtA} : OutKeeps s (execCwrite f s) := by
  refine elemForm_keeps fun _ _ _ _ h => ?_
  dsimp only
  exact h.writeTile

theorem execCdrain_keeps {f : FmtT} : OutKeeps s (execCdrain f s) := by
  refine issue_keeps fun c h => .orIllopnd (.ite h ?_)
  dsimp only
  split
  · trivial
  · trivial
  · dsimp only [Res.Keeps]
    exact h.spendTags.fresh.updDie

theorem execMwait_keeps {all full : BitVec 1} {x : BitVec 4} : OutKeeps s (execMwait g all full x s) :=
  issue_keeps fun _ h => .orIllop (.orIllopnd (.ite h (.ite h (Keeps.spendTags (h.fold fun _ _ h => h.updTile)))))

theorem execOfence_keeps : OutKeeps s (execOfence g s) := issue_keeps fun _ h => h

theorem execTkpass_keeps : OutKeeps s (execTkpass g s) := by
  refine issue_keeps fun c h => .ite h (.orIllop ?_)
  split
  · trivial
  · exact h.joint fun _ _ h => h

theorem execTkwait_keeps : OutKeeps s (execTkwait g s) := by
  refine issue_keeps fun c h => .ite h ?_
  split
  · trivial
  · exact .ite h h

theorem execPlanes_keeps {f : FmtA} : OutKeeps s (execPlanes f s) := by
  refine issue_keeps fun c h => .orIllopnd (.ite h ?_)
  dsimp only
  split
  · trivial
  · exact h.foldCtx fun _ _ h => h

theorem execMatrixGrant_keeps : OutKeeps s (execMatrixGrant k s) := by
  have h := Keeps.refl s
  refine .whenClocked (.ite h.next ?_)
  split
  · exact h.next
  · exact h.updCluster.next

theorem Keeps.performPass {q : MtxReq} (h : Keeps a s) : Keeps a (performPass s k q t) := h.fold fun _ _ h => h.updTile

theorem execPassComplete_keeps : OutKeeps s (execPassComplete k req s) := by
  have h := Keeps.refl s
  refine .whenClocked ?_
  split
  · exact h.next
  · rename_i q _
    have hpassed : Keeps s (match s.team? q.team with | some t => performPass s k q t | none => s) := by
      split
      · exact h.performPass
      · exact h
    refine .ite h.updCluster.next (Keeps.next (Keeps.opEnded ?_))
    exact Keeps.fold hpassed.updCluster fun _ _ h => h.unbind

theorem execCdrainGranuleWrite_keeps : OutKeeps s (execCdrainGranuleWrite op n s) := by
  have h := Keeps.refl s
  refine .whenClocked ?_
  split
  · exact h.next
  · split
    · exact h.next
    · exact (Keeps.ite h.updTeam.updDie.opEnded h.updTeam.updDie).next

theorem execColumnGroupRepair_keeps : OutKeeps s (execColumnGroupRepair k n s) := by
  refine Keeps.next ?_
  exact (Keeps.refl s).updCluster.fold fun _ _ h => h.killTeam

end

end Sys2Proof.Machine
end

section

/-! PROOFS. That saves and restores, page answers, the host's accesses, keys and debug, and power keep HBM canonical and the number of cores and clusters. -/

namespace Sys2Proof.Machine

section

variable {a s s0 : State} {n id core job page : Nat} {t : Team} {v : Saved} {w : Warp} {val : DWord}

/-! ## Saves and restores (spec/10 R312 to R320) -/

theorem Keeps.writeFrame (h : Keeps a s) : Keeps a (writeFrame s t v) := Keeps.writeHeader (h.fold fun _ _ h => h.writeBytes)

theorem Keeps.settleLane {q : Queue} {acc : State × List QLane} {x : Nat × QLane} (h : Keeps a acc.1) : Keeps a (settleLane core id q acc x).1 := by
  unfold Machine.settleLane
  dsimp only
  split
  · exact h
  · exact .iteFst (.iteFst h.addPoison h) (.iteFst h.addPoison h)

theorem Keeps.settleQueues (h : Keeps a s) : Keeps a (settleQueues s t).1 := by
  refine List.foldlRecOn (motive := fun x : State × List Queue => Keeps a x.1) _ _ h fun acc h q _ => ?_
  refine List.foldlRecOn (motive := fun x : State × List QEntry => Keeps a x.1) _ _ h fun acc h e _ => ?_
  exact List.foldlRecOn (motive := fun x : State × List QLane => Keeps a x.1) _ _ h fun acc h x _ => Keeps.settleLane h

theorem Keeps.restoreTiles (h : Keeps a s) : Keeps a (restoreTiles s t v) := h.fold fun _ _ h => h.updCluster
theorem Keeps.beginUnit (h : Keeps a s) : Keeps a (beginUnit s t) := h.fold fun _ _ h => h.beginSave

theorem execSaveStart_keeps : OutKeeps s (execSaveStart id s) := by
  have h := Keeps.refl s
  refine .whenClocked ?_
  split
  · exact h.next
  · exact (h.beginUnit.ite h).next

theorem execForcedSaveBound_keeps : OutKeeps s (execForcedSaveBound id s) := by
  have h := Keeps.refl s
  refine .whenClocked ?_
  split
  · exact h.next
  · split
    · exact h.next
    · exact (h.beginUnit.ite h).next

theorem Keeps.withdrawWork (h : Keeps a s) : Keeps a (withdrawWork s t) := h.updCluster.updCore

theorem execFrameComplete_keeps : OutKeeps s (execFrameComplete id s) := by
  have h := Keeps.refl s
  refine .whenClocked ?_
  split
  · exact h.next
  · exact .ite h.next (.ite h.next h.setTeam.writeFrame.setTeam.withdrawWork.leaveCore.next)

theorem Keeps.repost (h : Keeps a s) : Keeps a (repost s t v) := h.fold fun _ _ h => h.updCluster

theorem Keeps.setFreeTag (h : Keeps a s) : Keeps a { s with freeTag := n } := h.like rfl rfl rfl

theorem Keeps.restoreTeam (h : Keeps a s) : Keeps a (restoreTeam s id) := by
  unfold Machine.restoreTeam
  split
  · exact h
  · refine Keeps.setFreeTag (Keeps.writeHeader (Keeps.updCore (Keeps.fold (Keeps.repost (Keeps.restoreTiles (Keeps.setTeam ?_))) ?_)))
    · exact h.setTeam.settleQueues
    · exact fun _ _ h => h.updCore

theorem execTeamRestore_keeps : OutKeeps s (execTeamRestore id s) := by
  have h := Keeps.refl s
  refine .whenClocked ?_
  split
  · exact h.next
  · exact (Keeps.ite (h.fold fun _ _ h => h.restoreTeam) h).next

theorem execJobStop_keeps : OutKeeps s (execJobStop job s) := by
  have h := Keeps.refl s
  exact .whenClocked (.ite h.next (h.fold fun _ _ h => h.requestSave).next)

/-! ## Answers to page requests (spec/11 R323) -/

theorem Keeps.writeMissing (h : Keeps a s) : Keeps a (writeMissing s t) := h.writeBytes.writeHeader
theorem Keeps.noteAnswers {b : Bool} (h : Keeps a s) : Keeps a (noteAnswers s job page b) := by
  refine Keeps.fold (Keeps.like h rfl rfl rfl) fun s t h => ?_
  split
  · exact h.writeMissing
  · exact h
theorem Keeps.answerLane {b : Bool} {x : Nat × Nat × Nat} (h : Keeps a s) : Keeps a (answerLane s id b x) := by
  unfold Machine.answerLane
  split
  · exact h
  · split
    · exact h
    · exact .ite h.landLane h.addPoison.landLane
theorem Keeps.answerCore {b : Bool} (h : Keeps a s) : Keeps a (answerCore s core job page b) := by
  unfold Machine.answerCore
  exact Keeps.updCore (h.updCore.fold fun _ _ h => h.fold fun _ _ h => h.answerLane)
theorem Keeps.answerColl {b : Bool} {c : Coll} (h : Keeps a s) : Keeps a (answerColl s page b c) :=
  .ite h (.ite h.updColl.contribute (.ite h.updColl.dstFault h.updColl.collFault))
theorem Keeps.answerStatus {b : Bool} (h : Keeps a s) : Keeps a (answerStatus s job page b) := by
  unfold Machine.answerStatus
  exact .ite (h.updDie.fold fun _ _ h => h.writeVa64) h.updDie
theorem Keeps.answerDispatcher {b : Bool} (h : Keeps a s) : Keeps a (answerDispatcher s job page b) := by
  unfold Machine.answerDispatcher
  exact h.updDie.answerStatus.fold fun _ _ h => h.answerColl
theorem Keeps.answerFabric {b : Bool} (h : Keeps a s) : Keeps a (answerFabric s job page b) := by
  have hserved : Keeps a ((s.fab.held.filter (fun h => h.packet.job == job && h.wait.contains page)).foldl
      (fun s h => Machine.tryPacket s (if b then [] else [page]) h.packet)
      ((s.updFab (fun b => { b with pages := b.pages.filter (· != (job, page)) })).updFab (fun b => { b with held := b.held.filter (fun h =>
        !(s.fab.held.filter (fun h => h.packet.job == job && h.wait.contains page)).contains h) }))) :=
    h.updFab.updFab.fold fun _ _ h => h.tryPacket
  unfold Machine.answerFabric
  refine Keeps.fold (Keeps.fold (Keeps.fold (Keeps.updFab (Keeps.reoffer (Keeps.drainHeld hserved))) fun _ _ h => ?_) fun _ _ h => h.fabricPages)
    fun _ _ h => h.fabricPages
  exact .ite h.ueAnswer h.serveUe
theorem Keeps.answerPage {x : PageAnswer} (h : Keeps a s) : Keeps a (answerPage s x) :=
  .ite h (.ite h.noteAnswers.answerCore (.ite h.noteAnswers.answerDispatcher h.noteAnswers.answerFabric))
theorem execPageAnswer_keeps {x : PageAnswer} : OutKeeps s (execPageAnswer x s) := .whenClocked (Keeps.refl s).answerPage.next
theorem Keeps.stackAnswers (h : Keeps a s) : Keeps a (stackAnswers s) := h.fold fun _ _ h => h.answerPage

/-! ## The host's windows (spec/12 R331, R340) -/

theorem execHostMemoryAccess_keeps {x : HostAccess} : OutKeeps s (execHostMemoryAccess x s) := by
  refine hostEvent_keeps fun s' h => .ite (h.updPkg (by intro; rfl)) ?_
  split
  · exact h.writeBytes.touchPools.updPkg (by intro; rfl)
  · exact .ite (h.updPkg (by intro; rfl)) (h.updPkg (by intro; rfl))
theorem execEgressWindowRead_keeps {len : Nat} : OutKeeps s (execEgressWindowRead n len s) := hostEvent_keeps fun _ h => h.updPkg (by intro; rfl)
theorem Keeps.openRing (h : Keeps a s) : Keeps a (openRing n s) := .ite h h.setEgRing
theorem Keeps.closeRing (h : Keeps a s) : Keeps a (closeRing n s) := .ite h.setEgRing h
theorem Keeps.writeHcur (h : Keeps a s) : Keeps a (writeHcur n val s) := .ite h.setEgRing (.ite h.setEgRing h)
theorem execEgringOpen_keeps : OutKeeps s (execEgringOpen n s) := hostEvent_keeps fun _ h => h.openRing
theorem execEgringClose_keeps : OutKeeps s (execEgringClose n s) := hostEvent_keeps fun _ h => h.closeRing
theorem execEgringHcurWrite_keeps : OutKeeps s (execEgringHcurWrite n val s) := hostEvent_keeps fun _ h => h.writeHcur

/-! ## What teams owe HBM (spec/10 R313) -/

theorem Keeps.writeSpill (h : Keeps a s) : Keeps a (writeSpill s w) := h.writeOwn
theorem Keeps.writeHalt (h : Keeps a s) : Keeps a (writeHalt s t w) := h.trans (writeBytes_keeps s 0 false _)
theorem Keeps.mirrorWarp {old : Option Warp} (h : Keeps a s) : Keeps a (mirrorWarp s t old w) :=
  have hspill := h.ite h.writeSpill
  .ite hspill hspill.writeHalt
theorem Keeps.mirror (h : Keeps a s) : Keeps a (mirror s0 s) := h.fold fun _ _ h => h.fold fun _ _ h => h.mirrorWarp
theorem Keeps.writeOwed (h : Keeps a s) : Keeps a (writeOwed s) := h.fold fun _ _ h => h.writeHeader.writeHalts.fold fun _ _ h => h.writeSpill

/-! ## Keys, debug and lifecycle (spec/12 R341 to R349) -/

theorem Keeps.keyDone {stat : Nat} {clear : Bool} (h : Keeps a s) : Keeps a (keyDone s stat clear) := h.updPkg (by intro; rfl)
theorem Keeps.putKey {m : KeyMat} (h : Keeps a s) : Keeps a (putKey s n m) := by
  unfold Machine.putKey
  split
  · exact h.updPkg (by intro; rfl)
  · exact h.updPkg (by intro; rfl)
theorem Keeps.installKey (h : Keeps a s) : Keeps a (installKey n s) := by
  refine .ite h.keyDone ?_
  split
  · exact h.keyDone
  · exact .ite h.keyDone h.putKey.keyDone
theorem Keeps.emptyKey (h : Keeps a s) : Keeps a (emptyKey n s) := .ite h.keyDone (h.updPkg (by intro; rfl)).keyDone
theorem execKeyInstall_keeps : OutKeeps s (execKeyInstall n s) := hostEvent_keeps fun _ h => h.installKey
theorem execKeyEmpty_keeps : OutKeeps s (execKeyEmpty n s) := hostEvent_keeps fun _ h => h.emptyKey
theorem Keeps.releaseTeams {j : Option Nat} (h : Keeps a s) : Keeps a (releaseTeams s j) := h.like rfl rfl rfl
theorem Keeps.freshNonce (h : Keeps a s) : Keeps a (freshNonce s) := h.updPkg (by intro; rfl)
theorem Keeps.dbgResult {st : DebugState} (h : Keeps a s) : Keeps a (dbgResult s n st) := (h.updPkg (by intro; rfl)).freshNonce
theorem Keeps.debugOff (h : Keeps a s) : Keeps a (debugOff s) := (h.updPkg (by intro; rfl)).releaseTeams
theorem Keeps.requestOff (h : Keeps a s) : Keeps a (requestOff s) := .ite h (.ite h.dbgResult h.debugOff.dbgResult)
theorem Keeps.requestObserve (h : Keeps a s) : Keeps a (requestObserve s) := .ite h (.ite h.dbgResult (.ite h.dbgResult h.dbgResult))
theorem Keeps.requestHalt (h : Keeps a s) : Keeps a (requestHalt s) := by
  refine .ite h ?_
  split
  · exact h.dbgResult
  · exact .ite h.dbgResult h.dbgResult
  · exact .ite h.dbgResult (.ite h.dbgResult (.ite h.dbgResult (.ite (h.updPkg (by intro; rfl)).dbgResult h.dbgResult)))
theorem execDbgReqOff_keeps : OutKeeps s (execDbgReqOff s) := hostEvent_keeps fun _ h => h.requestOff
theorem execDbgReqObserve_keeps : OutKeeps s (execDbgReqObserve s) := hostEvent_keeps fun _ h => h.requestObserve
theorem execDbgReqHalt_keeps : OutKeeps s (execDbgReqHalt s) := hostEvent_keeps fun _ h => h.requestHalt
theorem Keeps.haltJob (h : Keeps a s) : Keeps a (haltJob job s) := by
  refine .ite h (h.fold fun s t h => ?_)
  split
  · exact .ite h.holdTeam h.updTeam
  · exact h
theorem Keeps.resumeHeld (h : Keeps a s) : Keeps a (resumeHeld job s) := .ite h h.releaseTeams
theorem execDbghalt_keeps : OutKeeps s (execDbghalt job s) := hostEvent_keeps fun _ h => h.haltJob
theorem execDbgresume_keeps : OutKeeps s (execDbgresume job s) := hostEvent_keeps fun _ h => h.resumeHeld
theorem execLifecycleOwn_keeps {key : BitVec 512} : OutKeeps s (execLifecycleOwn key s) := hostEvent_keeps fun _ h => .ite (h.updPkg (by intro; rfl)) h
theorem execLifecycleLock_keeps {sig : BitVec 512} : OutKeeps s (execLifecycleLock sig s) := hostEvent_keeps fun _ h => .ite (h.updPkg (by intro; rfl)).debugOff h
theorem Keeps.eraseKeys (h : Keeps a s) : Keeps a (eraseKeys s) := (h.updPkg (by intro; rfl)).putKey
/-- A new HBM that is canonical. -/
theorem Keeps.newHbm {f : Package → Package} (h : Keeps a s) (hf : Memory.wf (f s.pkg).hbm = true) : Keeps a (s.updPkg f) :=
  ⟨fun _ => hf, h.cores, h.clusters⟩
theorem execLifecycleUnlock_keeps {sig : BitVec 512} : OutKeeps s (execLifecycleUnlock sig s) :=
  hostEvent_keeps fun _ h => .ite (h.eraseKeys.updDie.newHbm rfl) h
theorem execAttestationReport_keeps {nonce : BitVec 256} : OutKeeps s (execAttestationReport nonce s) := hostEvent_keeps fun _ h => h.updPkg (by intro; rfl)

/-! ## Power, boot and self-test (spec/00 R3, spec/12 R341 to R349) -/

theorem Keeps.goRetain (h : Keeps a s) : Keeps a (goRetain s) := by
  unfold Machine.goRetain
  exact h.writeBackAll.updDie.updFab.updPkg (by intro; rfl)
theorem execIdleEntry_keeps : OutKeeps s (execIdleEntry s) := (((Keeps.refl s).updPkg (by intro; rfl)).ite (.refl s)).next
theorem execIdleWake_keeps : OutKeeps s (execIdleWake s) := ((Keeps.refl s).updPkg (by intro; rfl)).next
theorem execThermalGate_keeps : OutKeeps s (execThermalGate n s) := ((Keeps.refl s).updPkg (by intro; rfl)).next
theorem execBoot_keeps {b : BootImage} : OutKeeps s (execBoot b s) := by
  have h := Keeps.refl s
  have hkey := h.ite (p := (keyIn s 0).isSome) (h.putKey (n := 0) (m := { cipher := 0, material := 0 }))
  exact (h.ite ((hkey.updPkg (by intro; rfl)).ite ((hkey.updPkg (by intro; rfl)).updPkg (by intro; rfl)).updFab)).next
theorem Keeps.setReady {pass : Bool} (h : Keeps a s) : Keeps a (setReady s n pass) := by
  refine h.updPkg fun p => ?_
  split
  · rfl
  · split <;> rfl
theorem execSelfTestDone_keeps {pass : Bool} : OutKeeps s (execSelfTestDone n pass s) := by
  have h := Keeps.refl s
  exact Keeps.next (.ite h (.ite h.setReady.updCore (.ite h.setReady.updCluster (.ite h.setReady
    (.ite (h.setReady.writeOwed.stackAnswers.ite h.setReady) (.ite h.setReady (.ite h.updPort h.updCore)))))))
theorem Keeps.evictTeam {savable : Bool} (h : Keeps a s) : Keeps a (evictTeam s savable id) := by
  unfold Machine.evictTeam
  split
  · exact h
  · refine .ite h.killTeam ?_
    split
    · exact h.beginSave.saveMates
    · exact h.beginSave.saveMates
    · exact h.sendBack.saveMates
    · exact h
theorem execCoreRetire_keeps {savable : Bool} : OutKeeps s (execCoreRetire core savable s) := by
  have h := Keeps.refl s
  exact Keeps.next (.ite h ((h.updCore.updPkg (by intro; rfl)).fold fun _ _ h => h.evictTeam))
theorem execHbmChannelSpare_keeps {stack channel : Nat} : OutKeeps s (execHbmChannelSpare stack channel s) :=
  ((Keeps.refl s).ite ((Keeps.refl s).updPkg (by intro; rfl))).next

/-! ## The register file of BAR0, but the power register (spec/12 R330 to R349) -/

theorem Keeps.setUeWin {r : BitVec 512} (h : Keeps a s) : Keeps a (setUeWin s n r) := h.updFab
theorem Keeps.writeJobWord {i : Nat} (h : Keeps a s) : Keeps a (writeJobWord n i val s) := .ite h.setJobReg (.ite h.validateJob h.setJobReg.invalidateJob)
theorem Keeps.writeCmdWord {i : Nat} (h : Keeps a s) : Keeps a (writeCmdWord n i val s) := by
  unfold Machine.writeCmdWord
  dsimp only
  split
  · exact h.setCmdQueue.ite h
  · exact h.setCmdQueue.ite h
  · exact h.notifyQueue
  · have hconf (p : Prop) [Decidable p] (x : CmdQueue) : Keeps a (if p then Machine.setCmdQueue s x else s) := h.setCmdQueue.ite h
    split
    · exact (hconf _ _).stopQueue
    · exact .ite (hconf _ _).startQueue (hconf _ _).resumeQueue
    · exact hconf _ _
  · exact h
theorem Keeps.writeRingWord {i : Nat} (h : Keeps a s) : Keeps a (writeRingWord n i val s) := by
  have hconf (p : Prop) [Decidable p] (v : Nat) : Keeps a (if p then s else Machine.setEgRing s n v) := h.ite h.setEgRing
  unfold Machine.writeRingWord
  dsimp only
  split
  · exact h.ite h.setEgRing
  · exact .ite (h.ite h.closeRing) (.ite (Keeps.openRing (h.ite h.setEgRing)) (h.ite h.setEgRing))
  · exact h.ite h.setEgRing
  · exact h.writeHcur
  · exact h.setEgRing
  · exact h
theorem Keeps.openUe (h : Keeps a s) : Keeps a (openUe n s) := h.setUeWin
theorem Keeps.closeUe (h : Keeps a s) : Keeps a (closeUe n s) := h.setUeWin
theorem execUewinOpen_keeps : OutKeeps s (execUewinOpen n s) := hostEvent_keeps fun _ h => h.openUe
theorem execUewinClose_keeps : OutKeeps s (execUewinClose n s) := hostEvent_keeps fun _ h => h.closeUe
theorem execCgroupWrite_keeps : OutKeeps s (execCgroupWrite n val s) := hostEvent_keeps fun _ h => h.cgroupSet
theorem Keeps.writeUeWord {i : Nat} (h : Keeps a s) : Keeps a (writeUeWord n i val s) := by
  unfold Machine.writeUeWord
  dsimp only
  split
  · exact .ite (Keeps.openUe (h.ite h.setUeWin)) (Keeps.closeUe (h.ite h.setUeWin))
  · exact h.ite h.setUeWin
  · exact h.ite h.setUeWin
  · exact h.ite h.setUeWin
  · exact h
theorem Keeps.writeFabric (h : Keeps a s) : Keeps a (writeFabric n val s) := by
  unfold Machine.writeFabric
  split
  · exact h.updFab.ite h
  · exact h.updFab
  · exact h.updFab
  · exact h.updFab
  · exact h.ite h.updFab
  · exact .ite h.cgroupSet (.ite h.updPort (.ite h.writeUeWord h))
theorem Keeps.writeDebug (h : Keeps a s) : Keeps a (writeDebug n val s) := by
  refine .ite h (.ite ?_ (.ite (h.updPkg (by intro; rfl)) (.ite h.haltJob (.ite h.resumeHeld h))))
  split
  · exact h.requestOff
  · exact h.requestObserve
  · exact h.requestHalt
  · exact h

end

end Sys2Proof.Machine
end

section

/-! PROOFS. That barriers, tasks and collective words keep HBM canonical and the number of cores and clusters. -/

namespace Sys2Proof.Machine

section

variable {a s : State} {c : Ctx} {n id op : Nat} {g : BitVec 4} {x : Group}

/-! ## Cluster barriers and exchange (spec/08 R241, spec/09 R265 to R268) -/

theorem Keeps.setCbar {b : Cbar} (h : Keeps a s) : Keeps a (setCbar s n b) := h.updDie

theorem execCbar_keeps : OutKeeps s (execCbar g s) := by
  refine issue_keeps fun c h => .orIllop (.ite h ?_)
  dsimp only
  split
  · exact .ite h h
  · exact h.setCbar

theorem execCbarSwap_keeps : OutKeeps s (execCbarSwap id s) := by
  have h := Keeps.refl s
  refine .whenClocked ?_
  split
  · exact h.next
  · dsimp only
    split
    · exact h.next
    · exact .ite (Keeps.next (Keeps.like h rfl rfl rfl)) h.next

theorem execExchangeStoreLand_keeps : OutKeeps s (execExchangeStoreLand op s) := by
  have h := Keeps.refl s
  refine .whenClocked ?_
  split
  · exact h.next
  · exact .ite h.next h.updTeam.updDie.unbind.opEnded.next

/-! ## Tasks (spec/10 R292 to R296) -/

theorem Keeps.uniformRange {va align : Nat} {need : Need} {k : List Place → List TlbEntry → Res} (h : Keeps a c.s) (hk : ∀ ps es, (k ps es).Keeps a) :
    (uniformRange c va align n need k).Keeps a := by
  unfold Machine.uniformRange
  refine .ite trivial (.ite trivial ?_)
  split
  · trivial
  · trivial
  · exact .ite trivial (.ite h.killTeam (.ite trivial (hk _ _)))

theorem execSpawn_keeps {v : BitVec 7} : OutKeeps s (execSpawn g v s) :=
  issue_keeps fun _ h => .orIllopnd (.ite h (.ite trivial (h.uniformRange fun _ _ => .ite trivial (.afterRelease h.noteTlbs.publish))))

theorem execTsig_keeps {f : FmtAB} : OutKeeps s (execTsig f s) := by
  refine issue_keeps fun _ h => .orIllopnd (.ite h (h.uniformRange fun _ _ => .afterOps h fun _ _ h => .afterRelease ?_))
  exact h.noteTlbs.putNow

theorem twait_keeps {f : FmtU} {full : Bool} : OutKeeps s (twait s f full) :=
  issue_keeps fun _ h => .orIllopnd (.ite h (h.uniformRange fun _ _ => .ite h (.ite (.afterReads h.noteTlbs) h.noteTlbs)))

theorem execPreempt_keeps {i : BitVec 20} : OutKeeps s (execPreempt g i s) := issue_keeps fun _ h => .orIllopnd (.ite h h)

/-! ## Collective words (spec/13 R374 to R389) -/

theorem Keeps.passColl {y : Coll} (h : Keeps a s) : Keeps a (passColl s x y) :=
  .ite h.updFab.updGroup.settleColl.rehold (.ite h.updFab.updGroup.startColl h.updFab.updGroup)

theorem execColl_keeps {f : FmtAB} : OutKeeps s (execColl f s) := by
  refine issue_keeps fun c h => .orIllopnd (.ite h (.afterOps h fun c' _ h' => .orIllopnd (h.uniformRange fun _ es => ?_)))
  refine .ite trivial (.afterRelease (.orIllopnd ?_))
  dsimp only
  split
  · exact h'.noteTlbs (es := es)
  · refine .ite (h'.noteTlbs (es := es)) (Keeps.passColl (Keeps.commit (Keeps.advance ?_)))
    exact (h'.noteTlbs (es := es)).fresh

theorem execCwait_keeps {f : FmtU} : OutKeeps s (execCwait f s) := by
  refine issue_keeps fun _ h => .orIllopnd (.ite h (.afterOps h fun _ _ h' => .orIllopnd ?_))
  split
  · trivial
  · exact h
  · exact .afterReads h'
  · exact h'

theorem execViewq_keeps {f : FmtA} : OutKeeps s (execViewq f s) :=
  issue_keeps fun _ h => .orIllopnd (.ite h (.afterOps h fun _ _ h => .orIllop h))

theorem viewctl_keeps {d : BitVec 6} {v : BitVec 7} {body : Ctx → Ctx → Nat → Res} (hb : ∀ c0 c gn, Keeps s c0.s → Keeps s c.s → (body c0 c gn).Keeps s) :
    OutKeeps s (viewctl s g d v body) :=
  issue_keeps fun _ h => .ite trivial (.orIllopnd (.ite h (.afterOps h fun _ _ h' => hb _ _ _ h h')))

theorem Keeps.sendJoin {dests : List Nat} {leave : Bool} (h : Keeps a s) : Keeps a (sendJoin s x dests leave) := h.fold fun _ _ h => h.sendView

theorem execViewctlJoin_keeps {f : FmtU} : OutKeeps s (execViewctlJoin f s) := by
  refine viewctl_keeps fun _ c _ _ h => ?_
  split
  · exact .ite h h.sendJoin
  · dsimp only [Res.Keeps, Ctx.answer]
    exact h.updFab.sendJoin

theorem execViewctlLeave_keeps {f : FmtU} : OutKeeps s (execViewctlLeave f s) := by
  refine viewctl_keeps fun _ c _ _ h => ?_
  split
  · refine .ite h ?_
    dsimp only [Res.Keeps, Ctx.answer]
    exact h.updGroup.sendJoin
  · exact h

theorem execViewctlInit_keeps {d : BitVec 6} {v : BitVec 7} {b : BitVec 4} : OutKeeps s (execViewctlInit g d v b s) := by
  refine viewctl_keeps fun c0 c gn h0 h => ?_
  dsimp only
  split
  · split
    · exact .ite h (.ite h0 h)
    · exact h
  · refine h0.uniformRange fun _ es => .ite h.noteTlbs ?_
    split
    · exact h0.fresh.updFab.fold fun _ _ h => h.send
    · refine .ite h.noteTlbs ?_
      split
      · exact h0.fresh.dropGroup.updFab.fold fun _ _ h => h.send
      · exact .ite h0 (Keeps.dropGroup (h0.fold fun _ _ h => h.send))

end

end Sys2Proof.Machine
end

section

/-! PROOFS. That every instruction and every event leaves a canonical state canonical (spec/00 R2, spec/12 R330): most keep HBM canonical and the number of cores and clusters of any state; what clears the device gives it 24 cores and 6 clusters anew. -/

namespace Sys2Proof.Machine
open Sys2Proof.Claims

section

variable {a s : State} {n : Nat} {v : DWord}

/-! ## Outcomes of canonical states -/

theorem Keeps.canonical {s' : State} (h : Keeps s s') (hs : canonical s) : canonical s' := by
  obtain ⟨hhbm, hcores, hclusters⟩ := hs
  exact ⟨h.hbm hhbm, h.cores.trans hcores, h.clusters.trans hclusters⟩

/-- From a canonical state the outcome leaves a canonical state. -/
def OutCanonical (s : State) (o : Host.Outcome State Fault Refusal) : Prop := Claims.canonical s → ∀ s', o = .next s' → Claims.canonical s'

theorem OutKeeps.canonical {o : Host.Outcome State Fault Refusal} (h : OutKeeps s o) : OutCanonical s o := fun hs _ ho => (h _ ho).canonical hs

theorem OutCanonical.next {s' : State} (h : Claims.canonical s → Claims.canonical s') : OutCanonical s (.next s') := by
  rintro hs _ ⟨⟩
  exact h hs

theorem canonical_ite {p : Prop} [Decidable p] {x y : State} (hx : canonical x) (hy : canonical y) : canonical (if p then x else y) := by
  split
  · exact hx
  · exact hy

/-! ## What clears the device (spec/12 R341, R343) -/

/-- A cleared device has 24 cores and 6 clusters, and the HBM it had. -/
theorem clearDevice_canonical {keys : List (Nat × Nat)} {power : PowerState} (h : canonical s) : canonical (clearDevice s keys power) :=
  ⟨h.1, List.length_replicate, by simp [clearDevice, freshClusters]⟩

theorem goOff_canonical (h : canonical s) : canonical (goOff s) := clearDevice_canonical h

theorem requestPower_canonical (h : canonical s) : canonical (requestPower v s) := by
  unfold requestPower
  split
  · exact ((Keeps.refl s).updPkg (by intro; rfl)).canonical h
  · exact canonical_ite ((Keeps.refl s).goRetain.canonical h) h
  · exact goOff_canonical h
  · exact h

theorem writeLow_canonical (h : canonical s) : canonical (writeLow n v s) := by
  have hk := Keeps.refl s
  unfold writeLow
  split
  · exact requestPower_canonical h
  · exact ((hk.updPkg (by intro; rfl)).ite hk).canonical h
  · exact ((hk.updPkg (by intro; rfl)).ite hk).canonical h
  · exact ((hk.updPkg (by intro; rfl)).ite hk).canonical h
  · exact ((hk.updPkg (by intro; rfl)).ite hk).canonical h
  · exact (Keeps.ite hk.dropTlb (hk.dropTlb.ite hk)).canonical h
  · exact h

theorem writeBar0_canonical (h : canonical s) : canonical (writeBar0 n v s) := by
  have hk := Keeps.refl s
  refine canonical_ite h (canonical_ite (writeLow_canonical h) (Keeps.canonical ?_ h))
  exact .ite hk.writeJobWord (.ite hk.writeCmdWord (.ite hk.writeRingWord (.ite (hk.updPkg (by intro; rfl)) (.ite (hk.updPkg (by intro; rfl))
    (.ite (.ite hk.installKey (.ite hk.emptyKey hk)) (.ite hk.writeFabric (.ite hk.writeDebug hk)))))))

theorem hostEvent_canonical {f : State → State} (hf : ∀ s', canonical s' → canonical (f s')) : OutCanonical s (hostEvent s f) :=
  .next fun h => canonical_ite h (hf _ ((Keeps.refl s).hostTouch.canonical h))

theorem execPwrstateWrite_canonical : OutCanonical s (execPwrstateWrite v s) := hostEvent_canonical fun _ h => requestPower_canonical h
theorem execBar0RegisterWrite_canonical : OutCanonical s (execBar0RegisterWrite n v s) := hostEvent_canonical fun _ h => writeBar0_canonical h
theorem execModuleReset_canonical : OutCanonical s (execModuleReset s) := .next fun h => canonical_ite h (clearDevice_canonical h)
theorem execPowerOff_canonical : OutCanonical s (execPowerOff s) := .next fun h => canonical_ite h (goOff_canonical h)
theorem execThermalTrip_canonical : OutCanonical s (execThermalTrip n s) :=
  .next fun h => canonical_ite h (goOff_canonical (((Keeps.refl s).updPkg (by intro; rfl)).canonical h))

/-! ## Every instruction -/

theorem execSel_keeps {f : FmtA} : OutKeeps s (execSel f s) := issue_keeps fun _ h => .orIllopnd (.afterOps h fun _ _ h => h)
theorem execLea_keeps {f : FmtA} : OutKeeps s (execLea f s) := issue_keeps fun _ h => .orIllopnd (.afterOps h fun _ _ h => h)
theorem execBra_keeps {f : FmtC} : OutKeeps s (execBra f s) := issue_keeps fun _ h => h.transfer
theorem execCall_keeps {f : FmtC} : OutKeeps s (execCall f s) := by
  refine issue_keeps fun _ h => ?_
  exact Keeps.transfer h
theorem execRet_keeps {g : BitVec 4} : OutKeeps s (execRet g s) := issue_keeps fun _ h => h.jumpLanes

/-- Every instruction and every event leaves a canonical state canonical. -/
theorem exec_canonical (i : Instr) : OutCanonical s (exec i s) := by
  cases i <;> dsimp only [exec]
  case pwrstateWrite => exact execPwrstateWrite_canonical
  case bar0RegisterWrite => exact execBar0RegisterWrite_canonical
  case moduleReset => exact execModuleReset_canonical
  case powerOff => exact execPowerOff_canonical
  case thermalTrip => exact execThermalTrip_canonical
  all_goals refine OutKeeps.canonical ?_
  case iaddI32 | isubI32 | imulI32 | imulhiI32 | imulhiN32 | imadI32 | iaddI64 | isubI64 | iminI32 | iminN32 | imaxI32 | imaxN32 | iabsI32 |
      iaddsI32 | isubsI32 | idivN32 | and | or | xor | andn | not | shl | shrN32 | shrI32 | popc | clz | brev | bfx | bfi | leas | faddF32 |
      fsubF32 | fmulF32 | ffmaF32 | fminF32 | fmaxF32 | fabsF32 | fnegF32 | faddH2 | fmulH2 | ffmaH2 | fminH2 | fmaxH2 | faddB2 | fmulB2 |
      ffmaB2 | frcp | frsq | fsqrt | fdiv | fexp2 | flog2 | fsinpi | fcospi | ftanh | fscale | frnd | fdot2H | fdot4E4 | fdot4E5 | keyf |
      ballot | lpeer | mov | mov64 | cvt | cvtpkH2 | cvtpkB2 | cvtpkE4 | cvtpkE5 | qpk4 | qupk4 | qscale | requant | splitq | clock => exact
      laneForm_keeps
  case sel => exact execSel_keeps
  case lea => exact execLea_keeps
  case fclass | plop => exact predForm_keeps
  case icmpI32 | icmpN32 | icmpI64 => exact intCompare_keeps
  case fcmpF32 | fcmpH => exact compareForm_keeps
  case vote => exact execVote_keeps
  case lpick | lmirr | lrot | lshift => exact laneMoveV_keeps
  case lfold => exact execLfold_keeps
  case swr => exact execSwr_keeps
  case rdlane => exact execRdlane_keeps
  case qpush => exact execQpush_keeps
  case qpop => exact execQpop_keeps
  case qtry => exact execQtry_keeps
  case qpeek => exact execQpeek_keeps
  case qskip => exact execQskip_keeps
  case qflush => exact execQflush_keeps
  case qstat => exact execQstat_keeps
  case qeos => exact execQeos_keeps
  case qeosTest => exact execQeosTest_keeps
  case rwait => exact execRwait_keeps
  case rrel | rset => exact setForm_keeps
  case ldr => exact execLdr_keeps
  case str => exact execStr_keeps
  case ldB8n | ldB8i | ldB16n | ldB16i | ldB32 | ldB64 | ldB128 => exact loadForm_keeps
  case stB8 | stB16 | stB32 | stB64 | stB128 => exact storeForm_keeps
  case ldqB32 | ldqB64 | ldqB16 => exact ldqForm_keeps
  case stqB32 | stqB64 | stqB16 => exact stqForm_keeps
  case ldfe => exact execLdfe_keeps
  case stfe => exact execStfe_keeps
  case pref => exact execPref_keeps
  case discard => exact execDiscard_keeps
  case wback => exact execWback_keeps
  case fence => exact execFence_keeps
  case stream => exact execStream_keeps
  case aaddI32 | aaddI64 | aaddF32 | aaddB2 | aminI32 | aminN32 | amaxI32 | amaxN32 | aand | aor | axor | axchB32 | axchB64 | acasB32 |
      acasB64 | aincb => exact atomicForm_keeps
  case bra => exact execBra_keeps
  case bru => exact execBru_keeps
  case call => exact execCall_keeps
  case ret => exact execRet_keeps
  case jmpi => exact execJmpi_keeps
  case mergeat => exact execMergeat_keeps
  case merge => exact execMerge_keeps
  case yield => exact execYield_keeps
  case exit => exact execExit_keeps
  case bar => exact execBar_keeps
  case bara => exact execBara_keeps
  case cbar => exact execCbar_keeps
  case sleep => exact execSleep_keeps
  case nop => exact execNop_keeps
  case gang => exact execGang_keeps
  case mma | mmax | mxt | mxp | mxs => exact matrixForm_keeps
  case czero => exact execCzero_keeps
  case cread => exact execCread_keeps
  case cwrite => exact execCwrite_keeps
  case cdrain => exact execCdrain_keeps
  case mwait => exact execMwait_keeps
  case ofence => exact execOfence_keeps
  case tkpass => exact execTkpass_keeps
  case tkwait => exact execTkwait_keeps
  case planes => exact execPlanes_keeps
  case slay => exact execSlay_keeps
  case sfill | sdrain => exact commandForm_keeps
  case swait => exact execSwait_keeps
  case regroup | ungroup => exact regroupForm_keeps
  case spawn => exact execSpawn_keeps
  case tsig => exact execTsig_keeps
  case twaitFull | twaitEmpty => exact twait_keeps
  case preempt => exact execPreempt_keeps
  case rldB32 | rldB64 | rstB32 | rstB64 | raaddI64 | racasB64 => exact remoteForm_keeps
  case rldqB32 | rldqB64 => exact rldqForm_keeps
  case xldq => exact execXldq_keeps
  case mcst => exact execMcst_keeps
  case coll => exact execColl_keeps
  case cwait => exact execCwait_keeps
  case viewq => exact execViewq_keeps
  case rfence => exact execRfence_keeps
  case viewctlJoin => exact execViewctlJoin_keeps
  case viewctlLeave => exact execViewctlLeave_keeps
  case viewctlInit => exact execViewctlInit_keeps
  case trap => exact execTrap_keeps
  case bkpt => exact execBkpt_keeps
  case rdsr => exact execRdsr_keeps
  case wrsr => exact execWrsr_keeps
  case rett => exact execRett_keeps
  case egrel => exact execEgrel_keeps
  case tlbinvJob | tlbinvPage | tlbinvAll => exact tlbinv_keeps
  case icinvCore => exact execIcinvCore_keeps
  case icinvDevice => exact execIcinvDevice_keeps
  case haltt => exact execHaltt_keeps
  case clause => exact execClause_keeps
  case immL | immH => exact immWord_keeps
  case reservedOpcode => exact execReservedOpcode_keeps
  case splitRotation => exact execSplitRotation_keeps
  case sleepWake => exact execSleepWake_keeps
  case loadComplete => exact execLoadComplete_keeps
  case storePerformed => exact execStorePerformed_keeps
  case ldqLanding => exact execLdqLanding_keeps
  case qdeadTimeout => exact execQdeadTimeout_keeps
  case pageRequestEnter => exact execPageRequestEnter_keeps
  case pageAnswer => exact execPageAnswer_keeps
  case boundaryMove => exact execBoundaryMove_keeps
  case eccUncorrectable => exact execEccUncorrectable_keeps
  case streamStoreRelease => exact execStreamStoreRelease_keeps
  case matrixGrant => exact execMatrixGrant_keeps
  case passComplete => exact execPassComplete_keeps
  case runnelCommandStart => exact execRunnelCommandStart_keeps
  case fillGranuleLand => exact execFillGranuleLand_keeps
  case sdrainWritesDone => exact execSdrainWritesDone_keeps
  case cdrainGranuleWrite => exact execCdrainGranuleWrite_keeps
  case cbarSwap => exact execCbarSwap_keeps
  case exchangeStoreLand => exact execExchangeStoreLand_keeps
  case columnGroupRepair => exact execColumnGroupRepair_keeps
  case taskPublish => exact execTaskPublish_keeps
  case sluiceWriteReport => exact execSluiceWriteReport_keeps
  case taskDispatch => exact execTaskDispatch_keeps
  case placementWindow => exact execPlacementWindow_keeps
  case taskComplete => exact execTaskComplete_keeps
  case forcedSaveBound => exact execForcedSaveBound_keeps
  case saveStart => exact execSaveStart_keeps
  case frameComplete => exact execFrameComplete_keeps
  case teamRestore => exact execTeamRestore_keeps
  case jobStop => exact execJobStop_keeps
  case trapDelivery => exact execTrapDelivery_keeps
  case remoteFaultDelivery => exact execRemoteFaultDelivery_keeps
  case mcastpartDelivery => exact execMcastpartDelivery_keeps
  case instructionFetch => exact execInstructionFetch_keeps
  case coreRetire => exact execCoreRetire_keeps
  case hbmChannelSpare => exact execHbmChannelSpare_keeps
  case hostMemoryAccess => exact execHostMemoryAccess_keeps
  case egressWindowRead => exact execEgressWindowRead_keeps
  case tlbcmdDropJob => exact execTlbcmdDropJob_keeps
  case tlbcmdDropAll => exact execTlbcmdDropAll_keeps
  case jobslotValidate => exact execJobslotValidate_keeps
  case jobslotInvalidate => exact execJobslotInvalidate_keeps
  case cmdqStart => exact execCmdqStart_keeps
  case cmdqResume => exact execCmdqResume_keeps
  case cmdqStop => exact execCmdqStop_keeps
  case cmdqNotify => exact execCmdqNotify_keeps
  case phaseReread => exact execPhaseReread_keeps
  case cmdPublish => exact execCmdPublish_keeps
  case cmdStopJob => exact execCmdStopJob_keeps
  case cmdResumeJob => exact execCmdResumeJob_keeps
  case cmdDiscardJob => exact execCmdDiscardJob_keeps
  case keyInstall => exact execKeyInstall_keeps
  case keyEmpty => exact execKeyEmpty_keeps
  case egringOpen => exact execEgringOpen_keeps
  case egringClose => exact execEgringClose_keeps
  case egringHcurWrite => exact execEgringHcurWrite_keeps
  case dbgReqOff => exact execDbgReqOff_keeps
  case dbgReqObserve => exact execDbgReqObserve_keeps
  case dbgReqHalt => exact execDbgReqHalt_keeps
  case dbghalt => exact execDbghalt_keeps
  case dbgresume => exact execDbgresume_keeps
  case lifecycleOwn => exact execLifecycleOwn_keeps
  case lifecycleLock => exact execLifecycleLock_keeps
  case lifecycleUnlock => exact execLifecycleUnlock_keeps
  case attestationReport => exact execAttestationReport_keeps
  case boot => exact execBoot_keeps
  case selfTestDone => exact execSelfTestDone_keeps
  case idleEntry => exact execIdleEntry_keeps
  case idleWake => exact execIdleWake_keeps
  case thermalGate => exact execThermalGate_keeps
  case portTraining => exact execPortTraining_keeps
  case linkRekey => exact execLinkRekey_keeps
  case windowReceive => exact execWindowReceive_keeps
  case windowPadTimeout => exact execWindowPadTimeout_keeps
  case wavelengthSpare => exact execWavelengthSpare_keeps
  case rankDownNotice => exact execRankDownNotice_keeps
  case cgroupWrite => exact execCgroupWrite_keeps
  case remoteRequest => exact execRemoteRequest_keeps
  case remoteResponse => exact execRemoteResponse_keeps
  case remoteRequestLost => exact execRemoteRequestLost_keeps
  case multicastComplete => exact execMulticastComplete_keeps
  case ueRmaRequest => exact execUeRmaRequest_keeps
  case uewinOpen => exact execUewinOpen_keeps
  case uewinClose => exact execUewinClose_keeps
  case ueReadResponse => exact execUeReadResponse_keeps
  case collectivePacket => exact execCollectivePacket_keeps
  case cstepTimeout => exact execCstepTimeout_keeps
  case suspect => exact execSuspect_keeps
  case propose => exact execPropose_keeps
  case accept => exact execAccept_keeps
  case commit => exact execCommit_keeps
  case agreeTimeout => exact execAgreeTimeout_keeps
  case joinRequest => exact execJoinRequest_keeps
  case collectiveComplete => exact execCollectiveComplete_keeps
  case initAgreement => exact execInitAgreement_keeps
  case darkLink => exact execDarkLink_keeps
  case packetDeliveryContextFail => exact execPacketDeliveryContextFail_keeps

end

end Sys2Proof.Machine
end

section

/-! PROOFS. That a step of the machine, whatever its turn, leaves a canonical state canonical: O59 (spec/00 R2, spec/12 R330, notes/assumptions/2.md, 4.md). -/

namespace Sys2Proof.Machine
open Sys2Proof.Claims

section

variable {a s s0 : State} {id wi slot core : Nat} {run : Instr → State → Host.Outcome State Fault Refusal} {x y : Host.Outcome State Fault Refusal}

theorem OutCanonical.ite {p : Prop} [Decidable p] (hx : OutCanonical s x) (hy : OutCanonical s y) : OutCanonical s (if p then x else y) := by
  split
  · exact hx
  · exact hy

theorem Keeps.outCanonical {s' : State} (h : Keeps s s') : OutCanonical s (.next s') := h.next.canonical

/-- What leaves a canonical state canonical does so after a step that keeps. -/
theorem OutCanonical.after {s' : State} (h : OutCanonical s' x) (hk : Keeps s s') : OutCanonical s x := fun hs => h (hk.canonical hs)

/-- A run of instructions leaves canonical states canonical. -/
def Sound (run : Instr → State → Host.Outcome State Fault Refusal) : Prop := ∀ i s, OutCanonical s (run i s)

/-! ## Turns of live slots (notes/assumptions/2.md) -/

theorem issueSlot_canonical (hr : Sound run) : OutCanonical s (issueSlot run s id wi slot) := by
  have h := Keeps.refl s
  unfold issueSlot
  split
  · exact h.outCanonical
  · split
    · exact h.outCanonical
    · split
      · exact h.outCanonical
      · refine .ite h.outCanonical ?_
        dsimp only
        split
        · exact Keeps.outCanonical (Keeps.deliverFault h)
        · exact Keeps.outCanonical (Keeps.deliverMcast h)
        · split
          · exact Keeps.outCanonical (Keeps.takeTrap h)
          · exact (switchOutTeam_keeps ..).outCanonical
          · exact (hr _ _).after ((noteFetch_keeps ..).like rfl rfl rfl)

theorem Keeps.blockUnit {c : Ctx} {n : Nat} (h : Keeps a c.s) : Keeps a (blockUnit c n) := h.trans (blockUnit_keeps c n)

theorem missSlot_canonical (hr : Sound run) : OutCanonical s (missSlot run s id wi slot) := by
  have h := Keeps.refl s
  unfold missSlot
  split
  · exact h.outCanonical
  · split
    · exact h.outCanonical
    · dsimp only
      split
      · exact .ite (Keeps.outCanonical (Keeps.blockUnit h)) (issueSlot_canonical hr)
      · exact issueSlot_canonical hr

theorem Keeps.afterReport {drain : Option Nat} (h : Keeps a s) : Keeps a (afterReport s id wi drain) := h.updTeam
theorem Keeps.secondEffects {s2 : State} {drain : Option Nat} (h : Keeps a s) : Keeps a (secondEffects s s2 id drain) := by
  unfold Machine.secondEffects
  split
  · exact h
  · exact .ite h h.updCore.updTeam
theorem Keeps.recordSecond {s2 : State} {b : Split} {drain : Option Nat} (h : Keeps a s) : Keeps a (recordSecond s s2 id wi b drain) := by
  unfold Machine.recordSecond
  split
  · exact h
  · exact h.updTeam

theorem issuePair_canonical (hr : Sound run) : OutCanonical s (issuePair run s id wi) := by
  intro hs
  unfold issuePair
  split
  · exact issueSlot_canonical hr hs
  · dsimp only
    split
    · rename_i s1 h1
      have hs1 := issueSlot_canonical hr hs _ h1
      split
      · rename_i s2 h2
        have hold (swap : Prop) [Decidable swap] := canonical_ite (p := swap) (issueSlot_canonical hr hs _ h2) hs1
        refine OutCanonical.ite (s := s) ?_ (OutCanonical.ite (.next fun _ => hs1) (fun _ => issueSlot_canonical hr hs1)) hs
        intro _
        split
        · rename_i young hyoung
          refine OutCanonical.ite (s := s) (fun _ => issueSlot_canonical hr (hold _)) (fun _ => ?_) hs
          split
          · rename_i old' hold'
            have hboth := issueSlot_canonical hr ((Keeps.refl s).secondEffects.canonical hs) _ hold'
            exact OutCanonical.next (fun _ => (Keeps.refl _).recordSecond.canonical (canonical_ite hboth (hold _))) hs
          · exact issueSlot_canonical hr ((Keeps.refl s).secondEffects.canonical hs)
        · exact issueSlot_canonical hr ((Keeps.refl s).afterReport.canonical hs)
      · exact issueSlot_canonical hr hs
    · exact issueSlot_canonical hr hs

/-! ## Turns of the machine -/

/-- An event keeps in every state. -/
def EventKeeps (e : Event) : Prop := ∀ s, OutKeeps s (e s)

theorem EventKeeps.ite {p : Prop} [Decidable p] {e f : Event} (he : EventKeeps e) (hf : EventKeeps f) : EventKeeps (if p then e else f) := by
  split
  · exact he
  · exact hf

/-- Every event of a list keeps. -/
def EventsKeep (l : List Event) : Prop := ∀ e ∈ l, EventKeeps e

theorem EventsKeep.nil : EventsKeep [] := fun _ h => nomatch h
theorem EventsKeep.cons {e : Event} {l : List Event} (he : EventKeeps e) (hl : EventsKeep l) : EventsKeep (e :: l) := List.forall_mem_cons.mpr ⟨he, hl⟩
theorem EventsKeep.append {l m : List Event} (hl : EventsKeep l) (hm : EventsKeep m) : EventsKeep (l ++ m) := List.forall_mem_append.mpr ⟨hl, hm⟩
theorem EventsKeep.map {α : Type} {f : α → Event} {l : List α} (h : ∀ x, EventKeeps (f x)) : EventsKeep (l.map f) :=
  List.forall_mem_map.mpr fun x _ => h x
theorem EventsKeep.flatMap {α : Type} {f : α → List Event} {l : List α} (h : ∀ x, EventsKeep (f x)) : EventsKeep (l.flatMap f) := by
  intro e he
  obtain ⟨x, -, hx⟩ := List.mem_flatMap.mp he
  exact h x e hx
theorem EventsKeep.filterMap {α : Type} {f : α → Option Event} {l : List α} (h : ∀ x e, f x = some e → EventKeeps e) : EventsKeep (l.filterMap f) := by
  intro e he
  obtain ⟨x, -, hx⟩ := List.mem_filterMap.mp he
  exact h x e hx
theorem EventsKeep.ite {p : Prop} [Decidable p] {l m : List Event} (hl : EventsKeep l) (hm : EventsKeep m) : EventsKeep (if p then l else m) := by
  split
  · exact hl
  · exact hm

theorem Keeps.fetchArrives {p : Split} (h : Keeps a s) : Keeps a (fetchArrives id p s) := by
  unfold Machine.fetchArrives
  split
  · exact h
  · split
    · exact .ite h (h.trans (noteFetch_keeps ..))
    · exact h

/-- An event that a filter lets through. -/
theorem EventsKeep.filterIf {α : Type} {p : α → Prop} [DecidablePred p] {f : α → Event} {l : List α} (h : ∀ x, EventKeeps (f x)) :
    EventsKeep (l.filterMap (fun x => if p x then some (f x) else none)) := by
  refine .filterMap fun x e he => ?_
  split at he
  · cases he
    exact h x
  · cases he

theorem operationEvents_keep : EventsKeep (operationEvents s) := by
  unfold operationEvents
  repeat' apply EventsKeep.append
  · exact .map fun _ _ => execLoadComplete_keeps
  · exact .flatMap fun _ => .map fun _ => .ite (fun _ => execStreamStoreRelease_keeps) (fun _ => execStorePerformed_keeps)
  · exact .map fun _ _ => execExchangeStoreLand_keeps
  · exact .flatMap fun _ => .map fun _ _ => execCdrainGranuleWrite_keeps
  · exact .flatMap fun _ => .append (.map fun _ _ => execPassComplete_keeps) (.ite .nil (.cons (fun _ => execMatrixGrant_keeps) .nil))
  · refine .flatMap fun _ => .flatMap fun _ => ?_
    split
    · exact .nil
    · exact .append (.map fun _ _ => execFillGranuleLand_keeps)
        (.cons (fun _ => execSdrainWritesDone_keeps) (.cons (fun _ => execRunnelCommandStart_keeps) .nil))
  · exact .flatMap fun _ => .flatMap fun _ => .flatMap fun _ => .filterIf fun _ _ => execLdqLanding_keeps
  · exact .flatMap fun _ => .map fun _ _ => execRemoteRequest_keeps
  · exact .map fun _ s => (Keeps.refl s).fetchArrives.next
  · exact .map fun _ _ => execMulticastComplete_keeps
  · exact .filterIf fun _ _ => execInitAgreement_keeps
  · exact .map fun _ _ => execCollectiveComplete_keeps
  · exact .map fun _ _ => execCbarSwap_keeps

theorem dispatcherEvents_keep : EventsKeep (dispatcherEvents s) := by
  unfold dispatcherEvents
  repeat' apply EventsKeep.append
  · exact .filterIf fun _ _ => execTaskPublish_keeps
  · exact .filterIf fun _ _ => execSluiceWriteReport_keeps
  · exact .map fun _ _ => execTaskDispatch_keeps
  · exact .map fun _ _ => execTaskComplete_keeps
  · exact .map fun _ _ => execJobStop_keeps
  · refine .flatMap fun _ => ?_
    split
    · exact .ite (.cons (fun _ => execSaveStart_keeps) (.cons (fun _ => execForcedSaveBound_keeps) .nil)) .nil
    · exact .cons (fun _ => execFrameComplete_keeps) .nil
    · exact .cons (fun _ => execTeamRestore_keeps) .nil
    · exact .nil
  · exact .filterIf fun _ _ => execBoundaryMove_keeps
  · exact .map fun _ _ => execPlacementWindow_keeps
  · refine .filterMap fun c e he => ?_
    split at he
    · cases he
    · cases he
      exact fun _ => execPageRequestEnter_keeps

theorem timedEvents_keep : EventsKeep (timedEvents s) := by
  unfold timedEvents
  repeat' apply EventsKeep.append
  · exact .flatMap fun _ => .cons (fun _ => execCmdPublish_keeps) (.cons (fun _ => execCmdStopJob_keeps)
      (.cons (fun _ => execCmdResumeJob_keeps) (.cons (fun _ => execCmdDiscardJob_keeps) (.cons (fun _ => execPhaseReread_keeps) .nil))))
  · exact .map fun _ _ => execQdeadTimeout_keeps
  · exact .flatMap fun _ => .map fun _ _ => execRemoteRequestLost_keeps
  · exact .map fun _ _ => execAgreeTimeout_keeps
  · exact .flatMap fun _ => .map fun _ _ => execCstepTimeout_keeps
  · exact .map fun _ _ => execWindowPadTimeout_keeps
  · exact .cons (fun _ => execIdleEntry_keeps) .nil

theorem firstEvent_keeps {l : List Event} {s' : State} (hl : EventsKeep l) (h : firstEvent s l = some s') : Keeps s s' := by
  induction l with
  | nil => cases h
  | cons e r ih =>
    obtain ⟨he, hr⟩ := List.forall_mem_cons.mp hl
    unfold firstEvent at h
    cases ho : e s with
    | next t =>
      rw [ho] at h
      dsimp only at h
      split at h
      · exact ih hr h
      · cases h
        exact he s _ ho
    | fault f =>
      rw [ho] at h
      exact ih hr h
    | refused r =>
      rw [ho] at h
      exact ih hr h

theorem internalEvent_keeps {s' : State} (h : internalEvent s = some s') : Keeps s s' :=
  firstEvent_keeps ((operationEvents_keep.append dispatcherEvents_keep).append timedEvents_keep) h

theorem defaultTurn_canonical (hr : Sound run) : OutCanonical s (defaultTurn run s) := by
  unfold defaultTurn
  split
  · exact issueSlot_canonical hr
  · split
    · rename_i s' hs
      exact (internalEvent_keeps hs).outCanonical
    · dsimp only
      split
      · exact (issueSlot_canonical hr).after ((Keeps.refl s).like rfl rfl rfl)
      · exact (Keeps.refl s).outCanonical

theorem takeTurn_canonical (hr : Sound run) (t : Turn) : OutCanonical s (takeTurn run s t) := by
  cases t with
  | event i => exact hr i s
  | corrected e => exact (Keeps.refl s).correctError.outCanonical
  | issue t w i => exact issueSlot_canonical hr
  | issueLate t w i => exact (issueSlot_canonical hr).after ((Keeps.refl s).like rfl rfl rfl)
  | fetchMiss t w i => exact missSlot_canonical hr
  | pair t w => exact issuePair_canonical hr
  | evict tag => exact (writeBackLine_keeps s tag).outCanonical
  | tick n => exact (cycles_keeps s n).outCanonical

/-! ## Settling (notes/assumptions/2.md) -/

theorem Keeps.wakeBlocked (h : Keeps a s) : Keeps a (wakeBlocked run s) := by
  refine h.fold fun s t h => .ite h (h.fold fun s x h => h.fold fun s p h => ?_)
  exact .ite h.updTeam h

theorem Keeps.drainL1 {n : Nat} (h : Keeps a s) : Keeps a (drainL1 core n s) := by
  induction n generalizing s with
  | zero => exact h
  | succ n ih =>
    unfold Machine.drainL1
    refine .ite h ?_
    split
    · exact h
    · exact ih h.performStore.opEnded

theorem Keeps.evictL1 (h : Keeps a s) : Keeps a (evictL1 s) := h.fold fun _ _ h => h.drainL1
theorem Keeps.evictSlice {n : Nat} (h : Keeps a s) : Keeps a (evictSlice s n) := h.fold fun _ _ h => h.writeBackLine
theorem Keeps.evictL2 (h : Keeps a s) : Keeps a (evictL2 s) := .ite h (h.fold fun _ _ h => h.evictSlice)
theorem Keeps.settle (h : Keeps a s) : Keeps a (settle run s0 s) :=
  Keeps.evictL2 (Keeps.evictL1 (Keeps.mirror (Keeps.wakeBlocked (Keeps.releaseAll (h.like rfl rfl rfl)))))

/-! ## The step -/

theorem Keeps.cycles {n : Nat} (h : Keeps a s) : Keeps a (cycles s n) := h.trans (cycles_keeps s n)

theorem stepWith_canonical (hr : Sound run) : OutCanonical s (stepWith run s) := by
  have hclock : Keeps s (Machine.cycles { s with cur := none } 1) := Keeps.cycles ((Keeps.refl s).like rfl rfl rfl)
  have hturn : OutCanonical s (match (Machine.cycles { s with cur := none } 1).agenda with
      | turn :: rest => takeTurn run { Machine.cycles { s with cur := none } 1 with agenda := rest } turn
      | [] => defaultTurn run (Machine.cycles { s with cur := none } 1)) := by
    split
    · exact (takeTurn_canonical hr _).after (hclock.like rfl rfl rfl)
    · exact (defaultTurn_canonical hr).after hclock
  intro hs s' h
  unfold stepWith at h
  dsimp only at h
  split at h
  · rename_i t ht
    cases h
    exact (Keeps.refl t).settle.canonical (hturn hs t ht)
  · exact hturn hs s' h

end

/-- Settles O59: every instruction and every event leaves a canonical state canonical, and so do the clock before the turn and the settling after it. -/
theorem stepKeepsCanonical : Obligations.StepKeepsCanonical := fun _ s' hs h => stepWith_canonical (fun i _ => exec_canonical i) hs s' h

end Sys2Proof.Machine
end
